-- ==== Sys2Proof/Word.lean ====
section
/-!
DEFINITION. The word types of the device and its generic plain-data table.
-/
namespace Sys2Proof

abbrev Byte := BitVec 8
abbrev W32 := BitVec 32
abbrev W64 := BitVec 64
abbrev W128 := BitVec 128

/-- A table keyed by a number: pairs of key and value with strictly rising keys.  A key that is not listed holds the
default that the reader of the table names.  `Tbl.put` (Machine/Cells.lean) never lists an entry equal to that default,
so equal tables are equal data. -/
abbrev Tbl (α : Type) := List (Nat × α)

end Sys2Proof
end

