-- ==== Sys2Proof/Syntax.lean ====
section
/-!
DEFINITION. The instructions and events of the Qorfy Q7: one constructor of `Instr` per row of the opcode table.
A slot instruction carries the decoded fields of its form (R202 to R209) and of the 32-bit word that stands before it
(R211).  An event of the device (a row that no slot encodes) carries what selects it.
-/
namespace Sys2Proof

/-- The element types, by the TYPE code of R202. -/
inductive ElemType where
  | n8 | n16 | n32 | n64 | s8 | s16 | s32 | s64 | f16 | bf16 | f32 | f64 | lg8 | lg6
  deriving DecidableEq, Repr

/-- The operand space of a 9-bit operand field (R203).  `reserved` keeps the value of a code from 340 to 511, which
decodes and raises the illegal-operand fault when the slot issues. -/
inductive Operand where
  | v (r : BitVec 8)
  | s (r : BitVec 6)
  | l (r : BitVec 2)
  | q (r : BitVec 4)
  | reserved (x : BitVec 9)
  deriving DecidableEq, Repr

/-- The 32-bit word that applies to one instruction slot (R211); all zero is no such word. -/
structure Pfx where
  d4   : Option Operand
  rnd  : BitVec 3
  zpol : Bool
  wm   : BitVec 3
  deriving DecidableEq, Repr

/-- The word of 32 zero bits (R211). -/
def Pfx.none : Pfx := { d4 := Option.none, rnd := 0, zpol := false, wm := 0 }

/-- The V-form (R202, R204).  An untyped opcode has TYPE code 0, which reads as `n8`. -/
structure VForm where
  ty  : ElemType
  var : BitVec 2
  pg  : BitVec 3
  pn  : Bool
  nw  : Bool
  dst : Operand
  sa  : Operand
  sb  : Operand
  sc  : Operand
  x   : BitVec 9
  pfx : Pfx
  deriving DecidableEq, Repr

/-- The I-form (R205). -/
structure IForm where
  ty  : ElemType
  var : BitVec 2
  pg  : BitVec 3
  pn  : Bool
  nw  : Bool
  dst : Operand
  imm : W32
  pfx : Pfx
  deriving DecidableEq, Repr

/-- The M-form (R206).  `idx` is none for the code 0x1FF; `hint` is FN[51:50]. -/
structure MForm where
  ty    : ElemType
  hint  : BitVec 2
  pg    : BitVec 3
  pn    : Bool
  nw    : Bool
  data  : Operand
  cap   : BitVec 4
  idx   : Option Operand
  ofs   : BitVec 16
  scope : BitVec 4
  ord   : BitVec 2
  pfx   : Pfx
  deriving DecidableEq, Repr

/-- The B-form (R207); FN, PG, PN and NW are zero in it. -/
structure BForm where
  target : BitVec 16
  join   : BitVec 16
  kc     : BitVec 3
  kn     : Bool
  bmode  : BitVec 2
  cnt    : BitVec 6
  deriving DecidableEq, Repr

/-- The Q-form (R208). -/
structure QForm where
  ty   : ElemType
  var  : BitVec 2
  pg   : BitVec 3
  pn   : Bool
  nw   : Bool
  qd   : BitVec 4
  cap  : BitVec 4
  desc : Operand
  semv : Bool
  sem  : BitVec 5
  inc  : BitVec 8
  arg  : Operand
  pfx  : Pfx
  deriving DecidableEq, Repr

/-- The S-form (R209). -/
structure SForm where
  pg  : BitVec 3
  pn  : Bool
  nw  : Bool
  dst : Operand
  sa  : Operand
  sel : BitVec 12
  imm : BitVec 15
  pfx : Pfx
  deriving DecidableEq, Repr

/-- The two path slots of a group (R37). -/
inductive PathSlot where
  | s0 | s1
  deriving DecidableEq, Repr

/-- One engine of the package (R109): its kind is its input port, `unit` its number within the package
(core for the ray unit, pair for the pair's engines, 4 × die + n for the copy engines, die for the die's engines). -/
inductive EngineKind where
  | matrix | copy | ray | reuse | light | resurvey | collective | geometry
  deriving DecidableEq, Repr

structure EngineRef where
  kind : EngineKind
  unit : Nat
  deriving DecidableEq, Repr

/-- Where a matrix-engine reset comes from (R431): the MXRST register of physical function 0, or the debug port. -/
inductive ResetSource where
  | mxrst (value : W64)
  | debugPort (pair : Nat)
  deriving DecidableEq, Repr

/-- The states of a power island (R450). -/
inductive IslandState where
  | active | gated | off
  deriving DecidableEq, Repr

/-- Who reads a snapshot register (R449 to R451). -/
inductive SnapReader where
  | debugPort | firmware | vf (n : Nat)
  deriving DecidableEq, Repr

/-- Who writes a breakpoint register (R429). -/
inductive DebugWriter where
  | debugPort | vf (n : Nat)
  deriving DecidableEq, Repr

/-- The lifecycle states in their order (R447). -/
inductive Lifecycle where
  | blank | provisioned | production | returnAnalysis
  deriving DecidableEq, Repr

/-- The debug states (R448). -/
inductive DebugState where
  | off | selfHosted | invasive
  deriving DecidableEq, Repr

/-- The kinds of configuration record that the manual names (R439, R441, R442, R443, R447, R448). -/
inductive RecordKind where
  | boot | domain | provisioning | certificate | lifecycle | debug | other (n : Nat)
  deriving DecidableEq, Repr

/-- A signed configuration record (R442): kind, sequence number and payload, with its signature bytes. -/
structure ConfigRecord where
  kind      : RecordKind
  seq       : Nat
  payload   : List Byte
  owner     : Bool
  signature : List Byte
  deriving DecidableEq, Repr

/-- A debug token (R448): the identity KEYID, the requested state, the nonce, and the signature bytes. -/
structure DebugToken where
  keyid     : W64
  state     : DebugState
  nonce     : BitVec 256
  owner     : Bool
  signature : List Byte
  deriving DecidableEq, Repr

/-- A storage error that the hardware detects (R105).  `one` is a single-bit error. -/
inductive StorageError where
  | l1Line (core line : Nat) (one : Bool)
  | l2Line (line : Nat) (one : Bool)
  | loopBuffer (core : Nat)
  | tile (parcel handle sector : Nat) (one : Bool)
  | register (g : Nat) (r lane : Nat) (one : Bool)
  | pinnedLog (parcel record : Nat) (one : Bool)
  | reservoir (vf die record : Nat) (one : Bool)
  | hbm (sector : Nat) (one : Bool)
  deriving DecidableEq, Repr

/-- A host access over CXL.mem (R434). -/
inductive HostAccess where
  | read (n : Nat)
  | write (data : List Byte)
  deriving DecidableEq, Repr

/-- A coherence request of the host for a line of host memory (R434). -/
inductive SnoopKind where
  | readShared
  | readInvalidate
  | write (data : List Byte)
  deriving DecidableEq, Repr

/-- A request that another package sends to a home or to the control die of this package (R439, R312). -/
inductive FabricRequest where
  | read (package pa n : Nat)
  | write (package pa : Nat) (data : List Byte)
  | atomic (package pa : Nat) (ty : ElemType) (op : Nat) (value : W64)
  | collective (package vf die core group : Nat) (key : W64) (parts cop : Nat) (ty : ElemType) (fmt : W32) (data : List Byte)
  deriving DecidableEq, Repr

/-- A link: a die-to-die link by its number, or a fabric port. -/
inductive LinkName where
  | die (n : Nat)
  | port (n : Nat)
  deriving DecidableEq, Repr

/-- The configuration registers that REGISTER_WRITE reaches: those with no behaviour of their own (R435, R436). -/
inductive ConfigReg where
  | xroot (vf : Nat)
  | otdesc (vf : Nat)
  | datsel
  | mxrstPair
  deriving DecidableEq, Repr

/-- The instructions of the slots and the events of the device, one constructor per row of the opcode table. -/
inductive Instr where
  /-- NOP. Does nothing but counts as an instruction slot for latch numbering. (R250) -/
  | nop (f : VForm)
  /-- SMOV. Copies the whole 64-bit pattern of a scalar source to the destination. (R250) -/
  | smov (f : VForm)
  /-- SMOVI. Writes the I-form immediate, widened to TYPE, into every sub-element of a scalar destination. (R249) -/
  | smovi (f : IForm)
  /-- SADD. Scalar packed integer add, wrapping or saturating. (R250) -/
  | sadd (f : VForm)
  /-- SSUB. Scalar packed integer subtract, wrapping or saturating. (R250) -/
  | ssub (f : VForm)
  /-- SMUL. Scalar packed integer multiply giving the low bits or a clamped product. (R250) -/
  | smul (f : VForm)
  /-- SMULH. Scalar high half of the exact double-width product. (R250) -/
  | smulh (f : VForm)
  /-- SDIV. Scalar integer division that truncates toward zero, with the defined results for divide-by-zero and overflow. (R183) -/
  | sdiv (f : VForm)
  /-- SREM. Scalar integer remainder, which takes the sign of the dividend. (R183) -/
  | srem (f : VForm)
  /-- SAND. Scalar bitwise and. (R250) -/
  | sand (f : VForm)
  /-- SOR. Scalar bitwise or. (R250) -/
  | sor (f : VForm)
  /-- SXOR. Scalar bitwise exclusive or. (R250) -/
  | sxor (f : VForm)
  /-- SSHL. Scalar shift left, or rotate with the .rot variant. (R251) -/
  | sshl (f : VForm)
  /-- SSHR. Scalar logical or arithmetic shift right, or rotate with the .rot variant. (R251) -/
  | sshr (f : VForm)
  /-- SCMP. Scalar compare that writes all ones or zero for each sub-element according to COND. (R255) -/
  | scmp (f : VForm)
  /-- SSEL. Scalar select of a or b on whether c is non-zero. (R250) -/
  | ssel (f : VForm)
  /-- SADDI. Adds the widened immediate to the scalar destination register. (R250) -/
  | saddi (f : IForm)
  /-- SMIN. Scalar integer minimum. (R250) -/
  | smin (f : VForm)
  /-- SMAX. Scalar integer maximum. (R250) -/
  | smax (f : VForm)
  /-- SRD. Reads the special register that X selects into an s, v or q destination. (R260) -/
  | srd (f : VForm)
  /-- SCVT. Converts sub-element 0 from the source type to the destination type. (R258) -/
  | scvt (f : VForm)
  /-- SCLZ. Scalar count of leading zeros. (R250) -/
  | sclz (f : VForm)
  /-- SPOPC. Scalar population count. (R250) -/
  | spopc (f : VForm)
  /-- VMOV. Copies the whole 64-bit pattern per lane. (R252) -/
  | vmov (f : VForm)
  /-- VMOVI. Writes the widened immediate to every sub-element of every lane of E. (R249) -/
  | vmovi (f : IForm)
  /-- VADD. Vector add, integer or floating-point. (R252) -/
  | vadd (f : VForm)
  /-- VSUB. Vector subtract. (R252) -/
  | vsub (f : VForm)
  /-- VMUL. Vector multiply. (R252) -/
  | vmul (f : VForm)
  /-- VFMA. Vector fused multiply-add with a single rounding. (R252) -/
  | vfma (f : VForm)
  /-- VMIN. Vector minimum under the ordering rules for integer, float and log types. (R253) -/
  | vmin (f : VForm)
  /-- VMAX. Vector maximum under the ordering rules for integer, float and log types. (R253) -/
  | vmax (f : VForm)
  /-- VABS. Vector absolute value; clears only the sign bit for float and log types. (R252) -/
  | vabs (f : VForm)
  /-- VNEG. Vector negate; inverts only the sign bit for float and log types. (R252) -/
  | vneg (f : VForm)
  /-- VDIV. Vector integer division. (R183) -/
  | vdiv (f : VForm)
  /-- VREM. Vector integer remainder. (R183) -/
  | vrem (f : VForm)
  /-- VAND. Vector bitwise and. (R252) -/
  | vand (f : VForm)
  /-- VOR. Vector bitwise or. (R252) -/
  | vor (f : VForm)
  /-- VXOR. Vector bitwise exclusive or. (R252) -/
  | vxor (f : VForm)
  /-- VNOT. Vector bitwise not. (R252) -/
  | vnot (f : VForm)
  /-- VSHL. Vector shift left, or rotate. (R251) -/
  | vshl (f : VForm)
  /-- VSHR. Vector shift right, or rotate. (R251) -/
  | vshr (f : VForm)
  /-- VCMP. Vector compare that writes the combined result of each lane of E into mask k[KD]. (R254) -/
  | vcmp (f : VForm)
  /-- VSEL. Per-lane select of a or b on a mask bit. (R257) -/
  | vsel (f : VForm)
  /-- VCVT. Converts each sub-element between types with equal packing counts. (R258) -/
  | vcvt (f : VForm)
  /-- VPACK. Converts and packs the elements of up to four source registers into a narrower packing. (R258) -/
  | vpack (f : VForm)
  /-- VUNPK. Converts one part of a source packing into a wider packing. (R258) -/
  | vunpk (f : VForm)
  /-- VCLZ. Vector count of leading zeros. (R252) -/
  | vclz (f : VForm)
  /-- VPOPC. Vector population count. (R252) -/
  | vpopc (f : VForm)
  /-- VMULH. Vector high half of the product. (R252) -/
  | vmulh (f : VForm)
  /-- VCPYS. Combines the sign bit of b with the other bits of a. (R252) -/
  | vcpys (f : VForm)
  /-- KAND. Mask and of two mask registers into k[KD] for the lanes of E. (R257) -/
  | kand (f : VForm)
  /-- KOR. Mask or. (R257) -/
  | kor (f : VForm)
  /-- KXOR. Mask exclusive or. (R257) -/
  | kxor (f : VForm)
  /-- KNOT. Mask not. (R257) -/
  | knot (f : VForm)
  /-- KMOV_KK. Copies one mask register to another for the lanes of E. (R257) -/
  | kmovKk (f : VForm)
  /-- KMOV_SK. Sets mask bits of the lanes of E from a scalar. (R257) -/
  | kmovSk (f : VForm)
  /-- KMOV_KS. Copies a whole mask register into a scalar or queue destination. (R257) -/
  | kmovKs (f : VForm)
  /-- VSHFL. Shuffles values between lanes of E by index, xor, up or down selectors. (R265) -/
  | vshfl (f : VForm)
  /-- VBCAST. Broadcasts one sub-element of one lane to the destination. (R266) -/
  | vbcast (f : VForm)
  /-- VVOTE. Computes an any, all or uniform vote over the lanes of E into a mask. (R267) -/
  | vvote (f : VForm)
  /-- VBALLOT. Collects a non-zero test of each lane into a ballot value. (R267) -/
  | vballot (f : VForm)
  /-- VREDX. Folds a value over the lanes of E in ascending order. (R268) -/
  | vredx (f : VForm)
  /-- VSCAN. Inclusive or exclusive prefix fold over the lanes of E. (R268) -/
  | vscan (f : VForm)
  /-- SETF. Writes the masked fields of the path's fmt and returns the old value. (R259) -/
  | setf (f : VForm)
  /-- VSPC. Prunes one k-group to 4-in-8, returning the kept values, a metadata byte or a seeded pattern. (R339) -/
  | vspc (f : VForm)
  /-- VRCP. Special-function reciprocal. (R261) -/
  | vrcp (f : VForm)
  /-- VRSQ. Special-function reciprocal square root. (R261) -/
  | vrsq (f : VForm)
  /-- VSQRT. Special-function square root. (R261) -/
  | vsqrt (f : VForm)
  /-- VEXP2. Special-function base-2 exponential. (R261) -/
  | vexp2 (f : VForm)
  /-- VLOG2. Special-function base-2 logarithm. (R261) -/
  | vlog2 (f : VForm)
  /-- VSIN. Special-function sin(2πa). (R261) -/
  | vsin (f : VForm)
  /-- VCOS. Special-function cos(2πa). (R261) -/
  | vcos (f : VForm)
  /-- VFDIV. Special-function floating-point division. (R261) -/
  | vfdiv (f : VForm)
  /-- VTANH. Special-function hyperbolic tangent. (R261) -/
  | vtanh (f : VForm)
  /-- VERF. Special-function error function. (R261) -/
  | verf (f : VForm)
  /-- BR. Conditional branch that diverges, or branches if any or if all lanes meet the condition. (R270) -/
  | br (f : BForm)
  /-- JMP. Unconditional jump of the path. (R270) -/
  | jmp (f : BForm)
  /-- LOOP. Decrements the trip count and repeats the body, updating the iteration count and filling the loop buffer. (R271) -/
  | loop (f : BForm)
  /-- EXIT. Adds the lanes of E to the exited mask and removes them from the path. (R272) -/
  | exit (f : VForm)
  /-- REGGIVE. Returns n blocks of the group's allotment to the parcel's reserve. (R273) -/
  | reggive (f : VForm)
  /-- REGCLAIM. Enters a claim for n blocks and blocks the group's next clause until the claim is met. (R273) -/
  | regclaim (f : VForm)
  /-- ROLESW. Exchanges allotment, priority and entry with a role record and continues at the new entry clause. (R274) -/
  | rolesw (f : VForm)
  /-- LD. Per-lane load through a capability, reading the store buffer, then the log, then memory. (R281) -/
  | ld (f : MForm)
  /-- ST. Per-lane store, buffered until the quantum ends or applied at once as a release. (R282) -/
  | st (f : MForm)
  /-- LDP. Loads a private word, with the stack-limit check. (R283) -/
  | ldp (f : MForm)
  /-- STP. Buffers a store to a private word, with the stack-limit check. (R283) -/
  | stp (f : MForm)
  /-- TLD. Loads a run of elements from a tile handle. (R286) -/
  | tld (f : VForm)
  /-- TST. Writes a run of elements to a tile handle directly, in ascending lane order. (R286) -/
  | tst (f : VForm)
  /-- TALLOC. Allocates a zeroed tile at the core, pair or die level under a handle. (R287) -/
  | talloc (f : VForm)
  /-- TFREE. Waits for users of a handle and then frees it. (R287) -/
  | tfree (f : VForm)
  /-- CNARROW. Derives a narrower capability, by window or by offset. (R289) -/
  | cnarrow (f : MForm)
  /-- CSAVE. Writes a capability and its tag into a slot of the sealed save object. (R290) -/
  | csave (f : MForm)
  /-- CLOAD. Loads a capability and its tag from a slot of the sealed save object. (R290) -/
  | cload (f : MForm)
  /-- ATOM. Per-lane atomic read-modify-write at the home slice, with no return. (R292) -/
  | atom (f : MForm)
  /-- ATOMR. Per-lane atomic that returns the old value. (R292) -/
  | atomr (f : MForm)
  /-- CAS. Per-lane compare-and-swap that returns the old value. (R292) -/
  | cas (f : MForm)
  /-- LDS. Single load for the path, made as the lowest lane of E. (R284) -/
  | lds (f : MForm)
  /-- STS. Single store for the path, placed in the lowest lane's buffer. (R284) -/
  | sts (f : MForm)
  /-- WLPUSH. Appends one record per lane to a work-list if capacity allows. (R115) -/
  | wlpush (f : MForm)
  /-- WLPOPB. Pops records from the head of a work-list to the lanes of E. (R116) -/
  | wlpopb (f : MForm)
  /-- WLINS. Deduplicating insert into a work-list. (R116) -/
  | wlins (f : MForm)
  /-- WLRES. Reserves records in a work-list for the parcel. (R115) -/
  | wlres (f : MForm)
  /-- WLCOM. Appends records against the parcel's reservations. (R115) -/
  | wlcom (f : MForm)
  /-- WLSIZE. Returns the work-list's COUNT. (R294) -/
  | wlsize (f : MForm)
  /-- FENCE. Ends the quantum and performs an acquire, a release or both at its scope. (R296) -/
  | fence (f : VForm)
  /-- WAITC. Plumb wait: compares a watched word at its home slice and sleeps on a watch until the comparison holds. (R297) -/
  | waitc (f : MForm)
  /-- PHREG. Registers the group as signaller or waiter on a core or package phaser. (R300) -/
  | phreg (f : VForm)
  /-- PHDROP. Drops phaser roles, counting as an arrival where the rule says so. (R300) -/
  | phdrop (f : VForm)
  /-- PHARR. Signaller arrival at a phaser as a release. (R300) -/
  | pharr (f : VForm)
  /-- PHWAIT. Waits for a phaser phase as an acquire. (R300) -/
  | phwait (f : VForm)
  /-- SEMSET. Sets semaphore TARGET and/or COUNT, or raises TARGET. (R302) -/
  | semset (f : VForm)
  /-- SEMWAIT. Ends the quantum and waits until COUNT reaches TARGET, then acquires at package scope. (R302) -/
  | semwait (f : VForm)
  /-- SEMRD. Reads a semaphore's count, target or both. (R302) -/
  | semrd (f : VForm)
  /-- TVDECL. Adds a range to the traverse declaration, submitting it to the sequencer with the release variant. (R304) -/
  | tvdecl (f : MForm)
  /-- TVWAIT. Waits for all blocks of the declaration to be granted, then acquires at package scope. (R304) -/
  | tvwait (f : VForm)
  /-- TVEND. Ends the traverse transaction with a package release and ends its grant entries. (R305) -/
  | tvend (f : VForm)
  /-- QBIND. Binds or unbinds a queue register to an engine port, discarding its entries. (R307) -/
  | qbind (f : QForm)
  /-- LAUNCH. Releases at package scope and appends a child launch entry to a launch queue. (R315) -/
  | launch (f : QForm)
  /-- JCCOPY. Submits a copy job card to the task scheduler. (R311) -/
  | jccopy (f : QForm)
  /-- JCGATH. Submits a gather job card. (R311) -/
  | jcgath (f : QForm)
  /-- JCSCAT. Submits a scatter job card. (R311) -/
  | jcscat (f : QForm)
  /-- JCCOLL. Submits a collective job card that joins an instance by KEY. (R312) -/
  | jccoll (f : QForm)
  /-- JCMTX. Submits a complete matrix-product job card. (R344) -/
  | jcmtx (f : QForm)
  /-- JCFILL. Submits a fill job card. (R311) -/
  | jcfill (f : QForm)
  /-- TRAP. Raises the software-trap fault precisely at the slot. (R317) -/
  | trap (f : SForm)
  /-- TRET_SAVE. Ends a save routine and hands the group to the scheduler. (R318) -/
  | tretSave (f : SForm)
  /-- TRET_REST. Ends a restore routine and continues the path at its safe-point clause. (R318) -/
  | tretRest (f : SForm)
  /-- DATUM. Fires the datum trigger and returns its SEQ. (R319) -/
  | datum (f : SForm)
  /-- BKPT. Acts as a breakpoint on its own slot. (R317) -/
  | bkpt (f : SForm)
  /-- SLEEPT. Deschedules the group until sr.time reaches an absolute or relative time. (R320) -/
  | sleept (f : SForm)
  /-- MMA. Issues a dense single-array matrix multiply into an accumulator tile. (R330) -/
  | mma (f : VForm)
  /-- MMAP. Issues a dense pair matrix multiply. (R330) -/
  | mmap (f : VForm)
  /-- MMAS. Issues a metadata-mode sparse single multiply. (R336) -/
  | mmas (f : VForm)
  /-- MMASP. Issues a metadata-mode sparse pair multiply. (R336) -/
  | mmasp (f : VForm)
  /-- MMAG. Issues a seeded sparse single multiply. (R338) -/
  | mmag (f : VForm)
  /-- MMAGP. Issues a seeded sparse pair multiply. (R338) -/
  | mmagp (f : VForm)
  /-- MLDA. Builds and checks an A or virtual-A operand header. (R328) -/
  | mlda (f : VForm)
  /-- MLDB. Builds and checks a B operand header. (R328) -/
  | mldb (f : VForm)
  /-- UNFOLD. Issues an operation that writes an unfolded virtual A into a tile. (R335) -/
  | unfold (f : VForm)
  /-- ACCDR. Issues a drain of accumulator cells to a tile or to global memory. (R342) -/
  | accdr (f : QForm)
  /-- ACCDRA. Issues a drain with add-on-store. (R342) -/
  | accdra (f : QForm)
  /-- ACCLD. Issues a load of an accumulator tile from a tile. (R340) -/
  | accld (f : VForm)
  /-- ACCZ. Issues a zeroing of the masked accumulator tiles. (R340) -/
  | accz (f : VForm)
  /-- ACCMOV_GET. Issues a read of accumulator cells into a v register. (R340) -/
  | accmovGet (f : VForm)
  /-- ACCMOV_PUT. Issues a write of accumulator cells from lanes. (R340) -/
  | accmovPut (f : VForm)
  /-- ACCCVT. Issues a conversion of accumulator cells between FP32 and INT32. (R340) -/
  | acccvt (f : VForm)
  /-- ATTQK. Issues the attention score operation against a KV page, with optional rotary positions. (R347) -/
  | attqk (f : VForm)
  /-- ATTSM. Issues the base-2 softmax with running maximum and sum. (R349) -/
  | attsm (f : VForm)
  /-- ATTPV. Issues the accumulation of probability-weighted values. (R350) -/
  | attpv (f : VForm)
  /-- ATTMD. Issues the mass drain of attention probabilities into the page's MASS counters. (R351) -/
  | attmd (f : QForm)
  /-- KVRS. Pushes a resurvey command to the resurvey engine. (R352) -/
  | kvrs (f : QForm)
  /-- MSYNC. Holds the path until every matrix operation of the group has retired. (R343) -/
  | msync (f : VForm)
  /-- MELECT. Elects one lane, or one leader lane, into a mask. (R331) -/
  | melect (f : VForm)
  /-- RNG. Returns the 64-bit generator output for a pixel and dimension. (R359) -/
  | rng (f : VForm)
  /-- RNGU. Returns two uniform FP32 draws. (R359) -/
  | rngu (f : VForm)
  /-- RSVINIT. Initialises a reservoir quad with CAPL and SEQ. (R361) -/
  | rsvinit (f : VForm)
  /-- RSVUPD. Resamples a candidate into a reservoir with one draw. (R361) -/
  | rsvupd (f : VForm)
  /-- RSVMRG. Merges one reservoir into another with one draw. (R361) -/
  | rsvmrg (f : VForm)
  /-- RSVNRM. Computes the reservoir's unbiased contribution weight. (R361) -/
  | rsvnrm (f : VForm)
  /-- RSVLD. Loads a reservoir record from the store or its halo. (R362) -/
  | rsvld (f : VForm)
  /-- RSVST. Writes a reservoir record to the die's store. (R362) -/
  | rsvst (f : VForm)
  /-- RSVCLR. Writes the RSVINIT value into a stored reservoir record. (R362) -/
  | rsvclr (f : VForm)
  /-- RSVCPY. Copies a previous-frame record into the current slot, aging it. (R362) -/
  | rsvcpy (f : VForm)
  /-- MOTV. Reprojects a pixel by a motion vector and sets a validity mask. (R364) -/
  | motv (f : VForm)
  /-- SCNBIND. Attaches a scene to a ray-unit binding after checking its bounds. (R367) -/
  | scnbind (f : QForm)
  /-- RAYQ. Pushes closest-hit ray requests to the ray unit. (R367) -/
  | rayq (f : QForm)
  /-- RAYS. Pushes any-hit shadow ray requests to the ray unit. (R367) -/
  | rays (f : QForm)
  /-- HITUNP. Unpacks barycentrics from a hit word. (R371) -/
  | hitunp (f : VForm)
  /-- RAYORG. Offsets a shading point along a normal to form a ray origin. (R371) -/
  | rayorg (f : VForm)
  /-- LTSET. Attaches a light tree to a walker binding. (R373) -/
  | ltset (f : QForm)
  /-- LTSMP. Pushes light-tree sample requests to the walker. (R373) -/
  | ltsmp (f : QForm)
  /-- REUSE. Checks and submits a reuse card to the pair's reuse engine. (R376) -/
  | reuse (f : QForm)
  /-- GFEMB. Pushes a meshlet batch command to the geometry front end. (R380) -/
  | gfemb (f : QForm)
  /-- GFEDEPTH. Pushes a depth-pyramid build command to the geometry front end. (R385) -/
  | gfedepth (f : VForm)
  /-- VISCLS. Computes a triangle's area and classifies it against VISAREA. (R387) -/
  | viscls (f : VForm)
  /-- VISW. Writes the executing die's VISAREA for the virtual function. (R387) -/
  | visw (f : VForm)
  /-- SMPBIND. Attaches a checked texture to a sampler slot. (R388) -/
  | smpbind (f : QForm)
  /-- SMPT. Point-samples a texel. (R389) -/
  | smpt (f : VForm)
  /-- SMPB. Bilinearly samples a texture with one rounding. (R389) -/
  | smpb (f : VForm)
  /-- CLAUSE_ISSUE. A path whose header waits all hold issues its clause, which runs slot by slot to its end. (R200) -/
  | clauseIssue (g : Nat) (p : PathSlot)
  /-- QUANTUM_CLAUSE_LIMIT. A path's quantum ends after 256 consecutive clauses with no other quantum end. (R51) -/
  | quantumClauseLimit (g : Nat) (p : PathSlot)
  /-- ALLOWANCE_EXPIRY. A subdivisible parcel's allowance counter reaches the declared allowance. (R163) -/
  | allowanceExpiry (parcel : Nat)
  /-- CANDIDATE_AGED. A candidate ready for 256 cycles becomes aged and is selected ahead of all priority classes. (R414) -/
  | candidateAged (g : Nat) (p : PathSlot)
  /-- BLOCKED_SLOT_RESUME. A slot blocked on a queue, launch ring or result resumes once the condition is ready. (R111) -/
  | blockedSlotResume (g : Nat)
  /-- LOAD_RESULT. A pending load writes its destination when the data returns. (R281) -/
  | loadResult (g idx : Nat)
  /-- SFU_RESULT. A pending SFU result is written within 64 cycles of issue. (R263) -/
  | sfuResult (g : Nat)
  /-- SLEEPT_WAKE. A group sleeping in SLEEPT becomes ready once sr.time reaches T. (R320) -/
  | sleeptWake (g : Nat)
  /-- HOME_SLICE_WRITE. A store, atomic, drain or engine write is applied at its home slice. (R292) -/
  | homeSliceWrite (n : Nat)
  /-- WATCH_TABLE_RETRY. A WAITC waiting for a free watch compares again once a watch frees. (R298) -/
  | watchTableRetry (die slice : Nat)
  /-- ACK_RETURN. The acknowledgement of a counted write returns and lowers the group's count. (R157) -/
  | ackReturn (n : Nat)
  /-- LAUNCH_ACCEPT. The distributor takes a launch entry, numbers it, reads and checks it, and accepts or refuses the launch. (R120) -/
  | launchAccept (vf queue : Nat)
  /-- DISPATCH. The distributor picks the eligible queue with the lowest pass and starts placing its next parcel. (R412) -/
  | dispatch
  /-- RESOURCE_REPORT. A core reports its free resources to the distributor. (R411) -/
  | resourceReport (core : Nat)
  /-- STAKE. A core accepts or refuses a stake and sets the resources aside. (R413) -/
  | stake (placement core : Nat)
  /-- PLACEMENT_COMMIT. With every stake accepted, the stakes become reservations and the groups are placed. (R413) -/
  | placementCommit (placement : Nat)
  /-- STAKE_RETRY. After a refused attempt, the distributor retries after 64 × 2^a cycles, escalating after 16 attempts. (R413) -/
  | stakeRetry (placement : Nat)
  /-- PARCEL_RETIRE. A finished parcel commits its stores, applies its log, issues logged launches and returns resources. (R24) -/
  | parcelRetire (parcel : Nat)
  /-- COMMIT_LOG_APPLY. The commit log is translated and applied as one indivisible update at package release. (R25) -/
  | commitLogApply (parcel : Nat)
  /-- LAUNCH_COMPLETE. When every parcel has retired or faulted, the launch completes and its leases are released. (R143) -/
  | launchComplete (launch : Nat)
  /-- BEAT_END. At the end of a beat each sequencer exchanges its batch, and the beat closes once all four are held. (R122) -/
  | beatEnd
  /-- GRANT_PLACEMENT. The declarations of a closed beat are placed into the slice grant queues in traverse order. (R123) -/
  | grantPlacement
  /-- ENGINE_TAKE_COMMAND. An engine instance takes the next command from its bound input queues in rotation. (R112) -/
  | engineTakeCommand (e : EngineRef)
  /-- ENGINE_RESULT_DELIVER. An engine delivers a result to the issuing group's output binding, or discards it. (R112) -/
  | engineResultDeliver (e : EngineRef)
  /-- JOB_CARD_DISPATCH. A ready job card is sent to its engine, oldest first. (R127) -/
  | jobCardDispatch (pair : Nat)
  /-- JOB_CARD_COMPLETE. A card completes or stops with a fault, posting status and its semaphore increment. (R313) -/
  | jobCardComplete (card : Nat)
  /-- MTX_OP_START. A matrix operation starts once its array and tile dependencies have retired, reading its operands. (R321) -/
  | mtxOpStart (pair op : Nat)
  /-- MTX_OP_RETIRE. A matrix operation writes its cells or destinations and retires, delivering a status entry. (R324) -/
  | mtxOpRetire (pair op : Nat)
  /-- KVRS_SURVEY. The resurvey engine surveys the chain of pages and selects survivors. (R353) -/
  | kvrsSurvey (die : Nat)
  /-- RAY_RESULT. The ray unit finishes traversing a request and delivers hit entries. (R369) -/
  | rayResult (core : Nat)
  /-- LIGHT_WALK. The light-tree walker finishes a lane's walk and delivers the light index and pdf. (R374) -/
  | lightWalk (pair : Nat)
  /-- REUSE_CARD_RUN. The reuse engine merges candidates for each pixel and writes RESH as one update. (R378) -/
  | reuseCardRun (pair : Nat)
  /-- GFE_MESHLET_PASS. The geometry front end culls meshlets and rasterises or routes triangles for one command. (R382) -/
  | gfeMeshletPass (die : Nat)
  /-- GFE_PYRAMID_BUILD. The front end builds the depth pyramid from the visibility buffer. (R385) -/
  | gfePyramidBuild (die : Nat)
  /-- FAULT_RECORD_DELIVER. Records held on the control die are delivered once the ring has room or is enabled. (R126) -/
  | faultRecordDeliver (vf : Nat)
  /-- FQRESUME. A write naming a now-present page readies every group, card or fill parked on it. (R144) -/
  | fqresume (vf : Nat) (value : W64)
  /-- FQACT_END. Ends the parcel behind a pending record, or fails a launch for a distributor record. (R422) -/
  | fqactEnd (vf : Nat) (seq : W32)
  /-- FQACT_RESUME. Resumes a group stopped by a software trap, a breakpoint or a park. (R422) -/
  | fqactResume (vf : Nat) (seq : W32)
  /-- SHOOTDOWN. An XINV write removes matching TLB and object-cache entries package-wide. (R142) -/
  | shootdown (vf : Nat) (value : W64)
  /-- SHOOTDOWN_DONE. BUSY clears once every access translated through a removed entry has reached its home. (R142) -/
  | shootdownDone (vf : Nat)
  /-- MIGRATE_PAGE. A MIGCMD GO marks the run moving, runs a shootdown and opens in-flight counts. (R145) -/
  | migratePage (vf : Nat) (value : W128)
  /-- MIGRATION_COPY. Once in-flight counts and grant entries reach zero, the page is copied, remapped and held accesses proceed. (R145) -/
  | migrationCopy (vf : Nat)
  /-- PREEMPT_SAVE. PRECMD save mode stops dispatch and saves every running parcel of the named queues. (R415) -/
  | preemptSave (vf : Nat) (value : W64)
  /-- PREEMPT_SAVE_OR_REQUEUE. PRECMD mode 0b01 requeues subdivisible parcels whole and saves the others. (R415) -/
  | preemptSaveOrRequeue (vf : Nat) (value : W64)
  /-- PREEMPT_END. PRECMD end mode ends every running or saved parcel of the named queues. (R415) -/
  | preemptEnd (vf : Nat) (value : W64)
  /-- PREEMPT_RELEASE. PRECMD release mode resumes dispatch from the named queues, saved parcels first. (R415) -/
  | preemptRelease (vf : Nat) (value : W64)
  /-- SAVE_ROUTINE_ENTER. Once every path has stopped, the scheduler enters each path's save routine with the sealed save object. (R417) -/
  | saveRoutineEnter (parcel : Nat)
  /-- SAVE_COMPLETE. When routines, cards and acknowledgements are done, the parcel's resources are released and it joins the head area. (R418) -/
  | saveComplete (parcel : Nat)
  /-- RESTORE. A saved parcel is restaked on its cores and its paths enter their restore routines. (R419) -/
  | restore (parcel : Nat)
  /-- PREEMPT_LATE. A parcel not saved within the allowance receives a pre-emption-late record. (R420) -/
  | preemptLate (parcel : Nat)
  /-- MATRIX_WATCHDOG. An operation unretired for 2^26 cycles resets the pair's matrix engine. (R431) -/
  | matrixWatchdog (pair : Nat)
  /-- MATRIX_RESET_COMMAND. An MXRST GO write or the debug port resets a pair's matrix engine. (R431) -/
  | matrixResetCommand (src : ResetSource)
  /-- COMPUTE_DIE_RESET. A compute die is quiesced, written back and reset, with error completions for requests aimed at it. (R432) -/
  | computeDieReset (die : Nat) (writesBack : Bool)
  /-- DIE_RELINK. The reset die's links retrain and its homes are served again. (R432) -/
  | dieRelink (die : Nat)
  /-- VF_RESET. A virtual-function reset ends its parcels, waits for them and resets its registers and state. (R437) -/
  | vfReset (vf : Nat)
  /-- COLD_RESET. Cold reset clears the package and starts the boot ROM sequence. (R441) -/
  | coldReset
  /-- BOOT_SOURCE_RETRY. After a failed boot step, the sources are retried every 10 s. (R441) -/
  | bootSourceRetry
  /-- WARM_RESET. A warm reset empties the caches and working memories, keeps HBM, and leaves Invasive debug. (R448) -/
  | warmReset
  /-- ATTESTATION_REQUEST. A nonce request is answered with a report signed by the identity key. (R444) -/
  | attestationRequest (vf : Option Nat) (nonce : BitVec 256)
  /-- CODE_ADMISSION. The security engine admits a KOF file whose signature verifies under a trusted KEYID. (R445) -/
  | codeAdmission (vf : Nat) (pa size : Nat) (obj : Nat)
  /-- KEY_LOAD. A wrapped key pair is unwrapped into a key slot of the function's range. (R446) -/
  | keyLoad (vf slot : Nat) (wrapped : List Byte)
  /-- DEBUG_TOKEN. A signed debug token sets the debug state, destroying all keys first in Production. (R448) -/
  | debugToken (token : DebugToken)
  /-- LIFECYCLE_ADVANCE. A Dereo-signed lifecycle record moves the package to its next lifecycle state. (R447) -/
  | lifecycleAdvance (record : ConfigRecord)
  /-- ISLAND_POWER_CHANGE. Firmware changes an island's power state. (R450) -/
  | islandPowerChange (island : Nat) (state : IslandState)
  /-- DATUM_IN_EDGE. A rising edge on DATUM_IN fires the datum trigger. (R452) -/
  | datumInEdge
  /-- SNAPSTAT_CLEAR. Writing 1 to VALID clears it and re-arms the block. (R81) -/
  | snapstatClear (die block : Nat) (value : W64)
  /-- SNAPSHOT_READ. A snapshot read returns the value the security matrix permits and may be recorded as denied. (R451) -/
  | snapshotRead (reader : SnapReader) (die block index : Nat)
  /-- STORAGE_ERROR. A detected storage error is refetched, corrected or poisoned and recorded. (R105) -/
  | storageError (e : StorageError)
  /-- LINK_FLIT_SEND. A link arbiter sends a flit from the waiting class with the lowest pass. (R162) -/
  | linkFlitSend (link : Nat)
  /-- FLIT_REPLAY. A flit that fails its check is replayed. (R438) -/
  | flitReplay (port : Nat)
  /-- LINK_RETRAIN. A port retrains after an error that replay cannot recover, holding its traffic. (R438) -/
  | linkRetrain (port : Nat)
  /-- LINK_RATE_STEP. A die-to-die link steps its rate, opening a retraining window of at most 200 ns. (R454) -/
  | linkRateStep (link : Nat) (rate : BitVec 2)
  /-- HOST_CXL_MEM_ACCESS. A host CXL.mem access is homed at its slice and ordered at system scope. (R434) -/
  | hostCxlMemAccess (pa : Nat) (a : HostAccess)
  /-- LQIDX_WRITE. A write of PROD advances a launch ring's producer index unless it would overfill the ring. (R436) -/
  | lqidxWrite (vf queue : Nat) (value : W64)
  /-- FQIDX_WRITE. A write of CONS advances the fault ring's consumer index unless it would pass PROD. (R436) -/
  | fqidxWrite (vf : Nat) (value : W64)
  /-- LQCFG_WRITE. Configures a launch ring, changing only EN while enabled. (R436) -/
  | lqcfgWrite (vf queue : Nat) (value : W64)
  /-- FQCFG_WRITE. Configures the fault ring, changing only EN while enabled. (R436) -/
  | fqcfgWrite (vf : Nat) (value : W64)
  /-- KRANGE_WRITE. Sets the function's key-slot range, refused on overlap or overflow. (R132) -/
  | krangeWrite (vf : Nat) (value : W32)
  /-- PRANGE_WRITE. Sets the function's package-phaser range under the KRANGE refusal rule. (R149) -/
  | prangeWrite (vf : Nat) (value : W32)
  /-- RSVRECT_WRITE. Sets the die's reservoir rectangle and zeroes the carve-out, or is refused and reported in RSVSTAT. (R100) -/
  | rsvrectWrite (vf die : Nat) (value : W64)
  /-- LQTKT_WRITE. Sets a launch queue's tickets, ignoring 0 and values above 4,096. (R436) -/
  | lqtktWrite (vf queue : Nat) (value : W64)
  /-- SIGPOL_WRITE. Physical function 0 sets a function's signature policy, debug enable and trusted keys. (R436) -/
  | sigpolWrite (vf : Nat) (value : BitVec 576)
  /-- BREAKPOINT_WRITE. The debug port or self-hosted debug writes a breakpoint register when permitted. (R429) -/
  | breakpointWrite (w : DebugWriter) (core n : Nat) (value : W128)
  /-- DEBUG_PORT_RESUME. The debug port resumes a group stopped at a breakpoint, as FQACT would. (R430) -/
  | debugPortResume (g : Nat)
  /-- REGISTER_WRITE. A write to a configuration register with no behaviour of its own updates its writable fields. (R11) -/
  | registerWrite (r : ConfigReg) (value : W128)
  /-- MATRIX_RESET_COMPLETE. The matrix-engine reset of a pair completes within 4,096 cycles, MXRST BUSY clears and the two cores may issue MTX-class clauses again. (R431) -/
  | matrixResetComplete (pair : Nat)
  /-- DEBUG_PORT_DATUM_TRIGGER. A debug-port command fires the datum trigger with SRC 0x2. (R81) -/
  | debugPortDatumTrigger
  /-- DEBUGGER_LATCH_WRITE. A debugger write to dbg.lat0–dbg.lat3 changes the values a resume restores and clears dbg.empty for that latch. (R84) -/
  | debuggerLatchWrite (g latch lane : Nat) (value : W64)
  /-- HOST_CXL_CACHE_SNOOP. A CXL.cache coherence request from the host acts on a TGT 0b01 line held at its home slice. (R434) -/
  | hostCxlCacheSnoop (line : Nat) (kind : SnoopKind)
  /-- FABRIC_REQUEST_ARRIVAL. A request from another package of the load-store domain arrives over the Orogor Link at a home slice or control die of this package. (R439) -/
  | fabricRequestArrival (r : FabricRequest)
  /-- RETRAINING_WINDOW_END. A retraining window of a link closes and its held traffic classes flow again. (R454) -/
  | retrainingWindowEnd (link : LinkName)
  /-- ML_KEM_ENCAPSULATION. A virtual function establishes its wrapping key with the security engine by an ML-KEM-768 encapsulation to the device. (R446) -/
  | mlKemEncapsulation (vf : Nat) (ciphertext : List Byte)
  deriving DecidableEq, Repr

end Sys2Proof
end

