-- ==== Sys2Proof/WellFormed.lean ====
section
/-!
DEFINITION. Which decoded fields are an instruction: the reserved values and unused fields of R210 (decode cause 8) and
the words that an opcode accepts before its slot (R212, R248, R324, R356, R468; decode cause 9).
-/
namespace Sys2Proof

/-- The element width in bits (R58). -/
def ElemType.width : ElemType → Nat
  | .n8 | .s8 | .lg8 => 8
  | .n16 | .s16 | .f16 | .bf16 => 16
  | .n32 | .s32 | .f32 => 32
  | .n64 | .s64 | .f64 => 64
  | .lg6 => 6

/-- The number of sub-elements of a 64-bit register (R58). -/
def ElemType.count : ElemType → Nat
  | .n8 | .s8 | .lg8 => 8
  | .n16 | .s16 | .f16 | .bf16 => 4
  | .n32 | .s32 | .f32 => 2
  | .n64 | .s64 | .f64 => 1
  | .lg6 => 10

/-- The TYPE code of R202. -/
def ElemType.code : ElemType → BitVec 4
  | .n8 => 0 | .n16 => 1 | .n32 => 2 | .n64 => 3 | .s8 => 4 | .s16 => 5 | .s32 => 6 | .s64 => 7
  | .f16 => 8 | .bf16 => 9 | .f32 => 10 | .f64 => 11 | .lg8 => 12 | .lg6 => 13

/-- The type of a TYPE code; 0xE and 0xF are reserved (R202). -/
def ElemType.ofCode (c : BitVec 4) : Option ElemType :=
  match c.toNat with
  | 0 => some .n8 | 1 => some .n16 | 2 => some .n32 | 3 => some .n64
  | 4 => some .s8 | 5 => some .s16 | 6 => some .s32 | 7 => some .s64
  | 8 => some .f16 | 9 => some .bf16 | 10 => some .f32 | 11 => some .f64
  | 12 => some .lg8 | 13 => some .lg6 | _ => none

/-- The classes I, F and L of R247. -/
def ElemType.isInt : ElemType → Bool
  | .n8 | .n16 | .n32 | .n64 | .s8 | .s16 | .s32 | .s64 => true
  | _ => false
def ElemType.isSigned : ElemType → Bool
  | .s8 | .s16 | .s32 | .s64 => true
  | _ => false
def ElemType.isFloat : ElemType → Bool
  | .f16 | .bf16 | .f32 | .f64 => true
  | _ => false
def ElemType.isLog : ElemType → Bool
  | .lg8 | .lg6 => true
  | _ => false

/-- The value of an operand field (R203). -/
def Operand.code : Operand → BitVec 9
  | .v r => r.zeroExtend 9
  | .s r => 256 + r.zeroExtend 9
  | .l r => 320 + r.zeroExtend 9
  | .q r => 324 + r.zeroExtend 9
  | .reserved x => x

/-- The operand that a field value names (R203). -/
def Operand.ofCode (c : BitVec 9) : Operand :=
  if c.toNat < 256 then .v (c.truncate 8)
  else if c.toNat < 320 then .s (c.truncate 6)
  else if c.toNat < 324 then .l ((c - 320).truncate 2)
  else if c.toNat < 340 then .q ((c - 324).truncate 4)
  else .reserved c

/-- An operand that an encoding gives: a reserved one holds a value from 340 to 511. -/
def Operand.wf : Operand → Bool
  | .reserved x => 340 ≤ x.toNat
  | _ => true

/-- A field that an entry does not use holds 0, which names v0. -/
def Operand.unused (o : Operand) : Bool := o = .v 0

namespace Wf

/-- The bits of an X field that a mask leaves out are zero. -/
def xMask (m x : BitVec 9) : Bool := x &&& ~~~m = 0

def anyType (_ : ElemType) : Bool := true
/-- An untyped opcode holds TYPE code 0. -/
def noType (t : ElemType) : Bool := t = .n8
def intOrFloat (t : ElemType) : Bool := t.isInt || t.isFloat
def notWide (t : ElemType) : Bool := t.isInt || t.isFloat || t.isLog
def floatOrLog (t : ElemType) : Bool := t.isFloat || t.isLog
/-- The types of the bounded special functions (R261). -/
def sfuType (t : ElemType) : Bool := t = .f32 || t = .f16 || t = .bf16
/-- The types of an atomic or a plumb wait (R291, R297). -/
def atomType (t : ElemType) : Bool := t = .n32 || t = .s32 || t = .n64 || t = .s64
/-- The accumulator types (R327). -/
def accType (t : ElemType) : Bool := t = .f32 || t = .s32 || t = .f64
/-- The element types of a KV page (R346). -/
def pageType (t : ElemType) : Bool := t = .f32 || t = .f16 || t = .bf16 || t = .lg8 || t = .lg6

/-- The word before the slot holds only fields that the encoding of R211 gives. -/
def pfx (p : Pfx) : Bool := p.rnd.toNat ≤ 4 && (match p.d4 with | none => true | some o => o.wf)

/-- A V-form: types, number of variants, the operands used, the X rule, and whether NW and the guard may be set. -/
def v (f : VForm) (ty : ElemType → Bool) (nvar : Nat) (d a b c : Bool) (x : BitVec 9 → Bool)
    (nw : Bool := true) (guard : Bool := true) : Bool :=
  ty f.ty && f.var.toNat < nvar && (d || f.dst.unused) && (a || f.sa.unused) && (b || f.sb.unused)
    && (c || f.sc.unused) && x f.x && (nw || !f.nw) && (guard || (f.pg = 0 && !f.pn))
    && f.dst.wf && f.sa.wf && f.sb.wf && f.sc.wf && pfx f.pfx

/-- SAT is X[0], for integer types only (R247). -/
def sat (t : ElemType) (x : BitVec 9) : Bool := xMask 1 x && (x = 0 || t.isInt)

/-- The SRCT and SAT fields of a conversion (R258): SRCT is a type, SAT needs two integer types. -/
def convX (t : ElemType) (x : BitVec 9) : Bool :=
  match ElemType.ofCode (x.extractLsb' 1 4) with
  | none => false
  | some st => !x.getLsbD 0 || (t.isInt && st.isInt)

/-- The source type of a conversion; the checks of `convX` make it a type. -/
def srcType (x : BitVec 9) : ElemType := (ElemType.ofCode (x.extractLsb' 1 4)).getD .n8

/-- ceil(n_d / n_s), the number of source registers of VPACK (R258). -/
def packCount (t : ElemType) (x : BitVec 9) : Nat := (t.count + (srcType x).count - 1) / (srcType x).count

/-- The special registers of R217. -/
def srdCode (x : BitVec 9) : Bool :=
  let n := x.toNat
  n ≤ 4 || (0x10 ≤ n && n ≤ 0x15) || (0x18 ≤ n && n ≤ 0x1A) || (0x20 ≤ n && n ≤ 0x22)
    || (0x30 ≤ n && n ≤ 0x34) || n = 0x38 || n = 0x39 || (0x40 ≤ n && n ≤ 0x4F) || n = 0xFF

/-- The fold X field of R268: ROP in [3:1] with the types it accepts, SAT in [0]. -/
def foldX (t : ElemType) (x : BitVec 9) : Bool :=
  let r := (x.extractLsb' 1 3).toNat
  xMask 0xF x && (!x.getLsbD 0 || t.isInt)
    && (if r = 0 then t.isInt || t.isFloat else if r = 1 || r = 2 then notWide t else r ≤ 5 && t.isInt)

/-- The I-form immediate fits its type (R249). -/
def imm (t : ElemType) (i : W32) : Bool := 32 ≤ t.width || i.toNat < 2 ^ t.width

def i (f : IForm) (ty : ElemType → Bool) : Bool :=
  ty f.ty && f.var = 0 && imm f.ty f.imm && f.dst.wf && pfx f.pfx

/-- SCOPE and ORD of R278: relaxed needs scope 0; the permitted orders are a list of codes. -/
def order (f : MForm) (ords : List Nat) : Bool :=
  ords.contains f.ord.toNat && f.scope.toNat ≤ 8 && (f.ord ≠ 0 || f.scope = 0)

def m (f : MForm) (ty : ElemType → Bool) (hint : Bool) : Bool :=
  ty f.ty && (if hint then f.hint.toNat ≤ 2 else f.hint = 0) && f.data.wf
    && (match f.idx with | none => true | some o => o.wf && o ≠ .reserved 0x1FF) && pfx f.pfx

/-- DATA[3:0] names a capability register and DATA[8:4] is zero (R288). -/
def capData (o : Operand) : Bool := o.code.toNat < 16

def q (f : QForm) (ty : ElemType → Bool) (qd cap desc arg sem : Bool) (nw : Bool := true) : Bool :=
  ty f.ty && f.var = 0 && (qd || f.qd = 0) && (cap || f.cap = 0) && (desc || f.desc.unused)
    && (arg || f.arg.unused) && (sem || (!f.semv && f.sem = 0 && f.inc = 0)) && (nw || !f.nw)
    && f.desc.wf && f.arg.wf && pfx f.pfx

def s (f : SForm) (d a : Bool) (sel : Nat → Bool) (imm : Bool) : Bool :=
  (d || f.dst.unused) && (a || f.sa.unused) && sel f.sel.toNat && (imm || f.imm = 0) && f.dst.wf && f.sa.wf
    && pfx f.pfx

end Wf

open Wf in
/-- The checks of decode cause 8 on the fields of one slot (R210, R218), entry by entry. -/
def Instr.fieldsOk : Instr → Bool
  | .nop f => v f noType 1 false false false false (· = 0) false false
  | .smov f => v f anyType 1 true true false false (· = 0)
  | .smovi f => i f anyType
  | .sadd f | .ssub f | .smul f | .sdiv f => v f ElemType.isInt 1 true true true false (sat f.ty)
  | .smulh f | .srem f | .sand f | .sor f | .sxor f | .smin f | .smax f =>
      v f ElemType.isInt 1 true true true false (· = 0)
  | .sshl f | .sshr f => v f ElemType.isInt 2 true true true false (· = 0)
  | .scmp f => v f anyType 1 true true true false (xMask 0x38)
  | .ssel f => v f anyType 1 true true true true (· = 0)
  | .saddi f => i f ElemType.isInt
  | .srd f => v f noType 1 true false false false srdCode
  | .scvt f => v f anyType 1 true true false false (fun x => xMask 0x1F x && convX f.ty x)
  | .sclz f | .spopc f => v f ElemType.isInt 1 true true false false (· = 0)
  | .vmov f => v f anyType 1 true true false false (· = 0)
  | .vmovi f => i f anyType
  | .vadd f | .vsub f | .vmul f => v f intOrFloat 1 true true true false (sat f.ty)
  | .vfma f => v f intOrFloat 1 true true true true (sat f.ty)
  | .vmin f | .vmax f => v f notWide 1 true true true false (· = 0)
  | .vabs f | .vneg f => v f notWide 1 true true false false (sat f.ty)
  | .vdiv f => v f ElemType.isInt 1 true true true false (sat f.ty)
  | .vrem f | .vand f | .vor f | .vxor f | .vmulh f => v f ElemType.isInt 1 true true true false (· = 0)
  | .vnot f | .vclz f | .vpopc f => v f ElemType.isInt 1 true true false false (· = 0)
  | .vshl f | .vshr f => v f ElemType.isInt 2 true true true false (· = 0)
  | .vcmp f => v f anyType 3 false true true false (xMask 0x1F8)
  | .vsel f => v f anyType 1 true true true false (xMask 0xF)
  | .vcvt f => v f anyType 1 true true false false
      (fun x => xMask 0x1F x && convX f.ty x && f.ty.count = (srcType x).count)
  | .vpack f => v f anyType 1 true true (2 ≤ packCount f.ty f.x) (3 ≤ packCount f.ty f.x)
      (fun x => xMask 0x1F x && convX f.ty x && (srcType x).count < f.ty.count && packCount f.ty x ≤ 4)
      && (packCount f.ty f.x ≠ 4 || f.pfx.d4.isSome)
  | .vunpk f => v f anyType 1 true true false false
      (fun x => convX f.ty x && f.ty.count < (srcType x).count
        && (x.extractLsb' 5 4).toNat * f.ty.count < (srcType x).count)
  | .vcpys f => v f floatOrLog 1 true true true false (· = 0)
  | .kand f | .kor f | .kxor f => v f noType 1 false false false false anyX
  | .knot f => v f noType 1 false false false false (xMask 0x1F8)
  | .kmovKk f => v f noType 1 false false false false (xMask 0x1F8)
  | .kmovSk f => v f noType 2 false true false false (xMask 0x1C0) && f.var = 1
  | .kmovKs f => v f noType 3 true false false false (xMask 0x38) && f.var = 2
  | .vshfl f => v f anyType 4 true true true false (· = 0)
  | .vbcast f => v f anyType 1 true true true false (· = 0)
  | .vvote f => v f noType 3 false false false false (xMask 0x1F8)
  | .vballot f => v f anyType 2 true true false false (· = 0)
  | .vredx f => v f anyType 1 true true false false (foldX f.ty)
  | .vscan f => v f anyType 2 true true false false (foldX f.ty)
  | .setf f => v f noType 1 true true false false (xMask 0x3F)
  | .vspc f =>
      if f.var = 2 then v f noType 3 true true true false (· = 0)
      else v f (fun t => t = .s8 || t = .n8 || t = .lg8 || t = .f16 || t = .bf16) 2 true true
        (f.ty.width = 16) false (fun x => if f.var = 1 then xMask 0x7 x else x = 0)
  | .vrcp f | .vrsq f | .vsqrt f => v f ElemType.isFloat 1 true true false false (· = 0)
  | .vfdiv f => v f ElemType.isFloat 1 true true true false (· = 0)
  | .vexp2 f | .vlog2 f | .vsin f | .vcos f | .vtanh f | .verf f =>
      v f sfuType 1 true true false false (· = 0)
  | .br f => f.cnt = 0 && (if f.bmode = 0 then f.join ≠ 0x8000 else f.bmode.toNat ≤ 2 && f.join = 0x8000)
  | .jmp f => f.join = 0 && f.kc = 0 && !f.kn && f.bmode = 0 && f.cnt = 0
  | .loop f => f.join = 0 && f.kc = 0 && !f.kn && f.bmode = 0 && (f.target = 0 || f.target.msb)
  | .exit f => v f noType 1 false false false false (· = 0) false
  | .reggive f | .regclaim f => v f noType 1 false false false false (xMask 0x3F) false false
  | .rolesw f => v f noType 1 false true false false (xMask 0xF) false false
  | .ld f | .lds f => m f anyType true && order f [0, 1]
  | .st f | .sts f => m f anyType true && order f [0, 2]
  | .ldp f | .stp f => m f (· = .n64) true && order f [0]
  | .tld f => v f anyType 1 true true true false (xMask 0x3F)
  | .tst f => v f anyType 1 false true true true (xMask 0x3F)
  | .talloc f => v f anyType 1 false true true false (fun x => xMask 0xFF x && (x.extractLsb' 6 2).toNat ≤ 2)
  | .tfree f => v f noType 1 false false false false (xMask 0x3F)
  | .cnarrow f => m f (fun t => t = .n8 || t = .n16) false && order f [0] && capData f.data && f.ofs = 0
  | .csave f | .cload f => m f noType false && order f [0] && capData f.data
  | .atom f | .atomr f => m f atomType false && order f [0, 1, 2, 3] && (f.ofs.extractLsb' 12 4).toNat ≤ 6
  | .cas f => m f atomType false && order f [0, 1, 2, 3] && f.pfx.d4.isSome
  | .wlpush f | .wlpopb f | .wlins f | .wlres f | .wlcom f =>
      m f (· = .n64) false && f.ord = 0 && f.scope.toNat < 8
  | .wlsize f => m f (· = .n64) false && f.ord = 0 && f.scope = 0
  | .fence f => v f noType 1 false false false false
      (fun x => xMask 0x3F x && (x.extractLsb' 0 4).toNat ≤ 8 && x.extractLsb' 4 2 ≠ 0)
  | .waitc f => m f atomType false && order f [0, 1] && (f.ofs.extractLsb' 12 4).toNat ≤ 5
  | .phreg f | .phdrop f => v f noType 2 false (f.var = 1) false false
      (fun x => xMask 0xFF x && x.extractLsb' 6 2 ≠ 0 && (f.var = 0 || x.extractLsb' 0 6 = 0))
  | .pharr f => v f noType 2 true (f.var = 1) false false
      (fun x => xMask 0x3F x && (f.var = 0 || x.extractLsb' 0 6 = 0))
  | .phwait f => v f noType 2 false true (f.var = 1) false
      (fun x => xMask 0x3F x && (f.var = 0 || x.extractLsb' 0 6 = 0))
  | .semset f => v f noType 4 false true (f.var = 2) false (xMask 0x1F)
  | .semwait f => v f noType 1 false false false false (xMask 0x1F)
  | .semrd f => v f noType 3 true false false false (xMask 0x1F)
  | .tvdecl f => m f (· = .n8) false && ((f.ord = 0 && f.scope = 0) || (f.ord = 2 && f.scope = 6))
  | .tvwait f | .tvend f => v f noType 1 false false false false (· = 0)
  | .qbind f => q f noType true false true false false
  | .launch f => q f noType true true true true false && f.qd.toNat < 8
  | .jccopy f | .jcgath f | .jcscat f | .jccoll f | .jcmtx f => q f noType true true true false true
  | .jcfill f => q f noType true true true true true
  | .trap f => s f false true (· = 0) true
  | .tretSave f => s f false false (· = 0) false
  | .tretRest f => s f false false (· = 1) false
  | .datum f => s f true false (· = 0) false
  | .bkpt f => s f false false (· = 0) true
  | .sleept f => s f false true (· ≤ 1) false
  | .mma f | .mmap f | .mmag f | .mmagp f => v f accType 1 false true true false (xMask 0x1C0) false
  | .mmas f | .mmasp f => v f accType 1 false true true true (xMask 0x1C0) false
  | .mlda f => v f noType 1 true true true true (xMask 0xFF) false
  | .mldb f => v f noType 1 true true false false (xMask 0x7F) false
  | .unfold f => v f noType 1 false true true false (xMask 0x3F) false
  | .accdr f | .accdra f => q f noType false true true true true false
  | .accld f => v f (fun t => t = .f32 || t = .s32) 1 false true false false anyX false
  | .accz f => v f noType 1 false false false false (xMask 0xFF) false
  | .accmovGet f => v f noType 1 true true false false (xMask 0x1C0) false
  | .accmovPut f => v f noType 2 false true true false (xMask 0x1C0) false && f.var = 1
  | .acccvt f => v f (fun t => t = .f32 || t = .s32) 1 false false false false (xMask 0x1F8) false
  | .attqk f => v f pageType 1 false true true true (xMask 0x1FE) false
  | .attsm f => v f (· = .f32) 1 false true false false anyX false
  | .attpv f => v f pageType 1 false true true false (xMask 0x1FC) false
  | .attmd f => q f noType false true true true true false
  | .kvrs f => q f pageType true true true true true false
  | .msync f => v f noType 1 false false false false (· = 0) false false
  | .melect f => v f noType 2 false false false false (xMask 0x1C0) false
  | .rng f => v f (· = .n64) 1 true true true false (· = 0) false
  | .rngu f => v f (· = .f32) 1 true true true false (· = 0) false
  | .rsvinit f => v f noType 1 true true false false (xMask 0xF) false
  | .rsvupd f => v f noType 1 true true true false (· = 0) false
  | .rsvmrg f => v f noType 1 true true true true (· = 0) false
  | .rsvnrm f => v f noType 1 true false false false (· = 0) false
  | .rsvld f => v f noType 2 true true false false (· = 0) false
  | .rsvst f => v f noType 2 false true true false (· = 0) false
  | .rsvclr f => v f noType 2 false true true false (xMask 0xF) false
  | .rsvcpy f => v f noType 1 false true true false (· = 0) false
  | .motv f => v f noType 1 true true true true (xMask 0x1C0) false
  | .scnbind f | .ltset f => q f noType true true true false false false
  | .rayq f | .rays f | .ltsmp f => q f noType true false true true false false
  | .hitunp f => v f (· = .f32) 1 true true false false (· = 0) false
  | .rayorg f => v f noType 1 true true true false (· = 0) false
  | .reuse f | .gfemb f => q f noType true true true false true false
  | .gfedepth f => v f noType 1 true true false false (xMask 0xF) false
  | .viscls f => v f noType 1 true true true true (xMask 0x1C0) false
  | .visw f => v f noType 1 false true false false (· = 0) false
  | .smpbind f => q f noType false true true true false false
  | .smpt f | .smpb f => v f anyType 1 true true false false (xMask 0xF) false
  | _ => true
where
  anyX (_ : BitVec 9) : Bool := true

/-- Whether an instruction is a slot instruction; the other rows of the table are events of the device. -/
def Instr.isSlot : Instr → Bool
  | .clauseIssue .. | .quantumClauseLimit .. | .allowanceExpiry .. | .candidateAged .. | .blockedSlotResume ..
  | .loadResult .. | .sfuResult .. | .sleeptWake .. | .homeSliceWrite .. | .watchTableRetry .. | .ackReturn ..
  | .launchAccept .. | .dispatch | .resourceReport .. | .stake .. | .placementCommit .. | .stakeRetry ..
  | .parcelRetire .. | .commitLogApply .. | .launchComplete .. | .beatEnd | .grantPlacement | .engineTakeCommand ..
  | .engineResultDeliver .. | .jobCardDispatch .. | .jobCardComplete .. | .mtxOpStart .. | .mtxOpRetire ..
  | .kvrsSurvey .. | .rayResult .. | .lightWalk .. | .reuseCardRun .. | .gfeMeshletPass .. | .gfePyramidBuild ..
  | .faultRecordDeliver .. | .fqresume .. | .fqactEnd .. | .fqactResume .. | .shootdown .. | .shootdownDone ..
  | .migratePage .. | .migrationCopy .. | .preemptSave .. | .preemptSaveOrRequeue .. | .preemptEnd ..
  | .preemptRelease .. | .saveRoutineEnter .. | .saveComplete .. | .restore .. | .preemptLate .. | .matrixWatchdog ..
  | .matrixResetCommand .. | .computeDieReset .. | .dieRelink .. | .vfReset .. | .coldReset | .bootSourceRetry
  | .warmReset | .attestationRequest .. | .codeAdmission .. | .keyLoad .. | .debugToken .. | .lifecycleAdvance ..
  | .islandPowerChange .. | .datumInEdge | .snapstatClear .. | .snapshotRead .. | .storageError .. | .linkFlitSend ..
  | .flitReplay .. | .linkRetrain .. | .linkRateStep .. | .hostCxlMemAccess .. | .lqidxWrite .. | .fqidxWrite ..
  | .lqcfgWrite .. | .fqcfgWrite .. | .krangeWrite .. | .prangeWrite .. | .rsvrectWrite .. | .lqtktWrite ..
  | .sigpolWrite .. | .breakpointWrite .. | .debugPortResume .. | .registerWrite .. | .matrixResetComplete ..
  | .debugPortDatumTrigger | .debuggerLatchWrite .. | .hostCxlCacheSnoop .. | .fabricRequestArrival ..
  | .retrainingWindowEnd .. | .mlKemEncapsulation .. => false
  | _ => true

/-- The word that stands before a slot: none for a B-form (which accepts none) and for an event. -/
def Instr.pfx : Instr → Pfx
  | .nop f | .smov f | .sadd f | .ssub f | .smul f | .smulh f | .sdiv f | .srem f | .sand f | .sor f | .sxor f
  | .sshl f | .sshr f | .scmp f | .ssel f | .smin f | .smax f | .srd f | .scvt f | .sclz f | .spopc f | .vmov f
  | .vadd f | .vsub f | .vmul f | .vfma f | .vmin f | .vmax f | .vabs f | .vneg f | .vdiv f | .vrem f | .vand f
  | .vor f | .vxor f | .vnot f | .vshl f | .vshr f | .vcmp f | .vsel f | .vcvt f | .vpack f | .vunpk f | .vclz f
  | .vpopc f | .vmulh f | .vcpys f | .kand f | .kor f | .kxor f | .knot f | .kmovKk f | .kmovSk f | .kmovKs f
  | .vshfl f | .vbcast f | .vvote f | .vballot f | .vredx f | .vscan f | .setf f | .vspc f | .vrcp f | .vrsq f
  | .vsqrt f | .vexp2 f | .vlog2 f | .vsin f | .vcos f | .vfdiv f | .vtanh f | .verf f | .exit f | .reggive f
  | .regclaim f | .rolesw f | .tld f | .tst f | .talloc f | .tfree f | .fence f | .phreg f | .phdrop f | .pharr f
  | .phwait f | .semset f | .semwait f | .semrd f | .tvwait f | .tvend f | .mma f | .mmap f | .mmas f | .mmasp f
  | .mmag f | .mmagp f | .mlda f | .mldb f | .unfold f | .accld f | .accz f | .accmovGet f | .accmovPut f | .acccvt f
  | .attqk f | .attsm f | .attpv f | .msync f | .melect f | .rng f | .rngu f | .rsvinit f | .rsvupd f | .rsvmrg f
  | .rsvnrm f | .rsvld f | .rsvst f | .rsvclr f | .rsvcpy f | .motv f | .hitunp f | .rayorg f | .gfedepth f
  | .viscls f | .visw f | .smpt f | .smpb f => f.pfx
  | .smovi f | .saddi f | .vmovi f => f.pfx
  | .ld f | .st f | .ldp f | .stp f | .lds f | .sts f | .atom f | .atomr f | .cas f | .cnarrow f | .csave f | .cload f
  | .wlpush f | .wlpopb f | .wlins f | .wlres f | .wlcom f | .wlsize f | .waitc f | .tvdecl f => f.pfx
  | .qbind f | .launch f | .jccopy f | .jcgath f | .jcscat f | .jccoll f | .jcmtx f | .jcfill f | .accdr f | .accdra f
  | .attmd f | .kvrs f | .rayq f | .rays f | .ltsmp f | .reuse f | .gfemb f | .scnbind f | .smpbind f | .ltset f => f.pfx
  | .trap f | .tretSave f | .tretRest f | .datum f | .bkpt f | .sleept f => f.pfx
  | _ => Pfx.none

/-- WM and ZPOL need a vector opcode whose DST names a v register (R248). -/
def Instr.acceptsMask : Instr → Bool
  | .vmov f | .vadd f | .vsub f | .vmul f | .vfma f | .vmin f | .vmax f | .vabs f | .vneg f | .vdiv f | .vrem f
  | .vand f | .vor f | .vxor f | .vnot f | .vshl f | .vshr f | .vsel f | .vcvt f | .vpack f | .vunpk f | .vclz f
  | .vpopc f | .vmulh f | .vcpys f | .vshfl f | .vbcast f | .vballot f | .vredx f | .vscan f | .vspc f | .vrcp f
  | .vrsq f | .vsqrt f | .vexp2 f | .vlog2 f | .vsin f | .vcos f | .vfdiv f | .vtanh f | .verf f =>
      match f.dst with | .v _ => true | _ => false
  | .vmovi f => match f.dst with | .v _ => true | _ => false
  | _ => false

/-- The opcodes that accept RND (R248, R324). -/
def Instr.acceptsRound : Instr → Bool
  | .vadd f | .vsub f | .vmul f | .vfma f | .vredx f | .vscan f => f.ty.isFloat
  | .vcvt f | .vpack f | .vunpk f | .scvt f =>
      f.ty.isFloat || f.ty.isLog || (Wf.srcType f.x).isFloat || (Wf.srcType f.x).isLog
  | .vrcp _ | .vrsq _ | .vsqrt _ | .vexp2 _ | .vlog2 _ | .vsin _ | .vcos _ | .vfdiv _ | .vtanh _ | .verf _ => true
  | .mma _ | .mmap _ | .mmas _ | .mmasp _ | .mmag _ | .mmagp _ | .acccvt _ | .accdr _ | .accdra _ | .attqk _
  | .attsm _ | .attpv _ | .attmd _ => true
  | _ => false

/-- The opcodes that accept a fourth operand (R248, R291, R324). -/
def Instr.acceptsFourth : Instr → Bool
  | .vpack f => Wf.packCount f.ty f.x = 4
  | .cas _ | .mma _ | .mmap _ | .attqk _ => true
  | _ => false

/-- The checks of decode cause 9. -/
def Instr.pfxOk (i : Instr) : Bool :=
  ((i.pfx.wm = 0 && !i.pfx.zpol) || i.acceptsMask) && (i.pfx.rnd = 0 || i.acceptsRound)
    && (i.pfx.d4.isNone || i.acceptsFourth)

/-- A slot instruction that the encoding admits. -/
def Instr.wellFormed (i : Instr) : Bool := i.isSlot && i.fieldsOk && i.pfxOk

end Sys2Proof
end

