-- ==== Sys2Proof/Decode.lean ====
section
/-!
DEFINITION. The decoder of slots and clauses (R197 to R219), total on any words, and the encoder beside it.
A slot is refused with the cause numbers of R218.
-/
namespace Sys2Proof

/-! ## Fields -/

/-- Bits [hi:lo] of a word, `n` of them from bit `lo`. -/
def bits (w : W64) (lo n : Nat) : BitVec n := w.extractLsb' lo n

/-- Bit `i` of a word. -/
def bitAt (w : W64) (i : Nat) : Bool := w.getLsbD i

/-- A field put at bit `lo`. -/
def place {n : Nat} (x : BitVec n) (lo : Nat) : W64 := (x.zeroExtend 64) <<< lo

def placeBool (b : Bool) (lo : Nat) : W64 := if b then (1 : W64) <<< lo else 0

/-- The IDX field: 0x1FF means that there is no index (R206). -/
def idxOf (c : BitVec 9) : Option Operand := if c = 0x1FF then none else some (Operand.ofCode c)

def idxCode : Option Operand → BitVec 9
  | none => 0x1FF
  | some o => o.code

/-! ## The word before a slot (R211) -/

/-- The 32 bits before a slot; none when a reserved bit is set, RND is 5 to 7, or D4 is non-zero while D4V is 0
(decode cause 5). -/
def decodePfx (p : W32) : Option Pfx :=
  let d4v := p.getLsbD 16
  let d4 : BitVec 9 := p.extractLsb' 7 9
  let rnd : BitVec 3 := p.extractLsb' 4 3
  if p.extractLsb' 17 15 ≠ 0 || 4 < rnd.toNat || (!d4v && d4 ≠ 0) then none
  else some { d4 := if d4v then some (Operand.ofCode d4) else none, rnd := rnd, zpol := p.getLsbD 3, wm := p.extractLsb' 0 3 }

def encodePfx (p : Pfx) : W32 :=
  (match p.d4 with | none => 0 | some o => (1 : W32) <<< 16 ||| (o.code.zeroExtend 32) <<< 7)
    ||| (p.rnd.zeroExtend 32) <<< 4 ||| (if p.zpol then (8 : W32) else 0) ||| p.wm.zeroExtend 32

/-! ## The forms (R202 to R209).  None is a reserved TYPE code or a non-zero reserved bit of the form. -/

def decV (p : Pfx) (w : W64) : Option VForm :=
  (ElemType.ofCode (bits w 52 4)).map fun ty =>
    { ty := ty, var := bits w 50 2, pg := bits w 47 3, pn := bitAt w 46, nw := bitAt w 45,
      dst := Operand.ofCode (bits w 36 9), sa := Operand.ofCode (bits w 27 9), sb := Operand.ofCode (bits w 18 9),
      sc := Operand.ofCode (bits w 9 9), x := bits w 0 9, pfx := p }

def decI (p : Pfx) (w : W64) : Option IForm :=
  if bits w 32 4 ≠ 0 then none
  else (ElemType.ofCode (bits w 52 4)).map fun ty =>
    { ty := ty, var := bits w 50 2, pg := bits w 47 3, pn := bitAt w 46, nw := bitAt w 45,
      dst := Operand.ofCode (bits w 36 9), imm := bits w 0 32, pfx := p }

def decM (p : Pfx) (w : W64) : Option MForm :=
  if bitAt w 0 then none
  else (ElemType.ofCode (bits w 52 4)).map fun ty =>
    { ty := ty, hint := bits w 50 2, pg := bits w 47 3, pn := bitAt w 46, nw := bitAt w 45,
      data := Operand.ofCode (bits w 36 9), cap := bits w 32 4, idx := idxOf (bits w 23 9), ofs := bits w 7 16,
      scope := bits w 3 4, ord := bits w 1 2, pfx := p }

def decB (w : W64) : Option BForm :=
  if bits w 45 11 ≠ 0 || bitAt w 0 then none
  else some { target := bits w 29 16, join := bits w 13 16, kc := bits w 10 3, kn := bitAt w 9, bmode := bits w 7 2,
              cnt := bits w 1 6 }

def decQ (p : Pfx) (w : W64) : Option QForm :=
  if bits w 0 5 ≠ 0 then none
  else (ElemType.ofCode (bits w 52 4)).map fun ty =>
    { ty := ty, var := bits w 50 2, pg := bits w 47 3, pn := bitAt w 46, nw := bitAt w 45, qd := bits w 41 4,
      cap := bits w 37 4, desc := Operand.ofCode (bits w 28 9), semv := bitAt w 27, sem := bits w 22 5,
      inc := bits w 14 8, arg := Operand.ofCode (bits w 5 9), pfx := p }

def decS (p : Pfx) (w : W64) : Option SForm :=
  if bits w 50 6 ≠ 0 then none
  else some { pg := bits w 47 3, pn := bitAt w 46, nw := bitAt w 45, dst := Operand.ofCode (bits w 36 9),
              sa := Operand.ofCode (bits w 27 9), sel := bits w 15 12, imm := bits w 0 15, pfx := p }

/-- The opcodes 0x00 to 0x0F. -/
def instrRow0 (p : Pfx) (w : W64) : Nat → Option Instr
  | 0x1 => (decV p w).map .nop
  | 0x2 => (decV p w).map .smov
  | 0x3 => (decI p w).map .smovi
  | 0x4 => (decV p w).map .sadd
  | 0x5 => (decV p w).map .ssub
  | 0x6 => (decV p w).map .smul
  | 0x7 => (decV p w).map .smulh
  | 0x8 => (decV p w).map .sdiv
  | 0x9 => (decV p w).map .srem
  | 0xA => (decV p w).map .sand
  | 0xB => (decV p w).map .sor
  | 0xC => (decV p w).map .sxor
  | 0xD => (decV p w).map .sshl
  | 0xE => (decV p w).map .sshr
  | 0xF => (decV p w).map .scmp
  | _ => none

/-- The opcodes 0x10 to 0x1F. -/
def instrRow1 (p : Pfx) (w : W64) : Nat → Option Instr
  | 0x0 => (decV p w).map .ssel
  | 0x1 => (decI p w).map .saddi
  | 0x2 => (decV p w).map .smin
  | 0x3 => (decV p w).map .smax
  | 0x4 => (decV p w).map .srd
  | 0x5 => (decV p w).map .scvt
  | 0x6 => (decV p w).map .sclz
  | 0x7 => (decV p w).map .spopc
  | 0x8 => (decV p w).map .vmov
  | 0x9 => (decI p w).map .vmovi
  | 0xA => (decV p w).map .vadd
  | 0xB => (decV p w).map .vsub
  | 0xC => (decV p w).map .vmul
  | 0xD => (decV p w).map .vfma
  | 0xE => (decV p w).map .vmin
  | 0xF => (decV p w).map .vmax
  | _ => none

/-- The opcodes 0x20 to 0x2F. -/
def instrRow2 (p : Pfx) (w : W64) : Nat → Option Instr
  | 0x0 => (decV p w).map .vabs
  | 0x1 => (decV p w).map .vneg
  | 0x2 => (decV p w).map .vdiv
  | 0x3 => (decV p w).map .vrem
  | 0x4 => (decV p w).map .vand
  | 0x5 => (decV p w).map .vor
  | 0x6 => (decV p w).map .vxor
  | 0x7 => (decV p w).map .vnot
  | 0x8 => (decV p w).map .vshl
  | 0x9 => (decV p w).map .vshr
  | 0xA => (decV p w).map .vcmp
  | 0xB => (decV p w).map .vsel
  | 0xC => (decV p w).map .vcvt
  | 0xD => (decV p w).map .vpack
  | 0xE => (decV p w).map .vunpk
  | 0xF => (decV p w).map .vclz
  | _ => none

/-- The opcodes 0x30 to 0x3F. -/
def instrRow3 (p : Pfx) (w : W64) : Nat → Option Instr
  | 0x0 => (decV p w).map .vpopc
  | 0x1 => (decV p w).map .vmulh
  | 0x2 => (decV p w).map .vcpys
  | 0x3 => (decV p w).map .kand
  | 0x4 => (decV p w).map .kor
  | 0x5 => (decV p w).map .kxor
  | 0x6 => (decV p w).map .knot
  | 0x7 => (decV p w).bind fun f => match f.var.toNat with | 0 => some (.kmovKk f) | 1 => some (.kmovSk f) | 2 => some (.kmovKs f) | _ => none
  | 0x8 => (decV p w).map .vshfl
  | 0x9 => (decV p w).map .vbcast
  | 0xA => (decV p w).map .vvote
  | 0xB => (decV p w).map .vballot
  | 0xC => (decV p w).map .vredx
  | 0xD => (decV p w).map .vscan
  | 0xE => (decV p w).map .setf
  | 0xF => (decV p w).map .vspc
  | _ => none

/-- The opcodes 0x40 to 0x4F. -/
def instrRow4 (p : Pfx) (w : W64) : Nat → Option Instr
  | 0x0 => (decV p w).map .vrcp
  | 0x1 => (decV p w).map .vrsq
  | 0x2 => (decV p w).map .vsqrt
  | 0x3 => (decV p w).map .vexp2
  | 0x4 => (decV p w).map .vlog2
  | 0x5 => (decV p w).map .vsin
  | 0x6 => (decV p w).map .vcos
  | 0x7 => (decV p w).map .vfdiv
  | 0x8 => (decV p w).map .vtanh
  | 0x9 => (decV p w).map .verf
  | _ => none

/-- The opcodes 0x50 to 0x5F. -/
def instrRow5 (p : Pfx) (w : W64) : Nat → Option Instr
  | 0x0 => (decB w).map .br
  | 0x1 => (decB w).map .jmp
  | 0x2 => (decB w).map .loop
  | 0x3 => (decV p w).map .exit
  | 0x4 => (decV p w).map .reggive
  | 0x5 => (decV p w).map .regclaim
  | 0x6 => (decV p w).map .rolesw
  | _ => none

/-- The opcodes 0x60 to 0x6F. -/
def instrRow6 (p : Pfx) (w : W64) : Nat → Option Instr
  | 0x0 => (decM p w).map .ld
  | 0x1 => (decM p w).map .st
  | 0x2 => (decM p w).map .ldp
  | 0x3 => (decM p w).map .stp
  | 0x4 => (decV p w).map .tld
  | 0x5 => (decV p w).map .tst
  | 0x6 => (decV p w).map .talloc
  | 0x7 => (decV p w).map .tfree
  | 0x8 => (decM p w).map .cnarrow
  | 0x9 => (decM p w).map .csave
  | 0xA => (decM p w).map .cload
  | 0xB => (decM p w).map .atom
  | 0xC => (decM p w).map .atomr
  | 0xD => (decM p w).map .cas
  | 0xE => (decM p w).map .lds
  | 0xF => (decM p w).map .sts
  | _ => none

/-- The opcodes 0x70 to 0x7F. -/
def instrRow7 (p : Pfx) (w : W64) : Nat → Option Instr
  | 0x0 => (decM p w).map .wlpush
  | 0x1 => (decM p w).map .wlpopb
  | 0x2 => (decM p w).map .wlins
  | 0x3 => (decM p w).map .wlres
  | 0x4 => (decM p w).map .wlcom
  | 0x5 => (decM p w).map .wlsize
  | _ => none

/-- The opcodes 0x80 to 0x8F. -/
def instrRow8 (p : Pfx) (w : W64) : Nat → Option Instr
  | 0x0 => (decV p w).map .fence
  | 0x1 => (decM p w).map .waitc
  | 0x2 => (decV p w).map .phreg
  | 0x3 => (decV p w).map .pharr
  | 0x4 => (decV p w).map .phwait
  | 0x5 => (decV p w).map .semset
  | 0x6 => (decV p w).map .semwait
  | 0x7 => (decM p w).map .tvdecl
  | 0x8 => (decV p w).map .tvwait
  | 0x9 => (decV p w).map .tvend
  | 0xA => (decQ p w).map .qbind
  | 0xC => (decQ p w).map .launch
  | 0xD => (decV p w).map .phdrop
  | 0xE => (decV p w).map .semrd
  | _ => none

/-- The opcodes 0x90 to 0x9F. -/
def instrRow9 (p : Pfx) (w : W64) : Nat → Option Instr
  | 0x0 => (decQ p w).map .jccopy
  | 0x1 => (decQ p w).map .jcgath
  | 0x2 => (decQ p w).map .jcscat
  | 0x3 => (decQ p w).map .jccoll
  | 0x4 => (decQ p w).map .jcmtx
  | 0x5 => (decQ p w).map .jcfill
  | _ => none

/-- The opcodes 0xA0 to 0xAF. -/
def instrRowA (p : Pfx) (w : W64) : Nat → Option Instr
  | 0x0 => (decS p w).map .trap
  | 0x1 => (decS p w).bind fun f => match f.sel.toNat with | 0 => some (.tretSave f) | 1 => some (.tretRest f) | _ => none
  | 0x2 => (decS p w).map .datum
  | 0x3 => (decS p w).map .bkpt
  | 0x4 => (decS p w).map .sleept
  | _ => none

/-- The opcodes 0xB0 to 0xBF. -/
def instrRowB (p : Pfx) (w : W64) : Nat → Option Instr
  | 0x0 => (decV p w).map .mma
  | 0x1 => (decV p w).map .mmap
  | 0x2 => (decV p w).map .mmas
  | 0x3 => (decV p w).map .mmasp
  | 0x4 => (decV p w).map .mmag
  | 0x5 => (decV p w).map .mmagp
  | 0x6 => (decV p w).map .mlda
  | 0x7 => (decV p w).map .mldb
  | 0x8 => (decV p w).map .unfold
  | 0x9 => (decQ p w).map .accdr
  | 0xA => (decQ p w).map .accdra
  | 0xB => (decV p w).map .accld
  | 0xC => (decV p w).map .accz
  | 0xD => (decV p w).bind fun f => match f.var.toNat with | 0 => some (.accmovGet f) | 1 => some (.accmovPut f) | _ => none
  | 0xE => (decV p w).map .attqk
  | 0xF => (decV p w).map .attsm
  | _ => none

/-- The opcodes 0xC0 to 0xCF. -/
def instrRowC (p : Pfx) (w : W64) : Nat → Option Instr
  | 0x0 => (decV p w).map .attpv
  | 0x1 => (decQ p w).map .attmd
  | 0x2 => (decQ p w).map .kvrs
  | 0x3 => (decV p w).map .msync
  | 0x4 => (decV p w).map .melect
  | 0x5 => (decV p w).map .acccvt
  | _ => none

/-- The opcodes 0xD0 to 0xDF. -/
def instrRowD (p : Pfx) (w : W64) : Nat → Option Instr
  | 0x0 => (decV p w).map .rng
  | 0x1 => (decV p w).map .rngu
  | 0x2 => (decV p w).map .rsvinit
  | 0x3 => (decV p w).map .rsvupd
  | 0x4 => (decV p w).map .rsvmrg
  | 0x5 => (decV p w).map .rsvnrm
  | 0x6 => (decV p w).map .rsvld
  | 0x7 => (decV p w).map .rsvst
  | 0x8 => (decQ p w).map .rayq
  | 0x9 => (decQ p w).map .rays
  | 0xA => (decV p w).map .hitunp
  | 0xB => (decQ p w).map .ltsmp
  | 0xC => (decQ p w).map .reuse
  | 0xD => (decQ p w).map .scnbind
  | 0xE => (decQ p w).map .gfemb
  | 0xF => (decV p w).map .visw
  | _ => none

/-- The opcodes 0xE0 to 0xEF. -/
def instrRowE (p : Pfx) (w : W64) : Nat → Option Instr
  | 0x0 => (decV p w).map .smpt
  | 0x1 => (decV p w).map .smpb
  | 0x2 => (decQ p w).map .smpbind
  | 0x3 => (decV p w).map .rsvclr
  | 0x4 => (decV p w).map .motv
  | 0x5 => (decQ p w).map .ltset
  | 0x6 => (decV p w).map .rsvcpy
  | 0x7 => (decV p w).map .rayorg
  | 0x8 => (decV p w).map .gfedepth
  | 0x9 => (decV p w).map .viscls
  | _ => none

/-- The constructor of a slot by the opcode map (R214, R216), one row of sixteen opcodes at a time; none is decode cause 6 for an
unassigned opcode and cause 8 otherwise. -/
def instrOf (p : Pfx) (w : W64) : Option Instr :=
  let n := (bits w 56 8).toNat
  match n / 16 with
  | 0x0 => instrRow0 p w (n % 16)
  | 0x1 => instrRow1 p w (n % 16)
  | 0x2 => instrRow2 p w (n % 16)
  | 0x3 => instrRow3 p w (n % 16)
  | 0x4 => instrRow4 p w (n % 16)
  | 0x5 => instrRow5 p w (n % 16)
  | 0x6 => instrRow6 p w (n % 16)
  | 0x7 => instrRow7 p w (n % 16)
  | 0x8 => instrRow8 p w (n % 16)
  | 0x9 => instrRow9 p w (n % 16)
  | 0xA => instrRowA p w (n % 16)
  | 0xB => instrRowB p w (n % 16)
  | 0xC => instrRowC p w (n % 16)
  | 0xD => instrRowD p w (n % 16)
  | 0xE => instrRowE p w (n % 16)
  | _ => none

/-- The assigned opcodes of R214. -/
def opAssigned (op : BitVec 8) : Bool :=
  let n := op.toNat
  (1 ≤ n && n ≤ 0x49) || (0x50 ≤ n && n ≤ 0x56) || (0x60 ≤ n && n ≤ 0x75) || (0x80 ≤ n && n ≤ 0x8E && n ≠ 0x8B)
    || (0x90 ≤ n && n ≤ 0x95) || (0xA0 ≤ n && n ≤ 0xA4) || (0xB0 ≤ n && n ≤ 0xC5) || (0xD0 ≤ n && n ≤ 0xE9)

/-- The class of an opcode's range (R199, R215). -/
def opClass (op : BitVec 8) : Nat :=
  let n := op.toNat
  if n < 0x40 then 0 else if n < 0x50 then 1 else if n < 0x60 then 4 else if n < 0x80 then 2 else if n < 0xA0 then 3
  else if n < 0xB0 then 7 else if n < 0xD0 then 5 else 6

/-- Whether a clause of class `cls` may hold an opcode: its own class, and in a CTRL clause the scalar opcodes too
(R199). -/
def opInClass (op : BitVec 8) (cls : Nat) : Bool :=
  opClass op = cls || (cls = 4 && ((1 ≤ op.toNat && op.toNat ≤ 0x17) || op.toNat = 0x3E))

/-- The clause-ending opcodes BR, JMP, LOOP, EXIT, ROLESW and TRET (R199). -/
def opEnding (op : BitVec 8) : Bool :=
  let n := op.toNat
  (0x50 ≤ n && n ≤ 0x53) || n = 0x56 || n = 0xA1

/-- Whether the slot has the B-form, which accepts no word before it (R216). -/
def opIsB (op : BitVec 8) : Bool := 0x50 ≤ op.toNat && op.toNat ≤ 0x52

/-- One slot with the word that applies to it: the instruction, or the decode cause 6, 8 or 9 (R218). -/
def decodeSlot (p : Pfx) (w : W64) : Except Nat Instr :=
  if !opAssigned (bits w 56 8) then .error 6
  else match instrOf p w with
    | none => .error 8
    | some i =>
        if !i.fieldsOk then .error 8
        else if !i.pfxOk || (opIsB (bits w 56 8) && p ≠ Pfx.none) then .error 9
        else .ok i

/-! ## The clause header and the clause (R197, R199, R218) -/

/-- The fields of a clause header (R197). -/
structure Header where
  safe  : BitVec 8
  qend  : Bool
  pfx   : BitVec 16
  wq    : BitVec 16
  wsem  : BitVec 6
  wld   : BitVec 5
  cls   : BitVec 4
  count : BitVec 4
  deriving DecidableEq, Repr

def Header.ofWord (w : W64) : Header :=
  { safe := bits w 52 8, qend := bitAt w 51, pfx := bits w 35 16, wq := bits w 19 16, wsem := bits w 13 6,
    wld := bits w 8 5, cls := bits w 4 4, count := bits w 0 4 }

def Header.word (h : Header) : W64 :=
  place h.safe 52 ||| placeBool h.qend 51 ||| place h.pfx 35 ||| place h.wq 19 ||| place h.wsem 13 ||| place h.wld 8
    ||| place h.cls 4 ||| place h.count 0

/-- An illegal encoding: the cause of R218, the slot position of R219 and the offending word. -/
structure BadClause where
  cause : Nat
  pos   : Nat
  word  : W64
  deriving DecidableEq, Repr

/-- A decoded slot of a clause: its position (counting every slot), and the instruction. -/
structure ClauseSlot where
  pos   : Nat
  instr : Instr
  deriving DecidableEq, Repr

/-- The position of the k-th instruction slot at or after position `i` of `n` slots, under the PFX bits. -/
def nthInstr (pfx : BitVec 16) (n : Nat) : Nat → Nat → Option Nat
  | i, k => go (n - i) i k
where
  go : Nat → Nat → Nat → Option Nat
    | 0, _, _ => none
    | m + 1, i, k =>
        if pfx.getLsbD i then go m (i + 1) k
        else match k with
          | 0 => some i
          | k' + 1 => go m (i + 1) k'

/-- The word that stands before the instruction slot at `target`, among those placed so far. -/
def pfxAt (placed : List (Nat × Pfx)) (target : Nat) : Pfx :=
  match placed.find? (·.1 = target) with
  | some (_, p) => p
  | none => Pfx.none

/-- One half of a slot of 32-bit words: nothing when it is zero, else the pair of its target and its fields, or a
refusal (decode cause 5). -/
def placeHalf (h : Header) (placed : List (Nat × Pfx)) (pos k : Nat) (half : W32) : Option (List (Nat × Pfx)) :=
  if half = 0 then some placed
  else match decodePfx half, nthInstr h.pfx (h.count.toNat + 1) (pos + 1) k with
    | some p, some target => if placed.any (·.1 = target) then none else some ((target, p) :: placed)
    | _, _ => none

/-- The slots from position `pos` on, in ascending position (R218). -/
def decodeSlots (h : Header) : List W64 → Nat → List (Nat × Pfx) → Except BadClause (List ClauseSlot)
  | [], _, _ => .ok []
  | w :: ws, pos, placed =>
      if h.pfx.getLsbD pos then
        match (placeHalf h placed pos 0 (w.extractLsb' 0 32)).bind fun a => placeHalf h a pos 1 (w.extractLsb' 32 32) with
        | none => .error { cause := 5, pos := pos, word := w }
        | some placed' => decodeSlots h ws (pos + 1) placed'
      else
        let op := bits w 56 8
        if !opAssigned op then .error { cause := 6, pos := pos, word := w }
        else if !opInClass op h.cls.toNat || (opEnding op && pos ≠ h.count.toNat) then
          .error { cause := 7, pos := pos, word := w }
        else match decodeSlot (pfxAt placed pos) w with
          | .error c => .error { cause := c, pos := pos, word := w }
          | .ok i =>
              match decodeSlots h ws (pos + 1) placed with
              | .error e => .error e
              | .ok rest => .ok ({ pos := pos, instr := i } :: rest)

/-- A whole clause: the header causes 1 to 4 first, then the slots (R218).  `safeCount` is the kernel's number of
safe-point entries. -/
def decodeClause (safeCount : Nat) (header : W64) (slots : List W64) : Except BadClause (List ClauseSlot) :=
  let h := Header.ofWord header
  let bad (c : Nat) : Except BadClause (List ClauseSlot) := .error { cause := c, pos := 0, word := header }
  if bits header 60 4 ≠ 0 then bad 1
  else if 8 ≤ h.cls.toNat then bad 2
  else if (h.pfx.toNat >>> h.count.toNat) ≠ 0 then bad 3
  else if safeCount < h.safe.toNat then bad 4
  else decodeSlots h slots 0 []

/-! ## The encoder -/

def encV (op : BitVec 8) (f : VForm) : W64 :=
  place op 56 ||| place f.ty.code 52 ||| place f.var 50 ||| place f.pg 47 ||| placeBool f.pn 46 ||| placeBool f.nw 45
    ||| place f.dst.code 36 ||| place f.sa.code 27 ||| place f.sb.code 18 ||| place f.sc.code 9 ||| place f.x 0

def encI (op : BitVec 8) (f : IForm) : W64 :=
  place op 56 ||| place f.ty.code 52 ||| place f.var 50 ||| place f.pg 47 ||| placeBool f.pn 46 ||| placeBool f.nw 45
    ||| place f.dst.code 36 ||| place f.imm 0

def encM (op : BitVec 8) (f : MForm) : W64 :=
  place op 56 ||| place f.ty.code 52 ||| place f.hint 50 ||| place f.pg 47 ||| placeBool f.pn 46 ||| placeBool f.nw 45
    ||| place f.data.code 36 ||| place f.cap 32 ||| place (idxCode f.idx) 23 ||| place f.ofs 7 ||| place f.scope 3
    ||| place f.ord 1

def encB (op : BitVec 8) (f : BForm) : W64 :=
  place op 56 ||| place f.target 29 ||| place f.join 13 ||| place f.kc 10 ||| placeBool f.kn 9 ||| place f.bmode 7
    ||| place f.cnt 1

def encQ (op : BitVec 8) (f : QForm) : W64 :=
  place op 56 ||| place f.ty.code 52 ||| place f.var 50 ||| place f.pg 47 ||| placeBool f.pn 46 ||| placeBool f.nw 45
    ||| place f.qd 41 ||| place f.cap 37 ||| place f.desc.code 28 ||| placeBool f.semv 27 ||| place f.sem 22
    ||| place f.inc 14 ||| place f.arg.code 5

def encS (op : BitVec 8) (f : SForm) : W64 :=
  place op 56 ||| place f.pg 47 ||| placeBool f.pn 46 ||| placeBool f.nw 45 ||| place f.dst.code 36
    ||| place f.sa.code 27 ||| place f.sel 15 ||| place f.imm 0

/-- The slot word of a slot instruction; an event of the device has none. -/
def slotWord : Instr → Option W64
  | .nop f => some (encV 0x01 f)
  | .smov f => some (encV 0x02 f)
  | .sadd f => some (encV 0x04 f)
  | .ssub f => some (encV 0x05 f)
  | .smul f => some (encV 0x06 f)
  | .smulh f => some (encV 0x07 f)
  | .sdiv f => some (encV 0x08 f)
  | .srem f => some (encV 0x09 f)
  | .sand f => some (encV 0x0A f)
  | .sor f => some (encV 0x0B f)
  | .sxor f => some (encV 0x0C f)
  | .sshl f => some (encV 0x0D f)
  | .sshr f => some (encV 0x0E f)
  | .scmp f => some (encV 0x0F f)
  | .ssel f => some (encV 0x10 f)
  | .smin f => some (encV 0x12 f)
  | .smax f => some (encV 0x13 f)
  | .srd f => some (encV 0x14 f)
  | .scvt f => some (encV 0x15 f)
  | .sclz f => some (encV 0x16 f)
  | .spopc f => some (encV 0x17 f)
  | .vmov f => some (encV 0x18 f)
  | .vadd f => some (encV 0x1A f)
  | .vsub f => some (encV 0x1B f)
  | .vmul f => some (encV 0x1C f)
  | .vfma f => some (encV 0x1D f)
  | .vmin f => some (encV 0x1E f)
  | .vmax f => some (encV 0x1F f)
  | .vabs f => some (encV 0x20 f)
  | .vneg f => some (encV 0x21 f)
  | .vdiv f => some (encV 0x22 f)
  | .vrem f => some (encV 0x23 f)
  | .vand f => some (encV 0x24 f)
  | .vor f => some (encV 0x25 f)
  | .vxor f => some (encV 0x26 f)
  | .vnot f => some (encV 0x27 f)
  | .vshl f => some (encV 0x28 f)
  | .vshr f => some (encV 0x29 f)
  | .vcmp f => some (encV 0x2A f)
  | .vsel f => some (encV 0x2B f)
  | .vcvt f => some (encV 0x2C f)
  | .vpack f => some (encV 0x2D f)
  | .vunpk f => some (encV 0x2E f)
  | .vclz f => some (encV 0x2F f)
  | .vpopc f => some (encV 0x30 f)
  | .vmulh f => some (encV 0x31 f)
  | .vcpys f => some (encV 0x32 f)
  | .kand f => some (encV 0x33 f)
  | .kor f => some (encV 0x34 f)
  | .kxor f => some (encV 0x35 f)
  | .knot f => some (encV 0x36 f)
  | .kmovKk f => some (encV 0x37 f)
  | .kmovSk f => some (encV 0x37 f)
  | .kmovKs f => some (encV 0x37 f)
  | .vshfl f => some (encV 0x38 f)
  | .vbcast f => some (encV 0x39 f)
  | .vvote f => some (encV 0x3A f)
  | .vballot f => some (encV 0x3B f)
  | .vredx f => some (encV 0x3C f)
  | .vscan f => some (encV 0x3D f)
  | .setf f => some (encV 0x3E f)
  | .vspc f => some (encV 0x3F f)
  | .vrcp f => some (encV 0x40 f)
  | .vrsq f => some (encV 0x41 f)
  | .vsqrt f => some (encV 0x42 f)
  | .vexp2 f => some (encV 0x43 f)
  | .vlog2 f => some (encV 0x44 f)
  | .vsin f => some (encV 0x45 f)
  | .vcos f => some (encV 0x46 f)
  | .vfdiv f => some (encV 0x47 f)
  | .vtanh f => some (encV 0x48 f)
  | .verf f => some (encV 0x49 f)
  | .exit f => some (encV 0x53 f)
  | .reggive f => some (encV 0x54 f)
  | .regclaim f => some (encV 0x55 f)
  | .rolesw f => some (encV 0x56 f)
  | .tld f => some (encV 0x64 f)
  | .tst f => some (encV 0x65 f)
  | .talloc f => some (encV 0x66 f)
  | .tfree f => some (encV 0x67 f)
  | .fence f => some (encV 0x80 f)
  | .phreg f => some (encV 0x82 f)
  | .phdrop f => some (encV 0x8D f)
  | .pharr f => some (encV 0x83 f)
  | .phwait f => some (encV 0x84 f)
  | .semset f => some (encV 0x85 f)
  | .semwait f => some (encV 0x86 f)
  | .semrd f => some (encV 0x8E f)
  | .tvwait f => some (encV 0x88 f)
  | .tvend f => some (encV 0x89 f)
  | .mma f => some (encV 0xB0 f)
  | .mmap f => some (encV 0xB1 f)
  | .mmas f => some (encV 0xB2 f)
  | .mmasp f => some (encV 0xB3 f)
  | .mmag f => some (encV 0xB4 f)
  | .mmagp f => some (encV 0xB5 f)
  | .mlda f => some (encV 0xB6 f)
  | .mldb f => some (encV 0xB7 f)
  | .unfold f => some (encV 0xB8 f)
  | .accld f => some (encV 0xBB f)
  | .accz f => some (encV 0xBC f)
  | .accmovGet f => some (encV 0xBD f)
  | .accmovPut f => some (encV 0xBD f)
  | .acccvt f => some (encV 0xC5 f)
  | .attqk f => some (encV 0xBE f)
  | .attsm f => some (encV 0xBF f)
  | .attpv f => some (encV 0xC0 f)
  | .msync f => some (encV 0xC3 f)
  | .melect f => some (encV 0xC4 f)
  | .rng f => some (encV 0xD0 f)
  | .rngu f => some (encV 0xD1 f)
  | .rsvinit f => some (encV 0xD2 f)
  | .rsvupd f => some (encV 0xD3 f)
  | .rsvmrg f => some (encV 0xD4 f)
  | .rsvnrm f => some (encV 0xD5 f)
  | .rsvld f => some (encV 0xD6 f)
  | .rsvst f => some (encV 0xD7 f)
  | .rsvclr f => some (encV 0xE3 f)
  | .rsvcpy f => some (encV 0xE6 f)
  | .motv f => some (encV 0xE4 f)
  | .hitunp f => some (encV 0xDA f)
  | .rayorg f => some (encV 0xE7 f)
  | .gfedepth f => some (encV 0xE8 f)
  | .viscls f => some (encV 0xE9 f)
  | .visw f => some (encV 0xDF f)
  | .smpt f => some (encV 0xE0 f)
  | .smpb f => some (encV 0xE1 f)
  | .smovi f => some (encI 0x03 f)
  | .saddi f => some (encI 0x11 f)
  | .vmovi f => some (encI 0x19 f)
  | .br f => some (encB 0x50 f)
  | .jmp f => some (encB 0x51 f)
  | .loop f => some (encB 0x52 f)
  | .ld f => some (encM 0x60 f)
  | .st f => some (encM 0x61 f)
  | .ldp f => some (encM 0x62 f)
  | .stp f => some (encM 0x63 f)
  | .cnarrow f => some (encM 0x68 f)
  | .csave f => some (encM 0x69 f)
  | .cload f => some (encM 0x6A f)
  | .atom f => some (encM 0x6B f)
  | .atomr f => some (encM 0x6C f)
  | .cas f => some (encM 0x6D f)
  | .lds f => some (encM 0x6E f)
  | .sts f => some (encM 0x6F f)
  | .wlpush f => some (encM 0x70 f)
  | .wlpopb f => some (encM 0x71 f)
  | .wlins f => some (encM 0x72 f)
  | .wlres f => some (encM 0x73 f)
  | .wlcom f => some (encM 0x74 f)
  | .wlsize f => some (encM 0x75 f)
  | .waitc f => some (encM 0x81 f)
  | .tvdecl f => some (encM 0x87 f)
  | .qbind f => some (encQ 0x8A f)
  | .launch f => some (encQ 0x8C f)
  | .jccopy f => some (encQ 0x90 f)
  | .jcgath f => some (encQ 0x91 f)
  | .jcscat f => some (encQ 0x92 f)
  | .jccoll f => some (encQ 0x93 f)
  | .jcmtx f => some (encQ 0x94 f)
  | .jcfill f => some (encQ 0x95 f)
  | .accdr f => some (encQ 0xB9 f)
  | .accdra f => some (encQ 0xBA f)
  | .attmd f => some (encQ 0xC1 f)
  | .kvrs f => some (encQ 0xC2 f)
  | .scnbind f => some (encQ 0xDD f)
  | .rayq f => some (encQ 0xD8 f)
  | .rays f => some (encQ 0xD9 f)
  | .ltset f => some (encQ 0xE5 f)
  | .ltsmp f => some (encQ 0xDB f)
  | .reuse f => some (encQ 0xDC f)
  | .gfemb f => some (encQ 0xDE f)
  | .smpbind f => some (encQ 0xE2 f)
  | .trap f => some (encS 0xA0 f)
  | .tretSave f => some (encS 0xA1 f)
  | .tretRest f => some (encS 0xA1 f)
  | .datum f => some (encS 0xA2 f)
  | .bkpt f => some (encS 0xA3 f)
  | .sleept f => some (encS 0xA4 f)
  | _ => none

/-- The words of a well-formed slot instruction: the 32-bit word before it, and the slot. -/
def encode (i : Instr) : Option (W32 × W64) := (slotWord i).map fun w => (encodePfx i.pfx, w)

/-- The decoder of what `encode` gives. -/
def decode (p : W32) (w : W64) : Option Instr :=
  match decodePfx p with
  | none => none
  | some pf =>
      match decodeSlot pf w with
      | .ok i => some i
      | .error _ => none

/-- The 64-bit word of eight bytes, the first byte lowest (R220). -/
def wordOfBytes (bs : List Byte) : W64 := bs.foldr (fun b acc => (acc <<< 8) ||| b.zeroExtend 64) 0

/-- The eight bytes of a 64-bit word, the lowest first (R220). -/
def bytesOfWord (w : W64) : List Byte := (List.range 8).map fun i => w.extractLsb' (8 * i) 8

/-- The slot instruction that the decoder reads from a 64-bit slot whose bits are `w`; a slot is one 8-byte record,
stored little-endian (R220).  An event of the device has no word. -/
def decodeTableWord (nbits w : Nat) : Option Instr :=
  if 64 < nbits then none
  else match decodeSlot Pfx.none (wordOfBytes (bytesOfWord (BitVec.ofNat 64 (w % 2 ^ nbits)))) with
    | .ok i => some i
    | .error _ => none

end Sys2Proof
end

