-- ==== Sys2Proof/Machine/State.lean ====
section
/-!
DEFINITION. The state of one Qorfy Q7 package as plain data, its value right after cold reset, and the reasons for which
a step stops.
-/
namespace Sys2Proof.Machine
open Sys2Proof

/-! ## Capabilities, queues and the parts of a group -/

/-- A capability register or a stored capability: the 128 bits of R63 and the validity tag beside them. -/
structure Cap where
  bits : W128
  tag  : Bool
  deriving DecidableEq, Repr

/-- A scene attached to a ray binding, or a light tree attached to a walker binding (R366, R373): the capability it was
named through and the fields of its descriptor. -/
structure Attached where
  cap     : Cap
  nodeOff : Nat
  triOff  : Nat
  nTri    : Nat
  nNode   : Nat
  deriving DecidableEq, Repr

/-- A texture in a sampler slot (R388): the capability and the fields of its descriptor. -/
structure Texture where
  cap    : Cap
  offset : Nat
  pitch  : Nat
  wm1    : Nat
  hm1    : Nat
  ty     : ElemType
  amode  : BitVec 2
  deriving DecidableEq, Repr

/-- A command that a slot pushes into an engine port as one entry (R112), beside the vector entries it carries. -/
inductive Cmd where
  | ray (any : Bool) (flags : W64) (scene : Attached)
  | light (d0 : W32) (tree : Attached)
  | kvrs (ty : ElemType) (cap : Cap) (reg : Nat) (word page : W64)
  | gfemb (cap : Cap) (desc : BitVec 1024) (visarea : W32)
  | gfedepth (cap : Cap) (desc : BitVec 1024)
  | reuse (cap : Cap) (card : BitVec 512) (fmt : W32) (scene : Attached) (body : List (List W64))
  deriving DecidableEq, Repr

/-- One entry of a queue (R110): a vector entry holds a mask and the lanes' values, a scalar entry one value (lane 0
of `vals`).  The first entry of a command carries the command and its completion increment. -/
structure QEntry where
  scalar : Bool
  mask   : W64
  vals   : Tbl W64
  cmd    : Option Cmd
  semv   : Bool
  sem    : Nat
  inc    : Nat
  clause : W32
  slot   : Nat
  deriving DecidableEq, Repr

/-- A queue register (R68): the binding, its entries oldest first, the number of the binding (so that a result for
an earlier binding is known, R112), and what is attached to it. -/
structure Queue where
  binding : BitVec 16
  gen     : Nat
  entries : List QEntry
  scene   : Option Attached
  deriving DecidableEq, Repr

def Queue.empty : Queue := { binding := 0, gen := 0, entries := [], scene := none }

/-- How a path stands to the routines of pre-emption (R417, R418). -/
inductive Routine where
  | none | save | rest | saved
  deriving DecidableEq, Repr

/-- A path slot's path (R37), with its counts of R51 and R271, since when it has been ready (R34), whether it is aged
(R414), and its place in pre-emption (R416, R417) with the safe-point clause that a restore goes back to. -/
structure Path where
  pc      : W32
  mask    : W64
  join    : Option W32
  fmt     : W32
  qcnt    : Nat
  iter    : W32
  body    : Option (W32 × W32)
  ready   : Option Nat
  aged    : Bool
  waits   : Nat := 0
  safe    : Option Nat
  routine : Routine
  home    : W32
  deriving DecidableEq, Repr

/-- What a fault record says of a fault (R125, R424); `core` is the core that CORE names when it is not the group's own
(a pair operation's follower, R195), and `time` the sr.time of the fault when its record is posted later. -/
structure FaultInfo where
  code   : Nat
  lane   : Nat
  addr   : W64
  detail : BitVec 192
  core   : Option Nat := none
  time   : Option W64 := none
  deriving DecidableEq, Repr

/-- What one lane of a pending write waits for: a value that is known, bytes of memory that are read when the data
returns (with the bytes its own store buffer or log supplied at the slot, by offset), the answer of an operation at a
home slice, a reservoir record, or data that are poisoned or answered in error (R427). -/
inductive LaneSource where
  | value (ws : List W64)
  | memory (cell : Nat) (n : Nat) (va : Nat) (fwd : Tbl Byte)
  | home
  | reservoir (vf die byte : Nat)
  | failed (f : FaultInfo)
  deriving DecidableEq, Repr

/-- Where a pending write goes. -/
inductive PendDst where
  | vregs (r n : Nat)
  | sreg (r : Nat)
  | queue (q : Nat)
  | nothing
  deriving DecidableEq, Repr

/-- The kinds of pending write: loads count toward WLD (R200), special-function results are written in slot order
(R263), and an ACCMOV result waits for its array (R340). -/
inductive PendKind where
  | load | sfu | array
  deriving DecidableEq, Repr

/-- A write of a slot that has issued and is not yet done (R263, R281); `hold` keeps the group's next clause back until it is
done (R193).  `zeros` and `keeps` are the lanes whose destination is set to zero or left as it is, while the latch takes their
results (R67, R211); `one` marks a single value for the path.  `hint` is the L2 hint of a load (R98), and `joined` the lanes of
the paths that arms of this write have joined into, which come after it (R400). -/
structure Pending where
  uid    : Nat
  kind   : PendKind
  path   : PathSlot
  clause : W32
  slot   : Nat
  run    : Nat
  latch  : Option Nat
  ty     : ElemType
  dst    : PendDst
  lanes  : List (Nat × LaneSource)
  hold   : Bool
  zeros  : W64 := 0
  keeps  : W64 := 0
  one    : Bool := false
  hint   : BitVec 2 := 0
  joined : W64 := 0
  deriving DecidableEq, Repr

/-- A buffered store (R49, R282).  `own` is a store to the group's own object of c15 (R90), whose address is a byte of
that object. -/
structure StoreEntry where
  lane : Nat
  own  : Bool
  va   : Nat
  n    : Nat
  data : W64
  hint : BitVec 2
  reg  : Nat
  clause : W32
  slot : Nat
  /-- Its quantum has begun to end, and the commit waits (R157). -/
  leaving : Bool := false
  deriving DecidableEq, Repr

/-- A fault found after its slot (R427), or one of a card or an operation (R194, R313): it names its own clause and
slot, where it is delivered, and the record that stands for it when one is posted already. -/
structure LateFault where
  info   : FaultInfo
  posted : Option Nat
  clause : W32
  slot   : Nat
  queue  : Option Nat
  sem    : Option Nat
  atBoundary : Bool
  atRelease  : Bool
  matrix     : Bool
  deriving DecidableEq, Repr

/-- A traverse declaration of a group (R303): its ranges and blocks, once submitted its number, and whether its TVWAIT has
returned. -/
structure Decl where
  ranges    : Nat
  blocks    : List Nat
  submitted : Option Nat
  waited    : Bool
  fault     : Option FaultInfo
  deriving DecidableEq, Repr

/-- A role that a group holds on a phaser (R300): signaller and waiter, whether it is counted in the current SIG, and
whether it has arrived in the current phase. -/
structure Role where
  pkg     : Bool
  n       : Nat
  sig     : Bool
  wait    : Bool
  counted : Bool
  arrived : Bool
  deriving DecidableEq, Repr

/-- Why a slot does not go on (R111 and the rules that say a slot blocks or sleeps as R111 describes). -/
inductive Wait where
  /-- A push into a full binding or a pop from an empty one (R111). -/
  | queue (q : Nat)
  /-- A register or a latch with a pending write (R263, R281), or a queue read behind one. -/
  | write
  /-- Loads that have not returned: the 33rd (R200), an acquire (R279), or a commit (R406). -/
  | loads
  /-- A claim for blocks (R273). -/
  | claim
  /-- The users of a handle (R287). -/
  | tiles (handle : Nat)
  /-- The accumulator tiles, held by another parcel (R76), or a matrix engine under reset (R431). -/
  | array
  /-- A matrix operation, or the end of every one of the group (R321, R343). -/
  | operations
  /-- Space in a launch ring (R119). -/
  | ring (queue : Nat)
  /-- Space in the task scheduler (R127). -/
  | scheduler
  /-- Acknowledgements (R157, R158). -/
  | acks
  /-- A second arrival within one phase (R150): the phaser and the phase that must pass. -/
  | phase (pkg : Bool) (n : Nat) (p : W32)
  /-- A page that is moving (R138, R145). -/
  | moving
  /-- A place in the watch table of a slice (R298). -/
  | watchTable (die slice : Nat)
  /-- A watch (R297). -/
  | watch
  /-- A wake that crosses the links (R54, R128): the number of its flit. -/
  | waking (flit : Nat)
  /-- A class queue that is full, or a link that holds its traffic (R108, R128). -/
  | link
  /-- A phase (R150). -/
  | phaser (pkg : Bool) (n : Nat) (p : W32)
  /-- A semaphore's target (R302). -/
  | semaphore (n : Nat)
  /-- The grants of a declaration (R304). -/
  | grants
  /-- A time (R320). -/
  | time (t : W64)
  deriving DecidableEq, Repr

/-- Where a path goes once its clause has ended: to the next clause, to a clause, to the two sides of a branch
(R38), or nowhere, when a routine of pre-emption has ended (R318). -/
inductive Goto where
  | next
  | clause (offset : W32)
  | diverge (target : W32) (taken : W64) (join : W32)
  | saved
  | restored
  deriving DecidableEq, Repr


/-- The state of a group: ready or issuing, waiting at a slot, parked on a record, stopping (R422: its pending results
are still to come before the record is posted), stopped on a record (none for one that the debug port holds), or
ended. -/
inductive Status where
  | ready
  | waiting (w : Wait)
  | parked (seq : Nat)
  | stopping (f : FaultInfo) (posted : Option Nat)
  | stopped (seq : Option Nat)
  | ended
  deriving DecidableEq, Repr

/-- A clause that a path has begun (R213): its slots with the bits that stand before each, the next instruction slot,
and the latches.  `words` are what the core fetched; a step decodes the next of them. -/
structure ClauseRun where
  id      : Nat
  path    : PathSlot
  clause  : W32
  header  : W64
  words   : List (Nat × W32 × W64)
  idx     : Nat
  latches : Tbl (Tbl W64)
  valid   : BitVec 4
  leaving : Option Goto
  woken   : Bool
  noMatch : Bool
  deriving DecidableEq, Repr

/-- The registers that a stop fills (R84, R422), and whether a BKPT slot stopped the group, so that a resumption goes on after it
(R430). -/
structure Dbg where
  lat    : Tbl (Tbl W64)
  empty  : BitVec 4
  clause : W32
  slot   : Nat
  iter   : W32
  bkpt   : Bool := false
  deriving DecidableEq, Repr

/-- A group (R20, R37, R57); `own` holds the newest bytes of the private object and `ownHome` what its home
slice holds of them (R90, R95); `badRegs` lists the poisoned register blocks, 64 × (register / 8) + lane (R106). -/
structure Group where
  uid      : Nat
  parcel   : Nat
  index    : Nat
  core     : Nat
  place    : Nat
  width    : Nat
  launched : W64
  exited   : W64
  allot    : Nat
  prio     : BitVec 2
  entry    : W32
  v        : Tbl W64
  s        : Tbl W64
  caps     : Tbl Cap
  masks    : Tbl W64
  p0       : Option Path
  p1       : Option Path
  last     : PathSlot
  stack    : Nat
  queues   : Tbl Queue
  samplers : Tbl (Option Texture)
  pending  : List Pending
  buffer   : List StoreEntry
  acks     : Nat
  status   : Status
  run      : Option ClauseRun
  decl     : Option Decl
  closedTv : List Nat
  roles    : List Role
  claim    : Option Nat
  granted  : Nat
  dbg      : Dbg
  own      : Tbl Byte
  ownHome  : Tbl Byte
  ownTags  : Tbl Bool
  ownPoison : List Nat
  badRegs  : List Nat
  late     : List LateFault
  deriving DecidableEq, Repr

/-! ## Parcels and launches -/

/-- A half-open box over the launch's domain (R18). -/
structure Box where
  x0 : Nat
  x1 : Nat
  y0 : Nat
  y1 : Nat
  z0 : Nat
  z1 : Nat
  deriving DecidableEq, Repr

/-- A tile allocation (R130): the fields of its entry, the core whose tile memory holds it (for DIE the core that allocated
it), how many of its 4 KiB units come from the parcel's reservation and how many from free space (R87), the list of its units in
allocation order, the cycle in which it was allocated with the index of the allocating group (R131), its bytes, and its poisoned
64-byte sectors. -/
structure Tile where
  level  : BitVec 2
  core   : Nat
  ty     : ElemType
  rows   : Nat
  cols   : Nat
  pitch  : Nat
  unitsRsv  : Nat
  unitsFree : Nat
  units  : List Nat
  since  : Nat
  byGroup : Nat
  data   : Tbl Byte
  poison : List Nat
  deriving DecidableEq, Repr

/-- A phaser entry (R149). -/
structure Phaser where
  phase   : W32
  sig     : Nat
  wait    : Nat
  arrived : Nat
  signext : Nat
  live    : Bool
  deriving DecidableEq, Repr

def Phaser.clear : Phaser := { phase := 0, sig := 0, wait := 0, arrived := 0, signext := 0, live := false }

/-- A claim of R45, with the clause and slot that made it (R461) and the cycle in which it blocked. -/
structure Claim where
  group  : Nat
  core   : Nat
  blocks : Nat
  clause : W32
  slot   : Nat
  since  : Nat
  deriving DecidableEq, Repr

/-- An increment that reached a semaphore in cycle `cycle`, and the groups that it made ready (R159). -/
structure SemArrival where
  sem   : Nat
  cycle : Nat
  inc   : Nat
  woke  : List Nat
  deriving DecidableEq, Repr

/-- The kinds of work-list append (R115). -/
inductive Append where
  | push | insert | commit
  deriving DecidableEq, Repr

/-- A record of a commit log (R102).  Addresses are virtual (R146).  `write` and `add` hold the rows of one engine write or drain, and
`bad` is a record whose stored bytes are poisoned (R105). -/
inductive LogRec where
  | store (va n : Nat) (data : W128) (lane : Nat)
  | atomic (va : Nat) (ty : ElemType) (op : Nat) (value : W64) (cmp : Option W64)
  | write (rows : List (Nat × List Byte))
  | add (ty : ElemType) (fmt : W32) (rows : List (Nat × List W64))
  | mass (block : Nat) (gen : BitVec 16) (vals : List W32)
  | pop (list seq : Nat) (record : W128)
  | append (list : Nat) (kind : Append) (record : W128)
  | launch (queue : Nat) (entry : List Byte)
  | bad (r : LogRec)
  deriving DecidableEq, Repr

/-- The life of a parcel: running, being saved (with the cycle by which it is late), saved, being restored, at a step of
its retirement (R24), or ended and waiting for what has started (R423; `placed` is false for one that was saved and holds
no allotment). -/
inductive ParcelState where
  | running
  | saving (limit : Nat)
  | saveRoutines (limit : Nat)
  | saved
  | restoring
  | retiring (step : Nat)
  | ended (placed : Bool)
  deriving DecidableEq, Repr

/-- A parcel that has a place on a core or a pair.  `rsvLead` and `rsvFollow` are the block-lanes of its reserve on its
two cores (R43), `unitsLead` and `unitsFollow` what is left of its `.tiles` reservation.  `due` holds in the cycle in which the
allowance counter would reach the allowance (R163), and `semNow` are the increments of the present cycle (R159).  `logDue` are the
homes, as ranks, of applied log writes that the full count `logAcks` does not hold yet (R154). -/
structure Parcel where
  uid         : Nat
  launch      : Nat
  box         : Box
  core        : Nat
  state       : ParcelState
  rsvLead     : Nat
  rsvFollow   : Nat
  unitsLead   : Nat
  unitsFollow : Nat
  tiles       : Tbl (Option Tile)
  sems        : Tbl W64
  phasers     : Tbl Phaser
  elapsed     : Nat
  log         : List LogRec
  logUsed     : Nat
  resv        : Tbl Nat
  taken       : Tbl Nat
  claims      : List Claim
  logAcks     : Nat
  logDue      : List Nat
  late        : Bool
  held        : Option Nat
  due         : Bool
  semNow      : List SemArrival
  deriving DecidableEq, Repr

/-- The fields of a kernel-header record (R225). -/
structure Kernel where
  entry    : W32
  domX     : Nat
  domY     : Nat
  domZ     : Nat
  grX      : Nat
  grY      : Nat
  grZ      : Nat
  minX     : Nat
  minY     : Nat
  minZ     : Nat
  fmt      : W32
  allowM1  : Nat
  sub      : Bool
  pairs    : Bool
  axes     : Nat
  width    : Nat
  prio     : BitVec 2
  allot    : Nat
  groups   : Nat
  ceil     : Nat
  lanes    : Nat
  privW    : Nat
  depth    : Nat
  tiles    : Nat
  phasers  : Nat
  sems     : Nat
  clog     : Nat
  safe     : List (W32 × W32 × Nat)
  calls    : List (Nat × Nat × W32)
  deriving DecidableEq, Repr

/-- A byte range of virtual addresses (R143). -/
structure Range where
  lo : Nat
  hi : Nat
  deriving DecidableEq, Repr

/-- The life of a launch: its acceptance waits for a page of its metadata object, its resident ranges are being filled,
its parcels may be placed, or it is complete. -/
inductive LaunchState where
  | accepting (seq : Option Nat)
  | filling (seq : Option Nat)
  | placing
  | complete
  deriving DecidableEq, Repr

/-- A launch that the distributor has taken (R16, R120): what its entry and its metadata object say; `kernels` is KHCNT, and
`image` holds the callables of every kernel of the image (R229): CID, COUNT and ENTRY. -/
structure Launch where
  uid     : Nat
  vf      : Nat
  queue   : Nat
  num     : W32
  entry   : List Byte
  text    : Nat
  metaObj : Nat
  kernel  : Nat
  hdr     : Kernel
  kernels : Nat
  image   : List (Nat × Nat × W32)
  args    : List W64
  caps    : List Cap
  seed    : W64
  frame   : W32
  domX    : Nat
  domY    : Nat
  domZ    : Nat
  cut     : Nat
  failed  : Bool
  state   : LaunchState
  leases  : List Range
  demand  : List Range
  deriving DecidableEq, Repr

/-- A parcel that waits in a queue's head area (R121): by subdivision or whole requeue, with the cycle of the abort and the core
of the parent's group 0 (R30), or saved (R418). -/
inductive HeadEntry where
  | fresh (launch : Nat) (box : Box) (since core : Nat)
  | saved (parcel : Nat)
  deriving DecidableEq, Repr

/-- A placement in flight (R413): its parcel, the cores it needs with those whose stake is accepted, and its attempt. -/
structure Placement where
  uid     : Nat
  vf      : Nat
  queue   : Nat
  launch  : Nat
  box     : Box
  restore : Option Nat
  cores   : List Nat
  staked  : List Nat
  refused : Bool
  attempt : Nat
  since   : Nat
  deriving DecidableEq, Repr

/-! ## Engines, cards and matrix operations -/

/-- A result that an engine holds for an output binding (R112). -/
structure EngineResult where
  group   : Nat
  queue   : Nat
  gen     : Nat
  entries : List QEntry
  deriving DecidableEq, Repr

/-- A command that an engine has taken: who issued it, the binding its results go to, and its entries; `held` is set when its fault's
record has stalled: the record, and the status entries that follow once it is posted (R126). -/
structure Taken where
  group   : Nat
  parcel  : Nat
  vf      : Nat
  core    : Nat
  out     : Option (Nat × Nat)
  entries : List QEntry
  cmd     : Cmd
  parked  : Option Nat
  stage   : Nat
  survey  : List (Nat × List Nat × Nat)
  held    : Option (Nat × List QEntry) := none
  deriving DecidableEq, Repr

/-- One engine: the command it runs, the results it holds, the place in the rotation after the binding that it served last (R112): a
key and a group's number; and its snapshot counters (R83). -/
structure Engine where
  busy    : Option Taken
  results : List EngineResult
  last    : Nat × Nat
  count0  : W64
  count1  : W64
  count2  : W64
  deriving DecidableEq, Repr

def Engine.idle : Engine := { busy := none, results := [], last := (0, 0), count0 := 0, count1 := 0, count2 := 0 }

/-- The job-card kinds (R308). -/
inductive CardKind where
  | copy | gather | scatter | collective | matrix | fill
  deriving DecidableEq, Repr

/-- A used region of a card (R309), resolved at submission: for global memory the virtual address of its first byte,
for a tile its handle and the offset in it; `reg` and `off` are the capability register and the offset in its object,
which a fault reports. -/
structure Region where
  global : Bool
  cap    : Cap
  reg    : Nat
  off    : Nat
  base   : Nat
  handle : Nat
  rowLen : Nat
  rows   : Nat
  pitch  : Nat
  deriving DecidableEq, Repr

/-- The state of a card: it waits, a collective card has joined (`running`) or has its instance's result to write, held on a record
of an absent page or not (`result`), it is parked on a record, its writes are on their way (`acks`), it has stopped and its status entry
is still to come (`failed`), or that is delivered (`stopped`). -/
inductive CardState where
  | waiting | running | result (bs : List Byte) (seq : Option Nat) | parked (seq : Nat) | acks | failed (code : Nat) | stopped (code : Nat)
  deriving DecidableEq, Repr

/-- A job card in a pair's task scheduler (R127, R309); `taken` numbers the cards in the order in which engines took them, 0 for one
that waits (R112). -/
structure Card where
  uid    : Nat
  kind   : CardKind
  group  : Nat
  parcel : Nat
  vf     : Nat
  core   : Nat
  out    : Nat × Nat
  engine : EngineRef
  clause : W32
  slot   : Nat
  fmt    : W32
  arg    : W64
  semv   : Bool
  sem    : Nat
  inc    : Nat
  key    : W64
  parts  : Nat
  cop    : Nat
  ety    : ElemType
  kspec  : BitVec 168
  reads  : List Region
  writes : List Region
  acks   : Nat
  state  : CardState
  taken  : Nat := 0
  deriving DecidableEq, Repr

/-- A participant of a collective (R312): a card of this package or one that a fabric request brought. -/
structure Participant where
  package : Nat
  vf      : Nat
  die     : Nat
  core    : Nat
  group   : Nat
  card    : Option Nat
  key     : W64
  parts   : Nat
  cop     : Nat
  ty      : ElemType
  fmt     : W32
  wlen    : Nat
  data    : List Byte
  deriving DecidableEq, Repr

/-- What a matrix operation does, with what it read at issue (R323, R324, R462). -/
inductive MtxKind where
  | multiply (pair : Bool) (sparse : Bool) (seeded : Bool) (ty : ElemType) (a b : W64) (n : Nat) (unfold : Option W64)
      (mdata : Tbl W64)
  | unfold (a r : W64) (dst : Nat)
  | zero (mask : BitVec 8)
  | load (ty : ElemType) (n h : Nat) (org : W64)
  | get (n : Nat) (rows : Tbl W64) (mask : W64) (pend : Nat)
  | put (n : Nat) (rows data : Tbl W64) (mask : W64)
  | convert (ty : ElemType) (d src : Nat)
  | drain (add : Bool) (word : W64) (arg : W64)
  | qk (ty : ElemType) (n : Nat) (cap : Cap) (rope : Bool) (q page pw : W64) (scale : W32)
  | softmax (p src o st : Nat)
  | pv (ty : ElemType) (p : Nat) (cap : Cap) (word page : W64)
  | massDrain (reg : Nat) (cap : Cap) (src st : Nat) (page : W64)
  deriving DecidableEq, Repr

/-- The tag of a score tile (R347). -/
structure ScoreTag where
  obj   : Nat
  off   : Nat
  block : Nat
  gen   : BitVec 16
  live  : Nat
  deriving DecidableEq, Repr

/-- What a matrix operation has read and worked out at its start and applies when it retires (R330): accumulator cells (by
4096 × tile + 64 × row + column), elements of tiles (handle, row, column, pattern), a score tag with its tile, updates of
global memory, values for lanes, and a fault found on the way (R323). -/
structure MtxResult where
  cells : List (Nat × W32)
  tiles : List (Nat × Nat × Nat × Nat)
  tag   : Option (Nat × ScoreTag)
  mem   : List LogRec
  vals  : Tbl W64
  fault : Option FaultInfo
  deriving DecidableEq, Repr

/-- An issued matrix operation that has not retired (R321): `va` is the virtual address of the memory that it names,
`status` the binding its status goes to, `res` its result once it has started, `acks` the acknowledgements it waits for,
and `parked` the record of an absent page that holds it. -/
structure MtxOp where
  uid     : Nat
  group   : Nat
  parcel  : Nat
  vf      : Nat
  core    : Nat
  clause  : W32
  slot    : Nat
  fmt     : W32
  status  : Option (Nat × Nat)
  semv    : Bool
  sem     : Nat
  inc     : Nat
  kind    : MtxKind
  va      : Nat
  started : Option Nat
  res     : Option MtxResult
  applied : Bool
  acks    : Nat
  parked  : Option Nat
  deriving DecidableEq, Repr

/-- A core pair: its accumulator cells (R76), who holds them, the tags, the operations in issue order, its task
scheduler, and whether its matrix engine is being reset (R431). -/
structure Pair where
  acc    : Tbl W32
  owner  : Option Nat
  tags   : Tbl (Option ScoreTag)
  ops    : List MtxOp
  cards  : List Card
  reset  : Bool
  deriving DecidableEq, Repr

def Pair.empty : Pair := { acc := [], owner := none, tags := [], ops := [], cards := [], reset := false }

/-! ## Cores and dies -/

/-- A line of an L1 (R93): 128 bytes that are not private hold a copy, with the poisoned sectors it was filled with (R106); a
private line names its group and holds no copy, since only its group reaches it, and may be dirty. -/
structure L1Line where
  owner : Option Nat
  line  : Nat
  dirty : Bool
  data  : Tbl Byte
  bad   : List Nat
  deriving DecidableEq, Repr

/-- A cached translation (R141): a page of a virtual function. -/
structure TlbEntry where
  vf    : Nat
  va    : Nat
  size  : Nat
  pa    : Nat
  tgt   : BitVec 2
  wr    : Bool
  ex    : Bool
  dirty : Bool
  enc   : Bool
  key   : Nat
  deriving DecidableEq, Repr

/-- A cached object-table entry (R134). -/
structure ObjEntry where
  vf   : Nat
  obj  : Nat
  bits : W128
  deriving DecidableEq, Repr

/-- The loop buffer (R104): the first and the last clause of the body it holds, how many clauses, and their words by offset. -/
structure LoopBuffer where
  first : W32
  last  : W32
  text  : Nat
  vf    : Nat
  count : Nat
  words : Tbl W64
  deriving DecidableEq, Repr

/-- A core: what is free and unreserved of its resources (R411), its L1, its translations, its loop buffer and its breakpoint
registers. -/
structure Core where
  freePool    : Nat
  freePlaces  : Nat
  freeUnits   : Nat
  freePhasers : Nat
  freeSems    : Nat
  l1          : List L1Line
  tlb         : List TlbEntry
  objects     : List ObjEntry
  loop        : Option LoopBuffer
  bps         : Tbl W128
  reported    : Nat × Nat × Nat × Nat × Nat
  lastReport  : Option Nat
  deriving DecidableEq, Repr

/-- A core right after reset: 16,384 block-lanes, 32 places, 256 units of tile memory, 64 phasers, 32 semaphores. -/
def Core.reset : Core :=
  { freePool := 16384, freePlaces := 32, freeUnits := 256, freePhasers := 64, freeSems := 32, l1 := [], tlb := [],
    objects := [], loop := none, bps := [], reported := (16384, 32, 256, 64, 32), lastReport := none }

/-- A line of the L2 (R98, R99): its cell address divided by 256, its way, its hint, whether it is dirty, and for a
dirty line what the channel holds beneath it. -/
structure L2Line where
  line  : Nat
  way   : Nat
  hint  : BitVec 2
  dirty : Bool
  below : Tbl Byte
  deriving DecidableEq, Repr

/-- An entry of a slice's grant queue (R123). -/
structure Grant where
  decl  : Nat
  vf    : Nat
  block : Nat
  deriving DecidableEq, Repr

/-- A declaration on its way through the sequencers (R122, R123); `lost` is the rank of a die that was reset while it held
entries of it (R124, R432), and `empties` are the slices whose queue it waits to find empty (R123). -/
structure TvDecl where
  uid    : Nat
  group  : Nat
  parcel : Nat
  vf     : Nat
  die    : Nat
  beat   : Nat
  order  : Nat
  blocks : List Nat
  placed : Bool
  gone   : Bool
  record : Option Nat
  lost   : Option Nat := none
  empties : List (Nat × Nat) := []
  deriving DecidableEq, Repr

/-- A watch at a slice (R297): the watched word, the comparison, and the sleeping group. -/
structure Watch where
  group : Nat
  path  : PathSlot
  lane  : Nat
  vf    : Nat
  va    : Nat
  cell  : Nat
  ty    : ElemType
  cond  : Nat
  a     : W64
  deriving DecidableEq, Repr

/-- A slice of the L2: its grant queue, its watches, those that wait for a place among them (R298), its open in-flight
counts by virtual function and page (R166), and its error counters. -/
structure Slice where
  grants  : List Grant
  big     : Bool
  watches : List Watch
  queued  : List Watch
  counts  : List (Nat × Nat × Nat)
  lcorr   : W64
  lpois   : W64
  deriving DecidableEq, Repr

def Slice.empty : Slice := { grants := [], big := false, watches := [], queued := [], counts := [], lcorr := 0, lpois := 0 }

/-- What holds units of the pinned pool (R86): a DIE tile of a parcel, a parcel's commit log, or a function's reservoir store. -/
inductive PinOwner where
  | tile (parcel handle : Nat)
  | log (parcel : Nat)
  | reservoir (vf : Nat)
  deriving DecidableEq, Repr

/-- A compute die: its L2 lines, most recently used first, the units of the pinned pool by their owners, each 1,536 × its way +
its place in the way (R97), the reservoir
store and the render registers of each virtual function (R80, R100), its slices, its TLB, and whether it is held in
reset (R432). -/
structure Die where
  l2       : List L2Line
  pinned   : List (PinOwner × List Nat)
  visarea  : Tbl W32
  rsvrect  : Tbl W64
  rsv      : Tbl (Tbl Byte)
  rsvBad   : List (Nat × Nat)
  slices   : Tbl Slice
  tlb      : List TlbEntry
  beat     : Nat
  batch    : List Nat
  hcorr    : Tbl W64
  held     : Bool
  /-- The free pinned-pool units that the distributor knows (R411). -/
  reportedPool : Nat
  deriving DecidableEq, Repr

def Die.reset : Die :=
  { l2 := [], pinned := [], visarea := [], rsvrect := [], rsv := [], rsvBad := [], slices := [], tlb := [],
    beat := 0, batch := [], hcorr := [], held := false, reportedPool := 16896 }

/-! ## Operations on their way to a home slice -/

/-- Who sent an operation: a group, a parcel's log application, a job card, a matrix operation or an engine. -/
inductive Sender where
  | group (g : Nat)
  | parcel (p : Nat)
  | card (c : Nat)
  | matrix (g op : Nat)
  | engine (e : EngineRef)
  deriving DecidableEq, Repr

/-- What an operation does at its home slice (R292). -/
inductive HomeKind where
  | write (data : List Byte)
  | atomic (ty : ElemType) (op : Nat) (value : W64) (cmp : Option W64) (ret : Option (Nat × Nat))
  deriving DecidableEq, Repr

/-- An operation that is on its way to a home slice and has not been applied; `released` marks one that a release at die
scope or wider of its group followed (R397), and `stale` one that was translated through an entry that a running shootdown
removed (R142).  `uid` is the number of the flit that carries it, `early` holds when the sending core's L1 line took its data at
once (R93), and `seen` are the lanes of its group that come after it (R400, R401). -/
structure HomeOp where
  sender  : Sender
  fromDie : Nat
  home    : Nat
  lane    : Nat
  vf      : Nat
  va      : Nat
  cell    : Nat
  hint    : BitVec 2
  kind    : HomeKind
  counted : Bool
  released : Bool
  clause  : W32
  slot    : Nat
  stale   : Bool := false
  uid     : Nat := 0
  early   : Bool := false
  seen    : W64 := 0
  deriving DecidableEq, Repr

/-- An acknowledgement on its way back from the die of rank `rank` (R157); `error` is an error completion (R432), `uid` the
number of the flit that carries it. -/
structure Ack where
  sender : Sender
  error  : Bool
  rank   : Nat
  lane   : Nat
  va     : Nat
  clause : W32
  slot   : Nat
  uid    : Nat := 0
  deriving DecidableEq, Repr

/-- What travels over links on its way to a place where it acts (R128): the number of what it carries, and the directions that it
has still to cross, each with its class there. -/
structure Flit where
  uid  : Nat
  hops : List (Nat × Nat)
  deriving DecidableEq, Repr

/-! ## Fault records, virtual functions, the control die -/

/-- What a record stands for. -/
inductive Owner where
  | group (g : Nat)
  | parcel (p : Nat)
  | launch (l : Nat)
  | card (c : Nat)
  | engine (e : EngineRef)
  | nobody
  deriving DecidableEq, Repr

/-- A fault record (R125): the fields of its 512 bits and what it stands for. -/
structure FaultRecord where
  info   : FaultInfo
  time   : W64
  clause : W32
  slot   : Nat
  group  : Nat
  core   : Nat
  die    : Nat
  seq    : Nat
  launch : W32
  state  : BitVec 2
  vf     : Nat
  queue  : Nat
  owner  : Owner
  deriving DecidableEq, Repr

/-- A migration in progress (R145): the run's page, the new place, and whether its first step is done (R166). -/
structure Migration where
  va      : Nat
  size    : Nat
  oldPa   : Nat
  oldTgt  : BitVec 2
  pfn     : Nat
  tgt     : BitVec 2
  key     : Nat
  enc     : Bool
  started : Bool
  deriving DecidableEq, Repr

/-- A launch queue of a virtual function (R119, R121, R161). -/
structure LaunchQueue where
  cfg    : W64
  prod   : W32
  cons   : W32
  head   : List HeadEntry
  pass   : Nat
  ticket : Nat
  backed : Bool
  held   : Bool
  deriving DecidableEq, Repr

def LaunchQueue.reset : LaunchQueue :=
  { cfg := 0, prod := 0, cons := 0, head := [], pass := 0, ticket := 1, backed := false, held := false }

/-- A virtual function's registers (R132, R142, R144, R145, R149, R415, R436) and what the control die keeps for it. -/
structure Vf where
  xroot   : W64
  otdesc  : W128
  krange  : W32
  prange  : W32
  xinv    : W64
  oldLoads : List (Nat × Nat)
  migcmd  : W128
  migrate : Option Migration
  precmd  : W64
  fqcfg   : W64
  fqprod  : W32
  fqcons  : W32
  fqseq   : Nat
  records : List FaultRecord
  heldRec : List Nat
  ring    : List (Nat × Nat)
  stalled : List FaultRecord
  rsvstat : W64
  sigpol  : BitVec 576
  queues  : Tbl LaunchQueue
  number  : W32
  leases  : List (Nat × Range)
  wrapKey : Option (List Byte)
  resetting : Bool
  deriving DecidableEq, Repr

def Vf.reset : Vf :=
  { xroot := 0, otdesc := 0, krange := 0, prange := 0, xinv := 0, oldLoads := [], migcmd := 0, migrate := none, precmd := 0, fqcfg := 0,
    fqprod := 0, fqcons := 0, fqseq := 0, records := [], heldRec := [], ring := [], stalled := [], rsvstat := 0,
    sigpol := 0, queues := [], number := 0, leases := [], wrapKey := none, resetting := false }

/-- A key slot (R151). -/
structure KeySlot where
  state : BitVec 2
  key1  : BitVec 256
  key2  : BitVec 256
  deriving DecidableEq, Repr

def KeySlot.reset : KeySlot := { state := 0, key1 := 0, key2 := 0 }

/-- A field-book record (R453). -/
structure FieldRec where
  time  : W64
  seq   : W32
  kind  : BitVec 8
  die   : BitVec 8
  block : BitVec 16
  data  : W128
  deriving DecidableEq, Repr

/-- The latched registers of a block (R81, R83). -/
structure Snapshot where
  stat : W64
  regs : List W64
  deriving DecidableEq, Repr

/-- One direction of a link (R128, R162): the pass of each class (0 control, 1 request, 2 bulk), the flits sent, and those
replayed (R438). -/
structure LinkDir where
  pass    : Tbl Nat
  sent    : Nat
  replay  : Nat
  deriving DecidableEq, Repr

def LinkDir.reset : LinkDir := { pass := [], sent := 0, replay := 0 }

/-- A die-to-die link or a fabric port: its rate step (R454), whether it retrains and holds its traffic, when it last stepped, and
the retraining windows that it has opened. -/
structure Link where
  rate    : BitVec 2
  retrain : Bool
  stepAt  : Option Nat
  windows : Nat
  deriving DecidableEq, Repr

def Link.reset : Link := { rate := 0, retrain := false, stepAt := none, windows := 0 }

/-- How far boot has gone (R441): the boot ROM, the first stage, the main firmware, done, or failed at a step. -/
inductive Boot where
  | rom | running | failed (step : Nat)
  deriving DecidableEq, Repr

/-- The control die's own state (R436, R441 to R453). -/
structure Control where
  lifecycle : Lifecycle
  debug     : DebugState
  boot      : Boot
  flash     : List ConfigRecord
  inUse     : List ConfigRecord
  minSeq    : Tbl Nat
  keys      : Tbl KeySlot
  admitted  : List (Nat × Nat)
  datsel    : W64
  mxrst     : W64
  package   : Nat
  fieldBook : List FieldRec
  fieldSeq  : W32
  datumSeq  : W32
  datumOut  : Nat
  snaps     : Tbl Snapshot
  islands   : Tbl IslandState
  standby   : Bool
  nonce     : BitVec 256
  dispatched : Nat
  refusedStakes : Nat
  lastQueue : Option Nat
  beatAt    : Nat
  bootAt    : W64
  deriving DecidableEq, Repr

/-- What an ended or retired parcel gives back to a work-list while a page of the list moves or is absent (R117): the records that
it popped, in pop order, and what RESV and TAKEN fall by. -/
structure ListReturn where
  vf    : Nat
  list  : Nat
  back  : List W128
  resv  : Nat
  taken : Nat
  deriving DecidableEq, Repr

/-- What the device answers to the outside: `poisoned` for data that are poisoned, `failed` for an error completion of the die of a
rank (R432). -/
inductive Reply where
  | poisoned
  | failed (rank : Nat)
  | word (w : W64)
  | bytes (bs : List Byte)
  | report (bs : List Byte)
  deriving DecidableEq, Repr

/-- The key material under which the channel holds what memory gives as plain data, none for plain data (R152): KEY1 and KEY2. -/
abbrev Seal := Option (BitVec 256 × BitVec 256)

/-- One thing that happens next in the rest of the package or outside it, with the cycles and nanoseconds before it. -/
structure Planned where
  cycles : Nat
  ns     : Nat
  ev     : Instr
  deriving DecidableEq, Repr

/-- The state of the package.  `agenda` and `turns` are the schedule, as data: what happens next in the rest of the package
or outside it, and which of the groups that are inside a clause executes the next slot.  `tick` numbers the steps and
`free` the free values.  `mem` is plain data; `seals` says by 4 KiB frames under which keys the channels hold it (R152). -/
structure State where
  agenda     : List Planned
  turns      : List Nat
  tick       : Nat
  cycles     : Nat
  time       : W64
  uid        : Nat
  free       : Nat
  active     : List Nat
  mem        : Tbl Byte
  poison     : List Nat
  seals      : Tbl Seal
  groups     : List Group
  parcels    : List Parcel
  launches   : List Launch
  placements : List Placement
  cores      : Tbl Core
  pairs      : Tbl Pair
  pairTlbs   : Tbl (List TlbEntry)
  dies       : Tbl Die
  engines    : Tbl Engine
  net        : List HomeOp
  acks       : List Ack
  flits      : List Flit
  decls      : List TvDecl
  joined     : List Participant
  phasers    : Tbl Phaser
  vfs        : Tbl Vf
  links      : Tbl Link
  ports      : Tbl Link
  linkDirs   : Tbl LinkDir
  control    : Control
  returns    : List ListReturn
  replies    : List Reply
  deriving DecidableEq, Repr

/-- Why a step stops the machine itself.  The faults of the device's own catalogue (R425) are no stops: the group stops
and the machine goes on. -/
inductive Fault where
  /-- Raised by LAUNCH_ACCEPT (the ring entry's cell), HOST_CXL_MEM_ACCESS, FABRIC_REQUEST_ARRIVAL and CODE_ADMISSION
  when a physical address lies outside device memory (R3, R96): the address names no memory.  Safe: the machine stops
  where the manual gives no memory. -/
  | noSuchAddress
  deriving DecidableEq, Repr

/-- Why a step has no meaning. -/
inductive Refusal where
  /-- The instruction has no meaning in the model yet.  Safe. -/
  | notModelled (mnemonic : String)
  deriving DecidableEq, Repr

/-- The control die at cold reset: the boot ROM runs. (DESIGN CHOICE, log entry 6) -/
def Control.reset : Control :=
  { lifecycle := .blank, debug := .off, boot := .rom, flash := [], inUse := [], minSeq := [], keys := [], admitted := [],
    datsel := 0, mxrst := 0, package := 0, fieldBook := [], fieldSeq := 0, datumSeq := 0, datumOut := 0, snaps := [],
    islands := [], standby := false, nonce := 0, dispatched := 0, refusedStakes := 0, lastQueue := none, beatAt := 0, bootAt := 0 }

/-- The package right after cold reset: nothing is launched, no memory is written, and every register holds its reset
value (the defaults of the tables are the reset values of their entries). -/
def State.reset : State :=
  { agenda := [], turns := [], tick := 0, cycles := 0, time := 0, uid := 0, free := 0, active := [], mem := [], poison := [], seals := [],
    groups := [], parcels := [], launches := [], placements := [], cores := [], pairs := [], pairTlbs := [],
    dies := [], engines := [], net := [], acks := [], flits := [], decls := [], joined := [], phasers := [], vfs := [], links := [],
    ports := [], linkDirs := [], control := Control.reset, returns := [], replies := [] }

end Sys2Proof.Machine
end

