-- ==== Sys2Proof/Machine/Cells.lean ====
section
/-!
DEFINITION. Tables in canonical form, the canonical form of memory, byte order, and the accessors of the parts of State.
-/
namespace Sys2Proof

/-- The value of key `n`, the default `d` when it is not listed. -/
def Tbl.get {α : Type} (d : α) : Tbl α → Nat → α
  | [], _ => d
  | (k, v) :: t, n => if k = n then v else Tbl.get d t n

/-- The entries of a table but those of key `n`. -/
def Tbl.remove {α : Type} (t : Tbl α) (n : Nat) : Tbl α := t.filter fun e => e.1 ≠ n

/-- Sets key `n`, keeping the keys rising and listing no default; no other entry of key `n` stays. -/
def Tbl.put {α : Type} [DecidableEq α] (d : α) : Tbl α → Nat → α → Tbl α
  | [], n, v => if v = d then [] else [(n, v)]
  | (k, w) :: t, n, v =>
      if n < k then (if v = d then (k, w) :: Tbl.remove t n else (n, v) :: (k, w) :: Tbl.remove t n)
      else if n = k then Tbl.put d t n v
      else (k, w) :: Tbl.put d t n v

/-- Every key of a table is above `n`. -/
def Tbl.above {α : Type} (n : Nat) (t : Tbl α) : Bool := t.all fun e => n < e.1

/-- The canonical form: keys strictly rising, no entry equal to the default. -/
def Tbl.wf {α : Type} [DecidableEq α] (d : α) : Tbl α → Bool
  | [] => true
  | (k, v) :: t => decide (v ≠ d) && Tbl.above k t && Tbl.wf d t

/-- The keys of a table from `lo` up to `hi`. -/
def Tbl.dropRange {α : Type} (t : Tbl α) (lo hi : Nat) : Tbl α := t.filter fun e => e.1 < lo || hi ≤ e.1

namespace Machine

/-! ## Memory as bytes -/

/-- The memory is in canonical form; an unlisted byte reads as zero. (DESIGN CHOICE, log entry 2) -/
def Memory.wf (m : Tbl Byte) : Bool := Tbl.wf 0 m

/-- The byte at a cell. (DESIGN CHOICE, log entry 2) -/
def Memory.read (m : Tbl Byte) (a : Nat) : Byte := Tbl.get 0 m a

/-- `n` bytes from `a`, the lowest address first. -/
def Memory.readN (m : Tbl Byte) (a : Nat) : Nat → List Byte
  | 0 => []
  | n + 1 => Memory.read m a :: Memory.readN m (a + 1) n

/-- Bytes written from `a` up. -/
def Memory.writeN (m : Tbl Byte) (a : Nat) : List Byte → Tbl Byte
  | [] => m
  | b :: bs => Memory.writeN (Tbl.put 0 m a b) (a + 1) bs

/-- The number of bytes, the first byte lowest: memory is little-endian (R9, R220). -/
def natOfBytes : List Byte → Nat
  | [] => 0
  | b :: bs => b.toNat + 256 * natOfBytes bs

/-- `n` bytes of a number, the lowest first. -/
def bytesOfNat : Nat → Nat → List Byte
  | 0, _ => []
  | n + 1, x => BitVec.ofNat 8 x :: bytesOfNat n (x / 256)

/-- Bits [lo + n - 1 : lo] of a number. -/
def field (x lo n : Nat) : Nat := (x >>> lo) % 2 ^ n

/-- The first `n` numbers from `a`. -/
def span (a : Nat) : Nat → List Nat
  | 0 => []
  | n + 1 => a :: span (a + 1) n

/-- The lanes of a mask, ascending. -/
def lanes (m : W64) : List Nat := (span 0 64).filter m.getLsbD

/-- The lowest lane of a mask. -/
def lowest (m : W64) : Option Nat := (lanes m).head?

/-- A mask with one lane. -/
def bit64 (l : Nat) : W64 := BitVec.ofNat 64 (2 ^ l)

/-- The mask of the lanes below `n`. -/
def lowMask (n : Nat) : W64 := BitVec.ofNat 64 (2 ^ n - 1)

/-- The first entry of a list that satisfies `p` replaced. -/
def replaceFirst {α : Type} (p : α → Bool) (x : α) : List α → List α
  | [] => []
  | y :: ys => if p y then x :: ys else y :: replaceFirst p x ys

/-! ## The parts of State -/

def State.group? (s : State) (u : Nat) : Option Group := s.groups.find? fun g => g.uid = u
def State.setGroup (s : State) (g : Group) : State :=
  { s with groups := replaceFirst (fun x => x.uid = g.uid) g s.groups }

def State.parcel? (s : State) (u : Nat) : Option Parcel := s.parcels.find? fun p => p.uid = u
def State.setParcel (s : State) (p : Parcel) : State :=
  { s with parcels := replaceFirst (fun x => x.uid = p.uid) p s.parcels }

def State.launch? (s : State) (u : Nat) : Option Launch := s.launches.find? fun l => l.uid = u
def State.setLaunch (s : State) (l : Launch) : State :=
  { s with launches := replaceFirst (fun x => x.uid = l.uid) l s.launches }

def State.placement? (s : State) (u : Nat) : Option Placement := s.placements.find? fun p => p.uid = u
def State.setPlacement (s : State) (p : Placement) : State :=
  { s with placements := replaceFirst (fun x => x.uid = p.uid) p s.placements }

def State.core (s : State) (n : Nat) : Core := Tbl.get Core.reset s.cores n
def State.setCore (s : State) (n : Nat) (c : Core) : State := { s with cores := Tbl.put Core.reset s.cores n c }

def State.pair (s : State) (n : Nat) : Pair := Tbl.get Pair.empty s.pairs n
def State.setPair (s : State) (n : Nat) (p : Pair) : State := { s with pairs := Tbl.put Pair.empty s.pairs n p }

def State.die (s : State) (n : Nat) : Die := Tbl.get Die.reset s.dies n
def State.setDie (s : State) (n : Nat) (d : Die) : State := { s with dies := Tbl.put Die.reset s.dies n d }

def Die.slice (d : Die) (n : Nat) : Slice := Tbl.get Slice.empty d.slices n
def Die.setSlice (d : Die) (n : Nat) (x : Slice) : Die := { d with slices := Tbl.put Slice.empty d.slices n x }

/-- The index of an engine among all engines: its kind's input port and its unit. -/
def engineIndex (e : EngineRef) : Nat :=
  let k := match e.kind with
    | .matrix => 0 | .copy => 1 | .ray => 2 | .reuse => 3 | .light => 4 | .resurvey => 5 | .collective => 6 | .geometry => 7
  256 * k + e.unit
def State.engine (s : State) (e : EngineRef) : Engine := Tbl.get Engine.idle s.engines (engineIndex e)
def State.setEngine (s : State) (e : EngineRef) (x : Engine) : State :=
  { s with engines := Tbl.put Engine.idle s.engines (engineIndex e) x }

def State.vf (s : State) (n : Nat) : Vf := Tbl.get Vf.reset s.vfs n
def State.setVf (s : State) (n : Nat) (v : Vf) : State := { s with vfs := Tbl.put Vf.reset s.vfs n v }

def Vf.queue (v : Vf) (n : Nat) : LaunchQueue := Tbl.get LaunchQueue.reset v.queues n
def Vf.setQueue (v : Vf) (n : Nat) (q : LaunchQueue) : Vf := { v with queues := Tbl.put LaunchQueue.reset v.queues n q }

def State.link (s : State) (n : Nat) : Link := Tbl.get Link.reset s.links n
def State.setLink (s : State) (n : Nat) (l : Link) : State := { s with links := Tbl.put Link.reset s.links n l }
def State.port (s : State) (n : Nat) : Link := Tbl.get Link.reset s.ports n
def State.setPort (s : State) (n : Nat) (l : Link) : State := { s with ports := Tbl.put Link.reset s.ports n l }
def State.linkDir (s : State) (n : Nat) : LinkDir := Tbl.get LinkDir.reset s.linkDirs n
def State.setLinkDir (s : State) (n : Nat) (l : LinkDir) : State := { s with linkDirs := Tbl.put LinkDir.reset s.linkDirs n l }

/-- A number that no other thing of the state has. -/
def State.fresh (s : State) : State × Nat := ({ s with uid := s.uid + 1 }, s.uid)

/-- The number of the next free value, and the state after it. (DESIGN CHOICE, log entry 5) -/
def State.nextFree (s : State) : State × Nat := ({ s with free := s.free + 1 }, s.free)

/-! ## The parts of a group -/

def Group.vreg (g : Group) (r l : Nat) : W64 := Tbl.get 0 g.v (64 * r + l)
def Group.setVreg (g : Group) (r l : Nat) (x : W64) : Group := { g with v := Tbl.put 0 g.v (64 * r + l) x }

def Group.sreg (g : Group) (r : Nat) : W64 := Tbl.get 0 g.s r
def Group.setSreg (g : Group) (r : Nat) (x : W64) : Group := { g with s := Tbl.put 0 g.s r x }

/-- A capability register with the tag clear. -/
def Cap.clear : Cap := { bits := 0, tag := false }
def Group.cap (g : Group) (r : Nat) : Cap := Tbl.get Cap.clear g.caps r
def Group.setCap (g : Group) (r : Nat) (c : Cap) : Group := { g with caps := Tbl.put Cap.clear g.caps r c }

def Group.queue (g : Group) (q : Nat) : Queue := Tbl.get Queue.empty g.queues q
def Group.setQueue (g : Group) (q : Nat) (x : Queue) : Group := { g with queues := Tbl.put Queue.empty g.queues q x }

def Group.path? (g : Group) : PathSlot → Option Path
  | .s0 => g.p0
  | .s1 => g.p1
def Group.setPath (g : Group) (k : PathSlot) (p : Option Path) : Group :=
  match k with
  | .s0 => { g with p0 := p }
  | .s1 => { g with p1 := p }
def otherSlot : PathSlot → PathSlot
  | .s0 => .s1
  | .s1 => .s0

/-- The mask register k[n] as a path with mask `m` reads it (R66): k0 is the path's mask, and bits at and above the
width read as zero. -/
def Group.kreg (g : Group) (m : W64) (n : Nat) : W64 :=
  if n = 0 then m else Tbl.get 0 g.masks n &&& lowMask g.width

/-- Writes the bits of the lanes of `e` of k[n], for n ≥ 1 (R66). -/
def Group.setKreg (g : Group) (n : Nat) (e x : W64) : Group :=
  { g with masks := Tbl.put 0 g.masks n (((Tbl.get 0 g.masks n &&& ~~~e) ||| (x &&& e)) &&& lowMask g.width) }

/-! ## Values for a missing thing -/

def Path.at (pc : W32) (mask : W64) (join : Option W32) (fmt : W32) : Path :=
  { pc := pc, mask := mask, join := join, fmt := fmt, qcnt := 0, iter := 0, body := none, ready := none, aged := false,
    safe := none, routine := .none, home := 0 }

/-- The debug registers of a group that has not stopped: all 0. (DESIGN CHOICE, log entry 29) -/
def Dbg.clear : Dbg := { lat := [], empty := 0, clause := 0, slot := 0, iter := 0 }

def Group.blank : Group :=
  { uid := 0, parcel := 0, index := 0, core := 0, place := 0, width := 8, launched := 0, exited := 0, allot := 8, prio := 0, entry := 0,
    v := [], s := [], caps := [], masks := [], p0 := none, p1 := none, last := .s1, stack := 0, queues := [],
    samplers := [], pending := [], buffer := [], acks := 0, status := .ready, run := none, decl := none, closedTv := [],
    roles := [], claim := none, granted := 0, dbg := Dbg.clear, own := [], ownHome := [], ownTags := [], ownPoison := [], badRegs := [], late := [] }

def Parcel.blank : Parcel :=
  { uid := 0, launch := 0, box := { x0 := 0, x1 := 0, y0 := 0, y1 := 0, z0 := 0, z1 := 0 }, core := 0,
    state := .running, rsvLead := 0, rsvFollow := 0, unitsLead := 0, unitsFollow := 0, tiles := [], sems := [],
    phasers := [], elapsed := 0, log := [], logUsed := 0, resv := [], taken := [], claims := [], logAcks := 0, logDue := [],
    late := false, held := none, due := false, semNow := [] }

def Kernel.blank : Kernel :=
  { entry := 0, domX := 1, domY := 1, domZ := 1, grX := 1, grY := 1, grZ := 1, minX := 1, minY := 1, minZ := 1, fmt := 0,
    allowM1 := 0, sub := false, pairs := false, axes := 1, width := 8, prio := 0, allot := 8, groups := 1, ceil := 8,
    lanes := 8, privW := 0, depth := 2, tiles := 0, phasers := 0, sems := 0, clog := 0, safe := [], calls := [] }

def Launch.blank : Launch :=
  { uid := 0, vf := 0, queue := 0, num := 0, entry := [], text := 0, metaObj := 0, kernel := 0, hdr := Kernel.blank, kernels := 0, image := [],
    args := [], caps := [], seed := 0, frame := 0, domX := 1, domY := 1, domZ := 1, cut := 0, failed := false,
    state := .placing, leases := [], demand := [] }

/-- The parcel, the launch and the virtual function of a group. -/
def State.parcelOf (s : State) (g : Group) : Parcel := (s.parcel? g.parcel).getD Parcel.blank
def State.launchFor (s : State) (p : Parcel) : Launch := (s.launch? p.launch).getD Launch.blank
def State.launchOf (s : State) (g : Group) : Launch := s.launchFor (s.parcelOf g)

end Machine
end Sys2Proof
end

