-- ==== Sys2Proof/Machine/Num.lean ====
section
/-!
DEFINITION. Number formats and arithmetic (R168 to R191): exact values, one rounding, logarithmic codes, integers, and
the result of one element with its NaN report.
-/
namespace Sys2Proof.Machine
open Sys2Proof

/-! ## Values and rounding -/

/-- A binary format: its width, exponent bits and fraction bits (R168). -/
structure Fmt where
  w : Nat
  e : Nat
  f : Nat
  deriving DecidableEq, Repr

def Fmt.f64 : Fmt := { w := 64, e := 11, f := 52 }
def Fmt.f32 : Fmt := { w := 32, e := 8, f := 23 }
def Fmt.f16 : Fmt := { w := 16, e := 5, f := 10 }
def Fmt.bf16 : Fmt := { w := 16, e := 8, f := 7 }

/-- The format of a floating-point type; the other types never ask. -/
def fmtOf : ElemType → Fmt
  | .f64 => .f64
  | .f16 => .f16
  | .bf16 => .bf16
  | _ => .f32

def Fmt.bias (F : Fmt) : Nat := 2 ^ (F.e - 1) - 1
def Fmt.ones (F : Fmt) : Nat := 2 ^ F.e - 1
/-- The canonical NaN (R169). -/
def Fmt.qnan (F : Fmt) : Nat := F.ones * 2 ^ F.f + 2 ^ (F.f - 1)
def Fmt.inf (F : Fmt) (neg : Bool) : Nat := (if neg then 2 ^ (F.w - 1) else 0) + F.ones * 2 ^ F.f
def Fmt.max (F : Fmt) (neg : Bool) : Nat := (if neg then 2 ^ (F.w - 1) else 0) + F.ones * 2 ^ F.f - 1

/-- The rounding modes of RM (R71, R172). -/
inductive Rnd where
  | rne | rtz | rup | rdn
  deriving DecidableEq, Repr

/-- A value: (−1)^neg × m × 2^e when it is finite. -/
inductive Val where
  | nan
  | inf (neg : Bool)
  | fin (neg : Bool) (m : Nat) (e : Int)
  deriving DecidableEq, Repr

/-- The fields of fmt that arithmetic uses, with the rounding of the slot (R71, R72). -/
structure FEnv where
  rm   : Rnd
  subn : Bool
  nant : Bool
  nsel : Bool
  sca  : Int
  scb  : Int
  deriving DecidableEq, Repr

def rndOfCode (c : Nat) : Rnd := match c with | 0 => .rne | 1 => .rtz | 2 => .rup | _ => .rdn

/-- fmt as a slot with the rounding override `rnd` uses it (R72, R211). -/
def FEnv.of (fmt : W32) (rnd : BitVec 3) : FEnv :=
  { rm := if rnd = 0 then rndOfCode (fmt.extractLsb' 0 2).toNat else rndOfCode (rnd.toNat - 1),
    subn := fmt.getLsbD 2, nant := fmt.getLsbD 3, nsel := fmt.getLsbD 4,
    sca := (fmt.extractLsb' 8 8).toInt, scb := (fmt.extractLsb' 16 8).toInt }

/-- The value of a pattern; with `flush`, a subnormal is a zero of its sign (R174). -/
def Val.of (F : Fmt) (flush : Bool) (x : Nat) : Val :=
  let neg := x.testBit (F.w - 1)
  let ex := field x F.f F.e
  let fr := field x 0 F.f
  if ex = F.ones then (if fr = 0 then .inf neg else .nan)
  else if ex = 0 then (if flush then .fin neg 0 0 else .fin neg fr (1 - (F.bias : Int) - F.f))
  else .fin neg (2 ^ F.f + fr) (ex - F.bias - F.f)

/-- Whether a magnitude with a remainder `r` below one half-unit count `2^sh` goes up (R172). -/
def goesUp (rm : Rnd) (neg : Bool) (k r unit : Nat) : Bool :=
  match rm with
  | .rne => unit < 2 * r || (2 * r = unit && k % 2 = 1)
  | .rtz => false
  | .rup => !neg && r ≠ 0
  | .rdn => neg && r ≠ 0

/-- m × 2^(−sh) rounded to an integer magnitude. -/
def roundShift (rm : Rnd) (neg : Bool) (m sh : Nat) : Nat :=
  let k := m >>> sh
  if goesUp rm neg k (m % 2 ^ sh) (2 ^ sh) then k + 1 else k

/-- m × 2^e rounded to an integer magnitude. -/
def roundInt (rm : Rnd) (neg : Bool) (m : Nat) (e : Int) : Nat :=
  if 0 ≤ e then m <<< e.toNat else roundShift rm neg m (-e).toNat

/-- The magnitude pattern of m × 2^e, m > 0, before the limits: the fraction bits and the exponent run on in one
number, so that rounding up carries into the exponent by itself. -/
def roundMag (F : Fmt) (rm : Rnd) (neg : Bool) (m : Nat) (e : Int) : Nat :=
  let qmin : Int := 1 - (F.bias : Int) - F.f
  let q : Int := max ((Nat.log2 m : Int) + e - F.f) qmin
  let k := roundInt rm neg m (e - q)
  (q - qmin).toNat * 2 ^ F.f + k

/-- The pattern of a value, rounded once (R172 to R174). -/
def Val.enc (F : Fmt) (rm : Rnd) (flush : Bool) : Val → Nat
  | .nan => F.qnan
  | .inf neg => F.inf neg
  | .fin neg m e =>
      let sg := if neg then 2 ^ (F.w - 1) else 0
      if m = 0 then sg
      else
        let k := roundMag F rm neg m e
        if F.ones * 2 ^ F.f ≤ k then
          (match rm, neg with
            | .rtz, _ => F.max neg
            | .rup, true => F.max neg
            | .rdn, false => F.max neg
            | _, _ => F.inf neg)
        else if flush && k < 2 ^ F.f then sg
        else sg + k

/-- The signed integer of a finite value at the exponent `e0 ≤ e`. -/
def signedAt (neg : Bool) (m : Nat) (e e0 : Int) : Int :=
  let x : Int := (m <<< (e - e0).toNat : Nat)
  if neg then -x else x

/-- The exact sum (R170): the sign of an exact zero depends on the rounding mode. -/
def Val.add (rm : Rnd) : Val → Val → Val
  | .nan, _ => .nan
  | _, .nan => .nan
  | .inf a, .inf b => if a = b then .inf a else .nan
  | .inf a, _ => .inf a
  | _, .inf b => .inf b
  | .fin a m e, .fin b n f =>
      if m = 0 && n = 0 then .fin (if a = b then a else rm = .rdn) 0 0
      else
        let e0 := min e f
        let x := signedAt a m e e0 + signedAt b n f e0
        if x = 0 then .fin (rm = .rdn) 0 0 else .fin (x < 0) x.natAbs e0

def Val.neg : Val → Val
  | .nan => .nan
  | .inf a => .inf !a
  | .fin a m e => .fin (!a) m e

/-- The exact product (R170). -/
def Val.mul : Val → Val → Val
  | .nan, _ => .nan
  | _, .nan => .nan
  | .inf a, .inf b => .inf (a != b)
  | .inf a, .fin b n _ => if n = 0 then .nan else .inf (a != b)
  | .fin a m _, .inf b => if m = 0 then .nan else .inf (a != b)
  | .fin a m e, .fin b n f => .fin (a != b) (m * n) (e + f)

/-- a × b + c, rounded nowhere (R172). -/
def Val.fma (rm : Rnd) (a b c : Val) : Val := Val.add rm (a.mul b) c

/-- The sign of a − b as −1, 0 or 1, the zeros equal; none with a NaN. -/
def Val.cmp : Val → Val → Option Int
  | .nan, _ => none
  | _, .nan => none
  | .inf a, .inf b => some (if a = b then 0 else if a then -1 else 1)
  | .inf a, _ => some (if a then -1 else 1)
  | _, .inf b => some (if b then 1 else -1)
  | .fin a m e, .fin b n f =>
      let e0 := min e f
      let x := signedAt a m e e0 - signedAt b n f e0
      some (if x < 0 then -1 else if x = 0 then 0 else 1)

def Val.isNan : Val → Bool
  | .nan => true
  | _ => false

/-- The integer square root by its binary digits, from the digit `n − 1` down. -/
def sqrtDigits (x : Nat) : Nat → Nat → Nat
  | 0, r => r
  | n + 1, r =>
      let r' := r + 2 ^ n
      sqrtDigits x n (if r' * r' ≤ x then r' else r)
def isqrt (x : Nat) : Nat := sqrtDigits x (Nat.log2 x / 2 + 1) 0

/-- A value with one more digit that says whether something follows, so that one rounding of it is the rounding of the
exact value. -/
def sticky (neg : Bool) (m : Nat) (e : Int) (more : Bool) : Val := .fin neg (2 * m + (if more then 1 else 0)) (e - 1)

/-- The quotient of two finite values, the divisor not zero, to at least 66 more digits than any format. -/
def quotient (neg : Bool) (m : Nat) (e : Int) (n : Nat) (f : Int) : Val :=
  if m = 0 then .fin neg 0 0
  else
    let sh := Nat.log2 n + 130 - Nat.log2 m
    let x := m <<< sh
    sticky neg (x / n) (e - f - sh) (x % n ≠ 0)

/-- The square root of a positive finite value. -/
def squareRoot (m : Nat) (e : Int) : Val :=
  let odd := e % 2 ≠ 0
  let m := if odd then 2 * m else m
  let e := if odd then e - 1 else e
  let x := m <<< 260
  let r := isqrt x
  sticky false r (e / 2 - 130) (r * r ≠ x)

/-! ## Integers (R182 to R184) -/

def maxInt (t : ElemType) : Int := if t.isSigned then 2 ^ (t.width - 1) - 1 else 2 ^ t.width - 1
def minInt (t : ElemType) : Int := if t.isSigned then -(2 ^ (t.width - 1)) else 0

/-- The pattern of an integer modulo 2^w. -/
def wrapInt (w : Nat) (x : Int) : Nat := (x % (2 ^ w : Int)).toNat

def clampInt (t : ElemType) (x : Int) : Int := if x < minInt t then minInt t else if maxInt t < x then maxInt t else x

/-- An exact integer result, clamped or wrapped (R182). -/
def intResult (t : ElemType) (sat : Bool) (x : Int) : Nat := wrapInt t.width (if sat then clampInt t x else x)

/-- The value of an integer pattern. -/
def intOf (t : ElemType) (x : Nat) : Int :=
  if t.isSigned && x.testBit (t.width - 1) then (x : Int) - 2 ^ t.width else x

/-- The integer nearest a value by RM, saturated; a NaN gives 0 (R184). -/
def valToInt (t : ElemType) (rm : Rnd) : Val → Nat
  | .nan => 0
  | .inf neg => wrapInt t.width (if neg then minInt t else maxInt t)
  | .fin neg m e =>
      let k : Int := roundInt rm neg m (if e < -200 ∧ m < 2 ^ 128 then -200 else e)
      wrapInt t.width (clampInt t (if neg then -k else k))

/-- The value of an integer. -/
def valOfInt (x : Int) : Val := .fin (x < 0) x.natAbs 0

/-! ## Logarithmic codes (R175 to R181) -/

/-- k and b of R179, and the largest code number. -/
def logK (t : ElemType) : Nat := if t = .lg6 then 4 else 8
def logMax (t : ElemType) : Nat := if t = .lg6 then 31 else 127

def logSign (t : ElemType) (x : Nat) : Bool := x.testBit (t.width - 1)
def logCode (t : ElemType) (x : Nat) : Nat := field x 0 (t.width - 1)
def logPattern (t : ElemType) (neg : Bool) (c : Nat) : Nat := (if neg then 2 ^ (t.width - 1) else 0) + c

/-- The table M of R178. -/
def tableM (t : ElemType) (f : Nat) : Nat :=
  if t = .lg6 then (match f with | 0 => 16384 | 1 => 19484 | 2 => 23170 | _ => 27554)
  else match f with
    | 0 => 16384 | 1 => 17867 | 2 => 19484 | 3 => 21247 | 4 => 23170 | 5 => 25268 | 6 => 27554 | _ => 30048

/-- The linear value of a code (R179). -/
def logValue (t : ElemType) (sc : Int) (x : Nat) : Val :=
  let c := logCode t x
  if c = 0 then .fin (logSign t x) 0 0
  else .fin (logSign t x) (tableM t (c % logK t)) ((c / logK t : Nat) - (logK t : Int) - 14 + sc)

/-- The order of two codes at equal scale: a number that rises with the value, the two zeros equal (R177, R256). -/
def logOrder (t : ElemType) (x : Nat) : Int := let c : Int := logCode t x; if logSign t x then -c else c

/-- A code number within its limits (R180, R181). -/
def logLimit (t : ElemType) (rm : Rnd) (neg : Bool) (c : Int) : Nat :=
  if (logMax t : Int) < c then logMax t
  else if c ≤ 0 then (if (rm = .rup && !neg) || (rm = .rdn && neg) then 1 else 0)
  else c.toNat

/-- The code of a value (R180).  y = log2(|x|^k) + k(b − σ); floor(y) and floor(2y) come from powers of the mantissa. -/
def logOfVal (t : ElemType) (rm : Rnd) (flush : Bool) (F : Option Fmt) (sc : Int) (x : Val) : Nat :=
  match x with
  | .nan => 0
  | .inf neg => logPattern t neg (logMax t)
  | .fin neg m e =>
      let sub := match F with
        | some F => flush && (Nat.log2 m : Int) + e < 1 - (F.bias : Int)
        | none => false
      if m = 0 || sub then logPattern t neg 0
      else
        let k := logK t
        let add : Int := (k : Int) * (e - sc + k)
        let fl : Int := (Nat.log2 (m ^ k) : Int) + add
        let exact := 2 ^ Nat.log2 m = m
        let half := Nat.log2 (m ^ (2 * k)) % 2 = 1
        let up : Bool := match rm with
          | .rne => half
          | .rtz => false
          | .rup => !neg && !exact
          | .rdn => neg && !exact
        logPattern t neg (logLimit t rm neg (if up then fl + 1 else fl))

/-- A code of one log format as a code of another (R181): twice y is an integer. -/
def logOfLog (ts td : ElemType) (rm : Rnd) (si so : Int) (x : Nat) : Nat :=
  let neg := logSign ts x
  let c := logCode ts x
  if c = 0 then logPattern td neg 0
  else
    let y2 : Int := 2 * (logK td : Int) * c / (logK ts : Int)
      + 2 * (logK td : Int) * (-(logK ts : Int) + si - so + (logK td : Int))
    let fl := y2 / 2
    let up : Bool := if y2 % 2 = 0 then false else match rm with
      | .rne => fl % 2 ≠ 0
      | .rtz => false
      | .rup => !neg
      | .rdn => neg
    logPattern td neg (logLimit td rm neg (if up then fl + 1 else fl))

/-! ## Elements -/

/-- The result of one element: its pattern, and for a NaN what the trap reports: the cause of R195 and OPVAL. -/
structure El where
  bits : Nat
  nan  : Option (Nat × Nat)
  deriving DecidableEq, Repr

def El.of (x : Nat) : El := { bits := x, nan := none }

/-- The cause and OPVAL of a NaN that comes from `ops` of type `t` (R195). -/
def nanReport (t : ElemType) (ops : List Nat) : Nat × Nat :=
  match ops.find? fun x => (Val.of (fmtOf t) false x).isNan with
  | some x => (1, x)
  | none => (0, 0)

/-- A floating-point result from operands of the same type. -/
def floatResult (t : ElemType) (fe : FEnv) (ops : List Nat) (v : Val) : El :=
  { bits := v.enc (fmtOf t) fe.rm fe.subn, nan := if v.isNan then some (nanReport t ops) else none }

/-- The value of an operand of a floating-point type. -/
def opVal (t : ElemType) (fe : FEnv) (x : Nat) : Val := Val.of (fmtOf t) fe.subn x

/-- Element j of a register (R58). -/
def elem (t : ElemType) (x : W64) (j : Nat) : Nat := field x.toNat (t.width * j) t.width

/-- The register of a list of elements (R58); LG6 leaves [63:60] zero. -/
def packElems (t : ElemType) : List Nat → Nat
  | [] => 0
  | x :: xs => x % 2 ^ t.width + 2 ^ t.width * packElems t xs

/-- The elements of a register. -/
def elems (t : ElemType) (x : W64) : List Nat := (span 0 t.count).map (elem t x)

/-- W(IMM) of R249, as one element. -/
def immElem (t : ElemType) (i : W32) : Nat :=
  match t with
  | .s64 => (i.signExtend 64).toNat
  | .f64 => (Val.of .f32 false i.toNat).enc .f64 .rne false
  | _ => i.toNat

/-- The immediate in every sub-element (R249). -/
def immReg (t : ElemType) (i : W32) : W64 := BitVec.ofNat 64 (packElems t (List.replicate t.count (immElem t i)))

/-! ## The operations on elements (R250 to R258) -/

def elAdd (t : ElemType) (sat : Bool) (fe : FEnv) (a b : Nat) : El :=
  if t.isFloat then floatResult t fe [a, b] ((opVal t fe a).add fe.rm (opVal t fe b))
  else .of (intResult t sat (intOf t a + intOf t b))

def elSub (t : ElemType) (sat : Bool) (fe : FEnv) (a b : Nat) : El :=
  if t.isFloat then floatResult t fe [a, b] ((opVal t fe a).add fe.rm (opVal t fe b).neg)
  else .of (intResult t sat (intOf t a - intOf t b))

def elMul (t : ElemType) (sat : Bool) (fe : FEnv) (a b : Nat) : El :=
  if t.isFloat then floatResult t fe [a, b] ((opVal t fe a).mul (opVal t fe b))
  else .of (intResult t sat (intOf t a * intOf t b))

def elFma (t : ElemType) (sat : Bool) (fe : FEnv) (a b c : Nat) : El :=
  if t.isFloat then floatResult t fe [a, b, c] (Val.fma fe.rm (opVal t fe a) (opVal t fe b) (opVal t fe c))
  else .of (intResult t sat (intOf t a * intOf t b + intOf t c))

def elMulh (t : ElemType) (a b : Nat) : El := .of (wrapInt t.width (intOf t a * intOf t b / 2 ^ t.width))

/-- Division that truncates toward zero (R183). -/
def elDiv (t : ElemType) (sat : Bool) (a b : Nat) : El :=
  if b = 0 then .of (2 ^ t.width - 1) else .of (intResult t sat ((intOf t a).tdiv (intOf t b)))

def elRem (t : ElemType) (a b : Nat) : El :=
  if b = 0 then .of a else .of (wrapInt t.width ((intOf t a).tmod (intOf t b)))

def elAnd (a b : Nat) : El := .of (a &&& b)
def elOr (a b : Nat) : El := .of (a ||| b)
def elXor (a b : Nat) : El := .of (a ^^^ b)
def elNot (t : ElemType) (a : Nat) : El := .of (2 ^ t.width - 1 - a)

/-- Shifts and rotates (R251). -/
def elShl (t : ElemType) (rot : Bool) (a n : Nat) : El :=
  let w := t.width
  if rot then (let k := n % w; .of (((a <<< k) % 2 ^ w) ||| (a >>> (w - k))))
  else .of (if n < w then (a <<< n) % 2 ^ w else 0)

def elShr (t : ElemType) (rot : Bool) (a n : Nat) : El :=
  let w := t.width
  if rot then (let k := n % w; .of ((a >>> k) ||| ((a <<< (w - k)) % 2 ^ w)))
  else .of (wrapInt w (intOf t a / 2 ^ (min n w)))

def elClz (t : ElemType) (a : Nat) : El := .of (if a = 0 then t.width else t.width - 1 - Nat.log2 a)
def elPopc (t : ElemType) (a : Nat) : El := .of ((span 0 t.width).filter a.testBit).length

def signBit (t : ElemType) : Nat := 2 ^ (t.width - 1)

/-- |a|, or the sign bit cleared (R252). -/
def elAbs (t : ElemType) (sat : Bool) (a : Nat) : El :=
  if t.isInt then .of (intResult t sat ((intOf t a).natAbs)) else .of (a % signBit t)

/-- 0 − a, or the sign bit inverted (R252). -/
def elNeg (t : ElemType) (sat : Bool) (a : Nat) : El :=
  if t.isInt then .of (intResult t sat (-(intOf t a))) else .of (a ^^^ signBit t)

def elCpys (t : ElemType) (a b : Nat) : El := .of (a % signBit t + (b - b % signBit t))

/-- A floating-point pattern with a subnormal taken as a zero of its sign when SUBN is 1 (R174). -/
def flushed (t : ElemType) (fe : FEnv) (a : Nat) : Nat :=
  let F := fmtOf t
  if fe.subn && field a F.f F.e = 0 then a - a % signBit t else a

/-- Whether a is ordered below b by VMIN and VMAX (R253): −0 below +0, the zero code with S = 1 below the other. -/
def elBelow (t : ElemType) (fe : FEnv) (a b : Nat) : Bool :=
  if t.isInt then intOf t a < intOf t b
  else if t.isLog then
    logOrder t a < logOrder t b || (logOrder t a = logOrder t b && logSign t a && !logSign t b)
  else
    match (opVal t fe a).cmp (opVal t fe b) with
    | some c => c < 0 || (c = 0 && signBit t ≤ a && b < signBit t)
    | none => false

/-- The smaller or larger operand (R253). -/
def elPick (t : ElemType) (larger : Bool) (fe : FEnv) (a b : Nat) : El :=
  if t.isFloat && ((opVal t fe a).isNan || (opVal t fe b).isNan) then floatResult t fe [a, b] .nan
  else
    let a := if t.isFloat then flushed t fe a else a
    let b := if t.isFloat then flushed t fe b else b
    .of (if larger then (if elBelow t fe a b then b else a) else (if elBelow t fe b a then b else a))

/-- The codes of COND on the sign of a − b, none for an unordered pair (R256). -/
def condOf (c : Nat) (o : Option Int) : Bool :=
  match c, o with
  | 0, some x => x = 0
  | 1, some x => x ≠ 0
  | 1, none => true
  | 2, some x => x < 0
  | 3, some x => x ≤ 0
  | 4, some x => 0 < x
  | 5, some x => 0 ≤ x
  | 6, none => true
  | 7, some _ => true
  | _, _ => false

/-- a COND b (R256). -/
def elCompare (t : ElemType) (fe : FEnv) (c a b : Nat) : Bool :=
  if t.isFloat then condOf c ((opVal t fe a).cmp (opVal t fe b))
  else if t.isLog then condOf c (some (logOrder t a - logOrder t b))
  else condOf c (some (intOf t a - intOf t b))

/-- cvt(x) of R258. -/
def elConvert (ts td : ElemType) (sat : Bool) (fe : FEnv) (x : Nat) : El :=
  if td.isLog then
    if ts.isLog then .of (logOfLog ts td fe.rm fe.sca fe.scb x)
    else if ts.isFloat then
      let v := Val.of (fmtOf ts) false x
      { bits := logOfVal td fe.rm fe.subn (some (fmtOf ts)) fe.sca v, nan := if v.isNan then some (2, x) else none }
    else .of (logOfVal td fe.rm fe.subn none fe.sca (valOfInt (intOf ts x)))
  else if td.isFloat then
    if ts.isLog then .of ((logValue ts fe.sca x).enc (fmtOf td) fe.rm fe.subn)
    else if ts.isFloat then
      let v := Val.of (fmtOf ts) fe.subn x
      { bits := v.enc (fmtOf td) fe.rm fe.subn, nan := if v.isNan then some (1, x) else none }
    else .of ((valOfInt (intOf ts x)).enc (fmtOf td) fe.rm fe.subn)
  else
    if ts.isLog then .of (valToInt td fe.rm (logValue ts fe.sca x))
    else if ts.isFloat then
      let v := Val.of (fmtOf ts) fe.subn x
      { bits := valToInt td fe.rm v, nan := if v.isNan then some (2, x) else none }
    else .of (intResult td sat (intOf ts x))

end Sys2Proof.Machine
end

