-- ==== Sys2Proof/Config.lean ====
section
/-!
DEFINITION. What an implementation fixes and the values the manual leaves open.  An opaque constant has no body, so a
theorem holds whatever its value is.
-/
namespace Sys2Proof.Config

/-! ## Sizes that the manual gives -/

/-- Cores of a compute die (R4). -/
def coresPerDie : Nat := 48
/-- Compute dies (R1). -/
def dies : Nat := 4
/-- Bytes of device memory (R3). -/
def memoryBytes : Nat := 384 * 2 ^ 30
/-- Entries of a binding (R108). -/
def queueDepth : Nat := 16
/-- Buffered stores of a lane (R49). -/
def bufferDepth : Nat := 16
/-- Clauses after which a quantum ends (R50). -/
def quantumClauses : Nat := 256
/-- Outstanding loads of a group (R200). -/
def loadLimit : Nat := 32
/-- The largest acknowledgement count (R157). -/
def ackLimit : Nat := 4095

/-! ## Time -/

/-- Arithmetic-clock cycles that pass in the step numbered `tick`. (DESIGN CHOICE, log entry 4) -/
opaque cyclesAt : Nat → Nat
/-- Nanoseconds that pass in the step numbered `tick`. (DESIGN CHOICE, log entry 4) -/
opaque nsAt : Nat → Nat

/-! ## Arithmetic -/

/-- The lower of the two neighbours between which a bounded special function delivers its result (R261): opcode, operand pattern and
SUBN to a pattern; neighbours outside the bound are not used. (DESIGN CHOICE, log entry 7) -/
opaque sfuPattern : Nat → Nat → Bool → W64
/-- The sign of a zero result of VCOS (R261 states none): type code, operand pattern. (DESIGN CHOICE, log entry 8) -/
opaque cosZeroNegative : Nat → Nat → Bool

/-! ## Values that the manual does not state -/

/-- The value of the free value numbered `n`. (DESIGN CHOICE, log entry 5) -/
opaque freeWord : Nat → W64

/-- The program counter of a management core at a step of the machine: the firmware is not described (R83).
(DESIGN CHOICE, log entry 9) -/
opaque managementPc : Nat → Nat → W64

/-! ## Addresses -/

/-- What chooses the place of the private object of a group. (DESIGN CHOICE, log entry 10) -/
opaque privatePage : Nat → Nat
/-- The virtual address at which the device places the private object of a group (R90 gives none): objects begin at a page
(R133). (DESIGN CHOICE, log entry 10) -/
def privateBase (g : Nat) : Nat := privatePage g * 4096
/-- ADDR of a record that names a tile: the handle and the byte offset (R125 gives no layout).
(DESIGN CHOICE, log entry 10) -/
opaque tileAddr : Nat → Nat → W64

/-! ## Caches: the manual gives no index function -/

/-- What chooses the set of an L1 line. (DESIGN CHOICE, log entry 11) -/
opaque l1Index : Nat → Nat
/-- What chooses the set of an L2 line within its slice. (DESIGN CHOICE, log entry 11) -/
opaque l2Index : Nat → Nat
/-- The set of an L1 line: 256 KiB in lines of 128 bytes and 8 ways make 256 sets (R86). -/
def l1Set (line : Nat) : Nat := l1Index line % 256
/-- The set of an L2 line within its slice: 512 sets (R86). -/
def l2Set (line : Nat) : Nat := l2Index line % 512

/-! ## Links -/

/-- One less than the flits that a class queue of a link direction holds (R108 gives no number). (DESIGN CHOICE, log entry 67) -/
opaque linkDepth : Nat → Nat

/-! ## Configuration records, images and the security engine

The manual gives no layout for the payload of a record, and fixes the primitives by their standards. -/

/-- The fabric port through which a domain record's routing table sends traffic for a package (R439).
(DESIGN CHOICE/PRESUMED, log entries 12, 62) -/
opaque recordPort : List Byte → Nat → Nat
/-- The domain index that a domain record assigns (R439). (PRESUMED, log entry 12) -/
opaque recordPackage : List Byte → Nat
/-- The debug state that a debug record sets: 1 Self-hosted, 2 Invasive, else Off (R448). (PRESUMED, log entry 12) -/
opaque recordDebug : List Byte → Nat
/-- The lifecycle state that a lifecycle record names, numbered in the order of R447. (PRESUMED, log entry 12) -/
opaque recordLifecycle : List Byte → Nat
/-- Whether the signature of a record verifies under the context "DQ7CFG", with the payload of the provisioning record that
installs the owner key (R442). (PRESUMED, log entry 12) -/
opaque recordVerifies : Option (List Byte) → ConfigRecord → Bool
/-- The step of R441 at which a boot fails, 0 when none does, by the number of the machine's step.
(DESIGN CHOICE, log entry 13) -/
opaque bootFailure : Nat → Nat
/-- The SHAKE256 digest of the first stage (0), of the main firmware (1) (R444). (PRESUMED, log entry 12) -/
opaque imageDigest : Nat → List Byte
/-- The SHAKE256 digest of a configuration record (R444). (PRESUMED, log entry 12) -/
opaque recordDigest : ConfigRecord → List Byte
/-- The nonce that the device issues for debug tokens, by the number of a free value (R448). -/
opaque issuedNonce : Nat → BitVec 256
/-- The KEYID of the device's identity key (R443, R448). (PRESUMED, log entry 12) -/
opaque identityKeyid : W64
/-- The signature of the identity key under the context "DQ7ATT" (R444). (PRESUMED, log entry 12) -/
opaque identitySign : List Byte → List Byte
/-- SHAKE256 of some bytes, so many bytes of output. (PRESUMED, log entry 12) -/
opaque shake256 : List Byte → Nat → List Byte
/-- ML-DSA-65 verification: public key, context, message, signature (R232). (PRESUMED, log entry 12) -/
opaque mlDsaVerify : List Byte → String → List Byte → List Byte → Bool
/-- The signature of a debug token under the context "DQ7DBG", with the provisioning record's payload (R448).
(PRESUMED, log entry 12) -/
opaque tokenVerifies : Option (List Byte) → DebugToken → Bool
/-- ML-KEM-768 decapsulation by the device: the ciphertext to the shared key; none when the ciphertext is refused (R446).
(PRESUMED, log entry 12) -/
opaque mlKemDecapsulate : List Byte → Option (List Byte)
/-- AES-256-XTS of a 64-byte unit: KEY1, KEY2, the tweak and the data (R152). (PRESUMED, log entry 14) -/
opaque xtsEncrypt : BitVec 256 → BitVec 256 → Nat → BitVec 512 → BitVec 512
opaque xtsDecrypt : BitVec 256 → BitVec 256 → Nat → BitVec 512 → BitVec 512
/-- AES-256 key unwrap (NIST SP 800-38F): wrapping key, wrapped bytes (R446). (PRESUMED, log entry 12) -/
opaque aesUnwrap : List Byte → List Byte → Option (List Byte)

/-! ## The entries of an object cache that a core keeps (R134 gives no number) -/
/-- (DESIGN CHOICE, log entry 19) -/
def objectCache : Nat := 64

end Sys2Proof.Config
end

