-- ==== Sys2Proof/Machine/Flits.lean ====
section
/-!
DEFINITION. The ways over the die-to-die links and the class queues of a link direction: what enters a queue, what waits, and what
crosses next (R2, R55, R108, R128, R154, R162).
-/
namespace Sys2Proof.Machine
open Sys2Proof

/-! ## Ways (R2) -/

/-- The links of the package: links 0 to 3 go round the compute dies, 0 to 1, 1 to 3, 3 to 2 and 2 to 0, each numbered by the
die that it starts from, and link 4 + d joins die d with the control die.  Link `n` has the directions `2 n`, from its start (for
a control-die link, from the compute die), and `2 n + 1`; direction 16 + p leaves through fabric port p. -/
def ringNext : Nat → Nat | 0 => 1 | 1 => 3 | 3 => 2 | _ => 0

/-- The direction from a die to its neighbour. -/
def hop (a b : Nat) : Nat := if ringNext a = b then 2 * a else 2 * b + 1

/-- The directions that traffic takes between two compute dies: two that are no neighbours meet through the lower rank that
neighbours both. (DESIGN CHOICE, log entry 61) -/
def dieWay (a b : Nat) : List Nat :=
  if a = b then []
  else if ringNext a = b || ringNext b = a then [hop a b]
  else
    let m := if a = 0 || b = 0 then 1 else 0
    [hop a m, hop m b]

/-- The directions to and from the control die. -/
def toControl (d : Nat) : List Nat := [2 * (4 + d)]
def fromControl (d : Nat) : List Nat := [2 * (4 + d) + 1]

/-- The compute dies that a link joins. -/
def linkEnds (n : Nat) : List Nat := if n < 4 then [n, ringNext n] else [n - 4]

/-- A direction carries flits: its link does not retrain, and no die at its ends is held in reset. -/
def State.dirOpen (s : State) (n : Nat) : Bool :=
  if n < 16 then !(s.link (n / 2)).retrain && (linkEnds (n / 2)).all fun d => !(s.die d).held
  else !(s.port (n - 16)).retrain

/-! ## Classes (R128) -/

/-- The classes in the order in which ties go (R162). -/
def clsControl : Nat := 0
def clsRequest : Nat := 1
def clsBulk : Nat := 2

/-- The class of a transfer of `n` bytes that is carried as control traffic when it is small, and otherwise in class `c`. -/
def sizedClass (n c : Nat) : Nat := if n ≤ 64 then clsControl else c

/-- A way whose every link is crossed in one class. -/
def inClass (c : Nat) (ns : List Nat) : List (Nat × Nat) := ns.map fun n => (n, c)

/-! ## The class queues (R108, R128) -/

def Flit.stands (f : Flit) (n c : Nat) : Bool := f.hops.head? = some (n, c)

/-- The flits of a class at a direction, in arrival order. -/
def State.queueAt (s : State) (n c : Nat) : List Flit := s.flits.filter fun f => f.stands n c

/-- The classes that wait at a direction, in the order control, request, bulk. -/
def State.waitingAt (s : State) (n : Nat) : List Nat := (span 0 3).filter fun c => !(s.queueAt n c).isEmpty

/-- Whether a class queue takes one more flit; a full one back-pressures its sender (R108).
(DESIGN CHOICE, log entry 67) -/
def State.roomAt (s : State) (n c : Nat) : Bool := (s.queueAt n c).length ≤ Config.linkDepth n

/-- The first class queue of a way has room. -/
def State.roomOn (s : State) (hops : List (Nat × Nat)) : Bool :=
  match hops with
  | [] => true
  | (n, c) :: _ => s.roomAt n c

/-! ## The arbiter (R162) -/

/-- The signed comparison of two class passes modulo 2^16 (R154). -/
def classBelow (a b : Nat) : Bool := 2 ^ 15 ≤ (2 ^ 16 + a - b) % 2 ^ 16

def strideOf : Nat → Nat | 0 => 12 | 1 => 4 | _ => 3

/-- The class with the lowest pass, the first of equals. -/
def lowestClass (pass : Tbl Nat) : List Nat → Option Nat
  | [] => none
  | c :: cs => match lowestClass pass cs with
    | some d => if classBelow (Tbl.get 0 pass d) (Tbl.get 0 pass c) then some d else some c
    | none => some c

/-- The passes once class `c` begins to wait beside the classes `waits`: the higher of its own and their lowest. -/
def beginWaiting (pass : Tbl Nat) (waits : List Nat) (c : Nat) : Tbl Nat :=
  match lowestClass pass waits with
  | some d => if classBelow (Tbl.get 0 pass c) (Tbl.get 0 pass d) then Tbl.put 0 pass c (Tbl.get 0 pass d) else pass
  | none => pass

/-- The passes after a flit of class `c`. -/
def passAfter (pass : Tbl Nat) (c : Nat) : Tbl Nat := Tbl.put 0 pass c ((Tbl.get 0 pass c + strideOf c) % 2 ^ 16)

/-- A flit enters the class queue of its next direction; one with no direction left has arrived. -/
def State.sendFlit (s : State) (u : Nat) (hops : List (Nat × Nat)) : State :=
  match hops with
  | [] => s
  | (n, c) :: _ =>
      let s := if (s.queueAt n c).isEmpty then
          let x := s.linkDir n
          s.setLinkDir n { x with pass := beginWaiting x.pass (s.waitingAt n) c }
        else s
      { s with flits := s.flits ++ [{ uid := u, hops := hops }] }

/-- What the flits of a number carry has arrived. -/
def State.flitsIn (s : State) (u : Nat) : Bool := !(s.flits.any fun f => f.uid = u)

/-- The oldest flit of class `c` crosses direction `n` and enters its next queue. -/
def State.crossOne (s : State) (n c : Nat) : State :=
  match (s.queueAt n c).head? with
  | none => s
  | some f => ({ s with flits := s.flits.erase f }).sendFlit f.uid f.hops.tail

/-- A flit that is sent and delivered within one step, over directions that carry flits (R2, R128): none when one does not.
(DESIGN CHOICE, log entry 67) -/
def State.crossNow (s : State) (c : Nat) : List Nat → Option State
  | [] => some s
  | n :: ns =>
      if !s.dirOpen n then none
      else
        let x := s.linkDir n
        (s.setLinkDir n { x with pass := passAfter x.pass c, sent := x.sent + 1 }).crossNow c ns

/-- Ways crossed in turn in one class within a step. -/
def crossWays (c : Nat) : List (List Nat) → State → Option State
  | [], s => some s
  | w :: ws, s => (s.crossNow c w).bind (crossWays c ws)

end Sys2Proof.Machine
end

