-- ==== Sys2Proof/Machine/Address.lean ====
section
/-!
DEFINITION. Where an access goes: home slices, the caches, the page walk and the TLBs, and the checks of a capability
(R63, R64, R93 to R99, R132 to R141).
-/
namespace Sys2Proof.Machine
open Sys2Proof

/-! ## Physical places -/

/-- The number of a byte of physical memory: the target and the physical address (R136). -/
def cellOf (tgt pa : Nat) : Nat := tgt * 2 ^ 52 + pa
def cellTgt (c : Nat) : Nat := c / 2 ^ 52
def cellPa (c : Nat) : Nat := c % 2 ^ 52

/-- The channel of R96 over the low 39 bits of an address. -/
def channelOf (pa : Nat) : Nat := field pa 8 8 ^^^ field pa 16 8 ^^^ field pa 24 8 ^^^ field pa 32 7

/-- The byte of an address within its channel (R96). -/
def channelOffset (pa : Nat) : Nat := pa / 2 ^ 16 * 256 + field pa 0 8

/-- The HBM stack of an address (R3, R96). -/
def stackOf (pa : Nat) : Nat := channelOf pa / 32

/-- The home die and slice of a cell within the package that owns it (R96): a die owns two stacks (R3). -/
def homeDie (c : Nat) : Nat := stackOf (cellPa c) / 2
def homeSlice (c : Nat) : Nat := (4 * (channelOf (cellPa c) % 64) + field (cellPa c) 16 2) % 48

/-- Whether the home of a cell is in another package (R439). -/
def State.remote (s : State) (c : Nat) : Bool := cellTgt c = 2 && field (cellPa c) 40 8 ≠ s.control.package

/-- The cell of a target and address; a fabric address of this package is its own device memory (R439). -/
def State.cellFor (s : State) (tgt pa : Nat) : Nat :=
  if tgt = 2 && field pa 40 8 = s.control.package then cellOf 0 (pa % 2 ^ 39) else cellOf tgt pa

/-- Whether a cell is device memory that exists (R3, R96), or memory of the host or the fabric. -/
def cellExists (c n : Nat) : Bool := cellTgt c ≠ 0 || cellPa c + n ≤ Config.memoryBytes

def State.read64 (s : State) (c : Nat) : W64 := BitVec.ofNat 64 (natOfBytes (Memory.readN s.mem c 8))

/-- Whether an access of `n` bytes meets a poisoned sector (R106). -/
def State.poisoned (s : State) (c n : Nat) : Bool := s.poison.any fun x => x * 64 < c + n && c < x * 64 + 64

/-- Whether the home of a cell is on a compute die that is held in reset (R432). -/
def State.deadHome (s : State) (c : Nat) : Bool := !s.remote c && (s.die (homeDie c)).held

/-- The port that the routing table of the domain record gives for a package (R439). (DESIGN CHOICE, log entry 62) -/
def State.portFor (s : State) (package : Nat) : Nat :=
  match s.control.inUse.find? fun r => r.kind = .domain with
  | some r => Config.recordPort r.payload package % 16
  | none => 0

/-- The directions from a die to the home of a cell. (DESIGN CHOICE, log entries 61, 62) -/
def State.wayTo (s : State) (die c : Nat) : List Nat :=
  if s.remote c then toControl die ++ [16 + s.portFor (field (cellPa c) 40 8)] else dieWay die (homeDie c)

/-- The directions back from the home of a cell; what comes from another package comes in through the control die. -/
def State.wayFrom (s : State) (die c : Nat) : List Nat :=
  if s.remote c then fromControl die else dieWay (homeDie c) die

/-- Whether a cell has its home away from a die (R157). -/
def State.isFar (s : State) (die c : Nat) : Bool := s.remote c || homeDie c ≠ die

/-- The first cells that [c, c + n) has in the 256-byte blocks that it meets: each block has one home slice (R96). -/
def blocksOf (c n : Nat) : List Nat := (span (c / 256) ((c + n - 1) / 256 - c / 256 + 1)).map fun b => max c (b * 256)

/-- The first block of [c, c + n) that has its home away from a die. -/
def State.farBlock (s : State) (die c n : Nat) : Option Nat := (blocksOf c n).find? (s.isFar die)

/-! ## The L2: hints and lines (R98, R99) -/

/-- The hint after an access with hint `h` (R98): 0 normal, 1 evict-first, 2 evict-last. -/
def hintAfter (old h : BitVec 2) : BitVec 2 :=
  if h = 2 then 2 else if old = 2 then 2 else if h = 1 then 1 else old

/-- The last entry of a list that satisfies `p`. -/
def findLast {α : Type} (p : α → Bool) (l : List α) : Option α := l.reverse.find? p

/-- The evict-last lines of a set that leave it when at most `n` may stay: the least recently used ones (R99). -/
def excessLast (set : List L2Line) (n : Nat) : List L2Line := (set.filter fun x => x.hint = 2).drop n

/-- The line that a set of `ways` cache ways evicts for a fill with hint `h` (R99); the list has the most recently used
line first. (DESIGN CHOICE, log entry 11) -/
def l2Victim (set : List L2Line) (ways : Nat) (h : BitVec 2) : Option L2Line :=
  let last := set.filter fun x => x.hint = 2
  if h = 2 && ways - 2 ≤ last.length then last.getLast?
  else if set.length < ways then none
  else
    match findLast (fun x => x.hint = 1) set with
    | some v => some v
    | none => match findLast (fun x => x.hint = 0) set with
      | some v => some v
      | none => last.getLast?

/-- The way of a unit of the pinned pool, 1,536 units to a way (R97). -/
def unitWay (u : Nat) : Nat := u / 1536

/-- The ways of a die that hold pinned data, and how many they are (R97). -/
def Die.pinnedAt (d : Die) (w : Nat) : Bool := d.pinned.any fun e => e.2.any fun u => unitWay u = w
def Die.pinWays (d : Die) : Nat := ((span 0 16).filter d.pinnedAt).length

/-- The lines of the set of a line in its slice, the most recently used first. -/
def Die.setOf (d : Die) (line : Nat) : List L2Line :=
  d.l2.filter fun y => homeSlice (y.line * 256) = homeSlice (line * 256) && Config.l2Set y.line = Config.l2Set line

/-- The lowest cache way that a set leaves free. (DESIGN CHOICE, log entry 11) -/
def Die.freeWay (d : Die) (set : List L2Line) : Nat :=
  ((span 0 16).find? fun w => !d.pinnedAt w && set.all fun y => y.way ≠ w).getD 0

/-- An access of a line at its home: the hint, the order of use, and for a write the dirty state with what the channel
holds beneath it.  Evict-last lines take at most the cache ways of a set minus two (R99).  Memory of another package has no line
here (R96). -/
def State.touchL2 (s : State) (c : Nat) (h : BitVec 2) (write : Bool) : State :=
  if s.remote c then s
  else
    let line := c / 256
    let n := homeDie c
    let d := s.die n
    let ways := 16 - d.pinWays
    let beneath : Tbl Byte := s.mem.filter fun e => e.1 / 256 = line
    match d.l2.find? fun x => x.line = line with
    | some x =>
        let x' := { x with hint := hintAfter x.hint h, dirty := x.dirty || write,
                           below := if write && !x.dirty then beneath else x.below }
        let gone := if h = 2 && x.hint ≠ 2 then excessLast ((d.setOf line).filter fun y => y.line ≠ line) (ways - 3) else []
        s.setDie n { d with l2 := x' :: d.l2.filter fun y => y.line ≠ line && !gone.contains y }
    | none =>
        let set := if d.l2.length = 0 then [] else d.setOf line
        let (l2, way) := match l2Victim set ways h with
          | some v => (d.l2.filter fun y => y.line ≠ v.line, v.way)
          | none => (d.l2, d.freeWay set)
        let x : L2Line := { line := line, way := way, hint := h, dirty := write, below := if write then beneath else [] }
        s.setDie n { d with l2 := x :: l2 }

/-! ## The L1 (R93 to R95) -/

/-- The line that makes room for one more line in its set of eight ways: none where a way is invalid, else the least recently used
clean line, else the least recently used dirty line (R95). (DESIGN CHOICE, log entry 11) -/
def l1Victim (l : List L1Line) (line : Nat) : Option L1Line :=
  if l.length < 8 then none
  else
    let set := l.filter fun y => Config.l1Set y.line = Config.l1Set line
    if set.length < 8 then none
    else match findLast (fun y => !y.dirty) set with
      | some v => some v
      | none => set.getLast?

/-- A dirty private line is written back to its home slice (R95). -/
def Group.writeBack (g : Group) (line : Nat) : Group :=
  { g with ownHome := Memory.writeN g.ownHome (128 * line) (Memory.readN g.own (128 * line) 128) }

/-- The dirty private lines of a list are written back. -/
def State.writeBackLines (s : State) (ls : List L1Line) : State :=
  ls.foldl (fun s x => match x.owner with
    | some u => if x.dirty then { s with groups := s.groups.map fun g => if g.uid = u then g.writeBack x.line else g } else s
    | none => s) s

/-- A line enters the L1 of a core; the line that it replaces is written back when it is dirty (R95). -/
def State.placeL1 (s : State) (core : Nat) (rest : List L1Line) (x : L1Line) : State :=
  match l1Victim rest x.line with
  | none => s.setCore core { s.core core with l1 := x :: rest }
  | some v => (s.setCore core { s.core core with l1 := x :: rest.filter fun y => !(y.line = v.line && y.owner = v.owner) }).writeBackLines [v]

/-- What core `n` holds of `k` bytes at a cell: its copy, or none. -/
def Core.l1Read (c : Core) (cell k : Nat) : Option (List Byte) :=
  (c.l1.find? fun x => x.owner = none && x.line = cell / 128).map fun x => Memory.readN x.data cell k

/-- The copy that core `n` holds of bytes at a cell has a poisoned sector (R106). -/
def Core.l1Bad (c : Core) (cell k : Nat) : Bool :=
  c.l1.any fun x => x.owner = none && x.line = cell / 128 && x.bad.any fun b => b * 64 < cell + k && cell < b * 64 + 64

/-- A fill of a line that is not private from its home. -/
def State.fillL1 (s : State) (core cell : Nat) : State :=
  let c := s.core core
  if c.l1.any fun x => x.owner = none && x.line = cell / 128 then s
  else
    let x : L1Line := { owner := none, line := cell / 128, dirty := false,
                        data := s.mem.filter fun e => e.1 / 128 = cell / 128, bad := s.poison.filter fun b => b / 2 = cell / 128 }
    s.placeL1 core c.l1 x

/-- A write that covers a whole 64-byte sector clears its poison (R106). -/
def clearPoison (l : List Nat) (c n : Nat) : List Nat := l.filter fun x => !(c ≤ x * 64 && x * 64 + 64 ≤ c + n)

/-- A committed store updates the line of the writing core if it is present (R93). -/
def State.updateL1 (s : State) (core cell : Nat) (bs : List Byte) : State :=
  let c := s.core core
  s.setCore core { c with l1 := c.l1.map fun x =>
    if x.owner = none && x.line = cell / 128 then
      { x with data := Memory.writeN x.data cell bs, bad := clearPoison x.bad cell bs.length }
    else x }

/-- Core `n` holds a copy of the line of a cell. -/
def State.inL1 (s : State) (core cell : Nat) : Bool := (s.core core).l1.any fun x => x.owner = none && x.line = cell / 128

/-- An access of a private line: it is present afterwards, dirty after a store (R93). -/
def State.touchPrivate (s : State) (core g byte : Nat) (write : Bool) : State :=
  let c := s.core core
  let line := byte / 128
  let dirty := write || (c.l1.any fun x => x.owner = some g && x.line = line && x.dirty)
  s.placeL1 core (c.l1.filter fun x => !(x.owner = some g && x.line = line))
    { owner := some g, line := line, dirty := dirty, data := [], bad := [] }

/-- The byte of lane `l` of word `k` of the private object. (DESIGN CHOICE, log entry 20) -/
def privateByte (w k l : Nat) : Nat := (k * w + l) * 8

/-- A number put in its place in a rising list. -/
def insertNat (x : Nat) : List Nat → List Nat
  | [] => [x]
  | y :: ys => if x < y then x :: y :: ys else if x = y then y :: ys else y :: insertNat x ys

/-- The lines of the private object that the run of one word index meets (R92). -/
def Group.runLines (g : Group) (k : Nat) : List Nat :=
  let a := privateByte g.width k 0
  span (a / 128) ((a + 8 * g.width - 1) / 128 - a / 128 + 1)

/-- The distinct word indices of the private bytes `bs`, ascending. -/
def Group.wordsOf (g : Group) (bs : List Nat) : List Nat := (bs.map fun b => b / (8 * g.width)).foldr insertNat []

/-- The L1 accesses of a slot to private bytes: one for each distinct word index, ascending, over its whole run (R92). -/
def State.touchWords (s : State) (g : Group) (bs : List Nat) (write : Bool) : State :=
  ((g.wordsOf bs).flatMap g.runLines).foldl (fun s l => s.touchPrivate g.core g.uid (128 * l) write) s

/-- An acquire at pair scope or wider invalidates every line of the core that is not private (R94). -/
def State.invalidateL1 (s : State) (core : Nat) : State :=
  let c := s.core core
  s.setCore core { c with l1 := c.l1.filter fun x => x.owner ≠ none }

/-! ## Writes at a home slice (R54, R106, R297) -/

/-- A group becomes ready at the slot where it waits. -/
def State.wake (s : State) (u : Nat) (woken : Bool) : State :=
  match s.group? u with
  | none => s
  | some g =>
      let g := { g with status := .ready, run := g.run.map fun r => { r with woken := r.woken || woken } }
      let s := s.setGroup g
      if g.run.isSome && !s.active.contains u then { s with active := s.active ++ [u] } else s

/-- W COND a at a watch (R297). -/
def watchHolds (m : Tbl Byte) (w : Watch) : Bool :=
  let n := w.ty.width / 8
  elCompare w.ty (FEnv.of 0 0) w.cond (natOfBytes (Memory.readN m w.cell n)) (w.a.toNat % 2 ^ w.ty.width)

/-- A watch on die `n` has fired: its group becomes ready, when it is on another die once the wake has crossed the links in the
control class (R54, R128).  A copy of the word in the group's L1 follows, so that no later read of the group finds an older value
(R401). -/
def State.wakeFrom (s : State) (n : Nat) (w : Watch) : State :=
  match s.group? w.group with
  | none => s
  | some g =>
      let s := s.updateL1 g.core w.cell (Memory.readN s.mem w.cell (w.ty.width / 8))
      if g.core / 48 = n then s.wake w.group true
      else
        let (s, u) := s.fresh
        (s.setGroup { g with status := .waiting (.waking u) }).sendFlit u (inClass clsControl (dieWay n (g.core / 48)))

/-- A write of `n` bytes at a cell wakes the watches of one slice whose comparison now holds (R297, R298). -/
def State.wakeSlice (s : State) (die slice c n : Nat) : State :=
  let d := s.die die
  let x := d.slice slice
  let hit (w : Watch) : Bool := w.cell < c + n && c < w.cell + w.ty.width / 8 && watchHolds s.mem w
  let gone := x.watches.filter hit
  if gone.isEmpty then s
  else gone.foldl (fun s w => s.wakeFrom die w) (s.setDie die (d.setSlice slice { x with watches := x.watches.filter fun w => !hit w }))

/-- A write of `n` bytes at a cell wakes the watches of every slice that is home to some of them (R54). -/
def State.wakeWatches (s : State) (c n : Nat) : State :=
  (blocksOf c n).foldl (fun s b => s.wakeSlice (homeDie b) (homeSlice b) c n) s

/-- Applies a write at the home slices of its bytes. -/
def State.applyWrite (s : State) (c : Nat) (h : BitVec 2) (bs : List Byte) : State :=
  let s := (blocksOf c bs.length).foldl (fun s b => s.touchL2 b h true) s
  let s := { s with mem := Memory.writeN s.mem c bs, poison := clearPoison s.poison c bs.length }
  s.wakeWatches c bs.length

/-! ## Translation (R135 to R141) -/

/-- The kinds of access (R138). -/
inductive Access where
  | read | write | atomic | fetch
  deriving DecidableEq, Repr

def Access.writes : Access → Bool
  | .write | .atomic => true
  | _ => false

/-- What a translation answers. -/
inductive Trans where
  | ok (cell : Nat)
  | absent
  | moving
  | fault (cause level : Nat) (entry : W64)
  deriving DecidableEq, Repr

/-- The bytes of a SIZE code (R136). -/
def pageBytes : Nat → Nat
  | 0 => 2 ^ 12 | 1 => 2 ^ 16 | 2 => 2 ^ 18 | 3 => 2 ^ 21 | 4 => 2 ^ 25 | _ => 2 ^ 30

/-- The entries of a run, 0 where R137 does not permit the size at the level. -/
def runLength (level size : Nat) : Nat :=
  match level, size with
  | 2, 5 => 1 | 1, 3 => 1 | 1, 4 => 16 | 0, 0 => 1 | 0, 1 => 16 | 0, 2 => 64 | _, _ => 0

/-- Where a walk ends: a leaf with its level, the address of its run's first entry and the run's length. -/
inductive Walk where
  | absent
  | bad (level : Nat) (entry : W64)
  | leaf (level first run : Nat) (entry : W64)
  deriving DecidableEq, Repr

def pteState (e : W64) : Nat := (e.extractLsb' 5 2).toNat
def pteSize (e : W64) : Nat := (e.extractLsb' 9 3).toNat
def pteTgt (e : W64) : Nat := (e.extractLsb' 7 2).toNat
def pteBase (e : W64) : Nat := (e.extractLsb' 12 40).toNat * 4096
def pteKey (e : W64) : Nat := (e.extractLsb' 52 12).toNat
def pteLeaf (e : W64) : Bool := e.getLsbD 4
def pteWr (e : W64) : Bool := e.getLsbD 3
def pteEx (e : W64) : Bool := e.getLsbD 2
def pteDirty (e : W64) : Bool := e.getLsbD 1
def pteEnc (e : W64) : Bool := e.getLsbD 0

/-- The format checks of a leaf (R137, R138, R439). -/
def leafOk (s : State) (level first run : Nat) (e : W64) : Bool :=
  run ≠ 0 && (span 0 run).all (fun i => s.read64 (first + 8 * i) = e)
    && pteBase e % pageBytes (pteSize e) = 0 && pteTgt e ≠ 3
    && (pteTgt e ≠ 0 || pteBase e + pageBytes (pteSize e) ≤ Config.memoryBytes)
    && (pteTgt e ≠ 2 || !(e.getLsbD 39)) && level ≤ 2

/-- The walk below level `n`, from the table at `base` (R138).  An entry whose own address lies outside device memory reads as memory
that lists nothing does, so as absent, and in any other state it breaks the format. (DESIGN CHOICE, log entry 75) -/
def walk (s : State) (va : Nat) : Nat → Nat → Walk
  | 0, _ => .absent
  | level + 1, base =>
      let i := field va (12 + 9 * level) 9
      let a := base + 8 * i
      let e := s.read64 a
      if pteState e = 0 then .absent
      else if pteState e = 3 || !cellExists a 8 then .bad level e
      else if pteLeaf e then
        let run := runLength level (pteSize e)
        let first := a - 8 * (i % run)
        if leafOk s level first run e then .leaf level first run e else .bad level e
      else if level = 0 || pteState e ≠ 1 || (e &&& 0xFFF0000000000F9F) ≠ 0 then .bad level e
      else walk s va level (pteBase e)

/-- Sets DIRTY in every entry of a run, by an OR at each entry's home slice (R139). -/
def State.setDirty (s : State) (first : Nat) (e : W64) (n : Nat) : State :=
  (span 0 n).foldl (fun s i => s.applyWrite (first + 8 * i) 0 (bytesOfNat 8 (e ||| 2).toNat)) s

/-- (DESIGN CHOICE, log entry 14) -/
def State.keyLoaded (s : State) (k : Nat) : Bool := (Tbl.get KeySlot.reset s.control.keys k).state = 1

/-! ### Encryption at the channels (R151, R152) -/

/-- The key material of a page with ENC and KEY. -/
def State.sealOf (s : State) (enc : Bool) (key : Nat) : Seal :=
  if enc then let x := Tbl.get KeySlot.reset s.control.keys key; some (x.key1, x.key2) else none

/-- What a channel holds of a unit of plain data, and the plain data of what it holds; the tweak is the physical address >> 6. -/
def sealUnit (k : Seal) (tweak : Nat) (x : BitVec 512) : BitVec 512 :=
  match k with
  | some (a, b) => Config.xtsEncrypt a b tweak x
  | none => x
def openUnit (k : Seal) (tweak : Nat) (x : BitVec 512) : BitVec 512 :=
  match k with
  | some (a, b) => Config.xtsDecrypt a b tweak x
  | none => x

/-- The L2 holds the unit at a cell, so that an access finds plain data whatever its page says of keys (R152). -/
def State.inL2 (s : State) (c : Nat) : Bool := (s.die (homeDie c)).l2.any fun x => x.line = c / 256

/-- The unit at a cell as an access with key material `new` finds it, where the channel holds it under `old`. -/
def State.openAs (s : State) (old new : Seal) (c : Nat) : State :=
  if s.inL2 c then s
  else
    let x := BitVec.ofNat 512 (natOfBytes (Memory.readN s.mem c 64))
    { s with mem := Memory.writeN s.mem c (bytesOfNat 64 (openUnit new (cellPa c / 64) (sealUnit old (cellPa c / 64) x)).toNat) }

/-- An access with key material `k` reaches the frame of a cell: what the channels hold of it is deciphered with that key, and what
is written back goes out under it (R151, R152). (DESIGN CHOICE, log entry 14) -/
def State.rekey (s : State) (c : Nat) (k : Seal) : State :=
  let f := c / 4096
  let old := Tbl.get none s.seals f
  if old = k then s
  else
    let s := (span 0 64).foldl (fun s i => s.openAs old k (f * 4096 + 64 * i)) s
    { s with seals := Tbl.put none s.seals f k }

/-- The permission and key checks of R138 on a present page. (DESIGN CHOICE, log entry 14) -/
def permission (s : State) (vf : Nat) (k : Access) (wr ex enc : Bool) (key level : Nat) (e : W64) : Option Trans :=
  let kr := (s.vf vf).krange
  let kbase := (kr.extractLsb' 0 12).toNat
  let kcount := (kr.extractLsb' 16 13).toNat
  if (k.writes && !wr) || (k = .fetch && !ex) then some (.fault 3 level e)
  else if enc && (key < kbase || kbase + kcount ≤ key) then some (.fault 4 level e)
  else if enc && !s.keyLoaded key then some (.fault 5 level e)
  else none

def TlbEntry.hits (t : TlbEntry) (vf va : Nat) (k : Access) : Bool :=
  t.vf = vf && va / t.size = t.va / t.size && (t.dirty || !k.writes)

/-- The entry that a core finds in its TLB, its pair's or its die's (R141). -/
def State.tlbFind (s : State) (core vf va : Nat) (k : Access) : Option TlbEntry :=
  match (s.core core).tlb.find? fun t => t.hits vf va k with
  | some t => some t
  | none =>
      match (Tbl.get [] s.pairTlbs (core / 2)).find? fun t => t.hits vf va k with
      | some t => some t
      | none => (s.die (core / 48)).tlb.find? fun t => t.hits vf va k

/-- A filled entry enters all three levels, which hold 64, 2,048 and 48 × 1,024 entries.
(DESIGN CHOICE, log entry 19) -/
def State.tlbFill (s : State) (core : Nat) (t : TlbEntry) : State :=
  let c := s.core core
  let s := s.setCore core { c with tlb := (t :: c.tlb).take 64 }
  let s := { s with pairTlbs := Tbl.put [] s.pairTlbs (core / 2) ((t :: Tbl.get [] s.pairTlbs (core / 2)).take 2048) }
  let d := s.die (core / 48)
  s.setDie (core / 48) { d with tlb := (t :: d.tlb).take 49152 }

/-- The entry of a TLB for a leaf that has been walked to. -/
def tlbEntryOf (vf va : Nat) (e : W64) (sets : Bool) : TlbEntry :=
  let size := pageBytes (pteSize e)
  { vf := vf, va := va - va % size, size := size, pa := pteBase e, tgt := e.extractLsb' 7 2, wr := pteWr e, ex := pteEx e,
    dirty := pteDirty e || sets, enc := pteEnc e, key := pteKey e }

/-- The walk of one address, whose present page enters the TLBs of a core (R138, R139). -/
def State.walkFor (s : State) (core : Option Nat) (vf va : Nat) (k : Access) : State × Trans :=
  match walk s va 4 (((s.vf vf).xroot.extractLsb' 12 40).toNat * 4096) with
  | .absent => (s, .absent)
  | .bad level e => (s, .fault 2 level e)
  | .leaf level first run e =>
      if pteState e = 2 then (s, .moving)
      else match permission s vf k (pteWr e) (pteEx e) (pteEnc e) (pteKey e) level e with
        | some r => (s, r)
        | none =>
            let sets := k.writes && !pteDirty e
            let s := if sets then s.setDirty first e run else s
            let s := match core with
              | some c => s.tlbFill c (tlbEntryOf vf va e sets)
              | none => s
            let c := s.cellFor (pteTgt e) (pteBase e + va % pageBytes (pteSize e))
            (s.rekey c (s.sealOf (pteEnc e) (pteKey e)), .ok c)

/-- Translates one address for virtual function `vf` (R138, R139).  A core's access uses its TLBs; an entry that does not permit the
access, and an access without a core, walk afresh, so that which TLB holds an entry shows nowhere (R141). -/
def State.translate (s : State) (core : Option Nat) (vf va : Nat) (k : Access) : State × Trans :=
  if !(s.vf vf).xroot.getLsbD 0 then (s, .fault 1 0 0)
  else
    match core.bind fun c => s.tlbFind c vf va k with
    | some t =>
        if (permission s vf k t.wr t.ex t.enc t.key 0 0).isNone then
          let c := s.cellFor t.tgt.toNat (t.pa + va % t.size)
          (s.rekey c (s.sealOf t.enc t.key), .ok c)
        else s.walkFor core vf va k
    | none => s.walkFor core vf va k

/-! ## Capabilities (R63, R64, R134) -/

/-- The rights of R63 as bits of the byte RIGHTS. -/
def rRead : Nat := 1
def rWrite : Nat := 2
def rAtomic : Nat := 4
def rExecute : Nat := 8
def rDerive : Nat := 16
def rPrivate : Nat := 32
def rTraverse : Nat := 64
def rEngine : Nat := 128

def Cap.obj (c : Cap) : Nat := (c.bits.extractLsb' 104 24).toNat
def Cap.offset (c : Cap) : Nat := (c.bits.extractLsb' 56 48).toNat
def Cap.lower (c : Cap) : Nat := (c.bits.extractLsb' 36 20).toNat
def Cap.upper (c : Cap) : Nat := (c.bits.extractLsb' 16 20).toNat
def Cap.rights (c : Cap) : Nat := (c.bits.extractLsb' 8 8).toNat
def Cap.sealedBit (c : Cap) : Bool := c.bits.getLsbD 7
/-- B of R64. -/
def Cap.page (c : Cap) : Nat := c.offset / 4096

/-- Every right of `need` is in `have'`. -/
def hasRights (have' need : Nat) : Bool := (have' &&& need) = need

/-- The window of a capability holds [a, a + n) (R64). -/
def Cap.holds (c : Cap) (a n : Nat) : Bool :=
  (c.page - c.lower) * 4096 ≤ a && a + n ≤ (c.page + c.upper + 1) * 4096

/-- A capability of a group's private object (R63, R90). -/
def Cap.isPrivate (c : Cap) : Bool := hasRights c.rights rPrivate

/-- A capability of its fields. -/
def Cap.make (obj offset lower upper rights : Nat) (isSealed : Bool) : Cap :=
  { bits := BitVec.ofNat 128 (obj % 2 ^ 24 * 2 ^ 104 + offset % 2 ^ 48 * 2 ^ 56 + lower % 2 ^ 20 * 2 ^ 36
      + upper % 2 ^ 20 * 2 ^ 16 + rights % 256 * 256 + (if isSealed then 128 else 0)), tag := true }

/-- The fields of an object-table entry (R133). -/
def objBase (e : W128) : Nat := (e.extractLsb' 80 48).toNat
def objPages (e : W128) : Nat := (e.extractLsb' 44 36).toNat
def objRights (e : W128) : Nat := (e.extractLsb' 36 8).toNat
def objLive (e : W128) : Bool := e.getLsbD 0

def otCount (d : W128) : Nat := (d.extractLsb' 64 24).toNat
def otBase (d : W128) : Nat := (d.extractLsb' 12 40).toNat * 4096

/-- An object-table entry as memory holds it. -/
def State.objectInMemory (s : State) (vf obj : Nat) : W128 :=
  BitVec.ofNat 128 (natOfBytes (Memory.readN s.mem (otBase (s.vf vf).otdesc + 16 * obj) 16))

/-- An object-table entry: a core uses its cache and fills it (R134).  None when OBJ is not below COUNT.
(DESIGN CHOICE, log entry 19) -/
def State.object (s : State) (core : Option Nat) (vf obj : Nat) : State × Option W128 :=
  if otCount (s.vf vf).otdesc ≤ obj then (s, none)
  else
    match core with
    | none => (s, some (s.objectInMemory vf obj))
    | some n =>
        let c := s.core n
        match c.objects.find? fun o => o.vf = vf && o.obj = obj with
        | some o => (s, some o.bits)
        | none =>
            let e := s.objectInMemory vf obj
            (s.setCore n { c with objects := ({ vf := vf, obj := obj, bits := e } :: c.objects).take Config.objectCache }, some e)

/-- The object checks of R134 on [a, a + n) with the rights `need`. -/
def objectHolds (e : W128) (need a n : Nat) : Bool :=
  objLive e && objBase e % 4096 = 0 && objBase e + objPages e * 4096 ≤ 2 ^ 48 && a + n ≤ objPages e * 4096
    && hasRights (objRights e) need

/-- The capability checks of one access in the order of R64: the cause, or the virtual address.  A private object is in no
object table, so only the loads and stores of R281 to R284 reach it (DESIGN CHOICE, log entry 21) -/
def State.capCheck (s : State) (core : Option Nat) (vf : Nat) (c : Cap) (need a n align : Nat) : State × Except Nat Nat :=
  if !c.tag then (s, .error 4)
  else if c.sealedBit then (s, .error 3)
  else if !hasRights c.rights need then (s, .error 2)
  else if !c.holds a n then (s, .error 1)
  else if c.isPrivate then (s, .error 5)
  else
    match s.object core vf c.obj with
    | (s, none) => (s, .error 5)
    | (s, some e) =>
        if !objectHolds e need a n then (s, .error 5)
        else if a % align ≠ 0 then (s, .error 6)
        else (s, .ok (objBase e + a))

end Sys2Proof.Machine
end

