-- ==== Sys2Proof/Machine/Datum.lean ====
section
/-!
DEFINITION. The field book, the snapshot registers of every block and the datum trigger (R81 to R83, R450 to R453), and
what debug permits (R449, R451).
-/
namespace Sys2Proof.Machine
open Sys2Proof

/-- Writes one field-book record; the oldest of 4,096 makes room (R453). (DESIGN CHOICE, log entry 38) -/
def State.book (s : State) (kind : BitVec 8) (die : BitVec 8) (block : BitVec 16) (data : W128) : State :=
  let r : FieldRec := { time := s.time, seq := s.control.fieldSeq, kind := kind, die := die, block := block, data := data }
  let l := s.control.fieldBook ++ [r]
  { s with control := { s.control with fieldBook := l.drop (l.length - 4096), fieldSeq := s.control.fieldSeq + 1 } }

/-- The number of a die in a field-book record and a snapshot address; the control die is 255. -/
def controlDie : Nat := 255

/-- The island of a block (R8, R455): 30 of each compute die (pairs, L2 SRAM, slice logic, two HBM PHYs, links, ray and
reservoir engines), then eight of the control die.  The numbers are the model's; the blocks of the control die stand in its first
island, and the copy, collective, resurvey and geometry blocks and the traverse sequencer of a compute die in its slice logic, the
light-tree walkers with the ray engines. (DESIGN CHOICE, log entry 9) -/
def islandOf (die block : Nat) : Nat :=
  if die = controlDie then 120
  else
    let b := 30 * die
    if block < 0x30 then b + block / 2
    else if block < 0x70 then b + 29
    else if 0x80 ≤ block && block < 0x98 then b + (block - 0x80)
    else if 0xA0 ≤ block && block < 0xB8 then b + 29
    else if 0xC0 ≤ block && block < 0xD8 then b + 29
    else if block = 0x160 then b + 28
    else if block = 0x170 then b + 26
    else if block = 0x171 then b + 27
    else b + 25

def State.island (s : State) (n : Nat) : IslandState := Tbl.get .active s.control.islands n

/-- The island of a core is Active (R450). -/
def State.coreOn (s : State) (core : Nat) : Bool := s.island (islandOf (core / 48) (core % 48)) = .active

/-- The block of an engine in its die (R83). -/
def engineBlock (e : EngineRef) : Nat :=
  match e.kind with
  | .matrix => 0x80 + e.unit % 24 | .copy => 0x140 + e.unit % 4 | .ray => 0x40 + e.unit % 48 | .reuse => 0xA0 + e.unit % 24
  | .light => 0xC0 + e.unit % 24 | .resurvey => 0x149 | .collective => 0x148 | .geometry => 0x14A

/-- The island of an engine of a die is Active. -/
def State.engineOn (s : State) (die : Nat) (e : EngineRef) : Bool := s.island (islandOf die (engineBlock e)) = .active

/-- Whether a group holds a resident-group place. -/
def Group.resident (g : Group) : Bool := g.place < 32 && g.status ≠ .ended

/-- A group between clauses whose paths all wait at their headers: the STATE of the first. -/
def Group.headerBits (g : Group) : Nat :=
  let ps := g.p0.toList ++ g.p1.toList
  if g.run.isSome || ps.any fun p => p.waits = 0 then 0 else (ps.head?.map fun p => p.waits).getD 0

/-- The STATE field of GSTAT.  Waits that R83 does not name count as blocked: for acknowledgements, links, an array, operations, a
moving page, tiles, a ring or the scheduler; a wake on its way finds the group asleep, as a header wait for a semaphore does.
(DESIGN CHOICE, log entry 9) -/
def Group.statBits (g : Group) : Nat :=
  match g.status with
  | .ready | .ended => if g.claim.isSome then 1 else g.headerBits
  | .waiting w =>
      (match w with
        | .watch | .watchTable .. | .waking _ | .phaser .. | .semaphore _ | .grants | .time _ => 2
        | _ => 1)
  | .parked _ => 2
  | .stopping .. | .stopped _ => 3

/-- GSTATs of resident-group place `k` of a core. -/
def State.gstat (s : State) (core k : Nat) : W64 :=
  match s.groups.find? fun g => g.resident && g.core = core && g.place = k with
  | none => 0
  | some g =>
      BitVec.ofNat 64 (g.acks % 4096 * 2 ^ 52 + g.index * 2 ^ 48 + g.statBits * 2 ^ 46
        + (if g.p1.isSome then 2 ^ 45 else 0) + (if g.p0.isSome then 2 ^ 44 else 0)
        + (s.launchOf g).vf * 2 ^ 38 + 2 ^ 37 + ((g.p0.map fun p => p.pc.toNat).getD 0))

/-- The clauses that the loop buffer of a core holds: LBUF. -/
def loopReg (l : Option LoopBuffer) : W64 :=
  match l with
  | none => 0
  | some b => BitVec.ofNat 64 (b.first.toNat + b.count * 2 ^ 32)

/-- A number cut to `n` bits by saturation. -/
def satBits (n x : Nat) : Nat := min x (2 ^ n - 1)

/-- The declarations in the open batch of a die: at most 256 (R122). -/
def State.openBatch (s : State) (die : Nat) : List Nat :=
  ((s.die die).batch.take 256).filter fun u => s.decls.any fun d => d.uid = u && !d.gone

/-- The registers of a block after SNAPSTAT (R83). (DESIGN CHOICE, log entry 9) -/
def State.blockRegs (s : State) (die block : Nat) : List W64 :=
  if die = controlDie then
    if block = 0 then [BitVec.ofNat 64 s.control.dispatched, BitVec.ofNat 64 s.control.refusedStakes]
    else if block = 1 then
      let l := match s.control.lifecycle with | .blank => 0 | .provisioned => 1 | .production => 2 | .returnAnalysis => 3
      let d := match s.control.debug with | .off => 0 | .selfHosted => 1 | .invasive => 2
      [BitVec.ofNat 64 (l + 4 * d)]
    else [Config.managementPc (block - 2) s.tick]
  else if block < 0x30 then
    let n := 48 * die + block
    let c := s.core n
    let gres := (span 0 32).foldl (fun a k => if s.gstat n k = 0 then a else a + 2 ^ k) 0
    BitVec.ofNat 64 gres :: (span 0 32).map (s.gstat n) ++
      [BitVec.ofNat 64 (c.freePool + c.freePlaces * 2 ^ 16 + c.freeSems * 2 ^ 24 + c.freePhasers * 2 ^ 32
        + c.freeUnits * 2 ^ 39), loopReg c.loop]
  else if 0x40 ≤ block && block < 0x70 then
    let e := s.engine { kind := .ray, unit := 48 * die + (block - 0x40) }
    [e.count0, e.count1, e.count2]
  else if 0x80 ≤ block && block < 0x98 then
    let p := s.pair (24 * die + (block - 0x80))
    let lead := (p.ops.filter fun o => o.core % 2 = 0).length
    let follow := (p.ops.filter fun o => o.core % 2 = 1).length
    let since := match (p.ops.filterMap fun o => o.started).head? with
      | some t => satBits 32 (s.cycles - t)
      | none => 0
    let own := match p.owner.bind s.parcel? with
      | some q => let l := s.launchFor q; l.num.toNat + l.vf * 2 ^ 32 + 2 ^ 63
      | none => 0
    [BitVec.ofNat 64 (satBits 4 lead + satBits 4 follow * 16 + (if p.owner.isSome then 256 else 0) + since * 2 ^ 32),
      BitVec.ofNat 64 own]
  else if 0xA0 ≤ block && block < 0xB8 then
    let e := s.engine { kind := .reuse, unit := 24 * die + (block - 0xA0) }
    [e.count0, e.count1]
  else if 0xC0 ≤ block && block < 0xD8 then [(s.engine { kind := .light, unit := 24 * die + (block - 0xC0) }).count0]
  else if 0x100 ≤ block && block < 0x130 then
    let x := (s.die die).slice (block - 0x100)
    [BitVec.ofNat 64 (x.watches.length + x.counts.length * 2 ^ 16 + satBits 13 x.grants.length * 2 ^ 24), x.lcorr, x.lpois]
  else if 0x140 ≤ block && block < 0x144 then [(s.engine { kind := .copy, unit := 4 * die + (block - 0x140) }).count0]
  else if block = 0x148 then [(s.engine { kind := .collective, unit := die }).count0]
  else if block = 0x149 then [(s.engine { kind := .resurvey, unit := die }).count0]
  else if block = 0x14A then [(s.engine { kind := .geometry, unit := die }).count0]
  else if block = 0x150 then [BitVec.ofNat 64 (s.die die).beat, BitVec.ofNat 64 (s.openBatch die).length]
  else if block = 0x160 then
    let l := s.link die
    [BitVec.ofNat 64 (l.rate.toNat + l.windows * 2 ^ 32)]
  else if block = 0x170 || block = 0x171 then [Tbl.get 0 (s.die die).hcorr (block - 0x170)]
  else []

/-- The block numbers of a compute die and of the control die (R83). -/
def computeBlocks : List Nat :=
  span 0 0x30 ++ span 0x40 0x30 ++ span 0x80 0x18 ++ span 0xA0 0x18 ++ span 0xC0 0x18 ++ span 0x100 0x30 ++ span 0x140 4
    ++ [0x148, 0x149, 0x14A, 0x150, 0x160, 0x170, 0x171]
def controlBlocks : List Nat := span 0 10

/-- Every block: die and block number. -/
def allBlocks : List (Nat × Nat) :=
  ((span 0 Config.dies).map fun d => computeBlocks.map fun b => (d, b)).flatten ++ controlBlocks.map fun b => (controlDie, b)

def Snapshot.clear : Snapshot := { stat := 0, regs := [] }
def snapKey (die block : Nat) : Nat := 4096 * die + block

/-- SNAPSTAT of a trigger (R81). -/
def snapStat (seq : W32) (src fclass : Nat) : W64 := BitVec.ofNat 64 (seq.toNat * 2 ^ 32 + src * 2 ^ 28 + fclass % 256 * 2 ^ 20 + 1)

/-- A block latches unless its VALID is set or its island is not Active (R82, R452). -/
def latchBlock (s0 : State) (stat : W64) (t : Tbl Snapshot) (b : Nat × Nat) : Tbl Snapshot :=
  let k := snapKey b.1 b.2
  if (Tbl.get Snapshot.clear t k).stat.getLsbD 0 || s0.island (islandOf b.1 b.2) ≠ .active then t
  else Tbl.put Snapshot.clear t k { stat := stat, regs := s0.blockRegs b.1 b.2 }

/-- Fires the datum trigger: every block latches in the same cycle, the output pin pulses and the field book gets a
record.  Answers the trigger's number; the first is 1. -/
def State.fireDatum (s : State) (src fclass : Nat) : State × W32 :=
  let seq := s.control.datumSeq + 1
  let snaps := allBlocks.foldl (latchBlock s (snapStat seq src fclass)) s.control.snaps
  let s := { s with control := { s.control with datumSeq := seq, datumOut := s.control.datumOut + 1, snaps := snaps } }
  (s.book 0x03 255 0 (BitVec.ofNat 128 seq.toNat), seq)

/-! ## What debug permits -/

/-- DBGEN of SIGPOL (R436). -/
def State.dbgen (s : State) (vf : Nat) : Bool := (s.vf vf).sigpol.getLsbD 1

/-- The facilities of R449 for a function: the codes S, P and T of R451, with DBGEN set.
(DESIGN CHOICE, log entry 37) -/
def State.debugOn (s : State) (vf : Nat) : Bool :=
  (match s.control.debug with
    | .off => false
    | .selfHosted => s.control.lifecycle ≠ .blank
    | .invasive => true) && s.dbgen vf

/-- The debug port is open: the codes P and T of R451. (DESIGN CHOICE, log entry 37) -/
def State.debugPort (s : State) : Bool := s.control.debug = .invasive

end Sys2Proof.Machine
end

