-- ==== Sys2Proof/Machine/Faults.lean ====
section
/-!
DEFINITION. Fault descriptions and fault records: their layout, their delivery to a function's ring, and the rewriting of
STATE (R125, R126, R424, R425).
-/
namespace Sys2Proof.Machine
open Sys2Proof

/-- DETAIL in the common layout (R424). -/
def detailOf (cause arg0 arg1 arg2 : Nat) : BitVec 192 :=
  BitVec.ofNat 192 (cause % 256 * 2 ^ 184 + arg0 % 2 ^ 56 * 2 ^ 128 + arg1 % 2 ^ 64 * 2 ^ 64 + arg2 % 2 ^ 64)

def FaultInfo.mk' (code cause : Nat) (arg0 arg1 arg2 : Nat := 0) (lane : Nat := 0) (addr : Nat := 0) : FaultInfo :=
  { code := code, lane := lane, addr := BitVec.ofNat 64 addr, detail := detailOf cause arg0 arg1 arg2 }

/-- illegal-operand: the cause, the lowest bit of the slot's field, the value. -/
def illegalOperand (cause pos value : Nat) : FaultInfo := .mk' 0x0002 cause pos value
def latchEmpty (n : Nat) : FaultInfo := .mk' 0x0003 0 n
def capabilityFault (cause reg a lane : Nat) : FaultInfo := .mk' 0x0004 cause reg a 0 lane
def translationFault (cause level : Nat) (e : W64) (lane va : Nat) : FaultInfo := .mk' 0x0005 cause level e.toNat 0 lane va
def stackLimit (k w lane va : Nat) : FaultInfo := .mk' 0x0006 0 0 k w lane va
def queueBinding (q : Nat) (b : BitVec 16) : FaultInfo := .mk' 0x0008 0 q b.toNat
def allotmentFault (cause request allot : Nat) : FaultInfo := .mk' 0x0009 cause 0 request allot
def pageAbsent (leased : Bool) (lane va : Nat) : FaultInfo := .mk' 0x0020 (if leased then 2 else 1) 0 0 0 lane va
def leaseFault (lane va : Nat) : FaultInfo := .mk' 0x0021 0 0 0 0 lane va
def poisonFault (cause lane addr : Nat) : FaultInfo := .mk' 0x000A cause 0 0 0 lane addr

/-- The die-error of the die of rank `rank` (R425): 1 a load, 2 a write, 3 a watch, 4 a parcel on the reset die. -/
def dieError (rank what : Nat) (lane va : Nat := 0) : FaultInfo := .mk' 0x0014 0 rank what 0 lane va

/-- What is wrong with the data of an access of `n` bytes: an error completion (R432), or poison (R106). -/
def State.badData (s : State) (c n lane va : Nat) : Option FaultInfo :=
  if s.deadHome c then some (dieError (homeDie c) 1 lane va)
  else if s.poisoned c n then some (poisonFault 1 lane va) else none

/-- The first fault of a list of checks. -/
def firstFault (l : List (Option FaultInfo)) : Option FaultInfo := l.findSome? id

/-- A fault when a condition holds. -/
def faultIf (b : Bool) (f : FaultInfo) : Option FaultInfo := if b then some f else none

/-- CAUSE of a description in the common layout. -/
def FaultInfo.cause (f : FaultInfo) : Nat := (f.detail.extractLsb' 184 8).toNat

/-- The dispositions of R421. -/
inductive Disposition where
  | stop | resumable | park | ends | information
  deriving DecidableEq, Repr

/-- The disposition of a fault that a group takes (R425); die-error stops a group. -/
def FaultInfo.disposition (f : FaultInfo) : Disposition :=
  if f.code = 0x000E then .resumable
  else if f.code = 0x000F then (if f.cause = 0 then .resumable else .stop)
  else if f.code = 0x0020 then .park
  else if f.code = 0x0021 || f.code = 0x0022 || f.code = 0x0023 || f.code = 0x0024 then .ends
  else if f.code = 0x0025 || f.code = 0x0030 || f.code = 0x0031 then .information
  else .stop

/-- The 512 bits of a record (R125). -/
def FaultRecord.word (r : FaultRecord) : Nat :=
  r.info.detail.toNat * 2 ^ 320 + r.info.addr.toNat * 2 ^ 256 + r.time.toNat * 2 ^ 192 + r.clause.toNat * 2 ^ 160
    + r.slot % 16 * 2 ^ 156 + r.info.lane % 64 * 2 ^ 150 + r.group % 16 * 2 ^ 146 + r.core % 64 * 2 ^ 140 + r.die % 4 * 2 ^ 138
    + r.seq % 2 ^ 32 * 2 ^ 96 + r.launch.toNat * 2 ^ 64 + r.info.code % 2 ^ 16 * 2 ^ 48 + r.state.toNat * 2 ^ 46
    + r.vf % 64 * 2 ^ 40 + r.queue % 8 * 2 ^ 37

/-- The fields of a ring's configuration (R436). -/
def ringOn (cfg : W64) : Bool := cfg.getLsbD 63
def ringTgt (cfg : W64) : Nat := (cfg.extractLsb' 61 2).toNat
def ringBase (cfg : W64) : Nat := (cfg.extractLsb' 12 40).toNat * 4096
def ringSize (cfg : W64) : Nat := 2 ^ (cfg.extractLsb' 0 5).toNat
/-- The cell of entry `i` of a ring whose entries have `n` bytes. -/
def ringCell (cfg : W64) (i n : Nat) : Nat := cellOf (ringTgt cfg) (ringBase cfg + i % ringSize cfg * n)

/-- Whether a function's fault ring takes one more record; a ring outside device memory takes none. -/
def Vf.ringReady (v : Vf) : Bool :=
  ringOn v.fqcfg && (v.fqprod - v.fqcons).toNat < ringSize v.fqcfg && cellExists (ringCell v.fqcfg v.fqprod.toNat 64) 64

/-- The way of a record from the control die to the home of the next entry of its function's ring. -/
def State.ringWay (s : State) (vf : Nat) : List Nat := fromControl (homeDie (ringCell (s.vf vf).fqcfg (s.vf vf).fqprod.toNat 64))

/-- A function's fault ring takes one more record now: it has room, and the link to the entry's home carries flits. -/
def State.ringReady (s : State) (vf : Nat) : Bool := (s.vf vf).ringReady && (s.crossNow clsRequest (s.ringWay vf)).isSome

/-- A record travels from its die to the control die, as request traffic (R128); the control die itself raises those of launches and
those about a die that is held in reset. -/
def State.recordCrosses (s : State) (r : FaultRecord) : Option State :=
  match r.owner with
  | .launch _ => some s
  | _ => if (s.die r.die).held then some s else s.crossNow clsRequest (toControl r.die)

/-- Writes a record at the producer index of its function's ring. -/
def State.toRing (s : State) (vf : Nat) (r : FaultRecord) : State :=
  let s := (s.crossNow clsRequest (s.ringWay vf)).getD s
  let v := s.vf vf
  let c := ringCell v.fqcfg v.fqprod.toNat 64
  let s := s.setVf vf { v with fqprod := v.fqprod + 1, ring := (v.ring ++ [(r.seq, v.fqprod.toNat)]) }
  s.applyWrite c 0 (bytesOfNat 64 r.word)

/-- A fault that is found now, whose record is posted later, keeps the time of the fault (R125). -/
def FaultInfo.at (f : FaultInfo) (t : W64) : FaultInfo := { f with time := some (f.time.getD t) }

/-- Posts a record: it takes the function's next SEQ; it goes to the ring, or is held on the control die (64 at most), or
its agent stalls with it (R126), also while the link of its die holds its traffic.  A record writes the field book and may fire the
datum trigger (R452, R453). -/
def State.post (s : State) (r : FaultRecord) : State × Nat :=
  let sent := if (s.vf r.vf).stalled.isEmpty && (s.vf r.vf).heldRec.length < 64 then s.recordCrosses r else none
  let s := sent.getD s
  let v := s.vf r.vf
  let r := { r with seq := v.fqseq, time := r.info.time.getD s.time }
  let s := s.setVf r.vf { v with fqseq := v.fqseq + 1 }
  let s := s.book 0x02 (BitVec.ofNat 8 r.die) (BitVec.ofNat 16 r.core) (BitVec.ofNat 128 (r.info.code + r.vf * 2 ^ 16))
  let d := s.control.datsel
  let fires := d.getLsbD 16 && (d.extractLsb' 0 16).toNat = r.info.code
    && (!d.getLsbD 23 || (d.extractLsb' 17 6).toNat = r.vf)
  let s := if fires then (s.fireDatum 1 r.info.code).1 else s
  let v := s.vf r.vf
  if sent.isSome && v.heldRec.isEmpty && s.ringReady r.vf then
    let s := s.setVf r.vf { v with records := v.records ++ [r] }
    (s.toRing r.vf r, r.seq)
  else if sent.isSome then
    (s.setVf r.vf { v with records := v.records ++ [r], heldRec := v.heldRec ++ [r.seq] }, r.seq)
  else (s.setVf r.vf { v with stalled := v.stalled ++ [r] }, r.seq)

/-- Rewrites STATE of a record, in place where it stands in the ring (R126). -/
def State.setRecord (s : State) (vf seq : Nat) (st : BitVec 2) : State :=
  let v := s.vf vf
  let upd (r : FaultRecord) : FaultRecord := if r.seq = seq then { r with state := st } else r
  let v' := { v with records := v.records.map upd, stalled := v.stalled.map upd }
  let s := s.setVf vf v'
  match (v'.records ++ v'.stalled).find? fun r => r.seq = seq, v'.ring.find? fun e => e.1 = seq with
  | some r, some (_, i) =>
      if (v'.fqprod - BitVec.ofNat 32 i).toNat ≤ ringSize v'.fqcfg then
        s.applyWrite (ringCell v'.fqcfg i 64) 0 (bytesOfNat 64 r.word)
      else s
  | _, _ => s

def State.record? (s : State) (vf seq : Nat) : Option FaultRecord := (s.vf vf).records.find? fun r => r.seq = seq

/-- Every pending record that `p` selects becomes superseded or resolved. -/
def State.closeRecords (s : State) (vf : Nat) (p : FaultRecord → Bool) (st : BitVec 2) : State :=
  (((s.vf vf).records ++ (s.vf vf).stalled).filter fun r => r.state = 0 && p r).foldl (fun s r => s.setRecord vf r.seq st) s

/-- A record of a group (R125): its place, its launch and its queue. -/
def State.groupRecord (s : State) (g : Group) (f : FaultInfo) (clause : W32) (slot : Nat) (st : BitVec 2) (owner : Owner) :
    FaultRecord :=
  let l := s.launchOf g
  { info := f, time := s.time, clause := clause, slot := slot, group := g.index, core := f.core.getD g.core % 48, die := g.core / 48,
    seq := 0, launch := l.num, state := st, vf := l.vf, queue := l.queue, owner := owner }

/-- A record of a parcel: it names the core of group 0. -/
def State.parcelRecord (s : State) (p : Parcel) (f : FaultInfo) (st : BitVec 2) : FaultRecord :=
  let l := s.launchFor p
  { info := f, time := s.time, clause := 0, slot := 0, group := 0, core := p.core % 48, die := p.core / 48, seq := 0,
    launch := l.num, state := st, vf := l.vf, queue := l.queue, owner := .parcel p.uid }

/-- A record of a launch that the distributor posts. -/
def State.launchRecord (s : State) (l : Launch) (f : FaultInfo) (st : BitVec 2) : FaultRecord :=
  { info := f, time := s.time, clause := 0, slot := 0, group := 0, core := 0, die := 0, seq := 0, launch := l.num,
    state := st, vf := l.vf, queue := l.queue, owner := .launch l.uid }

end Sys2Proof.Machine
end

