-- ==== Sys2Proof/Machine/Paths.lean ====
section
/-!
DEFINITION. The two paths of a group and its reconvergence stack (R37 to R42), and the iteration count (R271).
-/
namespace Sys2Proof.Machine
open Sys2Proof

/-! ## The stack in the private object (R42) -/

/-- An entry of the reconvergence stack: its fields in the order of R42. -/
structure StackEntry where
  mask    : W64
  arrived : W64
  addr1   : W32
  addr2   : W32
  kind    : BitVec 2
  qcnt    : Nat
  fmt     : W32
  deriving DecidableEq, Repr

/-- No address (R42). -/
def noAddr : W32 := 0xFFFFFFFF
def joinOf (a : W32) : Option W32 := if a = noAddr then none else some a
def joinWord (j : Option W32) : W32 := j.getD noAddr

def StackEntry.word (e : StackEntry) : Nat :=
  e.mask.toNat * 2 ^ 192 + e.arrived.toNat * 2 ^ 128 + e.addr1.toNat * 2 ^ 96 + e.addr2.toNat * 2 ^ 64
    + e.kind.toNat * 2 ^ 62 + e.qcnt % 256 * 2 ^ 32 + e.fmt.toNat

def StackEntry.ofWord (x : Nat) : StackEntry :=
  { mask := BitVec.ofNat 64 (x >>> 192), arrived := BitVec.ofNat 64 (x >>> 128), addr1 := BitVec.ofNat 32 (x >>> 96),
    addr2 := BitVec.ofNat 32 (x >>> 64), kind := BitVec.ofNat 2 (x >>> 62), qcnt := field x 32 8, fmt := BitVec.ofNat 32 x }

/-- The byte of the private object where stack entry `i` stands, for `w` declared private words per lane (R42). -/
def stackByte (g : Group) (w i : Nat) : Nat := w * g.width * 8 + 32 * i

def Group.push (g : Group) (w : Nat) (e : StackEntry) : Group :=
  { g with own := Memory.writeN g.own (stackByte g w g.stack) (bytesOfNat 32 e.word), stack := g.stack + 1 }

/-- The top entry. -/
def Group.top (g : Group) (w : Nat) : Option StackEntry :=
  if g.stack = 0 then none else some (.ofWord (natOfBytes (Memory.readN g.own (stackByte g w (g.stack - 1)) 32)))

def Group.pop (g : Group) : Group := { g with stack := g.stack - 1 }

/-- Replaces the top entry. -/
def Group.setTop (g : Group) (w : Nat) (e : StackEntry) : Group := g.pop.push w e

/-- A spilled path (R38). -/
def spilled (p : Path) : StackEntry :=
  { mask := p.mask, arrived := 0, addr1 := p.pc, addr2 := joinWord p.join, kind := 1, qcnt := p.qcnt, fmt := p.fmt }

/-- The divergence-stack fault (R425): cause 1 overflow, 2 corrupt. -/
def stackFault (cause used : Nat) : FaultInfo := .mk' 0x0007 cause 0 used

/-! ## Divergence (R38) -/

/-- The entries that a divergence of the path in slot `k` pushes. -/
def Group.diverges (g : Group) (k : PathSlot) : Nat := if (g.path? (otherSlot k)).isSome then 2 else 1

/-- Diverges the path of slot `k` with mask `m`: the lanes of `t` go to `target`, the others to `next`, and both meet at
`jb`.  Both sides keep the count of clauses and of iterations (R51, R271). -/
def Group.diverge (g : Group) (w : Nat) (k : PathSlot) (p : Path) (t : W64) (target next jb : W32) : Group :=
  let g := match g.path? (otherSlot k) with
    | some q => (g.push w (spilled q)).setPath (otherSlot k) none
    | none => g
  let g := g.push w { mask := p.mask, arrived := 0, addr1 := jb, addr2 := joinWord p.join, kind := 2, qcnt := 0, fmt := p.fmt }
  let side (pc : W32) (m : W64) : Path := { p with pc := pc, mask := m, join := some jb, ready := none, aged := false, waits := 0 }
  (g.setPath k (some (side target t))).setPath (otherSlot k) (some (side next (p.mask &&& ~~~t)))

/-! ## Arrival (R39) -/

/-- The lowest free path slot. -/
def Group.freeSlot (g : Group) : Option PathSlot :=
  if g.p0.isNone then some .s0 else if g.p1.isNone then some .s1 else none

/-- A spilled path at the top of the stack moves into a free slot; an entry of another kind is corrupt. -/
def Group.refill (g : Group) (w : Nat) : Except FaultInfo Group :=
  match g.freeSlot, g.top w with
  | some k, some e =>
      if e.kind = 1 then
        .ok (g.pop.setPath k (some { Path.at e.addr1 e.mask (joinOf e.addr2) e.fmt with qcnt := e.qcnt }))
      else if e.kind = 2 then .ok g
      else .error (stackFault 2 g.stack)
  | _, _ => .ok g

/-- Whether a path has arrived: its next clause is its join, or its mask is empty; a path without a join never does. -/
def Path.arrives (p : Path) : Bool :=
  match p.join with
  | some j => p.pc = j || p.mask = 0
  | none => false

/-- A group after some arrivals, with the masks of the paths that arms have joined into. -/
abbrev Joined := Group × List W64

/-- A group in which no arms have joined. -/
def unjoined (r : Except FaultInfo Group) : Except FaultInfo Joined := r.map fun g => (g, [])

/-- The arrival of the path in slot `k`, and of the paths that it forms, at most `fuel` of them. -/
def Group.arrive (w : Nat) : Nat → Group → PathSlot → Except FaultInfo Joined
  | 0, g, _ => .ok (g, [])
  | fuel + 1, g, k =>
      match g.path? k with
      | none => .ok (g, [])
      | some p =>
          if !p.arrives then .ok (g, [])
          else match g.top w with
            | none => .error (stackFault 2 g.stack)
            | some e =>
                if e.kind ≠ 2 then .error (stackFault 2 g.stack)
                else
                  let e := { e with arrived := e.arrived ||| p.mask }
                  let g := (g.setPath k none).setTop w e
                  if e.mask &&& ~~~(e.arrived ||| g.exited) ≠ 0 then unjoined (g.refill w)
                  else
                    let g := g.pop
                    let live := e.mask &&& ~~~g.exited
                    if live = 0 then unjoined (g.refill w)
                    else match g.freeSlot with
                      | none => .ok (g, [])
                      | some j =>
                          match (g.setPath j (some (Path.at e.addr1 live (joinOf e.addr2) e.fmt))).refill w with
                          | .error f => .error f
                          | .ok g => (Group.arrive w fuel g j).map fun x => (x.1, live :: x.2)

/-- The writes of the lanes of `m` that are pending where arms join into a path with mask `m` come before what follows in
every lane of it (R400). -/
def Group.joinPending (g : Group) (m : W64) : Group :=
  { g with pending := g.pending.map fun p =>
      if p.lanes.any fun x => m.getLsbD x.1 then { p with joined := p.joined ||| m } else p }

/-! ## Iterations (R271) -/

/-- The iteration count when the path next reaches `pc`: outside its body it is 0 with no body. -/
def Path.reaches (p : Path) (pc : W32) : Path :=
  match p.body with
  | some (a, b) => if a.toNat ≤ pc.toNat && pc.toNat ≤ b.toNat then { p with pc := pc } else { p with pc := pc, iter := 0, body := none }
  | none => { p with pc := pc }

/-- A taken LOOP at `clause` with the body from `target`. -/
def Path.loops (p : Path) (target clause : W32) : Path :=
  if p.body = some (target, clause) then { p with iter := p.iter + 1 } else { p with iter := 1, body := some (target, clause) }

/-- The lanes that a group launches and that have not exited. -/
def Group.live (g : Group) : W64 := g.launched &&& ~~~g.exited

end Sys2Proof.Machine
end

