-- ==== Sys2Proof/Machine/Quantum.lean ====
section
/-!
DEFINITION. Stores and what orders them: writes and atomics at a home slice, the commit log, the end of a quantum, the
release and the acquire (R25, R49 to R52, R102, R103, R157, R158, R279, R282, R292).
-/
namespace Sys2Proof.Machine
open Sys2Proof

/-! ## What ends a slot early -/

/-- Why a slot goes no further now. -/
inductive Stop where
  /-- It blocks and runs again (R111). -/
  | block (w : Wait)
  /-- It parks on a page-absent record (R144). -/
  | park (f : FaultInfo)
  /-- It faults, precise at the slot. -/
  | trap (f : FaultInfo)
  /-- A fault found after its slot, which names its own clause and slot (R427). -/
  | late (f : LateFault)
  /-- A trigger of R26, numbered in the order of its table: 1 log overflow, 2 tile exhaustion, 3 claim deadlock,
  4 allowance, 5 whole requeue. -/
  | abort (trigger : Nat)
  deriving DecidableEq, Repr

/-- An operation on the state and the executing group: it goes on, or it stops with what it has done so far. -/
inductive Act where
  | ok (s : State) (g : Group)
  | stop (s : State) (g : Group) (r : Stop)
  deriving DecidableEq, Repr

def Act.andThen (a : Act) (f : State → Group → Act) : Act :=
  match a with
  | .ok s g => f s g
  | .stop s g r => .stop s g r

/-! ## Atomics at a home slice -/

/-- The new value of an element under an atomic (R292): 0 add, 1 min, 2 max, 3 and, 4 or, 5 xor, 6 exchange; with a
comparand, compare and swap. -/
def atomicNew (t : ElemType) (op old v : Nat) (cmp : Option Nat) : Nat :=
  match cmp with
  | some c => if old = c then v else old
  | none =>
      match op with
      | 0 => (old + v) % 2 ^ t.width
      | 1 => if intOf t v < intOf t old then v else old
      | 2 => if intOf t old < intOf t v then v else old
      | 3 => old &&& v
      | 4 => old ||| v
      | 5 => old ^^^ v
      | _ => v

/-- Applies an atomic at its home slice and answers the old value. -/
def State.applyAtomic (s : State) (c : Nat) (t : ElemType) (op : Nat) (v : W64) (cmp : Option W64) : State × Nat :=
  let n := t.width / 8
  let old := natOfBytes (Memory.readN s.mem c n)
  let new := atomicNew t op old (v.toNat % 2 ^ t.width) (cmp.map fun x => x.toNat % 2 ^ t.width)
  (s.applyWrite c 0 (bytesOfNat n new), old)

/-! ## Operations on their way -/

/-- The bytes that an operation covers. -/
def HomeOp.size (o : HomeOp) : Nat :=
  match o.kind with
  | .write d => d.length
  | .atomic t .. => t.width / 8

/-- The class of an operation of a group (R128). -/
def HomeOp.cls (o : HomeOp) : Nat :=
  match o.kind with
  | .atomic .. => clsRequest
  | .write d => sizedClass d.length clsRequest

/-- The way of an operation to its home in class `c`; where its blocks have several homes, to the first that is away. -/
def State.hopsOf (s : State) (o : HomeOp) (c : Nat := o.cls) : List (Nat × Nat) :=
  inClass c (s.wayTo o.fromDie ((s.farBlock o.fromDie o.cell o.size).getD o.cell))

/-- An operation leaves for its home. -/
def State.sendOp (s : State) (o : HomeOp) (c : Nat := o.cls) : State :=
  let (s, u) := s.fresh
  let o := { o with uid := u }
  ({ s with net := s.net ++ [o] }).sendFlit u (s.hopsOf o c)

/-- Whether an operation meets [cell, cell + n). -/
def HomeOp.meets (o : HomeOp) (cell n : Nat) : Bool := o.cell < cell + n && cell < o.cell + o.size

/-- An operation of the group that has not reached its home and meets [cell, cell + n). -/
def State.inFlight (s : State) (u cell n : Nat) : Bool := s.net.any fun o => decide (o.sender = .group u) && o.meets cell n

/-! ## The commit log (R25, R102, R103) -/

/-- Whether the parcel of a group is subdivisible. -/
def State.subdivisible (s : State) (g : Group) : Bool := (s.launchOf g).hdr.sub

/-- A record without the mark of an error. -/
def LogRec.plain : LogRec → LogRec
  | .bad r => r.plain
  | r => r

def LogRec.isBad : LogRec → Bool | .bad _ => true | _ => false

/-- The space of a record (R102). -/
def LogRec.space : LogRec → Nat
  | .store .. | .atomic .. | .pop .. => 32
  | .write rows => 32 + ((rows.map fun r => r.2.length).foldl (· + ·) 0 + 31) / 32 * 32
  | .add t _ rows => 32 + ((rows.map fun r => r.2.length * (t.width / 8)).foldl (· + ·) 0 + 31) / 32 * 32
  | .mass _ _ vals => 32 + (4 * vals.length + 31) / 32 * 32
  | .append .. => 0
  | .launch .. => 544
  | .bad r => r.space

/-- Appends records to a parcel's log; none when they do not fit whole. -/
def Parcel.logged (p : Parcel) (size : Nat) (rs : List LogRec) : Option Parcel :=
  let n := (rs.map LogRec.space).foldl (· + ·) 0
  if size < p.logUsed + n then none else some { p with log := p.log ++ rs, logUsed := p.logUsed + n }

/-- Appends records to the log of a group's parcel, or aborts it with trigger 1. -/
def State.logFor (s : State) (g : Group) (rs : List LogRec) : Act :=
  let p := s.parcelOf g
  match p.logged (s.launchOf g).hdr.clog rs with
  | some p => .ok (s.setParcel p) g
  | none => .stop s g (.abort 1)

/-- The elements of a list of cells added to memory elements with one rounding each (R342): the pattern per element. -/
def addCells (t : ElemType) (fmt : W32) (old : List Nat) (cells : List W64) : List Nat :=
  (old.zip cells).map fun (o, c) => (elAdd t t.isInt (FEnv.of fmt 0) o c.toNat).bits

/-- `bs` split into elements of `n` bytes, `k` of them. -/
def splitElems (n : Nat) : Nat → List Byte → List Nat
  | 0, _ => []
  | k + 1, bs => natOfBytes (bs.take n) :: splitElems n k (bs.drop n)

/-- MASS of a slot after a mass drain of the FP32 value `v` (R155). -/
def massAdd (old v : Nat) : Nat :=
  let d := match Val.of .f32 false v with
    | .fin false m e => if m = 0 then 0 else min (roundInt .rne false m (e + 16)) (2 ^ 32 - 1)
    | .inf false => 2 ^ 32 - 1
    | _ => 0
  min (old + d) (2 ^ 32 - 1)

/-- The bytes of the masses `old` under a mass drain. -/
def massBytes (old : List Nat) (vals : List W32) : List Byte := ((old.zip vals).map fun x => bytesOfNat 4 (massAdd x.1 x.2.toNat)).flatten

/-- What a record makes of the bytes at its addresses, given what it finds there.  A mass drain in the log is read as if it were
applied; the GEN check comes when it is. (DESIGN CHOICE, log entry 47) -/
def LogRec.bytes (r : LogRec) (found : Nat → Nat → List Byte) : List (Nat × List Byte) :=
  match r.plain with
  | .store va n d _ => [(va, bytesOfNat n d.toNat)]
  | .write rows => rows
  | .atomic va t op v cmp =>
      let n := t.width / 8
      [(va, bytesOfNat n (atomicNew t op (natOfBytes (found va n)) (v.toNat % 2 ^ t.width) (cmp.map fun x => x.toNat % 2 ^ t.width)))]
  | .add t fmt rows =>
      let n := t.width / 8
      rows.map fun r => (r.1, ((addCells t fmt (splitElems n r.2.length (found r.1 (n * r.2.length))) r.2).map (bytesOfNat n)).flatten)
  | .mass va _ vals => [(va, massBytes (splitElems 4 vals.length (found va (4 * vals.length))) vals)]
  | _ => []

/-- The addresses and sizes of what a record covers. -/
def LogRec.extents : LogRec → List (Nat × Nat)
  | .store va n _ _ => [(va, n)]
  | .write rows => rows.map fun r => (r.1, r.2.length)
  | .atomic va t .. => [(va, t.width / 8)]
  | .add t _ rows => rows.map fun r => (r.1, r.2.length * (t.width / 8))
  | .mass va _ vals => [(va, 4 * vals.length)]
  | .bad r => r.extents
  | _ => []

/-- Whether a record covers the byte at `x`. -/
def LogRec.covers (r : LogRec) (x : Nat) : Bool := r.extents.any fun e => e.1 ≤ x && x < e.1 + e.2

/-- Whether the newest record over some byte of [va, va + n) is poisoned (R103, R106). -/
def logBad (va n : Nat) : List LogRec → Bool
  | [] => false
  | r :: rs => (r.isBad && (span va n).any fun x => r.covers x && !(rs.any fun y => y.covers x)) || logBad va n rs

/-- The byte at `va` in an overlay, newest first. -/
def overlay (o : List (Nat × Byte)) (va : Nat) : Option Byte := (o.find? fun e => e.1 = va).map fun e => e.2

/-- [a, a + k) meets the aligned 8-byte words that [va, va + n) meets: an element that a record changes lies within one word. -/
def nearWord (va n a k : Nat) : Bool := a < (va + n + 7) / 8 * 8 && va / 8 * 8 < a + k

/-- The bytes of the log at and beside [va, va + n), where `va` is at `cell`, as an overlay on virtual addresses. -/
def logOverlay (m : Tbl Byte) (va cell n : Nat) : List LogRec → List (Nat × Byte) → List (Nat × Byte)
  | [], o => o
  | r :: rs, o =>
      if r.extents.any fun e => nearWord va n e.1 e.2 then
        let found (a c : Nat) : List Byte := (span a c).map fun x => (overlay o x).getD (Memory.read m (cell + x - va))
        let near := (r.bytes found).filter fun p => nearWord va n p.1 p.2.length
        logOverlay m va cell n rs ((near.reverse.map fun p => (span p.1 p.2.length).zip p.2).flatten ++ o)
      else logOverlay m va cell n rs o

/-! ## Ranges (R143) -/

def Range.has (r : Range) (va : Nat) : Bool := r.lo ≤ va && va < r.hi

/-- What an absent page at `va` means for a launch: the lease fault, or a park. -/
def absentStop (l : Launch) (lane va : Nat) : Stop :=
  if l.leases.any fun r => r.has va then .park (pageAbsent true lane va)
  else if l.demand.any fun r => r.has va then .park (pageAbsent false lane va)
  else .trap (leaseFault lane va)

/-! ## The end of a quantum (R50 to R52, R282) -/

/-- The ranks of the outcomes of translations, worst first: a fault, the lease fault, a moving page, a park. -/
def Stop.rank : Stop → Nat
  | .trap f => if f.code = 0x0021 then 1 else 0
  | .block _ => 2
  | .park _ => 3
  | .late _ | .abort _ => 4

/-- The worse of two outcomes, the first where they are alike. -/
def worseStop (a b : Option Stop) : Option Stop :=
  match a, b with
  | none, y => y
  | x, none => x
  | some x, some y => if y.rank < x.rank then some y else some x

/-- Translates the entries in turn, each as a write: the state, the worst outcome, and the cells. -/
def translateEntries (core vf : Nat) (l : Launch) : State → List StoreEntry → State × Option Stop × List Nat
  | s, [] => (s, none, [])
  | s, e :: es =>
      if e.own then
        let (s, r, cs) := translateEntries core vf l s es
        (s, r, e.va :: cs)
      else
        let (s, t) := s.translate (some core) vf e.va .write
        let (s, r, cs) := translateEntries core vf l s es
        match t with
        | .ok c => (s, r, c :: cs)
        | .fault c lv x => (s, worseStop (some (.trap (translationFault c lv x e.lane e.va))) r, 0 :: cs)
        | .moving => (s, worseStop (some (.block .moving)) r, 0 :: cs)
        | .absent => (s, worseStop (some (absentStop l e.lane e.va)) r, 0 :: cs)

/-- The operation of a store to a home on another die. -/
def State.storeOp (s : State) (g : Group) (e : StoreEntry) (vf cell : Nat) : HomeOp :=
  { sender := .group g.uid, fromDie := g.core / 48, home := homeDie cell, lane := e.lane, vf := vf, va := e.va, cell := cell, hint := e.hint,
    kind := .write (bytesOfNat e.n e.data.toNat), counted := true, released := false, clause := e.clause, slot := e.slot,
    early := s.inL1 g.core cell, seen := bit64 e.lane }

/-- One store leaves for its home: applied on the group's own die, else on its way and counted (R157).  The line of the writing core
takes the data at once when it is present (R93). -/
def State.sendStore (s : State) (g : Group) (e : StoreEntry) (vf cell : Nat) : State × Group :=
  let bs := bytesOfNat e.n e.data.toNat
  let s' := s.updateL1 g.core cell bs
  if !s.isFar (g.core / 48) cell then (s'.applyWrite cell e.hint bs, g)
  else (s'.sendOp (s.storeOp g e vf cell), { g with acks := g.acks + 1 })

/-- What keeps a store from leaving: on the group's own die an earlier operation of the group on its bytes that is on its way
(R401), else the acknowledgement count (R157) or a full class queue (R108). -/
def State.storeWaits (s : State) (g : Group) (e : StoreEntry) (vf cell : Nat) : Option Wait :=
  if !s.isFar (g.core / 48) cell then (if s.inFlight g.uid cell e.n then some .acks else none)
  else if g.acks = Config.ackLimit then some .acks
  else if !s.roomOn (s.hopsOf (s.storeOp g e vf cell)) then some .link
  else none

/-- A store takes effect: in the private object, in the log, or at its home; `waits` when a store to memory may be held back. -/
def State.commitOne (s : State) (g : Group) (e : StoreEntry) (vf cell : Nat) (log waits : Bool) : Act :=
  if e.own then .ok s { g with own := Memory.writeN g.own e.va (bytesOfNat e.n e.data.toNat) }
  else if log then s.logFor g [.store e.va e.n (e.data.zeroExtend 128) e.lane]
  else match if waits then s.storeWaits g e vf cell else none with
    | some w => .stop s g (.block w)
    | none => let (s, g) := s.sendStore g e vf cell; .ok s g

/-- The entries of the committing lanes in the order of R50: ascending lane, and within a lane program order. -/
def commitOrder (buf : List StoreEntry) (m : W64) : List StoreEntry :=
  ((lanes m).map fun l => buf.filter fun e => e.lane = l).flatten

/-- The first entry equal to `e` removed. -/
def dropFirst (e : StoreEntry) : List StoreEntry → List StoreEntry
  | [] => []
  | x :: xs => if x = e then xs else x :: dropFirst e xs

def commitAll (vf : Nat) (log : Bool) : List (StoreEntry × Nat) → State → Group → Act
  | [], s, g => .ok s g
  | (e, c) :: es, s, g =>
      (s.commitOne g e vf c log true).andThen fun s g =>
        commitAll vf log es s { g with buffer := dropFirst e g.buffer }

/-- A load of one of the lanes, or of an arm that has joined into them, has not returned (R400, R406). -/
def Group.loadsOf (g : Group) (m : W64) : Bool :=
  g.pending.any fun p => p.kind = .load && (p.joined &&& m ≠ 0 || p.lanes.any fun l => m.getLsbD l.1)

/-- The sectors of the private object that the stores of one slot among `es` cover whole: they are one access (R92). -/
def coveredSectors (es : List StoreEntry) (x : Nat) : Bool :=
  es.any fun e => (span 0 64).all fun i => es.any fun d =>
    d.own && d.clause = e.clause && d.slot = e.slot && d.va ≤ 64 * x + i && 64 * x + i < d.va + d.n

/-- Stores that cover a whole sector of the private object clear its poison (R106). -/
def Group.clearOwn (g : Group) (es : List StoreEntry) : Group := { g with ownPoison := g.ownPoison.filter fun x => !coveredSectors es x }

/-- The stores to the private object access the L1, those of one slot together (R92). -/
def State.touchOwn (s : State) (g : Group) (es : List StoreEntry) : State :=
  let own := es.filter fun e => e.own
  ((own.map fun e => (e.clause, e.slot)).eraseDups).foldl (fun s k =>
    s.touchWords g ((own.filter fun e => (e.clause, e.slot) = k).map fun e => e.va) true) s

/-- The stores of the lanes of `m` that are left belong to a quantum that has begun to end. (DEDUCED, log entry 79) -/
def Group.markLeaving (g : Group) (m : W64) : Group :=
  { g with buffer := g.buffer.map fun e => if m.getLsbD e.lane then { e with leaving := true } else e }

/-- Commits the buffered stores of the lanes of `m`. -/
def State.commit (s : State) (g : Group) (m : W64) : Act :=
  let es := commitOrder g.buffer m
  if es.isEmpty then .ok s g
  else if g.loadsOf (es.foldl (fun a e => a ||| bit64 e.lane) 0) then .stop s g (.block .loads)
  else
    let l := s.launchOf g
    let (s, r, cells) := translateEntries g.core l.vf l s es
    match r with
    | some (.trap f) => .stop s { g with buffer := g.buffer.filter fun e => !m.getLsbD e.lane } (.trap f)
    | some x => .stop s g x
    | none => match commitAll l.vf l.hdr.sub (es.zip cells) (s.touchOwn g (g.buffer.filter fun e => m.getLsbD e.lane)) (g.clearOwn es) with
        | .stop s g x => .stop s (g.markLeaving m) x
        | .ok s g => .ok s g

/-- The path's count of clauses since its last quantum end becomes 0 (R51). -/
def Group.resetCount (g : Group) (k : PathSlot) : Group :=
  match g.path? k with
  | some p => g.setPath k (some { p with qcnt := 0 })
  | none => g

/-- Ends the quantum of the path in slot `k`, which commits the lanes of its mask. -/
def State.quantumEnd (s : State) (g : Group) (k : PathSlot) : Act :=
  match g.path? k with
  | none => .ok s g
  | some p => (s.commit g p.mask).andThen fun s g => .ok s (g.resetCount k)

/-! ## Releases and acquires (R279) -/

/-- Whether a drain of the group has not been applied. -/
def State.drainsPending (s : State) (g : Group) : Bool :=
  (s.pair (g.core / 2)).ops.any fun o => o.group = g.uid && !o.applied && (match o.kind with
    | .drain .. | .massDrain .. => true
    | _ => false)

/-- A write of the group that was answered in error stops it at a release at package scope or wider (R427). -/
def Group.lateWrite (g : Group) : Option LateFault := g.late.find? fun f => f.atRelease

/-- An atomic of the group to a home on its own die that has not been accepted there. -/
def State.nearPending (s : State) (g : Group) : Bool := s.net.any fun o => o.sender = .group g.uid && !o.counted

/-- The operations of a group that are on their way when it releases at die scope (R397). -/
def State.markReleased (s : State) (u : Nat) : State :=
  { s with net := s.net.map fun o => if o.sender = .group u then { o with released := true } else o }

/-- A card or command that a slot submits would be ahead of an operation that a release of the group covers (R397). -/
def State.behind (s : State) (u : Nat) : Bool := s.net.any fun o => o.sender = .group u && o.released

/-- Every earlier load of the group has returned. -/
def Group.loadsDone (g : Group) : Bool := !(g.pending.any fun p => p.kind = .load)

/-- The release at scope `sc` once the quantum has ended: the group's drains and its operations on its own die are
accepted, and at package scope or wider every acknowledgement has returned.  The loads of the group have returned too: each comes
before the release (R400, R402). (DEDUCED, log entry 78) -/
def State.releaseWait (s : State) (g : Group) (sc : Nat) : Act :=
  if !g.loadsDone then .stop s g (.block .loads)
  else if s.drainsPending g then .stop s g (.block .operations)
  else if s.nearPending g then .stop s g (.block .acks)
  else if sc < 6 then .ok (if sc = 5 then s.markReleased g.uid else s) g
  else if g.acks ≠ 0 then .stop s g (.block .acks)
  else match g.lateWrite with
    | some f => .stop s { g with late := g.late.filter fun x => x ≠ f } (.late f)
    | none => .ok s g

def State.release (s : State) (g : Group) (k : PathSlot) (sc : Nat) : Act :=
  (s.quantumEnd g k).andThen fun s g => s.releaseWait g sc

/-- The invalidation of an acquire at scope `sc` (R94). -/
def State.acquire (s : State) (g : Group) (sc : Nat) : State := if 4 ≤ sc then s.invalidateL1 g.core else s

end Sys2Proof.Machine
end

