-- ==== Sys2Proof/Machine/Lists.lean ====
section
/-!
DEFINITION. Work-list descriptors and their records, and phaser entries: the operations that the instructions and the end
of a parcel share (R114 to R117, R149, R150, R300).
-/
namespace Sys2Proof.Machine
open Sys2Proof

/-! ## Work-lists (R114) -/

structure ListDesc where
  head  : Nat
  tail  : Nat
  resv  : Nat
  taken : Nat
  cap   : Nat
  obj   : Nat
  wide  : Bool
  deriving DecidableEq, Repr

/-- A descriptor in which COUNT + TAKEN + RESV exceeds CAP, as a plain store may leave one, is read well formed: what exceeds CAP is
dropped (R114). (DESIGN CHOICE, log entry 68) -/
def ListDesc.wellFormed (d : ListDesc) : ListDesc :=
  let n := (2 ^ 64 + d.tail - d.head) % 2 ^ 64
  let count := min n d.cap
  let taken := min d.taken (d.cap - count)
  { d with tail := (d.head + count) % 2 ^ 64, taken := taken, resv := min d.resv (d.cap - count - taken) }

/-- The descriptor at a cell. -/
def State.listAt (s : State) (c : Nat) : ListDesc :=
  let x := natOfBytes (Memory.readN s.mem c 64)
  ListDesc.wellFormed
  { head := field x 256 64, tail := field x 192 64, resv := field x 160 32, taken := field x 128 32, cap := field x 96 32,
    obj := field x 72 24, wide := x.testBit 0 }

/-- Writes the fields that the device keeps: TAKEN, RESV, TAIL and HEAD. -/
def State.setList (s : State) (c : Nat) (d : ListDesc) : State :=
  s.applyWrite (c + 16) 0 (bytesOfNat 4 d.taken ++ bytesOfNat 4 d.resv ++ bytesOfNat 8 d.tail ++ bytesOfNat 8 d.head)

def ListDesc.count (d : ListDesc) : Nat := (2 ^ 64 + d.tail - d.head) % 2 ^ 64
/-- Whether a request for `n` records succeeds (R115). -/
def ListDesc.admits (d : ListDesc) (n : Nat) : Bool := d.count + d.taken + d.resv + n ≤ d.cap
def ListDesc.bytes (d : ListDesc) : Nat := if d.wide then 16 else 8

/-- The records fit in the backing object (R114). -/
def ListDesc.fits (d : ListDesc) (e : W128) : Bool := 0 < d.cap && d.cap * d.bytes ≤ objPages e * 4096

/-- The virtual address of the record with sequence number `n` (R114); none where the records do not fit in the backing object. -/
def State.recordVa (s : State) (core : Option Nat) (vf : Nat) (d : ListDesc) (n : Nat) : State × Option Nat :=
  match s.object core vf d.obj with
  | (s, some e) => (s, if !d.fits e then none else some (objBase e + n % d.cap * d.bytes))
  | (s, none) => (s, none)

/-- The cell of a record, translated for a read or a write. -/
def State.recordCell (s : State) (core : Option Nat) (vf : Nat) (d : ListDesc) (n : Nat) (k : Access) : State × Trans :=
  match s.recordVa core vf d n with
  | (s, some va) => s.translate core vf va k
  | (s, none) => (s, .fault 2 0 0)

def State.readRecord (s : State) (d : ListDesc) (c : Nat) : W128 := BitVec.ofNat 128 (natOfBytes (Memory.readN s.mem c d.bytes))

/-- Appends a record at TAIL; the descriptor is written by the caller. -/
def State.appendRecord (s : State) (core : Option Nat) (vf : Nat) (d : ListDesc) (r : W128) : State × Option ListDesc :=
  match s.recordCell core vf d d.tail .write with
  | (s, .ok c) => (s.applyWrite c 0 (bytesOfNat d.bytes r.toNat), some { d with tail := (d.tail + 1) % 2 ^ 64 })
  | (s, _) => (s, none)

/-- Writes records, oldest first, into the slots from sequence number `n` (R117); none where a slot cannot be written now. -/
def restoreRecords (vf : Nat) (d : ListDesc) : State → Nat → List W128 → Option State
  | s, _, [] => some s
  | s, n, r :: rs => match s.recordCell none vf d n .write with
      | (s, .ok c) => restoreRecords vf d (s.applyWrite c 0 (bytesOfNat d.bytes r.toNat)) (n + 1) rs
      | _ => none

/-- The records that a log holds for the pops from one list, in pop order. -/
def poppedFrom (list : Nat) : List LogRec → List W128
  | [] => []
  | r :: rs => match r.plain with
      | .pop l _ x => if l = list then x :: poppedFrom list rs else poppedFrom list rs
      | _ => poppedFrom list rs

/-- The records of a log that wait to be appended to one list. -/
def appendsTo (list : Nat) (log : List LogRec) : Nat :=
  (log.filter fun r => match r.plain with | .append l _ _ => l = list | _ => false).length

/-- A return to a list, as one step at its home slice: the popped records stand before HEAD again, in their order, HEAD and TAKEN fall
by their number, and RESV falls (R117); none where a page of the list moves or is absent. -/
def State.tryReturn (s : State) (x : ListReturn) : Option State :=
  match s.translate none x.vf x.list .write with
  | (s, .ok c) =>
      let d := s.listAt c
      let d' := { d with head := (2 ^ 64 + d.head - x.back.length) % 2 ^ 64, taken := d.taken - x.taken, resv := d.resv - x.resv }
      (restoreRecords x.vf d s d'.head x.back).map fun s => s.setList c d'
  | _ => none

/-- Makes a return to a list, at once or when the pages of the list are there (R117). -/
def State.returnList (s : State) (x : ListReturn) : State := (s.tryReturn x).getD { s with returns := s.returns ++ [x] }

/-- Makes the returns that have waited for a page, in their order. -/
def State.retryReturns (s : State) : State := s.returns.foldl (fun s x => s.returnList x) { s with returns := [] }

/-- Undoes the pops of an aborted parcel on one list and returns its reservations there (R117). -/
def State.undoList (s : State) (vf : Nat) (p : Parcel) (list : Nat) : State :=
  let back := poppedFrom list p.log
  s.returnList { vf := vf, list := list, back := back, resv := Tbl.get 0 p.resv list + appendsTo list p.log, taken := back.length }

/-- Every list that a parcel reserved on or popped from. -/
def Parcel.lists (p : Parcel) : List Nat :=
  let a := p.resv.map fun e => e.1
  let b := a ++ (p.taken.map fun e => e.1).filter fun x => !a.contains x
  p.log.foldl (fun l r => match r.plain with | .append x _ _ => if l.contains x then l else l ++ [x] | _ => l) b

def State.undoLists (s : State) (vf : Nat) (p : Parcel) : State := p.lists.foldl (fun s l => s.undoList vf p l) s

/-- Returns the reservations of a parcel and, for one that retires, ends its pops (R117). -/
def State.settleLists (s : State) (vf : Nat) (p : Parcel) : State :=
  p.lists.foldl (fun s list =>
    s.returnList { vf := vf, list := list, back := [], resv := Tbl.get 0 p.resv list, taken := Tbl.get 0 p.taken list }) s

/-! ## Phasers (R149, R150) -/

/-- The entry of a phaser of the parcel of `g`, or of the package. -/
def State.phaser (s : State) (g : Group) (pkg : Bool) (n : Nat) : Phaser :=
  if pkg then Tbl.get Phaser.clear s.phasers n else Tbl.get Phaser.clear (s.parcelOf g).phasers n

def State.setPhaser (s : State) (g : Group) (pkg : Bool) (n : Nat) (p : Phaser) : State :=
  if pkg then { s with phasers := Tbl.put Phaser.clear s.phasers n p }
  else
    let q := s.parcelOf g
    s.setParcel { q with phasers := Tbl.put Phaser.clear q.phasers n p }

/-- Whether the phase of an entry completes (R150). -/
def Phaser.completes (p : Phaser) : Bool := 0 < p.sig && p.arrived = p.sig
def Phaser.next (p : Phaser) : Phaser := { p with phase := p.phase + 1, arrived := 0, sig := p.signext }

/-- When a phase completes, every signaller counts in the new one and has not arrived in it. -/
def Group.newPhase (g : Group) (pkg : Bool) (n : Nat) : Group :=
  { g with roles := g.roles.map fun r => if r.pkg = pkg && r.n = n && r.sig then { r with counted := true, arrived := false } else r }

/-- Stores an entry and completes its phase if it can (R150): the roles of the groups that share the entry follow. -/
def State.phaserTest (s : State) (g : Group) (pkg : Bool) (n : Nat) (p : Phaser) : State × Group :=
  if p.completes then
    let s := s.setPhaser g pkg n p.next
    let shares (x : Group) : Bool := pkg || x.parcel = g.parcel
    ({ s with groups := s.groups.map fun x => if shares x then x.newPhase pkg n else x }, g.newPhase pkg n)
  else (s.setPhaser g pkg n p, g)

def Group.role (g : Group) (pkg : Bool) (n : Nat) : Role :=
  (g.roles.find? fun r => r.pkg = pkg && r.n = n).getD
    { pkg := pkg, n := n, sig := false, wait := false, counted := false, arrived := false }

/-- Records a role; one that is neither signaller nor waiter is dropped. -/
def Group.setRole (g : Group) (r : Role) : Group :=
  let rest := g.roles.filter fun x => !(x.pkg = r.pkg && x.n = r.n)
  { g with roles := if r.sig || r.wait then rest ++ [r] else rest }

/-- Drops roles as PHDROP does (R300). -/
def State.dropRoles (s : State) (g : Group) (pkg : Bool) (n : Nat) (sig wait : Bool) : State × Group :=
  let r := g.role pkg n
  let p := s.phaser g pkg n
  let p := if wait && r.wait then { p with wait := p.wait - 1 } else p
  let p := if sig && r.sig then
      if r.counted && !r.arrived then
        if p.arrived = 0 then { p with sig := p.sig - 1, signext := p.signext - 1 }
        else { p with arrived := p.arrived + 1, signext := p.signext - 1 }
      else { p with signext := p.signext - 1 }
    else p
  let g := g.setRole { r with sig := r.sig && !sig, wait := r.wait && !wait }
  s.phaserTest g pkg n p

/-- Drops every role of a group (R300, R432). -/
def State.dropAllRoles (s : State) (g : Group) : State × Group :=
  g.roles.foldl (fun (a : State × Group) r => a.1.dropRoles a.2 r.pkg r.n true true) (s, g)

end Sys2Proof.Machine
end

