-- ==== Sys2Proof/Machine/Ends.lean ====
section
/-!
DEFINITION. Claims for registers, the end of a group, and the abort and the end of a parcel (R26 to R31, R41, R43 to R47,
R423).
-/
namespace Sys2Proof.Machine
open Sys2Proof

/-! ## Launch queues (R121, R161) -/

/-- Whether a launch has initial parcels that are not yet handed out. -/
def Launch.parcels (l : Launch) : Nat :=
  let n (d g : Nat) : Nat := (d + g - 1) / g
  n l.domX l.hdr.grX * n l.domY l.hdr.grY * n l.domZ l.hdr.grZ
def Launch.remains (l : Launch) : Bool := !l.failed && l.state ≠ .complete && l.cut < l.parcels

/-- Whether a queue has work: its head area, an accepted launch that is not fully placed, or an entry of its ring. -/
def State.backlogged (s : State) (vf n : Nat) : Bool :=
  let q := (s.vf vf).queue n
  !q.head.isEmpty || (s.launches.any fun l => l.vf = vf && l.queue = n && l.remains) || (ringOn q.cfg && q.prod ≠ q.cons)

/-- Every launch queue: function and number. -/
def allQueues : List (Nat × Nat) := ((span 0 64).map fun v => (span 0 8).map fun q => (v, q)).flatten

/-- The signed difference of two passes modulo 2^40 (R161): whether `a` is below `b`. -/
def passBelow (a b : Nat) : Bool := let d := (2 ^ 40 + a - b) % 2 ^ 40; 2 ^ 39 ≤ d
def passMax (a b : Nat) : Nat := if passBelow a b then b else a

/-- G of R161 for a queue: the lowest pass among the other backlogged queues, else the pass of the queue that was
dispatched last. -/
def State.passFloor (s : State) (vf n : Nat) : Nat :=
  let others := (s.vfs.map fun e => e.2.queues.map fun x => ((e.1, x.1), x.2)).flatten.filter fun x =>
    x.2.backed && x.1 ≠ (vf, n)
  match others with
  | x :: xs => xs.foldl (fun m y => if passBelow y.2.pass m then y.2.pass else m) x.2.pass
  | [] => match s.control.lastQueue with
    | some k => ((s.vf (k / 8)).queue (k % 8)).pass
    | none => 0

/-- Notes whether a queue is backlogged; one that becomes so sets its pass (R161). -/
def State.noteBacklog (s : State) (vf n : Nat) : State :=
  let v := s.vf vf
  let q := v.queue n
  let b := s.backlogged vf n
  let pass := if b && !q.backed then passMax q.pass (s.passFloor vf n) else q.pass
  s.setVf vf (v.setQueue n { q with backed := b, pass := pass })

/-- Puts entries at the head of a queue's head area (R30, R121). -/
def State.atHead (s : State) (vf n : Nat) (es : List HeadEntry) : State :=
  let v := s.vf vf
  let q := v.queue n
  (s.setVf vf (v.setQueue n { q with head := es ++ q.head })).noteBacklog vf n

/-- An entry of a parcel that aborted in cycle `t` on a core below `core`. -/
def HeadEntry.ahead (t core : Nat) : HeadEntry → Bool
  | .fresh _ _ since c => since = t && c < core
  | .saved _ => false

/-- Puts what an aborted parcel leaves at the head of a queue: behind what parcels of lower cores left in the same cycle (R30). -/
def State.requeue (s : State) (vf n launch core : Nat) (bs : List Box) : State :=
  let v := s.vf vf
  let q := v.queue n
  let ahead (e : HeadEntry) : Bool := e.ahead s.cycles core
  let es := bs.map fun b => HeadEntry.fresh launch b s.cycles core
  (s.setVf vf (v.setQueue n { q with head := q.head.takeWhile ahead ++ es ++ q.head.dropWhile ahead })).noteBacklog vf n

/-! ## The reservation of a parcel (R43, R413) -/

/-- The groups that are placed: those with a launched lane (R21). -/
def Kernel.placedGroups (k : Kernel) : Nat := min k.groups ((k.lanes + k.width - 1) / k.width)
/-- The groups on the leader or on the only core, and on the follower (R22). -/
def Kernel.groupsOn (k : Kernel) (lead : Bool) : Nat :=
  if k.pairs then (if lead then (k.placedGroups + 1) / 2 else k.placedGroups / 2) else if lead then k.placedGroups else 0
/-- The cores of a parcel whose first core is `c`. -/
def Kernel.cores (k : Kernel) (c : Nat) : List Nat := if k.pairs then [c, c + 1] else [c]

/-- Adds a reservation back to a core's free resources. -/
def State.giveBack (s : State) (k : Kernel) (core : Nat) (lead running : Bool) : State :=
  let c := s.core core
  s.setCore core { c with
    freePool := c.freePool + (if running then k.ceil else 0),
    freePlaces := c.freePlaces + (if running then k.groupsOn lead else 0),
    freeUnits := c.freeUnits + k.tiles,
    freePhasers := c.freePhasers + (if lead then k.phasers else 0),
    freeSems := c.freeSems + (if lead then k.sems else 0) }

/-- The first `n` units from `u` that are not used, among at most `fuel`. -/
def freeUnitsFrom (used : Nat → Bool) : Nat → Nat → Nat → List Nat
  | 0, _, _ => []
  | fuel + 1, u, n =>
      if n = 0 then [] else if used u then freeUnitsFrom used fuel (u + 1) n else u :: freeUnitsFrom used fuel (u + 1) (n - 1)

/-- Free units of the pool for `n` units: those of the ways that hold pinned data first, then those of the highest-numbered way that
is still unpinned, and at most 11 ways (R97). (DESIGN CHOICE, log entry 69) -/
def Die.freePool (d : Die) (n : Nat) : List Nat :=
  let ways := (span 0 11).map fun i => 15 - i
  let used (u : Nat) : Bool := d.pinned.any fun e => e.2.contains u
  ((ways.filter d.pinnedAt) ++ ways.filter fun w => !d.pinnedAt w).foldl (fun us w =>
    us ++ freeUnitsFrom used 1536 (1536 * w) (n - us.length)) []

/-- The free units of the pool: at most 11 ways of 1,536 (R97). -/
def Die.freeUnits (d : Die) : Nat := 11 * 1536 - (d.pinned.map fun e => e.2.length).foldl (· + ·) 0

/-- The L2 lines that stay once ways have been converted: a converted way's lines leave, the dirty ones written back, and no set keeps
more evict-last lines than its ways allow (R97, R99). -/
def Die.converted (d : Die) : Die :=
  let l := d.l2.filter fun y => !d.pinnedAt y.way
  let d := { d with l2 := l }
  { d with l2 := l.filter fun y => !(excessLast (d.setOf y.line) (16 - d.pinWays - 2)).contains y }

/-- The pool without the units of an owner: a way is a cache way again once no pinned data remains in it (R97). -/
def Die.unpin (d : Die) (o : PinOwner) : Die := { d with pinned := d.pinned.filter fun e => e.1 ≠ o }

/-- The units that an owner holds, in allocation order. -/
def Die.unitsOf (d : Die) (o : PinOwner) : List Nat := ((d.pinned.find? fun e => e.1 = o).map fun e => e.2).getD []

/-- Takes `n` 4 KiB units of the pinned pool for an owner that holds none (R97). -/
def Die.pin (d : Die) (o : PinOwner) (n : Nat) : Option Die :=
  let us := d.freePool n
  if us.length < n then none
  else if n = 0 then some d
  else some ({ d with pinned := d.pinned ++ [(o, us)] }).converted

/-- The free units of a tile go back to the core of CORE and PAIR, or the die of DIE (R87). -/
def State.returnUnits (s : State) (u h : Nat) (t : Tile) : State :=
  if t.level = 2 then s.setDie (t.core / 48) ((s.die (t.core / 48)).unpin (.tile u h))
  else
    let c := s.core t.core
    s.setCore t.core { c with freeUnits := c.freeUnits + t.unitsFree }

/-- The units of a commit log (R102). -/
def Kernel.logUnits (k : Kernel) : Nat := if k.sub then (k.clog + 4095) / 4096 else 0

/-- Releases the accumulator tiles that a parcel holds (R76). -/
def State.releaseTiles (s : State) (p : Nat) (core : Nat) : State :=
  let x := s.pair (core / 2)
  if x.owner = some p then s.setPair (core / 2) { x with owner := none, acc := [], tags := [] } else s

/-- Returns everything that a parcel holds (R24 step 4); `running` is false for a saved one (R418). -/
def State.releaseParcel (s : State) (p : Parcel) (running : Bool) : State :=
  let k := (s.launchFor p).hdr
  let s := s.giveBack k p.core true running
  let s := if k.pairs then s.giveBack k (p.core + 1) false running else s
  let s := p.tiles.foldl (fun s e => match e.2 with | some t => s.returnUnits p.uid e.1 t | none => s) s
  let s := s.setDie (p.core / 48) ((s.die (p.core / 48)).unpin (.log p.uid))
  s.releaseTiles p.uid p.core

/-- Removes what belongs to a set of groups: their watches, and their places among the running ones. -/
def State.forgetGroups (s : State) (mine : Nat → Bool) : State :=
  let clean (d : Die) : Die :=
    if d.slices.any fun e => (e.2.watches ++ e.2.queued).any fun w => mine w.group then
      { d with slices := d.slices.foldl (fun t e =>
          Tbl.put Slice.empty t e.1 { e.2 with watches := e.2.watches.filter fun w => !mine w.group,
                                               queued := e.2.queued.filter fun w => !mine w.group }) d.slices }
    else d
  let dies := s.dies.foldl (fun t e => Tbl.put Die.reset t e.1 (clean e.2)) s.dies
  { s with dies := dies, active := s.active.filter fun u => !mine u }

/-- The declarations of a parcel end at the next beat (R28). -/
def State.dropDecls (s : State) (p : Nat) : State :=
  { s with decls := s.decls.map fun d => if d.parcel = p then { d with gone := true } else d }

/-- Removes the cards of a parcel: all of them, or those not started. -/
def State.dropCards (s : State) (p : Nat) (core : Nat) (all : Bool) : State :=
  let x := s.pair (core / 2)
  let keepC (c : Card) : Bool := c.parcel ≠ p || (!all && (match c.state with | .running | .result .. | .acks => true | _ => false))
  let keepO (o : MtxOp) : Bool := o.parcel ≠ p || (!all && o.started.isSome)
  s.setPair (core / 2) { x with cards := x.cards.filter keepC, ops := x.ops.filter keepO }

/-- Whether a record belongs to a parcel: to it, to one of its groups, to one of its cards, or to a command of it that an engine
runs. -/
def State.recordOf (s : State) (p : Parcel) (r : FaultRecord) : Bool :=
  match r.owner with
  | .parcel q => q = p.uid
  | .group u => (s.groups.any fun g => g.uid = u && g.parcel = p.uid)
  | .card c => (s.pair (p.core / 2)).cards.any fun x => x.uid = c && x.parcel = p.uid
  | .engine e => match (s.engine e).busy with | some b => b.parcel = p.uid | none => false
  | _ => false

/-- Marks a launch failed: no further parcel of it is placed, and its parcels in the head area are dropped. -/
def State.failLaunch (s : State) (u : Nat) : State :=
  match s.launch? u with
  | none => s
  | some l =>
      let s := s.setLaunch { l with failed := true }
      let v := s.vf l.vf
      let q := v.queue l.queue
      let stays (e : HeadEntry) : Bool := match e with | .fresh x .. => x ≠ u | .saved _ => true
      (s.setVf l.vf (v.setQueue l.queue { q with head := q.head.filter stays })).noteBacklog l.vf l.queue

/-- A saved parcel leaves the head area of its queue. -/
def State.dropHead (s : State) (vf n u : Nat) : State :=
  let v := s.vf vf
  let q := v.queue n
  if q.head.contains (.saved u) then (s.setVf vf (v.setQueue n { q with head := q.head.filter fun e => e ≠ .saved u })).noteBacklog vf n else s

/-! ## Subdivision (R29) -/

/-- The children of a box: axes by extent, largest first, x before y before z, at the first whose half is not below the
minimum extent. -/
def splitBox (k : Kernel) (b : Box) : Option (Box × Box) :=
  let x := b.x1 - b.x0
  let y := b.y1 - b.y0
  let z := b.z1 - b.z0
  let okX := k.minX ≤ x / 2
  let okY := k.minY ≤ y / 2
  let okZ := k.minZ ≤ z / 2
  let sx := some ({ b with x1 := b.x0 + x / 2 }, { b with x0 := b.x0 + x / 2 })
  let sy := some ({ b with y1 := b.y0 + y / 2 }, { b with y0 := b.y0 + y / 2 })
  let sz := some ({ b with z1 := b.z0 + z / 2 }, { b with z0 := b.z0 + z / 2 })
  let order : List (Bool × Option (Box × Box)) :=
    if y ≤ x && z ≤ x then (if z ≤ y then [(okX, sx), (okY, sy), (okZ, sz)] else [(okX, sx), (okZ, sz), (okY, sy)])
    else if z ≤ y then (if z ≤ x then [(okY, sy), (okX, sx), (okZ, sz)] else [(okY, sy), (okZ, sz), (okX, sx)])
    else (if y ≤ x then [(okZ, sz), (okX, sx), (okY, sy)] else [(okZ, sz), (okY, sy), (okX, sx)])
  (order.find? fun e => e.1).bind fun e => e.2

/-- The minimum-lot fault of a box and a trigger (R425). -/
def minimumLot (b : Box) (trigger : Nat) : FaultInfo :=
  { code := 0x0023, lane := 0, addr := BitVec.ofNat 64 (b.z1 % 2 ^ 32 * 2 ^ 32 + b.z0 % 2 ^ 32),
    detail := BitVec.ofNat 192 (trigger * 2 ^ 184 + b.x0 % 2 ^ 32 * 2 ^ 96 + b.x1 % 2 ^ 32 * 2 ^ 64 + b.y0 % 2 ^ 32 * 2 ^ 32
      + b.y1 % 2 ^ 32) }

/-- An engine that runs a command of parcel `u` drops it. -/
def dropBusy (u : Nat) (t : Tbl Engine) (e : Nat × Engine) : Tbl Engine :=
  match e.2.busy with
  | some b => if b.parcel = u then Tbl.put Engine.idle t e.1 { e.2 with busy := none } else t
  | none => t

/-- Whether the retirement of a parcel has begun, after which nothing ends or aborts it (R24, R26). -/
def Parcel.committed (p : Parcel) : Bool := match p.state with | .retiring k => 2 ≤ k | _ => false

/-- Private lines of a group are discarded (R90). -/
def State.dropPrivate (s : State) (core g : Nat) : State :=
  let c := s.core core
  s.setCore core { c with l1 := c.l1.filter fun x => x.owner ≠ some g }

/-- The private lines of the groups of a parcel are discarded (R90). -/
def State.dropPrivates (s : State) (p : Nat) : State :=
  (s.groups.filter fun g => g.parcel = p).foldl (fun s g => s.dropPrivate g.core g.uid) s

/-- Removes a parcel and everything of it that is discarded (R28). -/
def State.discardParcel (s : State) (p : Parcel) : State :=
  let l := s.launchFor p
  let running := match p.state with | .saved => false | .ended b => b | _ => true
  let s := s.closeRecords l.vf (s.recordOf p) 2
  let s := s.undoLists l.vf p
  let s := s.forgetGroups fun u => s.groups.any fun g => g.uid = u && g.parcel = p.uid
  let s := s.dropDecls p.uid
  let s := s.dropCards p.uid p.core true
  let s := { s with engines := s.engines.foldl (dropBusy p.uid) s.engines }
  let s := (s.releaseParcel p running).dropPrivates p.uid
  { s with groups := s.groups.filter fun g => g.parcel ≠ p.uid, parcels := s.parcels.filter fun q => q.uid ≠ p.uid }

/-- The trigger that is recorded for a parcel (R26): where the allowance runs out in the same cycle, it comes before a whole
requeue. -/
def Parcel.trigger (p : Parcel) (n : Nat) : Nat := if p.due && n = 5 then 4 else n

/-- Aborts a subdivisible parcel by a trigger of R26: it is reborn as two children, or whole for a whole requeue; when no
axis can be split, the minimum-lot fault ends it (R28 to R31).  Nothing of a failed launch is queued again. -/
def State.abortParcel (s : State) (u trigger : Nat) : State :=
  match s.parcel? u with
  | none => s
  | some p =>
      if p.committed then s else
      let l := s.launchFor p
      let t := p.trigger trigger
      let r := s.parcelRecord p (minimumLot p.box t) 1
      let s := s.discardParcel p
      let again (bs : List Box) : State := if l.failed then s else s.requeue l.vf l.queue l.uid p.core bs
      if t = 5 then again [p.box]
      else match splitBox l.hdr p.box with
        | some (a, b) => again [a, b]
        | none => ((s.post r).1).failLaunch l.uid

/-! ## The end of a group (R41) -/

/-- Removes the group's results and unbinds its queues; its allotment is returned by the caller. -/
def Group.finish (g : Group) : Group :=
  { g with p0 := none, p1 := none, v := [], s := [], caps := [], masks := [], queues := [], samplers := [], status := .ended,
           run := none, decl := none, claim := none, own := [], ownHome := [], ownTags := [], ownPoison := [], badRegs := [], roles := [],
           buffer := g.buffer.filter fun e => !e.own }

/-! ## Claims (R44 to R47) -/

/-- The block-lanes of a parcel's reserve on a core, and the reserve changed. -/
def Parcel.reserve (p : Parcel) (core : Nat) : Nat := if core = p.core then p.rsvLead else p.rsvFollow
def Parcel.setReserve (p : Parcel) (core n : Nat) : Parcel :=
  if core = p.core then { p with rsvLead := n } else { p with rsvFollow := n }

/-- Granted blocks join the allotment, but not inside a clause (R273). -/
def Group.grow (g : Group) : Group := if g.run.isSome then g else { g with allot := g.allot + 8 * g.granted, granted := 0 }

/-- The head claim of a parcel on a core. -/
def Parcel.headClaim (p : Parcel) (core : Nat) : Option Claim := p.claims.find? fun c => c.core = core

/-- The first claim equal to `c` removed. -/
def dropClaim (c : Claim) : List Claim → List Claim
  | [] => []
  | x :: xs => if x = c then xs else x :: dropClaim c xs

/-- The head claim may be satisfied now: no claim of a lower index can block in its cycle any more (R45). -/
def State.claimDue (s : State) (u : Nat) (c : Claim) : Bool :=
  c.since < s.cycles || match s.group? c.group with
    | some g => s.groups.all fun x => x.parcel ≠ u || x.core ≠ c.core || x.status = .ended || g.index ≤ x.index || x.claim.isSome
    | none => true

/-- Satisfies the claims at the head of the order as far as the reserve goes (R45, R46). -/
def satisfyClaims (u core : Nat) : Nat → State → State
  | 0, s => s
  | n + 1, s =>
      match s.parcel? u with
      | none => s
      | some p =>
          match p.headClaim core with
          | none => s
          | some c =>
              match s.group? c.group with
              | none => s
              | some g =>
                  let need := c.blocks * g.width
                  if p.reserve core < need || !s.claimDue u c then s
                  else
                    let p := (p.setReserve core (p.reserve core - need))
                    let s := s.setParcel { p with claims := dropClaim c p.claims }
                    let left := g.claim.getD 0 - c.blocks
                    satisfyClaims u core n
                      (s.setGroup { g with granted := g.granted + c.blocks, claim := if left = 0 then none else some left }.grow)

/-- Returns block-lanes to a parcel's reserve on a core and satisfies the claims that wait (R46). -/
def State.returnBlocks (s : State) (u core n : Nat) : State :=
  match s.parcel? u with
  | none => s
  | some p => satisfyClaims u core p.claims.length (s.setParcel (p.setReserve core (p.reserve core + n)))

/-- Satisfies the claims of a parcel that have become due with the cycle. -/
def State.dueClaims (s : State) (p : Parcel) : State :=
  (p.claims.map fun c => c.core).eraseDups.foldl (fun s core => satisfyClaims p.uid core p.claims.length s) s

/-- Claim deadlock of a parcel on a core (R47). -/
def State.deadlocked (s : State) (u core : Nat) : Bool :=
  match s.parcel? u with
  | none => false
  | some _ =>
      let live := s.groups.filter fun g => g.parcel = u && g.core = core && g.status ≠ .ended
      !live.isEmpty && live.all fun g => g.claim.isSome

/-- The claim-deadlock fault: the reserve, the blocked groups and their requests (R425). (DEDUCED, log entry 23) -/
def State.deadlockFault (s : State) (p : Parcel) (core : Nat) : FaultInfo :=
  let blocked := s.groups.filter fun g => g.parcel = p.uid && g.core = core && g.claim.isSome
  let mask := blocked.foldl (fun a g => a ||| 2 ^ g.index) 0
  let reqs := blocked.foldl (fun a g => a + (g.claim.getD 0) % 64 * 2 ^ (56 + 6 * g.index)) 0
  { code := 0x0022, lane := 0, addr := 0,
    detail := BitVec.ofNat 192 (p.reserve core % 2 ^ 16 * 2 ^ 168 + mask % 2 ^ 16 * 2 ^ 152 + reqs) }

/-! ## The end of a parcel (R423) -/

/-- The commands that no engine has taken leave the queues of a group. -/
def Group.dropCommands (g : Group) : Group :=
  { g with queues := g.queues.foldl (fun t e =>
      if e.2.entries.all fun x => x.cmd.isNone then t
      else Tbl.put Queue.empty t e.1 { e.2 with entries := e.2.entries.filter fun x => x.cmd.isNone }) g.queues }

/-- Ends a parcel: groups that are not inside a clause end at once, the others at their next clause boundary; what has
not started is removed, and what has started runs on.  PARCEL_RETIRE returns the resources once nothing is left.  The records that a
subdivisible parcel popped go with its discarded log and stand in their lists again. (DESIGN CHOICE, log entry 73) -/
def State.endParcel (s : State) (u : Nat) (except : Option Nat) : State :=
  match s.parcel? u with
  | none => s
  | some p =>
      if p.committed then s else
      let l := s.launchFor p
      let inClause (g : Group) : Bool := g.run.isSome && g.status = .ready && except ≠ some g.uid
      let s := s.closeRecords l.vf (fun r => s.recordOf p r) 2
      let s := if l.hdr.sub then s.undoLists l.vf p else s.settleLists l.vf p
      let gone := s.groups.filter fun g => g.parcel = u && !inClause g && g.status ≠ .ended
      let s := gone.foldl (fun (s : State) (g : Group) =>
        let (s, g) := s.dropAllRoles g
        (s.setGroup { g.finish with buffer := [], pending := [] }).dropPrivate g.core g.uid) s
      let s := s.forgetGroups fun x => gone.any fun g => g.uid = x
      let s := { s with groups := s.groups.map fun (g : Group) => if g.parcel = u then { g.dropCommands with buffer := [] } else g }
      let s := s.dropDecls u
      let s := s.dropCards u p.core false
      let placed := match p.state with | .saved => false | _ => true
      let s := match s.parcel? u with
        | some p => s.setParcel { p with state := .ended placed, log := [], logUsed := 0, resv := [], taken := [], claims := [] }
        | none => s
      (s.failLaunch l.uid).dropHead l.vf l.queue u

/-- Posts a record of disposition E for a group and ends its parcel; the record is written resolved. -/
def State.faultEnds (s : State) (g : Group) (f : FaultInfo) (clause : W32) (slot : Nat) : State :=
  let (s, _) := s.post (s.groupRecord g f clause slot 1 (.parcel g.parcel))
  s.endParcel g.parcel (some g.uid)

/-- Claim deadlock: a trigger for a subdivisible parcel, a fault otherwise, whose record names the claim of the group that blocked
last (R32, R47, R461). (DEDUCED, log entry 23) -/
def State.deadlockCheck (s : State) (u core : Nat) : State :=
  if !s.deadlocked u core then s
  else match s.parcel? u with
    | none => s
    | some p =>
        if (s.launchFor p).hdr.sub then s.abortParcel u 3
        else
          let f := s.deadlockFault p core
          let r := match (p.claims.filter fun c => c.core = core).getLast?.bind fun c => (s.group? c.group).map fun g => (c, g) with
            | some (c, g) => s.groupRecord g f c.clause c.slot 1 (.parcel u)
            | none => s.parcelRecord p f 1
          let (s, _) := s.post r
          s.endParcel u none

/-- Ends a group whose lanes have all exited: its roles are dropped, its allotment returns (R41, R46, R300), and then
the deadlock condition is checked.  The caller has closed its transaction. -/
def State.endGroup (s : State) (g : Group) : State :=
  let (s, g) := s.dropAllRoles g
  let s := (s.setGroup g.finish).dropPrivate g.core g.uid
  let s := s.forgetGroups fun u => u = g.uid
  let s := s.returnBlocks g.parcel g.core ((g.allot / 8 + g.granted) * g.width)
  s.deadlockCheck g.parcel g.core

end Sys2Proof.Machine
end

