-- ==== Sys2Proof/Machine/Ops.lean ====
section
/-!
DEFINITION. How a slot runs: what it sees, how it ends, what taking a fault does (R421, R422) with the resumption beside
it, and how a clause ends (R36 to R41, R50, R67, R213).
-/
namespace Sys2Proof.Machine
open Sys2Proof

/-! ## What a slot sees -/

/-- The executing group, path and clause, with the state around them. -/
structure Ctx where
  s : State
  g : Group
  k : PathSlot
  p : Path
  r : ClauseRun
  deriving DecidableEq, Repr

/-- The executing lanes E of a guard (R59). -/
def Ctx.enabled (c : Ctx) (pg : BitVec 3) (pn : Bool) : W64 :=
  let m := c.g.kreg c.p.mask pg.toNat
  c.p.mask &&& (if pn then ~~~m else m)

def Ctx.launch (c : Ctx) : Launch := c.s.launchOf c.g
def Ctx.parcel (c : Ctx) : Parcel := c.s.parcelOf c.g
def Ctx.vf (c : Ctx) : Nat := c.launch.vf
def Ctx.die (c : Ctx) : Nat := c.g.core / 48
/-- fmt with the rounding of the slot (R72). -/
def Ctx.fenv (c : Ctx) (p : Pfx) : FEnv := FEnv.of c.p.fmt p.rnd

/-- How a slot ends: it is done, with the latch that it captures and, for a clause-ending opcode, where the path goes; or
it stops. -/
inductive Slot where
  | done (s : State) (g : Group) (latch : Option (Tbl W64)) (goto : Option Goto)
  | stop (s : State) (g : Group) (r : Stop)
  deriving DecidableEq, Repr

/-- An operation, and then the rest of the slot. -/
def Act.slot (a : Act) (f : State → Group → Slot) : Slot :=
  match a with
  | .ok s g => f s g
  | .stop s g r => .stop s g r

/-- A slot that stops with no effect of its own. -/
def Ctx.trap (c : Ctx) (f : FaultInfo) : Slot := .stop c.s c.g (.trap f)
def Ctx.block (c : Ctx) (w : Wait) : Slot := .stop c.s c.g (.block w)
/-- A slot that does nothing and captures nothing. -/
def Ctx.skip (c : Ctx) : Slot := .done c.s c.g none none

/-! ## Taking a fault -/

/-- The registers that a stop fills (R84, R422). -/
def Group.fillDbg (g : Group) (clause : W32) (slot : Nat) : Group :=
  match g.run with
  | some r =>
      let iter := match g.path? r.path with | some p => p.iter | none => 0
      { g with dbg := { lat := r.latches, empty := ~~~r.valid, clause := clause, slot := slot, iter := iter } }
  | none => { g with dbg := { lat := [], empty := 15, clause := clause, slot := slot, iter := 0 } }

/-- Whether a stop is reported at the debug port and not in the fault queue (R430). -/
def State.atDebugPort (s : State) (f : FaultInfo) : Bool := f.code = 0x000F && f.cause = 0 && s.control.debug = .invasive

/-- The stop of a group whose pending results are all in: the debug registers are filled and the record is posted, unless
it was posted before. -/
def State.stopNow (s : State) (g : Group) (f : FaultInfo) (clause : W32) (slot : Nat) (posted : Option Nat) : State :=
  let g := g.fillDbg clause slot
  let g := { g with dbg := { g.dbg with bkpt := f.code = 0x000F && (f.detail.extractLsb' 128 56).toNat < 0x100 } }
  if s.atDebugPort f then s.setGroup { g with status := .stopped none }
  else if posted.isSome then s.setGroup { g with status := .stopped posted }
  else
    let (s, q) := s.post (s.groupRecord g f clause slot 0 (.group g.uid))
    s.setGroup { g with status := .stopped (some q) }

/-- A group issues nothing more. -/
def State.rest (s : State) (g : Group) : State := { s with active := s.active.filter fun u => u ≠ g.uid }

/-- A group parks at its slot on a page-absent record (R144). -/
def State.parkGroup (s : State) (g : Group) (f : FaultInfo) (clause : W32) (slot : Nat) : State :=
  let (s, q) := s.post (s.groupRecord g f clause slot 0 (.group g.uid))
  (s.setGroup { g with status := .parked q }).rest g

/-- TAKING A FAULT, the one operation that every faulting slot uses (R421, R422): by its disposition the group stops
(after its pending results are in), parks, or its parcel ends.  A stop in the cycle in which the allowance runs out posts no record: the
abort wins (R428). -/
def State.takeFault (s : State) (g : Group) (f : FaultInfo) (clause : W32) (slot : Nat) (posted : Option Nat := none) : State :=
  match f.disposition with
  | .park => s.parkGroup g f clause slot
  | .ends => if posted.isSome then (s.setGroup g).endParcel g.parcel (some g.uid) else (s.setGroup g).faultEnds g f clause slot
  | .information => ((s.post (s.groupRecord g f clause slot 1 .nobody)).1).setGroup g
  | _ =>
      if (s.parcelOf g).due && !(s.parcelOf g).committed then (s.setGroup g).abortParcel g.parcel 4
      else if g.pending.isEmpty then (s.stopNow g f clause slot posted).rest g
      else (s.setGroup ({ g with status := .stopping (f.at s.time) posted }.fillDbg clause slot)).rest g

/-- A group takes a fault found after its slot (R427). -/
def State.takeLate (s : State) (g : Group) (f : LateFault) : State := s.takeFault g f.info f.clause f.slot f.posted

/-- The return from a stop (R422): the group goes on at instruction slot `slot` of its clause, with the latches of the
debug registers; `noMatch` keeps the breakpoint from matching that slot again. -/
def State.resumeGroup (s : State) (g : Group) (slot : Nat) (noMatch : Bool) : State :=
  match g.run with
  | none => s.setGroup { g with status := .ready }
  | some r =>
      let r := { r with idx := slot, latches := g.dbg.lat, valid := ~~~g.dbg.empty, noMatch := noMatch,
                        leaving := if r.words.length ≤ slot then some .next else none }
      { s.setGroup { g with status := .ready, run := some r } with active := s.active ++ [g.uid] }

/-- The resumption of a group that a breakpoint stopped: a BKPT slot is over, a matched slot is not matched again (R422, R430). -/
def State.resumeBreak (s : State) (g : Group) : State :=
  if g.dbg.bkpt then s.resumeGroup g (g.dbg.slot + 1) false else s.resumeGroup g g.dbg.slot true

/-! ## The end of a clause -/

/-- The next clause in storage order. -/
def ClauseRun.following (r : ClauseRun) : W32 := r.clause + BitVec.ofNat 32 ((Header.ofWord r.header).count.toNat + 2)

/-- Where the path goes, and the two paths of a divergence. -/
def Group.goto (g : Group) (w : Nat) (r : ClauseRun) (p : Path) : Goto → Group
  | .next => g.setPath r.path (some (p.reaches r.following))
  | .clause o => g.setPath r.path (some (p.reaches o))
  | .diverge t m jb =>
      let g := g.diverge w r.path p m t r.following jb
      let fix (k : PathSlot) (g : Group) : Group := match g.path? k with
        | some q => g.setPath k (some (q.reaches q.pc))
        | none => g
      fix .s1 (fix .s0 g)
  | .saved => g.setPath r.path (some { p with routine := .saved })
  | .restored => g.setPath r.path (some { p with routine := .none, safe := none, pc := p.home, iter := 0, body := none, qcnt := 0 })

/-- The arrivals after a clause: the path that issued it first, then the other side of a divergence (R39). -/
def Group.arrivals (g : Group) (w : Nat) (k : PathSlot) (both : Bool) : Except FaultInfo Joined :=
  match Group.arrive w (g.stack + 2) g k with
  | .error f => .error f
  | .ok (g, ms) =>
      if both then (Group.arrive w (g.stack + 2) g (otherSlot k)).map fun x => (x.1, ms ++ x.2) else .ok (g, ms)

/-- Arms of a group have joined into a path with mask `m`: its operations that are on their way for lanes of `m` come before what
follows in every lane of it (R400). -/
def State.joinOps (s : State) (u : Nat) (m : W64) : State :=
  { s with net := s.net.map fun o =>
      if decide (o.sender = .group u) && m.getLsbD o.lane then { o with seen := o.seen ||| m } else o }

/-- A path that goes on has to become ready anew (R34); the other path keeps its place. -/
def Group.unready (g : Group) (k : PathSlot) (both : Bool) : Group :=
  let f (p : Path) : Path := { p with ready := none, aged := false, waits := 0 }
  let g := g.setPath k ((g.path? k).map f)
  if both then g.setPath (otherSlot k) ((g.path? (otherSlot k)).map f) else g

/-- Whether the parcel of a group has been ended (R423). -/
def Parcel.isEnded (p : Parcel) : Bool := match p.state with | .ended _ => true | _ => false

/-- The group leaves its clause: it goes where the clause sends it, paths arrive, and a fault found after its slot stops
it here (R427).  After a divergence the taken side has the next turn, as in the example of R42
(DEDUCED, log entry 16) -/
def State.leaveClause (s : State) (g : Group) (r : ClauseRun) (dest : Goto) : State :=
  if (s.parcelOf g).isEnded then
    let (s, g) := s.dropAllRoles g
    (((s.setGroup { g.finish with buffer := [], pending := [] }).dropPrivate g.core g.uid).forgetGroups fun u => u = g.uid)
  else
    match g.path? r.path with
    | none => (s.setGroup { g with run := none }).rest g
    | some p =>
        let w := (s.launchOf g).hdr.privW
        let both := match dest with | .diverge .. => true | _ => false
        match (g.goto w r p dest).arrivals w r.path both with
        | .error f => s.takeFault g f r.clause r.idx
        | .ok (g, ms) =>
            let g := ms.foldl Group.joinPending g
            let s := ms.foldl (fun s m => s.joinOps g.uid m) s
            let g := (({ g with run := none, last := if both then otherSlot r.path else r.path } : Group).grow).unready r.path both
            match g.late.find? fun f => f.atBoundary with
            | some f => (s.rest g).takeLate { g with late := g.late.filter fun x => x ≠ f } f
            | none => (s.setGroup g).rest g

/-- A slot that stops: the group waits, parks or faults, or its parcel aborts. -/
def State.stopSlot (s : State) (g : Group) (st : Stop) : State :=
  let (clause, slot) := match g.run with
    | some r => (r.clause, r.idx)
    | none => (0, 0)
  match st with
  | .block w => (s.setGroup { g with status := .waiting w }).rest g
  | .park f => s.parkGroup g f clause slot
  | .trap f => s.takeFault g f clause slot
  | .late f => s.takeLate g f
  | .abort t => (s.setGroup g).abortParcel g.parcel t

/-- The quantum of a path that has issued 256 clauses ends before the path is split, merged or spilled (R50, R51); of one that goes
on as it is QUANTUM_CLAUSE_LIMIT ends it. (DEDUCED, log entry 32) -/
def Group.limitEnds (g : Group) (r : ClauseRun) (dest : Goto) : Bool :=
  match g.path? r.path with
  | some p => 256 ≤ p.qcnt && (match dest with
    | .next => (p.reaches r.following).arrives
    | .clause o => (p.reaches o).arrives
    | .diverge _ _ _ => true
    | .saved | .restored => false)
  | none => false

/-- The end of a clause: QEND ends a quantum after its last slot (R201), and then the group leaves. -/
def State.endClause (s : State) (g : Group) : State :=
  match g.run with
  | none => s.setGroup g
  | some r =>
      match r.leaving with
      | none => s.setGroup g
      | some dest =>
          let a := if ((Header.ofWord r.header).qend || g.limitEnds r dest) && !(s.parcelOf g).isEnded then s.quantumEnd g r.path else .ok s g
          match a with
          | .ok s g => s.leaveClause g r dest
          | .stop s g st => s.stopSlot g st

/-- The latch of an instruction slot (R67). -/
def ClauseRun.capture (r : ClauseRun) (t : Tbl W64) : ClauseRun :=
  let i := r.idx % 4
  { r with latches := Tbl.put [] r.latches i t, valid := r.valid ||| BitVec.ofNat 4 (2 ^ i) }

/-- The run after its slot is done. -/
def ClauseRun.advance (r : ClauseRun) (latch : Option (Tbl W64)) (goto : Option Goto) : ClauseRun :=
  let r := match latch with
    | some t => r.capture t
    | none => r
  let r := { r with idx := r.idx + 1, woken := false, noMatch := false }
  match goto with
  | some dest => { r with leaving := some dest }
  | none => if r.words.length ≤ r.idx then { r with leaving := some .next } else r

/-- A slot that captures a latch takes it from an earlier slot whose result is still to come. -/
def Group.takeLatch (g : Group) (r : ClauseRun) (latch : Option (Tbl W64)) : Group :=
  if latch.isNone then g
  else { g with pending := g.pending.map fun p =>
    if p.run = r.id && p.latch = some (r.idx % 4) && p.slot ≠ r.idx then { p with latch := none } else p }

/-- A slot that is done: its latch is captured and the clause goes on, or ends after its last slot. -/
def State.finishSlot (s : State) (g : Group) (latch : Option (Tbl W64)) (goto : Option Goto) : State :=
  match g.run with
  | none => s.setGroup g
  | some r =>
      let g := g.takeLatch r latch
      let r := r.advance latch goto
      let g := { g with run := some r }
      if r.leaving.isSome then s.endClause g else s.setGroup g

/-! ## Running a slot -/

/-- The group that is about to execute a slot: the first of the running ones. -/
def State.running (s : State) : Option Ctx :=
  match s.active with
  | [] => none
  | u :: _ =>
      match s.group? u with
      | none => none
      | some g =>
          if g.status ≠ .ready || !s.coreOn g.core then none
          else match g.run with
            | none => none
            | some r =>
                if r.leaving.isSome then none
                else (g.path? r.path).map fun p => { s := s, g := g, k := r.path, p := p, r := r }

/-- The lowest breakpoint that matches the next slot of a path (R429, R430). -/
def Ctx.breakpoint (c : Ctx) : Option Nat :=
  let hit (n : Nat) : Bool :=
    let b := Tbl.get 0 (c.s.core c.g.core).bps n
    b.getLsbD 0 && (b.extractLsb' 54 4).toNat = c.r.idx && b.extractLsb' 64 32 = c.r.clause
      && (b.extractLsb' 58 6).toNat = c.vf && (b.getLsbD 2 || b.extractLsb' 22 32 = c.launch.num)
      && (!b.getLsbD 1 || b.extractLsb' 96 32 = c.p.iter)
  if c.r.noMatch || !c.s.debugOn c.vf then none else (span 0 8).find? hit

/-- How one slot changes the state. -/
def slotEnd : Slot → State
  | .done s g latch goto => s.finishSlot g latch goto
  | .stop s g r => s.stopSlot g r

/-- Runs one slot: the breakpoint match comes first (R426), then the slot's own meaning.  A state in which no group is
about to execute a slot is left as it is. -/
def runSlot (s : State) (body : Ctx → Slot) : Host.Outcome State Fault Refusal :=
  match s.running with
  | none => .next s
  | some c =>
      match c.breakpoint with
      | some n => .next (slotEnd (c.trap (.mk' 0x000F 0 (0x100 + n))))
      | none => .next (slotEnd (body c))

end Sys2Proof.Machine
end

