-- ==== Sys2Proof/Machine/Operands.lean ====
section
/-!
DEFINITION. The operand forms of a slot: the checks of its fields, its sources (with queue pops), its destinations (with
write masks and queue pushes), and the latch it captures (R59, R61, R67, R69, R110 to R112, R203, R245, R263).
-/
namespace Sys2Proof.Machine
open Sys2Proof

/-! ## The kinds that a field accepts -/

structure Kinds where
  v : Bool
  s : Bool
  l : Bool
  q : Bool
  deriving DecidableEq, Repr

namespace Kinds
def vslq : Kinds := ⟨true, true, true, true⟩
def slq : Kinds := ⟨false, true, true, true⟩
def vsq : Kinds := ⟨true, true, false, true⟩
def vq : Kinds := ⟨true, false, false, true⟩
def sq : Kinds := ⟨false, true, false, true⟩
def vsl : Kinds := ⟨true, true, true, false⟩
def vl : Kinds := ⟨true, false, true, false⟩
def vlq : Kinds := ⟨true, false, true, true⟩
def vs : Kinds := ⟨true, true, false, false⟩
def sl : Kinds := ⟨false, true, true, false⟩
def onlyV : Kinds := ⟨true, false, false, false⟩
def onlyS : Kinds := ⟨false, true, false, false⟩
def onlyQ : Kinds := ⟨false, false, false, true⟩
end Kinds

/-- A field that a slot uses: the bit position of the field, the operand, the kinds it accepts, and how many consecutive
registers it names. -/
structure Use where
  pos : Nat
  op  : Operand
  k   : Kinds
  n   : Nat := 1
  deriving DecidableEq, Repr

/-- The illegal-operand fault of a field (R203, R425): reserved, kind not accepted, beyond the allotment. -/
def Use.fault (g : Group) (u : Use) : Option FaultInfo :=
  let bad (c : Nat) : Option FaultInfo := some (illegalOperand c u.pos u.op.code.toNat)
  match u.op with
  | .reserved _ => bad 1
  | .v r => if !u.k.v then bad 3 else if g.allot < r.toNat + u.n then bad 2 else none
  | .s r => if !u.k.s then bad 3 else if 64 < r.toNat + u.n then bad 2 else none
  | .l _ => if u.k.l then none else bad 3
  | .q _ => if u.k.q then none else bad 3

def Use.queue? (u : Use) : Option Nat := match u.op with | .q r => some r.toNat | _ => none

/-- The first `n` source fields of the V-form, and its destination field. -/
def usesOf (f : VForm) (n : Nat) (k : Kinds) : List Use :=
  ([⟨27, f.sa, k, 1⟩, ⟨18, f.sb, k, 1⟩, ⟨9, f.sc, k, 1⟩] : List Use).take n
def dstOf (f : VForm) (k : Kinds) : Use := ⟨36, f.dst, k, 1⟩

/-! ## Queue bindings -/

def bindValid (b : BitVec 16) : Bool := b.getLsbD 15
def bindOut (b : BitVec 16) : Bool := b.getLsbD 14
def bindPort (b : BitVec 16) : Nat := (b.extractLsb' 8 6).toNat
def bindInst (b : BitVec 16) : Nat := (b.extractLsb' 0 8).toNat

/-- A pop needs a binding with DIR 1 (R69). -/
def Group.popFault (g : Group) (q : Nat) : Option FaultInfo :=
  let b := (g.queue q).binding
  if bindValid b && bindOut b then none else some (queueBinding q b)

/-- The queue register of the group that is bound to an output port and instance (R112). -/
def Group.outputAt (g : Group) (port inst : Nat) : Option Nat :=
  (span 0 16).find? fun n =>
    let b := (g.queue n).binding
    bindValid b && bindOut b && bindPort b = port && bindInst b = inst

/-- A push of an opcode that feeds input port `port` (0x01 for a plain push): the binding has DIR 0 and that port, and
where the engine produces results its output is bound (R69, R112).  The reuse engine (0x07) produces none. -/
def Group.pushFault (g : Group) (q port : Nat) : Option FaultInfo :=
  let b := (g.queue q).binding
  if bindValid b && !bindOut b && bindPort b = port
      && (port = 7 || (g.outputAt (port + 1) (bindInst b)).isSome) then none
  else some (queueBinding q b)

def Group.queueFull (g : Group) (q : Nat) : Bool := Config.queueDepth ≤ (g.queue q).entries.length

def Group.pushEntry (g : Group) (q : Nat) (x : QEntry) : Group :=
  let y := g.queue q
  g.setQueue q { y with entries := y.entries ++ [x] }

/-- The oldest entry of a queue taken. -/
def Group.popEntry (g : Group) (q : Nat) : Option (Group × QEntry) :=
  let y := g.queue q
  match y.entries with
  | [] => none
  | x :: xs => some (g.setQueue q { y with entries := xs }, x)

/-- What an entry gives each lane (R110). -/
def QEntry.at (x : QEntry) (l : Nat) : W64 := if x.scalar then Tbl.get 0 x.vals 0 else Tbl.get 0 x.vals l

def QEntry.ofScalar (x : W64) : QEntry :=
  { scalar := true, mask := 0, vals := Tbl.put 0 [] 0 x, cmd := none, semv := false, sem := 0, inc := 0, clause := 0, slot := 0 }

/-- The lanes' values of `m` as a table. -/
def laneTbl (m : W64) (f : Nat → W64) : Tbl W64 := ((lanes m).map fun l => (l, f l)).filter fun e => e.2 ≠ 0

def QEntry.ofLanes (m : W64) (f : Nat → W64) : QEntry :=
  { scalar := false, mask := m, vals := laneTbl m f, cmd := none, semv := false, sem := 0, inc := 0, clause := 0, slot := 0 }

/-! ## Sources -/

/-- What a source gives each lane. -/
abbrev Src := Nat → W64

/-- The value of a latch for a lane. -/
def ClauseRun.latch (r : ClauseRun) (n l : Nat) : W64 := Tbl.get 0 (Tbl.get [] r.latches n) l

/-- Reads the sources in turn, popping queues in the order of the fields (R69); an empty queue is the error. -/
def takeSources (r : ClauseRun) : Group → List Use → Except Nat (Group × List Src)
  | g, [] => .ok (g, [])
  | g, u :: us =>
      let rest (g : Group) (x : Src) : Except Nat (Group × List Src) :=
        match takeSources r g us with
        | .ok (g, xs) => .ok (g, x :: xs)
        | .error q => .error q
      match u.op with
      | .v n => rest g fun l => g.vreg n.toNat l
      | .s n => rest g fun _ => g.sreg n.toNat
      | .l n => rest g fun l => r.latch n.toNat l
      | .q n =>
          (match g.popEntry n.toNat with
          | none => .error n.toNat
          | some (g, x) => rest g x.at)
      | .reserved _ => rest g fun _ => 0

/-- The first source that is an empty latch (R426). -/
def latchFault (r : ClauseRun) (us : List Use) : Option FaultInfo :=
  us.findSome? fun u => match u.op with
    | .l n => if r.valid.getLsbD n.toNat then none else some (latchEmpty n.toNat)
    | _ => none

/-- The first source that is a queue not bound to an output (R69). -/
def popsFault (g : Group) (us : List Use) : Option FaultInfo :=
  us.findSome? fun u => match u.op with | .q n => g.popFault n.toNat | _ => none

/-- The ports that take their commands only from their own opcodes (R112). -/
def ownPorts : List Nat := [0x03, 0x05, 0x07, 0x08, 0x0A, 0x0C, 0x0E]

/-- A slot whose destination names a queue bound to such a port of another opcode faults, whether it writes or not (R112). -/
def Group.portFault (g : Group) (q port : Nat) : Option FaultInfo :=
  let b := (g.queue q).binding
  if bindValid b && !bindOut b && ownPorts.contains (bindPort b) && bindPort b ≠ port then some (queueBinding q b) else none

/-- The sources before any queue is popped; a queue source shows 0. -/
def peekSources (g : Group) (r : ClauseRun) (us : List Use) : List Src :=
  us.map fun u => match u.op with
    | .v n => fun l => g.vreg n.toNat l
    | .s n => fun _ => g.sreg n.toNat
    | .l n => fun l => r.latch n.toNat l
    | _ => fun _ => 0

/-- The sources as the slot would read them; where a queue is empty, so that the slot blocks, queue sources show 0. -/
def foreseen (g : Group) (r : ClauseRun) (us : List Use) : List Src :=
  match takeSources r g us with
  | .ok (_, xs) => xs
  | .error _ => peekSources g r us

/-- Whether a pending write meets the latch that a slot captures (R263, R281). -/
def Pending.latches (p : Pending) (r : ClauseRun) : Bool := p.run = r.id && p.latch = some (r.idx % 4)

/-- Whether a pending write meets an operand (R263, R281). -/
def Pending.meets (p : Pending) (run : Nat) (u : Use) : Bool :=
  match u.op, p.dst with
  | .v r, .vregs a n => a < r.toNat + u.n && r.toNat < a + n
  | .s r, .sreg a => r.toNat ≤ a && a < r.toNat + u.n
  | .q r, .queue a => a = r.toNat
  | .l r, _ => p.run = run && p.latch = some r.toNat
  | _, _ => false

/-- A fault of a card or a matrix operation that the next pop of its status binding delivers (R194, R313). -/
def Group.lateAt (g : Group) (us : List Use) : Option LateFault :=
  us.findSome? fun u => match u.op with
    | .q n => g.late.find? fun f => f.queue = some n.toNat
    | _ => none

/-- The lowest lane that reads a poisoned register block (R106). -/
def Group.badRead (g : Group) (e : W64) (us : List Use) : Option FaultInfo :=
  if g.badRegs.isEmpty then none
  else (lanes e).findSome? fun l =>
    if us.any fun u => match u.op with
        | .v r => (span (r.toNat / 8) ((r.toNat + u.n - 1) / 8 - r.toNat / 8 + 1)).any fun b => g.badRegs.contains (64 * b + l)
        | _ => false
    then some (poisonFault 3 l 0) else none

/-! ## The common beginning of a slot -/

/-- The context with a new state and group. -/
def Ctx.put (c : Ctx) (s : State) (g : Group) : Ctx := { c with s := s, g := g, p := (g.path? c.k).getD c.p }

/-- How a slot begins: whether a queue operand ends the quantum with no lane enabled too (R245, R276), whether the slot
ends it anyway, as a fence of its scope before it issues (R278) or as an access to a queue register (R50), the input port that a
queue destination must be bound to, an operand check that needs no operand value, and one on the values of the operands. -/
structure Start where
  always : Bool := true
  fence  : Bool := false
  access : Bool := false
  port   : Nat := 1
  pre    : Option FaultInfo := none
  check  : List Src → Option FaultInfo := fun _ => none

/-- A slot whose quantum ended for a queue operand, not as a fence, and that then faults has no effect: its buffered stores stay
uncommitted (R421, R422). -/
def Slot.precise (r : Slot) (c : Ctx) (b : Bool) : Slot :=
  match r with
  | .stop _ _ (.trap f) => if b then c.trap f else r
  | _ => r

/-- A slot with the executing lanes `e`, the destination fields and the source fields (R245, R276, R426).  With no lane enabled
the slots of R276 have no effect, and those of R245 check their operands and capture 0 if they have a result.  Kinds are checked
first; the entry's operand checks, latches and bindings follow; then a queue operand or a fence ends the quantum, and a queue that
is not ready blocks the slot.  `body` gets the context, the group after the pops, and the sources. (DEDUCED, log entry 30) -/
def Ctx.enter (c : Ctx) (o : Start) (e : W64) (nw : Bool) (dsts srcs : List Use) (captures : Bool)
    (body : Ctx → Group → List Src → Slot) : Slot :=
  let uses := dsts ++ srcs
  let empty : State → Group → Slot := fun s g => .done s g (if captures then some [] else none) none
  if e = 0 && !o.always then empty c.s c.g
  else match uses.findSome? (Use.fault c.g) with
  | some f => c.trap f
  | none =>
      let queues := uses.any fun u => u.queue?.isSome
      let ends (b : Bool) (f : State → Group → Slot) : Slot :=
        if b then (c.s.quantumEnd c.g c.k).slot fun s g => (f s g).precise c !o.fence else f c.s c.g
      if captures && c.g.pending.any fun p => p.latches c.r then c.block .write
      else if e = 0 then ends queues empty
      else
        let push := dsts.findSome? fun u => u.queue?.bind fun q => if nw then c.g.portFault q o.port else c.g.pushFault q o.port
        match o.pre.or (latchFault c.r srcs) with
        | some f => c.trap f
        | none =>
            if c.g.pending.any fun p => uses.any fun u => p.meets c.r.id u then c.block .write
            else match (o.check (foreseen c.g c.r srcs)).or ((popsFault c.g srcs).or push) with
            | some f => c.trap f
            | none => match c.g.lateAt srcs with
              | some f => .stop c.s { c.g with late := c.g.late.filter fun x => x ≠ f } (.late f)
              | none => ends (o.fence || o.access || queues) fun s g =>
                  match (if nw then none else dsts.findSome? fun u => u.queue?.bind fun q =>
                      if g.queueFull q then some q else none) with
                  | some q => .stop s g (.block (.queue q))
                  | none =>
                      match takeSources c.r g srcs with
                      | .error q => .stop s g (.block (.queue q))
                      | .ok (h, xs) =>
                          match g.badRead e srcs with
                          | some f => .stop s g (.trap f)
                          | none => body (c.put s g) h xs

/-- The beginning of an ALU, SFU or control slot. (DEDUCED, log entry 30) -/
def Ctx.entry (c : Ctx) (e : W64) (nw : Bool) (dsts srcs : List Use) (captures : Bool)
    (body : Ctx → Group → List Src → Slot) : Slot := c.enter {} e nw dsts srcs captures body

/-! ## Destinations -/

/-- A result: a value for each lane of E, or one value for the path. -/
inductive Res where
  | lanes (t : Tbl W64)
  | one (x : W64)
  deriving DecidableEq, Repr

def Res.at (r : Res) (l : Nat) : W64 := match r with | .lanes t => Tbl.get 0 t l | .one x => x

/-- The lanes of E whose destination a slot writes, and those that it sets to zero (R59, R211). -/
def Ctx.writes (c : Ctx) (g : Group) (p : Pfx) (e : W64) : W64 × W64 :=
  if p.wm = 0 then (e, 0)
  else
    let m := g.kreg c.p.mask p.wm.toNat
    (e &&& m, if p.zpol then e &&& ~~~m else 0)

/-- Writes v[r] in the lanes of `m`. -/
def Group.writeLanes (g : Group) (r : Nat) (m : W64) (f : Nat → W64) : Group :=
  (lanes m).foldl (fun g l => g.setVreg r l (f l)) g

/-- Writes v[r] under the write mask of the word before the slot. -/
def Ctx.writeV (c : Ctx) (g : Group) (p : Pfx) (e : W64) (r : Nat) (f : Nat → W64) : Group :=
  let (w, z) := c.writes g p e
  (g.writeLanes r w f).writeLanes r z fun _ => 0

/-- One value held in every lane's entry of a latch. -/
def Ctx.spread (c : Ctx) (x : W64) : Tbl W64 := laneTbl (lowMask c.g.width) fun _ => x

/-- The latch of a result (R67). (DESIGN CHOICE, log entry 29) -/
def Ctx.latchOf (c : Ctx) (e : W64) : Res → Tbl W64
  | .lanes t => laneTbl e fun l => Tbl.get 0 t l
  | .one x => c.spread x

/-- Writes a result to a destination operand; `vec` makes a queue entry a vector entry (R245). -/
def Ctx.write (c : Ctx) (g : Group) (e : W64) (dst : Operand) (p : Pfx) (vec : Bool) (r : Res) : Group :=
  match dst with
  | .v n => c.writeV g p e n.toNat r.at
  | .s n => g.setSreg n.toNat (match r with | .one x => x | .lanes t => Tbl.get 0 t ((lowest e).getD 0))
  | .q n =>
      let x := match r with
        | .one x => if vec then QEntry.ofLanes e fun _ => x else QEntry.ofScalar x
        | .lanes t => QEntry.ofLanes e fun l => Tbl.get 0 t l
      g.pushEntry n.toNat { x with clause := c.r.clause, slot := c.r.idx }
  | _ => g

/-- The end of a slot with a result. -/
def Ctx.result (c : Ctx) (g : Group) (e : W64) (dst : Operand) (nw : Bool) (p : Pfx) (vec : Bool) (r : Res) : Slot :=
  .done c.s (if nw then g else c.write g e dst p vec r) (some (c.latchOf e r)) none

end Sys2Proof.Machine
end

