-- ==== Sys2Proof/Machine/Sfu.lean ====
section
/-!
DEFINITION. The special functions (R261, R262).  Reciprocal, square root and division are rounded exactly.  The other
functions are computed far beyond any format: FP16 and BF16 results are the rounding of that, and an FP32 result (or an
FP64 reciprocal square root) is any pattern inside the bound that the manual gives.
-/
namespace Sys2Proof.Machine
open Sys2Proof

/-! ## Fixed point with 256 fraction bits -/

def fxOne : Nat := 2 ^ 256
def fxMul (a b : Nat) : Nat := (a * b) >>> 256
def fxLn2 : Nat := 0xb17217f7d1cf79abc9e3b39803f2f6af40f343267298b62d8a0d175b8baafa2b
def fxTwoPi : Nat := 0x6487ed5110b4611a62633145c06e0e68948127044533e63a0105df531d89cd912
def fxTwoOverSqrtPi : Nat := 0x120dd750429b6d11ae3a914fed7fd8688281341d7587cea2e7342b06199cc4161

/-- 1 + z/(k+c) · (1 + z/(k+1+c) · (…)), `n` terms. -/
def fxPower (z c : Nat) : Nat → Nat → Nat
  | 0, _ => fxOne
  | n + 1, k => fxOne + fxMul z (fxPower z c n (k + 1)) / (k + c)

/-- e^z for 0 ≤ z. -/
def fxExp (z n : Nat) : Nat := fxPower z 1 n 0

/-- (e^z − 1) / z. -/
def fxExpm1 (z n : Nat) : Nat := fxPower z 2 n 0

/-- sin θ / θ as a series in θ². -/
def fxSinc (z : Nat) : Nat → Nat → Nat
  | 0, _ => fxOne
  | n + 1, k => fxOne - fxMul z (fxSinc z n (k + 1)) / ((2 * k + 2) * (2 * k + 3))

/-- Σ z^k / (2k + 1). -/
def fxAtanh (z : Nat) : Nat → Nat → Nat
  | 0, _ => 0
  | n + 1, k => fxOne / (2 * k + 1) + fxMul z (fxAtanh z n (k + 1))

/-- Σ (2z)^k / (1 · 3 ⋯ (2k + 1)). -/
def fxErf (z : Nat) : Nat → Nat → Nat
  | 0, _ => fxOne
  | n + 1, k => fxOne + fxMul (2 * z) (fxErf z n (k + 1)) / (2 * k + 3)

/-- m × 2^e in fixed point, rounded down. -/
def fxOf (m : Nat) (e : Int) : Nat := if 0 ≤ e + 256 then m <<< (e + 256).toNat else m >>> (-(e + 256)).toNat

/-- A value just below 1. -/
def belowOne (neg : Bool) : Val := sticky neg (2 ^ 90 - 1) (-90) true

/-- 2^(±m × 2^e), m > 0. -/
def exp2Val (neg : Bool) (m : Nat) (e : Int) : Val :=
  let big := if 0 ≤ e then m <<< (min e 20).toNat else m >>> (-e).toNat
  let whole := 0 ≤ e || m % 2 ^ (-e).toNat = 0
  if 100000 < big then (if neg then .fin false 1 (-100000) else .fin false 1 100000)
  else if whole then .fin false 1 (if neg then -(big : Int) else big)
  else
    let x : Int := fxOf m e
    let x := if neg then -x else x
    sticky false (fxExp (fxMul (x % fxOne).toNat fxLn2) 60 ) (x / fxOne - 256) true

/-- log2(m × 2^e), m > 0. -/
def log2Val (m : Nat) (e : Int) : Val :=
  let l := Nat.log2 m
  let p := 2 ^ l
  let whole : Int := e + l
  if m = p then .fin (whole < 0) whole.natAbs 0
  else
    let z := ((m - p) <<< 256) / (m + p)
    let ln := 2 * fxMul z (fxAtanh (fxMul z z) 85 0)
    let t : Int := whole * fxOne + ((ln <<< 256) / fxLn2 : Nat)
    sticky (t < 0) t.natAbs (-256) true

/-- sin(2π r / 2^k) for 0 ≤ r ≤ 2^k / 4. -/
def sinQuarter (neg : Bool) (r k : Nat) : Val :=
  if r = 0 then .fin neg 0 0
  else if 4 * r = 2 ^ k then .fin neg 1 0
  else
    let th := fxMul (fxOf r (-(k : Int))) fxTwoPi
    sticky neg (r * fxMul fxTwoPi (fxSinc (fxMul th th) 45 0)) (-(k : Int) - 256) true

/-- sin(2π a) for a = ±m × 2^e, with `turn` quarter turns added (1 for the cosine). -/
def sinVal (neg : Bool) (m : Nat) (e : Int) (turn : Nat) : Val :=
  let k : Nat := (-e).toNat + 2
  let n := 2 ^ k
  let r := (if 0 ≤ e then 0 else 4 * m) % n
  let r := (if neg then n - r else r) % n
  let r := (r + turn * (n / 4)) % n
  let half := n / 2
  let low := r % half
  let r' := if half < 2 * low then half - low else low
  sinQuarter (half ≤ r) r' k

/-- tanh(±m × 2^e), m > 0; just below a value that is less than 2^-64. -/
def tanhVal (neg : Bool) (m : Nat) (e : Int) : Val :=
  if 64 * fxOne ≤ fxOf m (min e 64) then belowOne neg
  else if (Nat.log2 m : Int) + e < -64 then sticky neg (m * 2 ^ 90 - 1) (e - 90) true
  else
    let x := fxOf m e
    let ex := fxExpm1 (2 * x) 500
    quotient neg (m * ex) (e - 256) (fxOne + fxMul x ex) (-256)

/-- erf(±m × 2^e), m > 0. -/
def erfVal (neg : Bool) (m : Nat) (e : Int) : Val :=
  if 7 * fxOne ≤ fxOf m (min e 64) then belowOne neg
  else
    let x := fxOf m e
    let z := fxMul x x
    quotient neg (m * fxMul fxTwoOverSqrtPi (fxErf z 300 0)) (e - 256) (fxExp z 300) (-256)

/-! ## The bounds of R261 -/

def Val.abs : Val → Val
  | .fin _ m e => .fin false m e
  | .inf _ => .inf false
  | .nan => .nan

/-- `n` ulp of the format at the value `y`. -/
def ulps (F : Fmt) (n : Nat) (y : Val) : Val :=
  match y with
  | .fin _ m e =>
      let least : Int := 1 - (F.bias : Int) - F.f
      .fin false n (if m = 0 then least else max ((Nat.log2 m : Int) + e - F.f) least)
  | _ => .fin false 0 0

def maxVal (a b : Val) : Val := if (a.cmp b).getD 0 < 0 then b else a

/-- The pattern of the next value above a finite pattern. -/
def nextUp (F : Fmt) (c : Nat) : Nat :=
  let top := 2 ^ (F.w - 1)
  if c < top then c + 1 else if c = top then 1 else c - 1

/-- The distance of a pattern from `y` is at most `bound`. -/
def withinBound (F : Fmt) (y bound : Val) (c : Nat) : Bool :=
  match ((Val.of F false c).add .rne y.neg).abs.cmp bound with
  | some o => o ≤ 0 && !(Val.of F false c).isNan
  | none => false

/-- The rounding mode selects between two neighbouring patterns around `y` (R172, R261). -/
def selectNeighbour (F : Fmt) (rm : Rnd) (y : Val) (lo hi : Nat) : Nat :=
  let dist (c : Nat) : Val := ((Val.of F false c).add .rne y.neg).abs
  let nearer := match (dist lo).cmp (dist hi) with
    | some o => if o < 0 then lo else if 0 < o then hi else if lo % 2 = 0 then lo else hi
    | none => lo
  match rm with
  | .rdn => lo
  | .rup => hi
  | .rtz => if lo < 2 ^ (F.w - 1) then lo else hi
  | .rne => nearer

/-- The result of a bounded function: the rounding of `y` in FP16 and BF16, else the one that the rounding mode selects of the
hardware's two neighbours where both lie within `bound` of `y`, and the rounding of `y` where they do not.
(DESIGN CHOICE, log entry 7) -/
def boundedResult (code : Nat) (t : ElemType) (fe : FEnv) (a : Nat) (y bound : Val) : Nat :=
  let F := fmtOf t
  let r := y.enc F fe.rm fe.subn
  if t = .f16 || t = .bf16 then r
  else
    let lo := (Config.sfuPattern code a fe.subn).toNat % 2 ^ F.w
    let hi := nextUp F lo
    if withinBound F y bound lo && withinBound F y bound hi then flushed t fe (selectNeighbour F fe.rm y lo hi) else r

/-- An exact or special result. (DESIGN CHOICE, log entry 7) -/
def sfuExact (t : ElemType) (fe : FEnv) (ops : List Nat) (v : Val) : El := floatResult t fe ops v

def elRcp (t : ElemType) (fe : FEnv) (a : Nat) : El :=
  sfuExact t fe [a] (match opVal t fe a with
    | .nan => .nan
    | .inf n => .fin n 0 0
    | .fin n m e => if m = 0 then .inf n else quotient n 1 0 m e)

def elFdiv (t : ElemType) (fe : FEnv) (a b : Nat) : El :=
  sfuExact t fe [a, b] (match opVal t fe a, opVal t fe b with
    | .nan, _ => .nan
    | _, .nan => .nan
    | .inf _, .inf _ => .nan
    | .inf x, .fin y _ _ => .inf (x != y)
    | .fin x _ _, .inf y => .fin (x != y) 0 0
    | .fin x m e, .fin y n f =>
        if n = 0 then (if m = 0 then .nan else .inf (x != y)) else quotient (x != y) m e n f)

def elSqrt (t : ElemType) (fe : FEnv) (a : Nat) : El :=
  sfuExact t fe [a] (match opVal t fe a with
    | .nan => .nan
    | .inf n => if n then .nan else .inf false
    | .fin n m e => if m = 0 then .fin n 0 0 else if n then .nan else squareRoot m e)

def elRsq (t : ElemType) (fe : FEnv) (a : Nat) : El :=
  match opVal t fe a with
  | .fin false m e =>
      if m = 0 then sfuExact t fe [a] (.inf false)
      else
        let y := squareRoot m e
        let y := match y with | .fin _ m' e' => quotient false 1 0 m' e' | v => v
        .of (boundedResult 0x41 t fe a y (ulps (fmtOf t) 1 y))
  | .fin true m _ => sfuExact t fe [a] (if m = 0 then .inf true else .nan)
  | .inf n => sfuExact t fe [a] (if n then .nan else .fin false 0 0)
  | .nan => sfuExact t fe [a] .nan

def elExp2 (t : ElemType) (fe : FEnv) (a : Nat) : El :=
  match opVal t fe a with
  | .nan => sfuExact t fe [a] .nan
  | .inf n => sfuExact t fe [a] (if n then .fin false 0 0 else .inf false)
  | .fin n m e =>
      let y := if m = 0 then .fin false 1 0 else exp2Val n m e
      let exact := m = 0 || 0 ≤ e || m % 2 ^ (-e).toNat = 0
      if exact then sfuExact t fe [a] y
      else .of (boundedResult 0x43 t fe a y (ulps (fmtOf t) 2 y))

def elLog2 (t : ElemType) (fe : FEnv) (a : Nat) : El :=
  match opVal t fe a with
  | .nan => sfuExact t fe [a] .nan
  | .inf n => sfuExact t fe [a] (if n then .nan else .inf false)
  | .fin n m e =>
      if m = 0 then sfuExact t fe [a] (.inf true)
      else if n then sfuExact t fe [a] .nan
      else
        let x := Val.fin false m e
        if x.cmp (.fin false 1 0) = some 0 then sfuExact t fe [a] (.fin false 0 0)
        else
          let y := log2Val m e
          let inside := (x.cmp (.fin false 1 (-1))).getD 0 ≥ 0 && (x.cmp (.fin false 2 0)).getD 0 ≤ 0
          .of (boundedResult 0x44 t fe a y (if inside then .fin false 1 (-22) else ulps (fmtOf t) 2 y))

/-- Whether ±m × 2^e is a multiple of one half. -/
def halfMultiple (m : Nat) (e : Int) : Bool := -1 ≤ e || m % 2 ^ (-e - 1).toNat = 0

def elSin (t : ElemType) (fe : FEnv) (a : Nat) : El :=
  match opVal t fe a with
  | .fin n m e =>
      if halfMultiple m e then sfuExact t fe [a] (.fin n 0 0)
      else .of (boundedResult 0x45 t fe a (sinVal n m e 0) (.fin false 1 (-22)))
  | _ => sfuExact t fe [a] .nan

/-- (DESIGN CHOICE, log entry 8) -/
def elCos (t : ElemType) (fe : FEnv) (a : Nat) : El :=
  match opVal t fe a with
  | .fin n m e =>
      if halfMultiple m e then sfuExact t fe [a] (if m = 0 then .fin false 1 0 else sinVal n m e 1)
      else
        let y := match sinVal n m e 1 with
          | .fin s m' e' => Val.fin (if m' = 0 then Config.cosZeroNegative t.code.toNat a else s) m' e'
          | v => v
        .of (boundedResult 0x46 t fe a y (.fin false 1 (-22)))
  | _ => sfuExact t fe [a] .nan

/-- tanh and erf: odd, ±1 at the infinities, within 2 ulp or 2^−24. -/
def elSaturating (code : Nat) (f : Bool → Nat → Int → Val) (t : ElemType) (fe : FEnv) (a : Nat) : El :=
  match opVal t fe a with
  | .nan => sfuExact t fe [a] .nan
  | .inf n => sfuExact t fe [a] (.fin n 1 0)
  | .fin n m e =>
      let y := if m = 0 then .fin n 0 0 else f n m e
      .of (boundedResult code t fe a y (maxVal (ulps (fmtOf t) 2 y) (.fin false 1 (-24))))

def elTanh : ElemType → FEnv → Nat → El := elSaturating 0x48 tanhVal
def elErf : ElemType → FEnv → Nat → El := elSaturating 0x49 erfVal

end Sys2Proof.Machine
end

