-- ==== Sys2Proof/Machine/Flags.lean ====
section
/-!
DEFINITION. Mask results and the reports of a slot's arithmetic: the runners of element-wise slots, the NaN trap (R192 to
R195), and writes of k1 to k7 (R66, R254).
-/
namespace Sys2Proof.Machine
open Sys2Proof

/-! ## The NaN trap -/

/-- DETAIL of the NaN trap of an ALU or SFU slot (R195): engine 1 or 2, the sub-element, the cause and OPVAL. -/
def nanTrap (engine lane sub cause opval : Nat) : FaultInfo :=
  { code := 0x0010, lane := lane, addr := 0,
    detail := BitVec.ofNat 192 (engine * 2 ^ 184 + sub % 16 * 2 ^ 180 + 15 * 2 ^ 176 + cause % 4 * 2 ^ 158
      + (if cause = 0 then 0 else opval % 2 ^ 64)) }

/-- The lowest sub-element of a result that is a NaN: its index, cause and OPVAL. -/
def firstNan : Nat → List El → Option (Nat × Nat × Nat)
  | _, [] => none
  | j, x :: xs => match x.nan with
    | some (c, o) => some (j, c, o)
    | none => firstNan (j + 1) xs

/-- The NaN trap of the lowest lane with a NaN result (R193). -/
def laneNan (engine : Nat) : List (Nat × List El) → Option FaultInfo
  | [] => none
  | (l, xs) :: rest => match firstNan 0 xs with
    | some (j, c, o) => some (nanTrap engine l j c o)
    | none => laneNan engine rest

/-- The register of a list of elements. -/
def elReg (t : ElemType) (xs : List El) : W64 := BitVec.ofNat 64 (packElems t (xs.map fun x => x.bits))

/-! ## Element-wise slots (R246) -/

/-- The elements of a result, for sources of the same packing. -/
def mapElems (t : ElemType) (op : List Nat → El) (xs : List W64) : List El :=
  (span 0 t.count).map fun j => op (xs.map fun x => elem t x j)

/-- A vector slot whose result in each lane is a list of elements of type `t`; `srcs` are its source fields. -/
def Ctx.laneSlot (c : Ctx) (f : VForm) (engine : Nat) (t : ElemType) (srcs : List Use) (op : FEnv → List W64 → List El) :
    Slot :=
  let e := c.enabled f.pg f.pn
  c.entry e f.nw [dstOf f .vq] srcs true fun c g xs =>
    let fe := c.fenv f.pfx
    let rows := (lanes e).map fun l => (l, op fe (xs.map fun x => x l))
    match if fe.nant then laneNan engine rows else none with
    | some x => c.trap x
    | none => c.result g e f.dst f.nw f.pfx true (.lanes (rows.map fun r => (r.1, elReg t r.2)))

/-- A scalar slot in the same way: once for the path, with the lowest lane of E for a source that has one value per
lane (R61). -/
def Ctx.pathSlot (c : Ctx) (f : VForm) (t : ElemType) (srcs : List Use) (op : FEnv → List W64 → List El) : Slot :=
  let e := c.enabled f.pg f.pn
  c.entry e f.nw [dstOf f .sq] srcs true fun c g xs =>
    let fe := c.fenv f.pfx
    let l := (lowest e).getD 0
    let row := op fe (xs.map fun x => x l)
    match if fe.nant then laneNan 1 [(l, row)] else none with
    | some x => c.trap x
    | none => c.result g e f.dst f.nw f.pfx false (.one (elReg t row))

/-- An element-wise vector slot of `n` sources. -/
def Ctx.vecElems (c : Ctx) (f : VForm) (n : Nat) (op : FEnv → List Nat → El) : Slot :=
  c.laneSlot f 1 f.ty (usesOf f n .vslq) fun fe xs => mapElems f.ty (op fe) xs

/-- An element-wise scalar slot of `n` sources. -/
def Ctx.scalElems (c : Ctx) (f : VForm) (n : Nat) (op : FEnv → List Nat → El) : Slot :=
  c.pathSlot f f.ty (usesOf f n .slq) fun fe xs => mapElems f.ty (op fe) xs

/-- A slot on whole 64-bit patterns. -/
def Ctx.vecWhole (c : Ctx) (f : VForm) (n : Nat) (op : List W64 → W64) : Slot :=
  let e := c.enabled f.pg f.pn
  c.entry e f.nw [dstOf f .vq] (usesOf f n .vslq) true fun c g xs =>
    c.result g e f.dst f.nw f.pfx true (.lanes (laneTbl e fun l => op (xs.map fun x => x l)))
def Ctx.scalWhole (c : Ctx) (f : VForm) (n : Nat) (op : List W64 → W64) : Slot :=
  let e := c.enabled f.pg f.pn
  c.entry e f.nw [dstOf f .sq] (usesOf f n .slq) true fun c g xs =>
    let l := (lowest e).getD 0
    c.result g e f.dst f.nw f.pfx false (.one (op (xs.map fun x => x l)))

/-- One, two and three elements of a list of operands. -/
def op1 (f : Nat → El) (xs : List Nat) : El := match xs with | [a] => f a | _ => .of 0
def op2 (f : Nat → Nat → El) (xs : List Nat) : El := match xs with | [a, b] => f a b | _ => .of 0
def op3 (f : Nat → Nat → Nat → El) (xs : List Nat) : El := match xs with | [a, b, c] => f a b c | _ => .of 0

/-! ## Special-function slots (R263) -/

/-- A write that is still to come of the slot that executes now. -/
def Ctx.pend (c : Ctx) (s : State) (kind : PendKind) (ty : ElemType) (dst : PendDst) (lanes : List (Nat × LaneSource))
    (latch hold : Bool) : State × Pending :=
  let (s, u) := s.fresh
  (s, { uid := u, kind := kind, path := c.k, clause := c.r.clause, slot := c.r.idx, run := c.r.id,
        latch := if latch then some (c.r.idx % 4) else none, ty := ty, dst := dst, lanes := lanes, hold := hold })

/-- A special-function slot: its result is written after the slot; a queue destination takes it at once. -/
def Ctx.sfuSlot (c : Ctx) (f : VForm) (n : Nat) (op : FEnv → List Nat → El) : Slot :=
  let e := c.enabled f.pg f.pn
  c.entry e f.nw [dstOf f .vq] (usesOf f n .vslq) true fun c g xs =>
    let fe := c.fenv f.pfx
    let rows := (lanes e).map fun l => (l, mapElems f.ty (op fe) (xs.map fun x => x l))
    match if fe.nant then laneNan 2 rows else none with
    | some x => c.trap x
    | none =>
        let t := rows.map fun r => (r.1, elReg f.ty r.2)
        match f.dst with
        | .v r =>
            let (w, z) := c.writes g f.pfx e
            let out := (lanes e).map fun l => (l, LaneSource.value [Tbl.get 0 t l])
            let (s, p) := c.pend c.s .sfu f.ty (if f.nw then .nothing else .vregs r.toNat 1) out true fe.nant
            let p := { p with zeros := z, keeps := e &&& ~~~(w ||| z) }
            .done s { g with pending := g.pending ++ [p] } (some (c.latchOf e (.lanes t))) none
        | _ => c.result g e f.dst f.nw f.pfx true (.lanes t)

/-! ## Mask destinations -/

/-- The fault of KD = 0 (R66). -/
def kdFault (kd : Nat) : Option FaultInfo := if kd = 0 then some (illegalOperand 3 6 0) else none

def xKD (x : BitVec 9) : Nat := (x.extractLsb' 6 3).toNat
def xKA (x : BitVec 9) : Nat := (x.extractLsb' 3 3).toNat
def xKB (x : BitVec 9) : Nat := (x.extractLsb' 0 3).toNat

/-- The end of a slot with a mask destination: bits of the lanes of E, and the latch with the whole new mask (R254). -/
def Ctx.maskResult (c : Ctx) (g : Group) (e : W64) (kd : Nat) (nw : Bool) (bits : W64) : Slot :=
  let h := g.setKreg kd e bits
  .done c.s (if nw then g else h) (some (c.spread (Tbl.get 0 h.masks kd))) none

/-- A slot with a mask destination and the sources `srcs`; `body` answers the mask bits. -/
def Ctx.maskSlot (c : Ctx) (f : VForm) (srcs : List Use) (body : Ctx → W64 → List Src → W64) : Slot :=
  let e := c.enabled f.pg f.pn
  match kdFault (xKD f.x) with
  | some x => c.trap x
  | none => c.entry e f.nw [] srcs true fun c g xs => c.maskResult g e (xKD f.x) f.nw (body c e xs)

/-- The mask of the lanes of `e` that satisfy `p`. -/
def maskOf (e : W64) (p : Nat → Bool) : W64 := (lanes e).foldl (fun m l => if p l then m ||| bit64 l else m) 0

end Sys2Proof.Machine
end

