-- ==== Sys2Proof/Machine/Accesses.lean ====
section
/-!
DEFINITION. The accesses of a slot to global and private memory: addresses, the checks of all lanes before any takes effect,
what a load sees, and stores and atomics on their way (R49, R90 to R92, R140, R277 to R283, R291 to R293, R306, R426).
-/
namespace Sys2Proof.Machine
open Sys2Proof

/-! ## Addresses (R277) -/

/-- The bytes of an element in memory. -/
def elemBytes (t : ElemType) : Nat := if t = .lg6 then 8 else t.width / 8

/-- The element index i + OFS modulo 2^64. -/
def elemIndex (i : W64) (ofs : Int) : Nat := (i.toInt + ofs).emod (2 ^ 64) |>.toNat

/-- The effective byte offset A. -/
def elemAddr (k : Cap) (i : W64) (ofs : Int) (n : Nat) : Nat :=
  ((k.offset : Int) + (i.toInt + ofs) * n).emod (2 ^ 64) |>.toNat

/-- The fields of the M-form as used fields. -/
def idxUse (f : MForm) (k : Kinds) : List Use := match f.idx with | some o => [⟨23, o, k, 1⟩] | none => []
def dataUse (f : MForm) (k : Kinds) (n : Nat := 1) : Use := ⟨36, f.data, k, n⟩

/-- The index source: with no IDX it is 0. -/
def idxSrc (f : MForm) (xs : List Src) : Src := match f.idx with | some _ => xs.headD fun _ => 0 | none => fun _ => 0

/-- OFS of the opcodes that use [22:19] otherwise (R291, R297), and that field. -/
def ofs12 (f : MForm) : Int := (f.ofs.extractLsb' 0 12).toInt
def ofsTop (f : MForm) : Nat := (f.ofs.extractLsb' 12 4).toNat

/-! ## Traverse declarations (R306) -/

/-- What R306 says of an access of `n` bytes at `va`: cause 1 undeclared, 2 early. (DEDUCED, log entry 18) -/
def Group.declCause (g : Group) (va n : Nat) : Option Nat :=
  match g.decl with
  | none => none
  | some d =>
      if d.submitted.isNone then none
      else if (span (va / 256) ((va + n - 1) / 256 - va / 256 + 1)).any fun b => !d.blocks.contains b then some 1
      else if d.waited then none else some 2

/-! ## The outcome of all lanes (R140, R426) -/

/-- One lane's access that passed its checks. -/
structure LaneAcc where
  lane : Nat
  va   : Nat
  cell : Nat
  deriving DecidableEq, Repr

/-- The capability checks of the lanes in turn; the lowest failing lane decides. -/
def capLanes (core vf reg : Nat) (k : Cap) (need n align : Nat) :
    State → List (Nat × Nat) → State × Except FaultInfo (List (Nat × Nat))
  | s, [] => (s, .ok [])
  | s, (l, a) :: ps =>
      match s.capCheck (some core) vf k need a n align with
      | (s, .error c) => (s, .error (capabilityFault c reg a l))
      | (s, .ok va) =>
          match capLanes core vf reg k need n align s ps with
          | (s, .ok xs) => (s, .ok ((l, va) :: xs))
          | (s, .error f) => (s, .error f)

/-- The translations of the lanes in turn. -/
def transLanes (core vf : Nat) (kind : Access) : State → List (Nat × Nat) → State × List (Nat × Nat × Trans)
  | s, [] => (s, [])
  | s, (l, va) :: ps =>
      let (s, t) := s.translate (some core) vf va kind
      let (s, r) := transLanes core vf kind s ps
      (s, (l, va, t) :: r)

/-- The outcome over the lanes: a fault, a breach of a declaration, the lease fault, a moving page, a park, or none. -/
def laneStop (g : Group) (l : Launch) (n : Nat) (r : List (Nat × Nat × Trans)) : Option Stop :=
  let fault := r.findSome? fun x => match x.2.2 with
    | .fault c lv e => some (Stop.trap (translationFault c lv e x.1 x.2.1))
    | _ => none
  let breach := r.findSome? fun x => (g.declCause x.2.1 n).map fun c => Stop.trap (.mk' 0x000B c 0 0 0 x.1 x.2.1)
  let absent := r.filterMap fun x => if x.2.2 = .absent then some (absentStop l x.1 x.2.1) else none
  let lease := absent.find? fun x => x.rank = 1
  let moving := if r.any fun x => x.2.2 = .moving then some (Stop.block .moving) else none
  fault.or (breach.or (lease.or (moving.or absent.head?)))

def Trans.cell : Trans → Nat
  | .ok c => c
  | _ => 0

/-- Resolves the accesses of a slot: each of `n` bytes at the effective offset beside its lane, through capability `k` of
register `reg`, with the rights `need` and the alignment `align`. -/
def Ctx.resolve (c : Ctx) (kind : Access) (reg : Nat) (k : Cap) (need n align : Nat) (pts : List (Nat × Nat)) :
    State × Except Stop (List LaneAcc) :=
  match capLanes c.g.core c.vf reg k need n align c.s pts with
  | (s, .error f) => (s, .error (.trap f))
  | (s, .ok vs) =>
      let (s, r) := transLanes c.g.core c.vf kind s vs
      match laneStop c.g c.launch n r with
      | some x => (s, .error x)
      | none => (s, .ok (r.map fun x => { lane := x.1, va := x.2.1, cell := x.2.2.cell }))

/-- The aligned 64-byte pieces of [va, va + n), for an access that may meet two pages. -/
def pieces (va n : Nat) : List Nat := (span (va / 64) ((va + n - 1) / 64 - va / 64 + 1)).map fun x => max va (x * 64)

/-- Resolves one access of `n` bytes whose pages may differ: the virtual address and the cell of each 64-byte piece.  R306 covers
the descriptor of LAUNCH (`covered`); it names neither the descriptors of engines nor the memory of matrix operations
(DEDUCED, log entry 18) -/
def Ctx.resolveSpan (c : Ctx) (covered : Bool) (kind : Access) (reg : Nat) (k : Cap) (need a n align lane : Nat) :
    State × Except Stop (List (Nat × Nat)) :=
  match capLanes c.g.core c.vf reg k need n align c.s [(lane, a)] with
  | (s, .error f) => (s, .error (.trap f))
  | (s, .ok vs) =>
      let va := (vs.headD (0, 0)).2
      let (s, r) := transLanes c.g.core c.vf kind s ((pieces va n).map fun x => (lane, x))
      match laneStop (if covered then c.g else { c.g with decl := none }) c.launch 1 r with
      | some x => (s, .error x)
      | none => (s, .ok (r.map fun x => (x.2.1, x.2.2.cell)))

/-- The bytes of resolved pieces of [va, va + n). -/
def readPieces (s : State) (va n : Nat) (ps : List (Nat × Nat)) : List Byte :=
  (ps.map fun p => Memory.readN s.mem p.2 (min (p.1 / 64 * 64 + 64) (va + n) - p.1)).flatten

/-! ## Private memory (R90 to R92, R283) -/

/-- The checks of a private access by a capability that carries PRIVATE: tag, seal, rights, and for the global forms the
window and the alignment. (DESIGN CHOICE, log entry 21) -/
def privateCause (k : Cap) (need : Nat) (window : Option (Nat × Nat)) : Option Nat :=
  if !k.tag then some 4
  else if k.sealedBit then some 3
  else if !hasRights k.rights need then some 2
  else match window with
    | some (a, n) => if !k.holds a n then some 1 else if a % n ≠ 0 then some 6 else none
    | none => none

/-- The lanes' bytes in the private object, from each lane's word index and the byte within the word; a word at or beyond
the declared ones is the stack-limit fault, which names its virtual address (R467). (DESIGN CHOICE, log entry 10) -/
def privateLanes (base w words : Nat) : List (Nat × Nat × Nat) → Except FaultInfo (List LaneAcc)
  | [] => .ok []
  | (l, k, b) :: ps =>
      if words ≤ k then .error (stackLimit k words l ((base + privateByte w k l) % 2 ^ 48))
      else match privateLanes base w words ps with
        | .ok xs => .ok ({ lane := l, va := privateByte w k l + b, cell := 0 } :: xs)
        | .error f => .error f

/-! ## What a load sees (R281) -/

/-- Extends the bytes of an element to 64 bits. -/
def extendLoad (t : ElemType) (x : Nat) : W64 :=
  if t = .lg6 then BitVec.ofNat 64 (x % 2 ^ 60)
  else if t.isSigned then BitVec.ofInt 64 (intOf t x) else BitVec.ofNat 64 x

/-- The newest buffered byte of a lane at `va`. -/
def bufferByte (buf : List StoreEntry) (lane : Nat) (own : Bool) (va : Nat) : Option Byte :=
  (buf.reverse.find? fun e => e.lane = lane && e.own = own && e.va ≤ va && va < e.va + e.n).map fun e =>
    BitVec.ofNat 8 (e.data.toNat >>> (8 * (va - e.va)))

/-- The bytes, by offset, that a lane's own store buffer or its parcel's log supplies for [va, va + n) at `cell`. -/
def State.forward (s : State) (g : Group) (x : LaneAcc) (n : Nat) : List (Nat × Byte) :=
  let p := s.parcelOf g
  let log := if (s.launchFor p).hdr.sub then logOverlay s.mem x.va x.cell n p.log [] else []
  (span 0 n).filterMap fun i =>
    ((bufferByte g.buffer x.lane false (x.va + i)).or (overlay log (x.va + i))).map fun b => (i, b)

/-- What is wrong with memory as core `core` reads it: in its L1 a poisoned sector of its copy, which a die held in reset leaves it
(R106), else what is wrong at the home. -/
def State.badCached (s : State) (core c n lane va : Nat) : Option FaultInfo :=
  if s.inL1 core c then (if (s.core core).l1Bad c n then some (poisonFault 1 lane va) else none) else s.badData c n lane va

/-- What is wrong with the data that a load of a group reads at an address, through its L1 or at its home: in memory, or a poisoned
record of its parcel's log. -/
def State.badFor (s : State) (g : Group) (cached : Bool) (c n lane va : Nat) : Option FaultInfo :=
  let p := s.parcelOf g
  match if cached then s.badCached g.core c n lane va else s.badData c n lane va with
  | some f => some f
  | none => if (s.launchFor p).hdr.sub && logBad va n p.log then some (poisonFault 1 lane va) else none

/-- Memory bytes with the supplied ones in their place. -/
def patchBytes (bs : List Byte) (fwd : List (Nat × Byte)) : List Byte :=
  ((span 0 bs.length).zip bs).map fun (i, b) => ((fwd.find? fun e => e.1 = i).map fun e => e.2).getD b

/-- `n` bytes as core `core` reads them through its L1, which a miss fills (R93) with a hint for the L2 (R98). -/
def State.readCached (s : State) (core cell n : Nat) (hint : BitVec 2 := 0) : State × List Byte :=
  match (s.core core).l1Read cell n with
  | some bs => (s, bs)
  | none => ((s.touchL2 cell hint false).fillL1 core cell, Memory.readN s.mem cell n)

/-- `n` bytes read at the home slice. -/
def State.readHome (s : State) (cell n : Nat) (hint : BitVec 2 := 0) : State × List Byte :=
  (s.touchL2 cell hint false, Memory.readN s.mem cell n)

/-! ### What a load waits for (R400, R401, R404) -/

/-- A pending load of the lane, or of an arm that has joined into its path, from bytes of [cell, cell + n). -/
def Pending.reads (p : Pending) (lane cell n : Nat) : Bool :=
  (p.joined.getLsbD lane || p.lanes.any fun y => y.1 = lane) && p.lanes.any fun y => match y.2 with
    | .memory a k _ _ => (y.1 = lane || p.joined.getLsbD lane) && a < cell + n && cell < a + k
    | _ => false

/-- A store of another group whose data stand in this core's L1 line while it is on its way to its home: a load of these bytes
waits, since what follows it may reach other cores first (R404). -/
def State.earlyBeside (s : State) (g : Group) (cell n : Nat) : Bool :=
  s.inL1 g.core cell && s.net.any fun o => o.early && o.meets cell n && match o.sender with
    | .group u => u ≠ g.uid && (s.group? u).any fun x => x.core = g.core
    | _ => false

/-- An access that reads now waits: an operation of the group, a store that the L1 shows early, or an older load has still to reach
its bytes. (DEDUCED, log entry 78) -/
def State.readWaits (s : State) (g : Group) (cached : Bool) (n : Nat) (x : LaneAcc) : Option Wait :=
  if s.inFlight g.uid x.cell n || (cached && s.earlyBeside g x.cell n) then some .acks
  else if g.pending.any fun p => p.kind = .load && p.reads x.lane x.cell n then some .loads
  else none

/-- The ways of accesses that read now cross to their homes in class `out` and back as control traffic; an access that its L1 serves
crosses none (R2, R128). -/
def crossReads (g : Group) (cached : Bool) (out : Nat) : List LaneAcc → State → Option State
  | [], s => some s
  | x :: xs, s =>
      if cached && s.inL1 g.core x.cell then crossReads g cached out xs s
      else (s.crossNow out (s.wayTo (g.core / 48) x.cell)).bind fun s =>
        (s.crossNow clsControl (s.wayFrom (g.core / 48) x.cell)).bind fun s => crossReads g cached out xs s

/-- Accesses that read now: what the slot waits for, or the state in which they have reached their homes. -/
def State.readNow (s : State) (g : Group) (cached : Bool) (out n : Nat) (as : List LaneAcc) : Except Wait State :=
  match as.findSome? (s.readWaits g cached n) with
  | some w => .error w
  | none => match crossReads g cached out as s with
    | some s => .ok s
    | none => .error .link

/-- The value of a private element for its own lane. (DESIGN CHOICE, log entry 20) -/
def Group.ownValue (g : Group) (x : LaneAcc) (n : Nat) : Nat :=
  natOfBytes ((span x.va n).map fun a => (bufferByte g.buffer x.lane true a).getD (Memory.read g.own a))

/-- What a private load gives a lane: its value, or poisoned data (R106). -/
def Group.ownSource (g : Group) (x : LaneAcc) (t : ElemType) (n : Nat) : LaneSource :=
  if g.ownPoison.contains (x.va / 64) then .failed (poisonFault 1 x.lane ((Config.privateBase g.uid + x.va) % 2 ^ 48))
  else .value [extendLoad t (g.ownValue x n)]

/-- A fault that stops the group at its next clause boundary (R427). -/
def lateFault (f : FaultInfo) (clause : W32) (slot : Nat) : LateFault :=
  { info := f, posted := none, clause := clause, slot := slot, queue := none, sem := none, atBoundary := true, atRelease := false,
    matrix := false }

/-- A fault of data that has come: the group takes it at its next clause boundary, or now when it is blocked or stands between
clauses (R427). -/
def State.dataFault (s : State) (g : Group) (f : FaultInfo) (clause : W32) (slot : Nat) : State :=
  let x := lateFault (f.at s.time) clause slot
  let now := match g.status with
    | .waiting .write | .waiting .loads => true
    | .ready => g.run.isNone
    | _ => false
  if now then s.takeLate g x else s.setGroup { g with late := g.late ++ [x] }

/-! ## Scopes and orders (R278, R279) -/

def isAcquire (o : BitVec 2) : Bool := o.getLsbD 0
def isRelease (o : BitVec 2) : Bool := o.getLsbD 1

/-- The outstanding loads of a group (R200). -/
def Group.loads (g : Group) : Nat := (g.pending.filter fun p => p.kind = .load).length

/-! ## Atomics on their way (R292, R293) -/

/-- The atomics of a slot enter the network in ascending lane order. (DESIGN CHOICE, log entry 34) -/
def State.sendAtomic (s : State) (g : Group) (x : LaneAcc) (t : ElemType) (op : Nat) (v : W64) (cmp : Option W64)
    (ret : Option (Nat × Nat)) (vf : Nat) (clause : W32) (slot : Nat) : State × Group :=
  let far := s.isFar (g.core / 48) x.cell
  let o : HomeOp := { sender := .group g.uid, fromDie := g.core / 48, home := homeDie x.cell, lane := x.lane, vf := vf,
                      va := x.va, cell := x.cell, hint := 0, kind := .atomic t op v cmp ret, counted := far, released := false,
                      clause := clause, slot := slot, seen := bit64 x.lane }
  (s.sendOp o, if far then { g with acks := g.acks + 1 } else g)

/-- Of accesses of a group, how many have their home away from its die (R157). -/
def State.farCount (s : State) (g : Group) (as : List LaneAcc) : Nat := (as.filter fun x => s.isFar (g.core / 48) x.cell).length

/-- The first class queues of the ways of accesses to their homes have room (R108). -/
def State.roomFor (s : State) (g : Group) (c : Nat) (as : List LaneAcc) : Bool :=
  as.all fun x => s.roomOn (inClass c (s.wayTo (g.core / 48) x.cell))

/-- What keeps a slot from sending `far` counted operations and the accesses `as` in class `c` (R108, R157). -/
def State.sendWaits (s : State) (g : Group) (c : Nat) (as : List LaneAcc) : Option Wait :=
  if Config.ackLimit < g.acks + s.farCount g as then some .acks
  else if !s.roomFor g c as then some .link
  else none

end Sys2Proof.Machine
end

