-- ==== Sys2Proof/Machine/Memory.lean ====
section
/-!
DEFINITION. Loads and stores, private accesses, capabilities and lane atomics (R276 to R284, R288 to R293).
-/
namespace Sys2Proof.Machine
open Sys2Proof

/-! ## Loads -/

/-- Whether the quantum ends before an M-form slot: it is a fence of its scope (R278). -/
def fenceOf (f : MForm) : Bool := f.ord ≠ 0

/-- Where a load goes. -/
def pendDst (o : Operand) (nw : Bool) : PendDst :=
  if nw then .nothing else match o with
    | .v r => .vregs r.toNat 1
    | .s r => .sreg r.toNat
    | _ => .nothing

/-- The way of a lane's data of a load there and back: to a home on another die of bytes that the core's L1 does not hold, or to the
store of another die (R2, R101). -/
def State.laneWay (s : State) (g : Group) (x : LaneSource) : List Nat :=
  let die := g.core / 48
  match x with
  | .memory c _ _ _ => if s.isFar die c && !s.inL1 g.core c then s.wayTo die c ++ s.wayFrom die c else []
  | .reservoir _ d _ => dieWay die d ++ dieWay d die
  | _ => []

/-- The ways of a load over links, all control traffic (R128); the lanes whose data take one way share its flit. -/
def State.loadWays (s : State) (g : Group) (src : List (Nat × LaneSource)) : List (List (Nat × Nat)) :=
  (((src.map fun x => s.laneWay g x.2).filter fun w => !w.isEmpty).map (inClass clsControl)).eraseDups

/-- A load issues: its write is pending and counts as outstanding (R200, R281); `one` makes its value one for the path. -/
def Ctx.issueLoad (c : Ctx) (s : State) (g : Group) (t : ElemType) (dst : PendDst) (src : List (Nat × LaneSource))
    (hint : BitVec 2 := 0) (one : Bool := false) : Slot :=
  let ways := s.loadWays g src
  if Config.loadLimit ≤ g.loads then .stop s g (.block .loads)
  else if !ways.all s.roomOn then .stop s g (.block .link)
  else
    let (s, p) := c.pend s .load t dst src true false
    .done (ways.foldl (fun s w => s.sendFlit p.uid w) s) { g with pending := g.pending ++ [{ p with hint := hint, one := one }] } (some []) none

/-- The word index and the byte in the word of each lane of a global-form access of private memory. -/
def privatePoints (pts : List (Nat × Nat)) : List (Nat × Nat × Nat) := pts.map fun p => (p.1, p.2 / 8, p.2 % 8)

/-- The private accesses of a slot: the fault, or the lanes' bytes. -/
def Ctx.ownAccess (c : Ctx) (reg : Nat) (k : Cap) (need : Nat) (window : Option Nat) (pts : List (Nat × Nat)) (words : List (Nat × Nat × Nat)) :
    Except FaultInfo (List LaneAcc) :=
  match pts.findSome? fun p => (privateCause k need (window.map fun n => (p.2, n))).map fun x => capabilityFault x reg p.2 p.1 with
  | some f => .error f
  | none => privateLanes (Config.privateBase c.g.uid) c.g.width c.launch.hdr.privW words

/-- An acquiring load: its value is read now, and then the L1 is invalidated as its scope says (R279). -/
def Ctx.acquireLoad (c : Ctx) (s : State) (f : MForm) (e : W64) (vec : Bool) (xs : List LaneAcc) : Slot :=
  let n := elemBytes f.ty
  let sc := f.scope.toNat
  let cached := decide (sc < 4)
  match s.readNow c.g cached clsControl n xs with
  | .error w => .stop s c.g (.block w)
  | .ok s => match xs.findSome? fun x => s.badFor c.g cached x.cell n x.lane x.va with
    | some bad => .stop s c.g (.trap bad)
    | none =>
        let (s, vals) := xs.foldl (fun (a : State × List (Nat × W64)) x =>
          let fwd := s.forward c.g x n
          let (s, bs) := if cached then a.1.readCached c.g.core x.cell n f.hint else a.1.readHome x.cell n f.hint
          (s, a.2 ++ [(x.lane, extendLoad f.ty (natOfBytes (patchBytes bs fwd)))])) (s, [])
        let s := s.acquire c.g sc
        let r : Res := if vec then .lanes vals else .one ((vals.map fun v => v.2).headD 0)
        { c with s := s }.result c.g e f.data f.nw f.pfx vec r

/-- What a lane of a load waits for: memory with what its own buffer and log supply, or the error of a poisoned log record. -/
def State.loadSource (s : State) (g : Group) (x : LaneAcc) (n : Nat) : LaneSource :=
  let p := s.parcelOf g
  if (s.launchFor p).hdr.sub && logBad x.va n p.log then .failed (poisonFault 1 x.lane x.va)
  else .memory x.cell n x.va (s.forward g x n)

/-- LD and LDS: the accesses of the lanes of `e`. -/
def Ctx.loadSlot (c : Ctx) (f : MForm) (vec : Bool) (k : Kinds) (ik : Kinds) : Slot :=
  let e := c.enabled f.pg f.pn
  c.enter { always := false, fence := fenceOf f } e f.nw [dataUse f k] (idxUse f ik) true fun c _ xs =>
    let n := elemBytes f.ty
    let i := idxSrc f xs
    let cap := c.g.cap f.cap.toNat
    let ls := if vec then lanes e else (lanes e).take 1
    let pts := ls.map fun l => (l, elemAddr cap (i l) f.ofs.toInt n)
    if cap.isPrivate then
      match c.ownAccess f.cap.toNat cap rRead (some n) pts (privatePoints pts) with
      | .error x => c.trap x
      | .ok as => c.issueLoad (c.s.touchWords c.g (as.map fun x => x.va) false) c.g f.ty
          (pendDst f.data f.nw) (as.map fun x => (x.lane, c.g.ownSource x f.ty n)) f.hint (!vec)
    else
      match c.resolve .read f.cap.toNat cap rRead n n pts with
      | (s, .error x) => .stop s c.g x
      | (s, .ok as) =>
          if isAcquire f.ord then c.acquireLoad s f e vec as
          else c.issueLoad s c.g f.ty (pendDst f.data f.nw)
            (as.map fun x => (x.lane, s.loadSource c.g x n)) f.hint (!vec)

def execLd (f : MForm) (s : State) : Host.Outcome State Fault Refusal :=
  runSlot s fun c => c.loadSlot f true .onlyV .vsl
def execLds (f : MForm) (s : State) : Host.Outcome State Fault Refusal :=
  runSlot s fun c => c.loadSlot f false .onlyS .sl

/-! ## Stores -/

/-- The data of a store: the low bytes, with bits [63:60] zero for LG6. -/
def storeData (t : ElemType) (x : W64) : W64 :=
  if t = .lg6 then x &&& lowMask 60 else x &&& lowMask (8 * elemBytes t)

/-- A lane of `ls` holds sixteen buffered stores (R49, R50), or the quantum of the path's lanes `m` that such a store ends has not
committed whole. -/
def Group.bufferFull (g : Group) (m : W64) (ls : List Nat) : Bool :=
  (ls.any fun l => Config.bufferDepth ≤ (g.buffer.filter fun e => e.lane = l).length) ||
    g.buffer.any fun e => e.leaving && m.getLsbD e.lane

/-- A release store: its lanes' stores are applied directly, in ascending lane order (R282). -/
def applyStores (vf : Nat) (log : Bool) : List (StoreEntry × Nat) → State → Group → Act
  | [], s, g => .ok s g
  | (e, c) :: es, s, g => (s.commitOne g e vf c log false).andThen fun s g => applyStores vf log es s g

/-- The entries of a store slot. -/
def Ctx.entries (c : Ctx) (t : ElemType) (n : Nat) (hint : BitVec 2) (reg : Nat) (own : Bool) (d : Src) (as : List LaneAcc) :
    List StoreEntry :=
  as.map fun x => { lane := x.lane, own := own, va := x.va, n := n, data := storeData t (d x.lane), hint := hint, reg := reg,
                    clause := c.r.clause, slot := c.r.idx }

/-- ST and STS. -/
def Ctx.storeSlot (c : Ctx) (f : MForm) (vec : Bool) (k : Kinds) (ik : Kinds) : Slot :=
  let e := c.enabled f.pg f.pn
  let ls := if vec then lanes e else (lanes e).take 1
  c.enter { always := false, fence := fenceOf f || c.g.bufferFull c.p.mask ls } e true [] (dataUse f k :: idxUse f ik) false
    fun c g xs =>
      let n := elemBytes f.ty
      let d := xs.headD fun _ => 0
      let i := idxSrc f xs.tail
      let reg := f.cap.toNat
      let cap := c.g.cap reg
      let pts := ls.map fun l => (l, elemAddr cap (i l) f.ofs.toInt n)
      let finish (s : State) (own : Bool) (as : List LaneAcc) : Slot :=
        let es := c.entries f.ty n f.hint reg own d as
        if f.ord = 0 then .done s { g with buffer := g.buffer ++ es } none none
        else
          match s.releaseWait c.g f.scope.toNat with
          | .stop s h r => .stop s h r
          | .ok s _ =>
              if c.g.loadsOf (ls.foldl (fun m l => m ||| bit64 l) 0) then .stop s c.g (.block .loads)
              else match if own || c.launch.hdr.sub then none else s.sendWaits c.g (sizedClass n clsRequest) as with
                | some w => .stop s c.g (.block w)
                | none =>
                    (applyStores c.vf c.launch.hdr.sub (es.zip (as.map fun x => x.cell)) (s.touchOwn g es) g).slot fun s g =>
                      .done s (g.clearOwn es) none none
      if cap.isPrivate then
        match c.ownAccess reg cap rWrite (some n) pts (privatePoints pts) with
        | .error x => c.trap x
        | .ok as => finish c.s true as
      else
        match c.resolve .write reg cap rWrite n n pts with
        | (s, .error x) => .stop s c.g x
        | (s, .ok as) => finish s false as

def execSt (f : MForm) (s : State) : Host.Outcome State Fault Refusal :=
  runSlot s fun c => c.storeSlot f true .vslq .vsl
def execSts (f : MForm) (s : State) : Host.Outcome State Fault Refusal :=
  runSlot s fun c => c.storeSlot f false .slq .sl

/-! ## Private words (R283) -/

def execLdp (f : MForm) (s : State) : Host.Outcome State Fault Refusal :=
  runSlot s fun c =>
    let e := c.enabled f.pg f.pn
    c.enter { always := false } e f.nw [dataUse f .onlyV] (idxUse f .vsl) true fun c _ xs =>
      let i := idxSrc f xs
      let ws := (lanes e).map fun l => (l, elemIndex (i l) f.ofs.toInt, 0)
      match c.ownAccess f.cap.toNat (c.g.cap f.cap.toNat) (rPrivate + rRead) none (ws.map fun w => (w.1, 8 * w.2.1)) ws with
      | .error x => c.trap x
      | .ok as => c.issueLoad (c.s.touchWords c.g (as.map fun x => x.va) false) c.g .n64
          (pendDst f.data f.nw) (as.map fun x => (x.lane, c.g.ownSource x .n64 8))

def execStp (f : MForm) (s : State) : Host.Outcome State Fault Refusal :=
  runSlot s fun c =>
    let e := c.enabled f.pg f.pn
    c.enter { always := false, fence := c.g.bufferFull c.p.mask (lanes e) } e true [] (dataUse f .vslq :: idxUse f .vsl) false
      fun c g xs =>
        let i := idxSrc f xs.tail
        let ws := (lanes e).map fun l => (l, elemIndex (i l) f.ofs.toInt, 0)
        match c.ownAccess f.cap.toNat (c.g.cap f.cap.toNat) (rPrivate + rWrite) none (ws.map fun w => (w.1, 8 * w.2.1)) ws with
        | .error x => c.trap x
        | .ok as =>
            .done c.s { g with buffer := g.buffer ++ c.entries .n64 8 0 f.cap.toNat true (xs.headD fun _ => 0) as } none none

/-! ## Capabilities (R288 to R290) -/

/-- The capability of CNARROW, or why there is none: the capability fault's cause, or an operand out of range (R289). -/
def narrow (k : Cap) (ofs : Bool) (x : W64) : Except Nat Cap :=
  let lo := (k.page - k.lower)
  let hi := k.page + k.upper + 1
  if !ofs then
    .ok (Cap.make k.obj k.offset (min k.lower (x.extractLsb' 44 20).toNat) (min k.upper (x.extractLsb' 24 20).toNat)
      (k.rights &&& (x.extractLsb' 8 8).toNat) false)
  else
    let o := (((k.offset : Int) + x.toInt).emod (2 ^ 48)).toNat
    if o < lo * 4096 || hi * 4096 ≤ o then .error 1
    else
      let b := o / 4096
      .ok (Cap.make k.obj o (min (b - lo) (2 ^ 20 - 1)) (min (hi - 1 - b) (2 ^ 20 - 1)) k.rights false)

def execCnarrow (f : MForm) (s : State) : Host.Outcome State Fault Refusal :=
  runSlot s fun c =>
    let e := c.enabled f.pg f.pn
    c.enter { always := false } e true [] (idxUse f .sl) false fun c g xs =>
      let reg := f.cap.toNat
      let k := c.g.cap reg
      let d := f.data.code.toNat % 16
      let x := idxSrc f xs ((lowest e).getD 0)
      let ofs := f.ty ≠ .n8
      if f.idx.isNone then c.trap (illegalOperand 3 23 0x1FF) else
      let cause := if !k.tag then some 4 else if k.sealedBit then some 3 else if !hasRights k.rights rDerive then some 2 else none
      match cause with
      | some x => c.trap (capabilityFault x reg k.offset ((lowest e).getD 0))
      | none =>
          if d = 15 then c.trap (illegalOperand 6 36 15)
          else if !ofs && (x.extractLsb' 16 8 ≠ 0 || x.extractLsb' 0 8 ≠ 0) then c.trap (illegalOperand 6 23 x.toNat)
          else match narrow k ofs x with
            | .error z => c.trap (capabilityFault z reg (((k.offset : Int) + x.toInt).emod (2 ^ 64)).toNat ((lowest e).getD 0))
            | .ok k' => .done c.s (g.setCap d k') none none

/-- The slot of a save object: its byte offset, or the cause of the capability fault (R290). -/
def saveSlot (k : Cap) (i : W64) (ofs : Int) : Except Nat Nat :=
  let a := elemAddr k i ofs 32
  if !k.tag then .error 4 else if !k.sealedBit then .error 3 else if !k.holds a 32 then .error 1 else .ok a

/-- CSAVE and CLOAD: what they do with the slot, whose byte in the group's private object is known once its checks have
passed; a sealed capability names the save area in that object (R290, R417). -/
def Ctx.saveAccess (c : Ctx) (f : MForm) (write : Bool) (body : Ctx → Group → Nat → Slot) : Slot :=
  let e := c.enabled f.pg f.pn
  c.enter { always := false } e true [] (idxUse f .sl) false fun c g xs =>
    let reg := f.cap.toNat
    let l := (lowest e).getD 0
    match saveSlot (c.g.cap reg) (idxSrc f xs l) f.ofs.toInt with
    | .error x => c.trap (capabilityFault x reg (elemAddr (c.g.cap reg) (idxSrc f xs l) f.ofs.toInt 32) l)
    | .ok a => body { c with s := c.s.touchPrivate c.g.core c.g.uid a write } g a

/-- The bytes of a capability and its tag put into a slot of the save area. -/
def Group.saveCap (g : Group) (a : Nat) (k : Cap) : Group :=
  { g with own := Memory.writeN g.own a (bytesOfNat 16 k.bits.toNat), ownTags := Tbl.put false g.ownTags a k.tag }

def execCsave (f : MForm) (s : State) : Host.Outcome State Fault Refusal :=
  runSlot s fun c => c.saveAccess f true fun c g a =>
    .done c.s (g.saveCap a (c.g.cap (f.data.code.toNat % 16))) none none

def execCload (f : MForm) (s : State) : Host.Outcome State Fault Refusal :=
  runSlot s fun c => c.saveAccess f false fun c g a =>
    if c.g.ownPoison.contains (a / 64) then c.trap (poisonFault 1 0 ((Config.privateBase c.g.uid + a) % 2 ^ 48))
    else
      let k : Cap := { bits := BitVec.ofNat 128 (natOfBytes (Memory.readN c.g.own a 16)), tag := Tbl.get false c.g.ownTags a }
      .done c.s (g.setCap (f.data.code.toNat % 16) k) none none

/-! ## Lane atomics (R291 to R293) -/

/-- The operation of AOP; CAS has none. -/
def atomicValue (s : State) (g : Group) (x : LaneAcc) (t : ElemType) : Nat :=
  natOfBytes (patchBytes (Memory.readN s.mem x.cell (t.width / 8)) (s.forward { g with buffer := [] } x (t.width / 8)))

/-- The atomics of a subdivisible parcel in turn: records in the log, and the values seen through memory and log (R25). -/
def logAtomics (t : ElemType) (op : Nat) (v : Src) (cmp : Option Src) :
    List LaneAcc → State → Group → List (Nat × W64) → Except (State × Group × Stop) (State × Group × List (Nat × W64))
  | [], s, g, out => .ok (s, g, out)
  | x :: xs, s, g, out =>
      let old := extendLoad t (atomicValue s g x t)
      match s.logFor g [.atomic x.va t op (v x.lane) (cmp.map fun f => f x.lane)] with
      | .stop s g r => .error (s, g, r)
      | .ok s g => logAtomics t op v cmp xs s g (out ++ [(x.lane, old)])

/-- The atomics of an acquiring slot, each applied at its home now; the writing core's L1 line follows (R93). -/
def applyAtomics (core : Nat) (t : ElemType) (op : Nat) (v : Src) (cmp : Option Src) :
    List LaneAcc → State → List (Nat × W64) → State × List (Nat × W64)
  | [], s, out => (s, out)
  | x :: xs, s, out =>
      let (s, old) := s.applyAtomic x.cell t op (v x.lane) (cmp.map fun f => f x.lane)
      let s := s.updateL1 core x.cell (Memory.readN s.mem x.cell (t.width / 8))
      applyAtomics core t op v cmp xs s (out ++ [(x.lane, extendLoad t old)])

/-- ATOM, ATOMR and CAS: `v` and `cmp` are the lanes' operands, `ret` whether the old value is returned to DATA.
(DESIGN CHOICE, log entry 34) -/
def Ctx.atomicSlot (c : Ctx) (f : MForm) (op : Nat) (ofs : Int) (dsts srcs : List Use) (ret : Bool)
    (args : List Src → Src × Option Src × List Src) : Slot :=
  let e := c.enabled f.pg f.pn
  let nw := f.nw || !ret
  c.enter { always := false, fence := fenceOf f } e nw dsts (srcs ++ idxUse f .vsl) ret fun c g xs =>
    let (v, cmp, rest) := args xs
    let i := idxSrc f rest
    let n := f.ty.width / 8
    let reg := f.cap.toNat
    let cap := c.g.cap reg
    let ls := lanes e
    let pts := ls.map fun l => (l, elemAddr cap (i l) ofs n)
    match c.resolve .atomic reg cap rAtomic n n pts with
    | (s, .error x) => .stop s c.g x
    | (s, .ok as) =>
        let wait := if isRelease f.ord then s.releaseWait c.g f.scope.toNat else .ok s c.g
        match wait with
        | .stop s h r => .stop s h r
        | .ok s _ =>
            if c.g.loadsOf e then .stop s c.g (.block .loads)
            else if ret && Config.loadLimit ≤ g.loads then .stop s c.g (.block .loads)
            else if c.launch.hdr.sub then
              match logAtomics f.ty op v cmp as s g [] with
              | .error (s, g, r) => .stop s g r
              | .ok (s, g, vals) =>
                  let s := if isAcquire f.ord then s.acquire g f.scope.toNat else s
                  if ret then c.issueLoad s g f.ty (pendDst f.data f.nw) (vals.map fun x => (x.1, .value [x.2]))
                  else .done s g none none
            else if isAcquire f.ord then
              match s.readNow c.g false clsRequest n as with
              | .error w => .stop s c.g (.block w)
              | .ok s => match as.findSome? fun x => s.badFor c.g false x.cell n x.lane x.va with
              | some bad => .stop s c.g (.trap bad)
              | none =>
                  let (s, vals) := applyAtomics c.g.core f.ty op v cmp as s []
                  let s := s.acquire g f.scope.toNat
                  if ret then { c with s := s }.result g e f.data f.nw f.pfx true (.lanes vals) else .done s g none none
            else if let some w := s.sendWaits c.g clsRequest as then .stop s c.g (.block w)
            else
              let (s, p) := c.pend s .load f.ty (pendDst f.data f.nw) (as.map fun x => (x.lane, .home)) ret false
              let send (a : State × Group) (x : LaneAcc) : State × Group :=
                a.1.sendAtomic a.2 x f.ty op (v x.lane) (cmp.map fun f => f x.lane)
                  (if ret then some (c.g.uid, p.uid) else none) c.vf c.r.clause c.r.idx
              let (s, g) := as.foldl send (s, g)
              if ret then .done s { g with pending := g.pending ++ [p] } (some []) none else .done s g none none

def execAtom (f : MForm) (s : State) : Host.Outcome State Fault Refusal :=
  runSlot s fun c => c.atomicSlot f (ofsTop f) (ofs12 f) [] [dataUse f .vslq] false
    fun xs => (xs.headD fun _ => 0, none, xs.tail)
def execAtomr (f : MForm) (s : State) : Host.Outcome State Fault Refusal :=
  runSlot s fun c => c.atomicSlot f (ofsTop f) (ofs12 f) [] [dataUse f .onlyV] true
    fun xs => (xs.headD fun _ => 0, none, xs.tail)
def execCas (f : MForm) (s : State) : Host.Outcome State Fault Refusal :=
  runSlot s fun c =>
    let d4 : List Use := match f.pfx.d4 with | some o => [⟨7, o, .vsl, 1⟩] | none => []
    c.atomicSlot f 6 f.ofs.toInt [] (dataUse f .onlyV :: d4) true fun xs =>
      (xs.headD fun _ => 0, some (xs.tail.headD fun _ => 0), xs.drop (1 + d4.length))

end Sys2Proof.Machine
end

