-- ==== Sys2Proof/Machine/Sync.lean ====
section
/-!
DEFINITION. Fences, plumb waits, phasers, semaphores and queue bindings (R296 to R302, R307).
-/
namespace Sys2Proof.Machine
open Sys2Proof

/-! ## FENCE (R279, R296) -/

def execFence (f : VForm) (s : State) : Host.Outcome State Fault Refusal :=
  runSlot s fun c =>
    let sc := (f.x.extractLsb' 0 4).toNat
    let ord := f.x.extractLsb' 4 2
    c.enter { always := false, fence := true } (c.enabled f.pg f.pn) true [] [] false fun c g _ =>
      (if isRelease ord then c.s.releaseWait g sc else .ok c.s g).slot fun s g =>
        if isAcquire ord then
          if g.loadsDone then .done (s.acquire g sc) g none none else .stop s g (.block .loads)
        else .done s g none none

/-! ## WAITC (R297, R298) -/

/-- Registers a watch at its slice, or queues it there when the table of 1,024 is full or others wait for a place: why the group
waits. -/
def State.addWatch (s : State) (w : Watch) : State × Wait :=
  let (n, m) := (homeDie w.cell, homeSlice w.cell)
  let d := s.die n
  let x := d.slice m
  if x.watches.length < 1024 && x.queued.isEmpty then (s.setDie n (d.setSlice m { x with watches := x.watches ++ [w] }), .watch)
  else (s.setDie n (d.setSlice m { x with queued := x.queued ++ [w] }), .watchTable n m)

def execWaitc (f : MForm) (s : State) : Host.Outcome State Fault Refusal :=
  runSlot s fun c =>
    let e := c.enabled f.pg f.pn
    let l := (lowest e).getD 0
    c.enter { always := false, fence := fenceOf f } e true [] (dataUse f .slq :: idxUse f .sl) false fun c g xs =>
      let a := (xs.headD fun _ => 0) l
      let go (s : State) : Slot := .done (if isAcquire f.ord then s.acquire g f.scope.toNat else s) g none none
      if c.r.woken then go c.s
      else
        let reg := f.cap.toNat
        let cap := c.g.cap reg
        let n := f.ty.width / 8
        match c.resolve .read reg cap rRead n n [(l, elemAddr cap (idxSrc f xs.tail l) (ofs12 f) n)] with
        | (s, .error x) => .stop s c.g x
        | (s, .ok as) =>
            let x := as.headD { lane := l, va := 0, cell := 0 }
            let w : Watch := { group := c.g.uid, path := c.k, lane := l, vf := c.vf, va := x.va, cell := x.cell, ty := f.ty,
                               cond := ofsTop f, a := a }
            if s.deadHome x.cell then .stop s c.g (.trap (dieError (homeDie x.cell) 3 l x.va))
            else match s.readNow c.g false clsControl n as with
            | .error y => .stop s c.g (.block y)
            | .ok s =>
                if s.poisoned x.cell n then .stop s c.g (.trap (poisonFault 1 l x.va))
                else if watchHolds s.mem w then go (s.updateL1 g.core x.cell (Memory.readN s.mem x.cell n))
                else
                  let (s, why) := s.addWatch w
                  .stop s c.g (.block why)

/-! ## Phasers (R299 to R301) -/

/-- A phaser that a slot names: of the package or of the core, its number, and the field that names it. -/
structure PhaserRef where
  pkg : Bool
  n   : Nat
  pos : Nat
  deriving DecidableEq, Repr

/-- The source field of a package phaser's number. -/
def phaserUse (f : VForm) : List Use := if f.var = 1 then [⟨27, f.sa, .sl, 1⟩] else []

def phaserRef (f : VForm) (l : Nat) (xs : List Src) : PhaserRef :=
  if f.var = 1 then { pkg := true, n := ((xs.headD fun _ => 0) l).toNat, pos := 27 }
  else { pkg := false, n := (f.x.extractLsb' 0 6).toNat, pos := 0 }

/-- The roles of X[7:6]: signaller and waiter. -/
def roleSig (f : VForm) : Bool := f.x.getLsbD 6
def roleWait (f : VForm) : Bool := f.x.getLsbD 7
def roleBits (f : VForm) : Nat := (f.x.extractLsb' 6 2).toNat

/-- The package form is refused in a subdivisible parcel (R33). -/
def Ctx.phaserPre (c : Ctx) (f : VForm) : Option FaultInfo :=
  if f.var = 1 && c.launch.hdr.sub then some (illegalOperand 6 50 1) else none

/-- A number outside the parcel's reservation or the function's PRANGE (R149). -/
def Ctx.phaserRange (c : Ctx) (r : PhaserRef) : Option FaultInfo :=
  let p := (c.s.vf c.vf).prange
  let base := (p.extractLsb' 0 12).toNat
  let count := (p.extractLsb' 16 13).toNat
  if (if r.pkg then r.n < base || base + count ≤ r.n else c.launch.hdr.phasers ≤ r.n) then
    some (illegalOperand 5 r.pos r.n) else none

/-- A phaser slot: the range check, the check of roles, and the quantum's end. -/
def Ctx.phaserSlot (c : Ctx) (f : VForm) (dsts srcs : List Use) (captures : Bool) (roles : Role → PhaserRef → Option FaultInfo)
    (body : Ctx → Group → W64 → PhaserRef → List Src → Slot) : Slot :=
  let e := c.enabled f.pg f.pn
  let l := (lowest e).getD 0
  let check (xs : List Src) : Option FaultInfo :=
    let r := phaserRef f l xs
    (c.phaserRange r).or (roles (c.g.role r.pkg r.n) r)
  c.enter { always := false, fence := true, pre := c.phaserPre f, check := check } e f.nw dsts (phaserUse f ++ srcs) captures
    fun c g xs => body c g e (phaserRef f l xs) (xs.drop (phaserUse f).length)

/-- An operation of a slot on a phaser's entry: those of the package are on the control die, which the operation reaches and returns
from as control traffic (R128, R149). -/
def Ctx.atTable (c : Ctx) (s : State) (x : PhaserRef) (f : State → Slot) : Slot :=
  if !x.pkg then f s
  else match s.crossNow clsControl (toControl c.die ++ fromControl c.die) with
    | some s => f s
    | none => .stop s c.g (.block .link)

/-- The largest count of signallers or waiters of an entry (R160). -/
def phaserLimit : Nat := 65535

/-- An entry with one more registration in the roles given (R150, R300). -/
def Phaser.register (p : Phaser) (sig wait : Bool) : Phaser :=
  let p := if sig then { p with signext := p.signext + 1, sig := if p.arrived = 0 then p.sig + 1 else p.sig } else p
  if wait then { p with wait := p.wait + 1 } else p

/-- A registration takes a count of an entry past its limit (R160). -/
def Phaser.overfull (p : Phaser) (sig wait : Bool) : Bool :=
  let q := p.register sig wait
  phaserLimit < q.sig || phaserLimit < q.signext || phaserLimit < q.wait

/-- The package phasers on which a group holds a role. -/
def Group.packagePhasers (g : Group) : Nat := (g.roles.filter fun r => r.pkg).length

def execPhreg (f : VForm) (s : State) : Host.Outcome State Fault Refusal :=
  runSlot s fun c =>
    let roles (r : Role) (x : PhaserRef) : Option FaultInfo :=
      if (r.sig && roleSig f) || (r.wait && roleWait f) then some (illegalOperand 6 6 (roleBits f))
      else if x.pkg && !r.sig && !r.wait && 16 ≤ c.g.packagePhasers then some (illegalOperand 6 27 x.n)
      else faultIf ((c.s.phaser c.g x.pkg x.n).overfull (roleSig f) (roleWait f)) (illegalOperand 6 x.pos x.n)
    c.phaserSlot f [] [] false roles fun c g _ x _ =>
      c.atTable c.s x fun s =>
        let p := s.phaser g x.pkg x.n
        let r := g.role x.pkg x.n
        let r := if roleSig f then { r with sig := true, counted := p.arrived = 0, arrived := false } else r
        let r := if roleWait f then { r with wait := true } else r
        .done (s.setPhaser g x.pkg x.n (p.register (roleSig f) (roleWait f))) (g.setRole r) none none

def execPhdrop (f : VForm) (s : State) : Host.Outcome State Fault Refusal :=
  runSlot s fun c =>
    let roles (r : Role) (_ : PhaserRef) : Option FaultInfo :=
      if (roleSig f && !r.sig) || (roleWait f && !r.wait) then some (illegalOperand 6 6 (roleBits f)) else none
    c.phaserSlot f [] [] false roles fun c g _ x _ =>
      c.atTable c.s x fun s =>
        let (s, g) := s.dropRoles g x.pkg x.n (roleSig f) (roleWait f)
        .done s g none none

/-- The scope of a phaser's release and acquire (R301): core, or package. -/
def PhaserRef.scope (r : PhaserRef) : Nat := if r.pkg then 6 else 3

def execPharr (f : VForm) (s : State) : Host.Outcome State Fault Refusal :=
  runSlot s fun c =>
    let some? := !f.dst.unused
    let dsts := if some? then [dstOf f .sq] else []
    let roles (r : Role) (x : PhaserRef) : Option FaultInfo :=
      if r.sig then none else some (illegalOperand 6 x.pos x.n)
    c.phaserSlot f dsts [] some? roles fun c g e x _ =>
      (c.s.releaseWait g x.scope).slot fun s g =>
        let p := s.phaser g x.pkg x.n
        let r := g.role x.pkg x.n
        if !r.counted || r.arrived then .stop s c.g (.block (.phase x.pkg x.n p.phase))
        else c.atTable s x fun s =>
          let (s, g) := s.phaserTest (g.setRole { r with arrived := true }) x.pkg x.n { p with arrived := p.arrived + 1 }
          let c := { c with s := s }
          if some? then c.result g e f.dst f.nw f.pfx false (.one (p.phase.zeroExtend 64)) else .done s g none none

/-- A wait for phase `p` returns (R150). -/
def Phaser.passed (x : Phaser) (p : W32) : Bool := decide (0 < (x.phase - p).toInt)

def execPhwait (f : VForm) (s : State) : Host.Outcome State Fault Refusal :=
  runSlot s fun c =>
    let p : Use := if f.var = 1 then ⟨18, f.sb, .slq, 1⟩ else ⟨27, f.sa, .slq, 1⟩
    let roles (r : Role) (x : PhaserRef) : Option FaultInfo :=
      if r.wait then none else some (illegalOperand 6 x.pos x.n)
    c.phaserSlot f [] [p] false roles fun c g e x xs =>
      let phase := ((xs.headD fun _ => 0) ((lowest e).getD 0)).setWidth 32
      if (c.s.phaser g x.pkg x.n).passed phase then c.atTable c.s x fun s => .done (s.acquire g x.scope) g none none
      else .stop c.s c.g (.block (.phaser x.pkg x.n phase))

/-! ## Semaphores (R78, R79, R159, R302) -/

def semN (f : VForm) : Nat := (f.x.extractLsb' 0 5).toNat
def semCount (x : W64) : Nat := (x.extractLsb' 0 32).toNat
def semTarget (x : W64) : Nat := (x.extractLsb' 32 32).toNat
def semWord (target count : Nat) : W64 := BitVec.ofNat 64 (target % 2 ^ 32 * 2 ^ 32 + count % 2 ^ 32)
def semReached (x : W64) : Bool := semTarget x ≤ semCount x

/-- Writes a semaphore of a parcel; the waiters of a target that is reached become ready and stay so (R79). -/
def State.setSem (s : State) (u n : Nat) (x : W64) : State :=
  match s.parcel? u with
  | none => s
  | some p =>
      let s := s.setParcel { p with sems := Tbl.put 0 p.sems n x }
      if !semReached x then s
      else
        let waits (g : Group) : Bool := g.parcel = u && g.status = .waiting (.semaphore n)
        (s.groups.filter waits).foldl (fun s g => s.wake g.uid true) s

def State.sem (s : State) (u n : Nat) : W64 := ((s.parcel? u).map fun p => Tbl.get 0 p.sems n).getD 0

/-- The largest value of a semaphore's count and of its target. -/
def semMax : Nat := 2 ^ 32 - 1

/-- The increments that reached semaphore `n` of a parcel in the present cycle. -/
def State.semNow (s : State) (u n : Nat) : List SemArrival :=
  ((s.parcel? u).map fun p => p.semNow.filter fun a => a.sem = n && a.cycle = s.cycles).getD []

/-- A completion increment, saturating; the parcel keeps it for the cycle (R159). -/
def State.incSem (s : State) (u n inc : Nat) : State :=
  let x := s.sem u n
  let woke := (s.groups.filter fun g => g.parcel = u && g.status = .waiting (.semaphore n)).map fun g => g.uid
  let s := match s.parcel? u with
    | some p => s.setParcel { p with semNow := (p.semNow.filter fun (a : SemArrival) => a.cycle = s.cycles) ++ [({ sem := n, cycle := s.cycles, inc := inc, woke := woke } : SemArrival)] }
    | none => s
  s.setSem u n (semWord (semTarget x) (min (semCount x + inc) semMax))

/-- A group that an increment made ready in this cycle, and that has not gone on, waits again: the set of this cycle comes first and
its target is not reached (R159). -/
def State.unwake (s : State) (n u : Nat) : State :=
  match s.group? u with
  | none => s
  | some g =>
      if g.status = .ready && g.run.any fun r => r.woken then
        (s.setGroup { g with status := .waiting (.semaphore n), run := g.run.map fun r => { r with woken := false } }).rest g
      else s

/-- Paths of a parcel that became ready in this cycle are judged anew (R200). -/
def State.judgeReady (s : State) (u : Nat) : State :=
  let f (p : Path) : Path := if p.ready = some s.cycles then { p with ready := none } else p
  { s with groups := s.groups.map fun g => if g.parcel = u then { g with p0 := g.p0.map f, p1 := g.p1.map f } else g }

/-- What a semaphore holds after a semaphore-set instruction: groups that increments of its cycle made ready wait again when its
target is not reached. -/
def State.semIs (s : State) (u n : Nat) (x : W64) : State :=
  let now := s.semNow u n
  let s := s.setSem u n x
  if semReached x || now.isEmpty then s else ((now.flatMap fun a => a.woke).foldl (fun s g => s.unwake n g) s).judgeReady u

/-- A semaphore-set instruction writes a target and a count: it comes before every increment of its cycle (R79, R159). -/
def State.semSet (s : State) (u n target count : Nat) : State :=
  s.semIs u n (semWord target (min (count + ((s.semNow u n).map fun a => a.inc).foldl (· + ·) 0) semMax))

/-- A semaphore-set instruction writes a target. -/
def State.semTgt (s : State) (u n target : Nat) : State :=
  s.semIs u n (semWord target (semCount (s.sem u n)))

/-- A semaphore outside the parcel's reservation (R78). -/
def Ctx.semRange (c : Ctx) (pos n : Nat) : Option FaultInfo :=
  if c.launch.hdr.sems ≤ n then some (illegalOperand 5 pos n) else none

/-- A value of SEMSET with bits above 31. -/
def semValueFault (pos : Nat) (x : W64) : Option FaultInfo :=
  if x.toNat < 2 ^ 32 then none else some (illegalOperand 6 pos x.toNat)

def execSemset (f : VForm) (s : State) : Host.Outcome State Fault Refusal :=
  runSlot s fun c =>
    let e := c.enabled f.pg f.pn
    let l := (lowest e).getD 0
    let n := semN f
    c.enter { always := false, pre := c.semRange 0 n } e true [] (usesOf f (if f.var = 2 then 2 else 1) .slq) false fun c g xs =>
      let a := (xs.headD fun _ => 0) l
      let b := (xs.tail.headD fun _ => 0) l
      match (semValueFault 27 a).or (semValueFault 18 b) with
      | some x => c.trap x
      | none =>
          let x := c.s.sem g.parcel n
          let s := match f.var.toNat with
            | 0 => c.s.semTgt g.parcel n a.toNat
            | 1 => c.s.semSet g.parcel n (semTarget x) a.toNat
            | 2 => c.s.semSet g.parcel n a.toNat b.toNat
            | _ => c.s.semTgt g.parcel n (min (semTarget x + a.toNat) semMax)
          .done s g none none

/-- A fault of a card or a command that the next wait on its semaphore delivers (R313). -/
def Group.lateSem (g : Group) (n : Nat) : Option LateFault := g.late.find? fun x => x.sem = some n

def execSemwait (f : VForm) (s : State) : Host.Outcome State Fault Refusal :=
  runSlot s fun c =>
    let n := semN f
    c.enter { always := false, fence := true, pre := c.semRange 0 n } (c.enabled f.pg f.pn) true [] [] false fun c g _ =>
      match c.g.lateSem n with
      | some x => .stop c.s { c.g with late := c.g.late.filter fun y => y ≠ x } (.late x)
      | none =>
          if c.r.woken || semReached (c.s.sem g.parcel n) then .done (c.s.acquire g 6) g none none
          else .stop c.s c.g (.block (.semaphore n))

/-- SEMRD: in a v destination the one value stands in the written lanes, and in every lane of the latch. (DESIGN CHOICE, log entry 29) -/
def execSemrd (f : VForm) (s : State) : Host.Outcome State Fault Refusal :=
  runSlot s fun c =>
    let e := c.enabled f.pg f.pn
    let n := semN f
    c.enter { always := false, pre := c.semRange 0 n } e f.nw [dstOf f .vsq] [] true fun c g _ =>
      let x := c.s.sem g.parcel n
      let y := match f.var.toNat with
        | 0 => BitVec.ofNat 64 (semCount x)
        | 1 => BitVec.ofNat 64 (semTarget x)
        | _ => x
      c.result g e f.dst f.nw f.pfx false (.one y)

/-! ## QBIND (R109, R307) -/

/-- The instances of a port code and its direction (R109). -/
def portInstances (p : Nat) : Nat := if p = 3 || p = 4 then 4 else if 1 ≤ p && p ≤ 15 then 1 else 0
def portOut (p : Nat) : Bool := [0x02, 0x04, 0x06, 0x09, 0x0B, 0x0D, 0x0F].contains p

/-- What QBIND refuses: a reserved port, an instance beyond the port's, an output that another queue of the group holds. -/
def Group.bindRefused (g : Group) (q port inst : Nat) : Bool :=
  port ≠ 0 && (portInstances port ≤ inst || (portOut port && (g.outputAt port inst).any fun n => n ≠ q))

/-- QBIND: each binding gets a number that no other has, so that no result of an earlier one reaches it (R70, R112). (DESIGN CHOICE, log entry 76) -/
def execQbind (f : QForm) (s : State) : Host.Outcome State Fault Refusal :=
  runSlot s fun c =>
    let e := c.enabled f.pg f.pn
    let l := (lowest e).getD 0
    let q := f.qd.toNat
    let check (xs : List Src) : Option FaultInfo :=
      let x := ((xs.headD fun _ => 0) l).toNat
      if 2 ^ 14 ≤ x then some (illegalOperand 6 28 x) else faultIf (c.g.bindRefused q (x / 256) (x % 256)) (queueBinding q (c.g.queue q).binding)
    c.enter { always := false, access := true, check := check } e true [] [⟨28, f.desc, .sl, 1⟩] false fun c g xs =>
      let x := ((xs.headD fun _ => 0) l).toNat
      let (s, u) := c.s.fresh
      if x / 256 = 0 then .done s (g.setQueue q Queue.empty) none none
      else
        let b := BitVec.ofNat 16 (2 ^ 15 + (if portOut (x / 256) then 2 ^ 14 else 0) + x)
        .done s (g.setQueue q { Queue.empty with binding := b, gen := u + 1 }) none none

end Sys2Proof.Machine
end

