-- ==== Sys2Proof/Machine/Grants.lean ====
section
/-!
DEFINITION. Clause words of a code object, and the grant queues of traverse transactions: what control transfer, clause
issue and the traverse instructions share (R104, R123, R219, R305).
-/
namespace Sys2Proof.Machine
open Sys2Proof

/-! ## Clause words (R104, R219) -/

/-- What reading one clause word answers; `moving` is a page that moves, or a link on the way that holds its traffic. -/
inductive CodeWord where
  | word (w : W64)
  | fault (f : FaultInfo)
  | absent (va : Nat)
  | moving
  deriving DecidableEq, Repr

/-- Reads the 8-byte word at offset `o` (in 8-byte units) of a code object through the core's L1 (R93); the object must be
live, carry EXECUTE and hold the word, and the page must permit a fetch. -/
def State.codeWord (s : State) (core vf text o : Nat) : State × CodeWord :=
  let bad (c : Nat) : CodeWord := .fault (capabilityFault c 0 (8 * o) 0)
  match s.object (some core) vf text with
  | (s, none) => (s, bad 5)
  | (s, some e) =>
      if !objLive e then (s, bad 5)
      else if !hasRights (objRights e) rExecute then (s, bad 2)
      else if objPages e * 4096 < 8 * o + 8 then (s, bad 1)
      else
        let va := objBase e + 8 * o
        match s.translate (some core) vf va .fetch with
        | (s, .ok cell) =>
            (match (s.core core).l1Read cell 8 with
            | some bs => (s, .word (BitVec.ofNat 64 (natOfBytes bs)))
            | none => match s.crossNow clsControl (s.wayTo (core / 48) cell ++ s.wayFrom (core / 48) cell) with
              | some s => ((s.touchL2 cell 0 false).fillL1 core cell, .word (BitVec.ofNat 64 (natOfBytes (Memory.readN s.mem cell 8))))
              | none => (s, .moving))
        | (s, .absent) => (s, .absent va)
        | (s, .moving) => (s, .moving)
        | (s, .fault c lv x) => (s, .fault (translationFault c lv x 0 va))

/-- What reading words of code answers. -/
def CodeWord.stop (l : Launch) : CodeWord → Stop
  | .fault f => .trap f
  | .absent va => absentStop l 0 va
  | _ => .block .moving

/-- `n` words of code from offset `o`, or what stops the fetch. -/
def fetchWords (core vf text : Nat) (l : Launch) : Nat → Nat → State → State × Except Stop (List W64)
  | 0, _, s => (s, .ok [])
  | n + 1, o, s =>
      match s.codeWord core vf text o with
      | (s, .word w) =>
          (match fetchWords core vf text l n (o + 1) s with
          | (s, .ok ws) => (s, .ok (w :: ws))
          | (s, .error x) => (s, .error x))
      | (s, x) => (s, .error (x.stop l))

/-- The words of a clause after its header. -/
def clauseLength (header : W64) : Nat := (Header.ofWord header).count.toNat + 1

/-- Reads `n` words from offset `o`, none when one cannot be read. -/
def State.codeWords (core vf text : Nat) : Nat → Nat → State → State × Option (List (Nat × W64))
  | 0, _, s => (s, some [])
  | n + 1, o, s =>
      match s.codeWord core vf text o with
      | (s, .word w) =>
          (match State.codeWords core vf text n (o + 1) s with
          | (s, some ws) => (s, some ((o, w) :: ws))
          | (s, none) => (s, none))
      | (s, _) => (s, none)

/-- The words of the body from offset `o` through the clause at `last`, counted by headers, at most `fuel` clauses: how many
clauses, and their words. -/
def State.bodyWords (core vf text last : Nat) : Nat → Nat → State → State × Option (Nat × List (Nat × W64))
  | 0, _, s => (s, none)
  | fuel + 1, o, s =>
      match s.codeWord core vf text o with
      | (s, .word h) =>
          (match State.codeWords core vf text (clauseLength h) (o + 1) s with
          | (s, none) => (s, none)
          | (s, some ws) =>
              if o = last then (s, some (1, (o, h) :: ws))
              else if last < o then (s, none)
              else match State.bodyWords core vf text last fuel (o + 1 + clauseLength h) s with
                | (s, some (n, rest)) => (s, some (n + 1, (o, h) :: ws ++ rest))
                | (s, none) => (s, none))
      | (s, _) => (s, none)

/-- A taken LOOP fills an empty loop buffer with a body of at most eight clauses (R104). -/
def State.fillLoop (s : State) (core vf text : Nat) (first last : W32) : State :=
  if (s.core core).loop.isSome then s
  else match State.bodyWords core vf text last.toNat 8 first.toNat s with
    | (s, none) => s
    | (s, some (n, ws)) =>
        s.setCore core { s.core core with
          loop := some { first := first, last := last, text := text, vf := vf, count := n, words := ws } }

/-- Whether a resident path has its pc within the buffered body. -/
def State.inLoop (s : State) (core : Nat) (b : LoopBuffer) : Bool :=
  s.groups.any fun g => g.core = core && g.status ≠ .ended && (s.launchOf g).text = b.text && (s.launchOf g).vf = b.vf
    && ([g.p0, g.p1].any fun p => match p with
      | some p => b.first.toNat ≤ p.pc.toNat && p.pc.toNat ≤ b.last.toNat
      | none => false)

/-- The loop buffers that no resident path uses any more are emptied (R104). -/
def State.tidyLoops (s : State) : State :=
  s.cores.foldl (fun s e => match e.2.loop with
    | some b => if s.inLoop e.1 b then s else s.setCore e.1 { e.2 with loop := none }
    | none => s) s

/-! ## Grant queues (R123, R305) -/

/-- Every slice of the package: die and slice. -/
def allSlices : List (Nat × Nat) := ((span 0 Config.dies).map fun d => (span 0 48).map fun n => (d, n)).flatten

/-- The grant queues changed at every slice that has one. -/
def State.mapGrants (s : State) (f : List Grant → List Grant) : State :=
  let slice (t : Tbl Slice) (e : Nat × Slice) : Tbl Slice :=
    let x := e.2
    let gs := f x.grants
    Tbl.put Slice.empty t e.1 { x with grants := gs, big := x.big && decide (256 ≤ gs.length) }
  let die (t : Tbl Die) (e : Nat × Die) : Tbl Die :=
    Tbl.put Die.reset t e.1 { e.2 with slices := e.2.slices.foldl slice e.2.slices }
  { s with dies := s.dies.foldl die s.dies }

/-- Ends the entries of a declaration at every slice; one that is not placed yet is given up. -/
def State.endEntries (s : State) (d : Nat) : State :=
  let s := s.mapGrants fun gs => gs.filter fun x => x.decl ≠ d
  { s with decls := s.decls.filter fun x => x.uid ≠ d }

/-- An entry is granted when no earlier entry for its block stands in the queue. -/
def grantedIn (gs : List Grant) (d vf block : Nat) : Bool :=
  match gs.find? fun x => x.vf = vf && x.block = block with
  | some x => x.decl = d
  | none => false

/-- Every block of a declaration is placed and granted. -/
def State.granted (s : State) (d : Nat) : Bool :=
  match s.decls.find? fun x => x.uid = d with
  | none => false
  | some x => x.placed && x.blocks.all fun b =>
      allSlices.any fun y => grantedIn ((s.die y.1).slice y.2).grants d x.vf b

/-- Closes the submitted transaction of a group (R305): its entries end, or wait for the application of the log. -/
def State.closeTransaction (s : State) (g : Group) (d : Nat) : State × Group :=
  if s.subdivisible g then (s, { g with decl := none, closedTv := g.closedTv ++ [d] })
  else (s.endEntries d, { g with decl := none })

end Sys2Proof.Machine
end

