-- ==== Sys2Proof/Machine/Tiles.lean ====
section
/-!
DEFINITION. Tiles: their shape, their elements and their poison, and what keeps a handle in use (R87, R88, R130, R131,
R287).
-/
namespace Sys2Proof.Machine
open Sys2Proof

/-- The pitch of a row in 64-byte units (R88). -/
def tilePitch (t : ElemType) (cols : Nat) : Nat :=
  if t = .lg6 then ((cols + 9) / 10 * 8 + 63) / 64 else (cols * t.width + 511) / 512

/-- Where an element stands: the byte, how many bytes hold it, and its first bit among them. -/
def elemPlace (t : ElemType) (j : Nat) : Nat × Nat × Nat :=
  if t = .lg6 then (j / 10 * 8, 8, 6 * (j % 10)) else (j * (t.width / 8), t.width / 8, 0)

def Tile.place (t : Tile) (i j : Nat) : Nat × Nat × Nat :=
  let (b, n, sh) := elemPlace t.ty j
  (64 * t.pitch * i + b, n, sh)

/-- Element (i, j) of a tile. -/
def Tile.get (t : Tile) (i j : Nat) : Nat :=
  let (b, n, sh) := t.place i j
  field (natOfBytes (Memory.readN t.data b n)) sh t.ty.width

/-- A value with the field [lo + n - 1 : lo] replaced. -/
def setField (x lo n v : Nat) : Nat := x - field x lo n * 2 ^ lo + v % 2 ^ n * 2 ^ lo

def Tile.set (t : Tile) (i j v : Nat) : Tile :=
  let (b, n, sh) := t.place i j
  let x := setField (natOfBytes (Memory.readN t.data b n)) sh t.ty.width v
  { t with data := Memory.writeN t.data b (bytesOfNat n x) }

/-- Whether a tile has element (i, j). -/
def Tile.has (t : Tile) (i j : Nat) : Bool := i < t.rows && j < t.cols

/-- The element of a window: zero outside the tile. -/
def Tile.window (t : Tile) (i j : Nat) : Nat := if t.has i j then t.get i j else 0

/-- The elements that fill a 64-byte sector. -/
def sectorElems (t : ElemType) : Nat := if t = .lg6 then 80 else 512 / t.width

/-- One update of elements (row, column, pattern) of a tile; a poisoned sector that it fills loses its poison (R106). -/
def Tile.putAll (t : Tile) (es : List (Nat × Nat × Nat)) : Tile :=
  let es := es.filter fun e => t.has e.1 e.2.1
  let full (x : Nat) : Bool :=
    sectorElems t.ty ≤ (((es.map fun e => (e.1, e.2.1)).filter fun e => (t.place e.1 e.2).1 / 64 = x).eraseDups).length
  let t' := es.foldl (fun (t : Tile) e => t.set e.1 e.2.1 e.2.2) t
  { t' with poison := t.poison.filter fun x => !full x }

/-- Whether a byte range of a tile meets a poisoned sector. -/
def Tile.bad (t : Tile) (b n : Nat) : Bool := t.poison.any fun x => x * 64 < b + n && b < x * 64 + 64

/-- The tile of a handle of a parcel. -/
def Parcel.tile? (p : Parcel) (h : Nat) : Option Tile := Tbl.get none p.tiles h
/-- A free handle: every field at its reset value (R130). -/
def Tile.blank : Tile :=
  { level := 0, core := 0, ty := .n8, rows := 1, cols := 1, pitch := 1, unitsRsv := 0, unitsFree := 0, units := [], since := 0, byGroup := 0,
    data := [], poison := [] }

/-- UNITS of a tile's entry (R130). -/
def Tile.unitCount (t : Tile) : Nat := t.unitsRsv + t.unitsFree

/-- Where byte `o` of an allocation lies: its unit and the offset there (R130). -/
def Tile.unitOf (t : Tile) (o : Nat) : Nat × Nat := (t.units.getD (o / 4096) 0, o % 4096)

def Parcel.setTile (p : Parcel) (h : Nat) (t : Option Tile) : Parcel := { p with tiles := Tbl.put none p.tiles h t }
def State.setTile (s : State) (u h : Nat) (t : Tile) : State :=
  match s.parcel? u with
  | some p => s.setParcel (p.setTile h (some t))
  | none => s
def State.tileOf (s : State) (u h : Nat) : Option Tile := (s.parcel? u).bind fun p => p.tile? h

/-- The handle fault of a field (R131). -/
def handleFault (pos h : Nat) : FaultInfo := illegalOperand 4 pos h

/-- The fields of an operand header (R325). -/
def hdrHandle (h : W64) : Nat := (h.extractLsb' 58 6).toNat
/-- The fields of a drain word that name its destination (R341). -/
def drainGlobal (w : W64) : Bool := w.getLsbD 59
def drainHandle (w : W64) : Nat := (w.extractLsb' 49 6).toNat

/-- The handles that a matrix operation names (R287). -/
def MtxKind.handles : MtxKind → List Nat
  | .multiply _ _ _ _ a b _ _ _ => [hdrHandle a, hdrHandle b]
  | .unfold a _ d => [hdrHandle a, d]
  | .load _ _ h _ => [h]
  | .drain _ w _ => if drainGlobal w then [] else [drainHandle w]
  | .qk _ _ _ rope q _ pw _ => if rope then [hdrHandle q, (pw.extractLsb' 58 6).toNat] else [hdrHandle q]
  | .softmax _ _ _ st => [st]
  | .massDrain _ _ _ st _ => [st]
  | .zero _ | .get .. | .put .. | .convert .. | .pv .. => []

/-- The handles that a card names. -/
def Card.handles (c : Card) : List Nat := ((c.reads ++ c.writes).filter fun r => !r.global).map fun r => r.handle

/-- The handles that an engine command of a parcel names: PARAM and RESH of a reuse card (R287, R375). -/
def QEntry.handles (x : QEntry) : List Nat :=
  match x.cmd with
  | some (.reuse _ card _ _ _) => [(card.extractLsb' 338 6).toNat, (card.extractLsb' 332 6).toNat]
  | _ => []

/-- Whether something that has not completed names a handle of a parcel. -/
def State.handleBusy (s : State) (p : Parcel) (h : Nat) : Bool :=
  let x := s.pair (p.core / 2)
  (x.cards.any fun c => c.parcel = p.uid && (match c.state with | .stopped _ => false | _ => true) && c.handles.contains h)
    || (x.ops.any fun o => o.parcel = p.uid && o.kind.handles.contains h)
    || (s.groups.any fun g => g.parcel = p.uid && g.queues.any fun q => q.2.entries.any fun e => e.handles.contains h)
    || (s.engines.any fun e => match e.2.busy with
      | some b => b.parcel = p.uid && b.entries.any fun x => x.handles.contains h
      | none => false)

end Sys2Proof.Machine
end

