-- ==== Sys2Proof/Machine/Units.lean ====
section
/-!
DEFINITION. What matrix operations, cards and engine commands share: their reads of global memory and of tiles, the
translation of what they write, and the results that they hand back to a group (R96, R103, R106, R112, R138, R144, R194).
-/
namespace Sys2Proof.Machine
open Sys2Proof

def State.launchOfParcel (s : State) (parcel : Nat) : Launch := s.launchFor ((s.parcel? parcel).getD Parcel.blank)

/-- The log of a parcel, which its own reads see (R103). -/
def State.logOf (s : State) (parcel : Nat) : List LogRec := ((s.parcel? parcel).map fun p => p.log).getD []

/-! ## Global memory -/

/-- Why a unit cannot make an access now, or at all. -/
inductive UnitStop where
  | fault (f : FaultInfo)
  | moving
  | absent (va : Nat)
  deriving DecidableEq, Repr

/-- What a unit's stop means for work of launch `l`: a fault, a wait or a park (R143, R144). -/
def UnitStop.stop (l : Launch) : UnitStop → Stop
  | .fault f => .trap f
  | .moving => .block .moving
  | .absent va => absentStop l 0 va

/-- Translates addresses in turn with a fresh walk each: the cells, or the first stop. -/
def unitCells (vf : Nat) (kind : Access) : State → List Nat → State × Except UnitStop (List Nat)
  | s, [] => (s, .ok [])
  | s, va :: vs =>
      match s.translate none vf va kind with
      | (s, .ok c) =>
          (match unitCells vf kind s vs with
          | (s, .ok cs) => (s, .ok (c :: cs))
          | (s, .error x) => (s, .error x))
      | (s, .absent) => (s, .error (.absent va))
      | (s, .moving) => (s, .error .moving)
      | (s, .fault c lv e) => (s, .error (.fault (translationFault c lv e 0 va)))

/-- The bytes of the piece at `p` that belong to [va, va + n). -/
def pieceSize (va n p : Nat) : Nat := min (p / 64 * 64 + 64) (va + n) - p

/-- The directions that the read of a unit of a die takes to the home of a cell and back; 4 is the control die. -/
def State.unitWay (s : State) (die c : Nat) : List Nat :=
  if die < 4 then s.wayTo die c ++ s.wayFrom die c else if s.remote c then [] else fromControl (homeDie c) ++ toControl (homeDie c)

/-- Who reads: the die of a unit and the class of its traffic (R128). -/
structure Via where
  die : Nat
  cls : Nat
  deriving DecidableEq, Repr

/-- Reads `n` bytes at `va` at the home slices, with the newest log record of the parcel over them (R103).  A unit waits for links
that hold their traffic as for a page that moves. -/
def State.unitRead (s : State) (by' : Via) (vf : Nat) (log : List LogRec) (va n : Nat) : State × Except UnitStop (List Byte) :=
  if n = 0 then (s, .ok [])
  else
    let ps := pieces va n
    match unitCells vf .read s ps with
    | (s, .error x) => (s, .error x)
    | (s, .ok cs) =>
        let pcs := ps.zip cs
        match (pcs.findSome? fun p => s.badData p.2 (pieceSize va n p.1) 0 p.1).or (if logBad va n log then some (poisonFault 1 0 va) else none) with
        | some bad => (s, .error (.fault bad))
        | none =>
            let piece (p : Nat × Nat) : List Byte :=
              let k := pieceSize va n p.1
              let o := logOverlay s.mem p.1 p.2 k log []
              patchBytes (Memory.readN s.mem p.2 k) ((span 0 k).filterMap fun i => (overlay o (p.1 + i)).map fun b => (i, b))
            match crossWays by'.cls ((pcs.map fun p => s.unitWay by'.die p.2).eraseDups) s with
            | none => (s, .error .moving)
            | some s => (pcs.foldl (fun s p => s.touchL2 p.2 0 false) s, .ok (pcs.map piece).flatten)

/-- Reads several ranges in turn. -/
def unitReads (by' : Via) (vf : Nat) (log : List LogRec) : State → List (Nat × Nat) → State × Except UnitStop (List (List Byte))
  | s, [] => (s, .ok [])
  | s, r :: rs =>
      match s.unitRead by' vf log r.1 r.2 with
      | (s, .error x) => (s, .error x)
      | (s, .ok bs) =>
          match unitReads by' vf log s rs with
          | (s, .ok bss) => (s, .ok (bs :: bss))
          | (s, .error x) => (s, .error x)

/-- One aligned 64-byte piece of a write: its address, its cell and its bytes. -/
structure WritePiece where
  va   : Nat
  cell : Nat
  data : List Byte
  deriving DecidableEq, Repr

/-- The pieces of a write of `bs` at `va`, not yet translated. -/
def cutBytes (va : Nat) (bs : List Byte) : List (Nat × List Byte) :=
  if bs.isEmpty then [] else (pieces va bs.length).map fun p => (p, (bs.drop (p - va)).take (pieceSize va bs.length p))

/-- The translated pieces of writes. -/
def State.unitPieces (s : State) (vf : Nat) (kind : Access) (ws : List (Nat × List Byte)) :
    State × Except UnitStop (List WritePiece) :=
  let ps := (ws.map fun w => cutBytes w.1 w.2).flatten
  match unitCells vf kind s (ps.map fun p => p.1) with
  | (s, .error x) => (s, .error x)
  | (s, .ok cs) => (s, .ok ((ps.zip cs).map fun x => { va := x.1.1, cell := x.2, data := x.1.2 }))

/-- Applies the pieces of one indivisible update, each at its home slice (R470). -/
def State.applyPieces (s : State) (h : BitVec 2) (ps : List WritePiece) : State :=
  ps.foldl (fun s p => s.applyWrite p.cell h p.data) s

/-- The pieces of an indivisible update of a unit of a die reach their homes; none while a link on the way holds its traffic (R2,
R128). -/
def State.crossPieces (s : State) (by' : Via) (ps : List WritePiece) : Option State :=
  crossWays by'.cls ((ps.map fun p => s.wayTo by'.die p.cell).eraseDups) s

/-- Sends pieces to their homes, each as one write of `sender`: the state, and how many are counted (R157). -/
def State.sendPieces (s : State) (sender : Sender) (by' : Via) (vf : Nat) (h : BitVec 2) (clause : W32) (slot : Nat)
    (ps : List WritePiece) : State × Nat :=
  let op (p : WritePiece) : HomeOp :=
    { sender := sender, fromDie := by'.die, home := homeDie p.cell, lane := 0, vf := vf, va := p.va, cell := p.cell, hint := h,
      kind := .write p.data, counted := s.isFar by'.die p.cell, released := false, clause := clause, slot := slot }
  let ops := ps.map op
  (ops.foldl (fun s o => s.sendOp o by'.cls) s, (ops.filter fun o => o.counted).length)

/-- The class queues of the ways of pieces have room (R108). -/
def State.roomOver (s : State) (by' : Via) (ps : List WritePiece) : Bool :=
  ps.all fun p => s.roomOn (inClass by'.cls (s.wayTo by'.die p.cell))

/-- The rank of the home of a cell: its die, or 4 for the host and the fabric. -/
def State.homeRank (s : State) (c : Nat) : Nat := if s.remote c then 4 else homeDie c

/-- An acknowledgement leaves for a sender on a die, as control traffic from the die of its rank, or from the control die for rank 4
(R128, R157). -/
def State.sendAck (s : State) (a : Ack) (die : Nat) : State :=
  let (s, u) := s.fresh
  ({ s with acks := s.acks ++ [{ a with uid := u }] }).sendFlit u
    (inClass clsControl (if a.rank = 4 then fromControl die else dieWay a.rank die))

/-- The acknowledgement of a counted write of a parcel's log from the home of rank `rank` (R158). -/
def Parcel.logAck (p : Parcel) (rank : Nat) : Ack :=
  { sender := .parcel p.uid, error := false, rank := rank, lane := 0, va := 0, clause := 0, slot := 0 }

/-- Whether work that parked on a record is still held by it: until the record is resolved or superseded (R144, R422). -/
def State.heldBy (s : State) (vf : Nat) (p : Option Nat) : Bool :=
  match p with
  | some q => ((s.vf vf).records ++ (s.vf vf).stalled).any fun r => r.seq = q && r.state = 0
  | none => false

/-! ## Tiles -/

/-- The tile of a handle that a unit of a parcel uses; the handle is valid while its user runs (R287). -/
def State.unitTile (s : State) (parcel h : Nat) : Tile := (s.tileOf parcel h).getD Tile.blank

/-- The data-poison fault of a byte of a tile. (DESIGN CHOICE, log entry 10) -/
def tilePoison (h b : Nat) : FaultInfo := { poisonFault 2 0 0 with addr := Config.tileAddr h b }

/-- The first of the elements (row, column) that a unit consumes in a poisoned sector (R106). -/
def Tile.poisonAt (t : Tile) (h : Nat) (els : List (Nat × Nat)) : Option FaultInfo :=
  if t.poison.isEmpty then none
  else els.findSome? fun x =>
    let (b, n, _) := t.place x.1 x.2
    if t.has x.1 x.2 && t.bad b n then some (tilePoison h b) else none

/-- Every place of a window of `r` rows and `c` columns, by row. -/
def gridOf (r c : Nat) : List (Nat × Nat) := ((span 0 r).map fun i => (span 0 c).map fun j => (i, j)).flatten

/-- Writes elements (handle, row, column, pattern) of a parcel's tiles. -/
def State.putElements (s : State) (parcel : Nat) (es : List (Nat × Nat × Nat × Nat)) : State :=
  let hs := es.foldl (fun (l : List Nat) e => if l.contains e.1 then l else l ++ [e.1]) []
  hs.foldl (fun s h =>
    match s.tileOf parcel h with
    | some t => s.setTile parcel h (t.putAll ((es.filter fun e => e.1 = h).map fun e => e.2))
    | none => s) s

/-- Bytes written to a tile; a sector that is written whole loses its poison (R106). -/
def Tile.putBytes (t : Tile) (b : Nat) (bs : List Byte) : Tile :=
  { t with data := Memory.writeN t.data b bs, poison := clearPoison t.poison b bs.length }

/-! ## Results for a group (R112) -/

/-- Pushes entries to a queue of a group, if it is still the binding `gen`. -/
def State.deliver (s : State) (g q gen : Nat) (es : List QEntry) : State :=
  match s.group? g with
  | none => s
  | some x => if (x.queue q).gen = gen && bindValid (x.queue q).binding then s.setGroup (es.foldl (fun x e => x.pushEntry q e) x) else s

/-- Whether a binding that is still the same holds `n` more entries; one that is gone takes anything. -/
def State.queueRoom (s : State) (g q gen n : Nat) : Bool :=
  match s.group? g with
  | none => true
  | some x => (x.queue q).gen ≠ gen || (x.queue q).entries.length + n ≤ Config.queueDepth

/-- A group gets a fault that it takes later. (DESIGN CHOICE, log entry 31) -/
def State.addLate (s : State) (g : Nat) (f : LateFault) : State :=
  match s.group? g with
  | none => s
  | some x => s.setGroup { x with late := x.late ++ [f] }

/-- A fault of a card or of a command: its record is posted now, and its group takes it at its next pop of `queue`, its next
wait on `sem`, or its EXIT (R313), with `boundary` at its next clause boundary too (R427).
(DESIGN CHOICE, log entry 31) -/
def State.unitFails (s : State) (g : Nat) (clause : W32) (slot : Nat) (f : FaultInfo) (queue sem : Option Nat) (boundary : Bool) : State :=
  match s.group? g with
  | none => s
  | some x =>
      if f.disposition = .ends then ((s.post (s.groupRecord x f clause slot 1 (.parcel x.parcel))).1).endParcel x.parcel none
      else
        let (s, q) := s.post (s.groupRecord x f clause slot 0 (.group g))
        s.addLate g { info := f, posted := some q, clause := clause, slot := slot, queue := queue, sem := sem,
                      atBoundary := boundary, atRelease := false, matrix := false }

/-- Work of a group meets an absent page: a record on which it parks, or the lease fault (R143, R144). -/
def State.unitParks (s : State) (g : Nat) (clause : W32) (slot : Nat) (owner : Owner) (va : Nat) : State × Except FaultInfo Nat :=
  match s.group? g with
  | none => (s, .error (leaseFault 0 va))
  | some x =>
      match absentStop (s.launchOf x) 0 va with
      | .park f =>
          let (s, q) := s.post (s.groupRecord x f clause slot 0 owner)
          (s, .ok q)
      | .trap f => (s, .error f)
      | _ => (s, .error (leaseFault 0 va))

/-- The increment of a completion (R148, R302). -/
def State.completion (s : State) (parcel : Nat) (semv : Bool) (sem inc : Nat) : State :=
  if semv then s.incSem parcel sem inc else s

end Sys2Proof.Machine
end

