-- ==== Sys2Proof/Machine/Accept.lean ====
section
/-!
DEFINITION. The acceptance of a launch: the launch entry, the kernel metadata object with its records, their checks in the
order of R120, and the filling of leases (R17 to R19, R119, R120, R143, R224 to R229, R469).
-/
namespace Sys2Proof.Machine
open Sys2Proof

/-! ## What stops an acceptance -/

/-- A refusal with its CAUSE and ARG1, or a page of the metadata object that is absent or moving. -/
inductive AcceptStop where
  | refuse (cause arg : Nat)
  | absent (va : Nat)
  | moving
  deriving DecidableEq, Repr

/-- A check that refuses the launch. -/
def need (b : Bool) (cause : Nat) (arg : Nat := 0) : Except AcceptStop Unit := if b then .ok () else .error (.refuse cause arg)

/-- Bytes [off, off + n) of the metadata object, through the function's translation. (DESIGN CHOICE, log entry 39) -/
def State.metaRead (s : State) (vf obj off n : Nat) : Except AcceptStop (List Byte) :=
  let e := s.objectInMemory vf obj
  if objPages e * 4096 < off + n then .error (.refuse 3 0)
  else match (s.unitRead { die := 4, cls := sizedClass n clsRequest } vf [] (objBase e + off) n).2 with
    | .ok bs => .ok bs
    | .error (.absent va) => .error (.absent va)
    | .error .moving => .error .moving
    | .error (.fault _) => .error (.refuse 3 0)

/-- Whether an object is LIVE with the right `need`. -/
def State.liveObject (s : State) (vf obj right : Nat) : Bool :=
  let e := s.objectInMemory vf obj
  obj < otCount (s.vf vf).otdesc && objLive e && hasRights (objRights e) right

/-- Whether the clause offset `o` lies within a code object of `size` bytes. -/
def inCode (size o : Nat) : Bool := o * 8 + 8 ≤ size

/-! ## The metadata header (R224) -/

structure MetaHeader where
  kh    : Nat
  khcnt : Nat
  safe  : Nat
  lease : Nat
  calls : Nat
  size  : Nat
  deriving DecidableEq, Repr

def MetaHeader.bases (h : MetaHeader) : List Nat := [h.kh, h.safe, h.lease, h.calls]

/-- Where the section at `base` ends: at the next section, or with the object; one that starts where the kernel-header
records do is empty. -/
def MetaHeader.ends (h : MetaHeader) (base : Nat) : Nat :=
  if base = h.kh then base else (h.bases.filter fun b => base < b).foldl min h.size

/-- A header of 64 bytes; none when it breaks R224. -/
def metaHeader (bs : List Byte) (size : Nat) : Option MetaHeader :=
  let x := natOfBytes bs
  let h : MetaHeader := { kh := field x 0 64, khcnt := field x 64 32, safe := field x 128 64, lease := field x 192 64, calls := field x 256 64,
                          size := size }
  let top := h.kh + 128 * h.khcnt
  if x >>> 320 = 0 && field x 96 32 = 0 && 1 ≤ h.khcnt && h.khcnt ≤ 65536
      && h.bases.all (fun b => b % 16 = 0 && 64 ≤ b && b ≤ size) && top ≤ size
      && [h.safe, h.lease, h.calls].all (fun b => b ≤ h.kh || top ≤ b) then some h
  else none

/-! ## The kernel-header record (R225, R226) -/

/-- The reserved bits of a record, as pairs of position and width. -/
def kernelReserved : List (Nat × Nat) := [(688, 336), (551, 1), (534, 2), (507, 5), (474, 6), (442, 6)]

/-- The widths of WIDTH. -/
def widthOf : Nat → Nat | 0 => 8 | 1 => 16 | 2 => 32 | _ => 64

/-- Where the tables of a kernel lie: their offsets and counts. -/
structure KernelTables where
  safe   : Nat × Nat
  lease  : Nat × Nat
  calls  : Nat × Nat
  deriving DecidableEq, Repr

def kernelTables (x : Nat) : KernelTables :=
  { safe := (field x 560 32, field x 552 8), lease := (field x 608 32, field x 592 16), calls := (field x 656 32, field x 640 16) }

/-- The fields of a record; the tables are read apart. -/
def kernelOf (x : Nat) : Kernel :=
  { entry := BitVec.ofNat 32 (field x 0 32), domX := field x 64 32, domY := field x 96 32, domZ := field x 128 32,
    grX := field x 160 32, grY := field x 192 32, grZ := field x 224 32,
    minX := field x 256 32, minY := field x 288 32, minZ := field x 320 32,
    fmt := BitVec.ofNat 32 (field x 352 32), allowM1 := field x 384 40, sub := x.testBit 424, pairs := x.testBit 425,
    axes := field x 426 2, width := widthOf (field x 428 2), prio := BitVec.ofNat 2 (field x 430 2), allot := 8 * field x 432 6,
    groups := field x 438 4 + 1, ceil := field x 448 16, lanes := field x 464 10 + 1, privW := field x 480 17,
    depth := field x 497 10 + 1, tiles := field x 512 9, phasers := field x 521 7, sems := field x 528 6,
    clog := 4096 * field x 536 15, safe := [], calls := [] }

/-- The limits of one axis: extents, grain and minimum; an axis beyond AXES holds ones. -/
def axisOk (declared : Bool) (d g m : Nat) : Bool :=
  if declared then 1 ≤ d && d ≤ 2 ^ 31 && 1 ≤ m && m ≤ g && g ≤ 2 ^ 31 else d = 1 && g = 1 && m = 1

/-- The largest number of groups of a parcel on one core (R226). -/
def Kernel.perCore (k : Kernel) : Nat := if k.pairs then (k.groups + 1) / 2 else k.groups

/-- Sections that begin at one offset overlap, unless one of them holds nothing (R224). -/
def MetaHeader.apart (h : MetaHeader) (t : KernelTables) : Bool :=
  let full := (if t.safe.2 = 0 then [] else [h.safe]) ++ (if t.lease.2 = 0 then [] else [h.lease]) ++ (if t.calls.2 = 0 then [] else [h.calls])
  full.eraseDups.length = full.length

/-- The limits of R17 and R226 on a record whose code object has `size` bytes. -/
def kernelOk (x : Nat) (h : MetaHeader) (size : Nat) : Bool :=
  let k := kernelOf x
  let t := kernelTables x
  let within (base : Nat) (r : Nat × Nat) : Bool := r.1 % 16 = 0 && base + r.1 + 16 * r.2 ≤ max base (h.ends base)
  kernelReserved.all (fun r => field x r.1 r.2 = 0) && k.axes ≠ 0
    && axisOk true k.domX k.grX k.minX && axisOk (2 ≤ k.axes) k.domY k.grY k.minY && axisOk (3 ≤ k.axes) k.domZ k.grZ k.minZ
    && 8 ≤ k.allot && k.allot ≤ 256 && k.ceil ≤ 16384 && k.allot / 8 * k.width * k.perCore ≤ k.ceil
    && k.lanes ≤ k.groups * k.width && k.privW ≤ 65536 && 2 ≤ k.depth && k.tiles ≤ 256 && k.phasers ≤ 64 && k.sems ≤ 32
    && (if k.sub then 1023 ≤ k.allowM1 && 1 ≤ k.clog && k.clog ≤ 16384 * 4096 else k.allowM1 = 0 && k.clog = 0)
    && k.fmt.extractLsb' 24 8 = 0 && (k.fmt.extractLsb' 4 4).toNat ≤ 1 && inCode size k.entry.toNat
    && t.lease.2 ≤ 256 && t.calls.2 ≤ 256 && within h.safe t.safe && within h.lease t.lease && within h.calls t.calls

/-! ## Safe-point, lease and callable records (R227 to R229) -/

/-- The 16-byte records of a table. -/
def recordsOf (n : Nat) (bs : List Byte) : List Nat := splitElems 16 n bs

/-- A safe-point record; one whose SAVE is 0xFFFFFFFF is undefined, and its code offsets name nothing (R227). -/
def safeOk (size x : Nat) : Bool :=
  field x 64 32 = 0 && field x 96 32 % 64 = 0
    && (field x 0 32 = 0xFFFFFFFF || (inCode size (field x 0 32) && inCode size (field x 32 32)))
def safeOf (x : Nat) : W32 × W32 × Nat := (BitVec.ofNat 32 (field x 0 32), BitVec.ofNat 32 (field x 32 32), field x 96 32)

def leaseOk (x : Nat) : Bool :=
  field x 8 24 = 0 && field x 4 2 = 0 && field x 6 2 ≤ 1 && field x 0 4 ≠ 15 && 1 ≤ field x 80 48
    && field x 32 48 + field x 80 48 ≤ 2 ^ 48

def callOk (size x : Nat) : Bool :=
  x >>> 56 = 0 && field x 39 9 = 0 && 1 ≤ field x 32 7 && field x 32 7 ≤ 64 && inCode size (field x 0 32)
def callOf (x : Nat) : Nat × Nat × W32 := (field x 48 8, field x 32 7, BitVec.ofNat 32 (field x 0 32))

/-- The CID of a callable record. -/
def callId (x : Nat) : Nat := field x 48 8

/-- No valid record of an image, at another offset in `.callable`, has the CID of one of the records `mine` (R229). (DEDUCED, log entry 44) -/
def callsDistinct (mine image : List (Nat × Nat)) : Bool := mine.all fun c => image.all fun d => d.1 = c.1 || callId d.2 ≠ callId c.2

/-- The records of a table from offset `off`, each with its offset. -/
def placed (off : Nat) (rs : List Nat) : List (Nat × Nat) := ((span 0 rs.length).zip rs).map fun r => (off + 16 * r.1, r.2)

/-- The callable records of the kernels from number `n`, each with its offset in `.callable`: every kernel of an image may name them; a
table that does not lie in the object has none. (DEDUCED, log entry 44) -/
def imageCalls (s : State) (vf obj : Nat) (h : MetaHeader) : Nat → Nat → Except AcceptStop (List (Nat × Nat))
  | 0, _ => .ok []
  | k + 1, n => do
      let x ← s.metaRead vf obj (h.kh + 128 * n) 128
      let (off, cnt) := (kernelTables (natOfBytes x)).calls
      let mine ← if h.size < h.calls + off + 16 * cnt then .ok [] else s.metaRead vf obj (h.calls + off) (16 * cnt)
      let rest ← imageCalls s vf obj h k (n + 1)
      .ok (placed off (recordsOf (mine.length / 16) mine) ++ rest)

/-! ## The launch entry (R120) -/

/-- The field of `n` bytes at byte `off` of an entry. -/
def entryField (bs : List Byte) (off n : Nat) : Nat := natOfBytes ((bs.drop off).take n)

/-- The checks of R120 on a capability that an entry passes. -/
def State.launchCapOk (s : State) (vf : Nat) (c : Cap) : Bool :=
  let e := s.objectInMemory vf c.obj
  !c.sealedBit && c.bits.extractLsb' 0 7 = 0 && c.obj < otCount (s.vf vf).otdesc && objLive e && hasRights (objRights e) c.rights
    && c.page + c.upper + 1 ≤ objPages e

/-- The capability CAPn of an entry. -/
def entryCap (bs : List Byte) (n : Nat) : Cap := { bits := BitVec.ofNat 128 (entryField bs (192 + 16 * n) 16), tag := true }

/-- Whether CAPn is passed. -/
def entryPasses (bs : List Byte) (n : Nat) : Bool := (entryField bs 10 2).testBit n

/-- An override on an axis (R18): the extent, none when it is refused. -/
def axisExtent (declared : Bool) (d o : Nat) : Option Nat :=
  if declared then (if o = 0 then some d else if o ≤ 2 ^ 31 then some o else none) else if o ≤ 1 then some 1 else none

/-- The address range of a lease record, none when its capability is not passed. -/
def State.leaseRange (s : State) (vf : Nat) (bs : List Byte) (x : Nat) : Option Range :=
  let n := field x 0 4
  if entryPasses bs n then
    let base := objBase (s.objectInMemory vf (entryCap bs n).obj)
    some { lo := base + field x 32 48, hi := base + field x 32 48 + field x 80 48 }
  else none

/-- Whether the security engine admits the code of a launch (R445). -/
def State.codeAdmitted (s : State) (vf text : Nat) : Bool :=
  !(s.vf vf).sigpol.getLsbD 0 || s.control.admitted.contains (vf, text)

/-- Reads and checks the entry of launch `l` in the order of R120. (DEDUCED/DESIGN CHOICE, log entries 39, 44) -/
def State.judge (s : State) (l : Launch) : Except AcceptStop Launch := do
  let bs := l.entry
  let vf := l.vf
  let text := entryField bs 0 4
  let obj := entryField bs 4 4
  let kernel := entryField bs 8 2
  let code := objPages (s.objectInMemory vf text) * 4096
  let size := objPages (s.objectInMemory vf obj) * 4096
  need (text < 2 ^ 24 && s.liveObject vf text rExecute) 3
  need (obj < 2 ^ 24 && s.liveObject vf obj rRead) 3
  let hb ← s.metaRead vf obj 0 64
  match metaHeader hb size with
  | none => .error (.refuse 3 0)
  | some h =>
      need (kernel < h.khcnt) 3
      need (!entryPasses bs 15 && entryField bs 12 4 = 0) 3
      let kb ← s.metaRead vf obj (h.kh + 128 * kernel) 128
      let x := natOfBytes kb
      need (h.apart (kernelTables x)) 3
      need (kernelOk x h code) 1
      let k := kernelOf x
      match axisExtent true k.domX (entryField bs 16 4), axisExtent (2 ≤ k.axes) k.domY (entryField bs 20 4),
          axisExtent (3 ≤ k.axes) k.domZ (entryField bs 24 4) with
      | some dx, some dy, some dz =>
          let t := kernelTables x
          let safe ← s.metaRead vf obj (h.safe + t.safe.1) (16 * t.safe.2)
          let lease ← s.metaRead vf obj (h.lease + t.lease.1) (16 * t.lease.2)
          let calls ← s.metaRead vf obj (h.calls + t.calls.1) (16 * t.calls.2)
          let all ← imageCalls s vf obj h h.khcnt 0
          let image := all.filter fun c => callOk code c.2
          let (safe, lease, calls) := (recordsOf t.safe.2 safe, recordsOf t.lease.2 lease, recordsOf t.calls.2 calls)
          need (safe.all (safeOk code) && lease.all leaseOk && calls.all (callOk code) && callsDistinct (placed t.calls.1 calls) image) 3
          need (entryField bs 40 24 = 0) 3
          match (span 0 15).find? fun n => entryPasses bs n && !s.launchCapOk vf (entryCap bs n) with
          | some n => .error (.refuse 2 n)
          | none =>
              need (entryField bs 432 80 = 0) 3
              need (s.codeAdmitted vf text) 4
              .ok { l with
                text := text, metaObj := obj, kernel := kernel, hdr := { k with safe := safe.map safeOf, calls := calls.map callOf },
                kernels := h.khcnt, image := image.eraseDups.map fun c => callOf c.2, args := (span 0 16).map fun n => BitVec.ofNat 64 (entryField bs (64 + 8 * n) 8),
                caps := (span 0 15).map fun n => if entryPasses bs n then entryCap bs n else Cap.clear,
                seed := BitVec.ofNat 64 (entryField bs 32 8), frame := BitVec.ofNat 32 (entryField bs 28 4),
                domX := dx, domY := dy, domZ := dz, state := .filling none,
                leases := (lease.filter fun r => field r 6 2 = 0).filterMap (s.leaseRange vf bs),
                demand := (lease.filter fun r => field r 6 2 = 1).filterMap (s.leaseRange vf bs) }
      | _, _, _ => .error (.refuse 1 0)

/-! ## Acceptance -/

def launchRefused (kernel cause arg : Nat) : FaultInfo := .mk' 0x0025 cause kernel arg

/-- The page-absent record that the distributor posts, with CAUSE 3, and on which a launch waits (R120, R143). -/
def State.fillRecord (s : State) (l : Launch) (va : Nat) : State × Nat :=
  s.post (s.launchRecord l (.mk' 0x0020 3 0 0 0 0 va) 0)

/-- A launch is accepted, refused, or waits for a page of its metadata object. -/
def State.acceptLaunch (s : State) (l : Launch) : State :=
  match s.judge l with
  | .ok l => s.setLaunch l
  | .error (.refuse cause arg) =>
      let s := { s with launches := s.launches.filter fun x => x.uid ≠ l.uid }
      ((s.post (s.launchRecord l (launchRefused (entryField l.entry 8 2) cause arg) 1)).1).noteBacklog l.vf l.queue
  | .error (.absent va) =>
      let (s, q) := s.fillRecord l va
      s.setLaunch { l with state := .accepting (some q) }
  | .error .moving => s

/-- The first absent page of [va, va + 4096 n), by pages of 4 KiB. (DESIGN CHOICE, log entry 40) -/
def firstAbsent (s : State) (vf : Nat) : Nat → Nat → Option Nat
  | 0, _ => none
  | n + 1, va =>
      match (s.translate none vf va .read).2 with
      | .absent => some va
      | _ => firstAbsent s vf n (va / 4096 * 4096 + 4096)

def Range.absent (s : State) (vf : Nat) (r : Range) : Option Nat :=
  if r.hi ≤ r.lo then none else firstAbsent s vf ((r.hi - 1) / 4096 - r.lo / 4096 + 1) r.lo

/-- The leases of a launch enter the table of 256, and then the pages of its resident ranges are walked (R143).
(DESIGN CHOICE, log entry 40) -/
def State.fillLeases (s : State) (l : Launch) : State :=
  let v := s.vf l.vf
  let entered := v.leases.any fun e => e.1 = l.uid
  if !entered && 256 < v.leases.length + l.leases.length then s
  else
    let s := if entered then s else s.setVf l.vf { v with leases := v.leases ++ l.leases.map fun r => (l.uid, r) }
    match l.leases.findSome? fun r => r.absent s l.vf with
    | some va =>
        let (s, q) := s.fillRecord l va
        s.setLaunch { l with state := .filling (some q) }
    | none => (s.setLaunch { l with state := .placing }).noteBacklog l.vf l.queue

/-- Whether the host's functions are enabled: the package has booted and is past Blank (R441, R451).
(DESIGN CHOICE, log entry 41) -/
def State.enabled (s : State) : Bool := s.control.boot = .running && s.control.lifecycle ≠ .blank && !s.control.standby

/-- The distributor takes the entry at the consumer index; the launch gets the function's next number (R120). -/
def State.takeEntry (s : State) (vf n : Nat) (q : LaunchQueue) (cell : Nat) : State :=
  let (s, u) := s.fresh
  let v := s.vf vf
  let l : Launch := { Launch.blank with uid := u, vf := vf, queue := n, num := v.number, entry := Memory.readN s.mem cell 512,
                                        state := .accepting none }
  let s := s.setVf vf ({ v with number := v.number + 1 }.setQueue n { q with cons := q.cons + 1 })
  ({ s with launches := s.launches ++ [l] }).acceptLaunch l

/-- The read of a ring entry by the control die crosses to the homes of its bytes and back (R128); none while a link there carries no
flits. -/
def State.entryCrosses (s : State) (cell : Nat) : Option State :=
  crossWays clsRequest ((blocksOf cell 512).map fun b => fromControl (homeDie b) ++ toControl (homeDie b)) s

/-- A launch of a queue whose acceptance is not over. -/
def State.acceptingLaunch (s : State) (vf n : Nat) : Option Launch :=
  s.launches.find? fun l => l.vf = vf && l.queue = n && !l.failed && (match l.state with | .accepting _ | .filling _ => true | _ => false)

/-- (DESIGN CHOICE, log entry 35) -/
def execLaunchAccept (vf queue : Nat) (s : State) : Host.Outcome State Fault Refusal :=
  let q := (s.vf vf).queue queue
  let cell := ringCell q.cfg q.cons.toNat 512
  match s.acceptingLaunch vf queue with
  | some l =>
      .next <| match l.state with
        | .accepting r => if s.heldBy vf r then s else s.acceptLaunch l
        | .filling r => if s.heldBy vf r then s else s.fillLeases l
        | _ => s
  | none =>
      if !s.enabled || 64 ≤ vf || 8 ≤ queue || (s.vf vf).resetting || !ringOn q.cfg || q.prod = q.cons then .next s
      else if !cellExists cell 512 then .fault .noSuchAddress
      else if s.net.any fun o => o.cell < cell + 512 && cell ≤ o.cell then .next s
      else match s.entryCrosses cell with
        | some s => .next (s.takeEntry vf queue q cell)
        | none => .next s

end Sys2Proof.Machine
end

