-- ==== Sys2Proof/Machine/Fp.lean ====
section
/-!
DEFINITION. FP32 values as patterns: single operations with one rounding, the fixed environment of the rendering units, and
their vectors (R357).
-/
namespace Sys2Proof.Machine
open Sys2Proof

/-- Round to nearest even, subnormals preserved, no trap. -/
def rne : FEnv := FEnv.of 0 0

def f32Val (x : Nat) : Val := Val.of .f32 false x
def nanF32 : Nat := 0x7FC00000
def infF32 : Nat := 0x7F800000
def negInfF32 : Nat := 0xFF800000

/-- FP32 products and differences with one rounding under an environment. -/
def f32Mul (fe : FEnv) (a b : Nat) : Nat := (elMul .f32 false fe a b).bits
def f32Sub (fe : FEnv) (a b : Nat) : Nat := (elSub .f32 false fe a b).bits

/-! ## RNE (R357) -/

def fAdd (a b : Nat) : Nat := (elAdd .f32 false rne a b).bits
def fSub (a b : Nat) : Nat := f32Sub rne a b
def fMul (a b : Nat) : Nat := f32Mul rne a b
def fDiv (a b : Nat) : Nat := (elFdiv .f32 rne a b).bits
def fSqrt (a : Nat) : Nat := (elSqrt .f32 rne a).bits
def fNeg (a : Nat) : Nat := if (f32Val a).isNan then a else a ^^^ 0x80000000
/-- A value rounded once to FP32. -/
def fRound (v : Val) : Nat := v.enc .f32 .rne false
def fOfInt (x : Int) : Nat := fRound (valOfInt x)

/-- Comparisons; with a NaN they are false. -/
def fLt (a b : Nat) : Bool := (f32Val a).cmp (f32Val b) = some (-1)
def fLe (a b : Nat) : Bool := match (f32Val a).cmp (f32Val b) with | some o => o ≤ 0 | none => false
def fEq (a b : Nat) : Bool := (f32Val a).cmp (f32Val b) = some 0
def fIsNan (a : Nat) : Bool := (f32Val a).isNan
def fFinite (a : Nat) : Bool := match f32Val a with | .fin .. => true | _ => false
/-- The larger and the smaller of two values that are no NaN. -/
def fMax (a b : Nat) : Nat := if fLt a b then b else a
def fMin (a b : Nat) : Nat := if fLt b a then b else a

/-- The floor of a finite value times 2^n. -/
def fFloor (a : Nat) (n : Nat := 0) : Int :=
  match f32Val a with
  | .fin neg m e =>
      let e := e + n
      if 0 ≤ e then (let x : Int := (m <<< e.toNat : Nat); if neg then -x else x)
      else
        let q := m >>> (-e).toNat
        let x : Int := (q : Nat)
        if neg then (if m = q <<< (-e).toNat then -x else -x - 1) else x
  | _ => 0

/-- A finite value times 2^n rounded to the nearest integer, ties to even. -/
def fNearest (a : Nat) (n : Nat := 0) : Int :=
  match f32Val a with
  | .fin neg m e => let x : Int := (roundInt .rne neg m (e + n) : Nat); if neg then -x else x
  | _ => 0

/-- A vector of three FP32 patterns. -/
structure V3 where
  x : Nat
  y : Nat
  z : Nat
  deriving DecidableEq, Repr

def V3.sub (a b : V3) : V3 := ⟨fSub a.x b.x, fSub a.y b.y, fSub a.z b.z⟩
def V3.dot (a b : V3) : Nat := fAdd (fAdd (fMul a.x b.x) (fMul a.y b.y)) (fMul a.z b.z)
def V3.cross (a b : V3) : V3 :=
  ⟨fSub (fMul a.y b.z) (fMul a.z b.y), fSub (fMul a.z b.x) (fMul a.x b.z), fSub (fMul a.x b.y) (fMul a.y b.x)⟩

/-- The halves of a 64-bit word. -/
def low32 (x : W64) : Nat := (x.extractLsb' 0 32).toNat
def high32 (x : W64) : Nat := (x.extractLsb' 32 32).toNat
def join32 (hi lo : Nat) : W64 := BitVec.ofNat 64 (hi % 2 ^ 32 * 2 ^ 32 + lo % 2 ^ 32)

/-- The 32-bit word at byte `b` of a record. -/
def word32 (bs : List Byte) (b : Nat) : Nat := natOfBytes ((bs.drop b).take 4)

end Sys2Proof.Machine
end

