-- ==== Sys2Proof/Machine/Dots.lean ====
section
/-!
DEFINITION. Dot products: exact products and sums, one rounding per k-group, the step at which a NaN arises, and the NaN
report of matrix and attention work (R186 to R195).
-/
namespace Sys2Proof.Machine
open Sys2Proof

/-- An element of an operand; none is an exact zero, which never contributes an infinity or a NaN (R190, R326). -/
abbrev Opnd := Option Nat

/-- The sign of an element of a floating-point operand. -/
def opndSign (t : ElemType) : Opnd → Bool
  | some x => t.isFloat && x.testBit (t.width - 1)
  | none => false

/-- The exact product of two elements (R186). -/
def elemProduct (fe : FEnv) (ta tb : ElemType) (a b : Nat) : Val :=
  if ta.isLog then
    let (ca, cb, k) := (logCode ta a, logCode ta b, logK ta)
    if ca = 0 || cb = 0 then .fin false 0 0
    else .fin (logSign ta a != logSign ta b) (tableM ta ((ca + cb) % k) <<< ((ca + cb) / k)) (-2 * (k : Int) - 14 + fe.sca + fe.scb)
  else if ta.isFloat then (opVal ta fe a).mul (opVal tb fe b)
  else valOfInt (intOf ta a * intOf tb b)

def product (fe : FEnv) (ta tb : ElemType) : Opnd → Opnd → Val
  | some a, some b => elemProduct fe ta tb a b
  | a, b => .fin (opndSign ta a != opndSign tb b) 0 0

/-- The pairs of one step of a sum. -/
abbrev KStep := List (Opnd × Opnd)

/-- The exact sum of values; an exact zero is +0 (R187). -/
def exactSum (vs : List Val) : Val := vs.foldl (Val.add .rne) (.fin false 0 0)

/-- The exact sum of products of integers (R188). -/
def exactInt (ta tb : ElemType) (ps : KStep) : Int :=
  (ps.map fun p => match p with | (some a, some b) => intOf ta a * intOf tb b | _ => 0).foldl (· + ·) 0

/-- One k-step of an accumulator element of type `ty` (R187, R188, R189). -/
def accStep (ty ta tb : ElemType) (fe : FEnv) (acc : Nat) (ps : KStep) : Nat :=
  match ty with
  | .s32 => wrapInt 32 (clampInt .s32 (intOf .s32 acc + exactInt ta tb ps))
  | .f64 => ps.foldl (fun x p => (Val.add fe.rm (product fe ta tb p.1 p.2) (opVal .f64 fe x)).enc .f64 fe.rm fe.subn) acc
  | _ => (Val.add fe.rm (opVal .f32 fe acc) (exactSum (ps.map fun p => product fe ta tb p.1 p.2))).enc .f32 fe.rm fe.subn

/-- The k indices of a step: eight, or one for FP64. -/
def stepWidth (ty : ElemType) : Nat := if ty = .f64 then 1 else 8
def stepCount (ty : ElemType) (k : Nat) : Nat := (k + stepWidth ty - 1) / stepWidth ty

/-- Step `g` of a sum over `k` indices. -/
def kStep (ty : ElemType) (k : Nat) (a b : Nat → Opnd) (g : Nat) : KStep :=
  (span (g * stepWidth ty) (min (stepWidth ty) (k - g * stepWidth ty))).map fun i => (a i, b i)

/-- The element after the first `n` steps. -/
def accAfter (ty ta tb : ElemType) (fe : FEnv) (step : Nat → KStep) (acc : Nat) : Nat → Nat
  | 0 => acc
  | n + 1 => accStep ty ta tb fe (accAfter ty ta tb fe step acc n) (step n)

def isNanOf (t : ElemType) (x : Nat) : Bool := t.isFloat && (Val.of (fmtOf t) false x).isNan

/-- The cause and OPVAL of a NaN of one step: the first NaN operand, A before B before the accumulator (R195). -/
def stepNan (ty ta tb : ElemType) (acc : Nat) (ps : KStep) : Nat × Nat :=
  let both := ps.filterMap fun p => match p with | (some a, some b) => some (a, b) | _ => none
  let as := (both.map fun p => p.1).filter (isNanOf ta)
  let bs := (both.map fun p => p.2).filter (isNanOf tb)
  match as ++ bs ++ (if isNanOf ty acc then [acc] else []) with
  | x :: _ => (1, x)
  | [] => (0, 0)

/-- The first of `n` steps, from step `g`, that leaves a NaN: the step, the cause and OPVAL. -/
def firstNanStep (ty ta tb : ElemType) (fe : FEnv) (step : Nat → KStep) : Nat → Nat → Nat → Option (Nat × Nat × Nat)
  | _, _, 0 => none
  | acc, g, n + 1 =>
      let x := accStep ty ta tb fe acc (step g)
      if isNanOf ty x then some (g, stepNan ty ta tb acc (step g)) else firstNanStep ty ta tb fe step x (g + 1) n

/-- The accumulator type's own NaN trap report of matrix work (R195): `engine` 3 matrix or 4 attention. -/
def matrixNan (engine tile row col cause opval kstep : Nat) (core : Option Nat) : FaultInfo :=
  { code := 0x0010, lane := 0, addr := 0, core := core,
    detail := BitVec.ofNat 192 (engine * 2 ^ 184 + tile % 16 * 2 ^ 176 + row % 256 * 2 ^ 168 + col % 256 * 2 ^ 160
      + cause % 4 * 2 ^ 158 + kstep % 2 ^ 32 * 2 ^ 96 + (if cause = 0 then 0 else opval % 2 ^ 64)) }

/-- One element of a product: where its result goes, its accumulator before, and its steps. -/
structure DotCell where
  row  : Nat
  col  : Nat
  acc  : Nat
  step : Nat → KStep

/-- The lowest step at which an element of a product has a NaN, the first in the order given: the element, the step, the
cause and OPVAL. -/
def lowestNan (ty ta tb : ElemType) (fe : FEnv) (n : Nat) (cells : List DotCell) : Option (DotCell × Nat × Nat × Nat) :=
  cells.foldl (fun best c =>
    match firstNanStep ty ta tb fe c.step c.acc 0 n, best with
    | none, b => b
    | some x, none => some (c, x)
    | some x, some b => if x.1 < b.2.1 then some (c, x) else some b) none

end Sys2Proof.Machine
end

