-- ==== Sys2Proof/Machine/Launching.lean ====
section
/-!
DEFINITION. Descriptors that a slot reads through a capability, and LAUNCH (R314, R315).
-/
namespace Sys2Proof.Machine
open Sys2Proof

/-- Reads `n` bytes at byte offset `a` of the object of c[reg], in one piece, as a slot reads a descriptor: at the home
slices, with the rights `need`, after what the lane itself has stored. -/
def Ctx.readDescriptor (c : Ctx) (covered : Bool) (reg : Nat) (k : Cap) (need a n align lane : Nat) : State × Except Stop (List Byte) :=
  match c.resolveSpan covered .read reg k need a n align lane with
  | (s, .error x) => (s, .error x)
  | (s, .ok ps) =>
      let va := (ps.headD (0, 0)).1
      let size (p : Nat × Nat) : Nat := min (p.1 / 64 * 64 + 64) (va + n) - p.1
      match s.readNow c.g false (sizedClass n clsRequest) 64 (ps.map fun p => { lane := lane, va := p.1, cell := p.2 }) with
      | .error w => (s, .error (.block w))
      | .ok s => match ps.findSome? fun p => s.badFor c.g false p.2 (size p) lane p.1 with
      | some bad => (s, .error (.trap bad))
      | none =>
          let piece (p : Nat × Nat) : List Byte :=
            patchBytes (Memory.readN s.mem p.2 (size p)) (s.forward c.g { lane := lane, va := p.1, cell := p.2 } (size p))
          (ps.foldl (fun s p => s.touchL2 p.2 0 false) s, .ok (ps.map piece).flatten)

/-! ## The launch entry (R120) -/

def capBytes (k : Cap) : List Byte := if k.tag && !k.sealedBit then bytesOfNat 16 k.bits.toNat else bytesOfNat 16 0
def capValid (g : Group) : Nat :=
  (span 0 15).foldl (fun a n => if (g.cap n).tag && !(g.cap n).sealedBit then a + 2 ^ n else a) 0

/-- The entry that LAUNCH appends: the image, the seed and the frame of the executing launch, KERNEL and the overrides of
the descriptor, sixteen registers as arguments and the capabilities that are tagged and not sealed (R315). -/
def launchEntry (l : Launch) (g : Group) (desc : Nat) (a : Nat) : List Byte :=
  bytesOfNat 4 l.text ++ bytesOfNat 4 l.metaObj ++ bytesOfNat 2 (field desc 96 16) ++ bytesOfNat 2 (capValid g)
    ++ bytesOfNat 4 0 ++ bytesOfNat 12 (field desc 0 96) ++ bytesOfNat 4 l.frame.toNat ++ bytesOfNat 8 l.seed.toNat
    ++ bytesOfNat 24 0 ++ ((span a 16).map fun n => bytesOfNat 8 (g.sreg n).toNat).flatten
    ++ ((span 0 15).map fun n => capBytes (g.cap n)).flatten ++ bytesOfNat 80 0

/-- Whether a launch ring takes one more entry. -/
def LaunchQueue.hasRoom (q : LaunchQueue) : Bool :=
  ringOn q.cfg && (q.prod - q.cons).toNat < ringSize q.cfg && cellExists (ringCell q.cfg q.prod.toNat 512) 512

/-- The cell at which a ring takes its next entry. -/
def LaunchQueue.nextCell (q : LaunchQueue) : Nat := ringCell q.cfg q.prod.toNat 512

/-- An entry of a launch ring is homed away from a die, in part or whole: then it is a counted write (R157, R315). -/
def State.launchFar (s : State) (die vf n : Nat) : Bool := (s.farBlock die ((s.vf vf).queue n).nextCell 512).isSome

/-- Appends an entry to a launch ring: the producer index is claimed now, and the entry is one write, counted when it is homed away
from the die (R157, R315). (DESIGN CHOICE, log entry 35) -/
def State.appendLaunch (s : State) (sender : Sender) (fromDie vf n : Nat) (bs : List Byte) (clause : W32) (slot : Nat) : State :=
  let v := s.vf vf
  let q := v.queue n
  let c := q.nextCell
  let op : HomeOp := { sender := sender, fromDie := fromDie, home := homeDie ((s.farBlock fromDie c 512).getD c), lane := 0, vf := 64, va := 0,
                       cell := c, hint := 0, kind := .write bs, counted := s.launchFar fromDie vf n, released := false, clause := clause,
                       slot := slot }
  ((s.setVf vf (v.setQueue n { q with prod := q.prod + 1 })).sendOp op).noteBacklog vf n

def execLaunch (f : QForm) (s : State) : Host.Outcome State Fault Refusal :=
  runSlot s fun c =>
    let e := c.enabled f.pg f.pn
    let l := (lowest e).getD 0
    let a := match f.arg with | .s r => r.toNat | _ => 0
    let check (xs : List Src) : Option FaultInfo :=
      let d := ((xs.headD fun _ => 0) l).toNat
      if d % 64 ≠ 0 then some (illegalOperand 6 28 d) else if 48 < a then some (illegalOperand 6 5 f.arg.code.toNat) else none
    c.enter { always := false, access := true, check := check } e true [] [⟨28, f.desc, .sl, 1⟩, ⟨5, f.arg, .onlyS, 1⟩] false
      fun c g xs =>
        if c.g.pending.any fun p => p.meets c.r.id ⟨5, f.arg, .onlyS, 16⟩ then c.block .write
        else
          (c.s.releaseWait g 6).slot fun s g =>
            let d := ((xs.headD fun _ => 0) l).toNat
            let reg := f.cap.toNat
            match { c with s := s }.readDescriptor true reg (c.g.cap reg) rRead d 64 64 l with
            | (s, .error x) => .stop s c.g x
            | (s, .ok bs) =>
                let w := natOfBytes bs
                if w >>> 112 ≠ 0 then .stop s c.g (.trap (illegalOperand 6 28 d))
                else if c.launch.kernels ≤ field w 96 16 then .stop s c.g (.trap (illegalOperand 6 28 (field w 96 16)))
                else
                  let bytes := launchEntry c.launch g w a
                  let n := f.qd.toNat % 8
                  if c.launch.hdr.sub then (s.logFor g [.launch n bytes]).slot fun s g => .done s g none none
                  else if !((s.vf c.vf).queue n).hasRoom then .stop s c.g (.block (.ring n))
                  else if s.launchFar c.die c.vf n && g.acks = Config.ackLimit then .stop s c.g (.block .acks)
                  else
                    let t := s.appendLaunch (.group g.uid) c.die c.vf n bytes c.r.clause c.r.idx
                    .done t { g with acks := g.acks + (if s.launchFar c.die c.vf n then 1 else 0) } none none

end Sys2Proof.Machine
end

