-- ==== Sys2Proof/Machine/JobCard.lean ====
section
/-!
DEFINITION. Job cards: their descriptors, what makes one refused, the overlap of their regions, and their submission
(R127, R308 to R311, R344).
-/
namespace Sys2Proof.Machine
open Sys2Proof

/-! ## Regions (R309, R311) -/

/-- The rows of a region: where each starts, and its bytes. -/
def Region.spans (r : Region) : List (Nat × Nat) := (span 0 r.rows).map fun i => (r.base + i * r.pitch, r.rowLen)
def Region.size (r : Region) : Nat := r.rows * r.rowLen
/-- The bytes from the first of a region to its last. -/
def regionExtent (rows pitch rowLen : Nat) : Nat := (rows - 1) * pitch + rowLen

/-- Two regions share a byte: global ones by virtual address, those of one tile by offset. -/
def Region.meets (a b : Region) : Bool :=
  a.global = b.global && (a.global || a.handle = b.handle)
    && a.spans.any fun x => b.spans.any fun y => x.1 < y.1 + y.2 && y.1 < x.1 + x.2

def anyMeet (xs ys : List Region) : Bool := xs.any fun x => ys.any x.meets

/-- Card `b`, submitted after card `a` of the same parcel, depends on it. (DESIGN CHOICE, log entry 26) -/
def Card.after (b a : Card) : Bool :=
  a.parcel = b.parcel && a.uid < b.uid
    && (anyMeet b.reads a.writes || anyMeet b.writes a.reads || anyMeet b.writes a.writes)

/-- A card that has stopped keeps its footprint for the cards that depend on it (R313); it takes no place. -/
def Card.live (c : Card) : Bool := match c.state with | .stopped _ => false | _ => true

/-! ## The descriptor (R309) -/

def cardParts (w : Nat) : Nat := field w 432 16
def cardCop (w : Nat) : Nat := field w 428 4
def cardType (w : Nat) : Option ElemType := ElemType.ofCode (BitVec.ofNat 4 (field w 424 4))
def cardKey (w : Nat) : Nat := field w 448 64
def cardKspec (w : Nat) : Nat := field w 256 168
def cardReads (w : Nat) : Nat := field w 0 4
def cardWrites (w : Nat) : Nat := field w 4 4
def cardRegion (w i : Nat) : Nat := field w (512 + 128 * i) 128

def rgOffset (r : Nat) : Nat := field r 80 48
def rgRowLen (r : Nat) : Nat := field r 56 24
def rgRows (r : Nat) : Nat := field r 40 16 + 1
def rgPitch (r : Nat) : Nat := field r 16 24
def rgSpace (r : Nat) : Nat := field r 14 2
def rgCap (r : Nat) : Nat := field r 10 4
def rgHandle (r : Nat) : Nat := field r 4 6

/-- The fields of KSPEC (R344), a number whose bit 0 is descriptor bit 256. -/
def ksM (k : Nat) : Nat := field k 32 16 + 1
def ksN (k : Nat) : Nat := field k 48 16 + 1
def ksK (k : Nat) : Nat := field k 64 16 + 1
def ksTypeB (k : Nat) : Option ElemType := ElemType.ofCode (BitVec.ofNat 4 (field k 80 4))
def ksTypeA (k : Nat) : Option ElemType := ElemType.ofCode (BitVec.ofNat 4 (field k 84 4))
def ksTransA (k : Nat) : Bool := k.testBit 88
def ksTransB (k : Nat) : Bool := k.testBit 89
def ksAcc (k : Nat) : Option ElemType := match field k 90 2 with | 0 => some .f32 | 1 => some .s32 | 2 => some .f64 | _ => none
def ksCvt (k : Nat) : Option ElemType := ElemType.ofCode (BitVec.ofNat 4 (field k 92 4))
def ksAdd (k : Nat) : Bool := k.testBit 96

/-- The operand types that an accumulator type permits (R327). -/
def pairOk (acc a b : ElemType) : Bool :=
  let byte (t : ElemType) : Bool := t = .s8 || t = .n8
  match acc with
  | .f32 => (a = b && (a = .f32 || a = .f16 || a = .bf16 || a.isLog)) || (byte a && byte b)
  | .s32 => byte a && byte b
  | .f64 => a = .f64 && b = .f64
  | _ => false

/-- The bytes of a row of `n` elements of a region (R344). -/
def rowBytes (t : ElemType) (n : Nat) : Nat := if t = .lg6 then (n + 9) / 10 * 8 else n * (t.width / 8)

/-- KSPEC of a matrix card: reserved bits, and types that fit. -/
def kspecOk (k : Nat) : Bool :=
  field k 0 32 = 0 && k >>> 97 = 0 && match ksAcc k, ksTypeA k, ksTypeB k, ksCvt k with
    | some t, some a, some b, some c => pairOk t a b && (!ksAdd k || c = t)
    | _, _, _, _ => false

/-- The header's own conditions (R309, R469). -/
def headerOk (kind : CardKind) (w : Nat) : Bool :=
  field w 8 248 = 0
    && (kind = .collective || cardKey w = 0)
    && (if kind = .matrix then kspecOk (cardKspec w) else cardKspec w = 0)
    && (match kind with
      | .gather | .scatter => (match cardType w with | some t => t ≠ .lg6 | none => false)
      | .collective => (match cardType w with | some t => t ≠ .lg6 | none => false) && cardParts w ≠ 0 && cardCop w ≤ 5
      | _ => true)

/-- The region counts of a kind (R308). -/
def countsOk (kind : CardKind) (r w : Nat) : Bool :=
  match kind with
  | .copy => 1 ≤ r && r ≤ 4 && w = r
  | .gather | .scatter | .matrix => r = 2 && w = 1
  | .collective => r = 1 && w = 1
  | .fill => r = 0 && 1 ≤ w && w ≤ 4

/-- The sizes of a kind (R308, R310, R344). -/
def sizesOk (kind : CardKind) (kspec : Nat) (reads writes : List Region) : Bool :=
  match kind with
  | .copy | .collective => (reads.map Region.size) = writes.map Region.size
  | .matrix =>
      (match ksTypeA kspec, ksTypeB kspec, ksCvt kspec, reads, writes with
      | some ta, some tb, some tc, [a, b], [c] =>
          let (m, n, k) := (ksM kspec, ksN kspec, ksK kspec)
          let fits (r : Region) (t : ElemType) (rows cols : Nat) : Bool := r.rows = rows && r.rowLen = rowBytes t cols
          (if ksTransA kspec then fits a ta k m else fits a ta m k) && (if ksTransB kspec then fits b tb n k else fits b tb k n)
            && fits c tc m n
      | _, _, _, _, _ => false)
  | _ => true

/-! ## The checks at submission (R310) -/

/-- A used region before it is resolved: whether it is written, and its words. -/
structure RawRegion where
  write : Bool
  w     : Nat
  deriving DecidableEq, Repr

def rawRegions (w : Nat) : List RawRegion :=
  (span 0 (cardReads w)).map (fun i => { write := false, w := cardRegion w i })
    ++ (span 0 (cardWrites w)).map fun i => { write := true, w := cardRegion w (4 + i) }

/-- The capability checks of the global regions in turn: the virtual address of each region's first byte, 0 for a tile. -/
def regionCaps (c : Ctx) : State → List RawRegion → State × Except FaultInfo (List Nat)
  | s, [] => (s, .ok [])
  | s, r :: rs =>
      let rest (s : State) (va : Nat) : State × Except FaultInfo (List Nat) :=
        match regionCaps c s rs with
        | (s, .ok vs) => (s, .ok (va :: vs))
        | (s, .error f) => (s, .error f)
      if rgSpace r.w = 2 then rest s 0
      else
        let n := rgCap r.w
        let k := c.g.cap n
        let a := k.offset + rgOffset r.w
        let need := rEngine + (if r.write then rWrite else rRead)
        match s.capCheck (some c.g.core) c.vf k need a (regionExtent (rgRows r.w) (rgPitch r.w) (rgRowLen r.w)) 1 with
        | (s, .error x) => (s, .error (capabilityFault x n a 0))
        | (s, .ok va) => rest s va

def resolved (g : Group) (r : RawRegion) (va : Nat) : Region :=
  let tile := rgSpace r.w = 2
  { global := !tile, cap := if tile then Cap.clear else g.cap (rgCap r.w), reg := if tile then 0 else rgCap r.w,
    off := if tile then rgOffset r.w else (g.cap (rgCap r.w)).offset + rgOffset r.w, base := if tile then rgOffset r.w else va,
    handle := if tile then rgHandle r.w else 0, rowLen := rgRowLen r.w, rows := rgRows r.w,
    pitch := if rgRows r.w = 1 then 0 else rgPitch r.w }

/-- The bytes of an allocation. -/
def Tile.bytes (t : Tile) : Nat := t.unitCount * 4096

/-- A tile region that does not lie inside its allocation. -/
def tileOutside (p : Parcel) (r : Region) : Bool :=
  !r.global && match p.tile? r.handle with
    | none => true
    | some t => t.bytes < r.base + regionExtent r.rows r.pitch r.rowLen

/-- The checks of R310 on a descriptor `w`, read through the operand of value `d`: the reads and the writes. -/
def Ctx.checkCard (c : Ctx) (s : State) (kind : CardKind) (w d : Nat) : State × Except FaultInfo (List Region × List Region) :=
  let bad (cause : Nat) : FaultInfo := illegalOperand cause 28 d
  let raw := rawRegions w
  if (span 0 8).any (fun i => field (cardRegion w i) 0 4 ≠ 0) || !headerOk kind w || !countsOk kind (cardReads w) (cardWrites w) then (s, .error (bad 6))
  else if raw.any fun r => rgSpace r.w = 0 || rgSpace r.w = 3 then (s, .error (bad 6))
  else if raw.any fun r => rgRowLen r.w = 0 || (1 < rgRows r.w && rgPitch r.w < rgRowLen r.w) then (s, .error (bad 6))
  else match regionCaps c s raw with
    | (s, .error f) => (s, .error f)
    | (s, .ok vs) =>
        let rs := (raw.zip vs).map fun x => (x.1.write, resolved c.g x.1 x.2)
        let reads := (rs.filter fun x => !x.1).map fun x => x.2
        let writes := (rs.filter fun x => x.1).map fun x => x.2
        if rs.any fun x => tileOutside c.parcel x.2 then (s, .error (bad 4))
        else if anyMeet reads writes || (writes.zip (span 0 4)).any fun x =>
            (writes.zip (span 0 4)).any fun y => x.2 < y.2 && x.1.meets y.1 then (s, .error (bad 6))
        else if !sizesOk kind (cardKspec w) reads writes then (s, .error (bad 6))
        else (s, .ok (reads, writes))

/-- The lowest region byte that breaks the group's traverse declaration (R306). -/
def Group.cardBreach (g : Group) (rs : List Region) : Option FaultInfo :=
  ((rs.filter fun r => r.global).map Region.spans).flatten.findSome? fun x =>
    (g.declCause x.1 x.2).map fun k => .mk' 0x000B k 0 0 0 0 x.1

/-! ## Submission (R310) -/

/-- The command port of a kind (R308). -/
def CardKind.port : CardKind → Nat
  | .collective => 0x0C
  | .matrix => 0x01
  | _ => 0x03

/-- The engine of a card that is bound to instance `inst`. -/
def cardEngine (kind : CardKind) (core inst : Nat) : EngineRef :=
  match kind with
  | .collective => { kind := .collective, unit := core / 48 }
  | .matrix => { kind := .matrix, unit := core / 2 }
  | _ => { kind := .copy, unit := 4 * (core / 48) + inst }

/-- A semaphore that a completion names (R78). -/
def Ctx.incFault (c : Ctx) (f : QForm) : Option FaultInfo := if f.semv then c.semRange 22 f.sem.toNat else none

/-- What submits a command waits until everything that a release of its group covers has arrived (R397). -/
def Ctx.notBehind (c : Ctx) (k : Slot) : Slot := if c.s.behind c.g.uid then c.block .acks else k

/-- Submits a card: the operand checks, the binding, the descriptor, the checks of R310 and R306, and then its place in the
pair's task scheduler. -/
def Ctx.submitCard (c : Ctx) (f : QForm) (kind : CardKind) (refusal : Option FaultInfo) : Slot :=
  let e := c.enabled f.pg f.pn
  let l := (lowest e).getD 0
  let q := f.qd.toNat
  let arg : List Use := if kind = .fill then [⟨5, f.arg, .sl, 1⟩] else []
  let check (xs : List Src) : Option FaultInfo :=
    let d := ((xs.headD fun _ => 0) l).toNat
    (if d % 64 ≠ 0 then some (illegalOperand 6 28 d) else none).or ((c.incFault f).or (c.g.pushFault q kind.port))
  c.enter { always := false, access := true, pre := refusal, check := check } e true [] (⟨28, f.desc, .sl, 1⟩ :: arg) false
    fun c g xs => c.notBehind <|
      let d := ((xs.headD fun _ => 0) l).toNat
      let reg := f.cap.toNat
      match c.readDescriptor false reg (c.g.cap reg) (rRead + rEngine) d 192 64 l with
      | (s, .error x) => .stop s c.g x
      | (s, .ok bs) =>
          let w := natOfBytes bs
          match c.checkCard s kind w d with
          | (s, .error x) => .stop s c.g (.trap x)
          | (s, .ok (reads, writes)) =>
              match g.cardBreach (reads ++ writes) with
              | some x => .stop s c.g (.trap x)
              | none =>
                  let p := s.pair (g.core / 2)
                  if 64 ≤ (p.cards.filter Card.live).length then .stop s c.g (.block .scheduler)
                  else
                    let (s, u) := s.fresh
                    let inst := bindInst (g.queue q).binding
                    let out := (g.outputAt (kind.port + 1) inst).getD 0
                    let k : Card := {
                      uid := u, kind := kind, group := g.uid, parcel := g.parcel, vf := c.vf, core := g.core,
                      out := (out, (g.queue out).gen), engine := cardEngine kind g.core inst, clause := c.r.clause, slot := c.r.idx,
                      fmt := c.p.fmt, arg := (xs.getD 1 fun _ => 0) l, semv := f.semv, sem := f.sem.toNat, inc := f.inc.toNat,
                      key := BitVec.ofNat 64 (cardKey w), parts := cardParts w, cop := cardCop w, ety := (cardType w).getD .n8,
                      kspec := BitVec.ofNat 168 (cardKspec w), reads := reads, writes := writes, acks := 0, state := .waiting }
                    .done (s.setPair (g.core / 2) { p with cards := p.cards ++ [k] }) g none none

def execJccopy (f : QForm) (s : State) : Host.Outcome State Fault Refusal := runSlot s fun c => c.submitCard f .copy none
def execJcgath (f : QForm) (s : State) : Host.Outcome State Fault Refusal := runSlot s fun c => c.submitCard f .gather none
def execJcscat (f : QForm) (s : State) : Host.Outcome State Fault Refusal := runSlot s fun c => c.submitCard f .scatter none
/-- A collective card is refused in a subdivisible parcel (R33). -/
def execJccoll (f : QForm) (s : State) : Host.Outcome State Fault Refusal :=
  runSlot s fun c => c.submitCard f .collective (if c.launch.hdr.sub then some (illegalOperand 6 56 0x93) else none)
def execJcmtx (f : QForm) (s : State) : Host.Outcome State Fault Refusal := runSlot s fun c => c.submitCard f .matrix none
def execJcfill (f : QForm) (s : State) : Host.Outcome State Fault Refusal := runSlot s fun c => c.submitCard f .fill none

end Sys2Proof.Machine
end

