-- ==== Sys2Proof/Machine/Matrix.lean ====
section
/-!
DEFINITION. The matrix opcodes as slots: operand headers, the checks at issue, the issue of an operation to an array, and
what completes in the core; and VSPC (R76, R321 to R343).
-/
namespace Sys2Proof.Machine
open Sys2Proof

/-! ## Operand headers (R325, R326) -/

def hdrRow (h : W64) : Nat := (h.extractLsb' 46 12).toNat
def hdrCol (h : W64) : Nat := (h.extractLsb' 34 12).toNat
def hdrK (h : W64) : Nat := (h.extractLsb' 22 12).toNat + 1
def hdrRole (h : W64) : Nat := (h.extractLsb' 20 2).toNat
def hdrTrans (h : W64) : Bool := h.getLsbD 19
def hdrSeed (h : W64) : Nat := (h.extractLsb' 0 16).toNat

/-- A header of its fields. -/
def header (handle row col k role : Nat) (trans : Bool) (seed : Nat) : W64 :=
  BitVec.ofNat 64 (handle % 64 * 2 ^ 58 + row % 4096 * 2 ^ 46 + col % 4096 * 2 ^ 34 + (k - 1) % 4096 * 2 ^ 22 + role % 4 * 2 ^ 20
    + (if trans then 2 ^ 19 else 0) + seed % 65536)

/-- Why a header in the field at `pos` is refused, for the roles that its use permits. -/
def headerFault (p : Parcel) (pos : Nat) (h : W64) (roles : List Nat) (seeded sparse : Bool) : Option FaultInfo :=
  let bad (c : Nat) : Option FaultInfo := some (illegalOperand c pos h.toNat)
  if h.extractLsb' 16 3 ≠ 0 || !roles.contains (hdrRole h) then bad 6
  else if (hdrRole h = 2 && hdrK h ≠ 1) || (hdrTrans h && (sparse || hdrRole h = 3)) || (!seeded && hdrSeed h ≠ 0) then bad 6
  else match p.tile? (hdrHandle h) with
    | none => bad 4
    | some t => if t.has (hdrRow h) (hdrCol h) then none else bad 4

/-! ## The arrays (R76, R321) -/

/-- An operation that needs both arrays. -/
def MtxKind.isPair : MtxKind → Bool
  | .multiply pair .. => pair
  | _ => false

/-- The accumulator tiles that an operation names. -/
def MtxKind.accs : MtxKind → List Nat
  | .multiply pair _ _ ty _ _ n _ _ =>
      let one (n : Nat) : List Nat := if ty = .f64 then [n, n + 1] else [n]
      if pair then one n ++ one (n + 4) else one n
  | .unfold .. => []
  | .zero mask => (span 0 8).filter mask.getLsbD
  | .load _ n .. => [n]
  | .get n .. => [n]
  | .put n .. => [n]
  | .convert _ d src => [d, src]
  | .drain _ w _ =>
      let n := (w.extractLsb' 61 3).toNat
      if (w.extractLsb' 11 2).toNat = 2 then [n, n + 1] else [n]
  | .qk _ n .. => [n]
  | .softmax p src o _ => [p, src, o]
  | .pv _ p _ w _ => [p, (w.extractLsb' 0 3).toNat]
  | .massDrain _ _ src .. => [src]

/-- Whether an operation takes a place in the array of a core. -/
def MtxOp.onArray (o : MtxOp) (core : Nat) : Bool := o.core = core || (o.kind.isPair && o.core / 2 = core / 2)

/-- The array of a core holds eight operations. -/
def Pair.arrayFull (p : Pair) (core : Nat) : Bool := 8 ≤ (p.ops.filter fun o => o.onArray core).length

/-- The accumulator tiles acquired for a parcel (R76): none while another parcel holds them or the engine is being reset. -/
def State.acquireTiles (s : State) (parcel core : Nat) : Option State :=
  let p := s.pair (core / 2)
  if p.reset then none
  else match p.owner with
    | some u => if u = parcel then some s else none
    | none => some (s.setPair (core / 2) { p with owner := some parcel, acc := [], tags := [] })

/-- fmt with the rounding of the slot's prefix in RM (R72). -/
def Ctx.fmtWith (c : Ctx) (rnd : BitVec 3) : W32 :=
  if rnd = 0 then c.p.fmt else (c.p.fmt &&& ~~~3) ||| BitVec.ofNat 32 (rnd.toNat - 1)

/-- An MTX-class slot: with no lane enabled it has no effect, and else it acquires the tiles (R76, R322). -/
def Ctx.mtxSlot (c : Ctx) (e : W64) (nw : Bool) (dsts srcs : List Use) (captures : Bool) (body : Ctx → Group → List Src → Slot)
    (o : Start := { always := false }) : Slot :=
  c.enter o e nw dsts srcs captures fun c g xs =>
    match c.s.acquireTiles c.g.parcel c.g.core with
    | none => c.block .array
    | some s => body (c.put s c.g) g xs

/-- Issues an operation, or blocks while an array that it needs is full (R321, R324). -/
def Ctx.issueOp (c : Ctx) (s : State) (g : Group) (rnd : BitVec 3) (kind : MtxKind) (va : Nat) (inc : Option (Nat × Nat)) : Slot :=
  let p := s.pair (g.core / 2)
  if p.arrayFull g.core || (kind.isPair && p.arrayFull (g.core ^^^ 1)) then .stop s c.g (.block .operations)
  else
    let (s, u) := s.fresh
    let o : MtxOp := {
      uid := u, group := g.uid, parcel := g.parcel, vf := c.vf, core := g.core, clause := c.r.clause, slot := c.r.idx,
      fmt := c.fmtWith rnd, status := (g.outputAt 2 0).map fun q => (q, (g.queue q).gen), semv := inc.isSome,
      sem := (inc.getD (0, 0)).1, inc := (inc.getD (0, 0)).2, kind := kind, va := va, started := none, res := none,
      applied := false, acks := 0, parked := none }
    .done (s.setPair (g.core / 2) { p with ops := p.ops ++ [o] }) g none none

/-- The value of source `n` for the path. -/
def pathValue (e : W64) (xs : List Src) (n : Nat) : W64 := (xs.getD n fun _ => 0) ((lowest e).getD 0)

/-! ## MLDA, MLDB (R328) -/

/-- The origin word of R328: the row and the column, and whether its other bits are zero. -/
def orgRow (x : W64) : Nat := (x.extractLsb' 0 12).toNat
def orgCol (x : W64) : Nat := (x.extractLsb' 16 12).toNat
def orgOk (x : W64) : Bool := x &&& ~~~0x0FFF0FFF = 0

/-- Builds and checks a header of role `role` and writes it to d.  Only MMAG and MMAGP take a seed, and their A is neither virtual nor
transposed (R325). -/
def Ctx.buildHeader (c : Ctx) (f : VForm) (a : Bool) : Slot :=
  let e := c.enabled f.pg f.pn
  let seedUse : List Use := if a && !f.sc.unused then [⟨9, f.sc, .sl, 1⟩] else []
  c.mtxSlot e f.nw [dstOf f .sq] (usesOf f (if a then 2 else 1) .sl ++ seedUse) true fun c g xs =>
    let org := pathValue e xs 0
    let k := if a then (pathValue e xs 1).toNat else 1
    let seed := if a then (pathValue e xs 2).toNat else 0
    let virt := a && f.x.getLsbD 7
    let seeded := a && !virt && !f.x.getLsbD 6
    let h := header (f.x.extractLsb' 0 6).toNat (orgRow org) (orgCol org) k (if a then (if virt then 3 else 1) else 2) (f.x.getLsbD 6) seed
    match firstFault [faultIf (!orgOk org) (illegalOperand 6 27 org.toNat), faultIf (k = 0 || 4096 < k) (illegalOperand 6 18 k),
        faultIf (65535 < seed) (illegalOperand 6 9 seed), headerFault c.parcel 27 h [hdrRole h] seeded false] with
    | some x => .stop c.s c.g (.trap x)
    | none => c.result g e f.dst f.nw f.pfx false (.one h)

def execMlda (f : VForm) (s : State) : Host.Outcome State Fault Refusal := runSlot s fun c => c.buildHeader f true
def execMldb (f : VForm) (s : State) : Host.Outcome State Fault Refusal := runSlot s fun c => c.buildHeader f false

/-! ## The multiplies (R329 to R338) -/

/-- How the A operand of a multiply is stored. -/
inductive Sparsity where
  | dense | metadata | seeded
  deriving DecidableEq, Repr

/-- The checks of a multiply at issue. -/
def Ctx.multiplyFault (c : Ctx) (f : VForm) (pair : Bool) (sp : Sparsity) (a b : W64) (r : Option W64) : Option FaultInfo :=
  let n := (f.x.extractLsb' 6 3).toNat
  let sparse := sp ≠ .dense
  let typeOf (h : W64) : ElemType := ((c.parcel.tile? (hdrHandle h)).map fun t => t.ty).getD .n8
  firstFault [
    faultIf ((f.ty = .f64 && n % 2 = 1) || (pair && 3 < n)) (illegalOperand 6 6 n),
    faultIf (pair && (!c.launch.hdr.pairs || c.g.core ≠ c.parcel.core)) (illegalOperand 6 56 (if sp = .dense then 0xB1 else if sp = .metadata then 0xB3 else 0xB5)),
    headerFault c.parcel 27 a (if sparse then [1] else [1, 3]) (sp = .seeded) sparse,
    headerFault c.parcel 18 b [2] false false,
    faultIf ((hdrRole a = 3) != r.isSome) (illegalOperand 6 27 a.toNat),
    r.bind fun w => faultIf (w >>> 57 ≠ 0) (illegalOperand 6 7 w.toNat),
    faultIf (sparse && (hdrK a % 8 ≠ 0 || hdrCol a % 4 ≠ 0 || (sp = .metadata && 64 < hdrK a))) (illegalOperand 6 27 a.toNat),
    faultIf (!pairOk f.ty (typeOf a) (typeOf b)) (illegalOperand 6 52 f.ty.code.toNat)]

/-- The rows of A that a sparse operation reads (R336). -/
def sparseRows (p : Parcel) (a : W64) : Nat := ((p.tile? (hdrHandle a)).map fun t => min 64 (t.rows - hdrRow a)).getD 0

def Ctx.multiplySlot (c : Ctx) (f : VForm) (pair : Bool) (sp : Sparsity) : Slot :=
  let e := c.enabled f.pg f.pn
  let meta0 : List Use := if sp = .metadata then [⟨9, f.sc, .onlyV, 1⟩] else []
  let d4 : List Use := match f.pfx.d4 with | some o => [⟨7, o, .sl, 1⟩] | none => []
  c.mtxSlot e true [] (usesOf f 2 .sl ++ meta0 ++ d4) false fun c g xs =>
    let a := pathValue e xs 0
    let b := pathValue e xs 1
    let r := f.pfx.d4.map fun _ => pathValue e xs (2 + meta0.length)
    match c.multiplyFault f pair sp a b r with
    | some x => .stop c.s c.g (.trap x)
    | none =>
        let rows := if sp = .metadata then sparseRows c.parcel a else 0
        let regs := max 1 ((rows + g.width - 1) / g.width)
        let u : Use := ⟨9, f.sc, .onlyV, regs⟩
        match (if sp = .metadata then u.fault g else none) with
        | some x => .stop c.s c.g (.trap x)
        | none =>
            if sp = .metadata && g.pending.any fun p => p.meets c.r.id u then .stop c.s c.g (.block .write)
            else
              let first := match f.sc with | .v n => n.toNat | _ => 0
              let mdata := ((span 0 rows).map fun i => (i, g.vreg (first + i / g.width) (i % g.width))).filter fun x => x.2 ≠ 0
              let n := (f.x.extractLsb' 6 3).toNat
              c.issueOp c.s g f.pfx.rnd (.multiply pair (sp ≠ .dense) (sp = .seeded) f.ty a b n r mdata) 0 none

def execMma (f : VForm) (s : State) : Host.Outcome State Fault Refusal := runSlot s fun c => c.multiplySlot f false .dense
def execMmap (f : VForm) (s : State) : Host.Outcome State Fault Refusal := runSlot s fun c => c.multiplySlot f true .dense
def execMmas (f : VForm) (s : State) : Host.Outcome State Fault Refusal := runSlot s fun c => c.multiplySlot f false .metadata
def execMmasp (f : VForm) (s : State) : Host.Outcome State Fault Refusal := runSlot s fun c => c.multiplySlot f true .metadata
def execMmag (f : VForm) (s : State) : Host.Outcome State Fault Refusal := runSlot s fun c => c.multiplySlot f false .seeded
def execMmagp (f : VForm) (s : State) : Host.Outcome State Fault Refusal := runSlot s fun c => c.multiplySlot f true .seeded

/-- UNFOLD: the virtual A written to a tile of its type (R335). -/
def execUnfold (f : VForm) (s : State) : Host.Outcome State Fault Refusal :=
  runSlot s fun c =>
    let e := c.enabled f.pg f.pn
    c.mtxSlot e true [] (usesOf f 2 .sl) false fun c g xs =>
      let a := pathValue e xs 0
      let r := pathValue e xs 1
      let d := (f.x.extractLsb' 0 6).toNat
      let typeOf (h : Nat) : Option ElemType := (c.parcel.tile? h).map fun t => t.ty
      match firstFault [headerFault c.parcel 27 a [3] false false, faultIf (r >>> 57 ≠ 0) (illegalOperand 6 18 r.toNat),
          faultIf ((typeOf d).isNone) (handleFault 0 d), faultIf (typeOf d ≠ typeOf (hdrHandle a)) (illegalOperand 6 0 d)] with
      | some x => .stop c.s c.g (.trap x)
      | none => c.issueOp c.s g 0 (.unfold a r d) 0 none

/-! ## Accumulators (R340) -/

def execAccz (f : VForm) (s : State) : Host.Outcome State Fault Refusal :=
  runSlot s fun c =>
    c.mtxSlot (c.enabled f.pg f.pn) true [] [] false fun c g _ => c.issueOp c.s g 0 (.zero (f.x.extractLsb' 0 8)) 0 none

def execAccld (f : VForm) (s : State) : Host.Outcome State Fault Refusal :=
  runSlot s fun c =>
    let e := c.enabled f.pg f.pn
    c.mtxSlot e true [] (usesOf f 1 .sl) false fun c g xs =>
      let org := pathValue e xs 0
      let h := (f.x.extractLsb' 0 6).toNat
      let bad : Option FaultInfo := match c.parcel.tile? h with
        | none => some (handleFault 0 h)
        | some t =>
            if !orgOk org then some (illegalOperand 6 27 org.toNat)
            else if t.ty ≠ f.ty then some (illegalOperand 6 52 f.ty.code.toNat)
            else if t.has (orgRow org) (orgCol org) then none else some (illegalOperand 4 27 org.toNat)
      match bad with
      | some x => .stop c.s c.g (.trap x)
      | none => c.issueOp c.s g 0 (.load f.ty (f.x.extractLsb' 6 3).toNat h org) 0 none

/-- The rows of ACCMOV for the lanes of E, as a table. -/
def rowsOf (e : W64) (x : Src) : Tbl W64 := laneTbl e x

/-- The lowest lane whose row is above 63. -/
def rowFault (e : W64) (x : Src) : Option FaultInfo :=
  (lanes e).findSome? fun l => if 63 < (x l).toNat then some { illegalOperand 6 27 (x l).toNat with lane := l } else none

def execAccmovGet (f : VForm) (s : State) : Host.Outcome State Fault Refusal :=
  runSlot s fun c =>
    let e := c.enabled f.pg f.pn
    c.mtxSlot e f.nw [dstOf f .onlyV] (usesOf f 1 .vsl) true fun c g xs =>
      let row := xs.headD fun _ => 0
      match rowFault e row with
      | some x => .stop c.s c.g (.trap x)
      | none =>
          let dst : PendDst := match f.dst with | .v r => .vregs r.toNat 1 | _ => .nothing
          let (s, p) := c.pend c.s .array .n64 dst ((lanes e).map fun l => (l, .home)) true false
          match c.issueOp s { g with pending := g.pending ++ [p] } 0 (.get (f.x.extractLsb' 6 3).toNat (rowsOf e row) e p.uid) 0 none with
          | .done s g _ dest => .done s g (some []) dest
          | x => x

def execAccmovPut (f : VForm) (s : State) : Host.Outcome State Fault Refusal :=
  runSlot s fun c =>
    let e := c.enabled f.pg f.pn
    c.mtxSlot e true [] (usesOf f 2 .vsl) false fun c g xs =>
      let row := xs.headD fun _ => 0
      match rowFault e row with
      | some x => .stop c.s c.g (.trap x)
      | none => c.issueOp c.s g 0 (.put (f.x.extractLsb' 6 3).toNat (rowsOf e row) (rowsOf e (xs.getD 1 fun _ => 0)) e) 0 none

def execAcccvt (f : VForm) (s : State) : Host.Outcome State Fault Refusal :=
  runSlot s fun c =>
    c.mtxSlot (c.enabled f.pg f.pn) true [] [] false fun c g _ =>
      c.issueOp c.s g f.pfx.rnd (.convert f.ty (f.x.extractLsb' 6 3).toNat (f.x.extractLsb' 3 3).toNat) 0 none

/-! ## Drains (R341, R342) -/

def drAcc (w : W64) : Nat := (w.extractLsb' 61 3).toNat
def drClear (w : W64) : Bool := w.getLsbD 60
def drCvt (w : W64) : Option ElemType := ElemType.ofCode (w.extractLsb' 55 4)
def drRow (w : W64) : Nat := (w.extractLsb' 37 12).toNat
def drCol (w : W64) : Nat := (w.extractLsb' 25 12).toNat
def drRows (w : W64) : Nat := (w.extractLsb' 19 6).toNat + 1
def drCols (w : W64) : Nat := (w.extractLsb' 13 6).toNat + 1
/-- The type of the cells that ASRC names. -/
def drSource (w : W64) : Option ElemType :=
  match (w.extractLsb' 11 2).toNat with | 0 => some .f32 | 1 => some .s32 | 2 => some .f64 | _ => none
def drPitch (arg : W64) : Nat := (arg.extractLsb' 48 16).toNat
def drOffset (arg : W64) : Nat := (arg.extractLsb' 0 48).toNat

/-- Why a drain word is refused. -/
def drainFault (p : Parcel) (add : Bool) (w : W64) : Option FaultInfo :=
  let bad (c : Nat) : FaultInfo := illegalOperand c 28 w.toNat
  match drSource w, drCvt w with
  | some src, some cvt =>
      firstFault [
        faultIf (w.extractLsb' 0 11 ≠ 0 || (src = .f64 && drAcc w % 2 = 1) || (add && cvt ≠ src)) (bad 6),
        if drainGlobal w then faultIf (drainHandle w ≠ 0 || drRow w ≠ 0 || drCol w ≠ 0) (bad 6)
        else match p.tile? (drainHandle w) with
          | none => some (bad 4)
          | some t =>
              if t.ty ≠ cvt then some (bad 6)
              else if t.rows < drRow w + drRows w || t.cols < drCol w + drCols w then some (bad 4) else none]
  | _, _ => some (bad 6)

def Ctx.drainSlot (c : Ctx) (f : QForm) (add : Bool) : Slot :=
  let e := c.enabled f.pg f.pn
  let l := (lowest e).getD 0
  let arg : List Use := if f.arg.unused then [] else [⟨5, f.arg, .sl, 1⟩]
  c.mtxSlot e true [] (⟨28, f.desc, .sl, 1⟩ :: arg) false fun c g xs =>
    let w := pathValue e xs 0
    let a := pathValue e xs 1
    let inc := if f.semv then some (f.sem.toNat, f.inc.toNat) else none
    let used : Option FaultInfo :=
      if drainGlobal w then faultIf f.arg.unused (illegalOperand 3 5 0)
      else faultIf (!f.arg.unused || f.cap ≠ 0) (illegalOperand 6 28 w.toNat)
    match firstFault [c.incFault f, drainFault c.parcel add w, used] with
    | some x => .stop c.s c.g (.trap x)
    | none =>
        let go (s : State) (va : Nat) : Slot := c.issueOp s g f.pfx.rnd (.drain add w a) va inc
        if !drainGlobal w then go c.s 0
        else c.notBehind <|
          let reg := f.cap.toNat
          let cap := c.g.cap reg
          let n := elemBytes ((drCvt w).getD .n8)
          let pts := (span 0 (drRows w)).map fun i => (l, cap.offset + drOffset a + i * drPitch a)
          match capLanes c.g.core c.vf reg cap (rWrite + rEngine) (drCols w * n) n c.s pts with
          | (s, .error x) => .stop s c.g (.trap x)
          | (s, .ok vs) =>
              let rows := (vs.map fun v => (pieces v.2 (drCols w * n)).map fun x => (l, x)).flatten
              let (s, r) := transLanes c.g.core c.vf .write s rows
              match laneStop c.g c.launch 1 r with
              | some x => .stop s c.g x
              | none => go s ((vs.headD (0, 0)).2)

def execAccdr (f : QForm) (s : State) : Host.Outcome State Fault Refusal := runSlot s fun c => c.drainSlot f false
def execAccdra (f : QForm) (s : State) : Host.Outcome State Fault Refusal := runSlot s fun c => c.drainSlot f true

/-! ## MSYNC, MELECT (R331, R343) -/

/-- A fault of a matrix operation that the group has not taken (R194, R323). -/
def Group.lateMatrix (g : Group) : Option LateFault := g.late.find? fun x => x.matrix

def execMsync (f : VForm) (s : State) : Host.Outcome State Fault Refusal :=
  runSlot s fun c =>
    c.mtxSlot (c.enabled f.pg f.pn) true [] [] false fun c g _ =>
      if (c.s.pair (g.core / 2)).ops.any fun o => o.group = g.uid then .stop c.s c.g (.block .operations)
      else match c.g.lateMatrix with
        | some x => .stop c.s { c.g with late := c.g.late.filter fun y => y ≠ x } (.late x)
        | none => .done c.s g none none

/-- The lowest-indexed live group of a parcel on the leader core of its pair (R20, R331). -/
def State.isLeader (s : State) (g : Group) : Bool :=
  g.core % 2 = 0 && !(s.groups.any fun x => x.parcel = g.parcel && x.core = g.core && x.status ≠ .ended && x.index < g.index)

def execMelect (f : VForm) (s : State) : Host.Outcome State Fault Refusal :=
  runSlot s fun c =>
    let e := c.enabled f.pg f.pn
    c.mtxSlot e f.nw [] [] true (o := { always := false, pre := kdFault (xKD f.x) }) fun c g _ =>
      let one := match lowest e with | some l => bit64 l | none => 0
      c.maskResult g e (xKD f.x) f.nw (if f.var = 0 || c.s.isLeader g then one else 0)

/-! ## VSPC (R338, R339) -/

/-- One mixing round of R338. -/
def mix32 (h : Nat) : Nat := ((h ^^^ (h >>> 16)) * 0x045D9F3B) % 2 ^ 32

/-- A list with the elements at two places exchanged. -/
def swapAt (l : List Nat) (i j : Nat) : List Nat := (l.set i (l.getD j 0)).set j (l.getD i 0)

/-- The shuffle of R338 from position `p` down to 1. -/
def shuffle : Nat → Nat → List Nat → List Nat
  | 0, _, l => l
  | p + 1, h, l => shuffle p (h / (p + 2)) (swapAt l (p + 1) (h % (p + 2)))

/-- The pattern of the kept positions of tile row `r` in k-group `g` from the seed `s`. -/
def seededPattern (s r g : Nat) : Nat :=
  let h := ((r <<< 10) ||| g) % 2 ^ 32 ^^^ ((s * 0x045D9F3B) % 2 ^ 32)
  let h := mix32 (mix32 h)
  let h := h ^^^ (h >>> 16)
  ((shuffle 7 h (span 0 8)).take 4).foldl (fun a p => a + 2 ^ p) 0

/-- The magnitude by which VSPC keeps an element. -/
def spcMagnitude (t : ElemType) (x : Nat) : Nat :=
  match t with
  | .s8 => (intOf .s8 x).natAbs
  | .n8 => x
  | .lg8 => logCode .lg8 x
  | _ => x % 2 ^ 15

/-- The four kept positions of eight elements, ascending: those with fewer than four others before them in the order of
falling magnitude, the lower position first among equals. -/
def keptPositions (t : ElemType) (xs : List Nat) : List Nat :=
  let m (p : Nat) : Nat := spcMagnitude t (xs.getD p 0)
  (span 0 8).filter fun p => ((span 0 8).filter fun q => m p < m q || (m p = m q && q < p)).length < 4

def execVspc (f : VForm) (s : State) : Host.Outcome State Fault Refusal :=
  runSlot s fun c =>
    let e := c.enabled f.pg f.pn
    if f.var = 2 then
      c.entry e f.nw [dstOf f .vq] [⟨27, f.sa, .vsl, 1⟩, ⟨18, f.sb, .onlyS, 1⟩] true fun c g xs =>
        let seed := (pathValue e xs 1).toNat % 65536
        let val (l : Nat) : W64 :=
          let a := ((xs.headD fun _ => 0) l).toNat
          BitVec.ofNat 64 (seededPattern seed (field a 0 12) (field a 16 10))
        c.result g e f.dst f.nw f.pfx true (.lanes (laneTbl e val))
    else
      let srcs := usesOf f (if f.ty.width = 16 then 2 else 1) .vsl
      c.entry e f.nw [dstOf f (if f.var = 1 then .onlyV else .vq)] srcs true fun c g xs =>
        let old (l : Nat) : W64 := match f.dst with | .v n => g.vreg n.toNat l | _ => 0
        let val (l : Nat) : W64 :=
          let els := (xs.map fun x => elems f.ty (x l)).flatten
          let kept := keptPositions f.ty els
          if f.var = 0 then BitVec.ofNat 64 (packElems f.ty (kept.map fun p => els.getD p 0))
          else
            let byte := kept.foldl (fun a p => a + 2 ^ p) 0
            BitVec.ofNat 64 (setField (old l).toNat (8 * (f.x.extractLsb' 0 3).toNat) 8 byte)
        c.result g e f.dst f.nw f.pfx true (.lanes (laneTbl e val))

end Sys2Proof.Machine
end

