-- ==== Sys2Proof/Machine/Attention.lean ====
section
/-!
DEFINITION. The attention opcodes and KVRS as slots (R345 to R352).
-/
namespace Sys2Proof.Machine
open Sys2Proof

/-! ## KV pages (R345, R147) -/

/-- P of a page whose rows have `d` elements of type `t`, in bytes. -/
def pagePitch (t : ElemType) (d : Nat) : Nat := 64 * tilePitch t d
/-- The bytes of a page with its block, and the place of the block. -/
def pageSize (p : Nat) : Nat := 128 * p + 576
def pageBlock (p : Nat) : Nat := 128 * p

/-- Checks and translates `n` bytes at offset `o` of c[reg] that an operation will use: the virtual address. -/
def Ctx.namedMemory (c : Ctx) (reg need o n : Nat) (kind : Access) (lane : Nat) : State × Except Stop Nat :=
  match c.resolveSpan false kind reg (c.g.cap reg) need o n 64 lane with
  | (s, .error x) => (s, .error x)
  | (s, .ok ps) => (s, .ok (ps.headD (0, 0)).1)

/-! ## ATTQK (R346) -/

def pwTile (w : W64) : Nat := (w.extractLsb' 58 6).toNat
def pwStep (w : W64) : Bool := w.getLsbD 32
def pwPosition (w : W64) : Nat := (w.extractLsb' 0 32).toNat

def Ctx.attqkFault (c : Ctx) (rope : Bool) (q pw scale : W64) : Option FaultInfo :=
  let d := hdrK q
  let floatTile : Bool := match c.parcel.tile? (hdrHandle q) with | some t => t.ty.isFloat || t.ty.isLog | none => false
  firstFault [
    headerFault c.parcel 27 q [1] false true,
    faultIf (256 < d || (rope && d % 2 = 1) || !floatTile) (illegalOperand 6 27 q.toNat),
    faultIf (pw.extractLsb' 33 25 ≠ 0 || (!rope && pwTile pw ≠ 0)) (illegalOperand 6 9 pw.toNat),
    if !rope then none else match c.parcel.tile? (pwTile pw) with
      | none => some (illegalOperand 4 9 pw.toNat)
      | some t => faultIf (t.ty ≠ .f32 || t.cols < d / 2) (illegalOperand 6 9 pw.toNat),
    faultIf (scale >>> 32 ≠ 0) (illegalOperand 6 7 scale.toNat)]

def execAttqk (f : VForm) (s : State) : Host.Outcome State Fault Refusal :=
  runSlot s fun c =>
    let e := c.enabled f.pg f.pn
    let d4 : List Use := match f.pfx.d4 with | some o => [⟨7, o, .sl, 1⟩] | none => []
    c.mtxSlot e true [] (usesOf f 3 .sl ++ d4) false fun c g xs =>
      let (q, o, pw) := (pathValue e xs 0, pathValue e xs 1, pathValue e xs 2)
      let scale : W64 := if f.pfx.d4.isSome then pathValue e xs 3 else 0x3F800000
      let rope := f.x.getLsbD 1
      match c.attqkFault rope q pw scale with
      | some x => .stop c.s c.g (.trap x)
      | none =>
          let reg := (f.x.extractLsb' 2 4).toNat
          match c.namedMemory reg rRead o.toNat (pageSize (pagePitch f.ty (hdrK q))) .read ((lowest e).getD 0) with
          | (s, .error x) => .stop s c.g x
          | (s, .ok va) =>
              c.issueOp s g f.pfx.rnd (.qk f.ty (f.x.extractLsb' 6 3).toNat (c.g.cap reg) rope q o pw (scale.setWidth 32)) va none

/-! ## ATTSM, ATTPV (R349, R350) -/

/-- A statistics tile: .f32 with at least two columns. -/
def statFault (p : Parcel) (pos h : Nat) (w : W64) : Option FaultInfo :=
  match p.tile? h with
  | none => some (illegalOperand 4 pos w.toNat)
  | some t => faultIf (t.ty ≠ .f32 || t.cols < 2) (illegalOperand 6 pos w.toNat)

def execAttsm (f : VForm) (s : State) : Host.Outcome State Fault Refusal :=
  runSlot s fun c =>
    let e := c.enabled f.pg f.pn
    c.mtxSlot e true [] (usesOf f 1 .sl) false fun c g xs =>
      let w := pathValue e xs 0
      match firstFault [faultIf (64 ≤ w.toNat) (illegalOperand 6 27 w.toNat), statFault c.parcel 27 (w.toNat % 64) w] with
      | some x => .stop c.s c.g (.trap x)
      | none => c.issueOp c.s g f.pfx.rnd (.softmax (f.x.extractLsb' 3 3).toNat (f.x.extractLsb' 6 3).toNat
          (f.x.extractLsb' 0 3).toNat (w.toNat % 64)) 0 none

/-- The fields of the attention word. -/
def awColumn (w : W64) : Nat := (w.extractLsb' 16 16).toNat
def awD (w : W64) : Nat := (w.extractLsb' 8 8).toNat + 1
def awOut (w : W64) : Nat := (w.extractLsb' 0 3).toNat

def execAttpv (f : VForm) (s : State) : Host.Outcome State Fault Refusal :=
  runSlot s fun c =>
    let e := c.enabled f.pg f.pn
    c.mtxSlot e true [] (usesOf f 2 .sl) false fun c g xs =>
      let (w, o) := (pathValue e xs 0, pathValue e xs 1)
      if w >>> 32 ≠ 0 || w.extractLsb' 3 5 ≠ 0 || awColumn w % 64 ≠ 0 || awD w ≤ awColumn w then
        .stop c.s c.g (.trap (illegalOperand 6 27 w.toNat))
      else
        let reg := (f.x.extractLsb' 2 4).toNat
        match c.namedMemory reg rRead o.toNat (pageSize (pagePitch f.ty (awD w))) .read ((lowest e).getD 0) with
        | (s, .error x) => .stop s c.g x
        | (s, .ok va) => c.issueOp s g f.pfx.rnd (.pv f.ty (f.x.extractLsb' 6 3).toNat (c.g.cap reg) w o) va none

/-! ## ATTMD (R351) -/

def execAttmd (f : QForm) (s : State) : Host.Outcome State Fault Refusal :=
  runSlot s fun c =>
    let e := c.enabled f.pg f.pn
    c.mtxSlot e true [] [⟨28, f.desc, .sl, 1⟩, ⟨5, f.arg, .sl, 1⟩] false fun c g xs =>
      let (w, o) := (pathValue e xs 0, pathValue e xs 1)
      let st := (w.extractLsb' 8 6).toNat
      match firstFault [c.incFault f, faultIf (w &&& ~~~0x3F07 ≠ 0) (illegalOperand 6 28 w.toNat), statFault c.parcel 28 st w] with
      | some x => .stop c.s c.g (.trap x)
      | none => c.notBehind <|
          c.issueOp c.s g f.pfx.rnd (.massDrain f.cap.toNat (c.g.cap f.cap.toNat) (w.extractLsb' 0 3).toNat st o) 0
            (if f.semv then some (f.sem.toNat, f.inc.toNat) else none)

/-! ## KVRS (R352) -/

/-- The fields of the command word. -/
def kvParam (w : W64) : Nat := (w.extractLsb' 32 32).toNat
def kvMode (w : W64) : Nat := (w.extractLsb' 30 2).toNat
def kvMassOp (w : W64) : Nat := (w.extractLsb' 28 2).toNat
def kvChain (w : W64) : Bool := w.getLsbD 27
def kvD (w : W64) : Nat := (w.extractLsb' 19 8).toNat + 1

/-- A command that a slot pushes as one entry, with the semaphore increment of its completion. -/
def Ctx.command (c : Ctx) (f : QForm) (x : QEntry) (cmd : Cmd) : QEntry :=
  { x with cmd := some cmd, semv := f.semv, sem := f.sem.toNat, inc := f.inc.toNat, clause := c.r.clause, slot := c.r.idx }

def execKvrs (f : QForm) (s : State) : Host.Outcome State Fault Refusal :=
  runSlot s fun c =>
    let e := c.enabled f.pg f.pn
    let q := f.qd.toNat
    let check (xs : List Src) : Option FaultInfo :=
      let w := pathValue e xs 0
      firstFault [c.incFault f, faultIf (w.extractLsb' 0 19 ≠ 0 || 1 < kvMode w || kvMassOp w = 3) (illegalOperand 6 28 w.toNat),
        c.g.pushFault q 0x0A,
        (privateCause (c.g.cap f.cap.toNat) (rRead + rWrite) none).map fun x =>
          capabilityFault x f.cap.toNat (pathValue e xs 1).toNat ((lowest e).getD 0)]
    let start : Start := { always := false, fence := true, check := check,
                           pre := faultIf c.launch.hdr.sub (illegalOperand 6 56 0xC2) }
    c.mtxSlot e true [] [⟨28, f.desc, .sl, 1⟩, ⟨5, f.arg, .sl, 1⟩] false (o := start) fun c g xs => c.notBehind <|
      if g.queueFull q then .stop c.s c.g (.block (.queue q))
      else
        let (w, o) := (pathValue e xs 0, pathValue e xs 1)
        let x := c.command f (QEntry.ofScalar w) (.kvrs f.ty (c.g.cap f.cap.toNat) f.cap.toNat w o)
        .done c.s (g.pushEntry q x) none none

end Sys2Proof.Machine
end

