-- ==== Sys2Proof/Machine/Arrays.lean ====
section
/-!
DEFINITION. What the matrix arrays do with the operations that were issued: their start, their results and their retirement,
and the reset of a pair's engine (R76, R77, R147, R148, R155, R194, R321 to R355, R431).
-/
namespace Sys2Proof.Machine
open Sys2Proof

/-! ## Cells (R76) -/

def cellKey (tile row col : Nat) : Nat := 4096 * tile + 64 * row + col
def Pair.cell (p : Pair) (tile row col : Nat) : W32 := Tbl.get 0 p.acc (cellKey tile row col)
/-- An accumulator element of type `ty`; an FP64 element stands in two tiles (R189). -/
def Pair.accElem (p : Pair) (ty : ElemType) (tile row col : Nat) : Nat :=
  if ty = .f64 then (p.cell tile row col).toNat + 2 ^ 32 * (p.cell (tile + 1) row col).toNat else (p.cell tile row col).toNat
/-- The cells of an element. -/
def accCells (ty : ElemType) (tile row col x : Nat) : List (Nat × W32) :=
  if ty = .f64 then [(cellKey tile row col, BitVec.ofNat 32 x), (cellKey (tile + 1) row col, BitVec.ofNat 32 (x >>> 32))]
  else [(cellKey tile row col, BitVec.ofNat 32 x)]

/-- Writes cells; the score tag of every tile written is cleared (R347). -/
def Pair.putCells (p : Pair) (cs : List (Nat × W32)) : Pair :=
  cs.foldl (fun p c => { p with acc := Tbl.put 0 p.acc c.1 c.2, tags := Tbl.put none p.tags (c.1 / 4096) none }) p

def MtxResult.none : MtxResult := { cells := [], tiles := [], tag := Option.none, mem := [], vals := [], fault := Option.none }

/-! ## Operands (R326, R334, R336, R338) -/

/-- An element of a tile as an operand. -/
def Tile.opnd (t : Tile) (i j : Nat) : Opnd := if t.has i j then some (t.get i j) else none

/-- The fields of an unfold record (R333). -/
structure Unfold where
  layout : Bool
  pl : Nat
  pt : Nat
  dw : Nat
  dh : Nat
  sw : Nat
  sh : Nat
  kw : Nat
  kh : Nat
  ow : Nat
  ih : Nat
  iw : Nat

def Unfold.ofWord (r : W64) : Unfold :=
  let f (lo n : Nat) : Nat := field r.toNat lo n
  { layout := r.getLsbD 56, pl := f 53 3, pt := f 50 3, dw := f 48 2 + 1, dh := f 46 2 + 1, sw := f 44 2 + 1, sh := f 42 2 + 1,
    kw := f 39 3 + 1, kh := f 36 3 + 1, ow := f 24 12 + 1, ih := f 12 12 + 1, iw := f 0 12 + 1 }

/-- The element of the activation tile that a virtual a(i, k) presents (R334). -/
def unfoldPlace (t : Tile) (h r : W64) (i k : Nat) : Option (Nat × Nat) :=
  let u := Unfold.ofWord r
  let p := hdrRow h + i
  let oy := p / u.ow
  let ox := p % u.ow
  let q := hdrCol h + k
  let (c, kx, ky) :=
    if u.layout then (q / (u.kw * u.kh), q % u.kw, q / u.kw % u.kh) else (q % t.cols, q / t.cols % u.kw, q / (t.cols * u.kw))
  let y : Int := ((oy * u.sh + ky * u.dh : Nat) : Int) - u.pt
  let x : Int := ((ox * u.sw + kx * u.dw : Nat) : Int) - u.pl
  if ky < u.kh && c < t.cols && 0 ≤ y && y < u.ih && 0 ≤ x && x < u.iw && y * u.iw + x < t.rows then
    some ((y * u.iw + x).toNat, c)
  else none

/-- The number of set bits of a byte below bit `p`. -/
def bitsBelow (x p : Nat) : Nat := ((span 0 p).filter x.testBit).length

/-- The stored element of a(i, k) of a sparse A whose row i keeps the positions `pat i g` of k-group g (R336). -/
def sparsePlace (h : W64) (rows : Nat) (pat : Nat → Nat → Nat) (i k : Nat) : Option (Nat × Nat) :=
  let x := pat i (k / 8)
  if rows ≤ i || !x.testBit (k % 8) then none else some (hdrRow h + i, hdrCol h + 4 * (k / 8) + bitsBelow x (k % 8))

/-- The element that a dense A presents, and the one that B presents (R326). -/
def densePlace (h : W64) (i k : Nat) : Option (Nat × Nat) :=
  some (if hdrTrans h then (hdrRow h + k, hdrCol h + i) else (hdrRow h + i, hdrCol h + k))
def bPlace (h : W64) (k j : Nat) : Nat × Nat :=
  if hdrTrans h then (hdrRow h + j, hdrCol h + k) else (hdrRow h + k, hdrCol h + j)

/-- Byte `g` of row `i`'s metadata. -/
def metaByte (mdata : Tbl W64) (i g : Nat) : Nat := field (Tbl.get 0 mdata i).toNat (8 * g) 8

/-- The first metadata byte without exactly four bits: the lowest k-group, then the lowest row (R337). -/
def badMeta (mdata : Tbl W64) (rows groups : Nat) : Option (Nat × Nat × Nat) :=
  (gridOf groups rows).findSome? fun x =>
    let b := metaByte mdata x.2 x.1
    if bitsBelow b 8 = 4 then none else some (x.1, x.2, b)

/-! ## Multiplies (R330, R337) -/

/-- The elements of a product in the order in which a NaN is reported: the leader's columns, then the follower's. -/
def productCells (cols : Nat) : List (Nat × Nat) :=
  gridOf 64 64 ++ (if cols = 64 then [] else (gridOf 64 64).map fun x => (x.1, x.2 + 64))

/-- What a multiply comes to: every cell after its last step, and the fault that stopped it. -/
def multiplyResult (s : State) (o : MtxOp) (pair sparse seeded : Bool) (ty : ElemType) (ha hb : W64) (n : Nat)
    (unfold : Option W64) (mdata : Tbl W64) : MtxResult :=
  let x := s.pair (o.core / 2)
  let ta := s.unitTile o.parcel (hdrHandle ha)
  let tb := s.unitTile o.parcel (hdrHandle hb)
  let k := hdrK ha
  let rows := min 64 (ta.rows - hdrRow ha)
  let pat (i g : Nat) : Nat :=
    if seeded then seededPattern (hdrSeed ha) (hdrRow ha + i) (hdrCol ha / 4 + g) else metaByte mdata i g
  let placeA (i k : Nat) : Option (Nat × Nat) :=
    match unfold with
    | some r => unfoldPlace ta ha r i k
    | none => if sparse then sparsePlace ha rows pat i k else densePlace ha i k
  let cols := if pair then 128 else 64
  let bad := (ta.poisonAt (hdrHandle ha) ((gridOf 64 k).filterMap fun y => placeA y.1 y.2)).or
    (tb.poisonAt (hdrHandle hb) ((gridOf k cols).map fun y => bPlace hb y.1 y.2))
  match bad with
  | some f => { MtxResult.none with fault := some f }
  | none =>
      let fe := FEnv.of o.fmt 0
      let a (i k : Nat) : Opnd := (placeA i k).bind fun y => ta.opnd y.1 y.2
      let b (k j : Nat) : Opnd := let y := bPlace hb k j; tb.opnd y.1 y.2
      let tile (j : Nat) : Nat := if j < 64 then n else n + 4
      let cells : List DotCell := (productCells cols).map fun y =>
        { row := y.1, col := y.2, acc := x.accElem ty (tile y.2) y.1 (y.2 % 64), step := kStep ty k (a y.1) fun q => b q y.2 }
      let wrong := if sparse && !seeded then badMeta mdata rows (k / 8) else none
      let steps := match wrong with
        | some w => min (stepCount ty k) (w.1 * (8 / stepWidth ty))
        | none => stepCount ty k
      let nan := if fe.nant then lowestNan ty ta.ty tb.ty fe steps cells else none
      let last := match nan with | some y => y.2.1 + 1 | none => steps
      let out := (cells.map fun c =>
        accCells ty (tile c.col) c.row (c.col % 64) (accAfter ty ta.ty tb.ty fe c.step c.acc last)).flatten
      let fault := match nan with
        | some (c, g, cause, v) =>
            some (matrixNan 3 (tile c.col) c.row (c.col % 64) cause v g (if c.col < 64 then none else some (o.core ^^^ 1)))
        | none => wrong.map fun w => .mk' 0x0011 0 w.2.1 w.1 w.2.2
      { MtxResult.none with cells := out, fault := fault }

/-! ## UNFOLD, ACCLD, ACCMOV, ACCCVT (R335, R340) -/

def unfoldResult (s : State) (o : MtxOp) (ha r : W64) (d : Nat) : MtxResult :=
  let t := s.unitTile o.parcel (hdrHandle ha)
  let places := (gridOf 64 (hdrK ha)).map fun x => (x, unfoldPlace t ha r x.1 x.2)
  match t.poisonAt (hdrHandle ha) (places.filterMap fun x => x.2) with
  | some f => { MtxResult.none with fault := some f }
  | none => { MtxResult.none with tiles := places.map fun x =>
      (d, x.1.1, x.1.2, match x.2 with | some y => t.window y.1 y.2 | none => 0) }

def loadResult (s : State) (o : MtxOp) (n h : Nat) (org : W64) : MtxResult :=
  let t := s.unitTile o.parcel h
  let at' (x : Nat × Nat) : Nat × Nat := (orgRow org + x.1, orgCol org + x.2)
  match t.poisonAt h ((gridOf 64 64).map at') with
  | some f => { MtxResult.none with fault := some f }
  | none => { MtxResult.none with cells := (gridOf 64 64).map fun x =>
      (cellKey n x.1 x.2, BitVec.ofNat 32 (t.window (at' x).1 (at' x).2)) }

/-- The two columns that a lane names. -/
def movCol (l : Nat) : Nat := 2 * (l % 32)

def getResult (s : State) (o : MtxOp) (n : Nat) (rows : Tbl W64) (mask : W64) : MtxResult :=
  let p := s.pair (o.core / 2)
  let val (l : Nat) : W64 := let r := (Tbl.get 0 rows l).toNat; p.cell n r (movCol l + 1) ++ p.cell n r (movCol l)
  { MtxResult.none with vals := laneTbl mask val }

def putResult (n : Nat) (rows data : Tbl W64) (mask : W64) : MtxResult :=
  let two (l : Nat) : List (Nat × W32) :=
    let r := (Tbl.get 0 rows l).toNat
    let x := Tbl.get 0 data l
    [(cellKey n r (movCol l), x.extractLsb' 0 32), (cellKey n r (movCol l + 1), x.extractLsb' 32 32)]
  { MtxResult.none with cells := (lanes mask).flatMap two }

/-- The first NaN among elements with a place, as a report of engine `engine`. -/
def firstCellNan (engine tile : Nat) (xs : List ((Nat × Nat) × El)) : Option FaultInfo :=
  xs.findSome? fun x => x.2.nan.map fun c => matrixNan engine tile x.1.1 x.1.2 c.1 c.2 0 none

def convertResult (s : State) (o : MtxOp) (ty : ElemType) (d src : Nat) : MtxResult :=
  let p := s.pair (o.core / 2)
  let fe := FEnv.of o.fmt 0
  let src' : ElemType := if ty = .s32 then .f32 else .s32
  let xs := (gridOf 64 64).map fun x => (x, elConvert src' ty true fe (p.cell src x.1 x.2).toNat)
  { MtxResult.none with
    cells := xs.map fun x => (cellKey d x.1.1 x.1.2, BitVec.ofNat 32 x.2.bits),
    fault := if fe.nant then firstCellNan 3 d xs else none }

/-! ## Attention (R345 to R351) -/

/-- The fields of a metadata block of 576 bytes (R147). -/
def blkMass (b : List Byte) (i : Nat) : Nat := natOfBytes ((b.drop (4 * i)).take 4)
def blkMon (b : List Byte) (i : Nat) : Nat := natOfBytes ((b.drop (256 + 4 * i)).take 4)
def blkHeader (b : List Byte) : Nat := natOfBytes ((b.drop 512).take 64)
def blkLive (b : List Byte) : Nat := field (blkHeader b) 0 7
def blkGen (b : List Byte) : Nat := field (blkHeader b) 32 16
def blkSeq (b : List Byte) : Nat := field (blkHeader b) 48 32
def blkNext (b : List Byte) : Nat := field (blkHeader b) 80 48

/-- A block is well formed (R148). -/
def blkOk (b : List Byte) : Bool :=
  let n := blkLive b
  n ≤ 64 && ((span 0 n).all fun i => blkMon b i < 2 ^ 32 - 1 && (i = 0 || blkMon b (i - 1) < blkMon b i))
    && (span n (64 - n)).all fun i => blkMass b i = 0 && blkMon b i = 2 ^ 32 - 1

def kvFault (cause va : Nat) : FaultInfo := .mk' 0x0012 cause 0 0 0 0 va

/-- fmt with the scale of the second operand in the place of the first. -/
def FEnv.second (fe : FEnv) : FEnv := { fe with sca := fe.scb }

/-- Element `j` of a row of a page that begins at byte `b` of its bytes. -/
def pageElem (t : ElemType) (bs : List Byte) (b j : Nat) : Nat :=
  let (o, n, sh) := elemPlace t j
  field (natOfBytes ((bs.drop (b + o)).take n)) sh t.width

/-- Round to nearest even under the other fields of an environment (R324, R348). -/
def FEnv.nearest (fe : FEnv) : FEnv := { fe with rm := .rne }

/-- t = a − floor(a) as exact mantissa and exponent of a finite value, with whether it is negative; none for others. -/
def fractionOf (v : Val) : Option Nat :=
  match v with
  | .fin neg m e =>
      if 0 ≤ e then some 0
      else
        let k := (-e).toNat
        let r := m % 2 ^ k
        some (if r = 0 then 0 else if neg then (2 ^ k - r) * 2 ^ (300 - k) else r * 2 ^ (300 - k))
  | _ => none

/-- The value t / 2^300 as an FP32 value is exact when t is a fraction of an FP32 value that is not far below 1; the sine and
the cosine take it by its value (R348). -/
def rotSin (fe : FEnv) (t : Nat) : Nat :=
  if t = 0 || t = 2 ^ 299 then 0
  else if t = 2 ^ 298 then 0x3F800000
  else if t = 3 * 2 ^ 298 then 0xBF800000
  else (elSin .f32 fe ((Val.fin false t (-300)).enc .f32 .rne false)).bits
def rotCos (fe : FEnv) (t : Nat) : Nat :=
  if t = 2 ^ 298 || t = 3 * 2 ^ 298 then 0
  else if t = 0 then 0x3F800000
  else if t = 2 ^ 299 then 0xBF800000
  else (elCos .f32 fe ((Val.fin false t (-300)).enc .f32 .rne false)).bits

/-- Element `d` of rot(x, pos) for the frequencies ω, under the captured environment with RNE (R324, R348); exact zeros rotate to an
exact zero (R326). -/
def rotate (fe : FEnv) (omega : Nat → Nat) (x : Nat → Opnd) (pos d : Nat) : Opnd :=
  let m := d / 2
  match x (2 * m), x (2 * m + 1) with
  | none, none => none
  | x0, x1 => some <|
      let (x0, x1) := (x0.getD 0, x1.getD 0)
      let a := f32Mul fe ((valOfInt pos).enc .f32 .rne false) (omega m)
      match fractionOf (opVal .f32 fe a) with
      | none => nanF32
      | some t =>
          let (c, s) := (rotCos fe t, rotSin fe t)
          let fused (p q : Nat) (neg : Bool) (r : Nat) : Nat :=
            let v := opVal .f32 fe r
            ((opVal .f32 fe p).fma .rne (opVal .f32 fe q) (if neg then v.neg else v)).enc .f32 .rne fe.subn
          if d % 2 = 0 then fused x0 c true (f32Mul fe x1 s) else fused x0 s false (f32Mul fe x1 c)

/-- The first NaN among FP32 operands in order, as cause and OPVAL. -/
def opsNan (xs : List Nat) : Nat × Nat :=
  match xs.find? (isNanOf .f32) with | some x => (1, x) | none => (0, 0)

/-- The first report that names an operand. -/
def firstCause (xs : List (Nat × Nat)) : Nat × Nat := (xs.find? fun x => x.1 ≠ 0).getD (0, 0)

/-- The virtual addresses that a page's operation reads: the rows and the block, from the block's address. -/
def qkResult (s : State) (o : MtxOp) (t : ElemType) (n : Nat) (cap : Cap) (rope : Bool) (q page pw : W64) (scale : W32)
    (bs : List Byte) : MtxResult :=
  let d := hdrK q
  let p := pagePitch t d
  let blk := bs.drop (pageBlock p)
  if !blkOk blk then { MtxResult.none with fault := some (kvFault 1 (o.va + pageBlock p)) }
  else
    let tq := s.unitTile o.parcel (hdrHandle q)
    let tf := s.unitTile o.parcel (pwTile pw)
    let rows := min 64 (tq.rows - hdrRow q)
    let bad := (tq.poisonAt (hdrHandle q) ((gridOf rows d).map fun x => (hdrRow q + x.1, hdrCol q + x.2))).or
      (if rope then tf.poisonAt (pwTile pw) ((gridOf 1 (d / 2))) else none)
    match bad with
    | some f => { MtxResult.none with fault := some f }
    | none =>
        let fe := FEnv.of o.fmt 0
        let live := blkLive blk
        let omega (m : Nat) : Nat := tf.window 0 m
        let qo (i k : Nat) : Opnd := tq.opnd (hdrRow q + i) (hdrCol q + k)
        let ko (j k : Nat) : Nat := pageElem t bs (j * p) k
        let qv (i k : Nat) : Opnd := (qo i k).map fun x => (elConvert tq.ty .f32 false fe x).bits
        let kv (j k : Nat) : Opnd := some (elConvert t .f32 false fe.second (ko j k)).bits
        let pos (i : Nat) : Nat := (pwPosition pw + (if pwStep pw then i else 0)) % 2 ^ 32
        let turn (x : Nat → Opnd) (at' k : Nat) : Opnd := if rope then rotate fe.nearest omega x at' k else x k
        let qr (i k : Nat) : Opnd := turn (qv i) (pos i) k
        let kr (j k : Nat) : Opnd := turn (kv j) (blkMon blk j) k
        let steps := stepCount .f32 d
        let cells : List DotCell := ((gridOf 64 64).filter fun x => x.1 < rows && x.2 < live).map fun x =>
          { row := x.1, col := x.2, acc := 0, step := kStep .f32 d (qr x.1) (kr x.2) }
        let early := if fe.nant then lowestNan .f32 .f32 .f32 fe steps cells else none
        let last := match early with | some y => y.2.1 + 1 | none => steps
        let dot (c : DotCell) : Nat := accAfter .f32 .f32 .f32 fe c.step c.acc last
        let scaled (c : DotCell) : Nat := if last = steps then f32Mul fe (dot c) scale.toNat else dot c
        let late := if fe.nant && last = steps then cells.find? fun c => isNanOf .f32 (scaled c) else none
        let report (c : DotCell) (g : Nat) : FaultInfo :=
          let there (k : Nat) : Bool := (qr c.row k).isSome
          let orig := kStep .f32 d (fun k => if there k then some ((qo c.row k).getD 0) else none) (fun k => some (ko c.col k)) g
          let turns := ((span (8 * g) (min 8 (d - 8 * g))).filter fun k => rope && there k).map fun k => omega (k / 2)
          let (cause, v) := firstCause [stepNan .f32 tq.ty t (accAfter .f32 .f32 .f32 fe c.step c.acc g) orig, opsNan turns,
            if g + 1 = steps then opsNan [scale.toNat] else (0, 0)]
          matrixNan 4 n c.row c.col cause v g none
        let fault := match early, late with
          | some y, some c => if y.2.1 + 1 = steps then some (report c y.2.1) else some (report y.1 y.2.1)
          | some y, none => some (report y.1 y.2.1)
          | none, some c => some (report c (steps - 1))
          | none, none => none
        let out := (gridOf 64 64).map fun x =>
          match cells.find? fun c => c.row = x.1 && c.col = x.2 with
          | some c => (cellKey n x.1 x.2, BitVec.ofNat 32 (scaled c))
          | none => (cellKey n x.1 x.2, BitVec.ofNat 32 negInfF32)
        let tag : ScoreTag := { obj := cap.obj, off := page.toNat, block := page.toNat + pageBlock p,
                                gen := BitVec.ofNat 16 (blkGen blk), live := live }
        { MtxResult.none with cells := out, tag := if fault.isNone then some (n, tag) else none, fault := fault }

/-- Eight elements summed exactly and added to `l` with one rounding (R349, R351). -/
def foldEight (fe : FEnv) (l : Nat) (xs : List Nat) : Nat :=
  (Val.add fe.rm (opVal .f32 fe l) (exactSum (xs.map (opVal .f32 fe)))).enc .f32 fe.rm fe.subn

/-- One row of ATTSM: P, the factor of O (none when the row is left), m and l, and the operands of the running maximum when it is a
NaN. -/
structure SoftRow where
  p     : Nat → Nat
  alpha : Option Nat
  m     : Nat
  l     : Nat
  top   : List Nat

def softRow (fe : FEnv) (sc : Nat → Nat) (m0 l0 : Nat) : SoftRow :=
  let mn := (span 0 64).foldl (fun m j => (elPick .f32 true fe m (sc j)).bits) m0
  if mn = negInfF32 then { p := fun _ => 0, alpha := none, m := m0, l := l0, top := [] }
  else
    let alpha := (elExp2 .f32 fe (f32Sub fe m0 mn)).bits
    let p (j : Nat) : Nat := (elExp2 .f32 fe (f32Sub fe (sc j) mn)).bits
    let l := (span 0 8).foldl (fun l g => foldEight fe l ((span (8 * g) 8).map p)) (f32Mul fe alpha l0)
    { p := p, alpha := some alpha, m := mn, l := l, top := if isNanOf .f32 mn then m0 :: (span 0 64).map sc else [] }

/-- ATTSM: every write first, then the lowest element that is a NaN: of P and O by tile, row and column, one of P before one of O, and
after them the statistic l of the lowest row, which no accumulator tile holds. (DESIGN CHOICE, log entry 72) -/
def softmaxResult (s : State) (o : MtxOp) (p src out st : Nat) : MtxResult :=
  let x := s.pair (o.core / 2)
  let t := s.unitTile o.parcel st
  let rows := min 64 t.rows
  match t.poisonAt st (gridOf rows 2) with
  | some f => { MtxResult.none with fault := some f }
  | none =>
      let fe := FEnv.of o.fmt 0
      let row (i : Nat) : SoftRow := softRow fe (fun j => (x.cell src i j).toNat) (t.window i 0) (t.window i 1)
      let pv (i j : Nat) : Nat := if i < rows then (row i).p j else 0
      let pcells := (gridOf 64 64).map fun y => (cellKey p y.1 y.2, BitVec.ofNat 32 (pv y.1 y.2))
      let before (y : Nat × Nat) : Nat := if out = p then pv y.1 y.2 else (x.cell out y.1 y.2).toNat
      let ov (y : Nat × Nat) : Option Nat := if y.1 < rows then (row y.1).alpha.map fun a => f32Mul fe (before y) a else none
      let ocells := (gridOf 64 64).filterMap fun y => (ov y).map fun v => (cellKey out y.1 y.2, BitVec.ofNat 32 v)
      let stats := ((span 0 rows).filter fun i => (row i).alpha.isSome).map fun i => [(st, i, 0, (row i).m), (st, i, 1, (row i).l)]
      let report (tile : Nat) (y : Nat × Nat) (v : Nat) (ops : List Nat) : Option FaultInfo :=
        let (c, w) := opsNan ops
        if isNanOf .f32 v then some (matrixNan 4 tile y.1 y.2 c w 0 none) else none
      let nanP (y : Nat × Nat) : Option FaultInfo := report p y (pv y.1 y.2) ((x.cell src y.1 y.2).toNat :: (row y.1).top)
      let nanO (y : Nat × Nat) : Option FaultInfo := (ov y).bind fun v =>
        report out y v (before y :: ((if out = p then [(x.cell src y.1 y.2).toNat] else []) ++ (row y.1).top))
      let first (f : Nat × Nat → Option FaultInfo) : Option FaultInfo := (gridOf 64 64).findSome? f
      let nanL := ((span 0 rows).filter fun i => (row i).alpha.isSome).findSome? fun i =>
        report 15 (i, 1) (row i).l (t.window i 1 :: (row i).top)
      let cells := if out = p then first fun y => (nanP y).or (nanO y)
        else if out < p then (first nanO).or (first nanP) else (first nanP).or (first nanO)
      let fault := if fe.nant then cells.or nanL else none
      { MtxResult.none with cells := pcells ++ ocells, tiles := stats.flatten, fault := fault }

def pvResult (s : State) (o : MtxOp) (t : ElemType) (p : Nat) (word : W64) (bs : List Byte) : MtxResult :=
  let x := s.pair (o.core / 2)
  let d := awD word
  let pitch := pagePitch t d
  let blk := bs.drop (pageBlock pitch)
  if !blkOk blk then { MtxResult.none with fault := some (kvFault 1 (o.va + pageBlock pitch)) }
  else
    let fe := FEnv.of o.fmt 0
    let live := blkLive blk
    let n := awOut word
    let inside (r j : Nat) : Bool := r < live && awColumn word + j < d
    let orig (r j : Nat) : Opnd := if inside r j then some (pageElem t bs (64 * pitch + r * pitch) (awColumn word + j)) else none
    let v (r j : Nat) : Opnd := (orig r j).map fun e => (elConvert t .f32 false fe.second e).bits
    let a (i r : Nat) : Opnd := some (x.cell p i r).toNat
    let cells : List DotCell := (gridOf 64 64).map fun y =>
      { row := y.1, col := y.2, acc := (x.cell n y.1 y.2).toNat, step := kStep .f32 64 (a y.1) fun r => v r y.2 }
    let nan := if fe.nant then lowestNan .f32 .f32 .f32 fe 8 cells else none
    let last := match nan with | some y => y.2.1 + 1 | none => 8
    let fault := nan.map fun y =>
      let acc := accAfter .f32 .f32 .f32 fe y.1.step y.1.acc y.2.1
      let (c, w) := stepNan .f32 .f32 t acc (kStep .f32 64 (a y.1.row) (fun r => orig r y.1.col) y.2.1)
      matrixNan 4 n y.1.row y.1.col c w y.2.1 none
    { MtxResult.none with
      cells := cells.map fun c => (cellKey n c.row c.col, BitVec.ofNat 32 (accAfter .f32 .f32 .f32 fe c.step c.acc last)),
      fault := fault }

/-- The probabilities and column sums of ATTMD (R351), and the reports that it can make at its start. -/
def massResult (s : State) (o : MtxOp) (tag : ScoreTag) (src st va : Nat) : MtxResult :=
  let x := s.pair (o.core / 2)
  let t := s.unitTile o.parcel st
  let rows := min 64 t.rows
  match t.poisonAt st (gridOf rows 2) with
  | some f => { MtxResult.none with fault := some f }
  | none =>
      let fe := FEnv.of o.fmt 0
      let fin (v : Val) : Bool := match v with | .fin .. => true | _ => false
      let ok (i : Nat) : Bool := i < rows && fin (f32Val (t.window i 0))
        && (match f32Val (t.window i 1) with | .fin false m _ => m ≠ 0 | _ => false)
      let sc (i j : Nat) : Nat := (x.cell src i j).toNat
      let p (i j : Nat) : Nat :=
        if ok i then (elFdiv .f32 fe (elExp2 .f32 fe (f32Sub fe (sc i j) (t.window i 0))).bits (t.window i 1)).bits else 0
      let v (j : Nat) : Nat := (span 0 8).foldl (fun v r => foldEight fe v ((span (8 * r) 8).map fun i => p i j)) 0
      let nan := if !fe.nant then none else (gridOf 64 tag.live).findSome? fun y =>
        if isNanOf .f32 (p y.1 y.2) then
          let (c, w) := opsNan [sc y.1 y.2, t.window y.1 0, t.window y.1 1]
          some (matrixNan 4 src y.1 y.2 c w 0 none) else none
      { MtxResult.none with mem := [.mass va tag.gen ((span 0 tag.live).map fun j => BitVec.ofNat 32 (v j))], fault := nan }

/-! ## The start of an operation (R321, R323, R330) -/

/-- An earlier operation that keeps this one from starting. -/
def MtxOp.waitsFor (o x : MtxOp) : Bool :=
  x.onArray o.core || o.onArray x.core || x.kind.accs.any fun n => o.kind.accs.contains n

/-- The oldest operations up to one, and it. -/
def Pair.op? (p : Pair) (u : Nat) : Option MtxOp := p.ops.find? fun o => o.uid = u
def Pair.ready (p : Pair) (o : MtxOp) : Bool := !((p.ops.takeWhile fun x => x.uid ≠ o.uid).any o.waitsFor)
def Pair.setOp (p : Pair) (o : MtxOp) : Pair := { p with ops := replaceFirst (fun x => x.uid = o.uid) o p.ops }
def Pair.dropOp (p : Pair) (u : Nat) : Pair := { p with ops := p.ops.filter fun o => o.uid ≠ u }


/-- How the reads of an operation travel, and its global writes (R128). -/
def MtxOp.via (o : MtxOp) : Via := { die := o.core / 48, cls := clsRequest }

/-- The page bytes of an attention operation. -/
def State.readPage (s : State) (o : MtxOp) (t : ElemType) (d : Nat) : State × Except UnitStop (List Byte) :=
  s.unitRead o.via o.vf (s.logOf o.parcel) o.va (pageSize (pagePitch t d))

/-- What an operation reads and works out when it starts; a drain reads its cells when it is applied, since nothing else
changes them before (R321). (DESIGN CHOICE, log entry 28) -/
def State.mtxResult (s : State) (o : MtxOp) : State × Except UnitStop MtxResult :=
  match o.kind with
  | .multiply pair sparse seeded ty a b n unfold mdata => (s, .ok (multiplyResult s o pair sparse seeded ty a b n unfold mdata))
  | .unfold a r d => (s, .ok (unfoldResult s o a r d))
  | .zero mask => (s, .ok { MtxResult.none with
      cells := ((span 0 8).filter mask.getLsbD).flatMap fun n => (gridOf 64 64).map fun x => (cellKey n x.1 x.2, 0) })
  | .load _ n h org => (s, .ok (loadResult s o n h org))
  | .get n rows mask _ => (s, .ok (getResult s o n rows mask))
  | .put n rows data mask => (s, .ok (putResult n rows data mask))
  | .convert ty d src => (s, .ok (convertResult s o ty d src))
  | .drain .. => (s, .ok MtxResult.none)
  | .qk ty n cap rope q page pw scale =>
      (match s.readPage o ty (hdrK q) with
      | (s, .ok bs) => (s, .ok (qkResult s o ty n cap rope q page pw scale bs))
      | (s, .error (.fault f)) => (s, .ok { MtxResult.none with fault := some f })
      | (s, .error x) => (s, .error x))
  | .softmax p src out st => (s, .ok (softmaxResult s o p src out st))
  | .pv ty p _ word _ =>
      (match s.readPage o ty (awD word) with
      | (s, .ok bs) => (s, .ok (pvResult s o ty p word bs))
      | (s, .error (.fault f)) => (s, .ok { MtxResult.none with fault := some f })
      | (s, .error x) => (s, .error x))
  | .massDrain reg cap src st page =>
      (match Tbl.get none (s.pair (o.core / 2)).tags src with
      | some tag =>
          if tag.obj ≠ cap.obj || tag.off ≠ page.toNat then
            (s, .ok { MtxResult.none with fault := some (illegalOperand 6 28 (src + 256 * st)) })
          else
            (match s.capCheck (some o.core) o.vf cap (rRead + rWrite + rAtomic) tag.block 576 64 with
            | (s, .error c) => (s, .ok { MtxResult.none with fault := some (capabilityFault c reg tag.block 0) })
            | (s, .ok va) => (s, .ok (massResult s o tag src st va)))
      | none => (s, .ok { MtxResult.none with fault := some (illegalOperand 6 28 (src + 256 * st)) }))

/-- Removes an operation that will not run; a register that waits for it is not written. -/
def State.discardOp (s : State) (pair : Nat) (o : MtxOp) : State :=
  let s := s.setPair pair ((s.pair pair).dropOp o.uid)
  match o.kind, s.group? o.group with
  | .get _ _ _ u, some g => s.setGroup { g with pending := g.pending.filter fun p => p.uid ≠ u }
  | _, _ => s

/-- Parks an operation on an absent page, or faults it outside the lease and demand ranges (R143, R144). -/
def State.parkOp (s : State) (pair : Nat) (o : MtxOp) (l : Launch) (va : Nat) : State :=
  match absentStop l 0 va, s.group? o.group with
  | .park f, some g =>
      let (s, q) := s.post (s.groupRecord g f o.clause o.slot 0 (.group o.group))
      s.setPair pair ((s.pair pair).setOp { o with parked := some q })
  | .trap f, _ =>
      s.setPair pair ((s.pair pair).setOp { o with started := some (o.started.getD s.cycles), res := some { MtxResult.none with fault := some f } })
  | _, _ => s

/-- (DESIGN CHOICE, log entry 28) -/
def execMtxOpStart (pair op : Nat) (s : State) : Host.Outcome State Fault Refusal :=
  .next <|
    let p := s.pair pair
    match p.op? op with
    | none => s
    | some o =>
        if o.started.isSome || s.heldBy o.vf o.parked || p.reset || !s.coreOn (2 * pair) || !p.ready o then s
        else if ((s.group? o.group).bind Group.lateMatrix).isSome then s.discardOp pair o
        else match s.mtxResult o with
          | (s, .ok r) => s.setPair pair ((s.pair pair).setOp { o with started := some s.cycles, res := some r })
          | (s, .error (.absent va)) => s.parkOp pair o (s.launchOfParcel o.parcel) va
          | (s, .error _) => s

/-! ## Drains, when they are applied (R342) -/

/-- What a drain moves: for each of its rows the source elements. -/
def drainRows (p : Pair) (w : W64) : List (List Nat) :=
  let src := (drSource w).getD .f32
  (span 0 (drRows w)).map fun i => (span 0 (drCols w)).map fun j => p.accElem src (drAcc w) i j

/-- The elements that a plain drain writes. -/
def drainConvert (fe : FEnv) (w : W64) (rows : List (List Nat)) : List (List El) :=
  let src := (drSource w).getD .f32
  let cvt := (drCvt w).getD .f32
  rows.map fun r => r.map fun x => elConvert src cvt true fe x

/-- The elements that an adding drain writes over what it finds. -/
def drainSum (fe : FEnv) (w : W64) (rows old : List (List Nat)) : List (List El) :=
  let t := (drCvt w).getD .f32
  (rows.zip old).map fun x => (x.1.zip x.2).map fun y => elAdd t t.isInt fe y.2 y.1

/-- The first NaN of a drain's elements. -/
def drainNan (fe : FEnv) (w : W64) (rows : List (List El)) : Option FaultInfo :=
  if !fe.nant then none
  else firstCellNan 3 (drAcc w) (((span 0 rows.length).zip rows).flatMap fun r => ((span 0 r.2.length).zip r.2).map fun x => ((r.1, x.1), x.2))

/-- The cells that CLR clears. -/
def drainClears (w : W64) : List (Nat × W32) :=
  if drClear w then
    (gridOf (drRows w) (drCols w)).flatMap fun x => accCells ((drSource w).getD .f32) (drAcc w) x.1 x.2 0
  else []

/-- The elements of a tile drain's destination, by row. -/
def drainTile (t : Tile) (w : W64) : List (List Nat) :=
  (span 0 (drRows w)).map fun i => (span 0 (drCols w)).map fun j => t.get (drRow w + i) (drCol w + j)

/-- The rows of a global drain: their addresses. -/
def drainVas (o : MtxOp) (w arg : W64) : List Nat := (span 0 (drRows w)).map fun i => o.va + i * drPitch arg

/-- What applying an operation comes to: done, with the rank of a home that acknowledges it if it is counted (R157), and a fault found
now; or it waits, parks, or does not fit its log. -/
inductive Applied where
  | done (s : State) (counted : Option Nat) (fault : Option FaultInfo)
  | wait (s : State)
  | absent (s : State) (va : Nat)
  | abort (s : State)
  deriving DecidableEq, Repr

/-- Applies indivisible writes to global memory, or puts their records into the log of a subdivisible parcel (R25, R342). -/
def State.applyGlobal (s : State) (o : MtxOp) (ws : List (Nat × List Byte)) (recs : List LogRec) (fault : Option FaultInfo) : Applied :=
  let l := s.launchOfParcel o.parcel
  match s.unitPieces o.vf .write ws with
  | (s, .error (.fault f)) => .done s none (some f)
  | (s, .error .moving) => .wait s
  | (s, .error (.absent va)) => .absent s va
  | (s, .ok ps) =>
      if l.hdr.sub then
        match (s.parcel? o.parcel).bind fun p => p.logged l.hdr.clog recs with
        | some p => .done (s.setParcel p) none fault
        | none => .abort s
      else
        let far := ps.find? fun p => s.isFar (o.core / 48) p.cell
        if let some p := ps.find? fun p => s.deadHome p.cell then .done s none (some (dieError (homeDie p.cell) 2 0 p.va))
        else if far.isSome && ((s.group? o.group).map fun g => g.acks) = some Config.ackLimit then .wait s
        else match s.crossPieces o.via ps with
          | none => .wait s
          | some s => .done (s.applyPieces 0 ps) (far.map fun p => s.homeRank p.cell) fault

/-- Applies a drain. -/
def State.applyDrain (s : State) (o : MtxOp) (add : Bool) (w arg : W64) : Applied :=
  let k := o.core / 2
  let p := s.pair k
  let fe := FEnv.of o.fmt 0
  let rows := drainRows p w
  let cvt := (drCvt w).getD .f32
  let clear (s : State) : State := s.setPair k ((s.pair k).putCells (drainClears w))
  if !drainGlobal w then
    let h := drainHandle w
    let t := s.unitTile o.parcel h
    match (if add then t.poisonAt h ((gridOf (drRows w) (drCols w)).map fun x => (drRow w + x.1, drCol w + x.2)) else none) with
    | some f => .done s none (some f)
    | none =>
        let es := if add then drainSum fe w rows (drainTile t w) else drainConvert fe w rows
        let put := ((span 0 es.length).zip es).flatMap fun r =>
          ((span 0 r.2.length).zip r.2).map fun x => (h, drRow w + r.1, drCol w + x.1, x.2.bits)
        .done (clear (s.putElements o.parcel put)) none (drainNan fe w es)
  else
    let n := elemBytes cvt
    let vas := drainVas o w arg
    let found := if add then unitReads o.via o.vf (s.logOf o.parcel) s (vas.map fun va => (va, n * drCols w)) else (s, .ok [])
    match found with
    | (s, .error (.fault f)) => .done s none (some f)
    | (s, .error .moving) => .wait s
    | (s, .error (.absent va)) => .absent s va
    | (s, .ok old) =>
        let es := if add then drainSum fe w rows (old.map (splitElems n (drCols w))) else drainConvert fe w rows
        let bytes := es.map fun r => (r.map fun x => bytesOfNat n x.bits).flatten
        let rec' := if add then LogRec.add cvt o.fmt ((vas.zip rows).map fun x => (x.1, x.2.map (BitVec.ofNat 64)))
          else LogRec.write (vas.zip bytes)
        match s.applyGlobal o (vas.zip bytes) [rec'] (drainNan fe w es) with
        | .done s far f => .done (if f.isSome && f ≠ drainNan fe w es then s else clear s) far f
        | x => x

/-- The masses of the first `n` slots of a block. -/
def blkMasses (blk : List Byte) (n : Nat) : List Nat := (span 0 n).map (blkMass blk)

/-- The mass-stale record (R148). (DESIGN CHOICE, log entry 47) -/
def massStale (va : Nat) (carried : BitVec 16) (found : Nat) : FaultInfo := .mk' 0x0030 0 0 carried.toNat found 0 va

/-- Applies a mass drain as one indivisible update under the GEN check, or discards it with a mass-stale record. -/
def State.applyMass (s : State) (o : MtxOp) (va : Nat) (gen : BitVec 16) (vals : List W32) : Applied :=
  let l := s.launchOfParcel o.parcel
  if l.hdr.sub then s.applyGlobal o [(va, bytesOfNat (4 * vals.length) 0)] [.mass va gen vals] none
  else match s.unitRead o.via o.vf [] va 576 with
    | (s, .error (.fault f)) => .done s none (some f)
    | (s, .error .moving) => .wait s
    | (s, .error (.absent a)) => .absent s a
    | (s, .ok blk) =>
        if blkGen blk ≠ gen.toNat then
          let r := (s.group? o.group).map fun g => s.groupRecord g (massStale va gen (blkGen blk)) o.clause o.slot 1 .nobody
          .done (match r with | some r => (s.post r).1 | none => s) none none
        else s.applyGlobal o [(va, massBytes (blkMasses blk vals.length) vals)] [] none

/-- Applies what an operation has worked out. -/
def State.applyOp (s : State) (o : MtxOp) (r : MtxResult) : Applied :=
  let k := o.core / 2
  match o.kind with
  | .drain add w arg => if r.fault.isSome then .done s none r.fault else s.applyDrain o add w arg
  | .massDrain .. =>
      (match r.mem with
      | [.mass va gen vals] => (match s.applyMass o va gen vals with
          | .done s far f => .done s far (f.or r.fault)
          | x => x)
      | _ => .done s none r.fault)
  | .get _ _ _ u =>
      (match s.group? o.group with
      | none => .done s none r.fault
      | some g =>
          let fill (p : Pending) : Pending :=
            if p.uid = u then { p with lanes := p.lanes.map fun x => (x.1, .value [Tbl.get 0 r.vals x.1]) } else p
          .done (s.setGroup { g with pending := g.pending.map fill }) none r.fault)
  | _ =>
      let s := s.setPair k ((s.pair k).putCells r.cells)
      let s := match r.tag with
        | some t => s.setPair k { s.pair k with tags := Tbl.put none (s.pair k).tags t.1 (some t.2) }
        | none => s
      .done (s.putElements o.parcel r.tiles) none r.fault

/-! ## Retirement (R194, R323, R324) -/

/-- The fault of an operation: its group takes it at the first of the three points of R194, and the later operations of the
group that have not started are discarded. -/
def State.failOp (s : State) (pair : Nat) (o : MtxOp) (f : FaultInfo) : State :=
  let s := s.setPair pair ((s.pair pair).dropOp o.uid)
  let s := s.addLate o.group { info := f, posted := none, clause := o.clause, slot := o.slot, queue := o.status.map fun q => q.1,
                               sem := none, atBoundary := false, atRelease := false, matrix := true }
  ((s.pair pair).ops.filter fun x => x.group = o.group && x.started.isNone).foldl (fun s x => s.discardOp pair x) s

/-- An operation is complete: its status entry, its increment, and its place. -/
def State.retireOp (s : State) (pair : Nat) (o : MtxOp) : State :=
  match o.status with
  | some (q, gen) =>
      if s.queueRoom o.group q gen 1 then
        let s := s.setPair pair ((s.pair pair).dropOp o.uid)
        (s.deliver o.group q gen [{ QEntry.ofScalar 0 with clause := o.clause, slot := o.slot }]).completion o.parcel o.semv o.sem o.inc
      else s
  | none => (s.setPair pair ((s.pair pair).dropOp o.uid)).completion o.parcel o.semv o.sem o.inc

def execMtxOpRetire (pair op : Nat) (s : State) : Host.Outcome State Fault Refusal :=
  .next <|
    match (s.pair pair).op? op with
    | none => s
    | some o =>
        match o.res with
        | none => s
        | some r =>
            if s.heldBy o.vf o.parked then s
            else if o.applied then (if o.acks = 0 then s.retireOp pair o else s)
            else match s.applyOp o r with
              | .wait s => s
              | .absent s va => s.parkOp pair o (s.launchOfParcel o.parcel) va
              | .abort s => s.abortParcel o.parcel 1
              | .done s far fault =>
                  let s := match far with
                    | some k =>
                        let s := match s.group? o.group with | some g => s.setGroup { g with acks := g.acks + 1 } | none => s
                        s.sendAck { sender := .matrix o.group op, error := false, rank := k, lane := 0, va := o.va, clause := o.clause, slot := o.slot } (o.core / 48)
                    | none => s
                  match fault with
                  | some f => s.failOp pair o f
                  | none =>
                      let o := { o with applied := true, acks := if far.isSome then 1 else 0 }
                      s.setPair pair ((s.pair pair).setOp o)

end Sys2Proof.Machine
end

