-- ==== Sys2Proof/Machine/Scalar.lean ====
section
/-!
DEFINITION. The scalar opcodes and SETF (R250, R251, R255, R258 to R260).
-/
namespace Sys2Proof.Machine
open Sys2Proof

/-- The condition code of a compare (R254). -/
def xCond (x : BitVec 9) : Nat := (x.extractLsb' 3 3).toNat
/-- SAT is X[0]. -/
def xSat (x : BitVec 9) : Bool := x.getLsbD 0

/-- The element of a compare result: all ones or zero (R255). -/
def elMask (t : ElemType) (b : Bool) : El := .of (if b then 2 ^ t.width - 1 else 0)

def execNop (_f : VForm) (s : State) : Host.Outcome State Fault Refusal := runSlot s fun c => c.skip

def execSmov (f : VForm) (s : State) : Host.Outcome State Fault Refusal :=
  runSlot s fun c => c.scalWhole f 1 fun xs => xs.headD 0

/-- A slot that writes an immediate: once for the path, or to every lane of E. -/
def Ctx.immSlot (c : Ctx) (f : IForm) (vec : Bool) : Slot :=
  let e := c.enabled f.pg f.pn
  c.entry e f.nw [⟨36, f.dst, if vec then .vq else .sq, 1⟩] [] true fun c g _ =>
    let x := immReg f.ty f.imm
    c.result g e f.dst f.nw f.pfx vec (if vec then .lanes (laneTbl e fun _ => x) else .one x)

def execSmovi (f : IForm) (s : State) : Host.Outcome State Fault Refusal := runSlot s fun c => c.immSlot f false

def execSadd (f : VForm) (s : State) : Host.Outcome State Fault Refusal :=
  runSlot s fun c => c.scalElems f 2 fun fe => op2 (elAdd f.ty (xSat f.x) fe)
def execSsub (f : VForm) (s : State) : Host.Outcome State Fault Refusal :=
  runSlot s fun c => c.scalElems f 2 fun fe => op2 (elSub f.ty (xSat f.x) fe)
def execSmul (f : VForm) (s : State) : Host.Outcome State Fault Refusal :=
  runSlot s fun c => c.scalElems f 2 fun fe => op2 (elMul f.ty (xSat f.x) fe)
def execSmulh (f : VForm) (s : State) : Host.Outcome State Fault Refusal :=
  runSlot s fun c => c.scalElems f 2 fun _ => op2 (elMulh f.ty)
def execSdiv (f : VForm) (s : State) : Host.Outcome State Fault Refusal :=
  runSlot s fun c => c.scalElems f 2 fun _ => op2 (elDiv f.ty (xSat f.x))
def execSrem (f : VForm) (s : State) : Host.Outcome State Fault Refusal :=
  runSlot s fun c => c.scalElems f 2 fun _ => op2 (elRem f.ty)
def execSand (f : VForm) (s : State) : Host.Outcome State Fault Refusal :=
  runSlot s fun c => c.scalElems f 2 fun _ => op2 elAnd
def execSor (f : VForm) (s : State) : Host.Outcome State Fault Refusal :=
  runSlot s fun c => c.scalElems f 2 fun _ => op2 elOr
def execSxor (f : VForm) (s : State) : Host.Outcome State Fault Refusal :=
  runSlot s fun c => c.scalElems f 2 fun _ => op2 elXor
def execSshl (f : VForm) (s : State) : Host.Outcome State Fault Refusal :=
  runSlot s fun c => c.scalElems f 2 fun _ => op2 (elShl f.ty (f.var = 1))
def execSshr (f : VForm) (s : State) : Host.Outcome State Fault Refusal :=
  runSlot s fun c => c.scalElems f 2 fun _ => op2 (elShr f.ty (f.var = 1))
def execScmp (f : VForm) (s : State) : Host.Outcome State Fault Refusal :=
  runSlot s fun c => c.scalElems f 2 fun fe => op2 fun a b => elMask f.ty (elCompare f.ty fe (xCond f.x) a b)

/-- Whole 64 bits: a where c is not zero, else b (R250). -/
def selectWhole (xs : List W64) : W64 := match xs with | [a, b, c] => if c ≠ 0 then a else b | _ => 0

def execSsel (f : VForm) (s : State) : Host.Outcome State Fault Refusal :=
  runSlot s fun c => c.scalWhole f 3 selectWhole

/-- SADDI reads its destination, which only an s register can be (R250). -/
def execSaddi (f : IForm) (s : State) : Host.Outcome State Fault Refusal :=
  runSlot s fun c =>
    let e := c.enabled f.pg f.pn
    c.entry e f.nw [⟨36, f.dst, .onlyS, 1⟩] [] true fun c g _ =>
      let d := match f.dst with | .s r => g.sreg r.toNat | _ => 0
      let row := mapElems f.ty (op2 (elAdd f.ty false (c.fenv f.pfx))) [d, immReg f.ty f.imm]
      c.result g e f.dst f.nw f.pfx false (.one (elReg f.ty row))

def execSmin (f : VForm) (s : State) : Host.Outcome State Fault Refusal :=
  runSlot s fun c => c.scalElems f 2 fun fe => op2 (elPick f.ty false fe)
def execSmax (f : VForm) (s : State) : Host.Outcome State Fault Refusal :=
  runSlot s fun c => c.scalElems f 2 fun fe => op2 (elPick f.ty true fe)
def execSclz (f : VForm) (s : State) : Host.Outcome State Fault Refusal :=
  runSlot s fun c => c.scalElems f 1 fun _ => op1 (elClz f.ty)
def execSpopc (f : VForm) (s : State) : Host.Outcome State Fault Refusal :=
  runSlot s fun c => c.scalElems f 1 fun _ => op1 (elPopc f.ty)

/-- The scalar conversion: sub-element 0; the other bits of the destination are zero (R258). -/
def execScvt (f : VForm) (s : State) : Host.Outcome State Fault Refusal :=
  runSlot s fun c => c.pathSlot f f.ty (usesOf f 1 .slq) fun fe xs =>
    [elConvert (Wf.srcType f.x) f.ty (xSat f.x) fe (elem (Wf.srcType f.x) (xs.headD 0) 0)]

/-! ## Special registers (R74, R217, R260) -/

/-- The value of a special register by its code of R217; sr.lane is per lane. -/
def Ctx.special (c : Ctx) (n : Nat) : W64 :=
  let l := c.launch
  let p := c.parcel
  let k := l.hdr
  let x (v : Nat) : W64 := BitVec.ofNat 64 v
  if 0x40 ≤ n && n ≤ 0x4F then (c.g.queue (n - 0x40)).binding.zeroExtend 64
  else match n with
    | 0x01 => x c.g.index
    | 0x02 => x k.width
    | 0x03 => x k.groups
    | 0x04 => x k.lanes
    | 0x10 => x p.box.x0
    | 0x11 => x p.box.x1
    | 0x12 => x p.box.y0
    | 0x13 => x p.box.y1
    | 0x14 => x p.box.z0
    | 0x15 => x p.box.z1
    | 0x18 => x l.domX
    | 0x19 => x l.domY
    | 0x1A => x l.domZ
    | 0x20 => x c.g.allot
    | 0x21 => c.g.prio.zeroExtend 64
    | 0x22 => x (if k.sub then p.elapsed % 2 ^ 40 else 0)
    | 0x30 => x (c.g.core / 48)
    | 0x31 => x (c.g.core % 48)
    | 0x32 => x l.vf
    | 0x33 => x l.queue
    | 0x34 => l.num.zeroExtend 64
    | 0x38 => l.seed
    | 0x39 => l.frame.zeroExtend 64
    | 0xFF => c.s.time
    | _ => 0

/-- SRD: a per-lane register gives each lane its own value; any other one value. -/
def execSrd (f : VForm) (s : State) : Host.Outcome State Fault Refusal :=
  runSlot s fun c =>
    let e := c.enabled f.pg f.pn
    let n := f.x.toNat
    c.entry e f.nw [dstOf f .vsq] [] true fun c g _ =>
      let own : Res := .lanes (laneTbl e fun l => BitVec.ofNat 64 l)
      let r : Res := match f.dst, n with
        | .s _, 0 => .one (own.at ((lowest e).getD 0))
        | _, 0 => own
        | .v _, _ => .lanes (laneTbl e fun _ => c.special n)
        | _, _ => .one (c.special n)
      c.result g e f.dst f.nw f.pfx false r

/-! ## SETF (R72, R259) -/

/-- The bits of fmt that MASK selects (R71). -/
def fmtBits (m : BitVec 9) : W32 :=
  (if m.getLsbD 0 then 0x3 else 0) ||| (if m.getLsbD 1 then 0x4 else 0) ||| (if m.getLsbD 2 then 0x8 else 0)
    ||| (if m.getLsbD 3 then 0xF0 else 0) ||| (if m.getLsbD 4 then 0xFF00 else 0) ||| (if m.getLsbD 5 then 0xFF0000 else 0)

/-- Whether SETF refuses the value `a` under MASK. -/
def fmtRefused (a : W64) (m : BitVec 9) : Bool :=
  a.extractLsb' 24 40 ≠ 0 || (m.getLsbD 3 && 1 < (a.extractLsb' 4 4).toNat)

def execSetf (f : VForm) (s : State) : Host.Outcome State Fault Refusal :=
  runSlot s fun c =>
    let e := c.enabled f.pg f.pn
    let value (xs : List Src) : W64 := (xs.headD fun _ => 0) ((lowest e).getD 0)
    let check (xs : List Src) : Option FaultInfo :=
      if fmtRefused (value xs) f.x then some (illegalOperand 6 27 (value xs).toNat) else none
    c.enter { check := check } e f.nw [dstOf f .sq] (usesOf f 1 .slq) true fun c g xs =>
      let old := c.p.fmt
      let b := fmtBits f.x
      let g := g.setPath c.k (some { c.p with fmt := (old &&& ~~~b) ||| ((value xs).truncate 32 &&& b) })
      c.result g e f.dst f.nw f.pfx false (.one (old.zeroExtend 64))

end Sys2Proof.Machine
end

