-- ==== Sys2Proof/Machine/Vector.lean ====
section
/-!
DEFINITION. The vector opcodes, the selects, masks and conversions, and the special functions (R251 to R258, R261 to R263).
-/
namespace Sys2Proof.Machine
open Sys2Proof

/-! ## Arithmetic (R252, R253) -/

def execVmov (f : VForm) (s : State) : Host.Outcome State Fault Refusal :=
  runSlot s fun c => c.vecWhole f 1 fun xs => xs.headD 0
def execVmovi (f : IForm) (s : State) : Host.Outcome State Fault Refusal := runSlot s fun c => c.immSlot f true
def execVadd (f : VForm) (s : State) : Host.Outcome State Fault Refusal :=
  runSlot s fun c => c.vecElems f 2 fun fe => op2 (elAdd f.ty (xSat f.x) fe)
def execVsub (f : VForm) (s : State) : Host.Outcome State Fault Refusal :=
  runSlot s fun c => c.vecElems f 2 fun fe => op2 (elSub f.ty (xSat f.x) fe)
def execVmul (f : VForm) (s : State) : Host.Outcome State Fault Refusal :=
  runSlot s fun c => c.vecElems f 2 fun fe => op2 (elMul f.ty (xSat f.x) fe)
def execVfma (f : VForm) (s : State) : Host.Outcome State Fault Refusal :=
  runSlot s fun c => c.vecElems f 3 fun fe => op3 (elFma f.ty (xSat f.x) fe)
def execVmin (f : VForm) (s : State) : Host.Outcome State Fault Refusal :=
  runSlot s fun c => c.vecElems f 2 fun fe => op2 (elPick f.ty false fe)
def execVmax (f : VForm) (s : State) : Host.Outcome State Fault Refusal :=
  runSlot s fun c => c.vecElems f 2 fun fe => op2 (elPick f.ty true fe)
def execVabs (f : VForm) (s : State) : Host.Outcome State Fault Refusal :=
  runSlot s fun c => c.vecElems f 1 fun _ => op1 (elAbs f.ty (xSat f.x))
def execVneg (f : VForm) (s : State) : Host.Outcome State Fault Refusal :=
  runSlot s fun c => c.vecElems f 1 fun _ => op1 (elNeg f.ty (xSat f.x))
def execVdiv (f : VForm) (s : State) : Host.Outcome State Fault Refusal :=
  runSlot s fun c => c.vecElems f 2 fun _ => op2 (elDiv f.ty (xSat f.x))
def execVrem (f : VForm) (s : State) : Host.Outcome State Fault Refusal :=
  runSlot s fun c => c.vecElems f 2 fun _ => op2 (elRem f.ty)
def execVand (f : VForm) (s : State) : Host.Outcome State Fault Refusal :=
  runSlot s fun c => c.vecElems f 2 fun _ => op2 elAnd
def execVor (f : VForm) (s : State) : Host.Outcome State Fault Refusal :=
  runSlot s fun c => c.vecElems f 2 fun _ => op2 elOr
def execVxor (f : VForm) (s : State) : Host.Outcome State Fault Refusal :=
  runSlot s fun c => c.vecElems f 2 fun _ => op2 elXor
def execVnot (f : VForm) (s : State) : Host.Outcome State Fault Refusal :=
  runSlot s fun c => c.vecElems f 1 fun _ => op1 (elNot f.ty)
def execVshl (f : VForm) (s : State) : Host.Outcome State Fault Refusal :=
  runSlot s fun c => c.vecElems f 2 fun _ => op2 (elShl f.ty (f.var = 1))
def execVshr (f : VForm) (s : State) : Host.Outcome State Fault Refusal :=
  runSlot s fun c => c.vecElems f 2 fun _ => op2 (elShr f.ty (f.var = 1))
def execVclz (f : VForm) (s : State) : Host.Outcome State Fault Refusal :=
  runSlot s fun c => c.vecElems f 1 fun _ => op1 (elClz f.ty)
def execVpopc (f : VForm) (s : State) : Host.Outcome State Fault Refusal :=
  runSlot s fun c => c.vecElems f 1 fun _ => op1 (elPopc f.ty)
def execVmulh (f : VForm) (s : State) : Host.Outcome State Fault Refusal :=
  runSlot s fun c => c.vecElems f 2 fun _ => op2 (elMulh f.ty)
def execVcpys (f : VForm) (s : State) : Host.Outcome State Fault Refusal :=
  runSlot s fun c => c.vecElems f 2 fun _ => op2 (elCpys f.ty)

/-! ## Compares, selects and masks (R254 to R257) -/

/-- How the sub-elements of a lane combine: the first, any, or all. -/
def combine (v : BitVec 2) (bs : List Bool) : Bool :=
  if v = 0 then bs.headD false else if v = 1 then bs.any id else bs.all id

def execVcmp (f : VForm) (s : State) : Host.Outcome State Fault Refusal :=
  runSlot s fun c => c.maskSlot f (usesOf f 2 .vslq) fun c e xs =>
    let fe := c.fenv f.pfx
    maskOf e fun l => match xs with
      | [a, b] => combine f.var ((span 0 f.ty.count).map fun j => elCompare f.ty fe (xCond f.x) (elem f.ty (a l) j) (elem f.ty (b l) j))
      | _ => false

def execVsel (f : VForm) (s : State) : Host.Outcome State Fault Refusal :=
  runSlot s fun c =>
    let e := c.enabled f.pg f.pn
    c.entry e f.nw [dstOf f .vq] (usesOf f 2 .vslq) true fun c g xs =>
      let m := g.kreg c.p.mask (xKB f.x)
      let m := if f.x.getLsbD 3 then ~~~m else m
      c.result g e f.dst f.nw f.pfx true (.lanes (laneTbl e fun l => match xs with
        | [a, b] => if m.getLsbD l then a l else b l
        | _ => 0))

/-- The mask register that a field names, as the path reads it. -/
def Ctx.mask (c : Ctx) (n : Nat) : W64 := c.g.kreg c.p.mask n

def execKand (f : VForm) (s : State) : Host.Outcome State Fault Refusal :=
  runSlot s fun c => c.maskSlot f [] fun c _ _ => c.mask (xKA f.x) &&& c.mask (xKB f.x)
def execKor (f : VForm) (s : State) : Host.Outcome State Fault Refusal :=
  runSlot s fun c => c.maskSlot f [] fun c _ _ => c.mask (xKA f.x) ||| c.mask (xKB f.x)
def execKxor (f : VForm) (s : State) : Host.Outcome State Fault Refusal :=
  runSlot s fun c => c.maskSlot f [] fun c _ _ => c.mask (xKA f.x) ^^^ c.mask (xKB f.x)
def execKnot (f : VForm) (s : State) : Host.Outcome State Fault Refusal :=
  runSlot s fun c => c.maskSlot f [] fun c _ _ => ~~~c.mask (xKA f.x)
def execKmovKk (f : VForm) (s : State) : Host.Outcome State Fault Refusal :=
  runSlot s fun c => c.maskSlot f [] fun c _ _ => c.mask (xKA f.x)
def execKmovSk (f : VForm) (s : State) : Host.Outcome State Fault Refusal :=
  runSlot s fun c => c.maskSlot f (usesOf f 1 .slq) fun _ e xs => (xs.headD fun _ => 0) ((lowest e).getD 0)
def execKmovKs (f : VForm) (s : State) : Host.Outcome State Fault Refusal :=
  runSlot s fun c =>
    let e := c.enabled f.pg f.pn
    c.entry e f.nw [dstOf f .sq] [] true fun c g _ =>
      c.result g e f.dst f.nw f.pfx true (.one (g.kreg c.p.mask (xKA f.x)))

/-! ## Conversions (R258) -/

def execVcvt (f : VForm) (s : State) : Host.Outcome State Fault Refusal :=
  runSlot s fun c => c.laneSlot f 1 f.ty (usesOf f 1 .vslq) fun fe xs =>
    (elems (Wf.srcType f.x) (xs.headD 0)).map (elConvert (Wf.srcType f.x) f.ty (xSat f.x) fe)

/-- The source fields of VPACK: SA, SB, SC and the fourth operand, as many as the packing needs. -/
def packUses (f : VForm) : List Use :=
  let d4 : List Use := match f.pfx.d4 with | some o => [⟨7, o, .vslq, 1⟩] | none => []
  (usesOf f 3 .vslq ++ d4).take (Wf.packCount f.ty f.x)

def execVpack (f : VForm) (s : State) : Host.Outcome State Fault Refusal :=
  runSlot s fun c => c.laneSlot f 1 f.ty (packUses f) fun fe xs =>
    (((xs.map (elems (Wf.srcType f.x))).flatten).take f.ty.count).map (elConvert (Wf.srcType f.x) f.ty (xSat f.x) fe)

/-- PART of VUNPK. -/
def xPart (x : BitVec 9) : Nat := (x.extractLsb' 5 4).toNat

def execVunpk (f : VForm) (s : State) : Host.Outcome State Fault Refusal :=
  runSlot s fun c => c.laneSlot f 1 f.ty (usesOf f 1 .vslq) fun fe xs =>
    let t := Wf.srcType f.x
    (span (xPart f.x * f.ty.count) f.ty.count).map fun e =>
      if e < t.count then elConvert t f.ty (xSat f.x) fe (elem t (xs.headD 0) e) else .of 0

/-! ## Special functions (R261) -/

def execVrcp (f : VForm) (s : State) : Host.Outcome State Fault Refusal :=
  runSlot s fun c => c.sfuSlot f 1 fun fe => op1 (elRcp f.ty fe)
def execVrsq (f : VForm) (s : State) : Host.Outcome State Fault Refusal :=
  runSlot s fun c => c.sfuSlot f 1 fun fe => op1 (elRsq f.ty fe)
def execVsqrt (f : VForm) (s : State) : Host.Outcome State Fault Refusal :=
  runSlot s fun c => c.sfuSlot f 1 fun fe => op1 (elSqrt f.ty fe)
def execVexp2 (f : VForm) (s : State) : Host.Outcome State Fault Refusal :=
  runSlot s fun c => c.sfuSlot f 1 fun fe => op1 (elExp2 f.ty fe)
def execVlog2 (f : VForm) (s : State) : Host.Outcome State Fault Refusal :=
  runSlot s fun c => c.sfuSlot f 1 fun fe => op1 (elLog2 f.ty fe)
def execVsin (f : VForm) (s : State) : Host.Outcome State Fault Refusal :=
  runSlot s fun c => c.sfuSlot f 1 fun fe => op1 (elSin f.ty fe)
def execVcos (f : VForm) (s : State) : Host.Outcome State Fault Refusal :=
  runSlot s fun c => c.sfuSlot f 1 fun fe => op1 (elCos f.ty fe)
def execVfdiv (f : VForm) (s : State) : Host.Outcome State Fault Refusal :=
  runSlot s fun c => c.sfuSlot f 2 fun fe => op2 (elFdiv f.ty fe)
def execVtanh (f : VForm) (s : State) : Host.Outcome State Fault Refusal :=
  runSlot s fun c => c.sfuSlot f 1 fun fe => op1 (elTanh f.ty fe)
def execVerf (f : VForm) (s : State) : Host.Outcome State Fault Refusal :=
  runSlot s fun c => c.sfuSlot f 1 fun fe => op1 (elErf f.ty fe)

end Sys2Proof.Machine
end

