-- ==== Sys2Proof/Machine/CrossLane.lean ====
section
/-!
DEFINITION. The cross-lane opcodes (R264 to R268).
-/
namespace Sys2Proof.Machine
open Sys2Proof

/-- LANE and SUB of a selector (R264). -/
def selLane (x : W64) : Nat := (x.extractLsb' 4 6).toNat
def selSub (x : W64) : Nat := (x.extractLsb' 0 4).toNat

/-- What lane `n` supplies: 64 zero bits outside E. -/
def supply (e : W64) (a : Src) (n : Nat) : W64 := if n < 64 && e.getLsbD n then a n else 0

/-- The fault of a SUB at or above the packing's count, in the lowest lane that has one (R58, R264). -/
def subFault (t : ElemType) (ls : List Nat) (sel : Src) : Option FaultInfo :=
  (ls.find? fun l => t.count ≤ selSub (sel l)).map fun l => { illegalOperand 6 18 (sel l).toNat with lane := l }

/-- The source lane of a shuffle (R265): by index, xor, up, down. -/
def shuffleLane (mode : BitVec 2) (w l n : Nat) : Nat :=
  if mode = 0 then n
  else if mode = 1 then l ^^^ n
  else if mode = 2 then (if n ≤ l then l - n else l)
  else if l + n < w then l + n else l

/-- The sub-elements of a register rotated by `k`. -/
def rotateElems (t : ElemType) (x : W64) (k : Nat) : W64 :=
  BitVec.ofNat 64 (packElems t ((span 0 t.count).map fun j => elem t x ((j + k) % t.count)))

def execVshfl (f : VForm) (s : State) : Host.Outcome State Fault Refusal :=
  runSlot s fun c =>
    let e := c.enabled f.pg f.pn
    let check (xs : List Src) : Option FaultInfo := subFault f.ty (lanes e) (xs.tail.headD fun _ => 0)
    c.enter { check := check } e f.nw [dstOf f .vq] [⟨27, f.sa, .vl, 1⟩, ⟨18, f.sb, .vsl, 1⟩] true fun c g xs =>
      match xs with
      | [a, b] => c.result g e f.dst f.nw f.pfx true (.lanes (laneTbl e fun l =>
          rotateElems f.ty (supply e a (shuffleLane f.var c.g.width l (selLane (b l)))) (selSub (b l))))
      | _ => c.skip

/-- A result that is one value for the path: each lane of E of a v register gets it (R245, R266). -/
def Ctx.oneResult (c : Ctx) (g : Group) (e : W64) (f : VForm) (x : W64) : Slot :=
  c.result g e f.dst f.nw f.pfx true (match f.dst with | .v _ => .lanes (laneTbl e fun _ => x) | _ => .one x)

def execVbcast (f : VForm) (s : State) : Host.Outcome State Fault Refusal :=
  runSlot s fun c =>
    let e := c.enabled f.pg f.pn
    let l := (lowest e).getD 0
    let check (xs : List Src) : Option FaultInfo := subFault f.ty [l] (xs.tail.headD fun _ => 0)
    c.enter { check := check } e f.nw [dstOf f .vsq] [⟨27, f.sa, .vl, 1⟩, ⟨18, f.sb, .slq, 1⟩] true fun c g xs =>
      match xs with
      | [a, b] =>
          let x := elem f.ty (supply e a (selLane (b l))) (selSub (b l))
          c.oneResult g e f (BitVec.ofNat 64 (packElems f.ty (List.replicate f.ty.count x)))
      | _ => c.skip

def execVvote (f : VForm) (s : State) : Host.Outcome State Fault Refusal :=
  runSlot s fun c => c.maskSlot f [] fun c e _ =>
    let p := c.mask (xKA f.x) &&& e
    let r := if f.var = 0 then decide (p ≠ 0) else if f.var = 1 then decide (p = e) else decide (p = 0) || decide (p = e)
    if r then BitVec.allOnes 64 else 0

def execVballot (f : VForm) (s : State) : Host.Outcome State Fault Refusal :=
  runSlot s fun c =>
    let e := c.enabled f.pg f.pn
    c.entry e f.nw [dstOf f .vsq] [⟨27, f.sa, .vl, 1⟩] true fun c g xs =>
      let a := xs.headD fun _ => 0
      c.oneResult g e f (maskOf e fun l =>
        if f.var = 0 then elem f.ty (a l) 0 ≠ 0 else (elems f.ty (a l)).any fun x => x ≠ 0)

/-! ## Folds (R268) -/

def xRop (x : BitVec 9) : Nat := (x.extractLsb' 1 3).toNat

/-- One step of a fold on one sub-element. -/
def foldOp (t : ElemType) (rop : Nat) (sat : Bool) (fe : FEnv) (a b : Nat) : El :=
  match rop with
  | 0 => elAdd t sat fe a b
  | 1 => elPick t false fe a b
  | 2 => elPick t true fe a b
  | 3 => elAnd a b
  | 4 => elOr a b
  | _ => elXor a b

/-- The identity of a fold. -/
def foldIdentity (t : ElemType) (rop : Nat) : Nat :=
  match rop with
  | 1 => if t.isFloat then (fmtOf t).inf false else if t.isLog then logPattern t false (logMax t) else wrapInt t.width (maxInt t)
  | 2 => if t.isFloat then (fmtOf t).inf true else if t.isLog then logPattern t true (logMax t) else wrapInt t.width (minInt t)
  | 3 => 2 ^ t.width - 1
  | _ => 0

/-- The value of a lane as the first of a fold: a NaN counts as made by that lane and is canonical (R169), and a subnormal is flushed
as SUBN says (R174). -/
def foldStart (t : ElemType) (fe : FEnv) (x : Nat) : El :=
  if !t.isFloat then .of x
  else if (Val.of (fmtOf t) false x).isNan then { bits := (fmtOf t).qnan, nan := some (1, x) }
  else .of (flushed t fe x)

/-- The running fold after each lane, lane by lane in ascending order. -/
def foldRun (t : ElemType) (fe : FEnv) (op : Nat → Nat → El) (a : Src) : Option (List El) → List Nat → List (Nat × List El)
  | _, [] => []
  | none, l :: ls =>
      let x := (elems t (a l)).map (foldStart t fe)
      (l, x) :: foldRun t fe op a (some x) ls
  | some acc, l :: ls =>
      let x := (acc.zip (elems t (a l))).map fun (p, y) => op p.bits y
      (l, x) :: foldRun t fe op a (some x) ls

def execVredx (f : VForm) (s : State) : Host.Outcome State Fault Refusal :=
  runSlot s fun c =>
    let e := c.enabled f.pg f.pn
    c.entry e f.nw [dstOf f .vsq] [⟨27, f.sa, .vl, 1⟩] true fun c g xs =>
      let fe := c.fenv f.pfx
      let rows := foldRun f.ty fe (foldOp f.ty (xRop f.x) (xSat f.x) fe) (xs.headD fun _ => 0) none (lanes e)
      match if fe.nant then laneNan 1 rows else none with
      | some x => c.trap x
      | none => c.oneResult g e f (elReg f.ty (((rows.map fun r => r.2).getLast?).getD []))

def execVscan (f : VForm) (s : State) : Host.Outcome State Fault Refusal :=
  runSlot s fun c =>
    let e := c.enabled f.pg f.pn
    c.entry e f.nw [dstOf f .onlyV] [⟨27, f.sa, .vl, 1⟩] true fun c g xs =>
      let fe := c.fenv f.pfx
      let rows := foldRun f.ty fe (foldOp f.ty (xRop f.x) (xSat f.x) fe) (xs.headD fun _ => 0) none (lanes e)
      let written := if f.var = 0 then rows else rows.dropLast
      match if fe.nant then laneNan 1 written else none with
      | some x => c.trap x
      | none =>
          let id : List El := List.replicate f.ty.count (.of (foldIdentity f.ty (xRop f.x)))
          let out := if f.var = 0 then rows.map fun r => r.2 else id :: written.map fun r => r.2
          c.result g e f.dst f.nw f.pfx true (.lanes ((lanes e).zip (out.map (elReg f.ty))))

end Sys2Proof.Machine
end

