-- ==== Sys2Proof/Machine/Engines.lean ====
section
/-!
DEFINITION. Engines that take commands from bound queues: which command is taken, what its completion and its fault do, and
the delivery of results (R109, R111, R112, R313).
-/
namespace Sys2Proof

/-! ## Which queues feed an engine (R109, R112) -/

/-- The input port and the number of entries of one command of an engine. -/
def EngineKind.port : EngineKind → Nat
  | .matrix => 0x01 | .copy => 0x03 | .ray => 0x05 | .reuse => 0x07 | .light => 0x08 | .resurvey => 0x0A
  | .collective => 0x0C | .geometry => 0x0E
def EngineKind.entries : EngineKind → Nat
  | .ray | .light => 4
  | _ => 1

/-- Whether an engine serves a core, and through which instance. -/
def EngineRef.serves (e : EngineRef) (core : Nat) : Bool :=
  match e.kind with
  | .ray => e.unit = core
  | .matrix | .reuse | .light => e.unit = core / 2
  | .copy => e.unit / 4 = core / 48
  | .resurvey | .collective | .geometry => e.unit = core / 48
def EngineRef.inst (e : EngineRef) : Nat := if e.kind = .copy then e.unit % 4 else 0
def EngineRef.die (e : EngineRef) : Nat :=
  match e.kind with
  | .ray => e.unit / 48
  | .matrix | .reuse | .light => e.unit / 24
  | .copy => e.unit / 4
  | .resurvey | .collective | .geometry => e.unit

end Sys2Proof

namespace Sys2Proof.Machine
open Sys2Proof

/-- A bound input queue that holds a command: its place in the rotation, its group and its register. -/
structure Feed where
  key   : Nat
  group : Nat
  queue : Nat
  deriving DecidableEq, Repr

def Group.feeds (g : Group) (e : EngineRef) : List Feed :=
  if !e.serves g.core then []
  else (span 0 16).filterMap fun q =>
    let x := g.queue q
    if bindValid x.binding && !bindOut x.binding && bindPort x.binding = e.kind.port && bindInst x.binding = e.inst
        && e.kind.entries ≤ x.entries.length then
      some { key := (g.core * 16 + g.index) * 16 + q, group := g.uid, queue := q }
    else none

/-- A place in the rotation is below a feed: by key, and by the group's number where groups of two parcels on one core share a key.
(DESIGN CHOICE, log entry 71) -/
def Feed.from (x : Feed) (p : Nat × Nat) : Bool := p.1 < x.key || (p.1 = x.key && p.2 ≤ x.group)

/-- The feed with the lowest place. -/
def lowestFeed (l : List Feed) : Option Feed :=
  l.foldl (fun b x => match b with | none => some x | some y => if x.from (y.key, y.group) then b else some x) none

/-- The place after a feed. -/
def Feed.after (x : Feed) : Nat × Nat := (x.key, x.group + 1)

/-- The next feed of the rotation: the lowest at or after the place where it stands, else the lowest. -/
def nextFeed (last : Nat × Nat) (l : List Feed) : Option Feed := (lowestFeed (l.filter fun x => x.from last)).or (lowestFeed l)

/-- The next bound queue that feeds an engine. -/
def State.nextFeed (s : State) (e : EngineRef) : Option Feed :=
  Machine.nextFeed (s.engine e).last (s.groups.map fun g => g.feeds e).flatten

/-- The first entries of a command leave their queue, and the engine runs it; the binding of its results is the one that
holds the output port now (R112).  An entry of the matrix port that a plain push left there is no command: it is taken and has no
effect. (DESIGN CHOICE, log entry 71) -/
def execEngineTakeCommand (e : EngineRef) (s : State) : Host.Outcome State Fault Refusal :=
  .next <|
    let x := s.engine e
    if x.busy.isSome || !x.results.isEmpty || (s.die e.die).held || !s.engineOn e.die e then s
    else match s.nextFeed e with
      | none => s
      | some f =>
          match s.group? f.group with
          | none => s
          | some g =>
              let q := g.queue f.queue
              let es := q.entries.take e.kind.entries
              let s := s.setGroup (g.setQueue f.queue { q with entries := q.entries.drop e.kind.entries })
              let x := { x with last := f.after }
              match es.head?.bind fun y => y.cmd with
              | none => s.setEngine e x
              | some cmd =>
                  let out := (g.outputAt (e.kind.port + 1) e.inst).map fun n => (n, (g.queue n).gen)
                  s.setEngine e { x with busy := some {
                    group := g.uid, parcel := g.parcel, vf := (s.launchOf g).vf, core := g.core,
                    out := if e.kind = .reuse then none else out, entries := es, cmd := cmd, parked := none, stage := 0, survey := [] } }

/-! ## How a command ends -/

/-- The entry of a command that carries its increment and its place. -/
def Taken.first (b : Taken) : QEntry := b.entries.headD (QEntry.ofScalar 0)

/-- The command that an engine runs, if nothing holds it. -/
def State.command? (s : State) (e : EngineRef) : Option Taken :=
  (s.engine e).busy.bind fun b => if b.held.isSome || s.heldBy b.vf b.parked || !s.engineOn e.die e then none else some b

/-- A command has ended: its results wait for delivery, and the engine's first counter goes up by `n`. -/
def State.engineDone (s : State) (e : EngineRef) (b : Taken) (es : List QEntry) (n0 n1 n2 : Nat) : State :=
  let x := s.engine e
  let r := match b.out with
    | some (q, gen) => if es.isEmpty then [] else [{ group := b.group, queue := q, gen := gen, entries := es : EngineResult }]
    | none => []
  s.setEngine e { x with busy := none, results := x.results ++ r, count0 := x.count0 + BitVec.ofNat 64 n0,
                         count1 := x.count1 + BitVec.ofNat 64 n1, count2 := x.count2 + BitVec.ofNat 64 n2 }

/-- A record of a function stalls its agent (R126). -/
def State.stalls (s : State) (vf seq : Nat) : Bool := (s.vf vf).stalled.any fun r => r.seq = seq

/-- A command ends with a fault; `status` is the entry that says so.  The engine holds the command while the fault's record stalls
(R126). -/
def State.engineFails (s : State) (e : EngineRef) (b : Taken) (f : FaultInfo) (status : List QEntry) (boundary : Bool) : State :=
  let q := (s.vf b.vf).fqseq
  let x := b.first
  let s := s.unitFails b.group x.clause x.slot f (b.out.map fun o => o.1) (if x.semv then some x.sem else none) boundary
  if s.stalls b.vf q then s.setEngine e { s.engine e with busy := some { b with held := some (q, status) } }
  else s.engineDone e b status 0 0 0

/-- An engine of index `i` whose fault's record no longer stalls lets its command go. -/
def State.releaseHeld (s : State) (i : Nat) (x : Engine) : State :=
  match x.busy with
  | some b => match b.held with
    | some (q, status) =>
        if s.stalls b.vf q then s
        else
          let r := match b.out with
            | some (o, gen) => if status.isEmpty then [] else [{ group := b.group, queue := o, gen := gen, entries := status : EngineResult }]
            | none => []
          { s with engines := Tbl.put Engine.idle s.engines i { x with busy := none, results := x.results ++ r } }
    | none => s
  | none => s

def State.releaseEngines (s : State) : State := s.engines.foldl (fun s e => s.releaseHeld e.1 e.2) s

/-- A command cannot go on: it waits for a moving page, parks on an absent one, or fails. -/
def State.engineStops (s : State) (e : EngineRef) (b : Taken) (why : UnitStop) (status : FaultInfo → List QEntry) (boundary : Bool) :
    State :=
  let x := b.first
  match why with
  | .moving => s
  | .fault f => s.engineFails e b f (status f) boundary
  | .absent va =>
      match s.unitParks b.group x.clause x.slot (.engine e) va with
      | (s, .ok q) => s.setEngine e { s.engine e with busy := some { b with parked := some q } }
      | (s, .error f) => s.engineFails e b f (status f) boundary

/-- One held result goes to its binding when there is room, or is discarded when that binding is gone (R112). -/
def execEngineResultDeliver (e : EngineRef) (s : State) : Host.Outcome State Fault Refusal :=
  .next <|
    let x := s.engine e
    match x.results with
    | [] => s
    | r :: rs =>
        if !s.queueRoom r.group r.queue r.gen 1 then s
        else
          let s := s.deliver r.group r.queue r.gen (r.entries.take 1)
          let rest := r.entries.drop 1
          s.setEngine e { x with results := if rest.isEmpty then rs else { r with entries := rest } :: rs }

end Sys2Proof.Machine
end

