-- ==== Sys2Proof/Machine/Cards.lean ====
section
/-!
DEFINITION. The run of a job card: copies, gathers, scatters, fills, matrix products and collectives, what stops a card, and
its completion (R127, R196, R311 to R313, R344).
-/
namespace Sys2Proof.Machine
open Sys2Proof

/-! ## Bytes of a region -/

/-- Where byte `k` of a region's sequence stands, from the region's first byte. -/
def Region.byte (r : Region) (k : Nat) : Nat := k / r.rowLen * r.pitch + k % r.rowLen

/-- A run of bytes at sequence place `k`, cut at the rows: where each piece stands. -/
def Region.cut (r : Region) (k : Nat) (bs : List Byte) : List (Nat × List Byte) :=
  if bs.isEmpty || r.rowLen = 0 then []
  else (span (k / r.rowLen) ((k + bs.length - 1) / r.rowLen - k / r.rowLen + 1)).map fun i =>
    let a := max k (i * r.rowLen)
    let b := min (k + bs.length) ((i + 1) * r.rowLen)
    (r.base + r.byte a, (bs.drop (a - k)).take (b - a))

/-- Whence a card reads and writes, and its class: copies and collective data are bulk traffic (R128). -/
def Card.via (c : Card) : Via := { die := c.core / 48, cls := if c.kind = .matrix then clsRequest else clsBulk }

/-- The bytes of a region in sequence order. -/
def State.regionRead (s : State) (c : Card) (r : Region) : State × Except UnitStop (List Byte) :=
  if r.global then
    match unitReads c.via c.vf (s.logOf c.parcel) s r.spans with
    | (s, .ok bss) => (s, .ok bss.flatten)
    | (s, .error x) => (s, .error x)
  else
    let t := s.unitTile c.parcel r.handle
    match r.spans.find? fun x => t.bad x.1 x.2 with
    | some x => (s, .error (.fault (tilePoison r.handle x.1)))
    | none => (s, .ok (r.spans.map fun x => Memory.readN t.data x.1 x.2).flatten)

/-- The bytes of several regions. -/
def regionReads (c : Card) : State → List Region → State × Except UnitStop (List (List Byte))
  | s, [] => (s, .ok [])
  | s, r :: rs =>
      match s.regionRead c r with
      | (s, .error x) => (s, .error x)
      | (s, .ok bs) => match regionReads c s rs with
        | (s, .ok bss) => (s, .ok (bs :: bss))
        | (s, .error x) => (s, .error x)

/-! ## What a card writes -/

/-- A write of a card: its region, the place in the region's sequence, and the bytes. -/
structure CardWrite where
  region : Region
  at'    : Nat
  data   : List Byte
  deriving DecidableEq, Repr

/-- What a card comes to: plain writes, or sums that are added row by row as indivisible updates. -/
inductive CardWork where
  | writes (ws : List CardWrite)
  | sums (r : Region) (t : ElemType) (rows : List (List W64))
  deriving DecidableEq, Repr

/-- An index that leads beyond its region stops the card. -/
def indexFault (r : Region) (k : Nat) : FaultInfo := capabilityFault 1 r.reg (r.off + r.byte k) 0

/-- The indices of a gather or scatter, as many as both sequences hold whole. (DESIGN CHOICE, log entry 26) -/
def cardIndices (idx : List Byte) (n : Nat) : List Nat := splitElems 4 (min (idx.length / 4) n) idx

/-- out[j] := table[idx[j]]. -/
def gatherWork (t : ElemType) (idx table : List Byte) (tr out : Region) : Except UnitStop CardWork :=
  let n := elemBytes t
  let is := cardIndices idx (out.size / n)
  match is.find? fun i => table.length < i * n + n with
  | some i => .error (.fault (indexFault tr (i * n)))
  | none => .ok (.writes [{ region := out, at' := 0, data := (is.map fun i => (table.drop (i * n)).take n).flatten }])

/-- table[idx[j]] := val[j], in ascending j. -/
def scatterWork (t : ElemType) (idx vals : List Byte) (out : Region) : Except UnitStop CardWork :=
  let n := elemBytes t
  let is := cardIndices idx (vals.length / n)
  match is.find? fun i => out.size < i * n + n with
  | some i => .error (.fault (indexFault out (i * n)))
  | none => .ok (.writes (((span 0 is.length).zip is).map fun x => { region := out, at' := x.2 * n, data := (vals.drop (x.1 * n)).take n }))

/-- The byte (b mod 8) of the pattern for every byte b of a region. -/
def fillBytes (p : W64) (n : Nat) : List Byte := (span 0 n).map fun b => BitVec.ofNat 8 (p.toNat >>> (8 * (b % 8)))

/-! ## JCMTX (R344) -/

/-- Element `e` of row `i` of a region's bytes. -/
def matrixElem (t : ElemType) (bs : List Byte) (rowLen i e : Nat) : Nat :=
  if t = .lg6 then natOfBytes ((bs.drop (i * rowLen + e / 10 * 8)).take 8) / 2 ^ (6 * (e % 10)) % 64
  else natOfBytes ((bs.drop (i * rowLen + e * (t.width / 8))).take (t.width / 8))

/-- The bytes of a row of elements; the rest of the last .lg6 word is zero. -/
def matrixRow (t : ElemType) (es : List Nat) : List Byte :=
  if t = .lg6 then
    ((span 0 ((es.length + 9) / 10)).map fun w => bytesOfNat 8 (packElems .lg6 ((es.drop (10 * w)).take 10))).flatten
  else (es.map fun x => bytesOfNat (t.width / 8) x).flatten

/-- The elements of the product, by row, or the NaN trap: its record names no accumulator tile, and the row and the column of the
element modulo 64. (DESIGN CHOICE, log entry 72) -/
def matrixProduct (c : Card) (a b : List Byte) (ra rb : Region) : Except FaultInfo (List (List Nat)) :=
  let k := c.kspec.toNat
  let (m, n, kk) := (ksM k, ksN k, ksK k)
  let acc := (ksAcc k).getD .f32
  let ta := (ksTypeA k).getD .f32
  let tb := (ksTypeB k).getD .f32
  let fe := FEnv.of c.fmt 0
  let elA (i x : Nat) : Opnd := some (if ksTransA k then matrixElem ta a ra.rowLen x i else matrixElem ta a ra.rowLen i x)
  let elB (x j : Nat) : Opnd := some (if ksTransB k then matrixElem tb b rb.rowLen j x else matrixElem tb b rb.rowLen x j)
  let cell (x : Nat × Nat) : DotCell := { row := x.1, col := x.2, acc := 0, step := kStep acc kk (elA x.1) fun y => elB y x.2 }
  let steps := stepCount acc kk
  let nan := if fe.nant then lowestNan acc ta tb fe steps ((gridOf m n).map cell) else none
  match nan with
  | some (x, g, cause, w) => .error (matrixNan 3 15 (x.row % 64) (x.col % 64) cause w g none)
  | none => .ok ((span 0 m).map fun i => (span 0 n).map fun j => accAfter acc ta tb fe (cell (i, j)).step 0 steps)

/-- The sums of an adding card over what stands there, by row. -/
def addedRows (t : ElemType) (fmt : W32) (old : List Byte) (rowLen : Nat) (rows : List (List W64)) : List (List El) :=
  ((span 0 rows.length).zip rows).map fun x =>
    ((span 0 x.2.length).zip x.2).map fun y => elAdd t t.isInt (FEnv.of fmt 0) (matrixElem t old rowLen x.1 y.1) y.2.toNat

def matrixWork (c : Card) (a b : List Byte) (ra rb out : Region) : Except UnitStop CardWork :=
  match matrixProduct c a b ra rb with
  | .error f => .error (.fault f)
  | .ok rows =>
      let k := c.kspec.toNat
      let acc := (ksAcc k).getD .f32
      let cvt := (ksCvt k).getD .f32
      if ksAdd k then .ok (.sums out acc (rows.map fun r => r.map (BitVec.ofNat 64)))
      else
        let fe := FEnv.of c.fmt 0
        .ok (.writes [{ region := out, at' := 0,
                        data := (rows.map fun r => matrixRow cvt (r.map fun x => (elConvert acc cvt false fe x).bits)).flatten }])

/-! ## The work of a card -/

/-- What a card does, from what it reads. -/
def cardWork (c : Card) (bss : List (List Byte)) : Except UnitStop CardWork :=
  match c.kind, c.reads, bss, c.writes with
  | .copy, _, bss, ws => .ok (.writes ((ws.zip bss).map fun x => { region := x.1, at' := 0, data := x.2 }))
  | .fill, _, _, ws => .ok (.writes (ws.map fun r => { region := r, at' := 0, data := fillBytes c.arg r.size }))
  | .gather, [_, tr], [idx, table], [out] => gatherWork c.ety idx table tr out
  | .scatter, _, [idx, vals], [out] => scatterWork c.ety idx vals out
  | .matrix, [ra, rb], [a, b], [out] => matrixWork c a b ra rb out
  | _, _, _, _ => .ok (.writes [])

/-! ## How a card goes on -/

def State.setCard (s : State) (c : Card) : State :=
  let p := s.pair (c.core / 2)
  s.setPair (c.core / 2) { p with cards := replaceFirst (fun x => x.uid = c.uid) c p.cards }

def State.card? (s : State) (u : Nat) : Option Card := s.pairs.findSome? fun e => e.2.cards.find? fun c => c.uid = u

/-- A card stops with a fault (R313): its record is posted, its group takes the fault later, and its status entry follows. -/
def State.cardFails (s : State) (c : Card) (f : FaultInfo) : State :=
  (s.setCard { c with state := .failed f.code }).unitFails c.group c.clause c.slot f (some c.out.1) (if c.semv then some c.sem else none) false

/-- A card that cannot go on: it waits, parks, or stops.  One with a result to write keeps it. -/
def State.cardStops (s : State) (c : Card) : UnitStop → State
  | .moving => s
  | .fault f => s.cardFails c f
  | .absent va =>
      match s.unitParks c.group c.clause c.slot (.card c.uid) va with
      | (s, .ok q) => s.setCard { c with state := match c.state with | .result bs _ => .result bs (some q) | _ => .parked q }
      | (s, .error f) => s.cardFails c f

/-- The acknowledgement that a card waits for after an update that was applied at once at far homes, one of which is at `cell`. -/
def State.cardAck (s : State) (c : Card) (cell : Nat) : Ack :=
  { sender := .card c.uid, error := false, rank := s.homeRank cell, lane := 0,
    va := (c.writes.head?.map fun r => r.base).getD 0, clause := c.clause, slot := c.slot }

/-- Records in the log of a subdivisible parcel; a log that is full aborts the parcel (R26). -/
def State.logCard (s : State) (c : Card) (recs : List LogRec) : Except State State :=
  match (s.parcel? c.parcel).bind fun p => p.logged (s.launchOfParcel c.parcel).hdr.clog recs with
  | some p => .ok (s.setParcel p)
  | none => .error (s.abortParcel c.parcel 1)

/-- The tile writes of a card. -/
def State.cardTiles (s : State) (c : Card) (ws : List CardWrite) : State :=
  (ws.filter fun w => !w.region.global).foldl (fun s w =>
    (w.region.cut w.at' w.data).foldl (fun s x => s.setTile c.parcel w.region.handle ((s.unitTile c.parcel w.region.handle).putBytes x.1 x.2)) s) s

/-- Applies plain writes: to tiles, to the log, or on their way to their homes. -/
def State.cardWrites (s : State) (c : Card) (ws : List CardWrite) : State :=
  let globals := ((ws.filter fun w => w.region.global).map fun w => w.region.cut w.at' w.data).flatten
  match s.unitPieces c.vf .write globals with
  | (s, .error x) => s.cardStops c x
  | (s, .ok ps) =>
      if (s.launchOfParcel c.parcel).hdr.sub then
        match s.logCard c (globals.map fun x => .write [x]) with
        | .ok s => (s.cardTiles c ws).setCard { c with state := .acks, acks := 0 }
        | .error s => s
      else
        if !s.roomOver c.via ps then s.cardStops c .moving
        else
          let (s, n) := s.sendPieces (.card c.uid) c.via c.vf 0 c.clause c.slot ps
          (s.cardTiles c ws).setCard { c with state := .acks, acks := n }

/-- The 64 × 64 blocks of rows of elements of `n` bytes with their addresses (R344). -/
def matrixBlocks (n : Nat) (rows : List (Nat × List W64)) : List (List (Nat × List W64)) :=
  let cols := (rows.headD (0, [])).2.length
  (gridOf ((rows.length + 63) / 64) ((cols + 63) / 64)).map fun b =>
    ((rows.drop (64 * b.1)).take 64).map fun r => (r.1 + 64 * n * b.2, (r.2.drop (64 * b.2)).take 64)

/-- Adds rows to a region: each block as one indivisible update (R344, R470). -/
def State.cardSums (s : State) (c : Card) (r : Region) (t : ElemType) (rows : List (List W64)) : State :=
  match s.regionRead c r with
  | (s, .error x) => s.cardStops c x
  | (s, .ok old) =>
      let fe := FEnv.of c.fmt 0
      let es := addedRows t c.fmt old r.rowLen rows
      match if fe.nant then ((span 0 es.length).zip es).findSome? fun x => (firstNan 0 x.2).map fun y => (x.1, y) else none with
      | some (i, j, cause, w) => s.cardFails c (matrixNan 3 15 (i % 64) (j % 64) cause w 0 none)
      | none =>
          let bss := es.map fun x => matrixRow t (x.map fun e => e.bits)
          let vas := (span 0 r.rows).map fun i => r.base + i * r.pitch
          if !r.global then
            (s.cardTiles c [{ region := r, at' := 0, data := bss.flatten }]).setCard { c with state := .acks, acks := 0 }
          else match s.unitPieces c.vf .write (vas.zip bss) with
            | (s, .error x) => s.cardStops c x
            | (s, .ok ps) =>
                if (s.launchOfParcel c.parcel).hdr.sub then
                  match s.logCard c ((matrixBlocks (elemBytes t) (vas.zip rows)).map fun b => .add t c.fmt b) with
                  | .ok s => s.setCard { c with state := .acks, acks := 0 }
                  | .error s => s
                else
                  match s.crossPieces c.via ps, ps.find? fun p => s.isFar (c.core / 48) p.cell with
                  | none, _ => s.cardStops c .moving
                  | some s, none => (s.applyPieces 0 ps).setCard { c with state := .acks, acks := 0 }
                  | some s, some p =>
                      ((s.applyPieces 0 ps).sendAck (s.cardAck c p.cell) (c.core / 48)).setCard { c with state := .acks, acks := 1 }

/-! ## Collectives (R311, R312) -/

/-- The order of the fold: package, die, core, group. -/
def Participant.before (a b : Participant) : Bool :=
  a.package < b.package || (a.package = b.package && (a.die < b.die || (a.die = b.die && (a.core < b.core
    || (a.core = b.core && a.group < b.group)))))

def insertParticipant (x : Participant) : List Participant → List Participant
  | [] => [x]
  | y :: ys => if x.before y then x :: y :: ys else y :: insertParticipant x ys

/-- In fold order; equals stay in order of arrival. -/
def foldOrder (l : List Participant) : List Participant := l.foldl (fun a x => insertParticipant x a) []

/-- One step of a fold: 0 sum, 1 min, 2 max, 3 and, 4 or, 5 xor. -/
def foldStep (t : ElemType) (fe : FEnv) (cop a b : Nat) : El :=
  match cop with
  | 0 => elAdd t false fe a b
  | 1 => elPick t false fe a b
  | 2 => elPick t true fe a b
  | 3 => elAnd a b
  | 4 => elOr a b
  | _ => elXor a b

/-- The fold of one element; of a NaN that stays, the first report stands. -/
def foldElems (t : ElemType) (fe : FEnv) (cop : Nat) : El → List Nat → El
  | x, [] => x
  | x, y :: ys =>
      let z := foldStep t fe cop x.bits y
      foldElems t fe cop (if x.nan.isSome && z.nan.isSome then { z with nan := x.nan } else z) ys

/-- The first element of a fold; where it is the whole fold of a sum, a minimum or a maximum, it is delivered as a result (R169, R174,
R196). -/
def foldFirst (t : ElemType) (fe : FEnv) (cop x : Nat) (alone : Bool) : El := if alone && cop < 3 then foldStart t fe x else .of x

/-- The NaN trap of the collective engine (R195, R196). -/
def collectiveNan (cause w : Nat) : FaultInfo := nanTrap 6 0 0 cause w

/-- The result of an instance, or what stops all its cards. -/
def foldInstance (l : List Participant) (rest : W64) : Except FaultInfo (List Byte) :=
  match foldOrder l with
  | [] => .ok []
  | x :: xs =>
      if xs.any fun y => y.parts ≠ x.parts || y.cop ≠ x.cop || y.ty ≠ x.ty || y.wlen ≠ x.wlen || y.data.length ≠ x.data.length then
        .error (illegalOperand 6 0 0)
      else
        let n := elemBytes x.ty
        let k := x.data.length / n
        let fe := FEnv.of x.fmt 0
        let cols := xs.map fun y => splitElems n k y.data
        let es := ((span 0 k).zip (splitElems n k x.data)).map fun e =>
          foldElems x.ty fe x.cop (foldFirst x.ty fe x.cop e.2 cols.isEmpty) (cols.map fun c => c.getD e.1 0)
        match if fe.nant && x.ty.isFloat && x.cop < 3 then firstNan 0 es else none with
        | some (_, cause, w) => .error (collectiveNan cause w)
        | none => .ok ((es.map fun e => bytesOfNat n e.bits).flatten ++ bytesOfNat (x.data.length % n) rest.toNat)

/-- The participants that form the next instance with the key of `p`, once enough have arrived. -/
def instanceOf (joined : List Participant) (p : Participant) : Option (List Participant) :=
  let same := joined.filter fun x => x.vf = p.vf && x.key = p.key
  match same with
  | [] => none
  | x :: _ => if same.length < x.parts then none else some (same.take x.parts)

/-- The first of each of some participants removed. -/
def withoutAll (l gone : List Participant) : List Participant :=
  gone.foldl (fun l x => l.eraseP fun y => decide (y = x)) l

/-- A card writes the result of its instance, now or when the links and pages let it (R313). -/
def State.writeResult (s : State) (c : Card) (bs : List Byte) : State :=
  (s.setCard c).cardWrites c (c.writes.map fun w => { region := w, at' := 0, data := bs })

/-- A participant receives the result: its card writes it, or it goes back over the fabric. -/
def State.collectiveResult (s : State) (r : Except FaultInfo (List Byte)) (p : Participant) : State :=
  match p.card.bind s.card?, r with
  | some c, .ok bs => s.writeResult { c with state := .result bs none } bs
  | some c, .error f => s.cardFails c f
  | none, .ok bs => if p.card.isSome then s else { s with replies := s.replies ++ [.bytes bs] }
  | none, .error f => if p.card.isSome then s else { s with replies := s.replies ++ [.word (BitVec.ofNat 64 f.code)] }

/-- A participant arrives; the instance that it completes is folded and its results are written. -/
def State.join (s : State) (p : Participant) : State :=
  let s := { s with joined := s.joined ++ [p] }
  match instanceOf s.joined p with
  | none => s
  | some l =>
      let (s, n) := s.nextFree
      let r := foldInstance l (Config.freeWord n)
      (foldOrder l).foldl (fun s x => s.collectiveResult r x) { s with joined := withoutAll s.joined l }

/-- The participant that a card is, with what it read. -/
def State.participant (s : State) (c : Card) (data : List Byte) : Participant :=
  { package := s.control.package, vf := c.vf, die := c.core / 48, core := c.core,
    group := ((s.group? c.group).map fun g => g.index).getD 0, card := some c.uid, key := c.key, parts := c.parts, cop := c.cop, ty := c.ety, fmt := c.fmt,
    wlen := (c.writes.map Region.size).foldl (· + ·) 0, data := data }

/-! ## Dispatch (R127) -/

/-- The code with which a card that `c` depends on has stopped (R313). -/
def Pair.brokenBy (p : Pair) (c : Card) : Option Nat :=
  p.cards.findSome? fun x => match x.state with
    | .failed k | .stopped k => if c.after x then some k else none
    | _ => none

/-- A card's engine runs another one: it takes one at a time, except that a collective engine holds the cards that wait for their
instances (R112, R312). -/
def State.engineTaken (s : State) (c : Card) : Bool :=
  c.kind ≠ .collective && s.pairs.any fun e => e.2.cards.any fun x => x.live && x.engine = c.engine && x.uid ≠ c.uid && x.taken ≠ 0

/-- Whether a card has not started or goes on after a stop, and nothing that it depends on is still to complete. -/
def State.cardReady (s : State) (p : Pair) (c : Card) : Bool :=
  (match c.state with
    | .waiting => !s.engineTaken c
    | .parked q => !s.heldBy c.vf (some q)
    | .result _ q => !s.heldBy c.vf q
    | _ => false)
  && !(p.cards.any fun x => x.live && c.after x) && !(s.die (c.core / 48)).held && s.engineOn (c.core / 48) c.engine && !(c.kind = .matrix && p.reset)

/-- The place of a card's binding in the rotation of its engine (R112). -/
def State.cardFeed (s : State) (c : Card) : Feed :=
  let i := ((s.group? c.group).map fun g => g.index).getD 0
  { key := (c.core * 16 + i) * 16 + c.out.1, group := c.group, queue := c.out.1 }

/-- A waiting card is the next that its engine takes: of the pairs' oldest ready cards for it, the one that the rotation comes to. -/
def State.cardTurn (s : State) (c : Card) : Bool :=
  let l := s.pairs.filterMap fun e => e.2.cards.find? fun x => x.engine = c.engine && x.state = .waiting && s.cardReady e.2 x
  c.state ≠ .waiting || decide (Machine.nextFeed (s.engine c.engine).last (l.map s.cardFeed) = some (s.cardFeed c))

/-- An engine takes a card. -/
def State.takeCard (s : State) (c : Card) : State × Card :=
  if c.taken ≠ 0 then (s, c)
  else
    let (s, u) := s.fresh
    let c := { c with taken := u + 1 }
    let s := if c.kind = .matrix then s else s.setEngine c.engine { s.engine c.engine with last := (s.cardFeed c).after }
    (s.setCard c, c)

/-- What a card does once its engine has it. -/
def State.runCard (s : State) (c : Card) : State :=
  match c.state with
  | .result bs _ => s.writeResult { c with state := .result bs none } bs
  | _ =>
    match regionReads c s c.reads with
    | (s, .error x) => s.cardStops c x
    | (s, .ok bss) =>
        if c.kind = .collective then (s.setCard { c with state := .running }).join (s.participant c bss.flatten)
        else match cardWork c bss with
          | .error x => s.cardStops c x
          | .ok (.writes ws) => s.cardWrites c ws
          | .ok (.sums r t rows) => s.cardSums c r t rows

def execJobCardDispatch (pair : Nat) (s : State) : Host.Outcome State Fault Refusal :=
  .next <|
    let p := s.pair pair
    match p.cards.find? fun c => s.cardReady p c && (s.cardTurn c || (p.brokenBy c).isSome) with
    | none => s
    | some c =>
        let (s, c) := s.takeCard c
        match p.brokenBy c with
        | some code => s.setCard { c with state := .failed code }
        | none => s.runCard c

/-! ## Completion (R313) -/

/-- The snapshot counter of an engine that has finished a card (R83). -/
def State.countCard (s : State) (c : Card) : State :=
  if c.kind = .matrix then s
  else
    let x := s.engine c.engine
    s.setEngine c.engine { x with count0 := x.count0 + 1 }

/-- A card of the same binding that an engine took earlier is still to complete: statuses come in the order in which the binding's
cards were taken (R112). -/
def State.behindTaken (s : State) (c : Card) : Bool :=
  s.pairs.any fun e => e.2.cards.any fun x => x.live && x.group = c.group && x.out = c.out && x.taken ≠ 0 && x.taken < c.taken

/-- The record of a card's fault stalls, so that its engine holds the card (R126). -/
def State.cardStalls (s : State) (c : Card) : Bool :=
  (s.vf c.vf).stalled.any fun r => r.state ≠ 2 && r.clause = c.clause && r.slot = c.slot && (match r.owner with
    | .group g => g = c.group
    | _ => false) && match c.state with | .failed k => r.info.code = k | _ => false

/-- A card whose writes are all in completes with status 0 and its increment; one that has stopped delivers its code. -/
def execJobCardComplete (card : Nat) (s : State) : Host.Outcome State Fault Refusal :=
  .next <|
    match s.card? card with
    | none => s
    | some c =>
        if !s.queueRoom c.group c.out.1 c.out.2 1 || s.behindTaken c || s.cardStalls c then s
        else
          let status (code : Nat) : List QEntry := [{ QEntry.ofScalar (BitVec.ofNat 64 code) with clause := c.clause, slot := c.slot }]
          match c.state with
          | .failed code => (s.setCard { c with state := .stopped code }).deliver c.group c.out.1 c.out.2 (status code)
          | .acks =>
              if c.acks ≠ 0 || s.net.any fun o => o.sender = .card c.uid then s
              else
                let p := s.pair (c.core / 2)
                let s := (s.setPair (c.core / 2) { p with cards := p.cards.filter fun x => x.uid ≠ c.uid }).countCard c
                (s.deliver c.group c.out.1 c.out.2 (status 0)).completion c.parcel c.semv c.sem c.inc
          | _ => s

end Sys2Proof.Machine
end

