-- ==== Sys2Proof/Machine/ArrayReset.lean ====
section
/-!
DEFINITION. The reset of a pair's matrix engine: by the watchdog, by MXRST and by the debug port (R355, R431, R436).
-/
namespace Sys2Proof.Machine
open Sys2Proof

/-- The tiles that an operation in flight was to write: they are poisoned whole. -/
def MtxKind.writesTile : MtxKind → List Nat
  | .unfold _ _ d => [d]
  | .drain _ w _ => if drainGlobal w then [] else [drainHandle w]
  | .softmax _ _ _ st => [st]
  | _ => []

/-- Every sector of a tile. -/
def Tile.poisonAll (t : Tile) : Tile := { t with poison := span 0 (t.bytes / 64) }

def matrixResetFault (cause pair : Nat) : FaultInfo := .mk' 0x0024 cause pair

/-- Ends a parcel by a matrix-engine reset: a subdivisible one is requeued whole, any other gets its record. -/
def State.resetParcel (s : State) (cause pair u : Nat) : State :=
  match s.parcel? u with
  | none => s
  | some p =>
      if (s.launchFor p).hdr.sub then s.abortParcel u 5
      else ((s.post (s.parcelRecord p (matrixResetFault cause pair) 1)).1).endParcel u none

/-- Poisons the tiles of the operations that have started. -/
def State.poisonTargets (s : State) (ops : List MtxOp) : State :=
  (ops.filter fun o => o.started.isSome).foldl (fun s o => o.kind.writesTile.foldl (fun s h =>
    match s.tileOf o.parcel h with
    | some t => s.setTile o.parcel h t.poisonAll
    | none => s) s) s

/-- A matrix card that is in flight. -/
def Card.inArray (c : Card) : Bool :=
  c.kind = .matrix && match c.state with | .running | .acks | .parked _ => true | _ => false

/-- A matrix card in flight stops with the matrix-reset status: its record is posted, and its group takes the fault as R313
states. -/
def State.resetCard (s : State) (cause pair : Nat) (c : Card) : State :=
  let s := s.closeRecords c.vf (fun r => r.owner = .card c.uid) 2
  let s := s.setCard { c with state := .failed 0x0024 }
  match s.group? c.group with
  | none => s
  | some g =>
      let f := matrixResetFault cause pair
      let (s, q) := s.post (s.groupRecord g f c.clause c.slot 1 (.card c.uid))
      s.addLate c.group { info := f, posted := some q, clause := c.clause, slot := c.slot, queue := some c.out.1,
                          sem := if c.semv then some c.sem else none, atBoundary := false, atRelease := false, matrix := false }

/-- The results for registers that the cancelled operations still owe are dropped. -/
def Group.dropArray (ops : List MtxOp) (g : Group) : Group :=
  let owed (u : Nat) : Bool := ops.any fun o => match o.kind with | .get _ _ _ v => v = u | _ => false
  { g with pending := g.pending.filter fun x => !(x.kind = .array && owed x.uid) }

/-- Resets the matrix engine of a pair (R355). -/
def State.resetPair (s : State) (pair cause : Nat) : State :=
  let p := s.pair pair
  let hit := p.ops.foldl (fun (l : List Nat) o => if l.contains o.parcel then l else l ++ [o.parcel]) []
  let s := s.poisonTargets p.ops
  let s := { s with groups := s.groups.map (Group.dropArray p.ops) }
  let s := s.setPair pair { p with acc := [], owner := none, tags := [], ops := [], reset := true }
  let s := (p.cards.filter Card.inArray).foldl (fun s c => s.resetCard cause pair c) s
  hit.foldl (fun s u => s.resetParcel cause pair u) s

/-- An operation that has not retired within 2^26 cycles of its start. -/
def State.hung (s : State) (pair : Nat) : Bool :=
  (s.pair pair).ops.any fun o => match o.started with | some t => t + 2 ^ 26 ≤ s.cycles | none => false

def execMatrixWatchdog (pair : Nat) (s : State) : Host.Outcome State Fault Refusal :=
  .next (if s.hung pair then s.resetPair pair 1 else s)

/-! ## MXRST (R436) -/

def State.setMxrst (s : State) (x : W64) : State := { s with control := { s.control with mxrst := x } }
def mxPair (x : W64) : Nat := (x.extractLsb' 0 7).toNat
def mxBusy (x : W64) : Bool := x.getLsbD 7
/-- The stored register: PAIR and BUSY. -/
def mxWord (pair : Nat) (busy : Bool) : W64 := BitVec.ofNat 64 (pair % 128 + if busy then 128 else 0)

def execMatrixResetCommand (src : ResetSource) (s : State) : Host.Outcome State Fault Refusal :=
  .next <|
    match src with
    | .debugPort pair => if s.debugPort && pair < 96 then s.resetPair pair 2 else s
    | .mxrst v =>
        if mxBusy s.control.mxrst then s
        else if v.getLsbD 63 && mxPair v < 96 then (s.setMxrst (mxWord (mxPair v) true)).resetPair (mxPair v) 2
        else s.setMxrst (mxWord (mxPair v) false)

def execMatrixResetComplete (pair : Nat) (s : State) : Host.Outcome State Fault Refusal :=
  .next <|
    let p := s.pair pair
    if !p.reset then s
    else
      let s := s.setPair pair { p with reset := false }
      if mxBusy s.control.mxrst && mxPair s.control.mxrst = pair then s.setMxrst (mxWord pair false) else s

end Sys2Proof.Machine
end

