-- ==== Sys2Proof/Machine/Traverse.lean ====
section
/-!
DEFINITION. The traverse instructions (R122 to R124, R303 to R306).
-/
namespace Sys2Proof.Machine
open Sys2Proof

/-- The blocks that meet [va, va + n). -/
def tvBlocks (va n : Nat) : List Nat := span (va / 256) ((va + n - 1) / 256 - va / 256 + 1)

/-- A declaration with one more range, or none when it passes 16 ranges or 4,096 blocks. -/
def Decl.add (d : Decl) (bs : List Nat) : Option Decl :=
  let all := d.blocks ++ bs.filter fun b => !d.blocks.contains b
  if 16 ≤ d.ranges || 4096 < all.length then none else some { d with ranges := d.ranges + 1, blocks := all }

def Decl.open : Decl := { ranges := 0, blocks := [], submitted := none, waited := false, fault := none }

/-- Whether a declaration shares a block with a closed transaction of the same parcel (R304). -/
def State.sharesClosed (s : State) (parcel : Nat) (bs : List Nat) : Bool :=
  s.groups.any fun g => g.parcel = parcel && g.closedTv.any fun u =>
    match s.decls.find? fun d => d.uid = u with
    | some d => d.blocks.any fun b => bs.contains b
    | none => false

/-- Submits the group's declaration: it joins the batch of its die (R122). -/
def Ctx.submit (c : Ctx) (s : State) (g : Group) (d : Decl) : State × Group :=
  let (s, u) := s.fresh
  let t : TvDecl := { uid := u, group := g.uid, parcel := g.parcel, vf := c.vf, die := c.die, beat := 0, order := 0,
                      blocks := d.blocks, placed := false, gone := false, record := none }
  let x := s.die c.die
  let s := { s.setDie c.die { x with batch := x.batch ++ [u] } with decls := s.decls ++ [t] }
  (s, { g with decl := some { d with submitted := some u } })

/-- Why a traverse slot finds no fitting declaration. -/
def noDeclaration : FaultInfo := illegalOperand 6 0 0

def execTvdecl (f : MForm) (s : State) : Host.Outcome State Fault Refusal :=
  runSlot s fun c =>
    let e := c.enabled f.pg f.pn
    let l := (lowest e).getD 0
    let submits := isRelease f.ord
    let held := c.g.decl.getD Decl.open
    let len (xs : List Src) : Nat := ((xs.headD fun _ => 0) l).toNat
    let check (xs : List Src) : Option FaultInfo :=
      if held.submitted.isSome then some noDeclaration
      else if len xs = 0 || 2 ^ 32 < len xs then some (illegalOperand 6 36 (len xs))
      else if 16 ≤ held.ranges || 4096 < (len xs + 255) / 256 then some (illegalOperand 6 36 (len xs))
      else none
    c.enter { always := false, fence := submits, check := check } e true [] (dataUse f .sl :: idxUse f .sl) false fun c g xs =>
      let n := len xs
      let reg := f.cap.toNat
      let cap := c.g.cap reg
      let a := elemAddr cap (idxSrc f xs.tail l) f.ofs.toInt 1
      match capLanes c.g.core c.vf reg cap rTraverse n 1 c.s [(l, a)] with
      | (s, .error x) => .stop s c.g (.trap x)
      | (s, .ok vs) =>
          let va := (vs.headD (0, 0)).2
          let bs := tvBlocks va n
          match held.add bs with
          | none => .stop s c.g (.trap (illegalOperand 6 36 n))
          | some d =>
              if submits && s.subdivisible g && s.sharesClosed g.parcel d.blocks then .stop s c.g (.trap noDeclaration)
              else
                let (s, r) := transLanes c.g.core c.vf .read s (bs.map fun b => (l, b * 256))
                match laneStop { c.g with decl := none } c.launch 256 r with
                | some x => .stop s c.g x
                | none =>
                    if !submits then .done s { g with decl := some d } none none
                    else if s.subdivisible g && 4 ≤ g.closedTv.length then .stop s c.g (.abort 1)
                    else (s.releaseWait g 6).slot fun s g =>
                      let (s, g) := c.submit s g d
                      .done s g none none

def execTvwait (f : VForm) (s : State) : Host.Outcome State Fault Refusal :=
  runSlot s fun c =>
    if c.enabled f.pg f.pn = 0 then c.skip
    else match c.g.decl with
      | none => c.trap noDeclaration
      | some d =>
          match d.submitted, d.fault with
          | none, _ => c.trap noDeclaration
          | some _, some x => .stop c.s { c.g with decl := none } (.trap x)
          | some u, none =>
              if c.s.granted u then .done (c.s.acquire c.g 6) { c.g with decl := some { d with waited := true } } none none
              else c.block .grants

def execTvend (f : VForm) (s : State) : Host.Outcome State Fault Refusal :=
  runSlot s fun c =>
    if c.enabled f.pg f.pn = 0 then c.skip
    else match c.g.decl with
      | none => c.trap noDeclaration
      | some d =>
          match d.submitted, d.fault with
          | none, _ => c.trap noDeclaration
          | some _, some x => .stop c.s { c.g with decl := none } (.trap x)
          | some u, none =>
              (c.s.release c.g c.k 6).slot fun s g =>
                let (s, g) := s.closeTransaction g u
                .done s g none none

end Sys2Proof.Machine
end

