-- ==== Sys2Proof/Machine/Beats.lean ====
section
/-!
DEFINITION. The beats of the traverse sequencers and the placement of declarations into the grant queues (R28, R122 to R124,
R146, R304, R432).
-/
namespace Sys2Proof.Machine
open Sys2Proof

/-! ## BEAT_END (R122) -/

/-- The declarations of a batch take the beat's number and their place in it. -/
def numberDecls (beat : Nat) (batch : List Nat) (ds : List TvDecl) : List TvDecl :=
  ds.map fun d => match batch.idxOf? d.uid with
    | some i => { d with beat := beat, order := i }
    | none => d

/-- The batch of one die is exchanged: its first 256 entries; the others joined the following beat. -/
def State.closeBatch (s : State) (die : Nat) : State :=
  let d := s.die die
  { s.setDie die { d with beat := d.beat + 1, batch := d.batch.drop 256 } with decls := numberDecls d.beat (d.batch.take 256) s.decls }

/-- The way of a batch between two dies: where the die between them is held in reset, round the other side, since the other sequencers
go on closing their beats. (DESIGN CHOICE, log entry 61) -/
def State.batchWay (s : State) (a b : Nat) : List Nat :=
  let w := dieWay a b
  if w.length < 2 || !(s.die (if a = 0 || b = 0 then 1 else 0)).held then w
  else
    let m := if a = 0 || b = 0 then 2 else 3
    if (s.die m).held then [] else [hop a m, hop m b]

/-- Every sequencer that is not held in reset sends its batch, empty or not, to the others as control traffic (R122, R128). -/
def State.exchangeBatches (s : State) : Option State :=
  let ds := (span 0 Config.dies).filter fun n => !(s.die n).held
  crossWays clsControl (ds.flatMap fun a => (ds.filter fun b => b ≠ a).map fun b => s.batchWay a b) s

/-- A declaration that fails ends at once, and its group takes the fault at its TVWAIT or TVEND (R304). -/
def State.failDecl (s : State) (d : TvDecl) (f : FaultInfo) : State :=
  let s := s.endEntries d.uid
  match s.group? d.group with
  | some g => (match g.decl with
      | some x => if x.submitted = some d.uid then s.setGroup { g with decl := some { x with fault := some f } } else s
      | none => s)
  | none => s

/-- The end of a beat, no sooner than 1,024 cycles after the last one and once the batches of the dies that are not held in reset have
been exchanged; the entries of parcels that have gone end (R28, R122, R124). -/
def execBeatEnd (s : State) : Host.Outcome State Fault Refusal :=
  .next <|
    if s.cycles < s.control.beatAt + 1024 then s
    else match s.exchangeBatches with
    | none => s
    | some s =>
      let gone := (s.decls.filter fun d => d.gone).map fun d => d.uid
      let s := gone.foldl State.endEntries s
      let s := s.decls.foldl (fun s d => match d.lost with | some n => s.failDecl d (dieError n 1) | none => s) s
      let s := (span 0 Config.dies).foldl (fun s n => if (s.die n).held then s else s.closeBatch n) s
      { s with control := { s.control with beatAt := s.cycles } }

/-! ## GRANT_PLACEMENT (R123) -/

/-- The traverse order: beat, die, submission. -/
def TvDecl.before (a b : TvDecl) : Bool :=
  a.beat < b.beat || (a.beat = b.beat && (a.die < b.die || (a.die = b.die && a.order < b.order)))

/-- The first declaration of a closed beat that is not placed. -/
def State.nextDecl (s : State) : Option TvDecl :=
  (s.decls.filter fun d => !d.placed && !((s.die d.die).batch.contains d.uid)).foldl (fun b d => match b with
    | none => some d
    | some x => if d.before x then some d else some x) none

/-- The entries that a slice receives of a declaration whose blocks have these homes. -/
def entriesAt (homes : List (Nat × Nat × Nat)) (y : Nat × Nat) : List Nat :=
  (homes.filter fun h => h.2 = y).map fun h => h.1

/-- Entries outnumber what a slice's queue of 256 has free: their placement waits until it is empty (R123). -/
def Slice.outnumbered (x : Slice) (n : Nat) : Bool := 256 < x.grants.length + n && !x.grants.isEmpty

/-- Whether a slice takes `n` entries together now; `empty` when they have had to wait for an empty queue. -/
def Slice.takes (x : Slice) (n : Nat) (empty : Bool) : Bool :=
  n = 0 || (!x.big && (x.grants.isEmpty || (!empty && x.grants.length + n ≤ 256)))

/-- Puts the entries of a declaration into the grant queue of a slice. -/
def State.placeAt (s : State) (d : TvDecl) (homes : List (Nat × Nat × Nat)) (y : Nat × Nat) : State :=
  let bs := entriesAt homes y
  if bs.isEmpty then s
  else
    let x := (s.die y.1).slice y.2
    let gs := x.grants ++ bs.map fun b => { decl := d.uid, vf := d.vf, block := b : Grant }
    s.setDie y.1 ((s.die y.1).setSlice y.2 { x with grants := gs, big := x.big || decide (256 ≤ gs.length) })

/-- A declaration whose turn has come notes the slices where its entries outnumber the free ones. -/
def State.noteEmpties (s : State) (d : TvDecl) (homes : List (Nat × Nat × Nat)) : List (Nat × Nat) :=
  d.empties ++ allSlices.filter fun y => !d.empties.contains y && ((s.die y.1).slice y.2).outnumbered (entriesAt homes y).length

/-- Places a declaration whose blocks are translated, when every slice takes its entries; at all its slices together, or at none.
(DESIGN CHOICE, log entry 70) -/
def State.placeDecl (s : State) (d : TvDecl) (homes : List (Nat × Nat × Nat)) : State :=
  match homes.find? fun h => (s.die h.2.1).held with
  | some h => s.failDecl d (dieError h.2.1 1 0 (h.1 * 256))
  | none =>
      let es := s.noteEmpties d homes
      let set (s : State) (f : TvDecl → TvDecl) : State := { s with decls := s.decls.map fun x => if x.uid = d.uid then f x else x }
      if allSlices.all fun y => ((s.die y.1).slice y.2).takes (entriesAt homes y).length (es.contains y) then
        set (allSlices.foldl (fun s y => s.placeAt d homes y) s) fun x => { x with placed := true }
      else set s fun x => { x with empties := es }

/-- A declaration whose page has become absent holds the sequencer on a record for its group (R304). -/
def State.holdDecl (s : State) (d : TvDecl) (va : Nat) : State :=
  match s.group? d.group with
  | none => s.endEntries d.uid
  | some g =>
      let (s, q) := s.post (s.groupRecord g (pageAbsent false 0 va) 0 0 0 (.group g.uid))
      { s with decls := s.decls.map fun x => if x.uid = d.uid then { x with record := some q } else x }

def execGrantPlacement (s : State) : Host.Outcome State Fault Refusal :=
  .next <|
    match s.nextDecl with
    | none => s
    | some d =>
        if s.heldBy d.vf d.record then s
        else match unitCells d.vf .read s (d.blocks.map fun b => b * 256) with
          | (s, .ok cs) =>
              s.placeDecl d ((d.blocks.zip cs).map fun x => (x.1, homeDie x.2, homeSlice x.2))
          | (s, .error .moving) => s
          | (s, .error (.absent va)) => s.holdDecl d va
          | (s, .error (.fault f)) => s.failDecl d f

end Sys2Proof.Machine
end

