-- ==== Sys2Proof/Machine/Control.lean ====
section
/-!
DEFINITION. Control transfer, the end of lanes, and the register allotment (R269 to R275).
-/
namespace Sys2Proof.Machine
open Sys2Proof

/-! ## Branches (R270) -/

/-- The clause at a signed distance in 8-byte units from the clause that executes (R207). -/
def Ctx.clauseAt (c : Ctx) (d : BitVec 16) : W32 := c.r.clause + d.signExtend 32

/-- The lanes that a branch condition selects. -/
def Ctx.condition (c : Ctx) (f : BForm) : W64 :=
  let k := c.g.kreg c.p.mask f.kc.toNat
  c.p.mask &&& (if f.kn then ~~~k else k)

/-- A slot that ends its clause and goes on at `to`. -/
def Ctx.leave (c : Ctx) (dest : Goto) : Slot := .done c.s c.g none (some dest)

def execBr (f : BForm) (s : State) : Host.Outcome State Fault Refusal :=
  runSlot s fun c =>
    let t := c.condition f
    let target := c.clauseAt f.target
    if f.bmode = 0 then
      if t = 0 then c.leave .next
      else if t = c.p.mask then c.leave (.clause target)
      else if c.launch.hdr.depth < c.g.stack + c.g.diverges c.k then c.trap (stackFault 1 c.g.stack)
      else c.leave (.diverge target t (c.clauseAt f.join))
    else if f.bmode = 1 then c.leave (if t ≠ 0 then .clause target else .next)
    else c.leave (if t = c.p.mask then .clause target else .next)

def execJmp (f : BForm) (s : State) : Host.Outcome State Fault Refusal :=
  runSlot s fun c => c.leave (.clause (c.clauseAt f.target))

/-! ## Loops (R271) -/

def execLoop (f : BForm) (s : State) : Host.Outcome State Fault Refusal :=
  runSlot s fun c =>
    let n := f.cnt.toNat
    let x := c.g.sreg n
    if c.p.mask = 0 then c.leave .next
    else if c.g.pending.any fun p => p.dst = .sreg n then c.block .write
    else if x = 0 then c.leave .next
    else
      let g := c.g.setSreg n (x - 1)
      if x = 1 then .done c.s g none (some .next)
      else
        let target := c.clauseAt f.target
        let g := g.setPath c.k (some (c.p.loops target c.r.clause))
        .done (c.s.fillLoop c.g.core c.vf c.launch.text target c.r.clause) g none (some (.clause target))

/-! ## EXIT (R41, R272) -/

/-- The state of the group that `s` holds, after an operation on the state. -/
def State.again (s : State) (g : Group) : Group := (s.group? g.uid).getD g

/-- A group that ends with a submitted transaction closes it: every lane's buffered stores commit, and a package-scope
release waits for them (R305). (DEDUCED, log entry 36) -/
def State.closeAtEnd (s : State) (g : Group) : Act :=
  match g.decl with
  | none => .ok s g
  | some d =>
      match d.submitted, d.fault with
      | none, _ => .ok s { g with decl := none }
      | some _, some f => .stop s g (.trap f)
      | some u, none =>
          ((s.commit g g.launched).andThen fun s g => s.releaseWait g 6).andThen fun s g =>
            let (s, g) := s.closeTransaction g u
            .ok s g

/-- A fault of a card, an operation or a write that the group takes at its EXIT (R313, R427). -/
def Group.lateAtExit (g : Group) : Option LateFault := g.late.find? fun f => !f.atBoundary

/-- Whether operations of the matrix engine that a group issued are still to retire. -/
def State.opsOf (s : State) (u core : Nat) : Bool := (s.pair (core / 2)).ops.any fun o => o.group = u

/-- (DEDUCED, log entry 36) -/
def execExit (f : VForm) (s : State) : Host.Outcome State Fault Refusal :=
  runSlot s fun c =>
    let e := c.enabled f.pg f.pn
    if e = 0 then c.leave .next
    else match c.g.lateAtExit with
      | some x => .stop c.s { c.g with late := c.g.late.filter fun y => y ≠ x } (.late x)
      | none =>
          if c.g.launched &&& ~~~(c.g.exited ||| e) = 0 then
            if !c.g.pending.isEmpty then c.block .loads
            else if c.s.opsOf c.g.uid c.g.core then c.block .operations
            else
              (c.s.closeAtEnd c.g).slot fun s g =>
                let s := s.endGroup { g with exited := g.exited ||| e }
                .done s (s.again { g with run := none }) none none
          else
            let g := { c.g with exited := c.g.exited ||| e }
            .done c.s (g.setPath c.k (some { c.p with mask := c.p.mask &&& ~~~e })) none (some .next)

/-! ## The register allotment (R273, R275) -/

/-- The live groups of a parcel on a core, besides one. -/
def State.othersOn (s : State) (g : Group) : Nat :=
  (s.groups.filter fun x => x.parcel = g.parcel && x.core = g.core && x.uid ≠ g.uid && x.status ≠ .ended).length

/-- The blocks of a group with those that it has claimed. -/
def Group.blocks (g : Group) : Nat := g.allot / 8 + g.granted + g.claim.getD 0

/-- A change of the allotment needs one path and an empty stack (R275 cause 1). -/
def Group.single (g : Group) : Bool := !(g.p0.isSome && g.p1.isSome) && g.stack = 0

/-- Why a group cannot claim `n` more blocks: above 256 registers per lane, or never met (R275 cause 2). -/
def Ctx.claimRefused (c : Ctx) (n : Nat) : Bool :=
  32 < c.g.blocks + n || c.launch.hdr.ceil < (c.g.blocks + n + c.s.othersOn c.g) * c.g.width

/-- A pending write without the registers at and above `a`. -/
def Pending.below (a : Nat) (p : Pending) : Pending :=
  match p.dst with
  | .vregs r n => { p with dst := if a ≤ r then .nothing else .vregs r (min n (a - r)) }
  | _ => p

/-- The group gives back `n` blocks: the registers above the new allotment cease to exist, and no pending write reaches them. -/
def State.give (s : State) (g : Group) (n : Nat) : State × Group :=
  let a := g.allot - 8 * n
  let g := { g with allot := a, v := g.v.filter fun e => e.1 < 64 * a, pending := g.pending.map (Pending.below a),
                    badRegs := g.badRegs.filter fun b => b / 64 < a / 8 }
  let s := (s.setGroup g).returnBlocks g.parcel g.core (n * g.width)
  (s, s.again g)

/-- The order of blocked claims with one more: it stands before the claims of groups of higher index that blocked in the same cycle
(R45). -/
def State.enterClaim (s : State) (g : Group) (c : Claim) (l : List Claim) : List Claim :=
  let after (x : Claim) : Bool := x.since = c.since && (match s.group? x.group with | some y => g.index < y.index | none => false)
  l.takeWhile (fun x => !after x) ++ c :: l.dropWhile fun x => !after x

/-- The group enters a claim for `n` blocks; a claim that completes a deadlock aborts or ends the parcel (R45, R47). -/
def State.claim (s : State) (g : Group) (n : Nat) : Act :=
  let p := s.parcelOf g
  let c : Claim := { group := g.uid, core := g.core, blocks := n, clause := (g.run.map fun r => r.clause).getD 0,
                     slot := (g.run.map fun r => r.idx).getD 0, since := s.cycles }
  let s := s.setParcel { p with claims := s.enterClaim g c p.claims }
  let s := (s.setGroup { g with claim := some (g.claim.getD 0 + n) }).returnBlocks g.parcel g.core 0
  if s.deadlocked g.parcel g.core then
    if s.subdivisible g then .stop s (s.again g) (.abort 3)
    else
      let s := s.deadlockCheck g.parcel g.core
      .ok s (s.again g)
  else .ok s (s.again g)

def Ctx.allotTrap (c : Ctx) (cause request : Nat) : Slot := c.trap (allotmentFault cause request c.g.allot)

def execReggive (f : VForm) (s : State) : Host.Outcome State Fault Refusal :=
  runSlot s fun c =>
    let n := (f.x.extractLsb' 0 6).toNat
    if c.p.mask = 0 then c.skip
    else if !c.g.single then c.allotTrap 1 n
    else if n = 0 || c.g.allot < 8 * (n + 1) then c.allotTrap 2 n
    else
      let (s, g) := c.s.give c.g n
      .done s g none none

def execRegclaim (f : VForm) (s : State) : Host.Outcome State Fault Refusal :=
  runSlot s fun c =>
    let n := (f.x.extractLsb' 0 6).toNat
    if c.p.mask = 0 then c.skip
    else if !c.g.single then c.allotTrap 1 n
    else if n = 0 || c.claimRefused n then c.allotTrap 2 n
    else (c.s.claim c.g n).slot fun s g => .done s g none none

/-! ## ROLESW (R48, R274) -/

/-- The fields of a role record. -/
def roleAllot (w : W128) : Nat := (w.extractLsb' 64 8).toNat
def rolePrio (w : W128) : BitVec 2 := w.extractLsb' 32 2
def roleEntry (w : W128) : W32 := w.extractLsb' 0 32
/-- A record whose reserved bits are zero and whose ALLOT is legal (R275 cause 3). -/
def roleOk (w : W128) : Bool :=
  w.extractLsb' 72 56 = 0 && w.extractLsb' 34 30 = 0 && 1 ≤ roleAllot w && roleAllot w ≤ 32
def roleWord (allot : Nat) (prio : BitVec 2) (entry : W32) : W128 :=
  BitVec.ofNat 128 (allot * 2 ^ 64 + prio.toNat * 2 ^ 32 + entry.toNat)

/-- The exchange at the home slice: the record written, in the log of a subdivisible parcel. -/
def Ctx.exchange (c : Ctx) (s : State) (g : Group) (x : LaneAcc) (w : W128) : Act :=
  if c.launch.hdr.sub then s.logFor g [.store x.va 16 w x.lane]
  else
    let bs := bytesOfNat 16 w.toNat
    .ok ((s.updateL1 c.g.core x.cell bs).applyWrite x.cell 0 bs) g

def execRolesw (f : VForm) (s : State) : Host.Outcome State Fault Refusal :=
  runSlot s fun c =>
    let e := c.p.mask
    c.entry e true [] [⟨27, f.sa, .slq, 1⟩] false fun c h xs =>
      let reg := (f.x.extractLsb' 0 4).toNat
      let l := (lowest e).getD 0
      let a := ((xs.headD fun _ => 0) l).toNat
      if !c.g.single then c.allotTrap 1 0
      else match c.resolve .write reg (c.g.cap reg) (rRead + rWrite) 16 16 [(l, a)] with
        | (s, .error x) => .stop s c.g x
        | (s, .ok as) =>
            let x := as.headD { lane := l, va := 0, cell := 0 }
            match s.readNow c.g false clsRequest 16 as with
            | .error w => .stop s c.g (.block w)
            | .ok s => if let some bad := s.badFor c.g false x.cell 16 l x.va then .stop s c.g (.trap bad)
            else
              let fwd := s.forward { c.g with buffer := [] } x 16
              let w := BitVec.ofNat 128 (natOfBytes (patchBytes (Memory.readN s.mem x.cell 16) fwd))
              let (new, old) := (roleAllot w, c.g.allot / 8)
              if !roleOk w then .stop s c.g (.trap (allotmentFault 3 new c.g.allot))
              else if old < new && { c with s := s }.claimRefused (new - old) then
                .stop s c.g (.trap (allotmentFault 4 (new - old) c.g.allot))
              else
                (c.exchange s h x (roleWord old c.g.prio c.g.entry)).slot fun s g =>
                  let g := { g with prio := rolePrio w, entry := roleEntry w }
                  let dest := some (Goto.clause (roleEntry w))
                  if new < old then
                    let (s, g) := s.give g (old - new)
                    .done s g none dest
                  else if old < new then (s.claim g (new - old)).slot fun s g => .done s g none dest
                  else .done s g none dest

end Sys2Proof.Machine
end

