-- ==== Sys2Proof/Machine/Distributor.lean ====
section
/-!
DEFINITION. The baseline distributor: resource reports, the choice of a queue and of cores, stakes, and the placement of a
parcel with its groups (R18 to R23, R43, R90, R102, R161, R411 to R413).
-/
namespace Sys2Proof.Machine
open Sys2Proof

/-! ## Resource reports (R411) -/

/-- What a core reports: free block-lanes, places, tile units, phasers and semaphores. -/
def Core.resources (c : Core) : Nat × Nat × Nat × Nat × Nat := (c.freePool, c.freePlaces, c.freeUnits, c.freePhasers, c.freeSems)

/-- A core reports its free resources with the free units of its die's pinned pool, of which one core's report serves the die.
(DESIGN CHOICE, log entry 42) -/
def execResourceReport (core : Nat) (s : State) : Host.Outcome State Fault Refusal :=
  .next <|
    let c := s.core core
    let d := s.die (core / 48)
    let due := match c.lastReport with | some t => t + 256 ≤ s.cycles | none => true
    if (c.resources ≠ c.reported || d.freeUnits ≠ d.reportedPool) && due && !d.held then
      match s.crossNow clsControl (toControl (core / 48)) with
      | some s => (s.setDie (core / 48) { d with reportedPool := d.freeUnits }).setCore core
          { c with reported := c.resources, lastReport := some s.cycles }
      | none => s
    else s

/-! ## What a parcel needs -/

/-- The units and synchronisation that a saved parcel keeps need no stake (R418, R419). -/
def Kernel.bare (k : Kernel) : Kernel := { k with tiles := 0, phasers := 0, sems := 0, sub := false }

/-- The kernel of a placement as its stakes see it. -/
def Placement.kernel (p : Placement) (l : Launch) : Kernel := if p.restore.isSome then l.hdr.bare else l.hdr

/-- Whether resources cover the share of a core. -/
def Kernel.fits (k : Kernel) (lead : Bool) (r : Nat × Nat × Nat × Nat × Nat) : Bool :=
  k.ceil ≤ r.1 && k.groupsOn lead ≤ r.2.1 && k.tiles ≤ r.2.2.1 && (!lead || (k.phasers ≤ r.2.2.2.1 && k.sems ≤ r.2.2.2.2))

/-- Whether the report of a core covers the share of a parcel. -/
def State.reportFits (s : State) (k : Kernel) (core : Nat) (lead : Bool) : Bool :=
  k.fits lead (s.core core).reported && (!lead || k.logUnits ≤ (s.die (core / 48)).reportedPool)

/-! ## The choice of cores (R412, R413, R450) -/

/-- The island of a core pair and the die let work be placed. -/
def State.coreOpen (s : State) (core : Nat) : Bool :=
  !(s.die (core / 48)).held && s.coreOn core

/-- The cores that an escalated placement keeps for itself. -/
def State.reservedCores (s : State) (but : Nat) : List Nat :=
  (s.placements.filter fun p => (16 ≤ p.attempt || (p.attempt = 15 && p.refused)) && p.uid ≠ but).flatMap fun p => p.cores

/-- Whether the cores of a parcel that starts at `core` can be staked. -/
def State.coresFit (s : State) (k : Kernel) (but core : Nat) : Bool :=
  (k.cores core).all fun c => s.coreOpen c && s.reportFits k c (c = core) && !(s.reservedCores but).contains c

/-- The core with the most reported free block-lanes, the lowest of equals. -/
def State.bestCore (s : State) (l : List Nat) : Option Nat :=
  l.foldl (fun b c => match b with
    | none => some c
    | some x => if (s.core x).reported.1 < (s.core c).reported.1 then some c else some x) none

/-- The cores of the package on which a parcel may start. -/
def Kernel.starts (k : Kernel) : List Nat := if k.pairs then (span 0 96).map fun p => 2 * p else span 0 192

/-- The cores for a parcel: chosen by the reports, or for a saved one those that it left (R419). -/
def State.chooseCores (s : State) (k : Kernel) (but : Nat) (home : Option Nat) : Option (List Nat) :=
  match home with
  | some c => if s.coresFit k but c then some (k.cores c) else none
  | none => (s.bestCore (k.starts.filter (s.coresFit k but))).map k.cores

/-! ## The next parcel of a queue (R19, R121) -/

/-- Initial box number `i` of a launch. -/
def Launch.box (l : Launch) (i : Nat) : Box :=
  let n (d g : Nat) : Nat := (d + g - 1) / g
  let nx := n l.domX l.hdr.grX
  let ny := n l.domY l.hdr.grY
  let (x, y, z) := (i % nx, i / nx % ny, i / (nx * ny))
  { x0 := x * l.hdr.grX, x1 := min ((x + 1) * l.hdr.grX) l.domX, y0 := y * l.hdr.grY, y1 := min ((y + 1) * l.hdr.grY) l.domY,
    z0 := z * l.hdr.grZ, z1 := min ((z + 1) * l.hdr.grZ) l.domZ }

/-- A parcel that is next in its queue. -/
structure NextParcel where
  launch  : Launch
  box     : Box
  restore : Option Parcel
  deriving DecidableEq, Repr

/-- The next parcel of a queue: from the head area, else of the oldest launch that is not fully placed. -/
def State.nextParcel (s : State) (vf n : Nat) : Option NextParcel :=
  match ((s.vf vf).queue n).head with
  | .fresh u b .. :: _ => (s.launch? u).map fun l => { launch := l, box := b, restore := none }
  | .saved u :: _ => (s.parcel? u).bind fun p => (s.launch? p.launch).map fun l => { launch := l, box := p.box, restore := some p }
  | [] => match s.launches.find? fun l => l.vf = vf && l.queue = n && l.remains with
    | some l => if l.state = .placing then some { launch := l, box := l.box l.cut, restore := none } else none
    | none => none

/-- The cores on which the next parcel of a queue would be placed; none when the queue is not eligible. -/
def State.eligible (s : State) (vf n : Nat) : Option (NextParcel × List Nat) :=
  let q := (s.vf vf).queue n
  if q.held || !q.backed || (s.vf vf).resetting then none
  else (s.nextParcel vf n).bind fun x =>
    let k := if x.restore.isSome then x.launch.hdr.bare else x.launch.hdr
    (s.chooseCores k s.uid (x.restore.map fun p => p.core)).map fun cs => (x, cs)

/-- The queues that are backlogged, by index. -/
def State.backedQueues (s : State) : List (Nat × Nat) :=
  (s.vfs.map fun e => (e.2.queues.filter fun x => x.2.backed).map fun x => (e.1, x.1)).flatten

/-- The eligible queue with the lowest pass, the lowest index of equals (R161, R412). -/
def State.pickQueue (s : State) : Option (Nat × Nat) :=
  (s.backedQueues.filter fun x => (s.eligible x.1 x.2).isSome).foldl (fun b x => match b with
    | none => some x
    | some y => if passBelow ((s.vf x.1).queue x.2).pass ((s.vf y.1).queue y.2).pass then some x else some y) none

/-- Takes the next parcel out of its queue. -/
def State.takeParcel (s : State) (vf n : Nat) (x : NextParcel) : State :=
  let v := s.vf vf
  let q := v.queue n
  match q.head with
  | _ :: es => (s.setVf vf (v.setQueue n { q with head := es })).noteBacklog vf n
  | [] => (s.setLaunch { x.launch with cut := x.launch.cut + 1 }).noteBacklog vf n

def execDispatch (s : State) : Host.Outcome State Fault Refusal :=
  .next <|
    if 16 ≤ s.placements.length || !s.enabled then s
    else match s.pickQueue with
      | none => s
      | some (vf, n) => match s.eligible vf n with
        | none => s
        | some (x, cs) =>
            let s := s.takeParcel vf n x
            let (s, u) := s.fresh
            let p : Placement := { uid := u, vf := vf, queue := n, launch := x.launch.uid, box := x.box, restore := x.restore.map fun p => p.uid,
                                   cores := cs, staked := [], refused := false, attempt := 0, since := s.cycles }
            { s with placements := s.placements ++ [p] }

/-! ## Stakes (R413) -/

/-- Sets the share of a core aside for parcel `u` that will be placed there, and on the leader's die its commit log; none when it does
not fit. -/
def State.setAside (s : State) (k : Kernel) (u core : Nat) (lead : Bool) : Option State :=
  let c := s.core core
  if !k.fits lead c.resources then none
  else
    let s := s.setCore core { c with
      freePool := c.freePool - k.ceil, freePlaces := c.freePlaces - k.groupsOn lead, freeUnits := c.freeUnits - k.tiles,
      freePhasers := c.freePhasers - (if lead then k.phasers else 0), freeSems := c.freeSems - (if lead then k.sems else 0) }
    if lead then ((s.die (core / 48)).pin (.log u) k.logUnits).map fun d => s.setDie (core / 48) d else some s

/-- Releases the stakes of a placement. -/
def State.releaseStakes (s : State) (p : Placement) (k : Kernel) : State :=
  let lead := p.cores.headD 0
  p.staked.foldl (fun s c =>
    let s := s.giveBack k c (c = lead) true
    if c = lead then s.setDie (c / 48) ((s.die (c / 48)).unpin (.log p.uid)) else s) s

/-- A placement is given up. -/
def State.dropPlacement (s : State) (p : Placement) : State :=
  let s := s.releaseStakes p (p.kernel ((s.launch? p.launch).getD Launch.blank))
  { s with placements := s.placements.filter fun x => x.uid ≠ p.uid }

/-- A placement is given up and its parcel goes back to the head of its queue. -/
def State.cancelPlacement (s : State) (p : Placement) : State :=
  let e : HeadEntry := match p.restore with | some u => .saved u | none => .fresh p.launch p.box 0 192
  (s.dropPlacement p).atHead p.vf p.queue [e]

/-- The placements that `sel` names go back to their queues, the oldest first in its queue.
(DESIGN CHOICE, log entry 43) -/
def State.cancelPlacements (s : State) (sel : Placement → Bool) : State :=
  (s.placements.filter sel).reverse.foldl State.cancelPlacement s

/-- A placement whose launch has failed places nothing (R423). -/
def State.placementOver (s : State) (p : Placement) : Bool :=
  match p.restore, s.launch? p.launch with
  | some u, _ => (match s.parcel? u with | some x => x.state ≠ .saved | none => true)
  | none, some l => l.failed
  | none, none => true

/-- Whether an earlier stake waits at a core. -/
def State.earlierStake (s : State) (p : Placement) (core : Nat) : Bool :=
  (s.placements.takeWhile fun x => x.uid ≠ p.uid).any fun x => !x.refused && x.cores.contains core && !x.staked.contains core

/-- A core refuses a stake, and the attempt's stakes are released. (DESIGN CHOICE, log entry 42) -/
def State.refuseStake (s : State) (p : Placement) (k : Kernel) : State :=
  let s := (s.releaseStakes p k).setPlacement { p with staked := [], refused := true, since := s.cycles }
  { s with control := { s.control with refusedStakes := s.control.refusedStakes + 1 } }

def execStake (placement core : Nat) (s : State) : Host.Outcome State Fault Refusal :=
  .next <|
    match s.placement? placement with
    | none => s
    | some p =>
        if s.placementOver p then s.dropPlacement p
        else if p.refused || !p.cores.contains core || p.staked.contains core || s.earlierStake p core then s
        else
          let k := p.kernel ((s.launch? p.launch).getD Launch.blank)
          match s.crossNow clsControl (fromControl (core / 48)) with
          | none => s
          | some s => match if s.coreOpen core then s.setAside k p.uid core (core = p.cores.headD 0) else none with
            | some s => s.setPlacement { p with staked := p.staked ++ [core] }
            | none => s.refuseStake p k

/-- A new attempt of a placement: on cores chosen anew, or after the sixteenth refusal on the same ones (R413).
(DESIGN CHOICE, log entry 42) -/
def State.nextAttempt (s : State) (p : Placement) (cores : List Nat) : State :=
  let p := { p with cores := cores, refused := false, attempt := p.attempt + 1, staked := [] }
  { s with placements := (s.placements.filter fun x => x.uid ≠ p.uid) ++ [p] }

def execStakeRetry (placement : Nat) (s : State) : Host.Outcome State Fault Refusal :=
  .next <|
    match s.placement? placement with
    | none => s
    | some p =>
        if s.placementOver p then s.dropPlacement p
        else if !p.refused then s
        else if 15 ≤ p.attempt then
          if p.cores.any fun c => match (s.core c).lastReport with | some t => p.since ≤ t | none => false then s.nextAttempt p p.cores else s
        else if s.cycles < p.since + 64 * 2 ^ p.attempt then s
        else
          let l := (s.launch? p.launch).getD Launch.blank
          let home := (p.restore.bind s.parcel?).map fun x => x.core
          s.nextAttempt p ((s.chooseCores (p.kernel l) p.uid home).getD p.cores)

/-! ## The placement of a parcel (R20 to R22, R43, R90) -/

/-- The bytes of a group's private object: its words, its stack, and its save area (R90, R417). -/
def Kernel.saveBytes (k : Kernel) : Nat := k.safe.foldl (fun m e => max m e.2.2) 512
def Kernel.saveBase (k : Kernel) : Nat := k.privW * k.width * 8 + k.depth * 32
def Kernel.privateBytes (k : Kernel) : Nat := k.saveBase + k.saveBytes

/-- The capability of a group's private object in c15 (R63). (DESIGN CHOICE, log entry 45) -/
def Kernel.privateCap (k : Kernel) : Cap :=
  Cap.make 0 0 0 ((k.privateBytes + 4095) / 4096 - 1) (rRead + rWrite + rPrivate) false

/-- The launched lanes of group `i` (R21). -/
def Kernel.launchedOf (k : Kernel) (i : Nat) : W64 := lowMask (min k.width (k.lanes - i * k.width))

/-- The core of group `i` of a parcel whose first core is `c` (R22). -/
def Kernel.coreOf (k : Kernel) (c i : Nat) : Nat := if k.pairs then c + i % 2 else c

/-- The lowest resident-group place of a core that no group holds. -/
def State.freePlace (s : State) (core : Nat) : Nat :=
  ((span 0 32).find? fun n => !(s.groups.any fun g => g.resident && g.core = core && g.place = n)).getD 32

/-- A group as it is placed (R20). -/
def Launch.group (l : Launch) (uid parcel i core place : Nat) : Group :=
  let k := l.hdr
  let m := k.launchedOf i
  let g : Group := { Group.blank with
    uid := uid, parcel := parcel, index := i, core := core, place := place, width := k.width, launched := m, allot := k.allot,
    prio := k.prio, entry := k.entry, p0 := some (Path.at k.entry m none k.fmt) }
  let g := ((span 0 16).zip l.args).foldl (fun (g : Group) x => g.setSreg x.1 x.2) g
  let g := ((span 0 15).zip l.caps).foldl (fun (g : Group) x => g.setCap x.1 x.2) g
  g.setCap 15 k.privateCap

/-- Places the groups from number `i`. -/
def placeGroups (l : Launch) (parcel core : Nat) : Nat → Nat → State → State
  | 0, _, s => s
  | n + 1, i, s =>
      let (s, u) := s.fresh
      let c := l.hdr.coreOf core i
      placeGroups l parcel core n (i + 1) { s with groups := s.groups ++ [l.group u parcel i c (s.freePlace c)] }

/-- The block-lanes of a parcel's reserve on a core once its groups hold their allotments. -/
def Kernel.reserveLeft (k : Kernel) (lead : Bool) : Nat := k.ceil - k.allot / 8 * k.width * k.groupsOn lead

/-- A new parcel of a launch on its cores, with its groups.  Their first instruction acquires at package scope: the lines of the L1s
that a launching group's writes may have made stale leave them now (R315, R396). -/
def State.placeParcel (s : State) (l : Launch) (b : Box) (u core : Nat) : State :=
  let k := l.hdr
  let p : Parcel := { Parcel.blank with
    uid := u, launch := l.uid, box := b, core := core, rsvLead := k.reserveLeft true,
    rsvFollow := if k.pairs then k.reserveLeft false else 0, unitsLead := k.tiles, unitsFollow := if k.pairs then k.tiles else 0,
    phasers := (span 0 k.phasers).map fun n => (n, { Phaser.clear with live := true }) }
  placeGroups l u core k.placedGroups 0 ((k.cores core).foldl State.invalidateL1 { s with parcels := s.parcels ++ [p] })

/-- The dispatching queue's pass rises by its stride, and the dispatch is counted (R161, R412). -/
def State.countDispatch (s : State) (vf n : Nat) : State :=
  let v := s.vf vf
  let q := v.queue n
  let s := s.setVf vf (v.setQueue n { q with pass := (q.pass + 2 ^ 22 / q.ticket) % 2 ^ 40 })
  { s with control := { s.control with lastQueue := some (8 * vf + n), dispatched := s.control.dispatched + 1 } }

/-- With every stake accepted the stakes become reservations: a new parcel is placed, or a saved one is on its cores again
and its restore can begin (R419). -/
def execPlacementCommit (placement : Nat) (s : State) : Host.Outcome State Fault Refusal :=
  .next <|
    match s.placement? placement with
    | none => s
    | some p =>
        if s.placementOver p then s.dropPlacement p
        else if p.refused || !(p.cores.all fun c => p.staked.contains c) then s
        else
          match s.crossNow clsControl (fromControl (p.cores.headD 0 / 48)) with
          | none => s
          | some s =>
              let s := ({ s with placements := s.placements.filter fun x => x.uid ≠ p.uid }).countDispatch p.vf p.queue
              match p.restore, s.launch? p.launch with
              | some u, _ => (match s.parcel? u with
                  | some x => s.setParcel { x with state := .restoring }
                  | none => s)
              | none, some l => s.placeParcel l p.box p.uid (p.cores.headD 0)
              | none, none => s

end Sys2Proof.Machine
end

