-- ==== Sys2Proof/Machine/Retire.lean ====
section
/-!
DEFINITION. The retirement of a parcel, the application of a commit log, the return of what an ended parcel holds, and the
completion of a launch (R24, R25, R102, R117, R143, R155, R158, R305, R408, R423).
-/
namespace Sys2Proof.Machine
open Sys2Proof

def State.groupsOf (s : State) (u : Nat) : List Group := s.groups.filter fun g => g.parcel = u

/-- A mask of every lane. -/
def allLanes : W64 := lowMask 64

/-! ## Step 1: the buffered stores (R24) -/

/-- The worst outcome over the groups of a parcel, with its group. -/
def worseOf (a b : Option (Group × Stop)) : Option (Group × Stop) :=
  match a, b with
  | none, y => y
  | x, none => x
  | some x, some y => if y.2.rank < x.2.rank then some y else some x

/-- Translates the buffered entries of every group of a list. -/
def translateGroups (l : Launch) : State → List Group → State × Option (Group × Stop)
  | s, [] => (s, none)
  | s, g :: gs =>
      let (s, r, _) := translateEntries g.core l.vf l s (commitOrder g.buffer allLanes)
      let (s, rest) := translateGroups l s gs
      (s, worseOf (r.map fun x => (g, x)) rest)

/-- Commits the buffered stores of the groups in order: done, or the state in which it waits or aborts. -/
def commitGroups : List Group → State → Except State State
  | [], s => .ok s
  | g :: gs, s =>
      match s.commit ((s.group? g.uid).getD g) allLanes with
      | .ok s g => commitGroups gs (s.setGroup g)
      | .stop s g (.abort t) => .error ((s.setGroup g).abortParcel g.parcel t)
      | .stop s g _ => .error (s.setGroup g)

/-- A record on which the retirement of a parcel is held. -/
def State.holdParcel (s : State) (p : Parcel) (r : FaultRecord) : State :=
  let (s, q) := s.post { r with owner := .parcel p.uid }
  s.setParcel { p with held := some q }

/-- Step 1 of the retirement of a parcel. -/
def State.retireCommit (s : State) (p : Parcel) : State :=
  let l := s.launchFor p
  let gs := s.groupsOf p.uid
  let p := { p with state := .retiring 1, held := none }
  let s := s.setParcel p
  match translateGroups l s gs with
  | (s, some (g, .trap f)) => ((s.post (s.groupRecord g f 0 0 1 (.parcel p.uid))).1).endParcel p.uid none
  | (s, some (g, .park f)) => s.holdParcel p (s.groupRecord g f 0 0 0 (.parcel p.uid))
  | (s, some _) => s
  | (s, none) =>
      match commitGroups gs s with
      | .error s => s
      | .ok s => match s.parcel? p.uid with
        | some p => s.setParcel { p with state := .retiring (if l.hdr.sub then 2 else 4) }
        | none => s

/-! ## Step 2: the commit log (R25) -/

/-- The virtual addresses that a record reaches, given the records before it; none when its list has no backing object. -/
def LogRec.places (s : State) (vf : Nat) (before : List LogRec) (r : LogRec) : List Nat :=
  match r.plain with
  | .mass va _ _ => pieces va 576
  | .pop list _ _ => [list]
  | .append list _ _ =>
      (match s.translate none vf list .write with
      | (_, .ok c) =>
          let d := s.listAt c
          list :: ((s.recordVa none vf d (d.tail + appendsTo list before)).2).toList
      | _ => [list])
  | .launch .. | .bad _ => []
  | .store .. | .atomic .. | .write .. | .add .. => (r.extents.map fun x => pieces x.1 x.2).flatten

/-- The class in which a record travels to its home (R128). -/
def LogRec.cls (r : LogRec) : Nat := match r.plain with | .store .. => clsControl | _ => clsRequest

/-- Translates every record of a log: the worst outcome, and the cells that the records reach, each with its class. -/
def translateLog (l : Launch) : State → List LogRec → List LogRec → State × Option Stop × List (Nat × Nat)
  | s, _, [] => (s, none, [])
  | s, before, r :: rs =>
      let (s, x) := unitCells l.vf .write s (r.places s l.vf before)
      let (s, rest, cs) := translateLog l s (before ++ [r]) rs
      match x with
      | .ok ds => (s, rest, (ds.map fun c => (r.cls, c)) ++ cs)
      | .error e => (s, worseStop (some (e.stop l)) rest, cs)

/-- Ways crossed in turn, each in its class. -/
def crossEach : List (Nat × List Nat) → State → Option State
  | [], s => some s
  | x :: xs, s => (s.crossNow x.1 x.2).bind (crossEach xs)

/-- The parts of a write whose home serves requests. (DESIGN CHOICE, log entry 46) -/
def State.servedPieces (s : State) (ps : List WritePiece) : List WritePiece := ps.filter fun p => !s.deadHome p.cell

/-- The L1 lines of a parcel's cores follow its own stores and atomics (R93). -/
def State.updateCores (s : State) (cores : List Nat) (ps : List WritePiece) : State :=
  cores.foldl (fun s n => ps.foldl (fun s p => s.updateL1 n p.cell p.data) s) s

/-- Applies writes at virtual addresses that have been translated: the state, and the ranks of the homes of the pieces that are homed
elsewhere. (DESIGN CHOICE, log entry 46) -/
def State.applyBytes (s : State) (vf die : Nat) (cores : List Nat) (ws : List (Nat × List Byte)) : State × List Nat :=
  match s.unitPieces vf .write ws with
  | (s, .error _) => (s, [])
  | (s, .ok ps) =>
      ((s.applyPieces 0 (s.servedPieces ps)).updateCores cores ps, (ps.filter fun p => s.isFar die p.cell).map fun p => s.homeRank p.cell)

/-- What memory holds at [va, va + n) now. -/
def State.bytesAt (s : State) (vf va n : Nat) : List Byte :=
  let ps := if n = 0 then [] else pieces va n
  match unitCells vf .write s ps with
  | (_, .ok cs) => ((ps.zip cs).map fun p => Memory.readN s.mem p.2 (pieceSize va n p.1)).flatten
  | (_, .error _) => List.replicate n 0

/-- The sectors of [va, va + n) are poisoned: what was written there came from a poisoned sector (R106). -/
def State.poisonBytes (s : State) (vf va n : Nat) : State :=
  match unitCells vf .write s (pieces va n) with
  | (s, .ok cs) => cs.foldl (fun s c => { s with poison := if s.poison.contains (c / 64) then s.poison else s.poison ++ [c / 64] }) s
  | (s, .error _) => s

/-- Applies one record of the log of a parcel: the state, and the homes of its counted writes. (DESIGN CHOICE, log entry 47) -/
def State.applyRecord (s : State) (p : Parcel) (k : Kernel) (vf : Nat) (r : LogRec) : State × List Nat :=
  let found := s.bytesAt vf
  let die := p.core / 48
  match r.plain with
  | .mass va gen _ =>
      let blk := found va 576
      if blkGen blk ≠ gen.toNat then ((s.post (s.parcelRecord p (massStale va gen (blkGen blk)) 1)).1, [])
      else s.applyBytes vf die [] (r.bytes found)
  | .append list _ x =>
      (match s.translate none vf list .write with
      | (s, .ok c) =>
          let d := s.listAt c
          (match s.appendRecord none vf d x with
          | (s, some d) => (s.setList c { d with resv := d.resv - 1 }, if s.isFar die c then [s.homeRank c] else [])
          | (s, none) => (s, []))
      | (s, _) => (s, []))
  | .pop .. | .launch .. | .bad _ => (s, [])
  | .store .. | .atomic .. | .write .. | .add .. =>
      let own := match r.plain with | .store .. | .atomic .. => k.cores p.core | _ => []
      let (s, m) := s.applyBytes vf die own (r.bytes found)
      (if r.isBad then r.extents.foldl (fun s e => s.poisonBytes vf e.1 e.2) s else s, m)

/-- Applies the records of a log in order: the state, and the homes of the counted writes. -/
def applyRecords (p : Parcel) (k : Kernel) (vf : Nat) : State → List LogRec → State × List Nat
  | s, [] => (s, [])
  | s, r :: rs =>
      let (s, a) := s.applyRecord p k vf r
      let (s, b) := applyRecords p k vf s rs
      (s, a ++ b)

/-- The closed transactions of a parcel's groups end once its log is applied (R305). -/
def State.endClosed (s : State) (u : Nat) : State :=
  (s.groupsOf u).foldl (fun s g => g.closedTv.foldl State.endEntries s) s

def LogRec.isLaunch (r : LogRec) : Bool := match r.plain with | .launch .. => true | _ => false

/-- The application of a translated log as one indivisible update.  Of its counted writes the count takes as many as it holds, and each
further one as an acknowledgement returns (R154, R158). -/
def State.applyLog (s : State) (p : Parcel) (l : Launch) : State :=
  let (s, homes) := applyRecords p l.hdr l.vf s p.log
  let now := homes.take Config.ackLimit
  let s := (now.foldl (fun s k => s.sendAck (p.logAck k) (p.core / 48)) s).endClosed p.uid
  s.setParcel { p with state := .retiring 3, log := p.log.filter LogRec.isLaunch, logAcks := now.length, logDue := homes.drop Config.ackLimit,
                       held := none }

/-- The log of a parcel goes over the links to the homes that serve requests and is applied there (R2, R128); none while a link holds
its traffic. -/
def State.sendLog (s : State) (p : Parcel) (l : Launch) (cells : List (Nat × Nat)) : Option State :=
  let served := cells.filter fun x => !s.deadHome x.2
  (crossEach ((served.map fun x => (x.1, s.wayTo (p.core / 48) x.2)).eraseDups) s).map fun s => s.applyLog p l

def execCommitLogApply (parcel : Nat) (s : State) : Host.Outcome State Fault Refusal :=
  .next <|
    match s.parcel? parcel with
    | none => s
    | some p =>
        let l := s.launchFor p
        if p.state ≠ .retiring 2 || s.heldBy l.vf p.held then s
        else
          let fails (s : State) (f : FaultInfo) : State :=
            let s := s.setParcel { p with state := .retiring 1 }
            ((s.post (s.parcelRecord p f 1)).1).endParcel parcel none
          match translateLog l s [] p.log with
          | (s, none, cells) => (s.sendLog p l cells).getD s
          | (s, some (.trap f), _) => fails s f
          | (s, some (.park f), _) => s.holdParcel p (s.parcelRecord p f 0)
          | (s, some _, _) => s

/-! ## Steps 3 and 4 -/

/-- Issues the next launch that a log holds, when its ring has room. -/
def State.issueLaunch (s : State) (p : Parcel) (l : Launch) : State :=
  match p.log.map LogRec.plain with
  | .launch n bs :: _ =>
      let rest := p.log.drop 1
      let far := s.launchFar (p.core / 48) l.vf n
      if ((s.vf l.vf).queue n).hasRoom && !(far && p.logAcks = Config.ackLimit) then
        let s := s.appendLaunch (.parcel p.uid) (p.core / 48) l.vf n bs 0 0
        s.setParcel { p with log := rest, logAcks := p.logAcks + (if far then 1 else 0) }
      else s
  | _ => s.setParcel { p with state := .retiring 4 }

/-- Nothing that a parcel's groups or its log sent is unacknowledged. -/
def State.parcelQuiet (s : State) (p : Parcel) : Bool := p.logAcks = 0 && (s.groupsOf p.uid).all fun g => g.acks = 0

/-- Removes a parcel and returns everything that it holds. -/
def State.removeParcel (s : State) (p : Parcel) (placed : Bool) : State :=
  let vf := (s.launchFor p).vf
  let ds := (s.decls.filter fun d => d.parcel = p.uid).map fun d => d.uid
  let s := s.settleLists vf p
  let s := ds.foldl State.endEntries s
  let s := s.dropCards p.uid p.core true
  let s := s.releaseParcel p placed
  { s with groups := s.groups.filter fun g => g.parcel ≠ p.uid, parcels := s.parcels.filter fun q => q.uid ≠ p.uid }

/-- Whether an engine runs a command of a parcel. -/
def State.engineRuns (s : State) (u : Nat) : Bool :=
  s.engines.any fun e => match e.2.busy with | some b => b.parcel = u | none => false

/-- Every group of a parcel has ended, and its cards, matrix operations and commands are over. -/
def State.parcelDone (s : State) (p : Parcel) : Bool :=
  let x := s.pair (p.core / 2)
  (s.groupsOf p.uid).all (fun g => g.status = .ended)
    && !(x.cards.any fun c => c.parcel = p.uid && !(match c.state with | .stopped _ => true | _ => false))
    && !(x.ops.any fun o => o.parcel = p.uid) && !s.engineRuns p.uid

/-- A parcel that has been ended gives its resources back once what had started is over; the ends of its traverse entries
wait for the next beat (R28, R423). -/
def State.returnEnded (s : State) (p : Parcel) (placed : Bool) : State :=
  let x := s.pair (p.core / 2)
  let past := (s.groupsOf p.uid).all (fun g => g.status = .ended)
    && !(x.cards.any fun c => c.parcel = p.uid && (match c.state with | .running | .result .. | .acks => true | _ => false))
    && !(x.ops.any fun o => o.parcel = p.uid) && !s.engineRuns p.uid && s.parcelQuiet p
  if !past then s
  else
    let s := (s.dropCards p.uid p.core true).releaseParcel p placed
    { s with groups := s.groups.filter fun g => g.parcel ≠ p.uid, parcels := s.parcels.filter fun q => q.uid ≠ p.uid }

def execParcelRetire (parcel : Nat) (s : State) : Host.Outcome State Fault Refusal :=
  .next <|
    match s.parcel? parcel with
    | none => s
    | some p =>
        let l := s.launchFor p
        match p.state with
        | .running | .saving _ | .saveRoutines _ => if s.parcelDone p && !p.due then s.retireCommit p else s
        | .retiring 1 => if s.heldBy l.vf p.held || p.due then s else s.retireCommit p
        | .retiring 3 => s.issueLaunch p l
        | .retiring 4 => if s.parcelQuiet p then s.removeParcel p true else s
        | .ended placed => s.returnEnded p placed
        | _ => s

/-! ## LAUNCH_COMPLETE (R24, R143) -/

/-- Whether anything of a launch is still to be placed, waits or runs. -/
def State.launchLive (s : State) (l : Launch) : Bool :=
  let waits (e : HeadEntry) : Bool := match e with | .fresh u .. => u = l.uid | .saved _ => false
  l.remains || (s.parcels.any fun p => p.launch = l.uid) || (s.placements.any fun p => p.launch = l.uid)
    || ((s.vf l.vf).queue l.queue).head.any waits

def execLaunchComplete (launch : Nat) (s : State) : Host.Outcome State Fault Refusal :=
  .next <|
    match s.launch? launch with
    | none => s
    | some l =>
        if l.state = .complete || s.launchLive l then s
        else
          let v := s.vf l.vf
          ((s.setVf l.vf { v with leases := v.leases.filter fun e => e.1 ≠ launch }).setLaunch { l with state := .complete }).noteBacklog
            l.vf l.queue

end Sys2Proof.Machine
end

