-- ==== Sys2Proof/Machine/FaultQueue.lean ====
section
/-!
DEFINITION. The delivery of fault records, and what system software does about them through FQRESUME and FQACT (R126, R144,
R422).
-/
namespace Sys2Proof.Machine
open Sys2Proof

/-- The oldest held record goes to the ring when it has room; else a stalled one takes a free place on the control die
(R126). -/
def execFaultRecordDeliver (vf : Nat) (s : State) : Host.Outcome State Fault Refusal :=
  .next <|
    let v := s.vf vf
    match v.heldRec with
    | q :: qs =>
        if !s.ringReady vf then s
        else
          let s := s.setVf vf { v with heldRec := qs }
          (match s.record? vf q with
          | some r => s.toRing vf r
          | none => s)
    | [] =>
        match v.stalled with
        | r :: rs => (match s.recordCrosses r with
            | some s => s.setVf vf { v with stalled := rs, records := v.records ++ [r], heldRec := [r.seq] }
            | none => s)
        | [] => s

/-! ## FQRESUME (R144) -/

/-- The page that an address lies in: its first address and its size; 4 KiB where no page is present. -/
def State.pageAt (s : State) (vf va : Nat) : Nat × Nat :=
  match walk s va 4 (((s.vf vf).xroot.extractLsb' 12 40).toNat * 4096) with
  | .leaf _ _ _ e => let n := pageBytes (pteSize e); (va - va % n, n)
  | _ => (va - va % 4096, 4096)

/-- Whether a record says that a page is absent and is still pending. -/
def FaultRecord.absent (r : FaultRecord) : Bool := r.state = 0 && r.info.code = 0x0020

/-- A record of an absent page is resolved, and the group that is parked on it is ready again. -/
def State.unpark (s : State) (vf : Nat) (r : FaultRecord) : State :=
  let s := s.setRecord vf r.seq 1
  match r.owner with
  | .group u => (match s.group? u with
      | some g => if g.status = .parked r.seq then s.wake u false else s
      | none => s)
  | _ => s

def execFqresume (vf : Nat) (value : W64) (s : State) : Host.Outcome State Fault Refusal :=
  .next <|
    let (a, n) := s.pageAt vf ((value.extractLsb' 28 36).toNat * 4096)
    let v := s.vf vf
    ((v.records ++ v.stalled).filter fun r => r.absent && a ≤ r.info.addr.toNat && r.info.addr.toNat < a + n).foldl
      (fun s r => s.unpark vf r) s

/-! ## FQACT (R422) -/

/-- The parcel behind a record. -/
def State.parcelBehind (s : State) : Owner → Option Nat
  | .group u => (s.group? u).map fun g => g.parcel
  | .parcel p => some p
  | .card c => (s.card? c).map fun c => c.parcel
  | .engine e => ((s.engine e).busy).map fun b => b.parcel
  | .launch _ | .nobody => none

/-- A launch whose record the distributor posted fails, and its lease entries are released. -/
def State.giveUpLaunch (s : State) (u : Nat) : State :=
  match s.launch? u with
  | none => s
  | some l =>
      let v := s.vf l.vf
      (s.setVf l.vf { v with leases := v.leases.filter fun e => e.1 ≠ u }).failLaunch u

def execFqactEnd (vf : Nat) (seq : W32) (s : State) : Host.Outcome State Fault Refusal :=
  .next <|
    match s.record? vf seq.toNat with
    | none => s
    | some r =>
        if r.state ≠ 0 then s
        else
          let s := s.setRecord vf r.seq 1
          match r.owner with
          | .launch u => s.giveUpLaunch u
          | o => match s.parcelBehind o with
            | some p => s.endParcel p none
            | none => s

def execFqactResume (vf : Nat) (seq : W32) (s : State) : Host.Outcome State Fault Refusal :=
  .next <|
    match s.record? vf seq.toNat with
    | none => s
    | some r =>
        if r.state ≠ 0 then s
        else if r.info.code = 0x0020 then s.unpark vf r
        else match r.owner with
          | .group u => (match s.group? u with
              | none => s
              | some g =>
                  if g.status ≠ .stopped (some r.seq) then s
                  else if r.info.code = 0x000E then (s.setRecord vf r.seq 1).resumeGroup g (g.dbg.slot + 1) false
                  else if r.info.code = 0x000F && r.info.cause = 0 then (s.setRecord vf r.seq 1).resumeBreak g
                  else s)
          | _ => s

end Sys2Proof.Machine
end

