-- ==== Sys2Proof/Machine/Reservoir.lean ====
section
/-!
DEFINITION. The generator, the reservoir record and its resampling, the reservoir store, and MOTV (R100, R101, R356 to R364).
-/
namespace Sys2Proof.Machine
open Sys2Proof

/-! ## Common to the class (R356, R357) -/

/-- A RAY-class slot begins: with no lane enabled it neither pops nor pushes. -/
def Ctx.raySlot (c : Ctx) (e : W64) (dsts srcs : List Use) (captures : Bool) (body : Ctx → Group → List Src → Slot)
    (o : Start := { always := false }) : Slot := c.enter o e false dsts srcs captures body

def quadUse (pos : Nat) (o : Operand) : Use := ⟨pos, o, .onlyV, 4⟩
def pairUse (pos : Nat) (o : Operand) : Use := ⟨pos, o, .onlyV, 2⟩
def vregOf (o : Operand) : Nat := match o with | .v n => n.toNat | _ => 0

/-- The quad of a lane as a number, its first register lowest. -/
def Group.quad (g : Group) (o : Operand) (l : Nat) : Nat :=
  let r := vregOf o
  (g.vreg r l).toNat + (g.vreg (r + 1) l).toNat * 2 ^ 64 + (g.vreg (r + 2) l).toNat * 2 ^ 128 + (g.vreg (r + 3) l).toNat * 2 ^ 192

def quadWords (x : Nat) : List W64 := (span 0 4).map fun i => BitVec.ofNat 64 (x >>> (64 * i))

def Group.setQuad (g : Group) (o : Operand) (l x : Nat) : Group :=
  ((span 0 4).zip (quadWords x)).foldl (fun g y => g.setVreg (vregOf o + y.1) l y.2) g

/-- The end of a slot whose result is a quad in each lane of E; its latch holds the first register.
(DESIGN CHOICE, log entry 29) -/
def Ctx.quadResult (c : Ctx) (g : Group) (e : W64) (o : Operand) (f : Nat → Nat) : Slot :=
  .done c.s ((lanes e).foldl (fun h l => h.setQuad o l (f l)) g) (some (laneTbl e fun l => BitVec.ofNat 64 (f l))) none

def pixX (p : W64) : Nat := low32 p
def pixY (p : W64) : Nat := high32 p

/-! ## The generator (R358, R359) -/

def mixr (z : W64) : W64 :=
  let z := (z ^^^ (z >>> 31)) * 0xD2C13F5A87E9B04D
  let z := (z ^^^ (z >>> 29)) * 0x9A6F03C7E1582B35
  z ^^^ (z >>> 32)

/-- gen of R358. -/
def generate (seed : W64) (px py frame d : Nat) : W64 :=
  let h := mixr (seed ^^^ (join32 px py * 0x8F1B6D35A2C497E1))
  mixr (h ^^^ (join32 frame d * 0xB54E2A91D3F7068B))

/-- uniform of R358, which is exact. -/
def uniform (h : W64) : Nat := fRound (.fin false (h >>> 40).toNat (-24))

/-- A launch's draw for a pixel and a dimension. -/
def Launch.draw (l : Launch) (p : W64) (d : Nat) : W64 := generate l.seed (pixX p) (pixY p) l.frame.toNat d

def execRng (f : VForm) (s : State) : Host.Outcome State Fault Refusal :=
  runSlot s fun c =>
    let e := c.enabled f.pg f.pn
    c.raySlot e [dstOf f .vq] (usesOf f 2 .vsl) true fun c g xs =>
      c.result g e f.dst f.nw f.pfx true (.lanes (laneTbl e fun l => c.launch.draw ((xs.headD fun _ => 0) l) (low32 ((xs.getD 1 fun _ => 0) l))))

def execRngu (f : VForm) (s : State) : Host.Outcome State Fault Refusal :=
  runSlot s fun c =>
    let e := c.enabled f.pg f.pn
    c.raySlot e [dstOf f .vq] (usesOf f 2 .vsl) true fun c g xs =>
      let val (l : Nat) : W64 :=
        let p := (xs.headD fun _ => 0) l
        let d := low32 ((xs.getD 1 fun _ => 0) l)
        join32 (uniform (c.launch.draw p ((d + 1) % 2 ^ 32))) (uniform (c.launch.draw p d))
      c.result g e f.dst f.nw f.pfx true (.lanes (laneTbl e val))

/-! ## The record (R360) -/

structure Reservoir where
  seq   : Nat
  samp  : Bool
  capl  : Nat
  age   : Nat
  mcnt  : Nat
  ucw   : Nat
  phat  : Nat
  wsum  : Nat
  lv    : Nat
  lu    : Nat
  light : Nat
  subs  : Nat
  deriving DecidableEq, Repr

def Reservoir.ofNat (x : Nat) : Reservoir :=
  { seq := field x 224 32, samp := x.testBit 220, capl := field x 216 4, age := field x 208 8, mcnt := field x 192 16,
    ucw := field x 160 32, phat := field x 128 32, wsum := field x 96 32, lv := field x 64 32, lu := field x 32 32,
    light := field x 8 24, subs := field x 0 8 }

def Reservoir.toNat (r : Reservoir) : Nat :=
  r.seq % 2 ^ 32 * 2 ^ 224 + (if r.samp then 2 ^ 220 else 0) + r.capl % 16 * 2 ^ 216 + r.age % 256 * 2 ^ 208
    + r.mcnt % 65536 * 2 ^ 192 + r.ucw % 2 ^ 32 * 2 ^ 160 + r.phat % 2 ^ 32 * 2 ^ 128 + r.wsum % 2 ^ 32 * 2 ^ 96
    + r.lv % 2 ^ 32 * 2 ^ 64 + r.lu % 2 ^ 32 * 2 ^ 32 + r.light % 2 ^ 24 * 256 + r.subs % 256

def Reservoir.cap (r : Reservoir) : Nat := if r.capl = 0 then 65535 else 32 * r.capl
def Reservoir.empty : Reservoir := .ofNat 0

/-! ## Resampling (R361) -/

def Reservoir.init (seq capl : Nat) : Reservoir := { Reservoir.empty with seq := seq % 2 ^ 32, capl := capl % 16 }

/-- A weight that is not a finite number at or above zero counts as +0. -/
def saneWeight (w : Nat) : Nat := if fLe 0 w && fFinite w && w ≠ 0x80000000 then w else 0

/-- One draw for the record: its value, and the record with the next SEQ (R164). -/
def Reservoir.draw (r : Reservoir) (l : Launch) (p : W64) : Nat × Reservoir :=
  (uniform (l.draw p r.seq), { r with seq := (r.seq + 1) % 2 ^ 32 })

/-- A candidate of weight `w` and count `n` offered to `a`; `take` writes the fields of a chosen one. -/
def Reservoir.offer (a : Reservoir) (l : Launch) (p : W64) (w n : Nat) (take : Reservoir → Reservoir) : Reservoir :=
  let w := saneWeight w
  let (u, a) := a.draw l p
  let wn := fAdd a.wsum w
  let a := { a with mcnt := min (a.mcnt + n) a.cap }
  let a := if fLt 0 w && fLt (fMul u wn) w then take a else a
  { a with wsum := wn }

/-- RSVUPD. -/
def Reservoir.update (a c : Reservoir) (l : Launch) (p : W64) : Reservoir :=
  a.offer l p c.wsum 1 fun a =>
    { a with light := c.light, subs := c.subs, lu := c.lu, lv := c.lv, phat := c.phat, age := 0, samp := true }

/-- RSVMRG. -/
def Reservoir.merge (a b : Reservoir) (l : Launch) (p : W64) (ph : Nat) : Reservoir :=
  let w := if b.samp then fMul (fMul ph b.ucw) (fOfInt b.mcnt) else 0
  a.offer l p w b.mcnt fun a =>
    { a with light := b.light, subs := b.subs, lu := b.lu, lv := b.lv, phat := ph, age := b.age, samp := true }

/-- RSVNRM. -/
def Reservoir.normal (a : Reservoir) : Reservoir :=
  { a with ucw := if a.samp && 0 < a.mcnt && fLt 0 a.phat then fDiv a.wsum (fMul (fOfInt a.mcnt) a.phat) else 0 }

/-- A resampling slot: the new record of each lane from its old one. -/
def Ctx.resample (c : Ctx) (f : VForm) (srcs : List Use) (step : Ctx → List Src → Nat → Reservoir → Reservoir) : Slot :=
  let e := c.enabled f.pg f.pn
  c.raySlot e [quadUse 36 f.dst] (srcs ++ [quadUse 36 f.dst]) true fun c g xs =>
    c.quadResult g e f.dst fun l => (step c xs l (.ofNat (c.g.quad f.dst l))).toNat

def execRsvinit (f : VForm) (s : State) : Host.Outcome State Fault Refusal :=
  runSlot s fun c => c.resample f (usesOf f 1 .vsl) fun _ xs l _ =>
    .init (low32 ((xs.headD fun _ => 0) l)) (f.x.extractLsb' 0 4).toNat

def execRsvupd (f : VForm) (s : State) : Host.Outcome State Fault Refusal :=
  runSlot s fun c => c.resample f [quadUse 27 f.sa, ⟨18, f.sb, .vsl, 1⟩] fun c xs l a =>
    a.update (.ofNat (c.g.quad f.sa l)) c.launch ((xs.getD 1 fun _ => 0) l)

def execRsvmrg (f : VForm) (s : State) : Host.Outcome State Fault Refusal :=
  runSlot s fun c => c.resample f [quadUse 27 f.sa, ⟨18, f.sb, .vsl, 1⟩, ⟨9, f.sc, .vsl, 1⟩] fun c xs l a =>
    a.merge (.ofNat (c.g.quad f.sa l)) c.launch ((xs.getD 1 fun _ => 0) l) (low32 ((xs.getD 2 fun _ => 0) l))

def execRsvnrm (f : VForm) (s : State) : Host.Outcome State Fault Refusal :=
  runSlot s fun c => c.resample f [] fun _ _ _ a => a.normal

/-! ## The store (R100, R101, R362) -/

/-- RSVRECT of a die for a function. -/
structure Rect where
  x0 : Nat
  y0 : Nat
  x1 : Nat
  y1 : Nat
  deriving DecidableEq, Repr

def Rect.ofWord (w : W64) : Rect :=
  { x0 := (w.extractLsb' 0 16).toNat, y0 := (w.extractLsb' 16 16).toNat, x1 := (w.extractLsb' 32 16).toNat, y1 := (w.extractLsb' 48 16).toNat }
def Rect.empty (r : Rect) : Bool := r.x1 ≤ r.x0 || r.y1 ≤ r.y0
def Rect.has (r : Rect) (tx ty : Nat) : Bool := r.x0 ≤ tx && tx < r.x1 && r.y0 ≤ ty && ty < r.y1
/-- The rectangle or its halo of one tile. -/
def Rect.near (r : Rect) (tx ty : Nat) : Bool := !r.empty && r.x0 ≤ tx + 1 && tx ≤ r.x1 && r.y0 ≤ ty + 1 && ty ≤ r.y1
def Rect.tiles (r : Rect) : Nat := (r.x1 - r.x0) * (r.y1 - r.y0)

def State.rect (s : State) (die vf : Nat) : Rect := .ofWord (Tbl.get 0 (s.die die).rsvrect vf)

/-- The byte in a die's store of the record of a pixel of its rectangle, in slot `k`. -/
def Rect.byte (r : Rect) (p : W64) (k : Nat) : Nat :=
  let (tx, ty) := (pixX p / 16, pixY p / 16)
  ((ty - r.y0) * (r.x1 - r.x0) + (tx - r.x0)) * 16384 + 8192 * k + (pixY p % 16 * 16 + pixX p % 16) * 32

/-- Where a read of a pixel's record goes: the die and the byte of its store, or an empty reservoir for a halo tile that no
die owns; none outside the rectangle and its halo (R101). -/
inductive RsvPlace where
  | at (die byte : Nat)
  | nowhere
  | outside
  deriving DecidableEq, Repr

def State.rsvPlace (s : State) (die vf : Nat) (p : W64) (k : Nat) : RsvPlace :=
  let (tx, ty) := (pixX p / 16, pixY p / 16)
  let r := s.rect die vf
  if r.has tx ty then .at die (r.byte p k)
  else if !r.near tx ty then .outside
  else match (span 0 Config.dies).find? fun d => (s.rect d vf).has tx ty with
    | some d => .at d ((s.rect d vf).byte p k)
    | none => .nowhere

def State.rsvBytes (s : State) (die vf byte : Nat) : List Byte := Memory.readN (Tbl.get [] (s.die die).rsv vf) byte 32
/-- Whether a record stands in a poisoned 64-byte sector of the store. -/
def State.rsvPoisoned (s : State) (die vf byte : Nat) : Bool := (s.die die).rsvBad.contains (vf, byte / 64)

/-- The record at a place. -/
def State.rsvRead (s : State) (vf : Nat) : RsvPlace → Nat
  | .at d b => natOfBytes (s.rsvBytes d vf b)
  | _ => 0

/-- Writes a record whole. -/
def State.rsvWrite (s : State) (die vf byte x : Nat) : State :=
  let d := s.die die
  s.setDie die { d with rsv := Tbl.put [] d.rsv vf (Memory.writeN (Tbl.get [] d.rsv vf) byte (bytesOfNat 32 x)) }

/-- The fault of an access outside the rectangle (R101, R425). -/
def rectFault (l : Nat) (p : W64) : FaultInfo := capabilityFault 7 0 p.toNat l

/-- Slot k of variant 0 `.cur` and variant 1 `.prev`. -/
def rsvSlot (l : Launch) (prev : Bool) : Nat := (l.frame.toNat + if prev then 1 else 0) % 2

/-- The lowest lane whose write lies outside its own die's rectangle. -/
def Ctx.writeFault (c : Ctx) (e : W64) (p : Src) : Option FaultInfo :=
  (lanes e).findSome? fun l =>
    if (c.s.rect c.die c.vf).has (pixX (p l) / 16) (pixY (p l) / 16) then none else some (rectFault l (p l))

/-- The lowest lane whose read lies outside the halo. -/
def Ctx.readFault (c : Ctx) (e : W64) (p : Src) (k : Nat) : Option FaultInfo :=
  (lanes e).findSome? fun l => if c.s.rsvPlace c.die c.vf (p l) k = .outside then some (rectFault l (p l)) else none

/-- The stores of other dies that some places name are read there and back in one step (R101); none while a link holds the traffic. -/
def crossHalo (die : Nat) : List RsvPlace → State → Option State
  | [], s => some s
  | .at d _ :: ps, s => (s.crossNow clsControl (dieWay die d ++ dieWay d die)).bind (crossHalo die ps)
  | _ :: ps, s => crossHalo die ps s

/-- A slot that writes the store: refused in a subdivisible parcel (R33), and after its lanes' loads (R406) and what it reads itself. -/
def Ctx.rsvWriter (c : Ctx) (f : VForm) (op : Nat) (srcs : List Use)
    (check : Ctx → List Src → Option FaultInfo) (body : Ctx → Group → List Src → State)
    (reads : Ctx → List Src → List RsvPlace := fun _ _ => []) : Slot :=
  let e := c.enabled f.pg f.pn
  let pre := if c.launch.hdr.sub then some (illegalOperand 6 56 op) else none
  c.raySlot e [] srcs false (o := { always := false, pre := pre }) fun c g xs =>
    match check c xs with
    | some x => .stop c.s c.g (.trap x)
    | none =>
        if c.g.loadsOf e then c.block .loads
        else match crossHalo c.die (reads c xs) c.s with
          | some s => .done (body (c.put s c.g) g xs) g none none
          | none => c.block .link

/-- The records of the lanes of E written in ascending order. -/
def Ctx.putRecords (c : Ctx) (e : W64) (p : Src) (k : Nat) (x : Nat → Nat) : State :=
  (lanes e).foldl (fun s l => s.rsvWrite c.die c.vf ((s.rect c.die c.vf).byte (p l) k) (x l)) c.s

def execRsvld (f : VForm) (s : State) : Host.Outcome State Fault Refusal :=
  runSlot s fun c =>
    let e := c.enabled f.pg f.pn
    c.raySlot e [quadUse 36 f.dst] (usesOf f 1 .vsl) true fun c g xs =>
      let p := xs.headD fun _ => 0
      let k := rsvSlot c.launch (f.var = 1)
      match c.readFault e p k with
      | some x => .stop c.s c.g (.trap x)
      | none =>
          let src (l : Nat) : LaneSource := match c.s.rsvPlace c.die c.vf (p l) k with
            | .at d b => .reservoir c.vf d b
            | _ => .value [0, 0, 0, 0]
          c.issueLoad c.s g .n64 (.vregs (vregOf f.dst) 4) ((lanes e).map fun l => (l, src l))

def execRsvst (f : VForm) (s : State) : Host.Outcome State Fault Refusal :=
  runSlot s fun c =>
    let e := c.enabled f.pg f.pn
    let pix (xs : List Src) : Src := xs.getD 1 fun _ => 0
    c.rsvWriter f 0xD7 [quadUse 27 f.sa, ⟨18, f.sb, .vsl, 1⟩] (fun c xs => c.writeFault e (pix xs)) fun c _ xs =>
      c.putRecords e (pix xs) (rsvSlot c.launch (f.var = 1)) fun l => (Reservoir.ofNat (c.g.quad f.sa l)).toNat

def execRsvclr (f : VForm) (s : State) : Host.Outcome State Fault Refusal :=
  runSlot s fun c =>
    let e := c.enabled f.pg f.pn
    let pix (xs : List Src) : Src := xs.headD fun _ => 0
    c.rsvWriter f 0xE3 (usesOf f 2 .vsl) (fun c xs => c.writeFault e (pix xs)) fun c _ xs =>
      c.putRecords e (pix xs) (rsvSlot c.launch (f.var = 1)) fun l =>
        (Reservoir.init (low32 ((xs.getD 1 fun _ => 0) l)) (f.x.extractLsb' 0 4).toNat).toNat

/-- RSVCPY: AGE rises by one. -/
def Reservoir.older (r : Reservoir) : Reservoir := { r with age := min (r.age + 1) 255 }

def execRsvcpy (f : VForm) (s : State) : Host.Outcome State Fault Refusal :=
  runSlot s fun c =>
    let e := c.enabled f.pg f.pn
    let dst (xs : List Src) : Src := xs.headD fun _ => 0
    let src (xs : List Src) : Src := xs.getD 1 fun _ => 0
    let bad (c : Ctx) (xs : List Src) : Option FaultInfo :=
      let k := rsvSlot c.launch true
      let poison := (lanes e).findSome? fun l => match c.s.rsvPlace c.die c.vf (src xs l) k with
        | .at d b => if c.s.rsvPoisoned d c.vf b then some (poisonFault 4 l 0) else none
        | _ => none
      (c.writeFault e (dst xs)).or ((c.readFault e (src xs) k).or poison)
    c.rsvWriter f 0xE6 (usesOf f 2 .vsl) bad (fun c _ xs =>
      c.putRecords e (dst xs) (rsvSlot c.launch false) fun l =>
        (Reservoir.ofNat (c.s.rsvRead c.vf (c.s.rsvPlace c.die c.vf (src xs l) (rsvSlot c.launch true)))).older.toNat)
      fun c xs => (lanes e).map fun l => c.s.rsvPlace c.die c.vf (src xs l) (rsvSlot c.launch true)

/-! ## MOTV (R364) -/

/-- The pixel to which a motion leads, when it is on the screen. -/
def reproject (p mv size : W64) : Option W64 :=
  let half := 0x3F000000
  let below (x n : Nat) : Bool := (f32Val x).cmp (valOfInt n) = some (-1)
  let tx := fAdd (fAdd (fOfInt (pixX p)) half) (low32 mv)
  let ty := fAdd (fAdd (fOfInt (pixY p)) half) (high32 mv)
  if fFinite tx && fFinite ty && fLe 0 tx && below tx (low32 size) && fLe 0 ty && below ty (high32 size) then
    some (join32 (fFloor ty).toNat (fFloor tx).toNat)
  else none

def execMotv (f : VForm) (s : State) : Host.Outcome State Fault Refusal :=
  runSlot s fun c =>
    let e := c.enabled f.pg f.pn
    c.raySlot e [dstOf f .onlyV] (usesOf f 3 .vsl) true (o := { always := false, pre := kdFault (xKD f.x) }) fun c g xs =>
      let sent (l : Nat) : Option W64 :=
        reproject ((xs.headD fun _ => 0) l) ((xs.getD 1 fun _ => 0) l) ((xs.getD 2 fun _ => 0) l)
      let g := g.setKreg (xKD f.x) e (maskOf e fun l => (sent l).isSome)
      c.result g e f.dst f.nw f.pfx true (.lanes (laneTbl e fun l => (sent l).getD 0))

end Sys2Proof.Machine
end

