-- ==== Sys2Proof/Machine/Ray.lean ====
section
/-!
DEFINITION. Scenes, rays and their traversal: SCNBIND, RAYQ, RAYS, HITUNP, RAYORG, and the ray unit (R365 to R372).
-/
namespace Sys2Proof.Machine
open Sys2Proof

/-! ## Scenes (R366, R367) -/

/-- The position of the field QD of the Q-form. -/
def posQd : Nat := 41

/-- Checks that [a, a + n) of c[reg] may be read by an engine. -/
def Ctx.regionOk (c : Ctx) (s : State) (reg : Nat) (k : Cap) (need a n lane : Nat) (align : Nat := 1) : State × Except Stop Nat :=
  match s.capCheck (some c.g.core) c.vf k need a n align with
  | (s, .error x) => (s, .error (.trap (capabilityFault x reg a lane)))
  | (s, .ok va) => (s, .ok va)

/-- Reads and checks a scene descriptor at offset `off` from the capability's OFFSET; `bad` is the fault of one whose fields
break R366. (DESIGN CHOICE, log entry 17) -/
def Ctx.attachScene (c : Ctx) (reg off lane : Nat) (bad : FaultInfo) : State × Except Stop Attached :=
  let k := c.g.cap reg
  let need := rRead + rEngine
  match c.readDescriptor false reg k need (k.offset + off) 32 1 lane with
  | (s, .error x) => (s, .error x)
  | (s, .ok bs) =>
      let w := natOfBytes bs
      let a : Attached := { cap := k, nodeOff := field w 208 48, triOff := field w 160 48, nTri := field w 128 32, nNode := field w 96 32 }
      if field w 0 96 ≠ 0 || a.nodeOff % 128 ≠ 0 || a.triOff % 16 ≠ 0 || a.nNode = 0 || 2 ^ 30 < a.nNode then (s, .error (.trap bad))
      else match c.regionOk s reg k need (k.offset + a.nodeOff) (128 * a.nNode) lane with
        | (s, .error x) => (s, .error x)
        | (s, .ok _) =>
            if a.nTri = 0 then (s, .ok a)
            else match c.regionOk s reg k need (k.offset + a.triOff) (48 * a.nTri) lane with
              | (s, .error x) => (s, .error x)
              | (s, .ok _) => (s, .ok a)

/-- A queue that is not bound with DIR 0 to a port. -/
def Group.inputFault (g : Group) (q port : Nat) : Option FaultInfo :=
  let b := (g.queue q).binding
  if bindValid b && !bindOut b && bindPort b = port then none else some (queueBinding q b)

/-- The slots that attach a scene or a tree to a binding of port `port`. -/
def Ctx.attachSlot (c : Ctx) (f : QForm) (port : Nat) (read : Ctx → Nat → Nat → Nat → FaultInfo → State × Except Stop Attached) : Slot :=
  let e := c.enabled f.pg f.pn
  let l := (lowest e).getD 0
  let q := f.qd.toNat
  let at' (xs : List Src) : Nat := ((xs.headD fun _ => 0) l).toNat
  let check (xs : List Src) : Option FaultInfo :=
    (faultIf (at' xs % 32 ≠ 0) (illegalOperand 6 28 (at' xs))).or (c.g.inputFault q port)
  c.raySlot e [] [⟨28, f.desc, .sl, 1⟩] false (o := { always := false, access := true, check := check }) fun c g xs =>
    match read c f.cap.toNat (at' xs) l (illegalOperand 6 28 (at' xs)) with
    | (s, .error x) => .stop s c.g x
    | (s, .ok a) => .done s (g.setQueue q { g.queue q with scene := some a }) none none

def execScnbind (f : QForm) (s : State) : Host.Outcome State Fault Refusal :=
  runSlot s fun c => c.attachSlot f 5 fun c reg off l bad => c.attachScene reg off l bad

/-! ## Requests (R365, R367, R368) -/

/-- A ray: origin, direction and the interval. -/
structure RayReq where
  o    : V3
  d    : V3
  tmin : Nat
  tmax : Nat
  deriving DecidableEq, Repr

def RayReq.ofWords (a b c d : W64) : RayReq :=
  { o := ⟨low32 a, high32 a, low32 b⟩, tmin := high32 b, d := ⟨low32 c, high32 c, low32 d⟩, tmax := high32 d }

def RayReq.invalid (r : RayReq) : Bool :=
  let zero (x : Nat) : Bool := x = 0 || x = 0x80000000
  !([r.o.x, r.o.y, r.o.z, r.d.x, r.d.y, r.d.z, r.tmin, r.tmax].all fFinite) || (zero r.d.x && zero r.d.y && zero r.d.z)

/-- The register `i` of a quad operand of a lane. -/
def Group.quadReg (g : Group) (o : Operand) (i l : Nat) : W64 := g.vreg (vregOf o + i) l

def Group.rayOf (g : Group) (o : Operand) (l : Nat) : RayReq :=
  .ofWords (g.quadReg o 0 l) (g.quadReg o 1 l) (g.quadReg o 2 l) (g.quadReg o 3 l)

/-- The four vector entries of a request, the first with its command. -/
def Ctx.quadEntries (c : Ctx) (e : W64) (o : Operand) (cmd : Cmd) : List QEntry :=
  (span 0 4).map fun i =>
    { QEntry.ofLanes e (c.g.quadReg o i) with cmd := if i = 0 then some cmd else none, clause := c.r.clause, slot := c.r.idx }

/-- The push of a request: four entries at once (R111), after the checks of the operands, of the binding and of the request itself
(R426). -/
def Ctx.requestSlot (c : Ctx) (f : QForm) (port : Nat) (flags : W64 → Option FaultInfo) (trap : W64 → Option FaultInfo)
    (cmd : W64 → Attached → Cmd) : Slot :=
  let e := c.enabled f.pg f.pn
  let l := (lowest e).getD 0
  let q := f.qd.toNat
  let arg : List Use := if f.arg.unused then [] else [⟨5, f.arg, .sl, 1⟩]
  let value (xs : List Src) : W64 := if f.arg.unused then 0 else (xs.getD 1 fun _ => 0) l
  let check (xs : List Src) : Option FaultInfo :=
    (flags (value xs)).or ((c.g.inputFault q port).or
      ((if (c.g.queue q).scene.isNone then some (illegalOperand 6 posQd q) else none).or
        ((c.g.pushFault q port).or (trap (value xs)))))
  c.raySlot e [] (quadUse 28 f.desc :: arg) false (o := { always := false, access := true, check := check }) fun c g xs => c.notBehind <|
    if Config.queueDepth < (g.queue q).entries.length + 4 then .stop c.s c.g (.block (.queue q))
    else match (g.queue q).scene with
      | none => c.skip
      | some a => .done c.s ((c.quadEntries e f.desc (cmd (value xs) a)).foldl (fun g x => g.pushEntry q x) g) none none

/-- RAYQ and RAYS. -/
def Ctx.raySubmit (c : Ctx) (f : QForm) (any : Bool) : Slot :=
  let e := c.enabled f.pg f.pn
  let flags (w : W64) : Option FaultInfo := if w >>> 2 ≠ 0 || (any && w.getLsbD 1) then some (illegalOperand 6 5 w.toNat) else none
  let trap (w : W64) : Option FaultInfo :=
    if !w.getLsbD 0 then none
    else ((lanes e).find? fun l => (c.g.rayOf f.desc l).invalid).map fun l => .mk' 0x0013 0 0 0 0 l
  c.requestSlot f 5 flags trap fun w a => .ray any w a

def execRayq (f : QForm) (s : State) : Host.Outcome State Fault Refusal := runSlot s fun c => c.raySubmit f false
def execRays (f : QForm) (s : State) : Host.Outcome State Fault Refusal := runSlot s fun c => c.raySubmit f true

/-! ## Traversal (R369) -/

/-- A read of a unit of a die through a capability, offset `a` from its OFFSET. (DESIGN CHOICE, log entry 17) -/
def State.viaCap (s : State) (die vf : Nat) (k : Cap) (need a n : Nat) : Except UnitStop (List Byte) :=
  match s.capCheck none vf k need (k.offset + a) n 1 with
  | (_, .error c) => .error (.fault (capabilityFault c 0 (k.offset + a) 0))
  | (s, .ok va) => (s.unitRead { die := die, cls := sizedClass n clsRequest } vf [] va n).2

structure Hit where
  t    : Nat
  prim : Nat
  u    : Nat
  v    : Nat
  face : Bool
  deriving DecidableEq, Repr

/-- What a traversal has found: the best hit, whether the scene is malformed, and its tests. -/
structure Found where
  best : Option Hit
  bad  : Bool
  box  : Nat
  tri  : Nat
  deriving DecidableEq, Repr

/-- The vector at byte `b` of a record. -/
def vec3 (bs : List Byte) (b : Nat) : V3 := ⟨word32 bs b, word32 bs (b + 4), word32 bs (b + 8)⟩

/-- A box is entered. -/
def entersBox (r : RayReq) (lo hi : V3) : Bool :=
  let axis (l h o d : Nat) : Nat × Nat :=
    let i := fDiv 0x3F800000 d
    let t1 := fMul (fSub l o) i
    let t2 := fMul (fSub h o) i
    if fIsNan t1 || fIsNan t2 then (negInfF32, infF32) else (fMin t1 t2, fMax t1 t2)
  let x := axis lo.x hi.x r.o.x r.d.x
  let y := axis lo.y hi.y r.o.y r.d.y
  let z := axis lo.z hi.z r.o.z r.d.z
  fLe (fMax r.tmin (fMax x.1 (fMax y.1 z.1))) (fMin r.tmax (fMin x.2 (fMin y.2 z.2)))

/-- A triangle is hit. -/
def hitsTriangle (r : RayReq) (cull : Bool) (v0 v1 v2 : V3) (prim : Nat) : Option Hit :=
  let e1 := v1.sub v0
  let e2 := v2.sub v0
  let p := r.d.cross e2
  let det := e1.dot p
  if fEq det 0 || (cull && fLt det 0) then none
  else
    let s := r.o.sub v0
    let u := fDiv (s.dot p) det
    let q := s.cross e1
    let v := fDiv (r.d.dot q) det
    let t := fDiv (e2.dot q) det
    if fLe 0 u && fLe 0 v && fLe (fAdd u v) 0x3F800000 && fLe r.tmin t && fLe t r.tmax then
      some { t := t, prim := prim, u := u, v := v, face := fLt det 0 }
    else none

/-- The better of two hits: less t, then the lower PRIM. -/
def betterHit (a : Option Hit) (b : Hit) : Option Hit :=
  match a with
  | none => some b
  | some a => if fLt b.t a.t || (fEq b.t a.t && b.prim < a.prim) then some b else some a

/-- The triangles of a leaf. -/
def traceLeaf (rd : Nat → Nat → Except UnitStop (List Byte)) (a : Attached) (r : RayReq) (cull : Bool) :
    Nat → Nat → Found → Except UnitStop Found
  | 0, _, x => .ok x
  | n + 1, i, x =>
      match rd (a.triOff + 48 * i) 48 with
      | .error y => .error y
      | .ok bs =>
          let h := hitsTriangle r cull (vec3 bs 0) (vec3 bs 12) (vec3 bs 24) (word32 bs 36)
          traceLeaf rd a r cull n (i + 1) { x with tri := x.tri + 1, best := match h with | some h => betterHit x.best h | none => x.best }

/-- The node `node` and what lies below it, at most `fuel` nodes deep. -/
def traceNode (rd : Nat → Nat → Except UnitStop (List Byte)) (a : Attached) (r : RayReq) (cull : Bool) :
    Nat → Nat → Found → Except UnitStop Found
  | 0, _, x => .ok { x with bad := true }
  | fuel + 1, node, x =>
      match rd (a.nodeOff + 128 * node) 128 with
      | .error y => .error y
      | .ok bs =>
          (span 0 4).foldlM (fun (x : Found) k =>
            let ref := word32 bs (96 + 4 * k)
            let kind := ref / 2 ^ 30
            let idx := ref % 2 ^ 30
            let count := field ref 25 5 + 1
            let first := ref % 2 ^ 25
            if kind = 0 then .ok x
            else if kind = 3 || (kind = 1 && (a.nNode ≤ idx || fuel = 0)) || (kind = 2 && a.nTri < first + count) then
              .ok { x with bad := true }
            else
              let x := { x with box := x.box + 1 }
              if !entersBox r (vec3 bs (24 * k)) (vec3 bs (24 * k + 12)) then .ok x
              else if kind = 1 then traceNode rd a r cull fuel idx x
              else traceLeaf rd a r cull count first x) x

/-- The outcome of a ray. -/
inductive Traced where
  | miss | hit (h : Hit) | invalid | scene
  deriving DecidableEq, Repr

/-- Traces one ray for a unit of a die: its outcome, and its rays, box tests and triangle tests for the counters. -/
def State.trace (s : State) (die vf : Nat) (a : Attached) (r : RayReq) (cull : Bool) : Except UnitStop (Traced × Nat × Nat × Nat) :=
  if r.invalid then .ok (.invalid, 0, 0, 0)
  else if fLt r.tmax r.tmin then .ok (.miss, 0, 0, 0)
  else match traceNode (s.viaCap die vf a.cap (rRead + rEngine)) a r cull 64 0 { best := none, bad := false, box := 0, tri := 0 } with
    | .error x => .error x
    | .ok f => .ok (if f.bad then .scene else match f.best with | some h => .hit h | none => .miss, 1, f.box, f.tri)

/-! ## Results (R370) -/

def Traced.status : Traced → Nat
  | .miss => 0 | .hit _ => 1 | .invalid => 2 | .scene => 3

/-- A barycentric coordinate in units of 2^−16. -/
def baryUnits (x : Nat) : Nat := min (fNearest x 16).toNat 65535

/-- H0 and H1. -/
def Traced.h0 : Traced → W64
  | .hit h => join32 h.prim h.t
  | _ => join32 0xFFFFFFFF infF32
def Traced.h1 (r : Traced) (any : Bool) : W64 :=
  match r with
  | .hit h =>
      if any then 1 else BitVec.ofNat 64 (baryUnits h.v * 2 ^ 48 + baryUnits h.u * 2 ^ 32 + (if h.face then 8 else 0) + 1)
  | r => BitVec.ofNat 64 r.status

/-- The request of a lane in the entries of a command. -/
def Taken.word (b : Taken) (i l : Nat) : W64 := Tbl.get 0 ((b.entries.getD i (QEntry.ofScalar 0)).vals) l

/-- Every lane's ray in turn. -/
def traceLanes (s : State) (b : Taken) (a : Attached) (cull : Bool) :
    List Nat → Except UnitStop (List (Nat × Traced × Nat × Nat × Nat))
  | [] => .ok []
  | l :: ls =>
      match s.trace (b.core / 48) b.vf a (.ofWords (b.word 0 l) (b.word 1 l) (b.word 2 l) (b.word 3 l)) cull with
      | .error x => .error x
      | .ok r => match traceLanes s b a cull ls with
        | .error x => .error x
        | .ok rs => .ok ((l, r) :: rs)

def execRayResult (core : Nat) (s : State) : Host.Outcome State Fault Refusal :=
  .next <|
    let e : EngineRef := { kind := .ray, unit := core }
    match s.command? e with
    | some b =>
        (match b.cmd with
        | .ray any flags a =>
            let m := b.first.mask
            (match traceLanes s b a (flags.getLsbD 1) (lanes m) with
            | .error x => s.engineStops e b x (fun _ => []) true
            | .ok rs =>
                let val (f : Traced → W64) (l : Nat) : W64 := match rs.find? fun r => r.1 = l with | some r => f r.2.1 | none => 0
                let h0 := QEntry.ofLanes m (val Traced.h0)
                let h1 := QEntry.ofLanes m (val fun r => r.h1 any)
                let sum (f : Traced × Nat × Nat × Nat → Nat) : Nat := (rs.map fun r => f r.2).foldl (· + ·) 0
                s.engineDone e b (if any then [h1] else [h0, h1]) (sum fun r => r.2.1) (sum fun r => r.2.2.1) (sum fun r => r.2.2.2))
        | _ => s)
    | none => s

/-! ## HITUNP, RAYORG (R371) -/

def execHitunp (f : VForm) (s : State) : Host.Outcome State Fault Refusal :=
  runSlot s fun c =>
    let e := c.enabled f.pg f.pn
    c.raySlot e [dstOf f .onlyV] (usesOf f 1 .vslq) true fun c g xs =>
      let val (l : Nat) : W64 :=
        let x := ((xs.headD fun _ => 0) l).toNat
        join32 (fRound (.fin false (field x 48 16) (-16))) (fRound (.fin false (field x 32 16) (-16)))
      c.result g e f.dst f.nw f.pfx true (.lanes (laneTbl e val))

/-- The unbiased exponent of an FP32 value, −126 for a zero or a subnormal. -/
def expOf (x : Nat) : Int := if field x 23 8 = 0 then -126 else (field x 23 8 : Int) - 127

/-- One component of RAYORG. -/
def rayOffset (p n : Nat) : Nat :=
  if fIsNan p then nanF32
  else if !fFinite p then p
  else fAdd p (fRound ((f32Val n).mul (.fin false 1 (expOf p - 18))))

def execRayorg (f : VForm) (s : State) : Host.Outcome State Fault Refusal :=
  runSlot s fun c =>
    let e := c.enabled f.pg f.pn
    c.raySlot e [pairUse 36 f.dst] [pairUse 27 f.sa, pairUse 18 f.sb, pairUse 36 f.dst] true fun c g _ =>
      let first (l : Nat) : W64 :=
        let p := c.g.quadReg f.sa 0 l
        let n := c.g.quadReg f.sb 0 l
        join32 (rayOffset (high32 p) (high32 n)) (rayOffset (low32 p) (low32 n))
      let second (l : Nat) : W64 :=
        join32 (high32 (c.g.quadReg f.dst 1 l)) (rayOffset (low32 (c.g.quadReg f.sa 1 l)) (low32 (c.g.quadReg f.sb 1 l)))
      let put (h : Group) (l : Nat) : Group := (h.setVreg (vregOf f.dst) l (first l)).setVreg (vregOf f.dst + 1) l (second l)
      .done c.s ((lanes e).foldl put g) (some (laneTbl e first)) none

end Sys2Proof.Machine
end

