-- ==== Sys2Proof/Machine/WorkList.lean ====
section
/-!
DEFINITION. The work-list instructions (R114 to R118, R294, R295).
-/
namespace Sys2Proof.Machine
open Sys2Proof

/-- KS: the status mask, 0 for none. -/
def statusMask (f : MForm) : Nat := f.scope.toNat % 8

/-- The work-list fault (R425). -/
def listFault (cause : Nat) : FaultInfo := .mk' 0x000C cause

/-- The descriptor that a slot names: its virtual address, which names the list, its cell, and its fields. -/
structure ListRef where
  va   : Nat
  cell : Nat
  d    : ListDesc
  deriving DecidableEq, Repr

/-- Reads the descriptor (R294); `i` is the index source.  The lowest lane of E gives the index.
(DESIGN CHOICE, log entry 22) -/
def Ctx.listRef (c : Ctx) (f : MForm) (e : W64) (i : Src) : State × Except Stop ListRef :=
  let reg := f.cap.toNat
  let cap := c.g.cap reg
  let l := (lowest e).getD 0
  match c.resolve .atomic reg cap (rAtomic + rEngine) 64 64 [(l, elemAddr cap (i l) f.ofs.toInt 8)] with
  | (s, .error x) => (s, .error x)
  | (s, .ok as) =>
      let x := as.headD { lane := l, va := 0, cell := 0 }
      match s.readNow c.g false clsRequest 64 as with
      | .error w => (s, .error (.block w))
      | .ok s => match s.badData x.cell 64 l x.va with
        | some bad => (s, .error (.trap bad))
        | none => (s, .ok { va := x.va, cell := x.cell, d := s.listAt x.cell })

/-- The cells of `m` records from sequence number `n`, which the backing object must hold, with the check of a traverse
declaration. -/
def Ctx.recordCells (c : Ctx) (s : State) (f : MForm) (d : ListDesc) (n m : Nat) (kind : Access) : State × Except Stop (List Nat) :=
  let reg := f.cap.toNat
  let bad : Stop := .trap (capabilityFault 5 reg (c.g.cap reg).offset 0)
  match s.object (some c.g.core) c.vf d.obj with
  | (s, none) => (s, .error bad)
  | (s, some o) =>
      if m = 0 then (s, .ok [])
      else if d.cap = 0 || !objectHolds o 0 0 (d.cap * d.bytes) then (s, .error bad)
      else
        let (s, r) := transLanes c.g.core c.vf kind s ((span n m).map fun k => (0, objBase o + k % d.cap * d.bytes))
        match laneStop c.g c.launch d.bytes r with
        | some x => (s, .error x)
        | none => (s, .ok (r.map fun x => x.2.2.cell))

/-- A write at a home slice, which the core's own L1 follows (R401). -/
def State.coreWrite (s : State) (core cell : Nat) (bs : List Byte) : State :=
  (s.updateL1 core cell bs).applyWrite cell 0 bs

/-- The descriptor's fields written. -/
def Ctx.putList (c : Ctx) (s : State) (r : ListRef) (d : ListDesc) : State :=
  let s := s.setList r.cell d
  s.updateL1 c.g.core (r.cell + 16) (Memory.readN s.mem (r.cell + 16) 24)

/-- The records of the lanes of `ls` appended at TAIL, in ascending lane order. -/
def appendAll (core : Nat) (d : ListDesc) : List (Nat × W128) → State → State × ListDesc
  | [], s => (s, d)
  | (cell, r) :: rs, s =>
      appendAll core { d with tail := (d.tail + 1) % 2 ^ 64 } rs (s.coreWrite core cell (bytesOfNat d.bytes r.toNat))

/-- The records of a slot: the low word from DATA; the high word of a wide record from the register that follows a v
DATA.  The manual states no high word for the other kinds of DATA: a free value. (DESIGN CHOICE, log entries 5, 22) -/
def Ctx.records (c : Ctx) (f : MForm) (d : ListDesc) (x : Src) (free : W64) (l : Nat) : W128 :=
  if !d.wide then (x l).zeroExtend 128
  else
    let hi := match f.data with
      | .v r => c.g.vreg (r.toNat + 1) l
      | _ => free
    BitVec.ofNat 128 ((x l).toNat + hi.toNat * 2 ^ 64)

/-- A wide list needs the register after a v DATA, within the allotment and with no write pending. -/
def Ctx.wideStop (c : Ctx) (f : MForm) (d : ListDesc) : Option Stop :=
  match f.data with
  | .v r =>
      if !d.wide then none
      else if c.g.allot < r.toNat + 2 then some (.trap (illegalOperand 2 36 f.data.code.toNat))
      else if c.g.pending.any fun p => p.meets c.r.id (dataUse f .onlyV 2) then some (.block .write)
      else none
  | _ => none

/-- The status bits written to k[KS] (R294). -/
def Group.setStatus (g : Group) (f : MForm) (e bits : W64) : Group :=
  if statusMask f = 0 then g else g.setKreg (statusMask f) e bits

/-- The appends of a subdivisible parcel, which wait in its log (R117). -/
def State.logAppends (s : State) (g : Group) (list : Nat) (k : Append) (rs : List W128) : State :=
  let p := s.parcelOf g
  s.setParcel { p with log := p.log ++ rs.map fun r => .append list k r }

/-- A commit uses up so many of the reservations of the group's parcel on a list (R115). -/
def State.useReserved (s : State) (g : Group) (list n : Nat) : State :=
  let p := s.parcelOf g
  s.setParcel { p with resv := Tbl.put 0 p.resv list (Tbl.get 0 p.resv list - n) }

/-- What a slot appends: the records of the lanes, in ascending lane order, at once or through the log. -/
def Ctx.appendSlot (c : Ctx) (s : State) (g : Group) (f : MForm) (r : ListRef) (k : Append) (e won : W64) (rs : List W128) : Slot :=
  let m := rs.length
  if s.subdivisible g then
    let d := if k = .commit then r.d else { r.d with resv := r.d.resv + m }
    let s := (c.putList s r d).logAppends g r.va k rs
    .done (if k = .commit then s.useReserved g r.va m else s) (g.setStatus f e won) none none
  else
    match c.recordCells s f r.d r.d.tail m .write with
    | (s, .error x) => .stop s c.g x
    | (s, .ok cells) =>
        let (s, d) := appendAll c.g.core r.d (cells.zip rs) s
        let d := if k = .commit then { d with resv := d.resv - m } else d
        let s := c.putList s r d
        .done (if k = .commit then s.useReserved g r.va m else s) (g.setStatus f e won) none none

/-- The beginning of an append: the list, the check of a wide record, and the lanes' records. -/
def Ctx.appender (c : Ctx) (f : MForm) (body : Ctx → Group → W64 → ListRef → (Nat → W128) → Slot) : Slot :=
  let e := c.enabled f.pg f.pn
  c.enter { always := false } e true [] (dataUse f .vslq :: idxUse f .vsl) false fun c g xs =>
    match c.listRef f e (idxSrc f xs.tail) with
    | (s, .error x) => .stop s c.g x
    | (s, .ok r) =>
        match c.wideStop f r.d with
        | some x => .stop s c.g x
        | none =>
            let (s, n) := s.nextFree
            body { c with s := s } g e r (c.records f r.d (xs.headD fun _ => 0) (Config.freeWord n))

def execWlpush (f : MForm) (s : State) : Host.Outcome State Fault Refusal :=
  runSlot s fun c => c.appender f fun c g e r rec =>
    let rs := (lanes e).map rec
    if r.d.admits rs.length then c.appendSlot c.s g f r .push e e rs
    else .done c.s (g.setStatus f e 0) none none

/-- The records in [HEAD, TAIL) that a duplicate test compares with. -/
def Ctx.present (c : Ctx) (s : State) (f : MForm) (d : ListDesc) : State × Except Stop (List W128) :=
  match c.recordCells s f d d.head (min d.count d.cap) .read with
  | (s, .error x) => (s, .error x)
  | (s, .ok cells) => (s, .ok (cells.map fun x => s.readRecord d x))

/-- The lanes that insert: those whose record is not in `found` and whose equal in a lower lane does not insert. -/
def inserters (rec : Nat → W128) : List W128 → List Nat → List Nat
  | _, [] => []
  | found, l :: ls => if found.contains (rec l) then inserters rec found ls else l :: inserters rec (rec l :: found) ls

def execWlins (f : MForm) (s : State) : Host.Outcome State Fault Refusal :=
  runSlot s fun c => c.appender f fun c g e r rec =>
    match c.present c.s f r.d with
    | (s, .error x) => .stop s c.g x
    | (s, .ok found) =>
        let ls := inserters rec found (lanes e)
        if r.d.admits ls.length then
          c.appendSlot s g f r .insert e (ls.foldl (fun m l => m ||| bit64 l) 0) (ls.map rec)
        else .done s (g.setStatus f e 0) none none

def execWlcom (f : MForm) (s : State) : Host.Outcome State Fault Refusal :=
  runSlot s fun c => c.appender f fun c g e r rec =>
    let rs := (lanes e).map rec
    if Tbl.get 0 (c.s.parcelOf g).resv r.va < rs.length then .stop c.s c.g (.trap (listFault 1))
    else c.appendSlot c.s g f r .commit e e rs

def execWlres (f : MForm) (s : State) : Host.Outcome State Fault Refusal :=
  runSlot s fun c =>
    let e := c.enabled f.pg f.pn
    let l := (lowest e).getD 0
    c.enter { always := false } e true [] (dataUse f .slq :: idxUse f .vsl) false fun c g xs =>
      let n := ((xs.headD fun _ => 0) l).toNat
      if 2 ^ 31 < n then c.trap (illegalOperand 6 36 n)
      else match c.listRef f e (idxSrc f xs.tail) with
        | (s, .error x) => .stop s c.g x
        | (s, .ok r) =>
            let p := s.parcelOf g
            let own := Tbl.get 0 p.resv r.va
            if n ≠ 0 && own = 0 && 8 ≤ p.resv.length then .stop s c.g (.trap (listFault 2))
            else if !r.d.admits n then .done s (g.setStatus f e 0) none none
            else
              let s := s.setParcel { p with resv := Tbl.put 0 p.resv r.va (own + n) }
              .done (c.putList s r { r.d with resv := r.d.resv + n }) (g.setStatus f e e) none none

/-- The records popped by a subdivisible parcel, copied into its log (R117). -/
def State.logPops (s : State) (g : Group) (r : ListRef) (rs : List W128) : Act :=
  (s.logFor g (((span r.d.head rs.length).zip rs).map fun x => .pop r.va x.1 x.2)).andThen fun s g =>
    let p := s.parcelOf g
    .ok (s.setParcel { p with taken := Tbl.put 0 p.taken r.va (Tbl.get 0 p.taken r.va + rs.length) }) g

def execWlpopb (f : MForm) (s : State) : Host.Outcome State Fault Refusal :=
  runSlot s fun c =>
    let e := c.enabled f.pg f.pn
    c.enter { always := false } e f.nw [dataUse f .onlyV] (idxUse f .vsl) true fun c g xs =>
      match c.listRef f e (idxSrc f xs) with
      | (s, .error x) => .stop s c.g x
      | (s, .ok r) =>
          match c.wideStop f r.d with
          | some x => .stop s c.g x
          | none =>
              let ls := (lanes e).take (min r.d.count r.d.cap)
              match c.recordCells s f r.d r.d.head ls.length .read with
              | (s, .error x) => .stop s c.g x
              | (s, .ok cells) =>
                  if Config.loadLimit ≤ g.loads then .stop s c.g (.block .loads)
                  else match cells.findSome? fun x => s.badData x r.d.bytes 0 r.va with
                  | some bad => .stop s c.g (.trap bad)
                  | none =>
                      let rs := cells.map fun x => s.readRecord r.d x
                      let k := ls.length
                      let d := { r.d with head := (r.d.head + k) % 2 ^ 64 }
                      let sub := s.subdivisible g
                      let d := if sub then { d with taken := d.taken + k } else d
                      let a := if sub then s.logPops g r rs else .ok s g
                      a.slot fun s g =>
                        let s := c.putList s r d
                        let dst : PendDst := if f.nw then .nothing else match f.data with
                          | .v n => .vregs n.toNat (if r.d.wide then 2 else 1)
                          | _ => .nothing
                        let src (x : W128) : LaneSource :=
                          .value (if r.d.wide then [x.extractLsb' 0 64, x.extractLsb' 64 64] else [x.extractLsb' 0 64])
                        let (s, p) := c.pend s .load .n64 dst (ls.zip (rs.map src)) true false
                        let won := ls.foldl (fun m l => m ||| bit64 l) 0
                        let keep := match f.data with
                          | .v n => laneTbl (e &&& ~~~won) fun l => c.g.vreg n.toNat l
                          | _ => []
                        .done s { g.setStatus f e won with pending := g.pending ++ [p] } (some keep) none

def execWlsize (f : MForm) (s : State) : Host.Outcome State Fault Refusal :=
  runSlot s fun c =>
    let e := c.enabled f.pg f.pn
    c.enter { always := false } e f.nw [dataUse f .onlyS] (idxUse f .vsl) true fun c g xs =>
      match c.listRef f e (idxSrc f xs) with
      | (s, .error x) => .stop s c.g x
      | (s, .ok r) =>
          c.issueLoad s g .n64 (pendDst f.data f.nw)
            [((lowest e).getD 0, .value [BitVec.ofNat 64 r.d.count])] (one := true)

end Sys2Proof.Machine
end

