-- ==== Sys2Proof/Machine/Geometry.lean ====
section
/-!
DEFINITION. The geometry front end: GFEMB, GFEDEPTH, the meshlet pass, the rasteriser, the depth pyramid, VISCLS and VISW (R380
to R387).
-/
namespace Sys2Proof.Machine
open Sys2Proof

/-! ## The descriptor (R380) -/

def gfField (w : BitVec 1024) (lo n : Nat) : Nat := field w.toNat lo n
def gfMoff (w : BitVec 1024) : Nat := gfField w 976 48
def gfVboff (w : BitVec 1024) : Nat := gfField w 928 48
def gfPyoff (w : BitVec 1024) : Nat := gfField w 880 48
def gfSwloff (w : BitVec 1024) : Nat := gfField w 832 48
def gfRjloff (w : BitVec 1024) : Nat := gfField w 784 48
def gfFirst (w : BitVec 1024) : Nat := gfField w 752 32
def gfCount (w : BitVec 1024) : Nat := gfField w 736 16 + 1
def gfPitch (w : BitVec 1024) : Nat := gfField w 720 16
def gfW (w : BitVec 1024) : Nat := gfField w 704 16
def gfH (w : BitVec 1024) : Nat := gfField w 688 16
def gfCam (w : BitVec 1024) : V3 := ⟨gfField w 656 32, gfField w 624 32, gfField w 592 32⟩
def gfPass (w : BitVec 1024) : Nat := gfField w 590 2
def gfCull (w : BitVec 1024) : Bool := w.getLsbD 589

/-- The rights that a geometry command needs over every region. -/
def gfRights : Nat := rRead + rWrite + rAtomic + rEngine

/-- The width and the height of a pyramid level (R385). -/
def levelSize (x l : Nat) : Nat := (x + 2 ^ l - 1) / 2 ^ l
/-- The texels before level `l`. -/
def levelStart (w h : Nat) : Nat → Nat
  | 0 => 0
  | l + 1 => levelStart w h l + levelSize w l * levelSize h l
/-- The levels of a screen. -/
def levelCount (w h : Nat) : Nat := (span 0 17).foldl (fun n l => if levelSize w l = 1 && levelSize h l = 1 then min n (l + 1) else n) 17

def gfSizesOk (w : BitVec 1024) : Bool :=
  1 ≤ gfW w && gfW w ≤ 32767 && 1 ≤ gfH w && gfH w ≤ 32767 && gfVboff w % 8 = 0 && gfPyoff w % 4 = 0

/-- The conditions that R380 puts on the fields of a descriptor, for both commands. -/
def gfWellFormed (w : BitVec 1024) : Bool :=
  gfField w 0 589 = 0 && gfPass w ≠ 0 && gfMoff w % 64 = 0 && gfSizesOk w

/-- A region: its offset, its size and the alignment of its address. -/
structure GfRegion where
  off   : Nat
  size  : Nat
  align : Nat
  deriving DecidableEq, Repr

/-- The regions of a pyramid command: the visibility buffer and the pyramid. -/
def gfBuffer (w : BitVec 1024) : GfRegion := ⟨gfVboff w, ((gfH w - 1) * gfPitch w + gfW w) * 8, 1⟩
def gfPyramid (w : BitVec 1024) : GfRegion := ⟨gfPyoff w, 4 * levelStart (gfW w) (gfH w) (levelCount (gfW w) (gfH w)), 1⟩
/-- A work-list descriptor, whose address is 64-byte aligned (R114). -/
def gfList (off : Nat) : GfRegion := ⟨off, 64, 64⟩

/-- The regions that a meshlet command uses: the meshlets of pass 1 and of a single pass, the buffer, the two lists, and the
pyramid of the passes that test occlusion. -/
def gfRegions (w : BitVec 1024) : List GfRegion :=
  (if gfPass w = 2 then [] else [⟨gfMoff w + 64 * gfFirst w, 64 * gfCount w, 1⟩]) ++ [gfBuffer w, gfList (gfSwloff w)]
    ++ (if gfPass w = 3 then [] else [gfList (gfRjloff w), gfPyramid w])

/-- The capability checks of the regions in turn. -/
def gfRegionsOk (c : Ctx) (reg lane : Nat) (k : Cap) : State → List GfRegion → State × Except Stop Unit
  | s, [] => (s, .ok ())
  | s, r :: rs =>
      match c.regionOk s reg k gfRights (k.offset + r.off) r.size lane r.align with
      | (s, .error x) => (s, .error x)
      | (s, .ok _) => gfRegionsOk c reg lane k s rs

/-- The descriptor of a command at offset `d`, checked with the regions that it names. -/
def Ctx.gfDescriptor (c : Ctx) (reg d lane : Nat) (ok : BitVec 1024 → Bool) (regions : BitVec 1024 → List GfRegion)
    (bad : FaultInfo) : State × Except Stop (BitVec 1024) :=
  let k := c.g.cap reg
  match c.readDescriptor false reg k (rRead + rEngine) (k.offset + d) 128 1 lane with
  | (s, .error x) => (s, .error x)
  | (s, .ok bs) =>
      let w := BitVec.ofNat 1024 (natOfBytes bs)
      if !ok w then (s, .error (.trap bad))
      else match gfRegionsOk c reg lane k s (regions w) with
        | (s, .error x) => (s, .error x)
        | (s, .ok _) => (s, .ok w)

/-! ## GFEMB, GFEDEPTH -/

/-- VISAREA of a die for a function (R80). -/
def State.visarea (s : State) (die vf : Nat) : W32 := Tbl.get 0x42000000 (s.die die).visarea vf

/-- The refusal in a subdivisible parcel (R33, R380). -/
def Ctx.subRefusal (c : Ctx) (op : Nat) : Option FaultInfo := faultIf c.launch.hdr.sub (illegalOperand 6 56 op)

/-- The push of a command of one entry. -/
def Ctx.pushCommand (c : Ctx) (s : State) (g : Group) (q d : Nat) (cmd : Cmd) (semv : Bool) (sem inc : Nat) : Slot :=
  if g.queueFull q then .stop s c.g (.block (.queue q))
  else
    let x : QEntry := { QEntry.ofScalar (BitVec.ofNat 64 d) with cmd := some cmd, semv := semv, sem := sem, inc := inc,
                                                                  clause := c.r.clause, slot := c.r.idx }
    .done s (g.pushEntry q x) none none

def execGfemb (f : QForm) (s : State) : Host.Outcome State Fault Refusal :=
  runSlot s fun c =>
    let e := c.enabled f.pg f.pn
    let l := (lowest e).getD 0
    let q := f.qd.toNat
    let reg := f.cap.toNat
    let off (xs : List Src) : Nat := ((xs.headD fun _ => 0) l).toNat
    let check (xs : List Src) : Option FaultInfo :=
      firstFault [faultIf (off xs % 64 ≠ 0) (illegalOperand 6 28 (off xs)), c.incFault f, c.g.pushFault q 0x0E]
    c.raySlot e [] [⟨28, f.desc, .sl, 1⟩] false (o := { always := false, access := true, pre := c.subRefusal 0xDE, check := check })
      fun c g xs => c.notBehind <|
        let d := off xs
        match c.gfDescriptor reg d l gfWellFormed gfRegions (illegalOperand 6 28 d) with
        | (s, .error x) => .stop s c.g x
        | (s, .ok w) => c.pushCommand s g q d (.gfemb (c.g.cap reg) w (s.visarea c.die c.vf)) f.semv f.sem.toNat f.inc.toNat

def execGfedepth (f : VForm) (s : State) : Host.Outcome State Fault Refusal :=
  runSlot s fun c =>
    let e := c.enabled f.pg f.pn
    let l := (lowest e).getD 0
    let q := match f.dst with | .q n => n.toNat | _ => 0
    let reg := (f.x.extractLsb' 0 4).toNat
    let off (xs : List Src) : Nat := ((xs.headD fun _ => 0) l).toNat
    let check (xs : List Src) : Option FaultInfo := faultIf (off xs % 64 ≠ 0) (illegalOperand 6 27 (off xs))
    c.raySlot e [dstOf f .onlyQ] (usesOf f 1 .sl) false
      (o := { always := false, access := true, port := 0x0E, pre := c.subRefusal 0xE8, check := check }) fun c g xs => c.notBehind <|
        let d := off xs
        match c.gfDescriptor reg d l gfWellFormed (fun w => [gfBuffer w, gfPyramid w])
            (illegalOperand 6 27 d) with
        | (s, .error x) => .stop s c.g x
        | (s, .ok w) => c.pushCommand s g q d (.gfedepth (c.g.cap reg) w) false 0 0

/-! ## A run of a command -/

/-- A run: the state, the triangles sent to SWL and those rasterised, and what stops it. -/
structure GfeRun where
  s    : State
  swl  : Nat
  rast : Nat
  stop : Option UnitStop
  deriving DecidableEq, Repr

/-- What a run has throughout: the engine, its command, the capability, the descriptor and VISAREA. -/
structure GfeCtx where
  e    : EngineRef
  b    : Taken
  cap  : Cap
  w    : BitVec 1024
  area : W32
  deriving DecidableEq, Repr

def GfeRun.fails (r : GfeRun) (x : UnitStop) : GfeRun := { r with stop := some x }

/-- Goes on unless the run has stopped. -/
def GfeRun.also (r : GfeRun) (f : GfeRun → GfeRun) : GfeRun := if r.stop.isSome then r else f r

/-- Reads `n` bytes at offset `a`, then goes on with them. -/
def GfeCtx.reading (c : GfeCtx) (r : GfeRun) (a n : Nat) (f : GfeRun → List Byte → GfeRun) : GfeRun :=
  match r.s.viaCap c.e.die c.b.vf c.cap gfRights a n with
  | .error x => r.fails x
  | .ok bs => f r bs

/-- The cell of `n` bytes at offset `a` that the command writes. -/
def GfeCtx.writing (c : GfeCtx) (r : GfeRun) (kind : Access) (a n : Nat) (f : GfeRun → Nat → Nat → GfeRun)
    (align : Nat := 1) : GfeRun :=
  match r.s.capCheck none c.b.vf c.cap gfRights (c.cap.offset + a) n align with
  | (s, .error x) => { r with s := s }.fails (.fault (capabilityFault x 0 (c.cap.offset + a) 0))
  | (s, .ok va) =>
      match unitCells c.b.vf kind s [va] with
      | (s, .error x) => { r with s := s }.fails x
      | (s, .ok cs) => f { r with s := s } va (cs.headD 0)

/-! ## Lists (R115, R118, R383) -/

/-- A push of one record to the list whose descriptor is at offset `off`; `record` is the record of a list of that width, none
when the index does not fit. -/
def GfeCtx.push (c : GfeCtx) (r : GfeRun) (off : Nat) (record : Bool → Option W128) : GfeRun :=
  c.writing r .atomic off 64 (align := 64) fun r _ cell =>
    if let some bad := r.s.badData cell 64 0 (c.cap.offset + off) then r.fails (.fault bad)
    else
      let d := r.s.listAt cell
      match record d.wide with
      | none => r.fails (.fault (illegalOperand 6 0 off))
      | some x =>
          if !d.admits 1 then r.fails (.fault (listFault 3))
          else match r.s.recordCell none c.b.vf d d.tail .write with
            | (s, .ok _) =>
                (match s.appendRecord none c.b.vf d x with
                | (s, some d) => { r with s := s.setList cell d }
                | (s, none) => { r with s := s })
            | (s, .absent) => { r with s := s }.fails (.absent ((s.recordVa none c.b.vf d d.tail).2.getD 0))
            | (s, .moving) => { r with s := s }.fails .moving
            | (s, .fault k lv e) => { r with s := s }.fails (.fault (translationFault k lv e 0 ((s.recordVa none c.b.vf d d.tail).2.getD 0)))

/-- The pop of the oldest record of RJL, with the rest of the run; an empty list ends it. -/
def GfeCtx.pop (c : GfeCtx) (r : GfeRun) (f : GfeRun → Nat → GfeRun) : GfeRun :=
  c.writing r .atomic (gfRjloff c.w) 64 (align := 64) fun r _ cell =>
    if let some bad := r.s.badData cell 64 0 (c.cap.offset + gfRjloff c.w) then r.fails (.fault bad)
    else
      let d := r.s.listAt cell
      if d.count = 0 then r
      else match r.s.recordCell none c.b.vf d d.head .read with
        | (s, .ok x) =>
            if let some bad := s.badData x d.bytes 0 ((s.recordVa none c.b.vf d d.head).2.getD 0) then { r with s := s }.fails (.fault bad)
            else f { r with s := s.setList cell { d with head := (d.head + 1) % 2 ^ 64 } } (s.readRecord d x).toNat
        | (s, .absent) => { r with s := s }.fails (.absent ((s.recordVa none c.b.vf d d.head).2.getD 0))
        | (s, .moving) => { r with s := s }.fails .moving
        | (s, .fault k lv e) => { r with s := s }.fails (.fault (translationFault k lv e 0 ((s.recordVa none c.b.vf d d.head).2.getD 0)))

/-- The SWL record of a triangle. -/
def swlRecord (meshlet id : Nat) (clip wide : Bool) : Option W128 :=
  let low := id % 2 ^ 32 + (if clip then 2 ^ 32 else 0)
  if wide then some (BitVec.ofNat 128 (low + meshlet % 2 ^ 32 * 2 ^ 64))
  else if 2 ^ 24 ≤ meshlet then none
  else some (BitVec.ofNat 128 (low + meshlet * 2 ^ 40))

def GfeCtx.toSwl (c : GfeCtx) (r : GfeRun) (meshlet id : Nat) (clip : Bool) : GfeRun :=
  (c.push r (gfSwloff c.w) (swlRecord meshlet id clip)).also fun r => { r with swl := r.swl + 1 }

/-! ## Vertices and the tests of a meshlet (R382) -/

/-- The larger and the smaller of two values as R253 has them. -/
def fMaxNan (a b : Nat) : Nat := (elPick .f32 true rne a b).bits
def fMinNan (a b : Nat) : Nat := (elPick .f32 false rne a b).bits

/-- A vertex in clip coordinates. -/
structure ClipVertex where
  x : Nat
  y : Nat
  z : Nat
  w : Nat
  deriving DecidableEq, Repr

def ClipVertex.ofBytes (bs : List Byte) : ClipVertex := ⟨word32 bs 0, word32 bs 4, word32 bs 8, word32 bs 12⟩

/-- A projected vertex: x_s, y_s, d and whether it can be used (w above 0 and a finite place). -/
structure ScreenVertex where
  xs : Nat
  ys : Nat
  d  : Nat
  ok : Bool
  deriving DecidableEq, Repr

def ClipVertex.project (v : ClipVertex) (w h : Nat) : ScreenVertex :=
  let hw := fMul 0x3F000000 (fOfInt w)
  let hh := fMul 0x3F000000 (fOfInt h)
  let xs := fAdd (fMul (fDiv v.x v.w) hw) hw
  let ys := fSub hh (fMul (fDiv v.y v.w) hh)
  { xs := xs, ys := ys, d := fDiv v.z v.w, ok := !fLe v.w 0 && fFinite xs && fFinite ys }

/-- Test 1: every vertex meets one and the same condition. -/
def frustumCulls (vs : List ClipVertex) : Bool :=
  let conditions : List (ClipVertex → Bool) :=
    [fun v => fLt v.x (fNeg v.w), fun v => fLt v.w v.x, fun v => fLt v.y (fNeg v.w), fun v => fLt v.w v.y,
     fun v => fLt v.z 0, fun v => fLt v.w v.z]
  conditions.any fun p => vs.all p

/-- A meshlet (R381). -/
structure Meshlet where
  voff   : Nat
  toff   : Nat
  tbase  : Nat
  verts  : Nat
  tris   : Nat
  nocone : Bool
  cut    : Nat
  axis   : V3
  apex   : V3
  deriving DecidableEq, Repr

def Meshlet.ofNat (w : Nat) : Meshlet :=
  { voff := field w 464 48, toff := field w 416 48, tbase := field w 384 32, verts := field w 378 6 + 1, tris := field w 371 7 + 1,
    nocone := w.testBit 370, cut := field w 320 32, axis := ⟨field w 224 32, field w 256 32, field w 288 32⟩,
    apex := ⟨field w 128 32, field w 160 32, field w 192 32⟩ }

/-- Test 2. -/
def coneCulls (m : Meshlet) (cam : V3) : Bool :=
  let dc := m.apex.sub cam
  !m.nocone && fLe (fMul m.cut (fSqrt (dc.dot dc))) (dc.dot m.axis)

/-- What test 3 compares: nothing when the meshlet passes or is culled without it, else the level and the texels. -/
inductive Occlusion where
  | passes
  | culls
  | texels (d level : Nat) (ij : List (Nat × Nat))
  deriving DecidableEq, Repr

def occlusion (vs : List ScreenVertex) (w h : Nat) : Occlusion :=
  match vs with
  | [] => .passes
  | v :: rest =>
      if vs.any fun v => !v.ok then .passes
      else
        let low (f : ScreenVertex → Nat) : Nat := rest.foldl (fun a x => fMinNan a (f x)) (f v)
        let high (f : ScreenVertex → Nat) : Nat := rest.foldl (fun a x => fMaxNan a (f x)) (f v)
        let lo (f : ScreenVertex → Nat) : Nat := (max (fFloor (low f)) 0).toNat
        let hi (f : ScreenVertex → Nat) (n : Nat) : Int := min (fFloor (high f)) ((n : Int) - 1)
        let (x0, x1) := (lo fun v => v.xs, hi (fun v => v.xs) w)
        let (y0, y1) := (lo fun v => v.ys, hi (fun v => v.ys) h)
        if x1 < x0 || y1 < y0 then .culls
        else
          let (x1, y1) := (x1.toNat, y1.toNat)
          let l := ((span 0 16).find? fun l => x1 / 2 ^ l - x0 / 2 ^ l ≤ 1 && y1 / 2 ^ l - y0 / 2 ^ l ≤ 1).getD 16
          let cols := span (x0 / 2 ^ l) (x1 / 2 ^ l - x0 / 2 ^ l + 1)
          let rows := span (y0 / 2 ^ l) (y1 / 2 ^ l - y0 / 2 ^ l + 1)
          .texels (low fun v => v.d) l ((rows.map fun j => cols.map fun i => (i, j)).flatten)

/-- The byte of a pyramid texel from PYOFF. -/
def texelByte (w h l i j : Nat) : Nat := 4 * (levelStart w h l + j * levelSize w l + i)

/-- Reads the texels and goes on with the largest. -/
def GfeCtx.largest (c : GfeCtx) (l : Nat) (f : GfeRun → Nat → GfeRun) : List (Nat × Nat) → Option Nat → GfeRun → GfeRun
  | [], best, r => f r (best.getD 0)
  | (i, j) :: rest, best, r =>
      c.reading r (gfPyoff c.w + texelByte (gfW c.w) (gfH c.w) l i j) 4 fun r bs =>
        let t := word32 bs 0
        c.largest l f rest (some (match best with | some b => fMaxNan b t | none => t)) r

/-! ## Triangles (R383, R384) -/

/-- A snapped vertex with its depth. -/
structure SnapVertex where
  x : Int
  y : Int
  d : Nat
  deriving DecidableEq, Repr

/-- The snapped vertex, none for one that makes its triangle go to SWL with CLIP. -/
def ScreenVertex.snap (v : ScreenVertex) : Option SnapVertex :=
  let x := fNearest v.xs 8
  let y := fNearest v.ys 8
  let fits (x : Int) : Bool := -(2 ^ 23) ≤ x && x < 2 ^ 23
  if v.ok && fits x && fits y then some { x := x, y := y, d := v.d } else none

/-- Twice the area of a triangle, signed. -/
def area2 (a b c : SnapVertex) : Int := (b.x - a.x) * (c.y - a.y) - (c.x - a.x) * (b.y - a.y)

/-- A of R383. -/
def triangleArea (x : Int) : Nat := fRound (.fin false x.natAbs (-17))

/-- The edge function from a to b at P. -/
def edgeAt (a b : SnapVertex) (px py : Int) : Int := (b.x - a.x) * (py - a.y) - (b.y - a.y) * (px - a.x)
/-- Whether an edge takes a centre. -/
def edgeTakes (a b : SnapVertex) (e : Int) : Bool := 0 < e || (e = 0 && (b.y < a.y || (b.y = a.y && a.x < b.x)))

/-- The depth of a centre: exact, then rounded once. -/
def depthAt (e01 e12 e20 area : Int) (a b c : SnapVertex) : Nat :=
  let term (e : Int) (d : Nat) : Val := (valOfInt e).mul (f32Val d)
  match Val.add .rne (Val.add .rne (term e12 a.d) (term e20 b.d)) (term e01 c.d) with
  | .fin neg m x => fRound (quotient neg m x area.natAbs 0)
  | v => fRound v

/-- The pixel columns or rows of a triangle's box on a screen of `n`. -/
def boxSpan (lo hi : Int) (n : Nat) : List Nat :=
  let a := (max (lo / 256) 0).toNat
  let b := min (hi / 256) ((n : Int) - 1)
  if b < a then [] else span a (b.toNat - a + 1)

/-- The covered pixels of a triangle of positive area, with their values without the id. -/
def coveredPixels (a b c : SnapVertex) (w h : Nat) : List (Nat × Nat × Nat) :=
  let low3 (f : SnapVertex → Int) : Int := min (f a) (min (f b) (f c))
  let high3 (f : SnapVertex → Int) : Int := max (f a) (max (f b) (f c))
  let rows := boxSpan (low3 fun v => v.y) (high3 fun v => v.y) h
  let cols := boxSpan (low3 fun v => v.x) (high3 fun v => v.x) w
  (rows.map fun (j : Nat) => cols.filterMap fun (i : Nat) =>
    let px : Int := 256 * i + 128
    let py : Int := 256 * j + 128
    let e01 := edgeAt a b px py
    let e12 := edgeAt b c px py
    let e20 := edgeAt c a px py
    if edgeTakes a b e01 && edgeTakes b c e12 && edgeTakes c a e20 then
      let d := depthAt e01 e12 e20 (area2 a b c) a b c
      if fLe 0 d && fLe d 0x3F800000 then some (i, j, d) else none
    else none).flatten

/-- The atomic maximum of one pixel, on its way to its home (R292). -/
def GfeCtx.pixel (c : GfeCtx) (id : Nat) (r : GfeRun) (p : Nat × Nat × Nat) : GfeRun :=
  r.also fun r =>
    c.writing r .atomic (gfVboff c.w + (p.2.1 * gfPitch c.w + p.1) * 8) 8 fun r va cell =>
      let x := c.b.first
      let o : HomeOp := { sender := .engine c.e, fromDie := c.e.die, home := homeDie cell, lane := 0, vf := c.b.vf, va := va, cell := cell,
                          hint := 0, kind := .atomic .n64 2 (join32 (0xFFFFFFFF - p.2.2) id) none none,
                          counted := r.s.isFar c.e.die cell, released := false, clause := x.clause, slot := x.slot }
      { r with s := r.s.sendOp o }

/-- One triangle of an accepted meshlet. -/
def GfeCtx.triangle (c : GfeCtx) (n : Nat) (m : Meshlet) (vs : List ScreenVertex) (t : Nat) (r : GfeRun) : GfeRun :=
  c.reading r (m.toff + 4 * t) 4 fun r bs =>
    let idx (k : Nat) : Nat := word32 bs 0 / 2 ^ (8 * k) % 256
    let id := (m.tbase + t) % 2 ^ 32
    match (span 0 3).find? fun k => m.verts ≤ idx k with
    | some k => r.fails (.fault (illegalOperand 6 0 (idx k)))
    | none =>
        let v (k : Nat) : Option SnapVertex := (vs[idx k]?).bind ScreenVertex.snap
        match v 0, v 1, v 2 with
        | some a, some b, some d =>
            let x := area2 a b d
            if x = 0 || (x < 0 && gfCull c.w) then r
            else if fLt (triangleArea x) c.area.toNat then c.toSwl r n id false
            else
              let ps := if x < 0 then coveredPixels a d b (gfW c.w) (gfH c.w) else coveredPixels a b d (gfW c.w) (gfH c.w)
              ps.foldl (c.pixel id) { r with rast := r.rast + 1 }
        | _, _, _ => c.toSwl r n id true

/-! ## Meshlets -/

/-- Reads the vertices of a meshlet in turn. -/
def GfeCtx.vertices (c : GfeCtx) (voff : Nat) (f : GfeRun → List ClipVertex → GfeRun) : Nat → Nat → List ClipVertex → GfeRun → GfeRun
  | 0, _, vs, r => f r vs
  | n + 1, i, vs, r => c.reading r (voff + 16 * i) 16 fun r bs => c.vertices voff f n (i + 1) (vs ++ [.ofBytes bs]) r

/-- One meshlet: its tests in order, then its triangles. -/
def GfeCtx.meshlet (c : GfeCtx) (r : GfeRun) (n : Nat) : GfeRun :=
  r.also fun r => c.reading r (gfMoff c.w + 64 * n) 64 fun r bs =>
    let m := Meshlet.ofNat (natOfBytes bs)
    c.vertices m.voff (fun r vs =>
      if frustumCulls vs || coneCulls m (gfCam c.w) then r
      else
        let ss := vs.map fun v => v.project (gfW c.w) (gfH c.w)
        let accept (r : GfeRun) : GfeRun := (span 0 m.tris).foldl (fun r t => r.also (c.triangle n m ss t)) r
        if gfPass c.w = 3 then accept r
        else match occlusion ss (gfW c.w) (gfH c.w) with
          | .passes => accept r
          | .culls => r
          | .texels d l ij =>
              c.largest l (fun r t =>
                if fLt t d then (if gfPass c.w = 1 then c.push r (gfRjloff c.w) fun _ => some (BitVec.ofNat 128 n) else r)
                else accept r) ij none r) m.verts 0 [] r

/-- Pass 2: pops and processes, at most `fuel` records. -/
def GfeCtx.drainRejects (c : GfeCtx) : Nat → GfeRun → GfeRun
  | 0, r => r
  | fuel + 1, r => r.also fun r => c.pop r fun r n => c.drainRejects fuel (c.meshlet r n)

/-- The records of RJL when pass 2 begins. -/
def GfeCtx.rejects (c : GfeCtx) (s : State) : Nat :=
  match s.viaCap c.e.die c.b.vf c.cap gfRights (gfRjloff c.w) 64 with
  | .ok bs => (2 ^ 64 + field (natOfBytes bs) 192 64 - field (natOfBytes bs) 256 64) % 2 ^ 64
  | .error _ => 1

/-- (DESIGN CHOICE, log entry 24) -/
def GfeCtx.run (c : GfeCtx) (s : State) : GfeRun :=
  let r : GfeRun := { s := s, swl := 0, rast := 0, stop := none }
  if gfPass c.w = 2 then c.drainRejects (c.rejects s) r
  else (span (gfFirst c.w) (gfCount c.w)).foldl c.meshlet r

/-! ## Completion (R386) -/

/-- The status entry of a command that stops. -/
def gfeStopped (f : FaultInfo) : List QEntry := [QEntry.ofScalar (BitVec.ofNat 64 (2 ^ 63 + f.code))]

/-- Whether nothing that an engine sent is still on its way or unacknowledged. -/
def State.engineQuiet (s : State) (e : EngineRef) : Bool :=
  !(s.net.any fun o => o.sender = .engine e) && !(s.acks.any fun a => a.sender = .engine e)

/-- The end of a run: what is already applied stays with a fault; a run that meets an absent or a moving page is made again.
(DESIGN CHOICE, log entry 24) -/
def State.gfeEnds (s : State) (e : EngineRef) (b : Taken) (r : GfeRun) : State :=
  match r.stop with
  | some (.fault f) => r.s.engineFails e b f (gfeStopped f) false
  | some x => s.engineStops e b x gfeStopped false
  | none => r.s.setEngine e { r.s.engine e with busy := some { b with parked := none, stage := 1, survey := [(r.swl, [], r.rast)] } }

/-- A command whose run is over completes once everything that it sent is in. -/
def State.gfeCompletes (s : State) (e : EngineRef) (b : Taken) : State :=
  if !s.engineQuiet e then s
  else
    let (swl, rast) := match b.survey with | (a, _, r) :: _ => (a, r) | [] => (0, 0)
    let x := b.first
    (s.engineDone e b [QEntry.ofScalar (BitVec.ofNat 64 (swl % 2 ^ 31 * 2 ^ 32 + rast % 2 ^ 32))] 1 0 0).completion b.parcel x.semv x.sem x.inc

def execGfeMeshletPass (die : Nat) (s : State) : Host.Outcome State Fault Refusal :=
  .next <|
    let e : EngineRef := { kind := .geometry, unit := die }
    match s.command? e with
    | some b =>
        (match b.cmd with
        | .gfemb cap w area =>
            if b.stage = 0 then s.gfeEnds e b (GfeCtx.run { e := e, b := b, cap := cap, w := w, area := area } s)
            else s.gfeCompletes e b
        | _ => s)
    | none => s

/-! ## The depth pyramid (R385) -/

/-- A level-0 texel from its buffer element. -/
def texelOf (x : Nat) : Nat := if x = 0 then 0x3F800000 else 0xFFFFFFFF - x / 2 ^ 32

/-- The next level from one of `w` columns and `h` rows. -/
def nextLevel (w h : Nat) (t : List Nat) : List Nat :=
  let at' (i j : Nat) : List Nat := if i < w && j < h then (t[j * w + i]?).toList else []
  (gridOf ((h + 1) / 2) ((w + 1) / 2)).map fun x =>
    let (i, j) := (x.2, x.1)
    match at' (2 * i) (2 * j) ++ at' (2 * i + 1) (2 * j) ++ at' (2 * i) (2 * j + 1) ++ at' (2 * i + 1) (2 * j + 1) with
    | y :: ys => ys.foldl fMaxNan y
    | [] => 0

/-- The texels of every level, from level 0. -/
def pyramidOf : Nat → Nat → Nat → List Nat → List Nat
  | 0, _, _, t => t
  | n + 1, w, h, t => if w ≤ 1 && h ≤ 1 then t else t ++ pyramidOf n ((w + 1) / 2) ((h + 1) / 2) (nextLevel w h t)

/-- The rows of the visibility buffer from row `j`. -/
def bufferRows (rd : Nat → Nat → Except UnitStop (List Byte)) (w : BitVec 1024) : Nat → Nat → Except UnitStop (List Nat)
  | 0, _ => .ok []
  | n + 1, j => do
      let bs ← rd (gfVboff w + j * gfPitch w * 8) (gfW w * 8)
      let rest ← bufferRows rd w n (j + 1)
      .ok ((splitElems 8 (gfW w) bs).map texelOf ++ rest)

/-- The writes of a pyramid command. -/
def GfeCtx.pyramid (c : GfeCtx) (s : State) : GfeRun :=
  let r : GfeRun := { s := s, swl := 0, rast := 0, stop := none }
  match bufferRows (s.viaCap c.e.die c.b.vf c.cap gfRights) c.w (gfH c.w) 0 with
  | .error x => r.fails x
  | .ok t =>
      let bs := ((pyramidOf 16 (gfW c.w) (gfH c.w) t).map (bytesOfNat 4)).flatten
      match s.capCheck none c.b.vf c.cap gfRights (c.cap.offset + gfPyoff c.w) bs.length 1 with
      | (s, .error x) => { r with s := s }.fails (.fault (capabilityFault x 0 (c.cap.offset + gfPyoff c.w) 0))
      | (s, .ok va) =>
          match s.unitPieces c.b.vf .write [(va, bs)] with
          | (s, .error x) => { r with s := s }.fails x
          | (s, .ok ps) => { r with s := (s.sendPieces (.engine c.e) { die := c.e.die, cls := clsRequest } c.b.vf 0 c.b.first.clause c.b.first.slot ps).1 }

def execGfePyramidBuild (die : Nat) (s : State) : Host.Outcome State Fault Refusal :=
  .next <|
    let e : EngineRef := { kind := .geometry, unit := die }
    match s.command? e with
    | some b =>
        (match b.cmd with
        | .gfedepth cap w =>
            if b.stage = 0 then s.gfeEnds e b (GfeCtx.pyramid { e := e, b := b, cap := cap, w := w, area := 0 } s)
            else s.gfeCompletes e b
        | _ => s)
    | none => s

/-! ## VISCLS, VISW (R387) -/

def execViscls (f : VForm) (s : State) : Host.Outcome State Fault Refusal :=
  runSlot s fun c =>
    let e := c.enabled f.pg f.pn
    c.raySlot e [dstOf f .onlyV] (usesOf f 3 .vsl) true (o := { always := false, pre := kdFault (xKD f.x) }) fun c g xs =>
        let vertex (k l : Nat) : SnapVertex :=
          let x := (xs.getD k fun _ => 0) l
          { x := (x.extractLsb' 0 32).toInt, y := (x.extractLsb' 32 32).toInt, d := 0 }
        let area (l : Nat) : Nat := triangleArea (area2 (vertex 0 l) (vertex 1 l) (vertex 2 l))
        let small := maskOf e fun l => fLt 0 (area l) && fLt (area l) (c.s.visarea c.die c.vf).toNat
        let g := g.setKreg (xKD f.x) e small
        c.result g e f.dst f.nw f.pfx true (.lanes (laneTbl e fun l => BitVec.ofNat 64 (area l)))

def execVisw (f : VForm) (s : State) : Host.Outcome State Fault Refusal :=
  runSlot s fun c =>
    let e := c.enabled f.pg f.pn
    let l := (lowest e).getD 0
    let val (xs : List Src) : W64 := (xs.headD fun _ => 0) l
    c.raySlot e [] (usesOf f 1 .sl) false
      (o := { always := false, pre := c.subRefusal 0xDF, check := fun xs => faultIf (high32 (val xs) ≠ 0) (illegalOperand 6 27 (val xs).toNat) })
      fun c g xs =>
        let d := c.s.die c.die
        .done (c.s.setDie c.die { d with visarea := Tbl.put 0x42000000 d.visarea c.vf ((val xs).setWidth 32) }) g none none

end Sys2Proof.Machine
end

