-- ==== Sys2Proof/Machine/Links.lean ====
section
/-!
DEFINITION. The die-to-die links and the fabric ports at work: arrival, the arbiter of a link direction, replay, retraining and rate
steps (R2, R128, R154, R162, R438, R439, R454).
-/
namespace Sys2Proof.Machine
open Sys2Proof

/-! ## Arrival -/

/-- An operation has reached its home, and an acknowledgement its sender. -/
def State.arrived (s : State) (o : HomeOp) : Bool := s.flitsIn o.uid
def State.ackArrived (s : State) (a : Ack) : Bool := s.flitsIn a.uid

/-! ## The arbiter (R128, R162) -/

/-- The oldest flit of class `c` at direction `n` can cross: the queue that it enters next has room, else that queue holds its class
back (R128). -/
def State.canCross (s : State) (n c : Nat) : Bool :=
  match (s.queueAt n c).head? with
  | some f => s.roomOn f.hops.tail
  | none => false

/-- One flit crosses a direction: of the waiting classes whose oldest flit can, that with the lowest pass (R162). -/
def execLinkFlitSend (dir : Nat) (s : State) : Host.Outcome State Fault Refusal :=
  .next <|
    if 32 ≤ dir || !s.dirOpen dir then s
    else match lowestClass (s.linkDir dir).pass ((s.waitingAt dir).filter (s.canCross dir)) with
      | none => s
      | some c =>
          let s := s.crossOne dir c
          let x := s.linkDir dir
          s.setLinkDir dir { x with pass := passAfter x.pass c, sent := x.sent + 1 }

/-! ## Replay, retraining and rate steps (R438, R454) -/

/-- The last flit that a port has sent fails its check and is sent again: none is lost. -/
def execFlitReplay (port : Nat) (s : State) : Host.Outcome State Fault Refusal :=
  .next <|
    let x := s.linkDir (16 + port)
    if port < 16 && x.sent ≠ 0 && s.dirOpen (16 + port) then s.setLinkDir (16 + port) { x with replay := x.replay + 1 } else s

/-- The class passes of a direction after training. -/
def LinkDir.trained (x : LinkDir) : LinkDir := { x with pass := [] }
def State.trainDir (s : State) (n : Nat) : State := s.setLinkDir n (s.linkDir n).trained

/-- A port retrains and holds its traffic; the field book gets a record. -/
def execLinkRetrain (port : Nat) (s : State) : Host.Outcome State Fault Refusal :=
  .next <|
    let x := s.port port
    if 16 ≤ port || x.retrain then s
    else
      let s := (s.setPort port { x with retrain := true, windows := x.windows + 1 }).trainDir (16 + port)
      s.book 0x05 255 0 (BitVec.ofNat 128 port)

/-- A link steps its rate, at least 50 µs after its last step, and opens a retraining window. -/
def execLinkRateStep (link : Nat) (rate : BitVec 2) (s : State) : Host.Outcome State Fault Refusal :=
  .next <|
    let x := s.link link
    let due := match x.stepAt with | some t => t + 50000 ≤ s.time.toNat | none => true
    if 8 ≤ link || x.retrain || !due || x.rate = rate then s
    else
      let s := s.setLink link { rate := rate, retrain := true, stepAt := some s.time.toNat, windows := x.windows + 1 }
      (s.trainDir (2 * link)).trainDir (2 * link + 1)

/-- A retraining window closes and the classes flow again. -/
def execRetrainingWindowEnd (link : LinkName) (s : State) : Host.Outcome State Fault Refusal :=
  .next <|
    match link with
    | .die n => let x := s.link n; if x.retrain then s.setLink n { x with retrain := false } else s
    | .port n => let x := s.port n; if x.retrain then s.setPort n { x with retrain := false } else s

end Sys2Proof.Machine
end

