-- ==== Sys2Proof/Machine/Migration.lean ====
section
/-!
DEFINITION. Shootdowns through XINV and the migration of a page through MIGCMD (R95, R106, R142, R145, R146, R166).
-/
namespace Sys2Proof.Machine
open Sys2Proof

/-! ## What a shootdown removes (R142) -/

/-- The range of virtual addresses of an XINV value; none for a SIZE that removes nothing. -/
def xinvRange (x : W64) : Option Range :=
  let va := (x.extractLsb' 28 36).toNat * 4096
  let n := pageBytes (x.extractLsb' 24 4).toNat
  if (x.extractLsb' 24 4).toNat = 15 then some { lo := 0, hi := 2 ^ 48 }
  else if 5 < (x.extractLsb' 24 4).toNat then none
  else some { lo := va - va % n, hi := va - va % n + n }

def Range.meets (r : Range) (a n : Nat) : Bool := a < r.hi && r.lo < a + n

/-- The entries of a TLB that stay. -/
def tlbKeeps (vf : Nat) (r : Range) (l : List TlbEntry) : List TlbEntry := l.filter fun t => !(t.vf = vf && r.meets t.va t.size)

/-- An object lies in the range of a shootdown; an empty object matches by its base. -/
def Range.meetsObject (r : Range) (e : W128) : Bool := r.meets (objBase e) (max 1 (objPages e * 4096))

/-- The entries of an object cache that stay: those whose object lies outside the range as the cache has it and as the table has it
now, so that a shootdown over the old object or over the new one removes an entry (R134, R142). -/
def objectKeeps (s : State) (vf : Nat) (r : Range) (l : List ObjEntry) : List ObjEntry :=
  l.filter fun o => !(o.vf = vf && (r.meetsObject o.bits || r.meetsObject (s.objectInMemory vf o.obj)))

/-- Removes the matching entries from every TLB and object cache of the package. -/
def State.flushTlbs (s : State) (vf : Nat) (r : Range) : State :=
  let core (t : Tbl Core) (e : Nat × Core) : Tbl Core :=
    Tbl.put Core.reset t e.1 { e.2 with tlb := tlbKeeps vf r e.2.tlb, objects := objectKeeps s vf r e.2.objects }
  let pair (t : Tbl (List TlbEntry)) (e : Nat × List TlbEntry) : Tbl (List TlbEntry) := Tbl.put [] t e.1 (tlbKeeps vf r e.2)
  let die (t : Tbl Die) (e : Nat × Die) : Tbl Die := Tbl.put Die.reset t e.1 { e.2 with tlb := tlbKeeps vf r e.2.tlb }
  { s with cores := s.cores.foldl core s.cores, pairTlbs := s.pairTlbs.foldl pair s.pairTlbs, dies := s.dies.foldl die s.dies }

/-- The loads of a function's groups that have not read yet. -/
def State.unreadLoads (s : State) (vf : Nat) : List (Nat × Nat) :=
  s.groups.flatMap fun g => if (s.launchOf g).vf = vf then
      (g.pending.filter fun p => p.lanes.any fun x => match x.2 with | .memory .. => true | _ => false).map fun p => (g.uid, p.uid)
    else []

/-- A shootdown: the entries go, and what was translated through them is known (R142).
(DESIGN CHOICE, log entry 48) -/
def State.shootdown (s : State) (vf : Nat) (r : Range) : State :=
  let s := s.flushTlbs vf r
  { s with net := s.net.map fun o => if o.vf = vf && r.meets o.va 64 then { o with stale := true } else o }

def execShootdown (vf : Nat) (value : W64) (s : State) : Host.Outcome State Fault Refusal :=
  .next <|
    let v := s.vf vf
    if v.xinv.getLsbD 0 then s
    else
      let x := (value &&& 0xFFFFFFFFFF000000) ||| 1
      let s := s.setVf vf { v with xinv := x, oldLoads := s.unreadLoads vf }
      match xinvRange value with
      | some r => s.shootdown vf r
      | none => s

/-- BUSY returns to 0 once every access through a removed entry has reached its home. (DESIGN CHOICE, log entry 48) -/
def execShootdownDone (vf : Nat) (s : State) : Host.Outcome State Fault Refusal :=
  .next <|
    let v := s.vf vf
    let loads := v.oldLoads.filter fun x => (s.unreadLoads vf).contains x
    if !v.xinv.getLsbD 0 || !loads.isEmpty || s.net.any fun o => o.vf = vf && o.stale then s
    else s.setVf vf { v with xinv := v.xinv &&& ~~~1, oldLoads := [] }

/-! ## MIGCMD (R145) -/

/-- STATUS of MIGCMD. -/
def migStatus (m : W128) : Nat := (m.extractLsb' 1 2).toNat
def withStatus (m : W128) (n : Nat) : W128 := (m &&& ~~~7) ||| BitVec.ofNat 128 (n % 4 * 2)

/-- The writable fields of MIGCMD. -/
def migFields (m : W128) : W128 := m &&& ~~~(BitVec.ofNat 128 (2 ^ 37 - 1))

/-- What a MIGCMD value asks for on a page of `size` bytes. -/
def migrationOf (m : W128) (va size oldPa : Nat) (oldTgt : BitVec 2) : Migration :=
  { va := va, size := size, oldPa := oldPa, oldTgt := oldTgt, pfn := (m.extractLsb' 52 40).toNat, tgt := m.extractLsb' 50 2,
    key := (m.extractLsb' 38 12).toNat, enc := m.getLsbD 37, started := false }

/-- Whether the new place passes R137 and R138. -/
def State.migrationOk (s : State) (vf : Nat) (x : Migration) : Bool :=
  let kr := (s.vf vf).krange
  let kbase := (kr.extractLsb' 0 12).toNat
  let kcount := (kr.extractLsb' 16 13).toNat
  x.tgt ≠ 3 && x.pfn * 4096 % x.size = 0 && (x.tgt ≠ 0 || x.pfn * 4096 + x.size ≤ Config.memoryBytes)
    && (x.tgt ≠ 2 || !x.pfn.testBit 27) && (!x.enc || (kbase ≤ x.key && x.key < kbase + kcount && s.keyLoaded x.key))

/-- The slices that are home to a line of [c, c + n). -/
def homesOf (c n : Nat) : List (Nat × Nat) :=
  allSlices.filter fun y => (span 0 (min (n / 256) 65536)).any fun i => homeDie (c + 256 * i) = y.1 && homeSlice (c + 256 * i) = y.2

def Migration.oldCell (x : Migration) (s : State) : Nat := s.cellFor x.oldTgt.toNat x.oldPa
def Migration.newCell (x : Migration) (s : State) : Nat := s.cellFor x.tgt.toNat (x.pfn * 4096)

/-! ## In-flight counts (R166) -/

/-- A cell lies in the page at its old place. -/
def Migration.has (x : Migration) (s : State) (c : Nat) : Bool := x.oldCell s ≤ c && c < x.oldCell s + x.size

/-- An operation for the page that has arrived at a slice and is not applied. -/
def Migration.counts (x : Migration) (s : State) (y : Nat × Nat) (o : HomeOp) : Bool :=
  x.has s o.cell && homeDie o.cell = y.1 && homeSlice o.cell = y.2 && s.flitsIn o.uid

/-- The reads of the page at a slice whose data have not left it. -/
def Migration.reads (x : Migration) (s : State) (y : Nat × Nat) : Nat :=
  (s.groups.flatMap fun g => g.pending.flatMap fun p => p.lanes.filter fun l => match l.2 with
    | .memory c _ _ _ => x.has s c && homeDie c = y.1 && homeSlice c = y.2
    | _ => false).length

/-- The in-flight count of the page at a slice. (DEDUCED, log entry 77) -/
def State.inFlightCount (s : State) (x : Migration) (y : Nat × Nat) : Nat :=
  min 65535 ((s.net.filter (x.counts s y)).length + x.reads s y)

/-- Changes the open in-flight counts of a slice. -/
def State.mapCounts (s : State) (y : Nat × Nat) (f : List (Nat × Nat × Nat) → List (Nat × Nat × Nat)) : State :=
  let x := (s.die y.1).slice y.2
  s.setDie y.1 ((s.die y.1).setSlice y.2 { x with counts := f x.counts })

/-- The root of a function's page table. -/
def State.tableOf (s : State) (vf : Nat) : Nat := (((s.vf vf).xroot).extractLsb' 12 40).toNat * 4096

/-- Writes an entry into every place of a run, at each entry's home slice. -/
def State.writeRun (s : State) (first : Nat) (e : W64) (run : Nat) : State :=
  (span 0 run).foldl (fun s i => s.applyWrite (first + 8 * i) 0 (bytesOfNat 8 e.toNat)) s

/-- A line of an L1 belongs to the page: by its cell, or for a private line by the address of its part of the private object. -/
def State.lineInPage (s : State) (vf : Nat) (x : Migration) (y : L1Line) : Bool :=
  match y.owner with
  | none => x.oldCell s < y.line * 128 + 128 && y.line * 128 < x.oldCell s + x.size
  | some u => (s.group? u).any fun g =>
      let a := (Config.privateBase u + 128 * y.line) % 2 ^ 48
      (s.launchOf g).vf = vf && x.va < a + 128 && a < x.va + x.size

/-- The L1 lines of the page are written back where they are dirty and private, and are invalidated (R95, R145). -/
def State.dropLines (s : State) (vf : Nat) (x : Migration) : State :=
  let mine := s.lineInPage vf x
  let s := s.cores.foldl (fun s e => s.writeBackLines (e.2.l1.filter mine)) s
  { s with cores := s.cores.foldl (fun t e => Tbl.put Core.reset t e.1 { e.2 with l1 := e.2.l1.filter fun y => !mine y }) s.cores }

/-- Step 1, when every home slice of the page has a free count: the run is marked moving and a shootdown runs. -/
def State.startMigration (s : State) (vf : Nat) (x : Migration) : State :=
  let c := x.oldCell s
  let hs := homesOf c x.size
  if hs.any fun y => 16 ≤ ((s.die y.1).slice y.2).counts.length then s
  else match walk s x.va 4 (s.tableOf vf) with
    | .leaf _ first run e =>
        let e' := (e &&& ~~~0x60) ||| 0x40
        let s := s.writeRun first e' run
        let s := hs.foldl (fun s y => s.mapCounts y fun l => l ++ [(vf, x.va, s.inFlightCount x y)]) s
        let s := (s.shootdown vf { lo := x.va, hi := x.va + x.size }).dropLines vf x
        s.setVf vf { s.vf vf with migrate := some { x with started := true } }
    | _ => s

def execMigratePage (vf : Nat) (value : W128) (s : State) : Host.Outcome State Fault Refusal :=
  .next <|
    let v := s.vf vf
    let busy := v.migrate.isSome
    let keep := if busy then 1 else migStatus v.migcmd
    let s := s.setVf vf { v with migcmd := withStatus (migFields value) keep }
    if busy || !value.getLsbD 0 then s
    else
      let va := (value.extractLsb' 92 36).toNat * 4096
      let refuse (s : State) : State := s.setVf vf { s.vf vf with migcmd := withStatus (migFields value) 3 }
      match (if v.xroot.getLsbD 0 then walk s va 4 (s.tableOf vf) else .absent) with
      | .leaf _ _ _ e =>
          let n := pageBytes (pteSize e)
          let x := migrationOf value (va - va % n) n (pteBase e) (e.extractLsb' 7 2)
          if pteState e ≠ 1 || !s.migrationOk vf x then refuse s
          else (s.setVf vf { s.vf vf with migcmd := withStatus (migFields value) 1, migrate := some x }).startMigration vf x
      | _ => refuse s

/-! ## MIGRATION_COPY (R145 steps 4 to 7, R146) -/

/-- The in-flight counts follow what arrives and what is done (R166). -/
def State.refreshCounts (s : State) : State :=
  (allSlices.filter fun y => !((s.die y.1).slice y.2).counts.isEmpty).foldl (fun s y => s.mapCounts y fun l => l.map fun c =>
    match (s.vf c.1).migrate with
    | some x => if x.va = c.2.1 then (c.1, c.2.1, s.inFlightCount x y) else c
    | none => c) s

/-- Nothing that went through the old translation is on its way, and no grant entry for a tile of the page stands. -/
def State.pageQuiet (s : State) (vf : Nat) (x : Migration) : Bool :=
  let c := x.oldCell s
  let near (a n : Nat) : Bool := a < c + x.size && c < a + n
  !(s.net.any fun o => near o.cell 64)
    && !(s.groups.any fun g => g.pending.any fun p => p.lanes.any fun l => match l.2 with | .memory a n _ _ => near a n | _ => false)
    && !(allSlices.any fun y => ((s.die y.1).slice y.2).grants.any fun g => g.vf = vf && x.va ≤ g.block * 256 && g.block * 256 < x.va + x.size)

/-- Copies [a, a + n) to `b`. -/
def copyBytes (m : Tbl Byte) (a b n : Nat) : Tbl Byte :=
  let part := m.filter fun e => a ≤ e.1 && e.1 < a + n
  part.foldl (fun m e => Tbl.put 0 m (e.1 - a + b) e.2) (m.dropRange b (b + n))

/-- Poison goes with the copy (R106). -/
def copyPoison (l : List Nat) (a b n : Nat) : List Nat :=
  let part := l.filter fun x => a ≤ x * 64 && x * 64 < a + n
  (l.filter fun x => x * 64 < b || b + n ≤ x * 64) ++ part.map fun x => x - a / 64 + b / 64

/-- The copy of a page's bytes, which deciphers what the channels hold under the old key and enciphers it under the new one (R152). -/
def State.copyPage (s : State) (a b n : Nat) (old new : Seal) : State :=
  let s := (span 0 (n / 4096)).foldl (fun s i => s.rekey (a + 4096 * i) old) s
  { s with mem := copyBytes s.mem a b n, poison := copyPoison s.poison a b n,
           seals := (span 0 (n / 4096)).foldl (fun t i => Tbl.put none t (b / 4096 + i) new) s.seals }

/-- A watch of the page is registered again at its new home, or wakes its group (R146). -/
def State.moveWatch (s : State) (a b : Nat) (w : Watch) : State :=
  let w := { w with cell := w.cell - a + b }
  if watchHolds s.mem w then s.wakeFrom (homeDie w.cell) w
  else
    let (s, why) := s.addWatch w
    match s.group? w.group with
    | some g => s.setGroup { g with status := .waiting why }
    | none => s

/-- The watches on words of [a, a + n), which leave their slices. -/
def State.liftWatches (s : State) (vf a n : Nat) : State × List Watch :=
  let mine (w : Watch) : Bool := w.vf = vf && a ≤ w.cell && w.cell < a + n
  let ws := allSlices.flatMap fun y => let x := (s.die y.1).slice y.2; (x.watches ++ x.queued).filter mine
  (allSlices.foldl (fun s y =>
    let x := (s.die y.1).slice y.2
    if (x.watches ++ x.queued).any mine then
      s.setDie y.1 ((s.die y.1).setSlice y.2 { x with watches := x.watches.filter fun w => !mine w, queued := x.queued.filter fun w => !mine w })
    else s) s, ws)

/-- The new entry of the run. -/
def Migration.entry (x : Migration) (e : W64) : W64 :=
  (e &&& BitVec.ofNat 64 (2 ^ 9 + 2 ^ 10 + 2 ^ 11 + 0x1E))
    ||| BitVec.ofNat 64 (x.key * 2 ^ 52 + x.pfn * 2 ^ 12 + x.tgt.toNat * 2 ^ 7 + 2 ^ 5 + (if x.enc then 1 else 0))

/-- The copy of a page crosses from the homes of its blocks to those of the new place, as bulk traffic (R128). -/
def State.crossCopy (s : State) (a b n : Nat) : Option State :=
  crossWays clsBulk (((span 0 (min (n / 256) 65536)).map fun i => dieWay (homeDie (a + 256 * i)) (homeDie (b + 256 * i))).eraseDups) s

def execMigrationCopy (vf : Nat) (s : State) : Host.Outcome State Fault Refusal :=
  .next <|
    match (s.vf vf).migrate with
    | none => s
    | some x =>
        if !x.started then s.startMigration vf x
        else if !s.pageQuiet vf x then s
        else match s.crossCopy (x.oldCell s) (x.newCell s) x.size with
        | none => s
        | some s =>
          let (a, b) := (x.oldCell s, x.newCell s)
          let hs := homesOf a x.size
          let (s, ws) := s.liftWatches vf a x.size
          let s := match walk s x.va 4 (s.tableOf vf) with
            | .leaf _ first run e =>
                (s.copyPage a b x.size (s.sealOf (pteEnc e) (pteKey e)) (s.sealOf x.enc x.key)).writeRun first (x.entry e) run
            | _ => s
          let s := s.shootdown vf { lo := x.va, hi := x.va + x.size }
          let s := hs.foldl (fun s y => s.mapCounts y fun l => l.filter fun e => !(e.1 = vf && e.2.1 = x.va)) s
          let s := s.setVf vf { s.vf vf with migrate := none, migcmd := withStatus (s.vf vf).migcmd 2 }
          ws.foldl (fun s w => s.moveWatch a b w) s

end Sys2Proof.Machine
end

