-- ==== Sys2Proof/Machine/Homes.lean ====
section
/-!
DEFINITION. What a home slice does with an operation that reaches it, the return of its acknowledgement, and the watch table
(R52, R54, R106, R128, R157, R158, R166, R292, R297, R298, R395, R401, R427, R432).
-/
namespace Sys2Proof.Machine
open Sys2Proof

/-! ## HOME_SLICE_WRITE -/

def HomeOp.isAtomic (o : HomeOp) : Bool := match o.kind with | .atomic .. => true | _ => false

/-- Whether operation `o` stays behind an earlier operation `a`: of the same sender where their bytes meet (R395, R401), or
an atomic of the same slot at the same slice (R292). (DEDUCED, log entry 33) -/
def HomeOp.after (o a : HomeOp) : Bool :=
  decide (a.sender = o.sender) && ((a.cell < o.cell + o.size && o.cell < a.cell + a.size)
    || (a.isAtomic && o.isAtomic && decide (a.clause = o.clause) && a.slot = o.slot && a.home = o.home
      && homeSlice a.cell = homeSlice o.cell))

/-- The core whose L1 follows an operation of its own group (R93). -/
def State.senderCore (s : State) : Sender → Option Nat
  | .group g => (s.group? g).map fun g => g.core
  | _ => none

/-- The answer of an atomic reaches the lane that waits for it. -/
def Group.answer (g : Group) (pend lane : Nat) (src : LaneSource) : Group :=
  { g with pending := g.pending.map fun p =>
      if p.uid = pend then { p with lanes := p.lanes.map fun x => if x.1 = lane then (lane, src) else x } else p }

/-- The directions from the home of an operation back to its sender. -/
def State.wayBack (s : State) (o : HomeOp) : List Nat :=
  if s.remote o.cell then fromControl o.fromDie else dieWay o.home o.fromDie

/-- Hands the answer of an operation to its group, over the links as control traffic when it comes from another die and `linked` holds
(R128). -/
def State.answer (s : State) (o : HomeOp) (src : LaneSource) (linked : Bool) : State :=
  match o.kind with
  | .atomic _ _ _ _ (some (g, pend)) => (match s.group? g with
      | some x =>
          let s := s.setGroup (x.answer pend o.lane src)
          if linked then s.sendFlit pend (inClass clsControl (s.wayBack o)) else s
      | none => s)
  | _ => s

/-- The acknowledgement of an operation; `error` for an error completion of its home.  One of another package comes in
through the control die. -/
def State.ackOf (s : State) (o : HomeOp) (error : Bool) : Ack :=
  { sender := o.sender, error := error, rank := if s.remote o.cell then 4 else o.home, lane := o.lane, va := o.va, clause := o.clause, slot := o.slot }

/-- The L1 line of the sending core follows an operation that its home has applied, under the stores of that core that are still on
their way and whose data the line holds (R93, R401). -/
def State.l1Follows (s : State) (o : HomeOp) : State :=
  match s.senderCore o.sender with
  | none => s
  | some n =>
      let later := s.net.filter fun x => x.early && x.meets o.cell o.size && s.senderCore x.sender = some n
      later.foldl (fun s x => match x.kind with | .write bs => s.updateL1 n x.cell bs | .atomic .. => s)
        (s.updateL1 n o.cell (Memory.readN s.mem o.cell o.size))

/-- The command of an engine ends with a fault of something that it sent, unless it has already failed. -/
def State.sentFails (s : State) (e : EngineRef) (f : FaultInfo) : State :=
  match (s.engine e).busy with
  | some b => if b.held.isSome then s else s.engineFails e b f [QEntry.ofScalar (BitVec.ofNat 64 (2 ^ 63 + f.code))] false
  | none => s

/-- An atomic consumes poisoned data: it changes nothing, and the data-poison fault reaches the lane that waits for its answer, or
else its sender after the slot (R106, R427). -/
def State.poisonedAtomic (s : State) (o : HomeOp) (f : FaultInfo) : State :=
  match o.kind, o.sender with
  | .atomic _ _ _ _ (some _), _ => s.answer o (.failed f) true
  | _, .group u => (match s.group? u with
      | some g => s.dataFault g f o.clause o.slot
      | none => s)
  | _, .engine e => s.sentFails e f
  | _, _ => s

/-- An operation takes effect at its home slice. -/
def State.applyHome (s : State) (o : HomeOp) : State :=
  match o.kind with
  | .write bs => (s.applyWrite o.cell o.hint bs).l1Follows o
  | .atomic t op v cmp _ =>
      match s.badData o.cell o.size o.lane o.va with
      | some f => s.poisonedAtomic o f
      | none =>
          let (s, old) := s.applyAtomic o.cell t op v cmp
          (s.l1Follows o).answer o (.value [extendLoad t old]) true

/-- An operation is answered with an error completion, which crosses no link of the dead die (R432). -/
def State.refuseHome (s : State) (o : HomeOp) : State :=
  let s := { s with flits := s.flits.filter fun f => f.uid ≠ o.uid }
  let s := s.answer o (.failed (dieError o.home 1 o.lane o.va)) false
  if !o.counted then s
  else
    let (s, u) := s.fresh
    { s with acks := s.acks ++ [{ s.ackOf o true with uid := u }] }

/-- The operation at place `n` of the network has to wait at its slice for an in-flight count that is full (R166). -/
def State.countFull (s : State) (n : Nat) (o : HomeOp) : Bool :=
  match (s.vf o.vf).migrate with
  | some x => x.started && x.has s o.cell && 65535 ≤ ((s.net.take n).filter fun a => x.counts s (homeDie o.cell, homeSlice o.cell) a).length
  | none => false

/-- (DEDUCED, log entry 33) -/
def execHomeSliceWrite (n : Nat) (s : State) : Host.Outcome State Fault Refusal :=
  .next <|
    match s.net[n]? with
    | none => s
    | some o =>
        if (s.net.take n).any o.after || !(s.deadHome o.cell || s.arrived o) || s.countFull n o then s
        else
          let s := { s with net := s.net.eraseIdx n }
          if s.deadHome o.cell then s.refuseHome o
          else
            let s := s.applyHome o
            if o.counted then s.sendAck (s.ackOf o false) o.fromDie else s

/-! ## ACK_RETURN (R157, R427) -/

/-- The fault of a write that was answered in error: its group takes it at its next release at package scope or wider, or at
its EXIT. -/
def Ack.late (a : Ack) : LateFault :=
  { info := dieError a.rank 2 a.lane a.va, posted := none, clause := a.clause, slot := a.slot, queue := none, sem := none,
    atBoundary := false, atRelease := true, matrix := false }

/-- A group's count falls by one, whatever the answer. -/
def State.lowerAcks (s : State) (u : Nat) (a : Ack) : State :=
  match s.group? u with
  | none => s
  | some g => s.setGroup { g with acks := g.acks - 1, late := if a.error then g.late ++ [a.late] else g.late }

/-- An acknowledgement reaches what sent the write; at a parcel whose count of log writes was full, the next one goes (R158). -/
def State.takeAck (s : State) (a : Ack) : State :=
  match a.sender with
  | .group u => s.lowerAcks u a
  | .parcel u => (match s.parcel? u with
      | some p => match p.logDue with
        | [] => s.setParcel { p with logAcks := p.logAcks - 1 }
        | r :: rs => (s.setParcel { p with logDue := rs }).sendAck (p.logAck r) (p.core / 48)
      | none => s)
  | .card u => (match s.card? u with
      | some c =>
          let c := { c with acks := c.acks - 1 }
          if a.error then (match c.state with
            | .acks => s.cardFails c (dieError a.rank 2 a.lane a.va)
            | _ => s.setCard c)
          else s.setCard c
      | none => s)
  | .engine e => if a.error then s.sentFails e (dieError a.rank 2 a.lane a.va) else s
  | .matrix u op =>
      let s := s.lowerAcks u { a with error := false }
      let lower (p : Pair) : Pair := { p with ops := p.ops.map fun o => if o.uid = op then { o with acks := o.acks - 1 } else o }
      match s.pairs.find? fun e => e.2.ops.any fun o => o.uid = op with
      | some e => s.setPair e.1 (lower e.2)
      | none => s

def execAckReturn (n : Nat) (s : State) : Host.Outcome State Fault Refusal :=
  .next <|
    match s.acks[n]? with
    | none => s
    | some a => if s.ackArrived a then { s with acks := s.acks.eraseIdx n }.takeAck a else s

/-! ## WATCH_TABLE_RETRY (R298) -/

/-- The oldest WAITC that waits at a slice compares again once a watch is free, and registers one when the comparison still
fails. -/
def execWatchTableRetry (die slice : Nat) (s : State) : Host.Outcome State Fault Refusal :=
  .next <|
    let d := s.die die
    let x := d.slice slice
    match x.queued with
    | [] => s
    | w :: ws =>
        if 1024 ≤ x.watches.length then s
        else
          let s' := s.setDie die (d.setSlice slice { x with queued := ws })
          if watchHolds s.mem w then s'.wakeFrom die w
          else
            let s := s.setDie die (d.setSlice slice { x with queued := ws, watches := x.watches ++ [w] })
            match s.group? w.group with
            | some g => s.setGroup { g with status := .waiting .watch }
            | none => s

end Sys2Proof.Machine
end

