-- ==== Sys2Proof/Machine/Moves.lean ====
section
/-!
DEFINITION. The slot that a group fetches next, and a slot word placed where it is fetched.
-/
namespace Sys2Proof.Machine
open Sys2Proof

/-- The `k`-th element moved to the front. -/
def toFront (k : Nat) (l : List Nat) : List Nat := (l.drop k).take 1 ++ l.take k ++ l.drop (k + 1)

/-- The slot word and the bits before it that the executing group reads next. -/
def Ctx.fetched (c : Ctx) : Option (Nat × W32 × W64) := c.r.words[c.r.idx]?

/-- The instruction of a fetched slot. -/
def fetchedInstr (x : Nat × W32 × W64) : Except Nat Instr :=
  match decodePfx x.2.1 with
  | none => .error 5
  | some p => decodeSlot p x.2.2

/-- The illegal-instruction fault of a slot word (R218, R425). -/
def illegalSlot (cause : Nat) (w : W64) : FaultInfo := .mk' 0x0001 cause 0 w.toNat

/-! ## A slot word to execute -/

/-- The group that a slot word placed in an empty package runs in: eight lanes, 256 registers per lane. -/
def wordGroup (u : Nat) (p : Nat) : Group :=
  { Group.blank with uid := u, parcel := p, launched := 0xFF, allot := 256, p0 := some (Path.at 0 0xFF none 0) }

def wordRun (u : Nat) (w : W64) : ClauseRun :=
  { id := u, path := .s0, clause := 0, header := place (BitVec.ofNat 4 (opClass (w.extractLsb' 56 8))) 4, words := [(0, 0, w)],
    idx := 0, latches := [], valid := 0, leaving := none, woken := false, noMatch := false }

/-- The state in which the slot word `w` is the next that a group executes: it replaces the next slot of the group that is
about to execute one, or a group of a parcel of its own executes it. (DESIGN CHOICE, log entry 3) -/
def State.withSlot (s : State) (w : W64) : State :=
  match s.running with
  | some c =>
      let r := { c.r with words := c.r.words.take c.r.idx ++ [(c.r.idx, 0, w)], leaving := none }
      { s.setGroup { c.g with run := some r } with agenda := [], turns := [] }
  | none =>
      let u := s.uid
      let l : Launch := { Launch.blank with uid := u }
      let p : Parcel := { Parcel.blank with uid := u + 1, launch := u }
      let g : Group := { wordGroup (u + 2) (u + 1) with run := some (wordRun (u + 3) w) }
      { s with uid := u + 4, agenda := [], turns := [], launches := s.launches ++ [l], parcels := s.parcels ++ [p],
               groups := s.groups ++ [g], active := (u + 2) :: s.active }

end Sys2Proof.Machine
end

