-- ==== Sys2Proof/Machine/Issue.lean ====
section
/-!
DEFINITION. The issue of clauses, the limits on quanta and allowances, the end of waits, and the results of loads and special
functions (R26, R34 to R37, R50, R51, R104, R111, R163, R193, R197 to R201, R218, R219, R263, R281, R320, R414, R416, R427).
-/
namespace Sys2Proof.Machine
open Sys2Proof

/-! ## Fetch and decode (R104, R198, R218, R219) -/

/-- Whether a loop buffer holds the body in which a path stands. -/
def LoopBuffer.serves (b : LoopBuffer) (text vf : Nat) (pc : W32) : Bool :=
  b.text = text && b.vf = vf && b.first.toNat ≤ pc.toNat && pc.toNat ≤ b.last.toNat

/-- The header and the slots of the clause at `pc`. -/
def State.fetchClause (s : State) (g : Group) (pc : W32) : State × Except Stop (W64 × List W64) :=
  let l := s.launchOf g
  let buffered := (s.core g.core).loop.bind fun b => if b.serves l.text l.vf pc then some b else none
  match buffered with
  | some b =>
      let h := Tbl.get 0 b.words pc.toNat
      (s, .ok (h, (span (pc.toNat + 1) (clauseLength h)).map fun o => Tbl.get 0 b.words o))
  | none =>
      match fetchWords g.core l.vf l.text l 1 pc.toNat s with
      | (s, .error x) => (s, .error x)
      | (s, .ok hs) =>
          let h := hs.headD 0
          match fetchWords g.core l.vf l.text l (clauseLength h) (pc.toNat + 1) s with
          | (s, .error x) => (s, .error x)
          | (s, .ok ws) => (s, .ok (h, ws))

/-- The illegal-instruction fault of a clause. -/
def badClauseFault (b : BadClause) : FaultInfo := illegalSlot b.cause b.word

/-- The 32 bits that stand before the instruction slot at `pos`: the half of a prefix slot that reaches it. -/
def prefixOf (h : Header) (ws : List W64) (pos : Nat) : W32 :=
  let halves := (span 0 ws.length).filter h.pfx.getLsbD |>.flatMap fun i => [(i, 0), (i, 1)]
  match halves.find? fun x => nthInstr h.pfx ws.length (x.1 + 1) x.2 = some pos && (ws.getD x.1 0).extractLsb' (32 * x.2) 32 ≠ 0 with
  | some x => (ws.getD x.1 0).extractLsb' (32 * x.2) 32
  | none => 0

/-- The instruction slots of a clause with the bits before each. -/
def slotWords (h : Header) (ws : List W64) : List (Nat × W32 × W64) :=
  ((span 0 ws.length).filter fun i => !h.pfx.getLsbD i).map fun i => (i, prefixOf h ws i, ws.getD i 0)

/-! ## Header waits (R110, R200) -/

/-- Whether a binding is ready. -/
def Group.queueReady (g : Group) (q : Nat) : Bool :=
  let x := g.queue q
  if bindOut x.binding then !x.entries.isEmpty else x.entries.length < Config.queueDepth

/-- The first queue of WQ that is not bound. -/
def Group.unboundWait (g : Group) (h : Header) : Option Nat :=
  (span 0 16).find? fun q => h.wq.getLsbD q && !bindValid (g.queue q).binding

/-- The waits of a header for queues and for loads hold; a wait that raises a fault does not hold the clause back. -/
def Group.queuesHold (g : Group) (h : Header) : Bool :=
  ((span 0 16).all fun q => !h.wq.getLsbD q || !bindValid (g.queue q).binding || g.queueReady q) && g.loads ≤ h.wld.toNat

/-- Whether all header waits of a clause hold now; a wait that raises a fault, or that a fault of a card ends
(R313), does not hold the clause back. -/
def State.waitsHold (s : State) (g : Group) (h : Header) : Bool :=
  g.queuesHold h
    && (h.wsem = 0 || (s.launchOf g).hdr.sems < h.wsem.toNat || semReached (s.sem g.parcel (h.wsem.toNat - 1)) || (g.lateSem (h.wsem.toNat - 1)).isSome)

/-! ## Candidates (R34, R36, R37, R193, R416) -/

/-- Whether the state of a parcel lets a path issue. -/
def Parcel.lets (p : Parcel) (r : Routine) : Bool :=
  match p.state, r with
  | .running, .saved => false
  | .running, _ => true
  | .saving _, .none => true
  | .saveRoutines _, .save => true
  | _, _ => false

/-- A live path that issues once its header waits hold. -/
def State.candidate (s : State) (g : Group) (p : Path) : Bool :=
  g.status = .ready && g.run.isNone && g.claim.isNone && !(g.pending.any fun x => x.hold) && (s.parcelOf g).lets p.routine
    && (p.safe.isNone || p.routine ≠ .none) && !(s.die (g.core / 48)).held && s.coreOn g.core

/-- What holds the clause at a candidate's pc at its header, as GSTAT has it: nothing, a queue or a load, or a semaphore. -/
def State.headerState (s : State) (g : Group) (p : Path) : Option Nat :=
  if !s.candidate g p then none
  else match (s.fetchClause g p.pc).2 with
    | .ok (w, _) =>
        let h := Header.ofWord w
        some (if s.waitsHold g h then 0 else if g.queuesHold h then 2 else 1)
    | .error _ => none

/-- Whether the clause at a path's pc passes its decoding and its waits. -/
def State.readyNow (s : State) (g : Group) (p : Path) : Bool := s.headerState g p = some 0

/-- Notes the paths whose header waits hold in this cycle (R34, R200). -/
def State.noteReady (s : State) : State :=
  let note (g : Group) (p : Path) : Path :=
    if p.ready.isSome then p
    else match s.headerState g p with
      | some 0 => { p with ready := some s.cycles, waits := 0 }
      | some n => { p with waits := n }
      | none => p
  { s with groups := s.groups.map fun g => { g with p0 := g.p0.map (note g), p1 := g.p1.map (note g) } }

/-- The other path of a group waits for its turn: when both are ready, they issue in alternation (R37).
(DEDUCED, log entry 16) -/
def Group.outOfTurn (g : Group) (k : PathSlot) : Bool :=
  g.last = k && match g.path? (otherSlot k) with
    | some q => q.ready.isSome
    | none => false

/-! ## The two issue slots of a core (R34, R35, R414) -/

/-- A path as a candidate: its group and slot, whether it is aged, its class, and since when it is ready. -/
structure Candidate where
  group : Nat
  slot  : PathSlot
  aged  : Bool
  prio  : Nat
  ready : Option Nat
  deriving DecidableEq, Repr

/-- The order of selection (R34, R414): aged ones, then the highest class, then the longest ready. -/
def Candidate.before (a b : Candidate) : Bool :=
  match a.ready, b.ready with
  | some x, some y => if a.aged || b.aged then a.aged && (!b.aged || x < y) else b.prio < a.prio || (a.prio = b.prio && x < y)
  | some _, none => true
  | none, _ => false

/-- A path as a candidate: one that has been ready for 256 cycles is aged (R414). -/
def State.candidateOf (s : State) (g : Group) (k : PathSlot) (p : Path) : Candidate :=
  { group := g.uid, slot := k, aged := p.aged || (p.ready.any fun t => t + 256 ≤ s.cycles), prio := g.prio.toNat, ready := p.ready }

/-- A path has issued 256 clauses since its last quantum end: nothing of its group issues before that quantum has ended (R50, R51). -/
def Group.atLimit (g : Group) : Bool := [g.p0, g.p1].any fun p => p.any fun p => 256 ≤ p.qcnt

/-- Whether the engine of the pair keeps a matrix clause from issuing: it is being reset, or a pair operation runs, on the
follower (R321, R431). -/
def State.arrayBusy (s : State) (g : Group) : Bool :=
  let p := s.pair (g.core / 2)
  p.reset || (g.core % 2 = 1 && p.ops.any fun o => o.kind.isPair && o.started.isSome)

/-- The header at a path's pc is that of a matrix clause. -/
def State.matrixClause (s : State) (g : Group) (p : Path) : Bool :=
  match (s.fetchClause g p.pc).2 with
  | .ok (h, _) => (Header.ofWord h).cls = 5
  | .error _ => false

/-- A path that an issue slot may select now. -/
def State.selectable (s : State) (g : Group) (k : PathSlot) (p : Path) : Bool :=
  p.ready.isSome && s.candidate g p && !g.outOfTurn k && !g.atLimit && !(s.arrayBusy g && s.matrixClause g p)

/-- The paths of a core that its issue slots may select, each with the address of its clause: function, code object and pc. -/
def State.selectables (s : State) (core : Nat) : List (Candidate × Nat × Nat × W32) :=
  (s.groups.filter fun g => g.core = core).flatMap fun g =>
    let l := s.launchOf g
    let of (k : PathSlot) (p : Option Path) : List (Candidate × Nat × Nat × W32) :=
      match p with
      | some p => if s.selectable g k p then [(s.candidateOf g k p, l.vf, l.text, p.pc)] else []
      | none => []
    of .s0 g.p0 ++ of .s1 g.p1

/-- The clauses that hold the issue slots of a core, those of its groups that are inside one and not blocked: their address, their
width and whether they have not begun. -/
def State.issuing (s : State) (core : Nat) : List ((Nat × Nat × W32) × Nat × Bool) :=
  s.groups.filterMap fun g => match g.run with
    | some r => if g.core = core && g.status = .ready then some (((s.launchOf g).vf, (s.launchOf g).text, r.clause), g.width, r.idx = 0) else none
    | none => none

def packedWidth (l : List ((Nat × Nat × W32) × Nat × Bool)) : Nat := (l.map fun x => x.2.1).foldl (· + ·) 0

/-- The issue slots in use: those at one address share slots of 64 lanes. -/
def slotsUsed (l : List ((Nat × Nat × W32) × Nat × Bool)) : Nat :=
  ((l.map fun x => x.1).eraseDups.map fun a => (packedWidth (l.filter fun x => x.1 = a) + 63) / 64).foldl (· + ·) 0

/-- An issue slot takes a path now: it is packed into a slot that has just taken its clause, with none older to be packed there, or a
slot is free and none comes before it. (DESIGN CHOICE, log entry 74) -/
def State.slotTakes (s : State) (g : Group) (k : PathSlot) (p : Path) : Bool :=
  let l := s.launchOf g
  let me := s.candidateOf g k p
  let addr := (l.vf, l.text, p.pc)
  let busy := s.issuing g.core
  let here := busy.filter fun x => x.1 = addr
  let others := (s.selectables g.core).filter fun x => !(x.1.group = g.uid)
  if !here.isEmpty && (here.all fun x => x.2.2) && packedWidth here + g.width ≤ 64 then
    !(others.any fun x => x.2 = addr && match x.1.ready, me.ready with | some a, some b => a < b | some _, none => true | _, _ => false)
  else slotsUsed busy < 2 && !(others.any fun x => x.1.before me)

/-! ## Safe points (R201, R227, R416) -/

/-- The entry of safe point `n` of a kernel, when it is defined. -/
def Kernel.safePoint (k : Kernel) (n : Nat) : Option (W32 × W32 × Nat) :=
  if n = 0 then none else (k.safe[n - 1]?).bind fun e => if e.1 = 0xFFFFFFFF then none else some e

/-- What keeps a path from stopping at a safe point: a declaration, a claim, or a queue that is not empty. -/
def Group.runsOn (g : Group) : Bool := g.decl.isSome || g.claim.isSome || g.queues.any fun e => !e.2.entries.isEmpty

/-- A group that sleeps in the first slot of the clause of path `k` stands at its start (R298, R320). -/
def Group.sleepsAtStart (g : Group) (k : PathSlot) : Bool :=
  match g.run with
  | some r => r.path = k && r.idx = 0 && (match g.status with
      | .waiting .watch | .waiting (.watchTable ..) | .waiting (.time _) => true
      | _ => false)
  | none => false

/-- Whether a path of a parcel that is being saved stops at its clause now, and at which safe point. -/
def State.stopsAt (s : State) (g : Group) (k : PathSlot) (p : Path) : Option Nat :=
  match (s.parcelOf g).state, p.routine with
  | .saving _, .none =>
      if p.safe.isSome || g.runsOn || !((g.status = .ready && g.run.isNone) || g.sleepsAtStart k) then none
      else match (s.fetchClause g p.pc).2 with
        | .ok (h, _) =>
            let n := (Header.ofWord h).safe.toNat
            if ((s.launchOf g).hdr.safePoint n).isSome then some n else none
        | .error _ => none
  | _, _ => none

/-- A path stops at its safe point; a sleep in the clause is given up. -/
def State.stopPath (s : State) (g : Group) (k : PathSlot) (p : Path) (n : Nat) : State :=
  let g := g.setPath k (some { p with safe := some n, home := p.pc, ready := none, aged := false, waits := 0 })
  if g.run.isSome then (s.setGroup { g with run := none, status := .ready }).forgetGroups fun u => u = g.uid else s.setGroup g

/-! ## CLAUSE_ISSUE (R200) -/

/-- A stop outside a clause: the path goes on waiting, the group parks or faults, or its parcel aborts. -/
def State.stopBetween (s : State) (g : Group) (pc : W32) (st : Stop) : State :=
  match st with
  | .block _ => s.setGroup g
  | .park f => s.parkGroup g f pc 0
  | .trap f => s.takeFault g f pc 0
  | .late f => s.takeLate g f
  | .abort t => (s.setGroup g).abortParcel g.parcel t

/-- The group begins its clause. -/
def State.beginClause (s : State) (g : Group) (k : PathSlot) (p : Path) (h : W64) (ws : List W64) : State :=
  let (s, u) := s.fresh
  let g := g.setPath k (some { p with qcnt := p.qcnt + 1, ready := none, aged := false, waits := 0 })
  let r : ClauseRun := { id := u, path := k, clause := p.pc, header := h, words := slotWords (Header.ofWord h) ws, idx := 0, latches := [],
                         valid := 0, leaving := none, woken := false, noMatch := false }
  { s.setGroup { g with run := some r } with active := s.active ++ [g.uid] }

/-- The semaphore wait of a header: the quantum ends, a fault of a card that waits for this semaphore is taken, and the wait
acquires at package scope (R50, R200, R302, R313). -/
def State.headerSem (s : State) (g : Group) (k : PathSlot) (h : Header) : Act :=
  if h.wsem = 0 then .ok s g
  else
    let n := h.wsem.toNat - 1
    if (s.launchOf g).hdr.sems ≤ n then .stop s g (.trap (illegalOperand 5 13 h.wsem.toNat))
    else match s.quantumEnd g k with
      | .stop s g x => .stop s g x
      | .ok s g =>
          match g.lateSem n with
          | some f => .stop s { g with late := g.late.filter fun x => x ≠ f } (.late f)
          | none => .ok (s.acquire g 6) g

/-- The faults that the waits raise, and what a matrix clause takes first (R194, R200). -/
def Group.headerFault (g : Group) (h : Header) : Option Stop :=
  match g.unboundWait h with
  | some q => some (.trap (queueBinding q (g.queue q).binding))
  | none => if h.cls = 5 then g.lateMatrix.map Stop.late else none

/-- Issues the clause at a path's pc, which has been fetched. -/
def State.issueClause (s : State) (g : Group) (k : PathSlot) (p : Path) (w : W64) (ws : List W64) : State :=
  let h := Header.ofWord w
  match decodeClause (s.launchOf g).hdr.safe.length w ws with
  | .error b => s.takeFault g (badClauseFault b) p.pc b.pos
  | .ok _ =>
      if !(p.ready.isSome || s.waitsHold g h) || g.outOfTurn k || g.atLimit || (h.cls = 5 && s.arrayBusy g) || !s.slotTakes g k p then s.setGroup g
      else match g.headerFault h with
        | some x =>
            let g := match x with | .late f => { g with late := g.late.filter fun y => y ≠ f } | _ => g
            s.stopBetween g p.pc x
        | none =>
            match s.headerSem g k h with
            | .stop s g x => s.stopBetween g p.pc x
            | .ok s g => s.beginClause g k ((g.path? k).getD p) w ws

def execClauseIssue (g : Nat) (p : PathSlot) (s : State) : Host.Outcome State Fault Refusal :=
  .next <|
    match s.group? g with
    | none => s
    | some x => match x.path? p with
      | none => s
      | some q =>
          match s.stopsAt x p q with
          | some n => s.stopPath x p q n
          | none =>
              if !s.candidate x q then s
              else match s.fetchClause x q.pc with
                | (s, .error y) => s.stopBetween x q.pc y
                | (s, .ok (w, ws)) => s.issueClause x p q w ws

/-! ## QUANTUM_CLAUSE_LIMIT, ALLOWANCE_EXPIRY, CANDIDATE_AGED -/
/-- (DEDUCED, log entry 32) -/
def execQuantumClauseLimit (g : Nat) (p : PathSlot) (s : State) : Host.Outcome State Fault Refusal :=
  .next <|
    match s.group? g with
    | none => s
    | some x => match x.path? p with
      | none => s
      | some q =>
          if x.status = .ready && x.run.isNone && 256 ≤ q.qcnt then
            match s.quantumEnd x p with
            | .ok s x => s.setGroup x
            | .stop s x y => s.stopBetween x q.pc y
          else s

/-- Whether an abort trigger still counts: retirement has not begun (R26). -/
def Parcel.abortable (p : Parcel) : Bool :=
  match p.state with
  | .running | .saving _ | .saveRoutines _ | .retiring 1 => true
  | _ => false

def execAllowanceExpiry (parcel : Nat) (s : State) : Host.Outcome State Fault Refusal :=
  .next <|
    match s.parcel? parcel with
    | none => s
    | some p =>
        let k := (s.launchFor p).hdr
        if k.sub && p.abortable && p.due then s.abortParcel parcel 4 else s

def execCandidateAged (g : Nat) (p : PathSlot) (s : State) : Host.Outcome State Fault Refusal :=
  .next <|
    match s.group? g with
    | none => s
    | some x => match x.path? p with
      | none => s
      | some q =>
          match q.ready with
          | some t => if t + 256 ≤ s.cycles && s.candidate x q then s.setGroup (x.setPath p (some { q with aged := true })) else s
          | none => s

/-! ## Waits that are over (R111, R263, R273, R281) -/

/-- Whether what a slot waits for may have come: then the slot runs again, and blocks again when it has not.  The sleeps of
WAITC and SLEEPT end by their own events. -/
def State.waitOver (s : State) (g : Group) (w : Wait) : Bool :=
  let q (n : Nat) : LaunchQueue := (s.vf (s.launchOf g).vf).queue n
  match w with
  | .queue n => g.queueReady n || g.late.any fun f => f.queue = some n
  | .claim => g.claim.isNone && g.granted = 0
  | .tiles h => !s.handleBusy (s.parcelOf g) h
  | .array => let p := s.pair (g.core / 2); !p.reset && (p.owner.isNone || p.owner = some g.parcel)
  | .ring n => (q n).hasRoom
  | .scheduler => ((s.pair (g.core / 2)).cards.filter Card.live).length < 64
  | .phase pkg n p => (s.phaser g pkg n).phase ≠ p
  | .phaser pkg n p => (s.phaser g pkg n).passed p
  | .semaphore n => semReached (s.sem g.parcel n) || (g.lateSem n).isSome
  | .grants => match g.decl with
      | some d => (match d.submitted with | some u => d.fault.isSome || s.granted u | none => true)
      | none => true
  | .waking u => s.flitsIn u
  | .write | .loads | .operations | .acks | .moving | .link => true
  | .watchTable .. | .watch | .time _ => false

/-- A group that a wake has reached goes on past its wait; another runs its slot again. -/
def Wait.isWake : Wait → Bool | .waking _ => true | _ => false

def execBlockedSlotResume (g : Nat) (s : State) : Host.Outcome State Fault Refusal :=
  .next <|
    match s.group? g with
    | none => s
    | some x => match x.status with
      | .waiting w => if s.coreOn x.core && s.waitOver x w then s.wake g w.isWake else s
      | _ => s

def execSleeptWake (g : Nat) (s : State) : Host.Outcome State Fault Refusal :=
  .next <|
    match s.group? g with
    | none => s
    | some x => match x.status with
      | .waiting (.time t) => if s.coreOn x.core && t ≤ s.time then s.wake g true else s
      | _ => s

/-! ## LOAD_RESULT, SFU_RESULT (R263, R281, R427) -/

/-- Whether a lane's data can return: they have crossed the links; no operation that comes before the lane's later accesses is on its
way to the same bytes (R400, R401), nor a store of another group that the L1 shows early (R404); and no older load of the lane from
the same bytes is outstanding. -/
def State.laneArrives (s : State) (g : Group) (p : Pending) (older : List Pending) (x : Nat × LaneSource) : Bool :=
  match x.2 with
  | .home => false
  | .memory c n _ _ =>
      (s.flitsIn p.uid || s.deadHome c)
        && !(s.net.any fun o => o.sender = .group g.uid && o.seen.getLsbD x.1 && o.meets c n)
        && !s.earlyBeside g c n && !(older.any fun q => q.reads x.1 c n)
  | .reservoir _ d _ => s.flitsIn p.uid || (s.die d).held
  | .value _ | .failed _ => s.flitsIn p.uid

/-- A lane that reads a store of its group in its L1 line while the store is on its way comes after it (R401). -/
def State.noteSeen (s : State) (g : Group) (lane c n : Nat) : State :=
  let mine (o : HomeOp) : Bool := o.early && decide (o.sender = .group g.uid) && o.meets c n
  if s.net.any mine && s.inL1 g.core c then
    { s with net := s.net.map fun o => if mine o then { o with seen := o.seen ||| bit64 lane } else o }
  else s

/-- What a lane receives: its words, or the fault of poisoned data. -/
def State.laneData (s : State) (g : Group) (p : Pending) (x : Nat × LaneSource) : State × Except FaultInfo (List W64) :=
  match x.2 with
  | .value ws => (s, .ok ws)
  | .failed f => (s, .error f)
  | .home => (s, .ok [])
  | .reservoir vf d b =>
      if (s.die d).held then (s, .error (dieError d 1 x.1))
      else if s.rsvPoisoned d vf b then (s, .error (poisonFault 4 x.1 0)) else (s, .ok (quadWords (natOfBytes (s.rsvBytes d vf b))))
  | .memory c n va fwd =>
      match if fwd.length < n then s.badCached g.core c n x.1 va else none with
      | some bad => (s, .error bad)
      | none =>
        let (s, bs) := (s.noteSeen g x.1 c n).readCached g.core c n p.hint
        (s, .ok [extendLoad p.ty (natOfBytes (patchBytes bs fwd))])

def lanesData (g : Group) (p : Pending) : State → List (Nat × LaneSource) → State × List (Nat × Except FaultInfo (List W64))
  | s, [] => (s, [])
  | s, x :: xs =>
      let (s, y) := s.laneData g p x
      let (s, ys) := lanesData g p s xs
      (s, (x.1, y) :: ys)

/-- The lanes that received data, with their words. -/
def goodLanes (r : List (Nat × Except FaultInfo (List W64))) : List (Nat × List W64) :=
  r.filterMap fun x => match x.2 with | .ok ws => some (x.1, ws) | .error _ => none

/-- The lanes whose destination a pending write reaches, with what it writes there: its data, or zero under the zero policy. -/
def Pending.writes (p : Pending) (ls : List (Nat × List W64)) : List (Nat × List W64) :=
  (ls.filter fun x => !p.keeps.getLsbD x.1).map fun x => if p.zeros.getLsbD x.1 then (x.1, []) else x

/-- The destination of a pending write receives its data. -/
def Group.receive (g : Group) (p : Pending) (ls : List (Nat × List W64)) : Group :=
  match p.dst with
  | .vregs r n => (p.writes ls).foldl (fun g x => (span 0 n).foldl (fun g i => g.setVreg (r + i) x.1 (x.2.getD i 0)) g) g
  | .sreg r => match ls.head? with | some x => g.setSreg r (x.2.headD 0) | none => g
  | .queue q =>
      let m := ls.foldl (fun a x => a ||| bit64 x.1) 0
      let val (l : Nat) : W64 := ((ls.find? fun x => x.1 = l).bind fun x => x.2.head?).getD 0
      g.pushEntry q { QEntry.ofLanes m val with clause := p.clause, slot := p.slot }
  | .nothing => g

/-- The latch of the slot receives its data, while its clause still runs (R67). -/
def Group.receiveLatch (g : Group) (p : Pending) (ls : List (Nat × List W64)) : Group :=
  match g.run, p.latch with
  | some r, some i =>
      if r.id ≠ p.run then g
      else
        let t := if p.one then
            let x := (ls.head?.bind fun x => x.2.head?).getD 0
            (span 0 g.width).foldl (fun t l => Tbl.put 0 t l x) []
          else ls.foldl (fun t x => Tbl.put 0 t x.1 (x.2.headD 0)) (Tbl.get [] r.latches i)
        { g with run := some { r with latches := Tbl.put [] r.latches i t } }
  | _, _ => g

/-- A group that waits to stop does so when nothing of it is pending any more (R422), unless its parcel aborts in this cycle (R428). -/
def State.settleStop (s : State) (u : Nat) : State :=
  match s.group? u with
  | none => s
  | some g => match g.status with
    | .stopping f posted => if g.pending.isEmpty && !(s.parcelOf g).due then s.stopNow g f g.dbg.clause g.dbg.slot posted else s
    | _ => s

/-- A pending write is done. -/
def State.completeWrite (s : State) (g : Group) (p : Pending) : State :=
  let (s, r) := lanesData g p { s with flits := s.flits.filter fun f => f.uid ≠ p.uid } p.lanes
  let ls := goodLanes r
  let g := (g.receive p ls).receiveLatch p ls
  let g := { g with pending := g.pending.filter fun x => x.uid ≠ p.uid }
  let s := match r.findSome? fun x => match x.2 with | .error f => some f | .ok _ => none with
    | some f => s.dataFault g f p.clause p.slot
    | none => s.setGroup g
  s.settleStop g.uid

def execLoadResult (g idx : Nat) (s : State) : Host.Outcome State Fault Refusal :=
  .next <|
    match s.group? g with
    | none => s
    | some x => match x.pending[idx]? with
      | none => s
      | some p =>
          if s.coreOn x.core && p.kind ≠ .sfu && p.lanes.all (s.laneArrives x p (x.pending.take idx)) then s.completeWrite x p else s

def execSfuResult (g : Nat) (s : State) : Host.Outcome State Fault Refusal :=
  .next <|
    match s.group? g with
    | none => s
    | some x => match x.pending.find? fun p => p.kind = .sfu with
      | none => s
      | some p => if s.coreOn x.core then s.completeWrite x p else s

end Sys2Proof.Machine
end

