-- ==== Sys2Proof/Machine/Preempt.lean ====
section
/-!
DEFINITION. Pre-emption: PRECMD, the save and restore routines, and what a saved parcel keeps (R26, R30, R70, R85, R95, R415
to R420).
-/
namespace Sys2Proof.Machine
open Sys2Proof

/-! ## PRECMD (R415) -/

def preMode (x : W64) : Nat := (x.extractLsb' 22 2).toNat
def preNames (x : W64) (n : Nat) : Bool := x.getLsbD (24 + n)
def preAllow (x : W64) : Nat := (x.extractLsb' 32 32).toNat * 1024
def preStatus (x : W64) : Nat := (x.extractLsb' 1 2).toNat

/-- The writable fields of a PRECMD value with a STATUS. -/
def preWith (x : W64) (status : Nat) : W64 := (x &&& 0xFFFFFFFFFFC00000) ||| BitVec.ofNat 64 (status % 4 * 2)

/-- The launch queues that a command names. -/
def preQueues (x : W64) : List Nat := (span 0 8).filter (preNames x)

/-- The parcels of the named queues. -/
def State.namedParcels (s : State) (vf : Nat) (x : W64) : List Parcel :=
  s.parcels.filter fun p => let l := s.launchFor p; l.vf = vf && preNames x l.queue

/-- A write of PRECMD in the mode `mode`: the command runs when GO is set and no command runs; else only the fields are
written. -/
def State.precmd (s : State) (vf : Nat) (value : W64) (mode : Nat) (run : State → State) : State :=
  let v := s.vf vf
  if preMode value ≠ mode then s
  else if preStatus v.precmd = 1 then (if value.getLsbD 0 then s else s.setVf vf { v with precmd := preWith value 1 })
  else if !value.getLsbD 0 then s.setVf vf { v with precmd := preWith value (preStatus v.precmd) }
  else run (s.setVf vf { v with precmd := preWith value 1 })

/-- The distributor stops dispatching from a queue, or dispatches it again. -/
def State.holdQueue (s : State) (vf n : Nat) (held : Bool) : State :=
  let v := s.vf vf
  let q := v.queue n
  let savedFirst := (q.head.filter fun e => match e with | .saved _ => true | _ => false) ++
    q.head.filter fun e => match e with | .saved _ => false | _ => true
  s.setVf vf (v.setQueue n { q with held := held, head := if held then q.head else savedFirst })

/-- Dispatch from the named queues stops, and the placements in flight go back to them.
(DESIGN CHOICE, log entry 43) -/
def State.holdQueues (s : State) (vf : Nat) (x : W64) : State :=
  let s := (preQueues x).foldl (fun s n => s.holdQueue vf n true) s
  s.cancelPlacements fun p => p.vf = vf && preNames x p.queue

/-- A parcel begins to be saved; one whose restore has not begun is saved still. -/
def State.beginSave (s : State) (allow : Nat) (p : Parcel) : State :=
  match p.state with
  | .running => s.setParcel { p with state := .saving (s.cycles + allow), late := false }
  | .restoring =>
      let l := s.launchFor p
      let s := l.hdr.bare.cores p.core |>.foldl (fun s c => s.giveBack l.hdr.bare c (c = p.core) true) s
      (s.setParcel { p with state := .saved }).atHead l.vf l.queue [.saved p.uid]
  | _ => s

def execPreemptSave (vf : Nat) (value : W64) (s : State) : Host.Outcome State Fault Refusal :=
  .next <| s.precmd vf value 0 fun s =>
    let s := s.holdQueues vf value
    (s.namedParcels vf value).foldl (fun s p => s.beginSave (preAllow value) p) s

def execPreemptSaveOrRequeue (vf : Nat) (value : W64) (s : State) : Host.Outcome State Fault Refusal :=
  .next <| s.precmd vf value 1 fun s =>
    let s := s.holdQueues vf value
    let (sub, whole) := (s.namedParcels vf value).partition fun p => (s.launchFor p).hdr.sub && !p.committed && p.state ≠ .saved && !p.isEnded
    let s := sub.foldl (fun s p => s.abortParcel p.uid 5) s
    whole.foldl (fun s p => s.beginSave (preAllow value) p) s

def execPreemptEnd (vf : Nat) (value : W64) (s : State) : Host.Outcome State Fault Refusal :=
  .next <| s.precmd vf value 2 fun s =>
    (s.namedParcels vf value).foldl (fun s p => if p.isEnded then s else s.endParcel p.uid none) s

def execPreemptRelease (vf : Nat) (value : W64) (s : State) : Host.Outcome State Fault Refusal :=
  .next <| s.precmd vf value 3 fun s =>
    let v := s.vf vf
    let held := (preQueues value).filter fun n => (v.queue n).held
    let status := if held.isEmpty then 3 else 2
    let s := s.setVf vf { v with precmd := preWith value status }
    held.foldl (fun s n => s.holdQueue vf n false) s

/-- Whether a parcel is still to be saved, requeued or ended. -/
def Parcel.unsettled (p : Parcel) : Bool := match p.state with | .saved | .ended _ => false | _ => true

/-- STATUS becomes done once every parcel of the named queues has been saved, requeued or ended. -/
def State.settlePrecmd (s : State) : State :=
  s.vfs.foldl (fun s e =>
    let x := e.2.precmd
    if preStatus x = 1 && !(s.namedParcels e.1 x).any Parcel.unsettled then s.setVf e.1 { s.vf e.1 with precmd := preWith x 2 } else s) s

/-! ## The save routines (R417) -/

/-- The live paths of a group. -/
def Group.livePaths (g : Group) : List (PathSlot × Path) :=
  (g.p0.map fun p => (PathSlot.s0, p)).toList ++ (g.p1.map fun p => (PathSlot.s1, p)).toList

/-- The groups of a parcel that have not ended, by index. -/
def State.liveGroups (s : State) (u : Nat) : List Group := (s.groupsOf u).filter fun g => g.status ≠ .ended

/-- Every live path of a group has stopped at a safe point. -/
def Group.standsSafe (g : Group) : Bool := g.status = .ready && g.run.isNone && g.livePaths.all fun p => p.2.safe.isSome

/-- The sealed capability over the save area of a group (R417). (DESIGN CHOICE, log entry 45) -/
def Kernel.saveObject (k : Kernel) : Cap :=
  Cap.make 0 k.saveBase 0 ((k.saveBase + k.saveBytes - 1) / 4096 - k.saveBase / 4096) (rRead + rWrite) true

/-- A path enters a routine of its safe point. -/
def Path.enters (p : Path) (r : Routine) (pc : W32) : Path :=
  { p with pc := pc, routine := r, ready := none, aged := false, waits := 0, qcnt := 0, iter := 0, body := none }

/-- The clause of the routine of a path's safe point. -/
def Kernel.routineAt (k : Kernel) (p : Path) (save : Bool) : W32 :=
  match (p.safe.bind k.safePoint) with
  | some e => if save then e.1 else e.2.1
  | none => p.pc

/-- A group whose paths enter their routines. -/
def Group.enterRoutines (g : Group) (k : Kernel) (save : Bool) : Group :=
  let r := if save then Routine.save else .rest
  let f (p : Path) : Path := p.enters r (k.routineAt p save)
  { g.setCap 14 k.saveObject with p0 := g.p0.map f, p1 := g.p1.map f }

/-- Ends the quantum of each path of a group in turn. -/
def endQuanta : List (PathSlot × Path) → State → Group → Act
  | [], s, g => .ok s g
  | p :: ps, s, g => (s.quantumEnd g p.1).andThen fun s g => endQuanta ps s g

/-- A group that stops outside a clause: it waits, parks, faults, or its parcel aborts. -/
def State.stopOutside (s : State) (g : Group) (x : Stop) : State :=
  let pc := match g.livePaths with | p :: _ => p.2.pc | [] => 0
  match x with
  | .block _ => s.setGroup g
  | .park f => s.parkGroup g f pc 0
  | .trap f => s.takeFault g f pc 0
  | .late f => s.takeLate g f
  | .abort t => (s.setGroup g).abortParcel g.parcel t

/-- Ends the quanta of the paths of groups in order: the state in which all have ended, or the one in which one did not. -/
def endAllQuanta : List Nat → State → Except State State
  | [], s => .ok s
  | u :: us, s =>
      match s.group? u with
      | none => endAllQuanta us s
      | some g => match endQuanta g.livePaths s g with
        | .ok s g => endAllQuanta us (s.setGroup g)
        | .stop s g x => .error (s.stopOutside g x)

/-- Once every path has stopped, the quanta end, and each group enters its save routines with the save object in c14; its
former c14 goes to slot 14 of the save area. (DESIGN CHOICE, log entry 50) -/
def execSaveRoutineEnter (parcel : Nat) (s : State) : Host.Outcome State Fault Refusal :=
  .next <|
    match s.parcel? parcel with
    | none => s
    | some p => match p.state with
      | .saving limit =>
          let k := (s.launchFor p).hdr
          let gs := s.liveGroups parcel
          if gs.isEmpty || !gs.all Group.standsSafe then s
          else match endAllQuanta (gs.map fun g => g.uid) s with
            | .error s => s
            | .ok s =>
                let s := (s.liveGroups parcel).foldl (fun s g =>
                  let g := g.saveCap (k.saveBase + 14 * 32) (g.cap 14)
                  (s.touchPrivate g.core g.uid (k.saveBase + 14 * 32) true).setGroup (g.enterRoutines k true)) s
                s.setParcel { (s.parcel? parcel).getD p with state := .saveRoutines limit }
      | _ => s

/-! ## SAVE_COMPLETE (R418) -/

/-- Every path of a group has ended its save routine, and nothing of the group is on its way. -/
def Group.savedAll (g : Group) : Bool :=
  g.run.isNone && g.status = .ready && g.pending.isEmpty && g.acks = 0 && g.livePaths.all fun p => p.2.routine = .saved

/-- A queue that is unbound and has lost its entries; a result that is still to come for the binding finds it gone (R70, R112). -/
def Queue.unbind (q : Queue) : Queue := { Queue.empty with gen := q.gen }

/-- What is left of a group that is saved: its path slots, its stack in its private object, its allotment and class. -/
def Group.store (g : Group) : Group :=
  { g with v := [], s := [], caps := [], masks := [], queues := g.queues.foldl (fun t e => Tbl.put Queue.empty t e.1 e.2.unbind) g.queues, samplers := [], place := 32, badRegs := [] }

/-- The dirty private lines of a group are written back (R95). -/
def State.cleanPrivate (s : State) (core g : Nat) : State :=
  let s := s.writeBackLines ((s.core core).l1.filter fun x => x.owner = some g)
  let c := s.core core
  s.setCore core { c with l1 := c.l1.map fun x => if x.owner = some g then { x with dirty := false } else x }

/-- (DESIGN CHOICE, log entry 50) -/
def execSaveComplete (parcel : Nat) (s : State) : Host.Outcome State Fault Refusal :=
  .next <|
    match s.parcel? parcel with
    | none => s
    | some p => match p.state with
      | .saveRoutines _ =>
          let l := s.launchFor p
          let gs := s.liveGroups parcel
          let x := s.pair (p.core / 2)
          let works := (x.cards.any fun c => c.parcel = parcel && !(match c.state with | .stopped _ => true | _ => false))
            || x.ops.any fun o => o.parcel = parcel
          if !gs.all Group.savedAll || works then s
          else
            let s := gs.foldl (fun s g => let s := s.cleanPrivate g.core g.uid; s.setGroup ((s.group? g.uid).getD g).store) s
            let s := s.releaseTiles parcel p.core
            let s := l.hdr.bare.cores p.core |>.foldl (fun s c => s.giveBack l.hdr.bare c (c = p.core) true) s
            (s.setParcel { p with state := .saved }).atHead l.vf l.queue [.saved parcel]
      | _ => s

/-! ## RESTORE (R85, R419) -/

/-- The registers of a restored group: v registers read 0, and the manual states no value for s and k.
(DESIGN CHOICE, log entry 49) -/
def Group.freeRegs (g : Group) (n : Nat) : Group :=
  let g := (span 0 64).foldl (fun (g : Group) r => g.setSreg r (Config.freeWord (n + r))) g
  (span 1 7).foldl (fun (g : Group) r => g.setKreg r (lowMask g.width) (Config.freeWord (n + 64 + r))) g

/-- Puts the groups of a parcel back on their cores. -/
def restoreGroups (k : Kernel) : List Group → State → State
  | [], s => s
  | g :: gs, s =>
      let g := (g.enterRoutines k false).freeRegs s.free
      restoreGroups k gs ({ s with free := s.free + 72 }.setGroup { g with place := s.freePlace g.core })

/-- (DESIGN CHOICE, log entry 49) -/
def execRestore (parcel : Nat) (s : State) : Host.Outcome State Fault Refusal :=
  .next <|
    match s.parcel? parcel with
    | none => s
    | some p =>
        if p.state ≠ .restoring then s
        else (restoreGroups (s.launchFor p).hdr (s.liveGroups parcel) s).setParcel { p with state := .running }

/-! ## PREEMPT_LATE (R420) -/

def preemptLateFault (n : Nat) : FaultInfo := .mk' 0x0031 0 n

def execPreemptLate (parcel : Nat) (s : State) : Host.Outcome State Fault Refusal :=
  .next <|
    match s.parcel? parcel with
    | none => s
    | some p =>
        let due := match p.state with | .saving t | .saveRoutines t => t ≤ s.cycles | _ => false
        if !due || p.late then s
        else
          let n := ((s.liveGroups parcel).filter fun g => g.livePaths.any fun x => x.2.safe.isNone).length
          ((s.post (s.parcelRecord p (preemptLateFault n) 1)).1).setParcel { p with late := true }

end Sys2Proof.Machine
end

