-- ==== Sys2Proof/Machine/Reset.lean ====
section
/-!
DEFINITION. Resets: of a compute die, of a virtual function, cold and warm, with the boot that follows a cold reset (R85, R107,
R122, R124, R128, R151, R405, R420, R432, R433, R437, R441, R442, R448).
-/
namespace Sys2Proof.Machine
open Sys2Proof

/-! ## COMPUTE_DIE_RESET (R432, R433) -/

/-- Step 2 and 3 for operations: those that left the die are delivered, and those aimed at it are answered in error. -/
def State.drainOp (d : Nat) (s : State) (o : HomeOp) : State :=
  if s.deadHome o.cell || (o.home = d && !s.remote o.cell) then s.refuseHome o
  else s.applyHome o

/-- A flit that has still to cross a link of a die. -/
def Flit.crosses (f : Flit) (d : Nat) : Bool := f.hops.any fun h => h.1 < 16 && (linkEnds (h.1 / 2)).contains d

/-- Steps 2 and 3: the flits on links of the die are delivered, and what is aimed at it is answered. (DESIGN CHOICE, log entry 51) -/
def State.drainNet (s : State) (d : Nat) : State :=
  let mine (o : HomeOp) : Bool := o.fromDie = d || (o.home = d && !s.remote o.cell)
  let s' := { s with net := s.net.filter fun o => !mine o }
  let s := (s.net.filter mine).foldl (State.drainOp d) s'
  { s with flits := s.flits.filter fun f => !f.crosses d }

/-- Step 3 for one lane of a load: data that the die was to send are an error. -/
def failLane (s : State) (d : Nat) (x : Nat × LaneSource) : Nat × LaneSource :=
  match x.2 with
  | .memory c n va fwd => if !s.remote c && homeDie c = d && fwd.length < n then (x.1, .failed (dieError d 1 x.1 va)) else x
  | .reservoir _ e _ => if e = d then (x.1, .failed (dieError d 1 x.1)) else x
  | _ => x

def State.failLoads (s : State) (d : Nat) : State :=
  { s with groups := s.groups.map fun g => { g with pending := g.pending.map fun p => { p with lanes := p.lanes.map (failLane s d) } } }

/-- Step 3 for a watch: its group takes die-error at the WAITC. -/
def State.failWatch (d : Nat) (s : State) (w : Watch) : State :=
  match s.group? w.group with
  | some g => (match g.run, g.status with
      | some r, .waiting _ => s.takeFault g (dieError d 3 w.lane w.va) r.clause r.idx
      | _, _ => s)
  | none => s

def State.failWatches (s : State) (d : Nat) : State :=
  let ws := (s.die d).slices.flatMap fun e => e.2.watches ++ e.2.queued
  let bare := (s.die d).slices.foldl (fun t e => Tbl.put Slice.empty t e.1 { e.2 with watches := [], queued := [] }) (s.die d).slices
  ws.foldl (State.failWatch d) (s.setDie d { s.die d with slices := bare })

/-- Step 4 when the lines cannot be written back: each of their sectors is poisoned and recorded. -/
def State.poisonLine (d : Nat) (s : State) (x : L2Line) : State :=
  (span 0 4).foldl (fun s i =>
    let n := x.line * 4 + i
    let s := { s with poison := if s.poison.contains n then s.poison else s.poison ++ [n] }
    s.book 0x04 (BitVec.ofNat 8 d) 0 (BitVec.ofNat 128 (n * 64))) s

/-- Whether the work of a parcel is over, so that it is not done again: step 3 of its retirement. -/
def Parcel.pastLog (p : Parcel) : Bool := match p.state with | .retiring k => 3 ≤ k | _ => false

/-- The roles of a parcel's groups are dropped (R300). -/
def State.dropParcelRoles (s : State) (u : Nat) : State :=
  (s.groupsOf u).foldl (fun s g => let (s, g) := s.dropAllRoles g; s.setGroup g) s

/-- A parcel is lost with its die (R433): a subdivisible one is requeued whole, any other gets its record and is ended. -/
def State.loseParcel (d : Nat) (s : State) (p : Parcel) : State :=
  let l := s.launchFor p
  let s := s.dropParcelRoles p.uid
  let past := p.isEnded || (l.hdr.sub && p.pastLog)
  if l.hdr.sub && !past then
    let s := (s.discardParcel p).dropHead l.vf l.queue p.uid
    if l.failed then s else s.requeue l.vf l.queue l.uid p.core [p.box]
  else
    let s := s.closeRecords l.vf (s.recordOf p) 2
    let s := if past then s else (((s.post (s.parcelRecord p (dieError d 4) 1)).1).failLaunch l.uid).settleLists l.vf p
    let s := s.forgetGroups fun u => s.groups.any fun g => g.uid = u && g.parcel = p.uid
    let s := ((s.dropDecls p.uid).dropHead l.vf l.queue p.uid).dropPrivates p.uid
    { s with groups := s.groups.filter fun g => g.parcel ≠ p.uid, parcels := s.parcels.filter fun q => q.uid ≠ p.uid }

/-- The declarations of other dies that have entries at the slices of the die end at the next beat. -/
def State.loseGrants (s : State) (d : Nat) : State :=
  let at' (u : Nat) : Bool := (s.die d).slices.any fun e => e.2.grants.any fun g => g.decl = u
  { s with decls := s.decls.map fun x => if at' x.uid then { x with lost := some d } else x }

/-- The die of the engine with an index. -/
def engineDie (n : Nat) : Nat :=
  let k := n / 256
  let u := n % 256
  if k = 1 then u / 4 else if k = 2 then u / 48 else if k ≤ 4 then u / 24 else u

/-- Step 5: everything that the die holds is at its reset value; the die stays held. -/
def State.clearDie (s : State) (d : Nat) : State :=
  let s := { s with
    cores := s.cores.dropRange (48 * d) (48 * d + 48), pairs := s.pairs.dropRange (24 * d) (24 * d + 24),
    pairTlbs := s.pairTlbs.dropRange (24 * d) (24 * d + 24), engines := s.engines.filter fun e => engineDie e.1 ≠ d,
    joined := s.joined.filter fun x => !(x.package = s.control.package && x.die = d),
    control := { s.control with snaps := s.control.snaps.dropRange (snapKey d 0) (snapKey (d + 1) 0) } }
  let s := s.setLink d { s.link d with windows := 0 }
  s.setDie d { Die.reset with beat := (s.die d).beat, held := true }

/-- The parcels that are on a die. -/
def State.parcelsOn (s : State) (d : Nat) : List Parcel := s.parcels.filter fun p => p.core / 48 = d

/-- The reset of a die that carries requests. (DESIGN CHOICE, log entry 51) -/
def State.resetDie (s : State) (d : Nat) (writesBack : Bool) : State :=
  let s := ((s.drainNet d).failLoads d).failWatches d
  let s := if writesBack then s else ((s.die d).l2.filter fun x => x.dirty).foldl (State.poisonLine d) s
  let s := s.cancelPlacements fun p => p.cores.any fun c => c / 48 = d
  let s := (s.parcelsOn d).foldl (State.loseParcel d) s
  (s.loseGrants d).clearDie d

def execComputeDieReset (die : Nat) (writesBack : Bool) (s : State) : Host.Outcome State Fault Refusal :=
  .next <|
    if Config.dies ≤ die || (s.die die).held then s
    else (s.resetDie die writesBack).book 0x04 (BitVec.ofNat 8 die) 0 0

/-! ## DIE_RELINK (R122, R432) -/

/-- The links of a die. -/
def linksOf (d : Nat) : List Nat := (span 0 8).filter fun n => (linkEnds n).contains d

/-- The number of the open beat. -/
def State.openBeat (s : State) : Nat := (span 0 Config.dies).foldl (fun m n => max m (s.die n).beat) 0

/-- A link has trained anew. -/
def State.relink (s : State) (n : Nat) : State :=
  let s := s.setLink n { s.link n with retrain := false }
  (s.trainDir (2 * n)).trainDir (2 * n + 1)

def execDieRelink (die : Nat) (s : State) : Host.Outcome State Fault Refusal :=
  .next <|
    let d := s.die die
    if !d.held then s
    else
      let s := s.setDie die { d with held := false, beat := s.openBeat }
      ((linksOf die).foldl State.relink s).book 0x05 (BitVec.ofNat 8 die) 0x160 0

/-! ## VF_RESET (R437) -/

/-- Steps 1 and 2. -/
def State.beginVfReset (s : State) (vf : Nat) : State :=
  let s := s.setVf vf { s.vf vf with resetting := true }
  let s := (s.placements.filter fun p => p.vf = vf).foldl State.dropPlacement s
  let s := (s.parcels.filter fun p => (s.launchFor p).vf = vf).foldl (fun s p => s.endParcel p.uid none) s
  (s.launches.filter fun l => l.vf = vf).foldl (fun s l => s.failLaunch l.uid) s

/-- Step 3: nothing of the function's work is left. (DESIGN CHOICE, log entry 52) -/
def State.vfQuiet (s : State) (vf : Nat) : Bool :=
  !(s.parcels.any fun p => (s.launchFor p).vf = vf) && (s.vf vf).migrate.isNone && !(s.vf vf).xinv.getLsbD 0

/-- The key slots and the package phasers of a range register: base and count (R132, R149). -/
def rangeOf (r : W32) : Nat × Nat := ((r.extractLsb' 0 12).toNat, (r.extractLsb' 16 13).toNat)

/-- The render registers of a function on a die, its carve-out and its pages of the pinned pool. -/
def Die.dropRender (d : Die) (vf : Nat) : Die :=
  { d.unpin (.reservoir vf) with
    visarea := Tbl.put 0x42000000 d.visarea vf 0x42000000, rsvrect := Tbl.put 0 d.rsvrect vf 0, rsv := Tbl.put [] d.rsv vf [], rsvBad := d.rsvBad.filter fun x => x.1 ≠ vf }

/-- The function's registers after its reset; records that are not yet acted on stay. -/
def Vf.cleared (v : Vf) : Vf :=
  { Vf.reset with records := v.records, heldRec := v.heldRec, stalled := v.stalled, fqseq := v.fqseq,
                  queues := v.queues.filterMap fun e =>
                    let q := { LaunchQueue.reset with ticket := e.2.ticket, pass := e.2.pass }
                    if q = LaunchQueue.reset then none else some (e.1, q) }

/-- Step 4. -/
def State.finishVfReset (s : State) (vf : Nat) : State :=
  let v := s.vf vf
  let (kb, kn) := rangeOf v.krange
  let (pb, pn) := rangeOf v.prange
  let s := { s with
    phasers := s.phasers.dropRange pb (pb + pn), returns := s.returns.filter fun x => x.vf ≠ vf, launches := s.launches.filter fun l => l.vf ≠ vf,
    dies := (span 0 Config.dies).foldl (fun t n => Tbl.put Die.reset t n ((Tbl.get Die.reset t n).dropRender vf)) s.dies,
    control := { s.control with keys := s.control.keys.dropRange kb (kb + kn), admitted := s.control.admitted.filter fun e => e.1 ≠ vf } }
  let s := s.setVf vf v.cleared
  (span 0 8).foldl (fun s n => s.setVf vf ((s.vf vf).setQueue n { (s.vf vf).queue n with pass := s.passFloor vf n })) s

/-- (DESIGN CHOICE, log entry 52) -/
def execVfReset (vf : Nat) (s : State) : Host.Outcome State Fault Refusal :=
  .next <|
    if 64 ≤ vf then s
    else
      let s := if (s.vf vf).resetting then s else s.beginVfReset vf
      if s.vfQuiet vf then s.finishVfReset vf else s

/-! ## Boot (R441, R442) -/

def recordIndex : RecordKind → Nat
  | .boot => 0 | .domain => 1 | .provisioning => 2 | .certificate => 3 | .lifecycle => 4 | .debug => 5 | .other n => 6 + n

/-- A record whose sequence number is not below the stored value. -/
def State.recordFresh (s : State) (r : ConfigRecord) : Bool := Tbl.get 0 s.control.minSeq (recordIndex r.kind) ≤ r.seq

/-- The record of a kind that is used among those that `p` admits: the one with the highest sequence number. -/
def bestRecord (l : List ConfigRecord) (k : RecordKind) (p : ConfigRecord → Bool) : Option ConfigRecord :=
  (l.filter fun r => r.kind = k && p r).foldl (fun b r => match b with
    | none => some r
    | some x => if x.seq < r.seq then some r else some x) none

/-- The payload of the provisioning record, which installs the owner key. -/
def State.provisioned (s : State) : Option (List Byte) :=
  (bestRecord s.control.flash .provisioning fun r => !r.owner && s.recordFresh r && Config.recordVerifies none r).map fun r => r.payload

/-- Whether a record may be used: its signature verifies, and it is not older than one accepted before. -/
def State.recordOk (s : State) (r : ConfigRecord) : Bool := s.recordFresh r && Config.recordVerifies s.provisioned r

/-- The records of the flash that are used, one of each kind. (DESIGN CHOICE, log entry 6) -/
def State.usedRecords (s : State) : List ConfigRecord :=
  let kinds := s.control.flash.foldl (fun (l : List RecordKind) r => if l.contains r.kind then l else l ++ [r.kind]) []
  kinds.filterMap fun k => bestRecord s.control.flash k s.recordOk

/-- The debug state that the records set; in Production only a token sets Invasive (R448). -/
def State.recordedDebug (s : State) (used : List ConfigRecord) : DebugState :=
  match used.find? fun r => r.kind = .debug with
  | none => .off
  | some r => match Config.recordDebug r.payload with
    | 1 => .selfHosted
    | 2 => if s.control.lifecycle = .production then .off else .invasive
    | _ => .off

/-- The number of a debug and of a lifecycle state. -/
def debugCode : DebugState → Nat | .off => 0 | .selfHosted => 1 | .invasive => 2
def lifecycleCode : Lifecycle → Nat | .blank => 0 | .provisioned => 1 | .production => 2 | .returnAnalysis => 3

/-- Sets the debug state; a change is recorded. -/
def State.setDebug (s : State) (d : DebugState) : State :=
  if s.control.debug = d then s
  else ({ s with control := { s.control with debug := d } }).book 0x08 255 1 (BitVec.ofNat 128 (lifecycleCode s.control.lifecycle + 4 * debugCode d))

/-- The boot from its first step, or from the sources: a step fails and is recorded, or the host functions are enabled.
(DESIGN CHOICE, log entry 13) -/
def State.bootUp (s : State) : State :=
  match Config.bootFailure s.tick with
  | 0 =>
      let used := s.usedRecords
      let seqs := used.foldl (fun t r => Tbl.put 0 t (recordIndex r.kind) (max (Tbl.get 0 t (recordIndex r.kind)) r.seq)) s.control.minSeq
      let package := match used.find? fun r => r.kind = .domain with
        | some r => Config.recordPackage r.payload % 256
        | none => 0
      let s' := { s with free := s.free + 1, control := { s.control with
        inUse := used, minSeq := seqs, package := package, boot := .running, nonce := Config.issuedNonce s.free } }
      s'.setDebug (s.recordedDebug used)
  | k =>
      ({ s with control := { s.control with boot := .failed k, bootAt := s.time } }).book 0x06 255 0 (BitVec.ofNat 128 k)

/-- The package as power-on leaves it: the configuration flash with its protected region stays, and so does what is not in the
package; the schedule goes on. -/
def State.powerOn (s : State) : State :=
  { State.reset with
    agenda := s.agenda, turns := s.turns, tick := s.tick, cycles := s.cycles, uid := s.uid, free := s.free, replies := s.replies,
    mem := s.mem.filter fun e => cellTgt e.1 ≠ 0, poison := s.poison.filter fun x => cellTgt (x * 64) ≠ 0,
    control := { Control.reset with lifecycle := s.control.lifecycle, flash := s.control.flash, minSeq := s.control.minSeq } }

def execColdReset (s : State) : Host.Outcome State Fault Refusal := .next s.powerOn.bootUp

/-- The sources are tried again every 10 s after a step has failed. -/
def execBootSourceRetry (s : State) : Host.Outcome State Fault Refusal :=
  .next <|
    match s.control.boot with
    | .failed _ => if 10000000000 ≤ (s.time - s.control.bootAt).toNat then s.bootUp else s
    | _ => s

/-! ## WARM_RESET (R107, R448) -/

/-- Dirty lines are lost: memory holds what stands beneath them. -/
def dropDirty (m : Tbl Byte) (x : L2Line) : Tbl Byte :=
  if x.dirty then x.below.foldl (fun m e => Tbl.put 0 m e.1 e.2) (m.dropRange (x.line * 256) (x.line * 256 + 256)) else m

/-- The cache of a compute die is emptied. -/
def State.emptyL2 (s : State) (d : Nat) : State :=
  { s with mem := (s.die d).l2.foldl dropDirty s.mem }.setDie d { s.die d with l2 := [] }

/-- A compute die under a warm reset loses what runs on it and serves again at once. (DESIGN CHOICE, log entry 53) -/
def State.warmDie (s : State) (d : Nat) : State :=
  let s := s.clearDie d
  s.setDie d { s.die d with held := false }

/-- (DESIGN CHOICE, log entry 53) -/
def execWarmReset (s : State) : Host.Outcome State Fault Refusal :=
  .next <|
    let s := s.cancelPlacements fun _ => true
    let s := { s with net := [], acks := [], flits := [], decls := [] }
    let s := (span 0 Config.dies).foldl State.emptyL2 s
    let s := (span 0 Config.dies).foldl (fun s d => (s.parcelsOn d).foldl (State.loseParcel d) s) s
    let s := (span 0 Config.dies).foldl State.warmDie s
    if s.control.lifecycle = .production && s.control.debug = .invasive then s.setDebug (s.recordedDebug s.control.inUse) else s

end Sys2Proof.Machine
end

