-- ==== Sys2Proof/Machine/HostRegs.lean ====
section
/-!
DEFINITION. What the host and other packages do: writes of the registers in the configuration spaces, CXL accesses and
coherence requests, and requests over the fabric (R10, R11, R80, R96, R100, R132, R149, R312, R434 to R436, R439).
-/
namespace Sys2Proof.Machine
open Sys2Proof

/-! ## Rings (R119, R436) -/

/-- The writable fields of a ring's configuration. -/
def ringFields (x : W64) : W64 := x &&& 0xE00FFFFFFFFFF01F

/-- A write of a ring's configuration: while the ring is in use only EN changes; EN stays 0 with a reserved TGT or a LOGSIZE
outside `lo` to 16. -/
def ringWrite (old x : W64) (lo : Nat) : W64 :=
  let en : W64 := BitVec.ofNat 64 (2 ^ 63)
  let size := (x.extractLsb' 0 5).toNat
  if ringOn old then (if ringOn x then old else old &&& ~~~en)
  else if ringOn x && (2 ≤ ringTgt x || size < lo || 16 < size) then ringFields x &&& ~~~en
  else ringFields x

/-- (DESIGN CHOICE, log entry 59) -/
def execLqcfgWrite (vf queue : Nat) (value : W64) (s : State) : Host.Outcome State Fault Refusal :=
  .next <|
    if !s.enabled || 64 ≤ vf || 8 ≤ queue then s
    else
      let v := s.vf vf
      let q := v.queue queue
      (s.setVf vf (v.setQueue queue { q with cfg := ringWrite q.cfg value 4 })).noteBacklog vf queue

def execFqcfgWrite (vf : Nat) (value : W64) (s : State) : Host.Outcome State Fault Refusal :=
  .next <|
    let v := s.vf vf
    if !s.enabled || 64 ≤ vf then s else s.setVf vf { v with fqcfg := ringWrite v.fqcfg value 6 }

/-- A write of PROD that would overfill the ring is ignored. -/
def execLqidxWrite (vf queue : Nat) (value : W64) (s : State) : Host.Outcome State Fault Refusal :=
  .next <|
    let v := s.vf vf
    let q := v.queue queue
    let prod := value.extractLsb' 0 32
    if !s.enabled || 64 ≤ vf || 8 ≤ queue || ringSize q.cfg < (prod - q.cons).toNat then s
    else (s.setVf vf (v.setQueue queue { q with prod := prod })).noteBacklog vf queue

/-- A write of CONS that would pass PROD is ignored. -/
def execFqidxWrite (vf : Nat) (value : W64) (s : State) : Host.Outcome State Fault Refusal :=
  .next <|
    let v := s.vf vf
    let cons := value.extractLsb' 32 32
    if !s.enabled || 64 ≤ vf || ringSize v.fqcfg < (v.fqprod - cons).toNat then s else s.setVf vf { v with fqcons := cons }

/-- Tickets 0 and above 4,096 are ignored. -/
def execLqtktWrite (vf queue : Nat) (value : W64) (s : State) : Host.Outcome State Fault Refusal :=
  .next <|
    let t := (value.extractLsb' 0 13).toNat
    if 64 ≤ vf || 8 ≤ queue || t = 0 || 4096 < t then s
    else s.setVf vf ((s.vf vf).setQueue queue { (s.vf vf).queue queue with ticket := t })

/-! ## Ranges (R132, R149) -/

/-- Whether two ranges of base and count share a number. -/
def rangesMeet (a b : Nat × Nat) : Bool := a.1 < b.1 + b.2 && b.1 < a.1 + a.2 && a.2 ≠ 0 && b.2 ≠ 0

/-- Whether a range may be given to a function beside the ranges that the others have. -/
def State.rangeFree (s : State) (vf : Nat) (reg : Vf → W32) (r : Nat × Nat) : Bool :=
  r.1 + r.2 ≤ 4096 && s.vfs.all fun e => e.1 = vf || !rangesMeet (rangeOf (reg e.2)) r

/-- The writable fields of a range register. -/
def rangeFields (x : W32) : W32 := x &&& 0x1FFF0FFF

def execKrangeWrite (vf : Nat) (value : W32) (s : State) : Host.Outcome State Fault Refusal :=
  .next <|
    let x := rangeFields value
    if !s.enabled || 64 ≤ vf || !s.rangeFree vf (fun v => v.krange) (rangeOf x) then s
    else s.setVf vf { s.vf vf with krange := x }

/-- The entries of a range become owned, or are owned no more (LIVE of R149). -/
def setLive (t : Tbl Phaser) (r : Nat × Nat) (live : Bool) : Tbl Phaser :=
  (span r.1 r.2).foldl (fun t n => Tbl.put Phaser.clear t n { Tbl.get Phaser.clear t n with live := live }) t

def execPrangeWrite (vf : Nat) (value : W32) (s : State) : Host.Outcome State Fault Refusal :=
  .next <|
    let x := rangeFields value
    if !s.enabled || 64 ≤ vf || !s.rangeFree vf (fun v => v.prange) (rangeOf x) then s
    else
      let ph := setLive (setLive s.phasers (rangeOf (s.vf vf).prange) false) (rangeOf x) true
      { s with phasers := ph }.setVf vf { s.vf vf with prange := x }

/-! ## RSVRECT (R80, R100) -/

/-- The screen tiles of every function's carve-out on a die but one. -/
def Die.tilesBut (d : Die) (vf : Nat) : Nat :=
  (d.rsvrect.filter fun e => e.1 ≠ vf).foldl (fun n e => n + (Rect.ofWord e.2).tiles) 0

/-- The outcome of a write of a die in RSVSTAT. -/
def State.setRsvstat (s : State) (vf die code : Nat) : State :=
  let v := s.vf vf
  let mask := BitVec.ofNat 64 (15 * 16 ^ die)
  s.setVf vf { v with rsvstat := (v.rsvstat &&& ~~~mask) ||| BitVec.ofNat 64 (code * 16 ^ die) }

/-- The rectangle of a function is set and its records are zero, or the write is refused and nothing changes.
(DESIGN CHOICE, log entry 60) -/
def execRsvrectWrite (vf die : Nat) (value : W64) (s : State) : Host.Outcome State Fault Refusal :=
  .next <|
    let d := s.die die
    let n := (Rect.ofWord value).tiles
    if !s.enabled || 64 ≤ vf || Config.dies ≤ die || d.held then s
    else if 2048 < d.tilesBut vf + n then s.setRsvstat vf die 1
    else match (d.unpin (.reservoir vf)).pin (.reservoir vf) (4 * n) with
      | none => s.setRsvstat vf die 2
      | some d =>
          (s.setDie die { d with rsvrect := Tbl.put 0 d.rsvrect vf value, rsv := Tbl.put [] d.rsv vf [],
                                 rsvBad := d.rsvBad.filter fun x => x.1 ≠ vf }).setRsvstat vf die 0

/-! ## Other registers (R11, R436) -/

/-- The writable fields of SIGPOL. -/
def sigpolFields (x : BitVec 576) : BitVec 576 := x &&& ~~~(BitVec.ofNat 576 (2 ^ 64 - 2 ^ 12 + 0xFC))

def execSigpolWrite (vf : Nat) (value : BitVec 576) (s : State) : Host.Outcome State Fault Refusal :=
  .next <| if 64 ≤ vf then s else s.setVf vf { s.vf vf with sigpol := sigpolFields value }

/-- The writable fields of XROOT, OTDESC and DATSEL. -/
def xrootFields (x : W64) : W64 := x &&& 0x000FFFFFFFFFF001
def otdescFields (x : W128) : W128 := x &&& BitVec.ofNat 128 (0xFFFFFF * 2 ^ 64 + 0x000FFFFFFFFFF000)
def datselFields (x : W64) : W64 := x &&& 0xFFFFFF

/-- (DESIGN CHOICE, log entry 59) -/
def execRegisterWrite (r : ConfigReg) (value : W128) (s : State) : Host.Outcome State Fault Refusal :=
  .next <|
    let w := value.extractLsb' 0 64
    match r with
    | .xroot vf => if !s.enabled || 64 ≤ vf then s else s.setVf vf { s.vf vf with xroot := xrootFields w }
    | .otdesc vf => if !s.enabled || 64 ≤ vf then s else s.setVf vf { s.vf vf with otdesc := otdescFields value }
    | .datsel => { s with control := { s.control with datsel := datselFields w } }
    | .mxrstPair => if mxBusy s.control.mxrst then s else s.setMxrst (mxWord (mxPair w) false)

/-! ## CXL (R434) -/

/-- A request from outside crosses from the control die to the home of its cell, in class `out`, and is answered in class `back` (R2,
R128); none when that link carries no flits now. -/
def State.outsideCross (s : State) (c out back : Nat) : Option State :=
  (s.crossNow out (fromControl (homeDie c))).bind fun s => s.crossNow back (toControl (homeDie c))

/-- A read of memory from outside, at the home of its cell; it waits outside while its link carries nothing. -/
def State.outsideRead (s : State) (c n : Nat) : State :=
  if s.deadHome c then { s with replies := s.replies ++ [.failed (homeDie c)] }
  else match s.outsideCross c (sizedClass n clsRequest) (sizedClass n clsRequest) with
    | none => s
    | some s =>
        let r := if s.poisoned c n then Reply.poisoned else .bytes (Memory.readN s.mem c n)
        let s := s.touchL2 c 0 false
        { s with replies := s.replies ++ [r] }

/-- A write of memory from outside, at its home slice; its acknowledgement comes back as control traffic. -/
def State.outsideWrite (s : State) (c : Nat) (bs : List Byte) : State :=
  if s.deadHome c then { s with replies := s.replies ++ [.failed (homeDie c)] }
  else match s.outsideCross c (sizedClass bs.length clsRequest) clsControl with
    | none => s
    | some s => s.applyWrite c 0 bs

/-- A host access is performed at its home slice; nothing before it at that slice is passed over. -/
def execHostCxlMemAccess (pa : Nat) (a : HostAccess) (s : State) : Host.Outcome State Fault Refusal :=
  let c := cellOf 0 pa
  match a with
  | .read n => if !cellExists c n then .fault .noSuchAddress else .next (s.outsideRead c n)
  | .write bs => if !cellExists c bs.length then .fault .noSuchAddress else .next (s.outsideWrite c bs)

/-- The line of the L2 that holds the 64-byte line `n` of host memory is dropped. (DESIGN CHOICE, log entry 64) -/
def State.dropHostLine (s : State) (c : Nat) : State :=
  s.setDie (homeDie c) { s.die (homeDie c) with l2 := (s.die (homeDie c)).l2.filter fun x => x.line ≠ c / 256 }

/-- A coherence request of the host for a 64-byte line of host memory, which crosses to the line's home slice: a shared read leaves the
line clean, an invalidating read drops it, and a write of the host replaces it. (DESIGN CHOICE, log entry 64) -/
def execHostCxlCacheSnoop (line : Nat) (kind : SnoopKind) (s : State) : Host.Outcome State Fault Refusal :=
  .next <|
    let c := cellOf 1 (line * 64 % 2 ^ 52)
    let d := homeDie c
    match s.outsideCross c clsControl clsControl with
    | none => s
    | some s =>
        let held := (s.die d).l2.any fun x => x.line = c / 256
        let data := Reply.bytes (Memory.readN s.mem c 64)
        match kind with
        | .readShared =>
            if !held then s
            else
              let clean (x : L2Line) : L2Line := if x.line = c / 256 then { x with dirty := false, below := [] } else x
              { s.setDie d { s.die d with l2 := (s.die d).l2.map clean } with replies := s.replies ++ [data] }
        | .readInvalidate => if !held then s else { s.dropHostLine c with replies := s.replies ++ [data] }
        | .write bs =>
            let s := (s.dropHostLine c)
            ({ s with mem := Memory.writeN s.mem c (bs.take 64), poison := clearPoison s.poison c (bs.take 64).length }).wakeWatches c (bs.take 64).length

/-! ## FABRIC_REQUEST_ARRIVAL (R312, R439) -/

/-- An atomic from another package, at the home of its cell. -/
def State.outsideAtomic (s : State) (c : Nat) (ty : ElemType) (op : Nat) (value : W64) : State :=
  if s.deadHome c then { s with replies := s.replies ++ [.failed (homeDie c)] }
  else match s.outsideCross c clsRequest clsControl with
    | none => s
    | some s =>
        let (s, old) := s.applyAtomic c ty op value none
        { s with replies := s.replies ++ [.word (extendLoad ty old)] }

def execFabricRequestArrival (r : FabricRequest) (s : State) : Host.Outcome State Fault Refusal :=
  match r with
  | .read _ pa n =>
      let c := cellOf 0 (pa % 2 ^ 39)
      if !cellExists c n then .fault .noSuchAddress else .next (s.outsideRead c n)
  | .write _ pa bs =>
      let c := cellOf 0 (pa % 2 ^ 39)
      if !cellExists c bs.length then .fault .noSuchAddress else .next (s.outsideWrite c bs)
  | .atomic _ pa ty op value =>
      let c := cellOf 0 (pa % 2 ^ 39)
      if !cellExists c (ty.width / 8) then .fault .noSuchAddress else .next (s.outsideAtomic c ty op value)
  | .collective package vf die core group key parts cop ty fmt data =>
      if package = s.control.package || !s.enabled then .next s
      else .next (s.join { package := package, vf := vf, die := die, core := core, group := group, card := none, key := key, parts := parts,
                           cop := cop, ty := ty, fmt := fmt, wlen := data.length, data := data })

end Sys2Proof.Machine
end

