-- ==== Sys2Proof/Machine/Light.lean ====
section
/-!
DEFINITION. The light-tree walker: LTSET, LTSMP and the walk (R373, R374).
-/
namespace Sys2Proof.Machine
open Sys2Proof

/-! ## LTSET, LTSMP -/

/-- Reads and checks a tree descriptor. -/
def Ctx.attachTree (c : Ctx) (reg off lane : Nat) (bad : FaultInfo) : State × Except Stop Attached :=
  let k := c.g.cap reg
  let need := rRead + rEngine
  match c.readDescriptor false reg k need (k.offset + off) 32 1 lane with
  | (s, .error x) => (s, .error x)
  | (s, .ok bs) =>
      let w := natOfBytes bs
      let a : Attached := { cap := k, nodeOff := field w 208 48, triOff := 0, nTri := 0, nNode := field w 176 32 }
      if field w 0 176 ≠ 0 || a.nodeOff % 16 ≠ 0 || a.nNode = 0 || 2 ^ 24 < a.nNode then (s, .error (.trap bad))
      else match c.regionOk s reg k need (k.offset + a.nodeOff) (48 * a.nNode) lane with
        | (s, .error x) => (s, .error x)
        | (s, .ok _) => (s, .ok a)

def execLtset (f : QForm) (s : State) : Host.Outcome State Fault Refusal :=
  runSlot s fun c => c.attachSlot f 8 fun c reg off l bad => c.attachTree reg off l bad

/-- ARG names an s register or a latch; no value stands in for it (R203, R373). -/
def execLtsmp (f : QForm) (s : State) : Host.Outcome State Fault Refusal :=
  runSlot s fun c => c.requestSlot f 8 (fun _ => faultIf f.arg.unused (illegalOperand 3 5 0)) (fun _ => none) fun w a => .light (w.setWidth 32) a

/-! ## The walk (R374) -/

/-- The importance of a node, from its 48 bytes, for a point and a normal. -/
def importance (bs : List Byte) (p n : V3) : Nat :=
  let r := word32 bs 12
  let w := word32 bs 16
  let dv := (vec3 bs 0).sub p
  let d2 := dv.dot dv
  let g := fLe 0 (fAdd (n.dot dv) r)
  let f := fEq d2 0 || fLe (fMul (word32 bs 32) (fSqrt d2)) (fNeg ((vec3 bs 20).dot dv))
  let rr := fMul r r
  let den := if fIsNan d2 then d2 else if fIsNan rr then rr else fMax d2 rr
  let i := if g && f then (if fEq den 0 then w else fDiv w den) else 0
  if fIsNan i then 0 else i

/-- The result word of a walk. -/
def lightWord (levels light pdf : Nat) : W64 := BitVec.ofNat 64 (levels * 2 ^ 56 + light % 2 ^ 24 * 2 ^ 32 + pdf % 2 ^ 32)
def lightFail (levels : Nat) : W64 := lightWord levels 0xFFFFFF 0

/-- The importance of child `c`: +0 for none, and a failure for an index at or beyond NNODE. -/
def childImportance (rd : Nat → Nat → Except UnitStop (List Byte)) (a : Attached) (p n : V3) (c : Nat) :
    Except UnitStop (Option Nat) :=
  if c = 0xFFFFFFFF then .ok (some 0)
  else if a.nNode ≤ c then .ok none
  else match rd (a.nodeOff + 48 * c) 48 with
    | .error x => .error x
    | .ok bs => .ok (some (importance bs p n))

/-- The walk from a node, at most `fuel` levels further. -/
def lightWalk (rd : Nat → Nat → Except UnitStop (List Byte)) (draw : Nat → Nat) (a : Attached) (p n : V3) :
    Nat → Nat → Nat → Nat → Nat → Except UnitStop W64
  | fuel, node, pdf, d, levels =>
      match rd (a.nodeOff + 48 * node) 48 with
      | .error x => .error x
      | .ok bs =>
          let tail := word32 bs 44
          if tail.testBit 31 then .ok (lightWord levels (tail % 2 ^ 24) pdf)
          else match fuel with
            | 0 => .ok (lightFail levels)
            | fuel + 1 =>
                let c0 := word32 bs 36
                let c1 := word32 bs 40
                match childImportance rd a p n c0, childImportance rd a p n c1 with
                | .error x, _ => .error x
                | _, .error x => .error x
                | .ok (some il), .ok (some ir) =>
                    let t := fAdd il ir
                    if !(fLt 0 t && fFinite t) then .ok (lightFail levels)
                    else
                      let pl := fDiv il t
                      let left := fLt (draw d) pl
                      let pdf := fMul pdf (if left then pl else fSub 0x3F800000 pl)
                      let next := if left then c0 else c1
                      if a.nNode ≤ next then .ok (lightFail (levels + 1))
                      else lightWalk rd draw a p n fuel next pdf ((d + 1) % 2 ^ 32) (levels + 1)
                | _, _ => .ok (lightFail levels)

/-- Every lane's walk in turn. -/
def lightLanes (s : State) (b : Taken) (l0 : Launch) (d0 : Nat) (a : Attached) : List Nat → Except UnitStop (List (Nat × W64))
  | [] => .ok []
  | l :: ls =>
      let (w0, w1, w2, w3) := (b.word 0 l, b.word 1 l, b.word 2 l, b.word 3 l)
      let p : V3 := ⟨low32 w0, high32 w0, low32 w1⟩
      let n : V3 := ⟨low32 w2, high32 w2, low32 w3⟩
      let draw (d : Nat) : Nat := uniform (l0.draw (join32 (high32 w3) (high32 w1)) d)
      match lightWalk (s.viaCap (b.core / 48) b.vf a.cap (rRead + rEngine)) draw a p n 32 0 0x3F800000 d0 0 with
      | .error x => .error x
      | .ok r => match lightLanes s b l0 d0 a ls with
        | .error x => .error x
        | .ok rs => .ok ((l, r) :: rs)

def execLightWalk (pair : Nat) (s : State) : Host.Outcome State Fault Refusal :=
  .next <|
    let e : EngineRef := { kind := .light, unit := pair }
    match s.command? e with
    | some b =>
        (match b.cmd with
        | .light d0 a =>
            let m := b.first.mask
            (match lightLanes s b (s.launchOfParcel b.parcel) d0.toNat a (lanes m) with
            | .error x => s.engineStops e b x (fun _ => []) true
            | .ok rs => s.engineDone e b [QEntry.ofLanes m fun l => ((rs.find? fun r => r.1 = l).map fun r => r.2).getD 0] 1 0 0)
        | _ => s)
    | none => s

end Sys2Proof.Machine
end

