-- ==== Sys2Proof/Machine/Power.lean ====
section
/-!
DEFINITION. The power states of the islands, the datum trigger from outside, snapshot reads under the security matrix, and
storage errors (R81 to R84, R105, R106, R449 to R453, R455).
-/
namespace Sys2Proof.Machine
open Sys2Proof

/-! ## ISLAND_POWER_CHANGE (R450, R455) -/

/-- The die of an island of a compute die, and its place among the 30 islands of the die: 0 to 23 the core pairs, 24 the L2
SRAM, 25 the slice logic, 26 and 27 the HBM PHYs, 28 the links, 29 the ray and reservoir engines. -/
def islandDie (n : Nat) : Nat := n / 30
def islandPlace (n : Nat) : Nat := n % 30

/-- Every core-pair island of a die is off. -/
def State.pairsOff (s : State) (d : Nat) : Bool := (span (30 * d) 24).all fun n => s.island n = .off

/-- A core pair holds no resident group and no allocation. -/
def State.pairEmpty (s : State) (pair : Nat) : Bool := !(s.parcels.any fun p => p.core / 2 = pair) && s.placements.all fun p => p.cores.all fun c => c / 2 ≠ pair

/-- The engines of a die that stand in an island hold no command and no result. -/
def State.enginesEmpty (s : State) (d n : Nat) : Bool :=
  s.engines.all fun e => engineDie e.1 ≠ d || e.2.busy.isNone && e.2.results.isEmpty || n ≠ 30 * d + 29

/-- What an island must not hold when it is turned off. -/
def State.islandEmpty (s : State) (n : Nat) : Bool :=
  let d := islandDie n
  let k := islandPlace n
  if 120 ≤ n then true
  else if k < 24 then s.pairEmpty (24 * d + k)
  else if k = 24 then (s.die d).pinned.isEmpty
  else if k = 25 then (s.die d).slices.all fun e => e.2.grants.isEmpty && e.2.watches.isEmpty && e.2.queued.isEmpty && e.2.counts.isEmpty
  else s.enginesEmpty d n

/-- Whether firmware may bring an island into a state now. (DESIGN CHOICE, log entry 56) -/
def State.mayChange (s : State) (n : Nat) (st : IslandState) : Bool :=
  let shared := 24 ≤ islandPlace n && islandPlace n ≠ 29 && n < 120
  n < 128 && s.island n ≠ st && (st = .active || !shared || s.pairsOff (islandDie n)) && (st ≠ .off || s.islandEmpty n)

/-- The dirty lines of a die are written back. -/
def State.cleanL2 (s : State) (d : Nat) : State :=
  s.setDie d { s.die d with l2 := (s.die d).l2.map fun x => { x with dirty := false, below := [] } }

/-- The state of an island that is turned off is lost. -/
def State.loseIsland (s : State) (n : Nat) : State :=
  let d := islandDie n
  let k := islandPlace n
  let s := { s with control := { s.control with snaps := s.control.snaps.filter fun e => islandOf (e.1 / 4096) (e.1 % 4096) ≠ n } }
  if 120 ≤ n then s
  else if k < 24 then
    let p := 24 * d + k
    { s with cores := s.cores.dropRange (2 * p) (2 * p + 2), pairs := s.pairs.dropRange p (p + 1), pairTlbs := s.pairTlbs.dropRange p (p + 1) }
  else if k = 24 then s.setDie d { s.die d with l2 := [] }
  else if k = 25 then s.setDie d { s.die d with slices := [] }
  else if k = 29 then
    { s with engines := s.engines.filter fun e => engineDie e.1 ≠ d || !(512 ≤ e.1 && e.1 < 1280) }
  else s

/-- Package-standby: every compute-die island is off. -/
def State.noteStandby (s : State) : State :=
  { s with control := { s.control with standby := (span 0 120).all fun n => s.island n = .off } }

/-- (DESIGN CHOICE, log entry 56) -/
def execIslandPowerChange (island : Nat) (state : IslandState) (s : State) : Host.Outcome State Fault Refusal :=
  .next <|
    if s.control.boot ≠ .running || !s.mayChange island state then s
    else
      let shared := 24 ≤ islandPlace island && islandPlace island ≠ 29 && island < 120
      let s := if shared && state ≠ .active then s.cleanL2 (islandDie island) else s
      let s := if state = .off then s.loseIsland island else s
      ({ s with control := { s.control with islands := Tbl.put .active s.control.islands island state } }).noteStandby

/-! ## The datum trigger (R81, R452) -/

def execDatumInEdge (s : State) : Host.Outcome State Fault Refusal := .next (s.fireDatum 3 0).1

def execDebugPortDatumTrigger (s : State) : Host.Outcome State Fault Refusal :=
  .next (if s.debugPort then (s.fireDatum 2 0).1 else s)

/-- A block of a die that the manual names. -/
def blockExists (die block : Nat) : Bool := allBlocks.contains (die, block)

def execSnapstatClear (die block : Nat) (value : W64) (s : State) : Host.Outcome State Fault Refusal :=
  .next <|
    let k := snapKey die block
    let x := Tbl.get Snapshot.clear s.control.snaps k
    if value.getLsbD 0 && s.island (islandOf die block) ≠ .off then
      { s with control := { s.control with snaps := Tbl.put Snapshot.clear s.control.snaps k { x with stat := x.stat &&& ~~~1 } } }
    else s

/-! ## SNAPSHOT_READ (R449 to R451) -/

/-- The pattern of an island that is off. -/
def offPattern : W64 := 0x0FF00FF00FF00FF0

/-- The cells of R451 that answer 0 to the debug port and to functions. (DEDUCED, log entry 57) -/
def State.deniesReads (s : State) : Bool :=
  match s.control.debug with
  | .off => true
  | .selfHosted => s.control.lifecycle = .blank
  | .invasive => false

/-- The value that a register of a block holds latched. -/
def State.latched (s : State) (die block index : Nat) : W64 :=
  let x := Tbl.get Snapshot.clear s.control.snaps (snapKey die block)
  if index = 0 then x.stat else x.regs.getD (index - 1) 0

/-- The parcel of a function is resident on a core. -/
def State.residentOn (s : State) (vf die block : Nat) : Bool :=
  die ≠ controlDie && block < 0x30 && s.groups.any fun g => g.resident && g.core = 48 * die + block && (s.launchOf g).vf = vf

/-- What a reader receives, and whether the read is recorded as denied. (DEDUCED, log entry 57) -/
def State.snapshotValue (s : State) (reader : SnapReader) (die block index : Nat) : W64 × Bool :=
  let value := if s.island (islandOf die block) = .off then offPattern else s.latched die block index
  match reader with
  | .firmware => (value, false)
  | .debugPort => if s.deniesReads then (0, true) else (value, false)
  | .vf n =>
      if s.deniesReads then (0, true)
      else if s.debugOn n && s.residentOn n die block then (value, false) else (0, false)

def execSnapshotRead (reader : SnapReader) (die block index : Nat) (s : State) : Host.Outcome State Fault Refusal :=
  .next <|
    if !blockExists die block then s
    else
      let (w, denied) := s.snapshotValue reader die block index
      let s := { s with replies := s.replies ++ [.word w] }
      if denied then s.book 0x07 (BitVec.ofNat 8 die) (BitVec.ofNat 16 block) (BitVec.ofNat 128 index) else s

/-! ## The debugger (R84, R429, R430) -/

/-- Whether a debugger reaches a group: the debug port, or self-hosted debug of its function. -/
def State.debugs (s : State) (g : Group) : Bool := s.debugPort || s.debugOn (s.launchOf g).vf

def execDebuggerLatchWrite (g latch lane : Nat) (value : W64) (s : State) : Host.Outcome State Fault Refusal :=
  .next <|
    match s.group? g with
    | none => s
    | some x => match x.status with
      | .stopped _ =>
          if !s.debugs x || 4 ≤ latch || x.width ≤ lane then s
          else
            let t := Tbl.put 0 (Tbl.get [] x.dbg.lat latch) lane value
            s.setGroup { x with dbg := { x.dbg with lat := Tbl.put [] x.dbg.lat latch t, empty := x.dbg.empty &&& ~~~(BitVec.ofNat 4 (2 ^ latch)) } }
      | _ => s

/-- The debug port resumes a group that stopped at it. -/
def execDebugPortResume (g : Nat) (s : State) : Host.Outcome State Fault Refusal :=
  .next <|
    match s.group? g with
    | none => s
    | some x => if s.debugPort && x.status = .stopped none then s.resumeBreak x else s

/-- The writable fields of a breakpoint register. (DESIGN CHOICE, log entry 58) -/
def bpFields (x : W128) : W128 := x &&& ~~~(BitVec.ofNat 128 (2 ^ 22 - 8))

/-- (DESIGN CHOICE, log entry 58) -/
def execBreakpointWrite (w : DebugWriter) (core n : Nat) (value : W128) (s : State) : Host.Outcome State Fault Refusal :=
  .next <|
    let may := match w with
      | .debugPort => s.debugPort
      | .vf v => s.debugOn v && (value.extractLsb' 58 6).toNat = v
    if !may || 192 ≤ core || 8 ≤ n || s.island (islandOf (core / 48) (core % 48)) = .off then s
    else s.setCore core { s.core core with bps := Tbl.put 0 (s.core core).bps n (bpFields value) }

/-! ## STORAGE_ERROR (R105, R106) -/

/-- A storage error in the field book: the memory, the location and the outcome (0 refetched, 1 corrected, 2 poisoned).
(DESIGN CHOICE, log entry 38) -/
def State.bookError (s : State) (die block memory loc outcome : Nat) : State :=
  s.book 0x01 (BitVec.ofNat 8 die) (BitVec.ofNat 16 block) (BitVec.ofNat 128 (loc % 2 ^ 64 + outcome * 2 ^ 64 + memory * 2 ^ 72))

/-- A sector of memory is marked poisoned. -/
def State.poisonSector (s : State) (n : Nat) : State := { s with poison := if s.poison.contains n then s.poison else s.poison ++ [n] }

/-- A number added to a list that holds no number twice. -/
def withNat (l : List Nat) (n : Nat) : List Nat := if l.contains n then l else l ++ [n]

/-- The error counters of the home slice of a cell. -/
def State.countSlice (s : State) (c : Nat) (poisoned : Bool) : State :=
  let d := s.die (homeDie c)
  let x := d.slice (homeSlice c)
  s.setDie (homeDie c) (d.setSlice (homeSlice c)
    (if poisoned then { x with lpois := x.lpois + 1 } else { x with lcorr := x.lcorr + 1 }))

/-- An error in the entry `n / 2` of an L1, in the half `n % 2` of its line: a line that is not private is refetched.
(DESIGN CHOICE, log entry 63) -/
def State.l1Error (s : State) (core n : Nat) (one : Bool) : State :=
  let c := s.core core
  match c.l1[n / 2]? with
  | none => s
  | some x => match x.owner with
    | none => (s.setCore core { c with l1 := c.l1.eraseIdx (n / 2) }).bookError (core / 48) (core % 48) 1 (x.line * 128) 0
    | some u =>
        let s := s.bookError (core / 48) (core % 48) 1 (x.line * 128) (if one then 1 else 2)
        if one then s
        else match s.group? u with
          | some g => s.setGroup { g with ownPoison := withNat g.ownPoison (x.line * 2 + n % 2) }
          | none => s

/-- An error in the 64-byte sector `n` of a line of the L2: a clean line is refetched. -/
def State.l2Error (s : State) (n : Nat) (one : Bool) : State :=
  let c := n * 64
  let d := homeDie c
  let block := 0x100 + homeSlice c
  match (s.die d).l2.find? fun x => x.line = n / 4 with
  | none => s
  | some x =>
      if !x.dirty then (s.setDie d { s.die d with l2 := (s.die d).l2.filter fun y => y.line ≠ n / 4 }).bookError d block 2 c 0
      else if one then (s.countSlice c false).bookError d block 2 c 1
      else ((s.poisonSector n).countSlice c true).bookError d block 2 c 2

/-- A sector of a tile of a parcel, in the tile memory of the core that holds it or, for a DIE tile, in the pinned pool of its die.  R83
gives the pinned pool no block of its own: its errors name the block of the die's first slice. (DESIGN CHOICE, log entry 38) -/
def State.tileError (s : State) (parcel handle sector : Nat) (one : Bool) : State :=
  match s.tileOf parcel handle with
  | some t =>
      if t.bytes ≤ sector * 64 then s
      else
        let (u, o) := t.unitOf (sector * 64)
        let s := if t.level = 2 then s.bookError (t.core / 48) 0x100 8 (u * 4096 + o) (if one then 1 else 2)
          else s.bookError (t.core / 48) (t.core % 48) 3 (u * 4096 + o) (if one then 1 else 2)
        if one then s else s.setTile parcel handle { t with poison := withNat t.poison sector }
  | none => s

/-- A register block of a group. -/
def State.registerError (s : State) (u r lane : Nat) (one : Bool) : State :=
  match s.group? u with
  | none => s
  | some g =>
      let s := s.bookError (g.core / 48) (g.core % 48) 4 (r * 64 + lane) (if one then 1 else 2)
      if one then s else s.setGroup { g with badRegs := withNat g.badRegs (64 * (r / 8) + lane) }

/-- A record of a commit log, in the pinned pool. (DESIGN CHOICE, log entry 38) -/
def State.logError (s : State) (parcel record : Nat) (one : Bool) : State :=
  match s.parcel? parcel with
  | none => s
  | some p => match p.log[record]? with
    | none => s
    | some r =>
        let s := s.bookError (p.core / 48) 0x100 5 record (if one then 1 else 2)
        if one || r.isBad then s else s.setParcel { p with log := p.log.set record (.bad r) }

/-- A record of a reservoir store, by its number in the carve-out, in the pinned pool. (DESIGN CHOICE, log entry 38) -/
def State.reservoirError (s : State) (vf die record : Nat) (one : Bool) : State :=
  if 512 * (s.rect die vf).tiles ≤ record then s
  else
    let s := s.bookError die 0x100 6 (record * 32) (if one then 1 else 2)
    let d := s.die die
    if one || d.rsvBad.contains (vf, record / 2) then s else s.setDie die { d with rsvBad := d.rsvBad ++ [(vf, record / 2)] }

/-- A sector of device memory that no line of the L2 holds, named by its channel and its offset there (R96). -/
def State.hbmError (s : State) (n : Nat) (one : Bool) : State :=
  let c := n * 64
  let d := homeDie c
  let phy := stackOf (cellPa c) % 2
  let loc := channelOf (cellPa c) * 2 ^ 32 + channelOffset (cellPa c)
  if !cellExists c 64 || cellTgt c ≠ 0 || (s.die d).l2.any fun x => x.line = n / 4 then s
  else if one then
    let x := s.die d
    (s.setDie d { x with hcorr := Tbl.put 0 x.hcorr phy (Tbl.get 0 x.hcorr phy + 1) }).bookError d (0x170 + phy) 7 loc 1
  else (s.poisonSector n).bookError d (0x170 + phy) 7 loc 2

/-- (DESIGN CHOICE, log entry 63) -/
def execStorageError (e : StorageError) (s : State) : Host.Outcome State Fault Refusal :=
  .next <|
    match e with
    | .l1Line core line one => s.l1Error core line one
    | .l2Line line one => s.l2Error line one
    | .loopBuffer core => match (s.core core).loop with
        | some _ => (s.setCore core { s.core core with loop := none }).bookError (core / 48) (core % 48) 0 0 0
        | none => s
    | .tile parcel handle sector one => s.tileError parcel handle sector one
    | .register g r lane one => s.registerError g r lane one
    | .pinnedLog parcel record one => s.logError parcel record one
    | .reservoir vf die record one => s.reservoirError vf die record one
    | .hbm sector one => s.hbmError sector one

end Sys2Proof.Machine
end

