-- ==== Sys2Proof/Machine/Resurvey.lean ====
section
/-!
DEFINITION. The resurvey engine: the survey of a chain of KV pages and the compaction of each page (R147, R148, R156, R353).
-/
namespace Sys2Proof.Machine
open Sys2Proof

/-! ## The survey -/

/-- What a command has throughout: its die and function, its capability with the register that named it, the type of its pages, and
its word. -/
structure KvCtx where
  die : Nat
  vf  : Nat
  cap : Cap
  reg : Nat
  ty  : ElemType
  w   : W64
  deriving DecidableEq, Repr

/-- How its reads and writes travel. -/
def KvCtx.via (c : KvCtx) : Via := { die := c.die, cls := clsBulk }

def KvCtx.pitch (c : KvCtx) : Nat := pagePitch c.ty (kvD c.w)
def KvCtx.size (c : KvCtx) : Nat := pageSize c.pitch
def KvCtx.block (c : KvCtx) (page : List Byte) : List Byte := page.drop (pageBlock c.pitch)

/-- A page that the survey has read: its virtual address and its block. -/
structure Surveyed where
  va    : Nat
  block : List Byte
  deriving DecidableEq, Repr

/-- The page at offset `o` of the capability, checked and read. -/
def KvCtx.readPage (c : KvCtx) (s : State) (o : Nat) : State × Except UnitStop Surveyed :=
  match s.capCheck none c.vf c.cap (rRead + rWrite) o c.size 64 with
  | (s, .error x) => (s, .error (.fault (capabilityFault x c.reg o 0)))
  | (s, .ok va) =>
      match s.unitRead c.via c.vf [] va c.size with
      | (s, .error x) => (s, .error x)
      | (s, .ok bs) =>
          if blkOk (c.block bs) then (s, .ok { va := va, block := c.block bs })
          else (s, .error (.fault (kvFault 1 (va + pageBlock c.pitch))))

/-- The offset in the capability's object, modulo 2^64, of the page whose block is at `next`. -/
def KvCtx.offsetOf (c : KvCtx) (s : State) (next : Nat) : Nat :=
  let base := ((s.object none c.vf c.cap.obj).2.map objBase).getD 0
  (next + 2 ^ 64 - pageBlock c.pitch - base) % 2 ^ 64

/-- The pages of a command in chain order, at most `fuel`. -/
def KvCtx.chain (c : KvCtx) : Nat → State → Nat → State × Except UnitStop (List Surveyed)
  | 0, s, o => (s, .error (.fault (kvFault 2 o)))
  | fuel + 1, s, o =>
      match c.readPage s o with
      | (s, .error x) => (s, .error x)
      | (s, .ok p) =>
          let next := blkNext p.block
          if !kvChain c.w || next = 0 then (s, .ok [p])
          else if fuel = 0 then (s, .error (.fault (kvFault 2 next)))
          else match c.chain fuel s (c.offsetOf s next) with
            | (s, .ok ps) => (s, .ok (p :: ps))
            | (s, .error x) => (s, .error x)

/-- A live slot of a surveyed page. -/
structure KvSlot where
  page : Nat
  slot : Nat
  mass : Nat
  mon  : Nat
  seq  : Nat
  deriving DecidableEq, Repr

def kvSlots (ps : List Surveyed) : List KvSlot :=
  (((span 0 ps.length).zip ps).map fun p => (span 0 (blkLive p.2.block)).map fun i =>
    { page := p.1, slot := i, mass := blkMass p.2.block i, mon := blkMon p.2.block i, seq := blkSeq p.2.block : KvSlot }).flatten

/-- The order of keep-count mode: more mass, then lower MON, then the earlier page, then the lower slot. -/
def KvSlot.before (a b : KvSlot) : Bool :=
  b.mass < a.mass || (a.mass = b.mass && (a.mon < b.mon || (a.mon = b.mon && (a.page < b.page
    || (a.page = b.page && a.slot < b.slot)))))

/-- Whether a slot survives the survey. -/
def KvCtx.survives (c : KvCtx) (all : List KvSlot) (x : KvSlot) : Bool :=
  if kvMode c.w = 0 then kvParam c.w ≤ x.mass
  else (all.filter fun y => y.seq = x.seq && y.before x).length < kvParam c.w

/-- The survivors of every page: its address, the surviving slots, and the surveyed LIVE.
(DESIGN CHOICE, log entry 27) -/
def KvCtx.survivors (c : KvCtx) (ps : List Surveyed) : List (Nat × List Nat × Nat) :=
  let all := kvSlots ps
  ((span 0 ps.length).zip ps).map fun p =>
    (p.2.va, (all.filter fun x => x.page = p.1 && c.survives all x).map fun x => x.slot, blkLive p.2.block)

/-! ## The compaction -/

/-- MASSOP on a survivor's mass (R156). -/
def massOp (op x : Nat) : Nat := match op with | 0 => x | 1 => x / 2 | _ => 0

/-- A page after its compaction with the survivors `keep`. -/
def KvCtx.compact (c : KvCtx) (page : List Byte) (keep : List Nat) : List Byte :=
  let p := c.pitch
  let b := c.block page
  let n := keep.length
  let rows (base : Nat) : List Byte :=
    (keep.map fun i => (page.drop (base + i * p)).take p).flatten ++ List.replicate ((64 - n) * p) 0
  let word (f : Nat → Nat) (rest : Nat) : List Byte :=
    (keep.map fun i => bytesOfNat 4 (f i)).flatten ++ (List.replicate (64 - n) (bytesOfNat 4 rest)).flatten
  let h := setField (setField (blkHeader b) 0 7 n) 32 16 (blkGen b + 1)
  rows 0 ++ rows (64 * p) ++ word (fun i => massOp (kvMassOp c.w) (blkMass b i)) 0 ++ word (blkMon b) (2 ^ 32 - 1) ++ bytesOfNat 64 h

/-- The survivors of a page with the slots that were appended since the survey. -/
def kvKeep (sv : List Nat) (live now : Nat) : List Nat := sv ++ span live (min now 64 - live)

/-- Compacts one page as one indivisible update (R470). -/
def KvCtx.compactPage (c : KvCtx) (s : State) (x : Nat × List Nat × Nat) : State × Except UnitStop Unit :=
  match s.unitRead c.via c.vf [] x.1 c.size with
  | (s, .error y) => (s, .error y)
  | (s, .ok bs) =>
      let keep := kvKeep x.2.1 x.2.2 (blkLive (c.block bs))
      match s.unitPieces c.vf .write [(x.1, c.compact bs keep)] with
      | (s, .error y) => (s, .error y)
      | (s, .ok ps) => match s.crossPieces c.via ps with
        | some s => (s.applyPieces 0 ps, .ok ())
        | none => (s, .error .moving)

/-! ## A command -/

/-- The status entry of a command that stops (R313). -/
def kvStatus (f : FaultInfo) : List QEntry := [QEntry.ofScalar (BitVec.ofNat 64 f.code)]

/-- The status entry of one that completes. -/
def kvDone (sv : List (Nat × List Nat × Nat)) : QEntry :=
  let evicted := (sv.map fun x => x.2.2 - x.2.1.length).foldl (· + ·) 0
  QEntry.ofScalar (BitVec.ofNat 64 (evicted % 2 ^ 32 + sv.length % 2 ^ 16 * 2 ^ 32))

/-- One step of a command: the survey first, then one page at a time, then its completion.
(DESIGN CHOICE, log entry 27) -/
def State.kvStep (s : State) (e : EngineRef) (b : Taken) (c : KvCtx) (page : Nat) : State :=
  if b.stage = 0 then
    match c.chain 4096 s page with
    | (s, .error x) => s.engineStops e b x kvStatus false
    | (s, .ok ps) => s.setEngine e { s.engine e with busy := some { b with parked := none, stage := 1, survey := c.survivors ps } }
  else match b.survey[b.stage - 1]? with
    | some x =>
        (match c.compactPage s x with
        | (s, .error y) => s.engineStops e b y kvStatus false
        | (s, .ok _) => s.setEngine e { s.engine e with busy := some { b with parked := none, stage := b.stage + 1 } })
    | none => (s.engineDone e b [kvDone b.survey] 1 0 0).completion b.parcel b.first.semv b.first.sem b.first.inc

def execKvrsSurvey (die : Nat) (s : State) : Host.Outcome State Fault Refusal :=
  .next <|
    let e : EngineRef := { kind := .resurvey, unit := die }
    match s.command? e with
    | some b =>
        (match b.cmd with
        | .kvrs ty cap reg w page => s.kvStep e b { die := die, vf := b.vf, cap := cap, reg := reg, ty := ty, w := w } page.toNat
        | _ => s)
    | none => s

end Sys2Proof.Machine
end

