-- ==== Sys2Proof/Machine/Reuse.lean ====
section
/-!
DEFINITION. The reuse engine: its cards, the checks at submission, the evaluator of callables, and a card's run (R196, R229, R375
to R379).
-/
namespace Sys2Proof.Machine
open Sys2Proof

/-! ## The card (R375) -/

/-- OFFS[k]: dx and dy. -/
def ruOffset (w : BitVec 512) (k : Nat) : Int × Int :=
  ((BitVec.ofNat 6 (field w.toNat (416 + 12 * k) 6)).toInt, (BitVec.ofNat 6 (field w.toNat (422 + 12 * k) 6)).toInt)
def ruField (w : BitVec 512) (lo n : Nat) : Nat := field w.toNat lo n
def ruWidth (w : BitVec 512) : Nat := ruField w 400 16
def ruHeight (w : BitVec 512) : Nat := ruField w 384 16
def ruTy (w : BitVec 512) : Nat := ruField w 368 16
def ruTx (w : BitVec 512) : Nat := ruField w 352 16
def ruCid (w : BitVec 512) : Nat := ruField w 344 8
def ruParam (w : BitVec 512) : Nat := ruField w 338 6
def ruResult (w : BitVec 512) : Nat := ruField w 332 6
def ruSpatial (w : BitVec 512) : Nat := ruField w 328 4
def ruTemporal (w : BitVec 512) : Bool := w.getLsbD 327
def ruMaxAge (w : BitVec 512) : Nat := ruField w 319 8
def ruX0 (w : BitVec 512) : Nat := ruField w 315 4
def ruY0 (w : BitVec 512) : Nat := ruField w 311 4
def ruCols (w : BitVec 512) : Nat := ruField w 307 4 + 1
def ruRows (w : BitVec 512) : Nat := ruField w 303 4 + 1
def ruScene (w : BitVec 512) : Nat := ruField w 255 48

/-! ## Callables (R229, R377) -/

/-- An operand that a callable may name. -/
def bodyOperand (o : Operand) : Bool :=
  match o with
  | .v n => n.toNat < 16
  | .l _ => true
  | _ => false

def bodyForm (f : VForm) : Bool := bodyOperand f.dst && bodyOperand f.sa && bodyOperand f.sb && bodyOperand f.sc

/-- An instruction that a callable may hold: NOP and opcodes 0x18 to 0x37, without KMOV.sk and KMOV.ks. -/
def bodyAllowed : Instr → Bool
  | .nop f | .vmov f | .vadd f | .vsub f | .vmul f | .vfma f | .vmin f | .vmax f | .vabs f | .vneg f | .vdiv f | .vrem f
  | .vand f | .vor f | .vxor f | .vnot f | .vshl f | .vshr f | .vcmp f | .vsel f | .vcvt f | .vpack f | .vunpk f | .vclz f
  | .vpopc f | .vmulh f | .vcpys f | .kand f | .kor f | .kxor f | .knot f | .kmovKk f => bodyForm f
  | .vmovi f => bodyOperand f.dst
  | _ => false

/-- Executes an instruction of a callable. -/
def bodyExec (i : Instr) (s : State) : Host.Outcome State Fault Refusal :=
  match i with
  | .vmov f => execVmov f s
  | .vmovi f => execVmovi f s
  | .vadd f => execVadd f s
  | .vsub f => execVsub f s
  | .vmul f => execVmul f s
  | .vfma f => execVfma f s
  | .vmin f => execVmin f s
  | .vmax f => execVmax f s
  | .vabs f => execVabs f s
  | .vneg f => execVneg f s
  | .vdiv f => execVdiv f s
  | .vrem f => execVrem f s
  | .vand f => execVand f s
  | .vor f => execVor f s
  | .vxor f => execVxor f s
  | .vnot f => execVnot f s
  | .vshl f => execVshl f s
  | .vshr f => execVshr f s
  | .vcmp f => execVcmp f s
  | .vsel f => execVsel f s
  | .vcvt f => execVcvt f s
  | .vpack f => execVpack f s
  | .vunpk f => execVunpk f s
  | .vclz f => execVclz f s
  | .vpopc f => execVpopc f s
  | .vmulh f => execVmulh f s
  | .vcpys f => execVcpys f s
  | .kand f => execKand f s
  | .kor f => execKor f s
  | .kxor f => execKxor f s
  | .knot f => execKnot f s
  | .kmovKk f => execKmovKk f s
  | .nop f => execNop f s
  | _ => .next s

/-- Reads the clauses of a callable: `n` slots in all, from offset `o`, in at most `fuel` clauses.  None when the body breaks
R229 or R377. -/
def readBody (core vf text : Nat) (l : Launch) : Nat → Nat → Nat → State → State × Except Stop (Option (List (List W64)))
  | 0, _, _, s => (s, .ok none)
  | fuel + 1, o, n, s =>
      if n = 0 then (s, .ok (some []))
      else match fetchWords core vf text l 1 o s with
        | (s, .error x) => (s, .error x)
        | (s, .ok hs) =>
            let h := hs.headD 0
            let d := Header.ofWord h
            let k := clauseLength h
            if d.cls ≠ 0 || d.pfx ≠ 0 || n < k then (s, .ok none)
            else match fetchWords core vf text l k (o + 1) s with
              | (s, .error x) => (s, .error x)
              | (s, .ok words) =>
                  if words.all fun w => match decodeSlot Pfx.none w with | .ok i => bodyAllowed i | .error _ => false then
                    match readBody core vf text l fuel (o + 1 + k) (n - k) s with
                    | (s, .ok (some rest)) => (s, .ok (some (words :: rest)))
                    | x => x
                  else (s, .ok none)

/-! ## The evaluator (R377) -/

/-- The lane that evaluates one candidate: a group of one launched lane with v0 to v15. -/
def evalGroup (fmt : W32) (regs : List W64) : Group :=
  let g : Group := { Group.blank with width := 64, launched := 1, allot := 16, p0 := some (Path.at 0 1 none fmt) }
  ((span 0 16).zip regs).foldl (fun g x => g.setVreg x.1 0 x.2) g

def evalRun (ws : List W64) : ClauseRun :=
  { id := 0, path := .s0, clause := 0, header := 0, words := (span 0 ws.length).zip (ws.map fun w => ((0 : W32), w)), idx := 0,
    latches := [], valid := 0, leaving := none, woken := false, noMatch := false }

/-- Executes the slots of one clause, at most `fuel`. -/
def evalSlots : Nat → State → State
  | 0, s => s
  | n + 1, s =>
      match s.running.bind Ctx.fetched with
      | none => s
      | some w => match fetchedInstr w with
        | .error _ => s
        | .ok i => match bodyExec i s with
          | .next t => evalSlots n t
          | _ => s

/-- Executes the clauses in turn. -/
def evalClauses (s : State) (body : List (List W64)) : State :=
  body.foldl (fun s ws =>
    match s.group? 0 with
    | some g => if g.status = .ready then evalSlots ws.length { s.setGroup { g with run := some (evalRun ws) } with active := [0] } else s
    | none => s) s

/-- What a callable leaves: v0 to v4, or the fault that stopped it, with ENGINE 0x05 for a NaN trap (R195, R196). -/
def evaluate (fmt : W32) (body : List (List W64)) (regs : List W64) : Except FaultInfo (List W64) :=
  let s := evalClauses { State.reset with groups := [evalGroup fmt regs] } body
  match s.group? 0 with
  | some g =>
      if g.status = .ready then .ok ((span 0 5).map fun r => g.vreg r 0)
      else match (s.vf 0).records.head? with
        | some r =>
            if r.info.code = 0x10 then
              .error { r.info with detail := BitVec.ofNat 192 (setField r.info.detail.toNat 184 8 5) }
            else .error r.info
        | none => .ok []
  | none => .ok []

/-! ## Submission (R376) -/

/-- A tile of the shape that a card needs. -/
def ruTileOk (p : Parcel) (h cols : Nat) : Bool :=
  match p.tile? h with
  | some t => t.ty = .n64 && 256 ≤ t.rows && cols ≤ t.cols
  | none => false

/-- The rows of R376 below the callable's. -/
def ruShapeFault (p : Parcel) (w : BitVec 512) (d : Nat) : Option FaultInfo :=
  firstFault [
    faultIf (!ruTileOk p (ruParam w) 8 || !ruTileOk p (ruResult w) 4 || ruParam w = ruResult w) (illegalOperand 6 28 d),
    faultIf (8 < ruSpatial w || 16 < ruX0 w + ruCols w || 16 < ruY0 w + ruRows w || ruField w 0 255 ≠ 0) (illegalOperand 6 28 d)]

def execReuse (f : QForm) (s : State) : Host.Outcome State Fault Refusal :=
  runSlot s fun c =>
    let e := c.enabled f.pg f.pn
    let l := (lowest e).getD 0
    let q := f.qd.toNat
    let reg := f.cap.toNat
    let check (xs : List Src) : Option FaultInfo :=
      let d := ((xs.headD fun _ => 0) l).toNat
      firstFault [faultIf (d % 64 ≠ 0) (illegalOperand 6 28 d), c.incFault f, c.g.pushFault q 7]
    c.raySlot e [] [⟨28, f.desc, .sl, 1⟩] false (o := { always := false, access := true, check := check }) fun c g xs => c.notBehind <|
      let d := ((xs.headD fun _ => 0) l).toNat
      let k := c.g.cap reg
      match c.readDescriptor false reg k (rRead + rEngine) (k.offset + d) 64 1 l with
      | (s, .error x) => .stop s c.g x
      | (s, .ok bs) =>
          let w := BitVec.ofNat 512 (natOfBytes bs)
          match { c with s := s }.attachScene reg (ruScene w) l (capabilityFault 1 reg (k.offset + ruScene w) l) with
          | (s, .error x) => .stop s c.g x
          | (s, .ok scene) =>
              if !(s.rect c.die c.vf).has (ruTx w) (ruTy w) then .stop s c.g (.trap (capabilityFault 7 reg d l))
              else match c.launch.image.find? fun x => x.1 = ruCid w with
                | none => .stop s c.g (.trap (illegalOperand 6 28 d))
                | some (_, count, entry) =>
                    match readBody c.g.core c.vf c.launch.text c.launch 65 entry.toNat count s with
                    | (s, .error x) => .stop s c.g x
                    | (s, .ok none) => .stop s c.g (.trap (illegalOperand 6 28 d))
                    | (s, .ok (some body)) =>
                        match ruShapeFault c.parcel w d with
                        | some x => .stop s c.g (.trap x)
                        | none =>
                            if g.queueFull q then .stop s c.g (.block (.queue q))
                            else
                              let x : QEntry := { QEntry.ofScalar d with
                                cmd := some (.reuse k w c.p.fmt scene body), semv := f.semv, sem := f.sem.toNat, inc := f.inc.toNat,
                                clause := c.r.clause, slot := c.r.idx }
                              .done s (g.pushEntry q x) none none

/-! ## A card's run (R378) -/

/-- What a run has for every pixel: the state that it reads, the command, and its launch. -/
structure RuCtx where
  s      : State
  b      : Taken
  l      : Launch
  die    : Nat
  card   : BitVec 512
  fmt    : W32
  scene  : Attached
  body   : List (List W64)
  params : Tile

/-- A record read through the halo, that of another die over the die-to-die link (R101); none for a pixel that is not readable. -/
def RuCtx.read (r : RuCtx) (p : W64) (prev : Bool) : Except UnitStop (Option Reservoir) :=
  match r.s.rsvPlace r.die r.b.vf p (rsvSlot r.l prev) with
  | .outside => .ok none
  | .nowhere => .ok (some .empty)
  | .at d b =>
      if (crossHalo r.die [.at d b] r.s).isNone then .error .moving
      else if r.s.rsvPoisoned d r.b.vf b then .error (.fault (poisonFault 4 0 0))
      else .ok (some (.ofNat (natOfBytes (r.s.rsvBytes d r.b.vf b))))

/-- A pixel of the screen at an offset from another. -/
def ruNeighbour (card : BitVec 512) (p : W64) (k : Nat) : Option W64 :=
  let o := ruOffset card k
  let x := (pixX p : Int) + o.1
  let y := (pixY p : Int) + o.2
  if o ≠ (0, 0) && 0 ≤ x && x < ruWidth card && 0 ≤ y && y < ruHeight card then some (join32 y.toNat x.toNat) else none

/-- The row of PARAM and RESH of a pixel. -/
def ruRow (p : W64) : Nat := pixY p % 16 * 16 + pixX p % 16
def RuCtx.param (r : RuCtx) (p : W64) (c : Nat) : W64 := BitVec.ofNat 64 (r.params.window (ruRow p) c)

/-- The spatial candidates, from offset `k`. -/
def RuCtx.spatial (r : RuCtx) (p : W64) : Nat → Nat → Except UnitStop (List Reservoir)
  | 0, _ => .ok []
  | n + 1, k => do
      let c ← match ruNeighbour r.card p k with | some q => r.read q false | none => .ok none
      let rest ← r.spatial p n (k + 1)
      .ok (c.toList ++ rest)

/-- The temporal candidate. -/
def RuCtx.temporal (r : RuCtx) (p : W64) : Except UnitStop (List Reservoir) :=
  if !ruTemporal r.card then .ok []
  else match reproject p (r.param p 7) (join32 (ruHeight r.card) (ruWidth r.card)) with
    | none => .ok []
    | some q => do
        let c ← r.read q true
        .ok ((c.toList.map Reservoir.older).filter fun c => c.age ≤ ruMaxAge r.card)

/-- The candidates with a sample merged in order; the count of those that were merged. -/
def RuCtx.mergeAll (r : RuCtx) (p : W64) (own : Reservoir) : List Reservoir → Reservoir × Nat → Except UnitStop (Reservoir × Nat)
  | [], x => .ok x
  | c :: cs, x =>
      if !c.samp then r.mergeAll p own cs x
      else
        let regs := quadWords c.toNat ++ quadWords own.toNat ++ (span 0 8).map (r.param p)
        match evaluate r.fmt r.body regs with
        | .error f => .error (.fault f)
        | .ok v =>
            let w (i : Nat) : W64 := v.getD i 0
            let go : Except UnitStop Bool :=
              if (w 0).getLsbD 32 then .ok true
              else match r.s.trace r.die r.b.vf r.scene (.ofWords (w 1) (w 2) (w 3) (w 4)) false with
                | .error y => .error y
                | .ok t => .ok (t.1 = .miss)
            match go with
            | .error y => .error y
            | .ok ok => r.mergeAll p own cs (if ok then (x.1.merge c r.l p (low32 (w 0)), x.2 + 1) else x)

/-- The result of a pixel: its record, and the candidates merged. -/
def RuCtx.pixel (r : RuCtx) (p : W64) : Except UnitStop (Reservoir × Nat) := do
  match r.params.poisonAt (ruParam r.card) ((span 0 8).map fun c => (ruRow p, c)) with
  | some f => .error (.fault f)
  | none =>
      let own ← r.read p false
      let own := own.getD .empty
      let near ← r.spatial p (ruSpatial r.card) 0
      let old ← r.temporal p
      let x ← r.mergeAll p own (near ++ old) (own, 0)
      .ok (x.1.normal, x.2)

/-- The pixels of a card that lie on the screen. -/
def ruPixels (w : BitVec 512) : List W64 :=
  (gridOf (ruRows w) (ruCols w)).filterMap fun x =>
    let px := 16 * ruTx w + ruX0 w + x.2
    let py := 16 * ruTy w + ruY0 w + x.1
    if px < ruWidth w && py < ruHeight w then some (join32 py px) else none

def RuCtx.pixels (r : RuCtx) : List W64 → Except UnitStop (List (W64 × Reservoir × Nat))
  | [] => .ok []
  | p :: ps => do
      let x ← r.pixel p
      let xs ← r.pixels ps
      .ok ((p, x) :: xs)

/-- The elements of RESH that a pixel's result writes. -/
def ruElements (h : Nat) (x : W64 × Reservoir × Nat) : List (Nat × Nat × Nat × Nat) :=
  ((span 0 4).zip (quadWords x.2.1.toNat)).map fun y => (h, ruRow x.1, y.1, y.2.toNat)

def execReuseCardRun (pair : Nat) (s : State) : Host.Outcome State Fault Refusal :=
  .next <|
    let e : EngineRef := { kind := .reuse, unit := pair }
    match s.command? e with
    | some b =>
        (match b.cmd with
        | .reuse _ card fmt scene body =>
            let r : RuCtx := { s := s, b := b, l := s.launchOfParcel b.parcel, die := pair / 24, card := card, fmt := fmt,
                               scene := scene, body := body, params := s.unitTile b.parcel (ruParam card) }
            (match r.pixels (ruPixels card) with
            | .error x => s.engineStops e b x (fun _ => []) false
            | .ok xs =>
                let s := s.putElements b.parcel (xs.flatMap (ruElements (ruResult card)))
                let s := s.engineDone e b [] 1 ((xs.map fun x => x.2.2).foldl (· + ·) 0) 0
                s.completion b.parcel b.first.semv b.first.sem b.first.inc)
        | _ => s)
    | none => s

end Sys2Proof.Machine
end

