-- ==== Sys2Proof/Machine/Sampler.lean ====
section
/-!
DEFINITION. The sampler: SMPBIND, SMPT and SMPB (R388, R389).
-/
namespace Sys2Proof.Machine
open Sys2Proof

/-! ## Textures (R388) -/

/-- The texture of a descriptor; none for one that breaks R388. -/
def textureOf (k : Cap) (w : Nat) : Option Texture :=
  let ty := ElemType.ofCode (BitVec.ofNat 4 (field w 124 4))
  let ok := field w 0 122 = 0 && field w 192 16 = 0 && field w 208 48 % 8 = 0 && field w 160 32 % 8 = 0 && field w 122 2 ≠ 3
  match ty with
  | some t =>
      if ok && (t = .f32 || t = .f16 || t = .bf16 || t = .n8) then
        some { cap := k, offset := field w 208 48, pitch := field w 160 32, wm1 := field w 144 16, hm1 := field w 128 16, ty := t,
               amode := BitVec.ofNat 2 (field w 122 2) }
      else none
  | none => none

def execSmpbind (f : QForm) (s : State) : Host.Outcome State Fault Refusal :=
  runSlot s fun c =>
    let e := c.enabled f.pg f.pn
    let l := (lowest e).getD 0
    let reg := f.cap.toNat
    let val (k : Nat) (xs : List Src) : Nat := ((xs.getD k fun _ => 0) l).toNat
    let check (xs : List Src) : Option FaultInfo :=
      firstFault [faultIf (val 0 xs % 32 ≠ 0) (illegalOperand 6 28 (val 0 xs)), faultIf (15 < val 1 xs) (illegalOperand 6 5 (val 1 xs))]
    c.raySlot e [] [⟨28, f.desc, .sl, 1⟩, ⟨5, f.arg, .sl, 1⟩] false (o := { always := false, check := check }) fun c g xs =>
      let k := c.g.cap reg
      match c.readDescriptor false reg k rRead (k.offset + val 0 xs) 32 1 l with
      | (s, .error x) => .stop s c.g x
      | (s, .ok bs) =>
          match textureOf k (natOfBytes bs) with
          | none => .stop s c.g (.trap (illegalOperand 6 28 (val 0 xs)))
          | some t =>
              match c.regionOk s reg k rRead (k.offset + t.offset) (t.hm1 * t.pitch + (t.wm1 + 1) * 8) l with
              | (s, .error x) => .stop s c.g x
              | (s, .ok _) => .done s { g with samplers := Tbl.put none g.samplers (val 1 xs) (some t) } none none

/-! ## Addressing (R389) -/

/-- The index of AMODE in a dimension of m1 + 1; none for a border texel. -/
def texelIndex (amode : BitVec 2) (i : Int) (m1 : Nat) : Option Nat :=
  match amode.toNat with
  | 0 => some (min (max i 0) (m1 : Int)).toNat
  | 1 => some (i.emod ((m1 : Int) + 1)).toNat
  | _ => if 0 ≤ i && i ≤ (m1 : Int) then some i.toNat else none

/-- The offset of a texel from the capability's OFFSET; none for a border texel. -/
def Texture.place (t : Texture) (i j : Int) : Option Nat :=
  match texelIndex t.amode i t.wm1, texelIndex t.amode j t.hm1 with
  | some i, some j => some (t.offset + j * t.pitch + i * 8)
  | _, _ => none

/-- A texel that a sample needs: its weight out of 65,536, and where it stands. -/
structure Tap where
  weight : Nat
  place  : Option Nat
  deriving DecidableEq, Repr

/-- A coordinate that can be sampled. -/
def coordOk (x : Nat) : Bool := fFinite x && field x 0 31 < 0x4B000000

def Texture.pointTaps (t : Texture) (uv : W64) : List Tap :=
  if coordOk (low32 uv) && coordOk (high32 uv) then
    [{ weight := 65536, place := t.place (fFloor (low32 uv)) (fFloor (high32 uv)) }]
  else []

def Texture.bilinearTaps (t : Texture) (uv : W64) : List Tap :=
  if coordOk (low32 uv) && coordOk (high32 uv) then
    let x := fSub (low32 uv) 0x3F000000
    let y := fSub (high32 uv) 0x3F000000
    let i := fFloor x
    let j := fFloor y
    let a := (fNearest x 8 - 256 * i).toNat
    let b := (fNearest y 8 - 256 * j).toNat
    ([{ weight := (256 - a) * (256 - b), place := t.place i j }, { weight := a * (256 - b), place := t.place (i + 1) j },
      { weight := (256 - a) * b, place := t.place i (j + 1) }, { weight := a * b, place := t.place (i + 1) (j + 1) }] : List Tap).filter
        fun p => p.weight ≠ 0
  else []

/-! ## Filtering (R389) -/

/-- One sub-element of a filtered result, from weights and patterns. -/
def filterElem (t : ElemType) (xs : List (Nat × Nat)) : Nat :=
  if t = .n8 then roundInt .rne false ((xs.map fun x => x.1 * x.2).foldl (· + ·) 0) (-16)
  else
    let term (x : Nat × Nat) : Val := (Val.fin false x.1 (-16)).mul (Val.of (fmtOf t) false x.2)
    match xs.map term with
    | v :: vs => (vs.foldl (Val.add .rne) v).enc (fmtOf t) .rne false
    | [] => 0

/-- The filtered word. -/
def filterWord (t : ElemType) (xs : List (Nat × W64)) : W64 :=
  if xs.isEmpty then 0
  else BitVec.ofNat 64 (packElems t ((span 0 t.count).map fun k => filterElem t (xs.map fun x => (x.1, elem t x.2 k))))

/-! ## SMPT, SMPB -/

/-- The texels of a lane read through the L1: its value, or poisoned data. (DESIGN CHOICE, log entry 25) -/
def Ctx.sampleLane (c : Ctx) (s : State) (combine : List (Nat × W64) → W64) (lane : Nat) (taps : List Tap) (as : List LaneAcc) :
    State × Nat × LaneSource :=
  let mine := as.filter fun x => x.lane = lane
  match mine.findSome? fun x => s.badFor c.g true x.cell 8 lane x.va with
  | some bad => (s, lane, .failed bad)
  | none =>
      let r := taps.foldl (fun (a : State × List (Nat × W64) × List LaneAcc) p =>
        match p.place, a.2.2 with
        | some _, x :: xs =>
            let (s, bs) := a.1.readCached c.g.core x.cell 8
            (s, a.2.1 ++ [(p.weight, BitVec.ofNat 64 (natOfBytes bs))], xs)
        | _, xs => (a.1, a.2.1 ++ [(p.weight, 0)], xs)) (s, [], mine)
      (r.1, lane, .value [combine r.2.1])

/-- Every lane in turn. -/
def Ctx.sampleLanes (c : Ctx) (combine : List (Nat × W64) → W64) (as : List LaneAcc) :
    State → List (Nat × List Tap) → State × List (Nat × LaneSource)
  | s, [] => (s, [])
  | s, x :: xs =>
      let (s, y) := c.sampleLane s combine x.1 x.2 as
      let (s, ys) := c.sampleLanes combine as s xs
      (s, y :: ys)

/-- A sample: the checks of the slot, then loads of the texels of every lane (R281). (DESIGN CHOICE, log entry 25) -/
def Ctx.sample (c : Ctx) (f : VForm) (taps : Texture → W64 → List Tap) (combine : ElemType → List (Nat × W64) → W64) : Slot :=
  let e := c.enabled f.pg f.pn
  let n := (f.x.extractLsb' 0 4).toNat
  let slot : Option Texture := Tbl.get none c.g.samplers n
  let bad : Option FaultInfo := match slot with
    | some t => faultIf (t.ty ≠ f.ty) (illegalOperand 6 0 n)
    | none => some (illegalOperand 6 0 n)
  c.raySlot e [dstOf f .vq] (usesOf f 1 .vsl) true (o := { always := false, pre := bad }) fun c g xs =>
    match slot with
    | none => c.skip
    | some t =>
        let per := (lanes e).map fun l => (l, taps t ((xs.headD fun _ => 0) l))
        let pts := (per.map fun x => x.2.filterMap fun p => p.place.map fun b => (x.1, t.cap.offset + b)).flatten
        match c.resolve .read 0 t.cap rRead 8 8 pts with
        | (s, .error x) => .stop s c.g x
        | (s, .ok as) =>
            if Config.loadLimit ≤ g.loads then .stop s c.g (.block .loads)
            else match s.readNow c.g true clsControl 8 as with
            | .error w => .stop s c.g (.block w)
            | .ok s =>
              let (s, src) := c.sampleLanes (combine t.ty) as s per
              let dst : PendDst := match f.dst with
                | .v r => .vregs r.toNat 1
                | .q r => .queue r.toNat
                | _ => .nothing
              c.issueLoad s g .n64 dst src

def execSmpt (f : VForm) (s : State) : Host.Outcome State Fault Refusal :=
  runSlot s fun c => c.sample f Texture.pointTaps fun _ xs => ((xs.head?).map fun x => x.2).getD 0
def execSmpb (f : VForm) (s : State) : Host.Outcome State Fault Refusal :=
  runSlot s fun c => c.sample f Texture.bilinearTaps filterWord

end Sys2Proof.Machine
end

