-- ==== Sys2Proof/Machine/Security.lean ====
section
/-!
DEFINITION. The security engine: attestation, admission of code, keys, debug tokens and the lifecycle (R151, R221, R222, R232,
R439, R442 to R448).
-/
namespace Sys2Proof.Machine
open Sys2Proof

/-! ## ATTESTATION_REQUEST (R444) -/

/-- The KEYIDs that a SIGPOL value trusts (R436). -/
def trustedKeys (p : BitVec 576) : List W64 := (span 0 (min 8 (p.extractLsb' 8 4).toNat)).map fun n => p.extractLsb' (64 * n + 64) 64

/-- What a report says, in the order of R444: the nonce, the digests, the states, and the policy of the function that asks.
(DESIGN CHOICE, log entry 55) -/
def State.reportBody (s : State) (vf : Option Nat) (nonce : BitVec 256) : List Byte :=
  let states := [BitVec.ofNat 8 (lifecycleCode s.control.lifecycle), BitVec.ofNat 8 (debugCode s.control.debug)]
  let policy := match vf with
    | some n => let p := (s.vf n).sigpol; bytesOfNat 72 p.toNat ++ (trustedKeys p).flatMap fun k => bytesOfNat 8 k.toNat
    | none => []
  bytesOfNat 32 nonce.toNat ++ Config.imageDigest 0 ++ Config.imageDigest 1 ++ s.control.inUse.flatMap Config.recordDigest ++ states ++ policy

/-- The report with the signature of the identity key. (DESIGN CHOICE, log entry 55) -/
def execAttestationRequest (vf : Option Nat) (nonce : BitVec 256) (s : State) : Host.Outcome State Fault Refusal :=
  .next <|
    let serves := match vf with | some n => s.enabled && n < 64 | none => s.control.boot = .running
    if !serves then s
    else
      let body := s.reportBody vf nonce
      { s with replies := s.replies ++ [.report (body ++ Config.identitySign body)] }

/-! ## CODE_ADMISSION (R232, R445) -/

/-- The little-endian field of `n` bytes at byte `off` of a file. -/
def fileField (f : List Byte) (off n : Nat) : Nat := natOfBytes ((f.drop off).take n)

/-- A section entry (R222). -/
structure Section where
  kind  : Nat
  align : Nat
  link  : Nat
  size  : Nat
  off   : Nat
  name  : Nat
  resv  : Nat
  deriving DecidableEq, Repr

def sectionAt (f : List Byte) (a : Nat) : Section :=
  { kind := fileField f (a + 4) 1, align := fileField f (a + 5) 1, link := fileField f (a + 6) 2, size := fileField f (a + 16) 8,
    off := fileField f (a + 24) 8, name := fileField f (a + 32) 16, resv := fileField f a 4 + fileField f (a + 8) 8 }

/-- The entries of a section table of `n` sections from byte `a`. -/
def sectionsOf (f : List Byte) (n a : Nat) : List Section := (span 0 n).map fun i => sectionAt f (a + 48 * i)

/-- The kinds of section with their names and their smallest ALIGN. -/
def sectionKinds : List (Nat × String × Nat) :=
  [(0x01, ".text", 3), (0x02, ".kheader", 3), (0x03, ".safe", 3), (0x04, ".lease", 3), (0x05, ".callable", 3), (0x06, ".rodata", 0),
   (0x07, ".data", 0), (0x08, ".bss", 0), (0x09, ".sym", 3), (0x0A, ".reloc", 3), (0x0B, ".sig", 3), (0x0C, ".strtab", 0)]

/-- A name as the field NAME holds it: its characters, zero-padded. -/
def asciiName (n : String) : Nat := natOfBytes (n.toList.map fun c => BitVec.ofNat 8 c.toNat)

/-- The bytes of the file that a section occupies. -/
def Section.bytes (x : Section) : Nat := if x.kind = 0x08 then 0 else x.size

/-- A section's own fields are as R222 has them; `index` is the place of a section of a kind. -/
def Section.ok (f : List Byte) (index : Nat → Option Nat) (x : Section) : Bool :=
  x.resv = 0 && x.align ≤ 16 && (sectionKinds.any fun k => k.1 = x.kind && asciiName k.2.1 = x.name && k.2.2 ≤ x.align)
    && x.off % 2 ^ x.align = 0 && (x.kind ≠ 0x08 || x.off = 0) && x.off + x.bytes ≤ f.length
    && (if x.kind = 0x09 then index 0x0C = some x.link else if x.kind = 0x0A then index 0x09 = some x.link else x.link = 0)

/-- Ranges (offset, size) that do not overlap one another. -/
def rangesApart : List (Nat × Nat) → Bool
  | [] => true
  | r :: rs => rs.all (fun q => r.2 = 0 || q.2 = 0 || r.1 + r.2 ≤ q.1 || q.1 + q.2 ≤ r.1) && rangesApart rs

/-- The sections of a file are as R222 has them, beside a table from byte `a`. -/
def sectionsOk (f : List Byte) (a : Nat) (xs : List Section) : Bool :=
  xs.all (Section.ok f fun k => xs.findIdx? fun x => x.kind = k) && (xs.map fun x => x.kind).eraseDups.length = xs.length
    && rangesApart ((0, 64) :: (a, 48 * xs.length) :: xs.map fun x => (x.off, x.bytes))

/-- The file header is as R221 has it. -/
def fileHeaderOk (f : List Byte) : Bool :=
  fileField f 0 4 = 0x00464F4B && fileField f 4 2 = 1 && fileField f 6 2 ≤ 1 && fileField f 8 8 % 8 = 0 && 1 ≤ fileField f 16 2
    && fileField f 16 2 ≤ 12 && fileField f 18 2 = 48 && fileField f 20 44 = 0 && fileField f 8 8 + 48 * fileField f 16 2 ≤ f.length

/-- What the `.sig` section of a file is. -/
inductive Signature where
  | absent
  | malformed
  | block (keyid : W64) (key : List Byte) (sig : List Byte) (message : List Byte)
  deriving DecidableEq, Repr

/-- The file header and the signature block of a KOF file (R221, R222, R232). -/
def signatureOf (f : List Byte) : Signature :=
  let off := fileField f 8 8
  let xs := sectionsOf f (fileField f 16 2) off
  if !fileHeaderOk f || !sectionsOk f off xs then .malformed
  else match xs.find? fun x => x.kind = 0x0B with
    | none => .absent
    | some x =>
        let at' := x.off
        let head := natOfBytes ((f.drop at').take 64)
        if x.size ≠ 5325 || at' + 5325 ≠ f.length || field head 0 32 ≠ 1 || head >>> 96 ≠ 0 then .malformed
        else .block (BitVec.ofNat 64 (field head 32 64)) ((f.drop (at' + 64)).take 1952) ((f.drop (at' + 2016)).take 3309) (f.take at')

/-- Whether the security engine admits a file for a function. -/
def State.admits (s : State) (vf : Nat) (f : List Byte) : Bool :=
  let p := (s.vf vf).sigpol
  match signatureOf f with
  | .malformed => false
  | .absent => !p.getLsbD 0
  | .block keyid key sig message =>
      bytesOfNat 8 keyid.toNat = (Config.shake256 key 8).take 8 && (trustedKeys p).contains keyid
        && Config.mlDsaVerify key "DQ7KOF" (Config.shake256 message 64) sig

/-- An admission command names the file of `size` bytes at `pa` in device memory and the code object that it loads. -/
def execCodeAdmission (vf : Nat) (pa size : Nat) (obj : Nat) (s : State) : Host.Outcome State Fault Refusal :=
  if !s.enabled || 64 ≤ vf then .next s
  else if !cellExists (cellOf 0 pa) size then .fault .noSuchAddress
  else if s.poisoned (cellOf 0 pa) size || !s.admits vf (Memory.readN s.mem (cellOf 0 pa) size) || s.control.admitted.contains (vf, obj) then .next s
  else .next { s with control := { s.control with admitted := s.control.admitted ++ [(vf, obj)] } }

/-! ## Keys (R151, R446) -/

def execMlKemEncapsulation (vf : Nat) (ciphertext : List Byte) (s : State) : Host.Outcome State Fault Refusal :=
  .next <|
    if !s.enabled || 64 ≤ vf then s
    else match Config.mlKemDecapsulate ciphertext with
      | some k => s.setVf vf { s.vf vf with wrapKey := some k }
      | none => s

/-- The slot of an unwrapped key pair, KEY2 in its low half. -/
def keySlotOf (bs : List Byte) : KeySlot :=
  { state := 1, key1 := BitVec.ofNat 256 (natOfBytes (bs.drop 32)), key2 := BitVec.ofNat 256 (natOfBytes (bs.take 32)) }

/-- Whether a key-load of a function may write a slot. -/
def State.keyLoadable (s : State) (vf slot : Nat) : Bool :=
  let (b, n) := rangeOf (s.vf vf).krange
  b ≤ slot && slot < b + n && s.control.lifecycle ≠ .returnAnalysis && (Tbl.get KeySlot.reset s.control.keys slot).state ≠ 2

def execKeyLoad (vf slot : Nat) (wrapped : List Byte) (s : State) : Host.Outcome State Fault Refusal :=
  .next <|
    if !s.enabled || 64 ≤ vf || !s.keyLoadable vf slot then s
    else match (s.vf vf).wrapKey.bind fun k => Config.aesUnwrap k wrapped with
      | some bs =>
          if bs.length = 64 then { s with control := { s.control with keys := Tbl.put KeySlot.reset s.control.keys slot (keySlotOf bs) } }
          else s
      | none => s

/-- A destroyed slot holds no key. -/
def KeySlot.destroyed : KeySlot := { state := 2, key1 := 0, key2 := 0 }

/-- Every key slot is destroyed. -/
def State.destroyKeys (s : State) : State :=
  { s with control := { s.control with keys := (span 0 4096).map fun n => (n, KeySlot.destroyed) } }

/-! ## DEBUG_TOKEN (R448) -/

/-- Whether a token is accepted: it is for this device and for the nonce that it issued, and asks for Invasive in Production.
(DESIGN CHOICE, log entry 54) -/
def State.tokenOk (s : State) (t : DebugToken) : Bool :=
  s.control.boot = .running && s.control.lifecycle = .production && t.state = .invasive && t.keyid = Config.identityKeyid
    && t.nonce = s.control.nonce && Config.tokenVerifies s.provisioned t

/-- An accepted token destroys every key first, and then opens the debug port; its nonce is spent.
(DESIGN CHOICE, log entry 54) -/
def execDebugToken (token : DebugToken) (s : State) : Host.Outcome State Fault Refusal :=
  .next <|
    if !s.tokenOk token then s
    else
      let (s, n) := s.destroyKeys.nextFree
      ({ s with control := { s.control with nonce := Config.issuedNonce n } }).setDebug token.state

/-! ## LIFECYCLE_ADVANCE (R447) -/

def nextLifecycle : Lifecycle → Option Lifecycle
  | .blank => some .provisioned
  | .provisioned => some .production
  | .production => some .returnAnalysis
  | .returnAnalysis => none

/-- A lifecycle record signed by Dereo moves the package to the next state, and to no other; entry to Return-analysis destroys
every key. -/
def execLifecycleAdvance (record : ConfigRecord) (s : State) : Host.Outcome State Fault Refusal :=
  .next <|
    match nextLifecycle s.control.lifecycle with
    | none => s
    | some l =>
        let signed := record.kind = .lifecycle && !record.owner && s.recordFresh record && Config.recordVerifies none record
        if s.control.boot ≠ .running || !signed || Config.recordLifecycle record.payload ≠ lifecycleCode l then s
        else
          let s := { s with control := { s.control with lifecycle := l, minSeq := Tbl.put 0 s.control.minSeq (recordIndex .lifecycle) record.seq } }
          let s := if l = .returnAnalysis then s.destroyKeys else s
          s.book 0x08 255 1 (BitVec.ofNat 128 (lifecycleCode l + 4 * debugCode s.control.debug))

end Sys2Proof.Machine
end

