-- ==== Sys2Proof/Machine/System.lean ====
section
/-!
DEFINITION. The system instructions (R316 to R320).
-/
namespace Sys2Proof.Machine
open Sys2Proof

/-- The source field of the S-form, where it is used. -/
def sysUse (f : SForm) : List Use := if f.sa.unused then [] else [⟨27, f.sa, .sl, 1⟩]

/-- The value of SA for the path. -/
def sysValue (e : W64) (xs : List Src) : W64 := (xs.headD fun _ => 0) ((lowest e).getD 0)

/-- TRAP: the software-trap fault, with the code and the value of a (R317). -/
def execTrap (f : SForm) (s : State) : Host.Outcome State Fault Refusal :=
  runSlot s fun c =>
    let e := c.enabled f.pg f.pn
    c.enter { always := false } e true [] (sysUse f) false fun c _ xs =>
      c.trap (.mk' 0x000E 0 f.imm.toNat (sysValue e xs).toNat)

/-- BKPT: a breakpoint on its own slot; with debug Off for the function it is the fault with CAUSE 1 (R317, R430). -/
def execBkpt (f : SForm) (s : State) : Host.Outcome State Fault Refusal :=
  runSlot s fun c =>
    if c.enabled f.pg f.pn = 0 then c.skip
    else c.trap (.mk' 0x000F (if c.s.debugOn c.vf then 0 else 1) f.imm.toNat)

/-- A TRET outside a routine of its kind (R318). -/
def tretFault (f : SForm) : FaultInfo := illegalOperand 6 15 f.sel.toNat

def execTretSave (f : SForm) (s : State) : Host.Outcome State Fault Refusal :=
  runSlot s fun c =>
    if c.enabled f.pg f.pn = 0 then c.skip
    else if c.p.routine = .save then .done c.s c.g none (some .saved)
    else c.trap (tretFault f)

def execTretRest (f : SForm) (s : State) : Host.Outcome State Fault Refusal :=
  runSlot s fun c =>
    if c.enabled f.pg f.pn = 0 then c.skip
    else if c.p.routine = .rest then .done c.s c.g none (some .restored)
    else c.trap (tretFault f)

/-- DATUM: the trigger fires where debug permits it, and d receives its number or 0 (R319, R449). -/
def execDatum (f : SForm) (s : State) : Host.Outcome State Fault Refusal :=
  runSlot s fun c =>
    let e := c.enabled f.pg f.pn
    let some? := !f.dst.unused
    let dsts : List Use := if some? then [⟨36, f.dst, .sq, 1⟩] else []
    c.enter { always := false } e f.nw dsts [] some? fun c g _ =>
      let (s, x) := if c.s.debugOn c.vf then (let (s, n) := c.s.fireDatum 0 0; (s, n.zeroExtend 64)) else (c.s, 0)
      let c := { c with s := s }
      if some? then c.result g e f.dst f.nw f.pfx false (.one x) else .done s g none none

/-- SLEEPT: the group sleeps until sr.time reaches T (R320). -/
def execSleept (f : SForm) (s : State) : Host.Outcome State Fault Refusal :=
  runSlot s fun c =>
    let e := c.enabled f.pg f.pn
    c.enter { always := false } e true [] [⟨27, f.sa, .sl, 1⟩] false fun c g xs =>
      let a := sysValue e xs
      let t := if f.sel = 1 then c.s.time + a else a
      if c.r.woken || t.toNat ≤ c.s.time.toNat then .done c.s g none none else c.block (.time t)

end Sys2Proof.Machine
end

