-- ==== Sys2Proof/Machine/Tile.lean ====
section
/-!
DEFINITION. The tile instructions (R285 to R287).
-/
namespace Sys2Proof.Machine
open Sys2Proof

/-! ## TLD and TST (R286) -/

/-- The handle of a tile instruction. -/
def tileH (f : VForm) : Nat := (f.x.extractLsb' 0 6).toNat

/-- The handle and the type of an access (R131, R285). -/
def tileFault (p : Parcel) (f : VForm) : Option FaultInfo :=
  match p.tile? (tileH f) with
  | none => some (handleFault 0 (tileH f))
  | some t => if t.ty ≠ f.ty then some (illegalOperand 6 52 f.ty.code.toNat) else none

/-- The lowest lane of E whose first element lies outside the tile (R131). -/
def elemFault (p : Parcel) (f : VForm) (ls : List Nat) (xs : List Src) : Option FaultInfo :=
  match p.tile? (tileH f), xs with
  | some t, row :: col :: _ =>
      ls.findSome? fun l =>
        if t.rows ≤ (row l).toNat then some { illegalOperand 4 27 (row l).toNat with lane := l }
        else if t.cols ≤ (col l).toNat then some { illegalOperand 4 18 (col l).toNat with lane := l }
        else none
  | _, _ => none

/-- The row and column of a lane. -/
def runAt (xs : List Src) (l : Nat) : Nat × Nat :=
  match xs with
  | row :: col :: _ => ((row l).toNat, (col l).toNat)
  | _ => (0, 0)

/-- The register that a run of a tile gives: columns at or beyond COLS read as zero. -/
def Tile.run (t : Tile) (i j : Nat) : W64 :=
  BitVec.ofNat 64 (packElems t.ty ((span j t.ty.count).map fun c => t.window i c))

/-- Whether a run meets a poisoned sector. -/
def Tile.runBad (t : Tile) (i j : Nat) : Bool :=
  (span j t.ty.count).any fun c => t.has i c && (let (b, n, _) := t.place i c; t.bad b n)

def execTld (f : VForm) (s : State) : Host.Outcome State Fault Refusal :=
  runSlot s fun c =>
    let e := c.enabled f.pg f.pn
    let start : Start := { always := false, pre := tileFault c.parcel f, check := elemFault c.parcel f (lanes e) }
    c.enter start e f.nw [dstOf f .vq] (usesOf f 2 .vsl) true fun c g xs =>
      match c.parcel.tile? (tileH f) with
      | none => c.skip
      | some t =>
          let bad (l : Nat) : Bool := let (i, j) := runAt xs l; t.runBad i j
          let val (l : Nat) : W64 := let (i, j) := runAt xs l; t.run i j
          let src (l : Nat) : LaneSource :=
            if bad l then
              .failed { poisonFault 2 l 0 with addr := Config.tileAddr (tileH f) (let (i, j) := runAt xs l; (t.place i j).1) }
            else .value [val l]
          if Config.loadLimit ≤ g.loads then c.block .loads
          else match f.dst with
            | .q _ =>
                (match (lanes e).find? bad with
                | some l => c.trap { poisonFault 2 l 0 with
                    addr := Config.tileAddr (tileH f) (let (i, j) := runAt xs l; (t.place i j).1) }
                | none => c.result g e f.dst f.nw f.pfx true (.lanes (laneTbl e val)))
            | _ =>
                let dst : PendDst := if f.nw then .nothing else match f.dst with | .v r => .vregs r.toNat 1 | _ => .nothing
                let (s, p) := c.pend c.s .load .n64 dst ((lanes e).map fun l => (l, src l)) true false
                .done s { g with pending := g.pending ++ [p] } (some []) none

/-- The elements that a lane's register writes to its run: those at columns at or beyond COLS are not written. -/
def Tile.runOf (t : Tile) (i j : Nat) (x : W64) : List (Nat × Nat × Nat) :=
  (span 0 t.ty.count).map fun k => (i, j + k, elem t.ty x k)

def execTst (f : VForm) (s : State) : Host.Outcome State Fault Refusal :=
  runSlot s fun c =>
    let e := c.enabled f.pg f.pn
    let start : Start := { always := false, pre := tileFault c.parcel f, check := elemFault c.parcel f (lanes e) }
    c.enter start e true [] (usesOf f 2 .vsl ++ [⟨9, f.sc, .vslq, 1⟩]) false fun c g xs =>
      match c.parcel.tile? (tileH f), xs with
      | some t, [_, _, d] =>
          let es := (lanes e).flatMap fun l => let (i, j) := runAt xs l; t.runOf i j (d l)
          .done (c.s.setTile c.g.parcel (tileH f) (t.putAll es)) g none none
      | _, _ => c.skip

/-! ## TALLOC and TFREE (R287) -/

/-- The tile-exhaustion fault (R425). -/
def tileExhaustion (level units : Nat) : FaultInfo := .mk' 0x000D 0 level units

/-- What is left of a parcel's `.tiles` reservation on a core, and the change of it. -/
def Parcel.unitsOn (p : Parcel) (core : Nat) : Nat := if core = p.core then p.unitsLead else p.unitsFollow
def Parcel.setUnits (p : Parcel) (core n : Nat) : Parcel :=
  if core = p.core then { p with unitsLead := n } else { p with unitsFollow := n }

/-- The units of a shape. -/
def shapeUnits (ty : ElemType) (rows cols : Nat) : Nat := (rows * (64 * tilePitch ty cols) + 4095) / 4096

/-- Why a shape is refused (R88): the field and its value. -/
def shapeFault (ty : ElemType) (level rows cols : Nat) : Option FaultInfo :=
  if rows = 0 || 4096 < rows then some (illegalOperand 6 27 rows)
  else if cols = 0 || 4096 < cols then some (illegalOperand 6 18 cols)
  else if (if level = 2 then 4096 else 256) < shapeUnits ty rows cols then some (illegalOperand 6 27 rows)
  else none

/-- The units of a core's tile memory that no tile holds, the lowest `n`. (DESIGN CHOICE, log entry 69) -/
def State.coreUnits (s : State) (core n : Nat) : List Nat :=
  let held := s.parcels.flatMap fun p => p.tiles.flatMap fun e => match e.2 with
    | some t => if t.level ≠ 2 && t.core = core then t.units else []
    | none => []
  freeUnitsFrom held.contains 256 0 n

/-- Places an allocation of `n` units for a handle (R87): the state, how many units come from the reservation, and the unit list;
none when neither source can supply them. -/
def State.placeUnits (s : State) (p : Parcel) (h level core n : Nat) : Option (State × Nat × List Nat) :=
  if level = 2 then ((s.die (core / 48)).pin (.tile p.uid h) n).map fun d => (s.setDie (core / 48) d, 0, d.unitsOf (.tile p.uid h))
  else
    let rsv := min n (p.unitsOn core)
    let c := s.core core
    if c.freeUnits < n - rsv then none
    else
      let us := s.coreUnits core n
      let s := s.setCore core { c with freeUnits := c.freeUnits - (n - rsv) }
      some (s.setParcel (p.setUnits core (p.unitsOn core - rsv)), rsv, us)

/-- Clears the entry of a handle and returns its units (R130). -/
def State.freeTile (s : State) (p : Parcel) (h : Nat) (t : Tile) : State :=
  let p := p.setTile h none
  let p := if t.level = 2 then p else p.setUnits t.core (p.unitsOn t.core + t.unitsRsv)
  (s.setParcel p).returnUnits p.uid h t

/-- A group whose last slot was a TALLOC of handle `h`. -/
def Group.justAllocated (g : Group) (h : Nat) : Bool :=
  match g.run with
  | some r => 0 < r.idx && (match (r.words[r.idx - 1]?).map fetchedInstr with
      | some (.ok (.talloc f)) => tileH f = h
      | _ => false)
  | none => false

/-- Of two groups that allocate one free handle in the same cycle the one with the lower index gets it (R131): where the other came
first in the order of the steps, it stands at its TALLOC again, which then finds the handle in use. -/
def Ctx.reclaim (c : Ctx) (h : Nat) : Ctx :=
  match c.parcel.tile? h with
  | none => c
  | some t =>
      if t.since ≠ c.s.cycles || t.byGroup ≤ c.g.index then c
      else match c.s.groups.find? fun x => x.parcel = c.g.parcel && x.index = t.byGroup && x.justAllocated h with
        | none => c
        | some x =>
            let s := c.s.freeTile c.parcel h t
            { c with s := s.setGroup { x with run := x.run.map fun r => { r with idx := r.idx - 1 } } }

def execTalloc (f : VForm) (s : State) : Host.Outcome State Fault Refusal :=
  runSlot s fun c =>
    let e := c.enabled f.pg f.pn
    let h := tileH f
    let c := if e = 0 then c else c.reclaim h
    let level := (f.x.extractLsb' 6 2).toNat
    let l := (lowest e).getD 0
    let shape (xs : List Src) : Nat × Nat := runAt xs l
    let start : Start := {
      always := false,
      pre := if (c.parcel.tile? h).isSome then some (handleFault 0 h) else none,
      check := fun xs => let (rows, cols) := shape xs; shapeFault f.ty level rows cols }
    c.enter start e true [] (usesOf f 2 .sl) false fun c g xs =>
      let (rows, cols) := shape xs
      let n := shapeUnits f.ty rows cols
      let core := if level = 1 then c.g.core ^^^ 1 else c.g.core
      match c.s.placeUnits c.parcel h level core n with
      | none => if c.launch.hdr.sub then .stop c.s c.g (.abort 2) else c.trap (tileExhaustion level n)
      | some (s, rsv, us) =>
          let t : Tile := { level := BitVec.ofNat 2 level, core := core, ty := f.ty, rows := rows, cols := cols,
                            pitch := tilePitch f.ty cols, unitsRsv := rsv, unitsFree := n - rsv, units := us, since := c.s.cycles,
                            byGroup := c.g.index, data := [], poison := [] }
          .done (s.setTile c.g.parcel h t) g none none

def execTfree (f : VForm) (s : State) : Host.Outcome State Fault Refusal :=
  runSlot s fun c =>
    let e := c.enabled f.pg f.pn
    let h := tileH f
    if e = 0 then c.skip
    else match c.parcel.tile? h with
      | none => c.trap (handleFault 0 h)
      | some t =>
          if c.s.handleBusy c.parcel h then c.block (.tiles h)
          else
            .done (c.s.freeTile c.parcel h t) c.g none none

end Sys2Proof.Machine
end

