-- ==== Sys2Proof/Machine/Dispatch.lean ====
section
/-!
DEFINITION. The meaning of every instruction and event, arm by arm.
-/
namespace Sys2Proof.Machine
open Sys2Proof

def exec (i : Instr) (s : State) : Host.Outcome State Fault Refusal :=
  match i with
  | .nop f => Sys2Proof.Machine.execNop f s
  | .smov f => Sys2Proof.Machine.execSmov f s
  | .smovi f => Sys2Proof.Machine.execSmovi f s
  | .sadd f => Sys2Proof.Machine.execSadd f s
  | .ssub f => Sys2Proof.Machine.execSsub f s
  | .smul f => Sys2Proof.Machine.execSmul f s
  | .smulh f => Sys2Proof.Machine.execSmulh f s
  | .sdiv f => Sys2Proof.Machine.execSdiv f s
  | .srem f => Sys2Proof.Machine.execSrem f s
  | .sand f => Sys2Proof.Machine.execSand f s
  | .sor f => Sys2Proof.Machine.execSor f s
  | .sxor f => Sys2Proof.Machine.execSxor f s
  | .sshl f => Sys2Proof.Machine.execSshl f s
  | .sshr f => Sys2Proof.Machine.execSshr f s
  | .scmp f => Sys2Proof.Machine.execScmp f s
  | .ssel f => Sys2Proof.Machine.execSsel f s
  | .saddi f => Sys2Proof.Machine.execSaddi f s
  | .smin f => Sys2Proof.Machine.execSmin f s
  | .smax f => Sys2Proof.Machine.execSmax f s
  | .srd f => Sys2Proof.Machine.execSrd f s
  | .scvt f => Sys2Proof.Machine.execScvt f s
  | .sclz f => Sys2Proof.Machine.execSclz f s
  | .spopc f => Sys2Proof.Machine.execSpopc f s
  | .vmov f => Sys2Proof.Machine.execVmov f s
  | .vmovi f => Sys2Proof.Machine.execVmovi f s
  | .vadd f => Sys2Proof.Machine.execVadd f s
  | .vsub f => Sys2Proof.Machine.execVsub f s
  | .vmul f => Sys2Proof.Machine.execVmul f s
  | .vfma f => Sys2Proof.Machine.execVfma f s
  | .vmin f => Sys2Proof.Machine.execVmin f s
  | .vmax f => Sys2Proof.Machine.execVmax f s
  | .vabs f => Sys2Proof.Machine.execVabs f s
  | .vneg f => Sys2Proof.Machine.execVneg f s
  | .vdiv f => Sys2Proof.Machine.execVdiv f s
  | .vrem f => Sys2Proof.Machine.execVrem f s
  | .vand f => Sys2Proof.Machine.execVand f s
  | .vor f => Sys2Proof.Machine.execVor f s
  | .vxor f => Sys2Proof.Machine.execVxor f s
  | .vnot f => Sys2Proof.Machine.execVnot f s
  | .vshl f => Sys2Proof.Machine.execVshl f s
  | .vshr f => Sys2Proof.Machine.execVshr f s
  | .vcmp f => Sys2Proof.Machine.execVcmp f s
  | .vsel f => Sys2Proof.Machine.execVsel f s
  | .vcvt f => Sys2Proof.Machine.execVcvt f s
  | .vpack f => Sys2Proof.Machine.execVpack f s
  | .vunpk f => Sys2Proof.Machine.execVunpk f s
  | .vclz f => Sys2Proof.Machine.execVclz f s
  | .vpopc f => Sys2Proof.Machine.execVpopc f s
  | .vmulh f => Sys2Proof.Machine.execVmulh f s
  | .vcpys f => Sys2Proof.Machine.execVcpys f s
  | .kand f => Sys2Proof.Machine.execKand f s
  | .kor f => Sys2Proof.Machine.execKor f s
  | .kxor f => Sys2Proof.Machine.execKxor f s
  | .knot f => Sys2Proof.Machine.execKnot f s
  | .kmovKk f => Sys2Proof.Machine.execKmovKk f s
  | .kmovSk f => Sys2Proof.Machine.execKmovSk f s
  | .kmovKs f => Sys2Proof.Machine.execKmovKs f s
  | .vshfl f => Sys2Proof.Machine.execVshfl f s
  | .vbcast f => Sys2Proof.Machine.execVbcast f s
  | .vvote f => Sys2Proof.Machine.execVvote f s
  | .vballot f => Sys2Proof.Machine.execVballot f s
  | .vredx f => Sys2Proof.Machine.execVredx f s
  | .vscan f => Sys2Proof.Machine.execVscan f s
  | .setf f => Sys2Proof.Machine.execSetf f s
  | .vspc f => Sys2Proof.Machine.execVspc f s
  | .vrcp f => Sys2Proof.Machine.execVrcp f s
  | .vrsq f => Sys2Proof.Machine.execVrsq f s
  | .vsqrt f => Sys2Proof.Machine.execVsqrt f s
  | .vexp2 f => Sys2Proof.Machine.execVexp2 f s
  | .vlog2 f => Sys2Proof.Machine.execVlog2 f s
  | .vsin f => Sys2Proof.Machine.execVsin f s
  | .vcos f => Sys2Proof.Machine.execVcos f s
  | .vfdiv f => Sys2Proof.Machine.execVfdiv f s
  | .vtanh f => Sys2Proof.Machine.execVtanh f s
  | .verf f => Sys2Proof.Machine.execVerf f s
  | .br f => Sys2Proof.Machine.execBr f s
  | .jmp f => Sys2Proof.Machine.execJmp f s
  | .loop f => Sys2Proof.Machine.execLoop f s
  | .exit f => Sys2Proof.Machine.execExit f s
  | .reggive f => Sys2Proof.Machine.execReggive f s
  | .regclaim f => Sys2Proof.Machine.execRegclaim f s
  | .rolesw f => Sys2Proof.Machine.execRolesw f s
  | .ld f => Sys2Proof.Machine.execLd f s
  | .st f => Sys2Proof.Machine.execSt f s
  | .ldp f => Sys2Proof.Machine.execLdp f s
  | .stp f => Sys2Proof.Machine.execStp f s
  | .tld f => Sys2Proof.Machine.execTld f s
  | .tst f => Sys2Proof.Machine.execTst f s
  | .talloc f => Sys2Proof.Machine.execTalloc f s
  | .tfree f => Sys2Proof.Machine.execTfree f s
  | .cnarrow f => Sys2Proof.Machine.execCnarrow f s
  | .csave f => Sys2Proof.Machine.execCsave f s
  | .cload f => Sys2Proof.Machine.execCload f s
  | .atom f => Sys2Proof.Machine.execAtom f s
  | .atomr f => Sys2Proof.Machine.execAtomr f s
  | .cas f => Sys2Proof.Machine.execCas f s
  | .lds f => Sys2Proof.Machine.execLds f s
  | .sts f => Sys2Proof.Machine.execSts f s
  | .wlpush f => Sys2Proof.Machine.execWlpush f s
  | .wlpopb f => Sys2Proof.Machine.execWlpopb f s
  | .wlins f => Sys2Proof.Machine.execWlins f s
  | .wlres f => Sys2Proof.Machine.execWlres f s
  | .wlcom f => Sys2Proof.Machine.execWlcom f s
  | .wlsize f => Sys2Proof.Machine.execWlsize f s
  | .fence f => Sys2Proof.Machine.execFence f s
  | .waitc f => Sys2Proof.Machine.execWaitc f s
  | .phreg f => Sys2Proof.Machine.execPhreg f s
  | .phdrop f => Sys2Proof.Machine.execPhdrop f s
  | .pharr f => Sys2Proof.Machine.execPharr f s
  | .phwait f => Sys2Proof.Machine.execPhwait f s
  | .semset f => Sys2Proof.Machine.execSemset f s
  | .semwait f => Sys2Proof.Machine.execSemwait f s
  | .semrd f => Sys2Proof.Machine.execSemrd f s
  | .tvdecl f => Sys2Proof.Machine.execTvdecl f s
  | .tvwait f => Sys2Proof.Machine.execTvwait f s
  | .tvend f => Sys2Proof.Machine.execTvend f s
  | .qbind f => Sys2Proof.Machine.execQbind f s
  | .launch f => Sys2Proof.Machine.execLaunch f s
  | .jccopy f => Sys2Proof.Machine.execJccopy f s
  | .jcgath f => Sys2Proof.Machine.execJcgath f s
  | .jcscat f => Sys2Proof.Machine.execJcscat f s
  | .jccoll f => Sys2Proof.Machine.execJccoll f s
  | .jcmtx f => Sys2Proof.Machine.execJcmtx f s
  | .jcfill f => Sys2Proof.Machine.execJcfill f s
  | .trap f => Sys2Proof.Machine.execTrap f s
  | .tretSave f => Sys2Proof.Machine.execTretSave f s
  | .tretRest f => Sys2Proof.Machine.execTretRest f s
  | .datum f => Sys2Proof.Machine.execDatum f s
  | .bkpt f => Sys2Proof.Machine.execBkpt f s
  | .sleept f => Sys2Proof.Machine.execSleept f s
  | .mma f => Sys2Proof.Machine.execMma f s
  | .mmap f => Sys2Proof.Machine.execMmap f s
  | .mmas f => Sys2Proof.Machine.execMmas f s
  | .mmasp f => Sys2Proof.Machine.execMmasp f s
  | .mmag f => Sys2Proof.Machine.execMmag f s
  | .mmagp f => Sys2Proof.Machine.execMmagp f s
  | .mlda f => Sys2Proof.Machine.execMlda f s
  | .mldb f => Sys2Proof.Machine.execMldb f s
  | .unfold f => Sys2Proof.Machine.execUnfold f s
  | .accdr f => Sys2Proof.Machine.execAccdr f s
  | .accdra f => Sys2Proof.Machine.execAccdra f s
  | .accld f => Sys2Proof.Machine.execAccld f s
  | .accz f => Sys2Proof.Machine.execAccz f s
  | .accmovGet f => Sys2Proof.Machine.execAccmovGet f s
  | .accmovPut f => Sys2Proof.Machine.execAccmovPut f s
  | .acccvt f => Sys2Proof.Machine.execAcccvt f s
  | .attqk f => Sys2Proof.Machine.execAttqk f s
  | .attsm f => Sys2Proof.Machine.execAttsm f s
  | .attpv f => Sys2Proof.Machine.execAttpv f s
  | .attmd f => Sys2Proof.Machine.execAttmd f s
  | .kvrs f => Sys2Proof.Machine.execKvrs f s
  | .msync f => Sys2Proof.Machine.execMsync f s
  | .melect f => Sys2Proof.Machine.execMelect f s
  | .rng f => Sys2Proof.Machine.execRng f s
  | .rngu f => Sys2Proof.Machine.execRngu f s
  | .rsvinit f => Sys2Proof.Machine.execRsvinit f s
  | .rsvupd f => Sys2Proof.Machine.execRsvupd f s
  | .rsvmrg f => Sys2Proof.Machine.execRsvmrg f s
  | .rsvnrm f => Sys2Proof.Machine.execRsvnrm f s
  | .rsvld f => Sys2Proof.Machine.execRsvld f s
  | .rsvst f => Sys2Proof.Machine.execRsvst f s
  | .rsvclr f => Sys2Proof.Machine.execRsvclr f s
  | .rsvcpy f => Sys2Proof.Machine.execRsvcpy f s
  | .motv f => Sys2Proof.Machine.execMotv f s
  | .scnbind f => Sys2Proof.Machine.execScnbind f s
  | .rayq f => Sys2Proof.Machine.execRayq f s
  | .rays f => Sys2Proof.Machine.execRays f s
  | .hitunp f => Sys2Proof.Machine.execHitunp f s
  | .rayorg f => Sys2Proof.Machine.execRayorg f s
  | .ltset f => Sys2Proof.Machine.execLtset f s
  | .ltsmp f => Sys2Proof.Machine.execLtsmp f s
  | .reuse f => Sys2Proof.Machine.execReuse f s
  | .gfemb f => Sys2Proof.Machine.execGfemb f s
  | .gfedepth f => Sys2Proof.Machine.execGfedepth f s
  | .viscls f => Sys2Proof.Machine.execViscls f s
  | .visw f => Sys2Proof.Machine.execVisw f s
  | .smpbind f => Sys2Proof.Machine.execSmpbind f s
  | .smpt f => Sys2Proof.Machine.execSmpt f s
  | .smpb f => Sys2Proof.Machine.execSmpb f s
  | .clauseIssue g p => Sys2Proof.Machine.execClauseIssue g p s
  | .quantumClauseLimit g p => Sys2Proof.Machine.execQuantumClauseLimit g p s
  | .allowanceExpiry parcel => Sys2Proof.Machine.execAllowanceExpiry parcel s
  | .candidateAged g p => Sys2Proof.Machine.execCandidateAged g p s
  | .blockedSlotResume g => Sys2Proof.Machine.execBlockedSlotResume g s
  | .loadResult g idx => Sys2Proof.Machine.execLoadResult g idx s
  | .sfuResult g => Sys2Proof.Machine.execSfuResult g s
  | .sleeptWake g => Sys2Proof.Machine.execSleeptWake g s
  | .homeSliceWrite n => Sys2Proof.Machine.execHomeSliceWrite n s
  | .watchTableRetry die slice => Sys2Proof.Machine.execWatchTableRetry die slice s
  | .ackReturn n => Sys2Proof.Machine.execAckReturn n s
  | .launchAccept vf queue => Sys2Proof.Machine.execLaunchAccept vf queue s
  | .dispatch => Sys2Proof.Machine.execDispatch s
  | .resourceReport core => Sys2Proof.Machine.execResourceReport core s
  | .stake placement core => Sys2Proof.Machine.execStake placement core s
  | .placementCommit placement => Sys2Proof.Machine.execPlacementCommit placement s
  | .stakeRetry placement => Sys2Proof.Machine.execStakeRetry placement s
  | .parcelRetire parcel => Sys2Proof.Machine.execParcelRetire parcel s
  | .commitLogApply parcel => Sys2Proof.Machine.execCommitLogApply parcel s
  | .launchComplete launch => Sys2Proof.Machine.execLaunchComplete launch s
  | .beatEnd => Sys2Proof.Machine.execBeatEnd s
  | .grantPlacement => Sys2Proof.Machine.execGrantPlacement s
  | .engineTakeCommand e => Sys2Proof.Machine.execEngineTakeCommand e s
  | .engineResultDeliver e => Sys2Proof.Machine.execEngineResultDeliver e s
  | .jobCardDispatch pair => Sys2Proof.Machine.execJobCardDispatch pair s
  | .jobCardComplete card => Sys2Proof.Machine.execJobCardComplete card s
  | .mtxOpStart pair op => Sys2Proof.Machine.execMtxOpStart pair op s
  | .mtxOpRetire pair op => Sys2Proof.Machine.execMtxOpRetire pair op s
  | .kvrsSurvey die => Sys2Proof.Machine.execKvrsSurvey die s
  | .rayResult core => Sys2Proof.Machine.execRayResult core s
  | .lightWalk pair => Sys2Proof.Machine.execLightWalk pair s
  | .reuseCardRun pair => Sys2Proof.Machine.execReuseCardRun pair s
  | .gfeMeshletPass die => Sys2Proof.Machine.execGfeMeshletPass die s
  | .gfePyramidBuild die => Sys2Proof.Machine.execGfePyramidBuild die s
  | .faultRecordDeliver vf => Sys2Proof.Machine.execFaultRecordDeliver vf s
  | .fqresume vf value => Sys2Proof.Machine.execFqresume vf value s
  | .fqactEnd vf seq => Sys2Proof.Machine.execFqactEnd vf seq s
  | .fqactResume vf seq => Sys2Proof.Machine.execFqactResume vf seq s
  | .shootdown vf value => Sys2Proof.Machine.execShootdown vf value s
  | .shootdownDone vf => Sys2Proof.Machine.execShootdownDone vf s
  | .migratePage vf value => Sys2Proof.Machine.execMigratePage vf value s
  | .migrationCopy vf => Sys2Proof.Machine.execMigrationCopy vf s
  | .preemptSave vf value => Sys2Proof.Machine.execPreemptSave vf value s
  | .preemptSaveOrRequeue vf value => Sys2Proof.Machine.execPreemptSaveOrRequeue vf value s
  | .preemptEnd vf value => Sys2Proof.Machine.execPreemptEnd vf value s
  | .preemptRelease vf value => Sys2Proof.Machine.execPreemptRelease vf value s
  | .saveRoutineEnter parcel => Sys2Proof.Machine.execSaveRoutineEnter parcel s
  | .saveComplete parcel => Sys2Proof.Machine.execSaveComplete parcel s
  | .restore parcel => Sys2Proof.Machine.execRestore parcel s
  | .preemptLate parcel => Sys2Proof.Machine.execPreemptLate parcel s
  | .matrixWatchdog pair => Sys2Proof.Machine.execMatrixWatchdog pair s
  | .matrixResetCommand src => Sys2Proof.Machine.execMatrixResetCommand src s
  | .computeDieReset die writesBack => Sys2Proof.Machine.execComputeDieReset die writesBack s
  | .dieRelink die => Sys2Proof.Machine.execDieRelink die s
  | .vfReset vf => Sys2Proof.Machine.execVfReset vf s
  | .coldReset => Sys2Proof.Machine.execColdReset s
  | .bootSourceRetry => Sys2Proof.Machine.execBootSourceRetry s
  | .warmReset => Sys2Proof.Machine.execWarmReset s
  | .attestationRequest vf nonce => Sys2Proof.Machine.execAttestationRequest vf nonce s
  | .codeAdmission vf pa size obj => Sys2Proof.Machine.execCodeAdmission vf pa size obj s
  | .keyLoad vf slot wrapped => Sys2Proof.Machine.execKeyLoad vf slot wrapped s
  | .debugToken token => Sys2Proof.Machine.execDebugToken token s
  | .lifecycleAdvance record => Sys2Proof.Machine.execLifecycleAdvance record s
  | .islandPowerChange island state => Sys2Proof.Machine.execIslandPowerChange island state s
  | .datumInEdge => Sys2Proof.Machine.execDatumInEdge s
  | .snapstatClear die block value => Sys2Proof.Machine.execSnapstatClear die block value s
  | .snapshotRead reader die block index => Sys2Proof.Machine.execSnapshotRead reader die block index s
  | .storageError e => Sys2Proof.Machine.execStorageError e s
  | .linkFlitSend link => Sys2Proof.Machine.execLinkFlitSend link s
  | .flitReplay port => Sys2Proof.Machine.execFlitReplay port s
  | .linkRetrain port => Sys2Proof.Machine.execLinkRetrain port s
  | .linkRateStep link rate => Sys2Proof.Machine.execLinkRateStep link rate s
  | .hostCxlMemAccess pa a => Sys2Proof.Machine.execHostCxlMemAccess pa a s
  | .lqidxWrite vf queue value => Sys2Proof.Machine.execLqidxWrite vf queue value s
  | .fqidxWrite vf value => Sys2Proof.Machine.execFqidxWrite vf value s
  | .lqcfgWrite vf queue value => Sys2Proof.Machine.execLqcfgWrite vf queue value s
  | .fqcfgWrite vf value => Sys2Proof.Machine.execFqcfgWrite vf value s
  | .krangeWrite vf value => Sys2Proof.Machine.execKrangeWrite vf value s
  | .prangeWrite vf value => Sys2Proof.Machine.execPrangeWrite vf value s
  | .rsvrectWrite vf die value => Sys2Proof.Machine.execRsvrectWrite vf die value s
  | .lqtktWrite vf queue value => Sys2Proof.Machine.execLqtktWrite vf queue value s
  | .sigpolWrite vf value => Sys2Proof.Machine.execSigpolWrite vf value s
  | .breakpointWrite w core n value => Sys2Proof.Machine.execBreakpointWrite w core n value s
  | .debugPortResume g => Sys2Proof.Machine.execDebugPortResume g s
  | .registerWrite r value => Sys2Proof.Machine.execRegisterWrite r value s
  | .matrixResetComplete pair => Sys2Proof.Machine.execMatrixResetComplete pair s
  | .debugPortDatumTrigger => Sys2Proof.Machine.execDebugPortDatumTrigger s
  | .debuggerLatchWrite g latch lane value => Sys2Proof.Machine.execDebuggerLatchWrite g latch lane value s
  | .hostCxlCacheSnoop line kind => Sys2Proof.Machine.execHostCxlCacheSnoop line kind s
  | .fabricRequestArrival r => Sys2Proof.Machine.execFabricRequestArrival r s
  | .retrainingWindowEnd link => Sys2Proof.Machine.execRetrainingWindowEnd link s
  | .mlKemEncapsulation vf ciphertext => Sys2Proof.Machine.execMlKemEncapsulation vf ciphertext s

end Sys2Proof.Machine
end

