-- ==== Sys2Proof/Machine/Next.lean ====
section
/-!
DEFINITION. How a step goes on: the passing of time, which group executes next, and what comes next in the package when no
group is inside a clause and the agenda names nothing.
-/
namespace Sys2Proof.Machine
open Sys2Proof

/-! ## Time -/

/-- The allowances that run out in this cycle abort their parcels before a cycle passes (R163). -/
def State.expire (s : State) (cycles : Nat) : State :=
  s.parcels.foldl (fun s p => if p.due && p.abortable && cycles ≠ 0 then s.abortParcel p.uid 4 else s) s

/-- Time goes on (R27, R75, R163): the cycle count, the nanoseconds of sr.time, and the allowance counter of every running
parcel of a subdivisible kernel.  In the cycle in which it would reach the allowance the parcel is due, and no cycle passes before
the expiry has fired. (DESIGN CHOICE, log entry 4) -/
def State.passTime (s : State) (cycles ns : Nat) : State :=
  let s := s.expire cycles
  let counts (p : Parcel) : Bool := (match p.state with | .saved | .ended _ => false | _ => true) && (s.launchFor p).hdr.sub
  let count (p : Parcel) : Parcel :=
    let limit := (s.launchFor p).hdr.allowM1
    { p with elapsed := min (p.elapsed + cycles) limit, due := p.due || limit < p.elapsed + cycles }
  { s with tick := s.tick + 1, cycles := s.cycles + cycles, time := s.time + BitVec.ofNat 64 ns,
           parcels := s.parcels.map fun p => if counts p then count p else p }

/-- Claims that the new cycle makes due are satisfied (R45). -/
def State.settleClaims (s : State) : State := s.parcels.foldl (fun s p => if p.claims.isEmpty then s else s.dueClaims p) s

/-- What holds at once when it holds: returns to lists whose pages are there again (R117), claims (R45), commands whose records no
longer stall (R126), in-flight counts (R166), unused loop buffers (R104), paths that become ready (R34), and pre-emption commands that
are done (R415). -/
def State.settle (s : State) : State :=
  s.retryReturns.settleClaims.releaseEngines.refreshCounts.tidyLoops.noteReady.settlePrecmd

/-! ## Turns -/

/-- The groups inside a clause, with the first whose core runs in front. -/
def State.frontRunning (s : State) : State :=
  let on (u : Nat) : Bool := match s.group? u with | some g => s.coreOn g.core | none => false
  match s.active.find? on with
  | some u => { s with active := u :: s.active.filter fun x => x ≠ u }
  | none => s

/-- The next turn is taken: the group that it chooses stands first among those inside a clause. -/
def State.takeTurn (s : State) : State :=
  match s.turns, s.active with
  | k :: ks, _ :: _ => { s with turns := ks, active := toFront (k % s.active.length) s.active }
  | _, _ => s.frontRunning

/-- The group that leaves its clause next. -/
def State.leaver (s : State) : Option Group :=
  (s.active.head?.bind s.group?).bind fun g =>
    if s.coreOn g.core && (match g.run with | some r => r.leaving.isSome | none => true) then some g else none

/-! ## The instruction of a group -/

/-- The instruction that a group has fetched runs; a slot that does not decode faults (R218). -/
def Ctx.go (c : Ctx) (s : State) : Host.Outcome State Fault Refusal :=
  match c.fetched with
  | none => .next s
  | some w => match fetchedInstr w with
    | .ok i => exec i s
    | .error k => .next (s.takeFault c.g (illegalSlot k w.2.2) c.r.clause c.r.idx)

/-- The slot of a blocked group runs again, if that changes anything but the group's blocked state. -/
def State.wouldGoOn (s : State) (g : Nat) : Bool :=
  let t := s.wake g false
  let t := { t with active := g :: t.active.filter fun x => x ≠ g }
  match t.running with
  | none => true
  | some c => match c.go t with
    | .next u => decide (u ≠ s)
    | _ => true

/-! ## The next event of the package -/

/-- An event of the package, as what it does. -/
abbrev Event := State → Host.Outcome State Fault Refusal

/-- The keys of a table. -/
def Tbl.keys {α : Type} (t : Tbl α) : List Nat := t.map fun e => e.1

/-- Results of loads and special functions. -/
def State.resultEvents (s : State) : List Event :=
  s.groups.flatMap fun g => if g.pending.isEmpty then [] else (span 0 g.pending.length).map (execLoadResult g.uid) ++ [execSfuResult g.uid]

/-- Flits, operations and acknowledgements on their way. -/
def State.netEvents (s : State) : List Event :=
  (if s.flits.isEmpty then [] else ((span 0 32).filter fun n => !(s.waitingAt n).isEmpty).map execLinkFlitSend)
  ++ (span 0 s.net.length).map execHomeSliceWrite ++ (span 0 s.acks.length).map execAckReturn
  ++ (allSlices.filter fun y => !((s.die y.1).slice y.2).queued.isEmpty).map fun y => execWatchTableRetry y.1 y.2

/-- The engine with an index. -/
def engineAt (n : Nat) : EngineRef :=
  let k : EngineKind := match n / 256 with
    | 0 => .matrix | 1 => .copy | 2 => .ray | 3 => .reuse | 4 => .light | 5 => .resurvey | 6 => .collective | _ => .geometry
  { kind := k, unit := n % 256 }

/-- The engines that queues of a core feed. -/
def enginesOf (core : Nat) : List EngineRef :=
  let d := core / 48
  [{ kind := .matrix, unit := core / 2 }, { kind := .ray, unit := core }, { kind := .reuse, unit := core / 2 },
   { kind := .light, unit := core / 2 }, { kind := .resurvey, unit := d }, { kind := .collective, unit := d },
   { kind := .geometry, unit := d }] ++ (span 0 4).map fun i => { kind := .copy, unit := 4 * d + i }

/-- What an engine that is busy does. -/
def engineWork (e : EngineRef) : List Event :=
  match e.kind with
  | .ray => [execRayResult e.unit]
  | .light => [execLightWalk e.unit]
  | .reuse => [execReuseCardRun e.unit]
  | .resurvey => [execKvrsSurvey e.unit]
  | .geometry => [execGfeMeshletPass e.unit, execGfePyramidBuild e.unit]
  | _ => []

/-- Commands and cards of engines, and matrix operations. -/
def State.engineEvents (s : State) : List Event :=
  (Tbl.keys s.engines).flatMap (fun n => engineWork (engineAt n) ++ [execEngineResultDeliver (engineAt n)])
  ++ (s.groups.filter fun g => g.queues.any fun e => !e.2.entries.isEmpty).flatMap (fun g => (enginesOf g.core).map execEngineTakeCommand)
  ++ s.pairs.flatMap fun e =>
    e.2.ops.flatMap (fun o => [execMtxOpRetire e.1 o.uid, execMtxOpStart e.1 o.uid]) ++ (e.2.cards.map fun c => execJobCardComplete c.uid)
      ++ [execJobCardDispatch e.1, execMatrixResetComplete e.1, execMatrixWatchdog e.1]

/-- The lives of parcels and launches. -/
def State.parcelEvents (s : State) : List Event :=
  s.parcels.flatMap (fun p => [execAllowanceExpiry p.uid, execSaveRoutineEnter p.uid, execSaveComplete p.uid, execRestore p.uid, execCommitLogApply p.uid,
    execParcelRetire p.uid, execPreemptLate p.uid])
  ++ s.launches.map fun l => execLaunchComplete l.uid

/-- A wait whose end cannot be told without running the slot again. -/
def Wait.retries : Wait → Bool
  | .write | .loads | .operations | .acks | .moving | .link => true
  | _ => false

/-- The groups that wait, with what they wait for. -/
def State.waiters (s : State) (p : Wait → Bool) : List Nat :=
  s.groups.filterMap fun g => match g.status with | .waiting w => if p w then some g.uid else none | _ => none

/-- A blocked slot runs again if it would go on. -/
def retry (u : Nat) : Event := fun s => if s.wouldGoOn u then execBlockedSlotResume u s else .next s

def State.wakeEvents (s : State) : List Event :=
  ((s.waiters fun w => !w.retries).flatMap fun u => [execBlockedSlotResume u, execSleeptWake u]) ++ (s.waiters Wait.retries).map retry

/-- Traverse transactions. -/
def State.traverseEvents (s : State) : List Event := if s.decls.isEmpty then [] else [execGrantPlacement, execBeatEnd]

/-- A candidate put in its place. -/
def insertCandidate (c : Candidate) : List Candidate → List Candidate
  | [] => [c]
  | x :: xs => if c.before x then c :: x :: xs else x :: insertCandidate c xs

def State.candidates (s : State) : List Candidate :=
  (s.groups.flatMap fun g => (g.p0.map (s.candidateOf g .s0)).toList ++ (g.p1.map (s.candidateOf g .s1)).toList).foldl (fun l c => insertCandidate c l) []

def State.issueEvents (s : State) : List Event :=
  s.candidates.flatMap fun c => [execCandidateAged c.group c.slot, execClauseIssue c.group c.slot, execQuantumClauseLimit c.group c.slot]

/-- What the control die does. -/
def State.controlEvents (s : State) : List Event :=
  s.vfs.flatMap (fun e => [execFaultRecordDeliver e.1, execShootdownDone e.1, execMigrationCopy e.1]
    ++ (if e.2.resetting then [execVfReset e.1] else []) ++ (Tbl.keys e.2.queues).map (execLaunchAccept e.1))
  ++ s.placements.flatMap (fun p => p.cores.map (execStake p.uid) ++ [execPlacementCommit p.uid, execStakeRetry p.uid])
  ++ (Tbl.keys s.cores).map execResourceReport ++ (if s.placements.isEmpty && s.vfs.isEmpty then [] else [execDispatch])
  ++ (s.links.filter fun e => e.2.retrain).map (fun e => execRetrainingWindowEnd (.die e.1))
  ++ (s.ports.filter fun e => e.2.retrain).map (fun e => execRetrainingWindowEnd (.port e.1))
  ++ (match s.control.boot with | .rom => [execColdReset] | .failed _ => [execBootSourceRetry] | .running => [])

/-- What may come next, in the order in which it is tried. (DESIGN CHOICE, log entry 15) -/
def State.events (s : State) : List Event :=
  s.resultEvents ++ s.netEvents ++ s.engineEvents ++ s.parcelEvents ++ s.wakeEvents ++ s.traverseEvents ++ s.issueEvents ++ s.controlEvents

/-- Whether an event does anything. -/
def State.movedBy (s : State) (e : Event) : Bool :=
  match e s with
  | .next t => decide (t ≠ s)
  | _ => true

/-- The event that comes next when the agenda names none: the first that does anything.
(DESIGN CHOICE, log entry 15) -/
def State.idle (s : State) : Host.Outcome State Fault Refusal :=
  match s.events.find? s.movedBy with
  | some e => e s
  | none => .next s

/-! ## The choice -/

/-- The state in which the next thing happens: time has passed, and what holds at once is noted. -/
def State.ready (s : State) : State := ((s.passTime (Config.cyclesAt s.tick) (Config.nsAt s.tick)).settle).takeTurn

/-- What happens once time has passed and the agenda names nothing: the next slot of the group whose turn it is, else a clause is
left, else the next event of the package. -/
def State.go (s : State) : Host.Outcome State Fault Refusal :=
  match s.running with
  | some c => c.go s
  | none => match s.leaver with
    | some g => .next (s.endClause g)
    | none => s.idle

/-- The next event of the agenda, once its time has passed (a slot instruction does not come from there).
(DESIGN CHOICE, log entries 1, 65) -/
def State.planned (s : State) (p : Planned) (rest : List Planned) : Host.Outcome State Fault Refusal :=
  let t := ({ s with agenda := rest }.passTime p.cycles p.ns).settle
  if p.ev.isSlot then .next t else exec p.ev t

end Sys2Proof.Machine
end

