-- ==== Sys2Proof/Machine/Step.lean ====
section
/-!
DEFINITION. One step of the package: time passes, and then one slot, one event, or nothing.
-/
namespace Sys2Proof.Machine
open Sys2Proof

/-- One step. (DESIGN CHOICE, log entry 1) -/
def step (s : State) : Host.Outcome State Fault Refusal :=
  match s.agenda with
  | p :: rest => s.planned p rest
  | [] => s.ready.go

/-- The state in which the next step executes the slot word `w` (bits above `nbits` are zero).
(DESIGN CHOICE, log entry 3) -/
def State.withFetchWord (s : State) (nbits w : Nat) : State := s.withSlot (BitVec.ofNat 64 (w % 2 ^ nbits))

end Sys2Proof.Machine
end

