-- ==== Sys2Proof/Safety.lean ====
section
/-!
DEFINITION. What a safe state of the package is, and the terms in which the statements speak of a slot that runs: which slot is next, and
how its operands are read.
-/
namespace Sys2Proof.Machine
open Sys2Proof

/-- The memory is in its canonical form. -/
def State.memoryOk (s : State) : Bool := Memory.wf s.mem

/-- The next slot to run in `s` is that of the context `c`, and no breakpoint matches it. -/
def State.runs (s : State) (c : Ctx) : Prop := s.running = some c ∧ c.breakpoint = none

/-- The state after a slot that completes: the group `g` with what the slot has done, and the end of the slot. -/
def doneWith (s : State) (g : Group) (latch : Option (Tbl W64)) (goto : Option Goto) : Host.Outcome State Fault Refusal :=
  .next (s.finishSlot g latch goto)

/-- Whether a slot uses a queue register. -/
def usesQueue (us : List Use) : Bool := us.any fun u => u.queue?.isSome

/-- The queue that a destination pushes into, unless NW is set. -/
def pushQueue (nw : Bool) (dsts : List Use) (p : Nat → Option α) : Option α :=
  if nw then none else dsts.findSome? fun u => u.queue?.bind p

/-- The operands of a slot with the executing lanes `e` are in order and can be read (R69, R203, R245, R263, R281, R426): every field
is legal, every latch is full, no pending write meets an operand or the latch that a slot that captures takes, every queue is bound
the right way, the quantum end of a slot that is a fence, an access or uses a queue answers `s` and `g` (`s` and `g` are those of the
context where it is none), the queues are ready, and the sources give `xs`, `h` being the group after the pops. -/
structure Ctx.Begins (c : Ctx) (o : Start) (e : W64) (nw : Bool) (dsts srcs : List Use) (s : State) (g h : Group) (xs : List Src)
    (captures : Bool := true) : Prop where
  fields  : (dsts ++ srcs).findSome? (Use.fault c.g) = none
  some    : e ≠ 0
  free    : captures = true → (c.g.pending.any fun p => p.latches c.r) = false
  own     : o.pre = none
  latches : latchFault c.r srcs = none
  quiet   : (c.g.pending.any fun p => (dsts ++ srcs).any fun u => p.meets c.r.id u) = false
  values  : o.check (foreseen c.g c.r srcs) = none
  pops    : popsFault c.g srcs = none
  pushes  : (dsts.findSome? fun u => u.queue?.bind fun q => if nw then c.g.portFault q o.port else c.g.pushFault q o.port) = none
  late    : c.g.lateAt srcs = none
  quantum : if o.fence || o.access || usesQueue (dsts ++ srcs) then c.s.quantumEnd c.g c.k = .ok s g else s = c.s ∧ g = c.g
  space   : pushQueue nw dsts (fun q => if g.queueFull q then Option.some q else none) = none
  sources : takeSources c.r g srcs = .ok (h, xs)
  sound   : g.badRead e srcs = none

/-! ## Slots with a result (R67, R245) -/

/-- A slot with one value `x` for the path completes: the destination gets it unless NW is set, and the latch holds it in every
lane's entry. -/
def Ctx.pathDone (c : Ctx) (e : W64) (dst : Operand) (nw : Bool) (p : Pfx) (vec : Bool) (h : Group) (x : W64) :
    Host.Outcome State Fault Refusal :=
  doneWith c.s (if nw then h else c.write h e dst p vec (.one x)) (some (c.spread x)) none

/-- A slot with a value `x l` for each executing lane completes: the destination gets them unless NW is set, and the latch holds
them, with 0 for the other lanes. -/
def Ctx.lanesDone (c : Ctx) (e : W64) (dst : Operand) (nw : Bool) (p : Pfx) (vec : Bool) (h : Group) (x : Nat → W64) :
    Host.Outcome State Fault Refusal :=
  doneWith c.s (if nw then h else c.write h e dst p vec (.lanes (laneTbl e x))) (some (laneTbl e x)) none

/-- A slot with a mask destination completes: k[kd] gets the bits `b` of the executing lanes unless NW is set, and the latch holds
the whole new mask as a scalar result (R67, R254). -/
def Ctx.maskDone (c : Ctx) (e : W64) (kd : Nat) (nw : Bool) (h : Group) (b : W64) : Host.Outcome State Fault Refusal :=
  doneWith c.s (if nw then h else h.setKreg kd e b) (some (c.spread (Tbl.get 0 (h.setKreg kd e b).masks kd))) none

/-- The results of a lane's elements. -/
def elements (t : ElemType) (op : Nat → El) : List El := (span 0 t.count).map op

/-- No NaN trap: NANT is clear, or no result is a NaN (R192). -/
def noTrap (fe : FEnv) (xs : List El) : Prop := fe.nant = true → ∀ x ∈ xs, x.nan = none

/-! ## Matrix slots (R322, R324) -/

/-- The context of an MTX-class slot once it has acquired the accumulator tiles, which answers `u`. -/
def Ctx.withTiles (c : Ctx) (s : State) (g : Group) (u : State) : Ctx := (c.put s g).put u g

/-- An MTX-class slot whose operands are in order has acquired the accumulator tiles, which answers `u`. -/
def Ctx.BeginsMtx (c : Ctx) (o : Start) (e : W64) (nw : Bool) (dsts srcs : List Use) (s : State) (g h : Group) (xs : List Src)
    (u : State) (captures : Bool := true) : Prop :=
  c.Begins o e nw dsts srcs s g h xs captures ∧ s.acquireTiles g.parcel g.core = some u

/-- The outcome `r` of a slot of context `c` that issues the operation `kind` to its array from state `s`, with the group `g` after it:
the operation is the newest of the core's pair, and nothing else changes. -/
def Ctx.issues (c : Ctx) (r : Host.Outcome State Fault Refusal) (s : State) (g : Group) (rnd : BitVec 3) (kind : MtxKind) (va : Nat)
    (inc : Option (Nat × Nat)) : Prop :=
  ∃ o : MtxOp, let p := s.pair (g.core / 2)
    r = doneWith (s.fresh.1.setPair (g.core / 2) { p with ops := p.ops ++ [o] }) g none none ∧ o.uid = s.uid ∧ o.kind = kind ∧
    o.va = va ∧ o.group = g.uid ∧ o.parcel = g.parcel ∧ o.core = g.core ∧ o.fmt = c.fmtWith rnd ∧ o.clause = c.r.clause ∧
    o.slot = c.r.idx ∧ o.semv = inc.isSome ∧ (o.sem, o.inc) = inc.getD (0, 0) ∧ o.started = none ∧ o.applied = false

end Sys2Proof.Machine
end

