-- ==== Sys2Proof/Certificates/Slice0/Obligations.lean ====
section
/-!
DEFINITION. The statements for the provers, one definition each, by kind of state and family of opcodes.
-/
open Sys2Proof Sys2Proof.Machine

/-! ## The step, the slot and its results -/

/-- R213, R218, R422: with an empty agenda a step first lets time pass (`ready`) and then runs the instruction that the group inside a
clause has fetched, or stops that group with the illegal-instruction fault when the fetched word does not decode. With an agenda the step
runs its first event. (The agenda, and time that passes at the start of a step, are the model's own: log entry 1). -/
def Obligations.StepRunsFetchedSlot : Prop :=
  (∀ (s : State) (c : Ctx) (x : Nat × W32 × W64) (i : Instr),
    s.agenda = [] → s.ready.running = some c → c.fetched = some x → fetchedInstr x = .ok i → step s = exec i s.ready) ∧
  (∀ (s : State) (c : Ctx) (x : Nat × W32 × W64) (k : Nat),
    s.agenda = [] → s.ready.running = some c → c.fetched = some x → fetchedInstr x = .error k →
      step s = .next (s.ready.takeFault c.g (illegalSlot k x.2.2) c.r.clause c.r.idx)) ∧
  (∀ (s : State) (p : Planned) (rest : List Planned), s.agenda = p :: rest → p.ev.isSlot = false →
    step s = exec p.ev (({ s with agenda := rest } : State).passTime p.cycles p.ns).settle)

/-- R67, R36: a slot that is done and is not the last of its clause leaves its result in latch l(i mod 4), i being its number among the
clause's instruction slots; a result still to come of an earlier slot then no longer takes that latch, and nothing else of the state
changes; the clause's last slot ends the clause. -/
def Obligations.SlotEndCapturesLatch : Prop :=
  ∀ (s : State) (g : Group) (r : ClauseRun) (latch : Option (Tbl W64)), g.run = some r → r.leaving = none →
    let later (p : Pending) : Pending :=
      if p.run = r.id ∧ p.latch = some (r.idx % 4) ∧ p.slot ≠ r.idx then { p with latch := none } else p
    ∃ r' ps, ps = (if latch.isSome then g.pending.map later else g.pending) ∧
      (if r.idx + 1 < r.words.length then
          s.finishSlot g latch none = s.setGroup { g with run := some r', pending := ps } ∧ r'.leaving = none
        else s.finishSlot g latch none = s.endClause { g with run := some r', pending := ps } ∧ r'.leaving = some .next) ∧
      r'.idx = r.idx + 1 ∧ r'.words = r.words ∧ r'.clause = r.clause ∧ r'.path = r.path ∧ r'.header = r.header ∧
      (∀ t, latch = some t → Tbl.get [] r'.latches (r.idx % 4) = t ∧ r'.valid.getLsbD (r.idx % 4) = true ∧
        ∀ n, n < 4 → n ≠ r.idx % 4 → Tbl.get [] r'.latches n = Tbl.get [] r.latches n ∧ r'.valid.getLsbD n = r.valid.getLsbD n) ∧
      (latch = none → r'.latches = r.latches ∧ r'.valid = r.valid)

/-- R59, R211: the executing lanes are those of the path's mask in which the guard holds, and of these a v destination is written in the
lanes of the write mask (in all of them without one); under the zero policy the others of them become 0; no other register of the group
changes; with NW no register is written, and the latch captures as ever. -/
def Obligations.GuardAndWriteMask : Prop :=
  (∀ (c : Ctx) (pg : BitVec 3) (pn : Bool) (l : Nat),
    (c.enabled pg pn).getLsbD l = (c.p.mask.getLsbD l && ((c.g.kreg c.p.mask pg.toNat).getLsbD l != pn))) ∧
  ∀ (c : Ctx) (g : Group) (p : Pfx) (e : W64) (r : Nat) (f : Nat → W64),
    (∀ l, l < 64 → (c.writeV g p e r f).vreg r l =
      if e.getLsbD l then
        (if p.wm = 0 ∨ (g.kreg c.p.mask p.wm.toNat).getLsbD l = true then f l else if p.zpol then 0 else g.vreg r l)
      else g.vreg r l) ∧
    (∀ r' l, l < 64 → r' ≠ r → (c.writeV g p e r f).vreg r' l = g.vreg r' l) ∧
    { c.writeV g p e r f with v := g.v } = g ∧
    ∀ (dst : Operand) (vec : Bool) (kd : Nat) (b : W64) (x : W64),
      c.lanesDone e dst true p vec g f = doneWith c.s g (some (laneTbl e f)) none ∧
      c.pathDone e dst true p vec g x = doneWith c.s g (some (c.spread x)) none ∧
      c.maskDone e kd true g b = doneWith c.s g (some (c.spread (Tbl.get 0 (g.setKreg kd e b).masks kd))) none

/-- R61, R110, R245: a result for the path goes to an s register whole; a result for a q destination is pushed as the newest entry, a vector
entry with the executing lanes as its mask where the opcode is a vector one, else a scalar entry; nothing else of the group changes. -/
def Obligations.ScalarAndQueueResults : Prop :=
  ∀ (c : Ctx) (g : Group) (e : W64) (p : Pfx) (vec : Bool) (x : W64) (t : Tbl W64),
    (∀ n : BitVec 6, (c.write g e (.s n) p vec (.one x)).sreg n.toNat = x ∧
      (∀ m, m ≠ n.toNat → (c.write g e (.s n) p vec (.one x)).sreg m = g.sreg m) ∧
      { c.write g e (.s n) p vec (.one x) with s := g.s } = g) ∧
    (∀ n : BitVec 4, ∃ y : QEntry, ((c.write g e (.q n) p vec (.one x)).queue n.toNat).entries = (g.queue n.toNat).entries ++ [y] ∧
      (∀ m, m ≠ n.toNat → (c.write g e (.q n) p vec (.one x)).queue m = g.queue m) ∧
      { c.write g e (.q n) p vec (.one x) with queues := g.queues } = g ∧
      y.scalar = !vec ∧ y.cmd = none ∧ (vec = true → y.mask = e) ∧ (vec = false → ∀ l, y.at l = x) ∧
      (vec = true → ∀ l, e.getLsbD l = true → y.at l = x)) ∧
    (∀ n : BitVec 4, ∃ y : QEntry, ((c.write g e (.q n) p vec (.lanes t)).queue n.toNat).entries = (g.queue n.toNat).entries ++ [y] ∧
      y.scalar = false ∧ y.mask = e ∧ ∀ l, e.getLsbD l = true → y.at l = Tbl.get 0 t l)

/-- R57, R60, R61, R66 (frame): where a slot with a result for a v or s register or a mask completes inside its clause, the next state
differs from the one before in the executing group only, and in that group at most the destination register, and the latches and the slot
counter of its clause, differ: memory, the other registers and masks, capabilities, queues, paths, pending writes (as many as were, to the
same destinations) and buffered stores are as they were. (The result statements of the scalar, vector, mask and cross-lane opcodes have
these outcomes.). -/
def Obligations.RegisterResultFrame : Prop :=
  ∀ (c : Ctx) (e : W64) (dst : Operand) (nw : Bool) (p : Pfx) (vec : Bool) (h : Group) (r : ClauseRun),
    h.run = some r → r.leaving = none → r.idx + 1 < r.words.length → (∀ q, dst ≠ .q q) →
    let bare (p : Pending) : Pending := { p with latch := none }
    (∀ (o : Host.Outcome State Fault Refusal),
      (∃ x, o = c.pathDone e dst nw p vec h x) ∨ (∃ y, o = c.lanesDone e dst nw p vec h y) →
      ∃ t g', o = .next t ∧ t = c.s.setGroup g' ∧ t.mem = c.s.mem ∧
        { g' with v := h.v, s := h.s, run := h.run, pending := h.pending } = h ∧ g'.pending.map bare = h.pending.map bare ∧
        (nw = true → g'.v = h.v ∧ g'.s = h.s) ∧
        (∀ n l, l < 64 → g'.vreg n l = h.vreg n l ∨ (∃ k : BitVec 8, dst = .v k ∧ k.toNat = n)) ∧
        (∀ n, g'.sreg n = h.sreg n ∨ (∃ k : BitVec 6, dst = .s k ∧ k.toNat = n))) ∧
    ∀ (kd : Nat) (b : W64), ∃ t g', c.maskDone e kd nw h b = .next t ∧ t = c.s.setGroup g' ∧ t.mem = c.s.mem ∧
      { g' with masks := h.masks, run := h.run, pending := h.pending } = h ∧ g'.pending.map bare = h.pending.map bare ∧
      (nw = true → g'.masks = h.masks) ∧
      (∀ k, k ≠ kd → Tbl.get 0 g'.masks k = Tbl.get 0 h.masks k) ∧
      ∀ l, e.getLsbD l = false → l < h.width → l < 64 → (Tbl.get 0 g'.masks kd).getLsbD l = (Tbl.get 0 h.masks kd).getLsbD l

/-- R20, R203, R245, R263, R281, R426: of an element-wise opcode an illegal field comes first and raises the illegal-operand fault; a slot
whose latch a result is still to come for waits; with no executing lane the slot then does nothing and captures 0; with one, an empty latch
among the sources raises the latch-empty fault, and a pending write that meets an operand makes the slot wait. -/
def Obligations.OperandChecksInOrder : Prop :=
  ∀ (s : State) (c : Ctx) (f : VForm) (n : Nat) (i : Instr) (d k : Kinds), s.runs c →
    (n, i, d, k) ∈ [(2, Instr.sadd f, Kinds.sq, Kinds.slq), (2, .ssub f, .sq, .slq), (2, .smul f, .sq, .slq), (2, .sand f, .sq, .slq),
      (1, .smov f, .sq, .slq), (3, .ssel f, .sq, .slq), (2, .vadd f, .vq, .vslq), (2, .vsub f, .vq, .vslq), (2, .vmul f, .vq, .vslq),
      (3, .vfma f, .vq, .vslq), (1, .vmov f, .vq, .vslq), (2, .vand f, .vq, .vslq), (1, .vrcp f, .vq, .vslq)] →
    let e := c.enabled f.pg f.pn
    let us := [dstOf f d] ++ usesOf f n k
    (∀ x, us.findSome? (Use.fault c.g) = some x → exec i s = .next (slotEnd (c.trap x))) ∧
    (us.findSome? (Use.fault c.g) = none → (c.g.pending.any fun p => p.latches c.r) = true → exec i s = .next (slotEnd (c.block .write))) ∧
    (us.findSome? (Use.fault c.g) = none → (c.g.pending.any fun p => p.latches c.r) = false →
      (e = 0 → usesQueue us = false → exec i s = doneWith s c.g (some []) none) ∧
      (e ≠ 0 →
        (∀ x, latchFault c.r (usesOf f n k) = some x → exec i s = .next (slotEnd (c.trap x))) ∧
        (latchFault c.r (usesOf f n k) = none → (c.g.pending.any fun p => us.any fun u => p.meets c.r.id u) = true →
          exec i s = .next (slotEnd (c.block .write)))))

/-! ## Scalar, vector, mask and cross-lane opcodes -/

/-- R61, R245, R250, R251, R253, R255, R258: an element-wise scalar opcode whose operands are in order and whose result traps on no NaN
completes: once for the path, every sub-element of the result is the operation on that sub-element of the sources, which give the value of
the lowest executing lane; SCVT converts sub-element 0 only. -/
def Obligations.ScalarElementwiseResults : Prop :=
  ∀ (s : State) (c : Ctx) (f : VForm) (t : State) (g h : Group) (xs : List Src), s.runs c →
    let e := c.enabled f.pg f.pn
    let l := (lowest e).getD 0
    let fe := (c.put t g).fenv f.pfx
    (∀ (n : Nat) (i : Instr) (op : List Nat → El),
      (n, i, op) ∈ [(2, Instr.sadd f, op2 (elAdd f.ty (xSat f.x) fe)), (2, .ssub f, op2 (elSub f.ty (xSat f.x) fe)),
        (2, .smul f, op2 (elMul f.ty (xSat f.x) fe)), (2, .smulh f, op2 (elMulh f.ty)), (2, .sdiv f, op2 (elDiv f.ty (xSat f.x))),
        (2, .srem f, op2 (elRem f.ty)), (2, .sand f, op2 elAnd), (2, .sor f, op2 elOr), (2, .sxor f, op2 elXor),
        (2, .sshl f, op2 (elShl f.ty (f.var = 1))), (2, .sshr f, op2 (elShr f.ty (f.var = 1))),
        (2, .scmp f, op2 fun a b => elMask f.ty (elCompare f.ty fe (xCond f.x) a b)),
        (2, .smin f, op2 (elPick f.ty false fe)), (2, .smax f, op2 (elPick f.ty true fe)),
        (1, .sclz f, op1 (elClz f.ty)), (1, .spopc f, op1 (elPopc f.ty))] →
      c.Begins {} e f.nw [dstOf f .sq] (usesOf f n .slq) t g h xs →
      let row := elements f.ty fun j => op (xs.map fun x => elem f.ty (x l) j)
      noTrap fe row → exec i s = (c.put t g).pathDone e f.dst f.nw f.pfx false h (elReg f.ty row)) ∧
    (c.Begins {} e f.nw [dstOf f .sq] (usesOf f 1 .slq) t g h xs →
      let row := [elConvert (Wf.srcType f.x) f.ty (xSat f.x) fe (elem (Wf.srcType f.x) ((xs.headD fun _ => 0) l) 0)]
      noTrap fe row → exec (.scvt f) s = (c.put t g).pathDone e f.dst f.nw f.pfx false h (elReg f.ty row))

/-- R249, R250, R260, R74: SMOV copies 64 bits, SSEL selects by a third operand, SMOVI writes the immediate in every sub-element, SADDI adds
it to the destination, and SRD reads a special register: sr.lane gives each lane its own index, an s destination gets that of the lowest
executing lane, and every other special register is one value. R72, R259: SETF replaces the selected fields of the path's fmt by those of
its operand and answers the old fmt; a value that would set a reserved bit or a reserved NSEL raises the illegal-operand fault and leaves
fmt unchanged. -/
def Obligations.ScalarMovesAndSetf : Prop :=
   (∀ (s : State) (c : Ctx) (t : State) (g h : Group) (xs : List Src), s.runs c →
      (∀ f : VForm, c.Begins {} (c.enabled f.pg f.pn) f.nw [dstOf f .sq] (usesOf f 1 .slq) t g h xs →
        exec (.smov f) s = (c.put t g).pathDone (c.enabled f.pg f.pn) f.dst f.nw f.pfx false h
          ((xs.headD fun _ => 0) ((lowest (c.enabled f.pg f.pn)).getD 0))) ∧
      (∀ (f : VForm) (a b d : Src), xs = [a, b, d] →
        c.Begins {} (c.enabled f.pg f.pn) f.nw [dstOf f .sq] (usesOf f 3 .slq) t g h xs →
        let l := (lowest (c.enabled f.pg f.pn)).getD 0
        exec (.ssel f) s = (c.put t g).pathDone (c.enabled f.pg f.pn) f.dst f.nw f.pfx false h (if d l ≠ 0 then a l else b l)) ∧
      (∀ f : IForm, c.Begins {} (c.enabled f.pg f.pn) f.nw [⟨36, f.dst, .sq, 1⟩] [] t g h xs →
        exec (.smovi f) s = (c.put t g).pathDone (c.enabled f.pg f.pn) f.dst f.nw f.pfx false h (immReg f.ty f.imm)) ∧
      (∀ (f : IForm) (r : BitVec 6), f.dst = .s r →
        c.Begins {} (c.enabled f.pg f.pn) f.nw [⟨36, f.dst, .onlyS, 1⟩] [] t g h xs →
        exec (.saddi f) s = (c.put t g).pathDone (c.enabled f.pg f.pn) f.dst f.nw f.pfx false h
          (elReg f.ty (elements f.ty fun j =>
            elAdd f.ty false ((c.put t g).fenv f.pfx) (elem f.ty (h.sreg r.toNat) j) (elem f.ty (immReg f.ty f.imm) j)))) ∧
      (∀ (f : VForm) (r : BitVec 6), f.dst = .s r → f.x = 0 →
        c.Begins {} (c.enabled f.pg f.pn) f.nw [dstOf f .vsq] [] t g h xs →
        exec (.srd f) s = (c.put t g).pathDone (c.enabled f.pg f.pn) f.dst f.nw f.pfx false h
          (Tbl.get 0 (laneTbl (c.enabled f.pg f.pn) fun l => BitVec.ofNat 64 l) ((lowest (c.enabled f.pg f.pn)).getD 0))) ∧
      (∀ f : VForm, (∀ r, f.dst ≠ .s r) → f.x = 0 →
        c.Begins {} (c.enabled f.pg f.pn) f.nw [dstOf f .vsq] [] t g h xs →
        exec (.srd f) s = (c.put t g).lanesDone (c.enabled f.pg f.pn) f.dst f.nw f.pfx false h fun l => BitVec.ofNat 64 l) ∧
      (∀ (f : VForm) (r : BitVec 8), f.dst = .v r → f.x ≠ 0 →
        c.Begins {} (c.enabled f.pg f.pn) f.nw [dstOf f .vsq] [] t g h xs →
        exec (.srd f) s = (c.put t g).lanesDone (c.enabled f.pg f.pn) f.dst f.nw f.pfx false h
          fun _ => (c.put t g).special f.x.toNat) ∧
      (∀ f : VForm, (∀ r, f.dst ≠ .v r) → f.x ≠ 0 →
        c.Begins {} (c.enabled f.pg f.pn) f.nw [dstOf f .vsq] [] t g h xs →
        exec (.srd f) s = (c.put t g).pathDone (c.enabled f.pg f.pn) f.dst f.nw f.pfx false h ((c.put t g).special f.x.toNat))) ∧
   (∀ (s : State) (c : Ctx) (f : VForm), s.runs c →
      let e := c.enabled f.pg f.pn
      let value (xs : List Src) : W64 := (xs.headD fun _ => 0) ((lowest e).getD 0)
      let reserved (a : W64) : Bool := a.extractLsb' 24 40 ≠ 0 || (f.x.getLsbD 3 && 1 < (a.extractLsb' 4 4).toNat)
      let check (xs : List Src) : Option FaultInfo := if reserved (value xs) then some (illegalOperand 6 27 (value xs).toNat) else none
      (∀ (t : State) (g h : Group) (xs : List Src),
        c.Begins { check := check } e f.nw [dstOf f .sq] (usesOf f 1 .slq) t g h xs →
        exec (.setf f) s = (c.put t g).pathDone e f.dst f.nw f.pfx false
          (h.setPath c.k (some { (c.put t g).p with
            fmt := ((c.put t g).p.fmt &&& ~~~fmtBits f.x) ||| ((value xs).truncate 32 &&& fmtBits f.x) }))
          ((c.put t g).p.fmt.zeroExtend 64)) ∧
      (∀ n : BitVec 6, f.sa = .s n → e ≠ 0 → ([dstOf f .sq] ++ usesOf f 1 .slq).findSome? (Use.fault c.g) = none →
        (c.g.pending.any fun p => p.latches c.r || ([dstOf f .sq] ++ usesOf f 1 .slq).any fun u => p.meets c.r.id u) = false →
        reserved (c.g.sreg n.toNat) = true →
        exec (.setf f) s = .next (slotEnd (c.trap (illegalOperand 6 27 (c.g.sreg n.toNat).toNat)))))

/-- R245, R246, R251 to R253: an element-wise vector opcode whose operands are in order and whose results trap on no NaN completes: in each
executing lane every sub-element of the result is the operation on that sub-element of the sources. -/
def Obligations.VectorElementwiseResults : Prop :=
  ∀ (s : State) (c : Ctx) (f : VForm) (t : State) (g h : Group) (xs : List Src) (n : Nat) (i : Instr) (op : List Nat → El),
    s.runs c →
    let e := c.enabled f.pg f.pn
    let fe := (c.put t g).fenv f.pfx
    (n, i, op) ∈ [(2, Instr.vadd f, op2 (elAdd f.ty (xSat f.x) fe)), (2, .vsub f, op2 (elSub f.ty (xSat f.x) fe)),
      (2, .vmul f, op2 (elMul f.ty (xSat f.x) fe)), (3, .vfma f, op3 (elFma f.ty (xSat f.x) fe)),
      (2, .vmin f, op2 (elPick f.ty false fe)), (2, .vmax f, op2 (elPick f.ty true fe)),
      (1, .vabs f, op1 (elAbs f.ty (xSat f.x))), (1, .vneg f, op1 (elNeg f.ty (xSat f.x))),
      (2, .vdiv f, op2 (elDiv f.ty (xSat f.x))), (2, .vrem f, op2 (elRem f.ty)), (2, .vand f, op2 elAnd), (2, .vor f, op2 elOr),
      (2, .vxor f, op2 elXor), (1, .vnot f, op1 (elNot f.ty)), (2, .vshl f, op2 (elShl f.ty (f.var = 1))),
      (2, .vshr f, op2 (elShr f.ty (f.var = 1))), (1, .vclz f, op1 (elClz f.ty)), (1, .vpopc f, op1 (elPopc f.ty)),
      (2, .vmulh f, op2 (elMulh f.ty)), (2, .vcpys f, op2 (elCpys f.ty))] →
    c.Begins {} e f.nw [dstOf f .vq] (usesOf f n .vslq) t g h xs →
    let row (l : Nat) := elements f.ty fun j => op (xs.map fun x => elem f.ty (x l) j)
    (∀ l, e.getLsbD l = true → noTrap fe (row l)) →
    exec i s = (c.put t g).lanesDone e f.dst f.nw f.pfx true h fun l => elReg f.ty (row l)

/-- R246, R249, R257, R258: VMOV copies, VMOVI writes the immediate to every executing lane, VSEL selects between its operands by a mask
register, VCVT, VPACK and VUNPK convert the elements that the entry names. -/
def Obligations.VectorMovesAndConversions : Prop :=
  ∀ (s : State) (c : Ctx) (t : State) (g h : Group) (xs : List Src), s.runs c →
    (∀ f : VForm, c.Begins {} (c.enabled f.pg f.pn) f.nw [dstOf f .vq] (usesOf f 1 .vslq) t g h xs →
      exec (.vmov f) s = (c.put t g).lanesDone (c.enabled f.pg f.pn) f.dst f.nw f.pfx true h fun l => (xs.headD fun _ => 0) l) ∧
    (∀ f : IForm, c.Begins {} (c.enabled f.pg f.pn) f.nw [⟨36, f.dst, .vq, 1⟩] [] t g h xs →
      exec (.vmovi f) s = (c.put t g).lanesDone (c.enabled f.pg f.pn) f.dst f.nw f.pfx true h fun _ => immReg f.ty f.imm) ∧
    (∀ (f : VForm) (a b : Src), xs = [a, b] →
      c.Begins {} (c.enabled f.pg f.pn) f.nw [dstOf f .vq] (usesOf f 2 .vslq) t g h xs →
      exec (.vsel f) s = (c.put t g).lanesDone (c.enabled f.pg f.pn) f.dst f.nw f.pfx true h fun l =>
        if ((h.kreg (c.put t g).p.mask (xKB f.x)).getLsbD l != f.x.getLsbD 3) = true then a l else b l) ∧
    (∀ f : VForm, c.Begins {} (c.enabled f.pg f.pn) f.nw [dstOf f .vq] (usesOf f 1 .vslq) t g h xs →
      let row (l : Nat) := (elems (Wf.srcType f.x) ((xs.headD fun _ => 0) l)).map
        (elConvert (Wf.srcType f.x) f.ty (xSat f.x) ((c.put t g).fenv f.pfx))
      (∀ l, (c.enabled f.pg f.pn).getLsbD l = true → noTrap ((c.put t g).fenv f.pfx) (row l)) →
      exec (.vcvt f) s = (c.put t g).lanesDone (c.enabled f.pg f.pn) f.dst f.nw f.pfx true h fun l => elReg f.ty (row l)) ∧
    (∀ f : VForm, c.Begins {} (c.enabled f.pg f.pn) f.nw [dstOf f .vq] (packUses f) t g h xs →
      let row (l : Nat) := ((xs.flatMap fun x => elems (Wf.srcType f.x) (x l)).take f.ty.count).map
        (elConvert (Wf.srcType f.x) f.ty (xSat f.x) ((c.put t g).fenv f.pfx))
      (∀ l, (c.enabled f.pg f.pn).getLsbD l = true → noTrap ((c.put t g).fenv f.pfx) (row l)) →
      exec (.vpack f) s = (c.put t g).lanesDone (c.enabled f.pg f.pn) f.dst f.nw f.pfx true h fun l => elReg f.ty (row l)) ∧
    (∀ f : VForm, c.Begins {} (c.enabled f.pg f.pn) f.nw [dstOf f .vq] (usesOf f 1 .vslq) t g h xs →
      let row (l : Nat) := (span (xPart f.x * f.ty.count) f.ty.count).map fun j =>
        if j < (Wf.srcType f.x).count then
          elConvert (Wf.srcType f.x) f.ty (xSat f.x) ((c.put t g).fenv f.pfx) (elem (Wf.srcType f.x) ((xs.headD fun _ => 0) l) j)
        else .of 0
      (∀ l, (c.enabled f.pg f.pn).getLsbD l = true → noTrap ((c.put t g).fenv f.pfx) (row l)) →
      exec (.vunpk f) s = (c.put t g).lanesDone (c.enabled f.pg f.pn) f.dst f.nw f.pfx true h fun l => elReg f.ty (row l))

/-- R66, R254 to R257, R267: an opcode with a mask destination writes the bits of the executing lanes of k[KD] and captures the whole new
mask; KD 0 raises the illegal-operand fault; KMOV.ks answers the whole mask. -/
def Obligations.MaskOpcodesComplete : Prop :=
  ∀ (s : State) (c : Ctx) (f : VForm) (t : State) (g h : Group) (xs : List Src), s.runs c →
    let e := c.enabled f.pg f.pn
    let d := c.put t g
    let k (n : Nat) : W64 := g.kreg d.p.mask n
    let p := k (xKA f.x) &&& e
    (∀ i : Instr, i ∈ [Instr.vcmp f, .kand f, .kor f, .kxor f, .knot f, .kmovKk f, .kmovSk f, .vvote f] → xKD f.x = 0 →
      exec i s = .next (slotEnd (c.trap (illegalOperand 3 6 0)))) ∧
    (xKD f.x ≠ 0 → c.Begins {} e f.nw [] [] t g h xs →
      exec (.kand f) s = d.maskDone e (xKD f.x) f.nw h (k (xKA f.x) &&& k (xKB f.x)) ∧
      exec (.kor f) s = d.maskDone e (xKD f.x) f.nw h (k (xKA f.x) ||| k (xKB f.x)) ∧
      exec (.kxor f) s = d.maskDone e (xKD f.x) f.nw h (k (xKA f.x) ^^^ k (xKB f.x)) ∧
      exec (.knot f) s = d.maskDone e (xKD f.x) f.nw h (~~~k (xKA f.x)) ∧
      exec (.kmovKk f) s = d.maskDone e (xKD f.x) f.nw h (k (xKA f.x)) ∧
      exec (.vvote f) s = d.maskDone e (xKD f.x) f.nw h
        (if (f.var = 0 ∧ p ≠ 0) ∨ (f.var = 1 ∧ p = e) ∨ (f.var ≠ 0 ∧ f.var ≠ 1 ∧ (p = 0 ∨ p = e)) then BitVec.allOnes 64 else 0)) ∧
    (xKD f.x ≠ 0 → c.Begins {} e f.nw [] (usesOf f 1 .slq) t g h xs →
      exec (.kmovSk f) s = d.maskDone e (xKD f.x) f.nw h ((xs.headD fun _ => 0) ((lowest e).getD 0))) ∧
    (∀ a b : Src, xs = [a, b] → xKD f.x ≠ 0 → c.Begins {} e f.nw [] (usesOf f 2 .vslq) t g h xs →
      exec (.vcmp f) s = d.maskDone e (xKD f.x) f.nw h (maskOf e fun l => combine f.var ((span 0 f.ty.count).map fun j =>
        elCompare f.ty (d.fenv f.pfx) (xCond f.x) (elem f.ty (a l) j) (elem f.ty (b l) j)))) ∧
    (c.Begins {} e f.nw [dstOf f .sq] [] t g h xs →
      exec (.kmovKs f) s = d.pathDone e f.dst f.nw f.pfx true h (h.kreg d.p.mask (xKA f.x)))

/-- R264 to R268: the cross-lane opcodes complete. Only the executing lanes supply values (0 stands for any other lane); a SUB at or above
the packing's count raises the illegal-operand fault at the lowest lane that has one; VREDX and VSCAN fold the lanes in ascending order,
each sub-element for itself, and the first lane of an exclusive scan gets the identity. -/
def Obligations.CrossLaneResults : Prop :=
  ∀ (s : State) (c : Ctx) (f : VForm) (t : State) (g h : Group), s.runs c →
    let e := c.enabled f.pg f.pn
    let d := c.put t g
    let fe := d.fenv f.pfx
    let l0 := (lowest e).getD 0
    let one (x : W64) : Host.Outcome State Fault Refusal := match f.dst with
      | .v _ => d.lanesDone e f.dst f.nw f.pfx true h fun _ => x
      | _ => d.pathDone e f.dst f.nw f.pfx true h x
    (∀ (r : BitVec 6) (n : BitVec 8) (l : Nat), f.sb = .s r → f.sa = .v n → lowest e = some l →
      (([dstOf f .vq] ++ [⟨27, f.sa, .vl, 1⟩, ⟨18, f.sb, .vsl, 1⟩] : List Use)).findSome? (Use.fault c.g) = none →
      (c.g.pending.any fun p => p.latches c.r ||
        (([dstOf f .vq] ++ [⟨27, f.sa, .vl, 1⟩, ⟨18, f.sb, .vsl, 1⟩] : List Use)).any fun u => p.meets c.r.id u) = false →
      f.ty.count ≤ selSub (c.g.sreg r.toNat) →
      exec (.vshfl f) s = .next (slotEnd (c.trap { illegalOperand 6 18 (c.g.sreg r.toNat).toNat with lane := l }))) ∧
    (∀ a b : Src, c.Begins { check := fun xs => subFault f.ty (lanes e) (xs.tail.headD fun _ => 0) } e f.nw [dstOf f .vq]
        [⟨27, f.sa, .vl, 1⟩, ⟨18, f.sb, .vsl, 1⟩] t g h [a, b] →
      exec (.vshfl f) s = d.lanesDone e f.dst f.nw f.pfx true h fun l =>
        let n := shuffleLane f.var d.g.width l (selLane (b l))
        rotateElems f.ty (if n < 64 ∧ e.getLsbD n = true then a n else 0) (selSub (b l))) ∧
    (∀ a b : Src, c.Begins { check := fun xs => subFault f.ty [l0] (xs.tail.headD fun _ => 0) } e f.nw [dstOf f .vsq]
        [⟨27, f.sa, .vl, 1⟩, ⟨18, f.sb, .slq, 1⟩] t g h [a, b] →
      exec (.vbcast f) s = one (BitVec.ofNat 64 (packElems f.ty (List.replicate f.ty.count
        (elem f.ty (if e.getLsbD (selLane (b l0)) = true then a (selLane (b l0)) else 0) (selSub (b l0))))))) ∧
    (∀ a : Src, c.Begins {} e f.nw [dstOf f .vsq] [⟨27, f.sa, .vl, 1⟩] t g h [a] →
      exec (.vballot f) s = one (maskOf e fun l =>
        if f.var = 0 then decide (elem f.ty (a l) 0 ≠ 0) else (elems f.ty (a l)).any fun x => decide (x ≠ 0))) ∧
    (∀ (a : Src) (i : Instr), i ∈ [Instr.vredx f, .vscan f] →
      let rows := foldRun f.ty fe (foldOp f.ty (xRop f.x) (xSat f.x) fe) a none (lanes e)
      (∀ r ∈ if i = .vscan f ∧ f.var ≠ 0 then rows.dropLast else rows, noTrap fe r.2) →
      (i = .vredx f → c.Begins {} e f.nw [dstOf f .vsq] [⟨27, f.sa, .vl, 1⟩] t g h [a] →
        exec i s = one (elReg f.ty (((rows.map fun r => r.2).getLast?).getD []))) ∧
      (i = .vscan f → c.Begins {} e f.nw [dstOf f .onlyV] [⟨27, f.sa, .vl, 1⟩] t g h [a] →
        exec i s = .next (slotEnd (d.result h e f.dst f.nw f.pfx true (.lanes ((lanes e).zip
          ((if f.var = 0 then rows.map fun r => r.2
            else List.replicate f.ty.count (El.of (foldIdentity f.ty (xRop f.x))) :: rows.dropLast.map fun r => r.2).map
              (elReg f.ty))))))))

/-- R263: a special-function opcode with a v destination whose operands are in order and whose results trap on no NaN completes: its result
is a pending write with a value for every executing lane, for the destination lanes that the write mask selects (those of the zero policy
become 0, the others keep what they hold) and for the slot's latch, which holds the results of all executing lanes. -/
def Obligations.SpecialFunctionsPend : Prop :=
  ∀ (s : State) (c : Ctx) (f : VForm) (t : State) (g h : Group) (xs : List Src) (n : Nat) (i : Instr) (op : List Nat → El),
    s.runs c →
    let e := c.enabled f.pg f.pn
    let d := c.put t g
    let fe := d.fenv f.pfx
    (n, i, op) ∈ [(1, Instr.vrcp f, op1 (elRcp f.ty fe)), (1, .vrsq f, op1 (elRsq f.ty fe)), (1, .vsqrt f, op1 (elSqrt f.ty fe)),
      (1, .vexp2 f, op1 (elExp2 f.ty fe)), (1, .vlog2 f, op1 (elLog2 f.ty fe)), (1, .vsin f, op1 (elSin f.ty fe)),
      (1, .vcos f, op1 (elCos f.ty fe)), (2, .vfdiv f, op2 (elFdiv f.ty fe)), (1, .vtanh f, op1 (elTanh f.ty fe)),
      (1, .verf f, op1 (elErf f.ty fe))] →
    c.Begins {} e f.nw [dstOf f .vq] (usesOf f n .vslq) t g h xs →
    let row (l : Nat) := elements f.ty fun j => op (xs.map fun x => elem f.ty (x l) j)
    (∀ l, e.getLsbD l = true → noTrap fe (row l)) →
    (∀ r : BitVec 8, f.dst = .v r → ∃ p : Pending,
      exec i s = doneWith t.fresh.1 { h with pending := h.pending ++ [p] } (some (laneTbl e fun l => elReg f.ty (row l))) none ∧
      p.uid = t.uid ∧ p.kind = .sfu ∧ p.path = c.k ∧ p.clause = c.r.clause ∧ p.slot = c.r.idx ∧ p.hold = fe.nant ∧
      p.run = c.r.id ∧ p.latch = some (c.r.idx % 4) ∧ p.dst = (if f.nw then .nothing else .vregs r.toNat 1) ∧
      p.lanes = ((lanes e).map fun l => (l, .value [elReg f.ty (row l)])) ∧
      (∀ l, l < 64 → p.zeros.getLsbD l = (d.writes h f.pfx e).2.getLsbD l) ∧
      (∀ l, l < 64 → p.keeps.getLsbD l =
        (e.getLsbD l && !(d.writes h f.pfx e).1.getLsbD l && !(d.writes h f.pfx e).2.getLsbD l))) ∧
    ((∀ r, f.dst ≠ .v r) → exec i s = d.lanesDone e f.dst f.nw f.pfx true h fun l => elReg f.ty (row l))

/-- R182, R183: integer results wrap modulo 2^w, or are clamped to the type's range under the saturation modifier; division truncates toward
zero and the remainder takes the sign of the dividend, with the borderline results of R183's table. -/
def Obligations.IntegerElementArithmetic : Prop :=
  ∀ (t : ElemType) (fe : FEnv) (a b : Nat), t.isInt = true → a < 2 ^ t.width → b < 2 ^ t.width →
    let lo : Int := if t.isSigned then -(2 ^ (t.width - 1)) else 0
    let hi : Int := if t.isSigned then 2 ^ (t.width - 1) - 1 else 2 ^ t.width - 1
    let clamp (x : Int) : Int := max lo (min hi x)
    (elAdd t false fe a b).bits = (a + b) % 2 ^ t.width ∧
    (elSub t false fe a b).bits = (a + (2 ^ t.width - b)) % 2 ^ t.width ∧
    (elMul t false fe a b).bits = a * b % 2 ^ t.width ∧
    intOf t (elAdd t true fe a b).bits = clamp (intOf t a + intOf t b) ∧
    intOf t (elSub t true fe a b).bits = clamp (intOf t a - intOf t b) ∧
    intOf t (elMul t true fe a b).bits = clamp (intOf t a * intOf t b) ∧
    (b = 0 → ∀ sat, (elDiv t sat a b).bits = 2 ^ t.width - 1 ∧ (elRem t a b).bits = a) ∧
    (b ≠ 0 → intOf t (elRem t a b).bits = (intOf t a).tmod (intOf t b) ∧
      (¬(t.isSigned = true ∧ intOf t a = lo ∧ intOf t b = -1) → ∀ sat, intOf t (elDiv t sat a b).bits = (intOf t a).tdiv (intOf t b)) ∧
      (t.isSigned = true → intOf t a = lo → intOf t b = -1 →
        intOf t (elDiv t false a b).bits = lo ∧ intOf t (elDiv t true a b).bits = hi))

/-- R251: a shift by a count of w or more leaves zeros, or copies of the sign for the arithmetic right shift; a rotate takes its count
modulo w; and VSHL and VSHR do to each sub-element of each lane what SSHL and SSHR do for the path. -/
def Obligations.ShiftsAndRotates : Prop :=
  (∀ (t : ElemType) (a n : Nat), t.isInt = true → a < 2 ^ t.width → n < 2 ^ t.width →
    let w := t.width
    let k := n % w
    (elShl t false a n).bits = (if n < w then a * 2 ^ n % 2 ^ w else 0) ∧
    (t.isSigned = false → (elShr t false a n).bits = if n < w then a / 2 ^ n else 0) ∧
    (t.isSigned = true → intOf t (elShr t false a n).bits = if n < w then intOf t a / 2 ^ n else if intOf t a < 0 then -1 else 0) ∧
    (elShl t true a n).bits = a * 2 ^ k % 2 ^ w + a / 2 ^ (w - k) ∧
    (elShr t true a n).bits = a / 2 ^ k + a % 2 ^ k * 2 ^ (w - k)) ∧
  ∀ (s : State) (c : Ctx) (f : VForm) (t : State) (g h : Group) (a b : Src), s.runs c →
    let e := c.enabled f.pg f.pn
    let row (op : ElemType → Bool → Nat → Nat → El) (l : Nat) : W64 :=
      elReg f.ty (elements f.ty fun j => op f.ty (f.var = 1) (elem f.ty (a l) j) (elem f.ty (b l) j))
    (c.Begins {} e f.nw [dstOf f .vq] (usesOf f 2 .vslq) t g h [a, b] →
      exec (.vshl f) s = (c.put t g).lanesDone e f.dst f.nw f.pfx true h (row elShl) ∧
      exec (.vshr f) s = (c.put t g).lanesDone e f.dst f.nw f.pfx true h (row elShr)) ∧
    (c.Begins {} e f.nw [dstOf f .sq] (usesOf f 2 .slq) t g h [a, b] →
      exec (.sshl f) s = (c.put t g).pathDone e f.dst f.nw f.pfx false h (row elShl ((lowest e).getD 0)) ∧
      exec (.sshr f) s = (c.put t g).pathDone e f.dst f.nw f.pfx false h (row elShr ((lowest e).getD 0)))

/-- The magnitude of a pattern of a binary format without its sign (R168). -/
def formatMagnitude (F : Fmt) (k : Nat) : ℚ :=
  if k < 2 ^ F.f then (k : ℚ) * (2 : ℚ) ^ (1 - (F.bias : Int) - F.f)
  else ((2 ^ F.f + k % 2 ^ F.f : Nat) : ℚ) * (2 : ℚ) ^ ((k / 2 ^ F.f : Nat) - (F.bias : Int) - F.f)

/-- R168, R172: the rounding of a non-zero magnitude m × 2^e before the limits of R173: in RTZ, and toward zero in RUP and RDN, it is the
largest pattern not above the magnitude; away from zero in RUP and RDN it is the smallest not below it; in RNE no pattern is nearer. -/
def Obligations.RoundingIsDirectedOrNearest : Prop :=
  ∀ (F : Fmt) (neg : Bool) (m : Nat) (e : Int), F ∈ [Fmt.f64, .f32, .f16, .bf16] → m ≠ 0 →
    let x : ℚ := (m : ℚ) * (2 : ℚ) ^ e
    let down (k : Nat) : Prop := formatMagnitude F k ≤ x ∧ x < formatMagnitude F (k + 1)
    let up (k : Nat) : Prop := x ≤ formatMagnitude F k ∧ (k = 0 ∨ formatMagnitude F (k - 1) < x)
    down (roundMag F .rtz neg m e) ∧
    (if neg then down (roundMag F .rup neg m e) else up (roundMag F .rup neg m e)) ∧
    (if neg then up (roundMag F .rdn neg m e) else down (roundMag F .rdn neg m e)) ∧
    ∀ k, |formatMagnitude F (roundMag F .rne neg m e) - x| ≤ |formatMagnitude F k - x|

/-- R186 to R188: a k-group of eight INT8 products is summed exactly and added to an INT32 element with clamping; a group of floating-point
products of finite operands is summed without rounding; both in ascending order of the groups, the last one short. -/
def Obligations.DotProductsSumExactly : Prop :=
  (∀ (fe : FEnv) (a b : Nat → Nat) (acc k g : Nat),
    let step := kStep .s32 k (fun i => some (a i)) fun i => some (b i)
    let x (g : Nat) : Int := intOf .s32 (accAfter .s32 .s8 .s8 fe step acc g)
    x (g + 1) = max (-2 ^ 31) (min (2 ^ 31 - 1) (x g +
      ((List.range (min 8 (k - 8 * g))).map fun i => intOf .s8 (a (8 * g + i)) * intOf .s8 (b (8 * g + i))).sum))) ∧
  (∀ vs : List (Bool × Nat × Int), ∃ neg m e,
    exactSum (vs.map fun v => .fin v.1 v.2.1 v.2.2) = .fin neg m e ∧
    (if neg then (-1 : ℚ) else 1) * m * (2 : ℚ) ^ e = (vs.map fun v => (if v.1 then (-1 : ℚ) else 1) * v.2.1 * (2 : ℚ) ^ v.2.2).sum) ∧
  ∀ (ty : ElemType), ty = .s32 ∨ ty = .f32 → ∀ k, stepCount ty k = (k + 7) / 8 ∧ stepCount .f64 k = k

/-! ## Control -/

/-- R207, R270: BR.div with both sides taken diverges, unless the reconvergence stack has no room (then the divergence-stack fault with
cause overflow and no effect); otherwise, and in BR.any, BR.all and JMP, the path goes on with its mask at TARGET or at the next clause.
R271, R281: LOOP waits for a pending write of s[CNT]; with s[CNT] = 0 it goes on at the next clause; otherwise it lowers s[CNT] by one and
goes back to TARGET unless it is 0 now; a taken LOOP of the path's current body adds 1 to its iteration count, and one of another body makes that the current one and sets the count to 1.
R48, R274: ROLESW exchanges the group's allotment, priority class and entry clause with the role record at its byte offset and goes on at
the new entry clause; a shrink gives blocks back and a growth enters a claim for the difference. -/
def Obligations.BranchesLoopsAndRoles : Prop :=
   (∀ (s : State) (c : Ctx) (f : BForm), s.runs c →
      let k := c.g.kreg c.p.mask f.kc.toNat
      let t := c.p.mask &&& (if f.kn then ~~~k else k)
      let target := c.r.clause + f.target.signExtend 32
      let leave (to' : Goto) := doneWith s c.g none (some to')
      (f.bmode = 0 →
        (t = 0 → exec (.br f) s = leave .next) ∧
        (t ≠ 0 → t = c.p.mask → exec (.br f) s = leave (.clause target)) ∧
        (t ≠ 0 → t ≠ c.p.mask → c.launch.hdr.depth < c.g.stack + c.g.diverges c.k →
          exec (.br f) s = .next (slotEnd (c.trap (stackFault 1 c.g.stack)))) ∧
        (t ≠ 0 → t ≠ c.p.mask → c.g.stack + c.g.diverges c.k ≤ c.launch.hdr.depth →
          exec (.br f) s = leave (.diverge target t (c.r.clause + f.join.signExtend 32)))) ∧
      (f.bmode = 1 → exec (.br f) s = leave (if t ≠ 0 then .clause target else .next)) ∧
      (f.bmode = 2 → exec (.br f) s = leave (if t = c.p.mask then .clause target else .next)) ∧
      exec (.jmp f) s = leave (.clause target)) ∧
   (∀ (s : State) (c : Ctx) (f : BForm), s.runs c → c.p.mask ≠ 0 →
      let n := f.cnt.toNat
      let x := c.g.sreg n
      let target := c.r.clause + f.target.signExtend 32
      ((c.g.pending.any fun p => p.dst = .sreg n) = true → exec (.loop f) s = .next (slotEnd (c.block .write))) ∧
      ((c.g.pending.any fun p => p.dst = .sreg n) = false →
      (x = 0 → exec (.loop f) s = doneWith s c.g none (some .next)) ∧
      (x = 1 → exec (.loop f) s = doneWith s (c.g.setSreg n 0) none (some .next)) ∧
      (x ≠ 0 → x ≠ 1 → ∃ q : Path,
        exec (.loop f) s = doneWith (s.fillLoop c.g.core c.vf c.launch.text target c.r.clause)
          ((c.g.setSreg n (x - 1)).setPath c.k (some q)) none (some (.clause target)) ∧
        q.iter = (if c.p.body = some (target, c.r.clause) then c.p.iter + 1 else 1) ∧ q.body = some (target, c.r.clause) ∧
        { q with iter := c.p.iter, body := c.p.body } = c.p))) ∧
   (∀ (s : State) (c : Ctx) (f : VForm) (t t0 t1 t2 : State) (g h g2 : Group) (xs : List Src) (x : LaneAcc), s.runs c →
      c.Begins {} c.p.mask true [] [⟨27, f.sa, .slq, 1⟩] t g h xs false →
      let d := c.put t g
      let reg := (f.x.extractLsb' 0 4).toNat
      let l := (lowest c.p.mask).getD 0
      let a := ((xs.headD fun _ => 0) l).toNat
      let w := BitVec.ofNat 128 (natOfBytes (patchBytes (Memory.readN t1.mem x.cell 16) (t1.forward { g with buffer := [] } x 16)))
      d.g.single = true → d.resolve .write reg (g.cap reg) (rRead + rWrite) 16 16 [(l, a)] = (t0, .ok [x]) →
      t0.readNow g false clsRequest 16 [x] = .ok t1 → t1.badFor g false x.cell 16 l x.va = none → roleOk w = true →
      (roleAllot w ≤ g.allot / 8 ∨ Ctx.claimRefused { d with s := t1 } (roleAllot w - g.allot / 8) = false) →
      d.exchange t1 h x (roleWord (g.allot / 8) g.prio g.entry) = .ok t2 g2 →
      let r : Group := { g2 with prio := rolePrio w, entry := roleEntry w }
      (roleAllot w = g.allot / 8 → exec (.rolesw f) s = doneWith t2 r none (some (.clause (roleEntry w)))) ∧
      (roleAllot w < g.allot / 8 → ∃ t3 g3, t2.give r (g.allot / 8 - roleAllot w) = (t3, g3) ∧
        exec (.rolesw f) s = doneWith t3 g3 none (some (.clause (roleEntry w)))) ∧
      (g.allot / 8 < roleAllot w → ∀ t3 g3, t2.claim r (roleAllot w - g.allot / 8) = .ok t3 g3 →
        exec (.rolesw f) s = doneWith t3 g3 none (some (.clause (roleEntry w)))))

/-- R38, R42, R51: a divergence pushes a join entry with the branch's join, the path's mask, no arrivals, the path's own join and its fmt,
above the other slot's path where there is one; the taken lanes go on at the target and the others at the next clause, both with the
branch's join and the path's fmt and clause count. -/
def Obligations.DivergencePushesJoinEntry : Prop :=
  ∀ (g : Group) (w : Nat) (k : PathSlot) (p : Path) (t : W64) (target next jb : W32),
    let g' := g.diverge w k p t target next jb
    (∃ a b : Path, g'.path? k = some a ∧ g'.path? (otherSlot k) = some b ∧ a.pc = target ∧ a.mask = t ∧ b.pc = next ∧
      b.mask = p.mask &&& ~~~t ∧ a.join = some jb ∧ b.join = some jb ∧ a.fmt = p.fmt ∧ b.fmt = p.fmt ∧ a.qcnt = p.qcnt ∧
      b.qcnt = p.qcnt ∧ a.iter = p.iter ∧ b.iter = p.iter) ∧
    g'.top w = some { mask := p.mask, arrived := 0, addr1 := jb, addr2 := joinWord p.join, kind := 2, qcnt := 0, fmt := p.fmt } ∧
    (g.path? (otherSlot k) = none → g'.stack = g.stack + 1) ∧
    (∀ q, g.path? (otherSlot k) = some q → g'.stack = g.stack + 2 ∧
      g'.pop.top w = some { mask := q.mask, arrived := 0, addr1 := q.pc, addr2 := joinWord q.join, kind := 1, qcnt := q.qcnt % 256,
                            fmt := q.fmt })

/-- R41, R272: EXIT of some of a group's live lanes adds them to the exited mask and takes them from the path's mask; with no executing lane
it does nothing; the last lanes end the group once its results are in: its allotment goes back to the parcel's reserve. R44, R46, R273,
R275: REGGIVE n gives n blocks back; REGCLAIM n enters a claim for n blocks. Two live paths or a non-empty reconvergence stack are allotment
cause 1; n = 0, a REGGIVE that leaves no block and a claim that can never be met are cause 2. -/
def Obligations.ExitsAndAllotments : Prop :=
   (∀ (s : State) (c : Ctx) (f : VForm), s.runs c →
      let e := c.enabled f.pg f.pn
      (e = 0 → exec (.exit f) s = doneWith s c.g none (some .next)) ∧
      (e ≠ 0 → c.g.lateAtExit = none → c.g.launched &&& ~~~(c.g.exited ||| e) ≠ 0 →
        exec (.exit f) s = doneWith s
          (({ c.g with exited := c.g.exited ||| e } : Group).setPath c.k (some { c.p with mask := c.p.mask &&& ~~~e })) none (some .next)) ∧
      (e ≠ 0 → c.g.lateAtExit = none → c.g.launched &&& ~~~(c.g.exited ||| e) = 0 → c.g.pending = [] →
        s.opsOf c.g.uid c.g.core = false → c.g.decl = none →
        let t := s.endGroup { c.g with exited := c.g.exited ||| e }
        exec (.exit f) s = doneWith t (t.again { c.g with run := none }) none none)) ∧
   (∀ (s : State) (c : Ctx) (f : VForm), s.runs c → c.p.mask ≠ 0 →
      let n := (f.x.extractLsb' 0 6).toNat
      let trap (cause : Nat) := Host.Outcome.next (slotEnd (c.trap (allotmentFault cause n c.g.allot)))
      (c.g.single = false → exec (.reggive f) s = trap 1 ∧ exec (.regclaim f) s = trap 1) ∧
      (c.g.single = true →
        (n = 0 → exec (.reggive f) s = trap 2 ∧ exec (.regclaim f) s = trap 2) ∧
        (n ≠ 0 → c.g.allot < 8 * (n + 1) → exec (.reggive f) s = trap 2) ∧
        (n ≠ 0 → 8 * (n + 1) ≤ c.g.allot → ∃ t g', s.give c.g n = (t, g') ∧ exec (.reggive f) s = doneWith t g' none none) ∧
        (n ≠ 0 → c.claimRefused n = true → exec (.regclaim f) s = trap 2) ∧
        (∀ t g', n ≠ 0 → c.claimRefused n = false → s.claim c.g n = .ok t g' → exec (.regclaim f) s = doneWith t g' none none)))

/-- R316 to R320, R449: NOP does nothing; TRAP stops with the software-trap fault, which holds its code and its operand; BKPT stops with the
breakpoint fault where debug is on, and with its cause 1 where it is off; TRET ends a save or restore routine of its kind and is the
illegal-operand fault elsewhere; DATUM answers its trigger's number, or 0 where debug is off; SLEEPT completes once the time has come and
makes the group wait before that. -/
def Obligations.SystemOpcodesComplete : Prop :=
  ∀ (s : State) (c : Ctx), s.runs c →
    (∀ f : VForm, exec (.nop f) s = doneWith s c.g none none) ∧
    (∀ f : SForm, c.enabled f.pg f.pn = 0 →
      exec (.bkpt f) s = doneWith s c.g none none ∧ exec (.tretSave f) s = doneWith s c.g none none ∧
      exec (.tretRest f) s = doneWith s c.g none none) ∧
    (∀ f : SForm, c.enabled f.pg f.pn ≠ 0 →
      exec (.bkpt f) s = .next (slotEnd (c.trap (.mk' 0x000F (if s.debugOn c.vf then 0 else 1) f.imm.toNat))) ∧
      exec (.tretSave f) s = (if c.p.routine = .save then doneWith s c.g none (some .saved)
        else .next (slotEnd (c.trap (illegalOperand 6 15 f.sel.toNat)))) ∧
      exec (.tretRest f) s = (if c.p.routine = .rest then doneWith s c.g none (some .restored)
        else .next (slotEnd (c.trap (illegalOperand 6 15 f.sel.toNat))))) ∧
    (∀ (f : SForm) (t : State) (g h : Group) (xs : List Src),
      let e := c.enabled f.pg f.pn
      let a := (xs.headD fun _ => 0) ((lowest e).getD 0)
      (c.Begins { always := false } e true [] (sysUse f) t g h xs false →
        exec (.trap f) s = .next (slotEnd ((c.put t g).trap (.mk' 0x000E 0 f.imm.toNat a.toNat)))) ∧
      (c.Begins { always := false } e f.nw (if f.dst.unused then [] else [⟨36, f.dst, .sq, 1⟩]) [] t g h xs (!f.dst.unused) →
        let u := if t.debugOn (c.put t g).vf then (t.fireDatum 0 0).1 else t
        let x : W64 := if t.debugOn (c.put t g).vf then (t.fireDatum 0 0).2.zeroExtend 64 else 0
        (f.dst.unused = true → exec (.datum f) s = doneWith u h none none) ∧
        (f.dst.unused = false → exec (.datum f) s = ({ c.put t g with s := u } : Ctx).pathDone e f.dst f.nw f.pfx false h x)) ∧
      (c.Begins { always := false } e true [] [⟨27, f.sa, .sl, 1⟩] t g h xs false →
        let due := if f.sel = 1 then t.time + a else a
        (c.r.woken = true ∨ due.toNat ≤ t.time.toNat → exec (.sleept f) s = doneWith t h none none) ∧
        (c.r.woken = false → t.time.toNat < due.toNat → exec (.sleept f) s = .next (slotEnd ((c.put t g).block (.time due))))))

/-! ## Faults -/

/-- R84, R421, R422: a group whose pending results are all in and that takes a fault with disposition S or S+ (not one for the debug port)
stops: the debug registers hold its latches, which of them were empty, its clause, slot and iteration count; a pending record is posted that
names its place, its launch and the fault; it issues nothing more. Everything else of the group, its buffered stores among it, stays. A
group with pending results waits for them first, with the time of the fault kept; a fault with disposition P parks the group. R428: where the
allowance of its parcel runs out in the same cycle, the parcel aborts and no record is posted. -/
def Obligations.TakingAFaultStopsTheGroup : Prop :=
  ∀ (s : State) (g : Group) (r : ClauseRun) (p : Path) (f : FaultInfo) (clause : W32) (slot : Nat),
    g.run = some r → g.path? r.path = some p → s.atDebugPort f = false →
    let rec' := s.groupRecord g f clause slot 0 (.group g.uid)
    (f.disposition = .stop ∨ f.disposition = .resumable → g.pending = [] → (s.parcelOf g).due = false →
      ∃ g', s.takeFault g f clause slot = ((s.post rec').1.setGroup g').rest g' ∧
        g'.status = .stopped (some (s.post rec').2) ∧ g'.dbg.lat = r.latches ∧ g'.dbg.empty = ~~~r.valid ∧ g'.dbg.clause = clause ∧
        g'.dbg.slot = slot ∧ g'.dbg.iter = p.iter ∧ { g' with status := g.status, dbg := g.dbg } = g) ∧
    (f.disposition = .stop ∨ f.disposition = .resumable → g.pending ≠ [] → (s.parcelOf g).due = false →
      ∃ g', s.takeFault g f clause slot = (s.setGroup g').rest g' ∧ g'.status = .stopping { f with time := some (f.time.getD s.time) } none ∧
        { g' with status := g.status, dbg := g.dbg } = g) ∧
    (f.disposition = .stop ∨ f.disposition = .resumable → (s.parcelOf g).due = true → (s.parcelOf g).committed = false →
      s.takeFault g f clause slot = (s.setGroup g).abortParcel g.parcel 4) ∧
    (f.disposition = .park →
      ∃ g', s.takeFault g f clause slot = ((s.post rec').1.setGroup g').rest g' ∧ g'.status = .parked (s.post rec').2 ∧
        { g' with status := g.status } = g)

/-- R125, R126: a posted record takes the next SEQ of its function and the time of its fault; with no record held and room in the ring its 64 bytes stand at the
producer index, which goes up by one, and no other byte of memory changes; a full or disabled ring makes the control die hold up to 64
records, and beyond them the record stalls; the ring's memory then stays as it was. R128: the record goes as request traffic, and it stalls
while the link of its die holds it. -/
def Obligations.PostedRecordReachesItsRing : Prop :=
  ∀ (s : State) (r : FaultRecord),
    let v := s.vf r.vf
    let q := v.fqseq
    let r' : FaultRecord := { r with seq := q, time := r.info.time.getD s.time }
    let t := (s.post r).1
    let c := ringCell v.fqcfg v.fqprod.toNat 64
    (s.post r).2 = q ∧ (t.vf r.vf).fqseq = q + 1 ∧
    (∀ u, s.recordCrosses r = some u → v.heldRec = [] → v.stalled = [] → u.ringReady r.vf = true →
      (t.vf r.vf).fqprod = v.fqprod + 1 ∧
      Memory.readN t.mem c 64 = bytesOfNat 64 r'.word ∧
      ∀ a, a < c ∨ c + 64 ≤ a → Memory.read t.mem a = Memory.read s.mem a) ∧
    (∀ u, s.recordCrosses r = some u → v.heldRec ≠ [] ∨ u.ringReady r.vf = false → v.stalled = [] → v.heldRec.length < 64 →
      t.mem = s.mem ∧ (t.vf r.vf).fqprod = v.fqprod ∧ (t.vf r.vf).heldRec = v.heldRec ++ [q]) ∧
    (v.stalled ≠ [] ∨ 64 ≤ v.heldRec.length ∨ s.recordCrosses r = none →
      t.mem = s.mem ∧ (t.vf r.vf).fqprod = v.fqprod ∧ (t.vf r.vf).stalled = v.stalled ++ [r'])

/-- R126, R128, R144, R422: the events about fault records. Delivery moves the oldest held record to the ring once it has room and its way
carries it, else a stalled record to the control die once the link of its die carries it. FQACT ends the parcel behind a pending record, or resumes a software trap at the slot after TRAP and a breakpoint
at its own slot; each of these resolves the record. FQRESUME resolves every pending page-absent record of its page and makes the groups
parked on them ready. -/
def Obligations.FaultQueueEventsComplete : Prop :=
  (∀ (s : State) (vf q : Nat) (qs : List Nat) (r : FaultRecord), (s.vf vf).heldRec = q :: qs → s.ringReady vf = true →
    s.record? vf q = some r →
    exec (.faultRecordDeliver vf) s = .next ((s.setVf vf { s.vf vf with heldRec := qs }).toRing vf r)) ∧
  (∀ (s : State) (vf : Nat) (r : FaultRecord) (rs : List FaultRecord), (s.vf vf).heldRec = [] → (s.vf vf).stalled = r :: rs →
    ∀ u, s.recordCrosses r = some u → exec (.faultRecordDeliver vf) s = .next (u.setVf vf { s.vf vf with
      stalled := rs, records := (s.vf vf).records ++ [r], heldRec := [r.seq] })) ∧
  (∀ (s : State) (vf : Nat) (seq : W32) (r : FaultRecord) (u p : Nat), s.record? vf seq.toNat = some r → r.state = 0 →
    r.owner = .group u → (s.setRecord vf r.seq 1).parcelBehind (.group u) = some p →
    exec (.fqactEnd vf seq) s = .next ((s.setRecord vf r.seq 1).endParcel p none)) ∧
  (∀ (s : State) (vf : Nat) (seq : W32) (r : FaultRecord) (u : Nat) (g : Group), s.record? vf seq.toNat = some r → r.state = 0 →
    r.owner = .group u → s.group? u = some g → g.status = .stopped (some r.seq) →
    (r.info.code = 0x000E →
      exec (.fqactResume vf seq) s = .next ((s.setRecord vf r.seq 1).resumeGroup g (g.dbg.slot + 1) false)) ∧
    (r.info.code = 0x000F → r.info.cause = 0 → g.dbg.bkpt = false →
      exec (.fqactResume vf seq) s = .next ((s.setRecord vf r.seq 1).resumeGroup g g.dbg.slot true))) ∧
  (∀ (s : State) (vf : Nat) (value : W64),
    let a := (s.pageAt vf ((value.extractLsb' 28 36).toNat * 4096)).1
    let n := (s.pageAt vf ((value.extractLsb' 28 36).toNat * 4096)).2
    exec (.fqresume vf value) s = .next ((((s.vf vf).records ++ (s.vf vf).stalled).filter fun r =>
      r.state = 0 && r.info.code = 0x0020 && a ≤ r.info.addr.toNat && r.info.addr.toNat < a + n).foldl (fun s r => s.unpark vf r) s))

/-! ## Memory and synchronization opcodes -/

/-- R63, R64, R134, R277: one access through a capability: the first failing check in the order tag (4), sealed (3), right (2), bounds (1),
object (5), alignment (6) decides the cause; an access that passes all has the virtual address BASE + A; no memory changes. -/
def Obligations.CapabilityChecksInOrder : Prop :=
  ∀ (s : State) (core : Option Nat) (vf : Nat) (k : Cap) (need a n align : Nat), k.isPrivate = false →
    let r := (s.capCheck core vf k need a n align).2
    let w := k.bits
    let b := (w.extractLsb' 68 36).toNat
    let lo := b - (w.extractLsb' 36 20).toNat
    let hi := b + (w.extractLsb' 16 20).toNat + 1
    let inside : Prop := lo * 4096 ≤ a ∧ a + n ≤ hi * 4096
    let right : Prop := ((w.extractLsb' 8 8).toNat &&& need) = need
    let pass : Prop := k.tag = true ∧ w.getLsbD 7 = false ∧ right ∧ inside
    (s.capCheck core vf k need a n align).1.mem = s.mem ∧
    (k.tag = false → r = .error 4) ∧
    (k.tag = true → w.getLsbD 7 = true → r = .error 3) ∧
    (k.tag = true → w.getLsbD 7 = false → ¬ right → r = .error 2) ∧
    (k.tag = true → w.getLsbD 7 = false → right → ¬ inside → r = .error 1) ∧
    (pass → ∀ t, s.object core vf (w.extractLsb' 104 24).toNat = (t, none) → r = .error 5) ∧
    (pass → ∀ t e, s.object core vf (w.extractLsb' 104 24).toNat = (t, some e) →
      let base := (e.extractLsb' 80 48).toNat
      let extent := (e.extractLsb' 44 36).toNat * 4096
      let ok : Prop := e.getLsbD 0 = true ∧ base % 4096 = 0 ∧ base + extent ≤ 2 ^ 48 ∧ a + n ≤ extent ∧
        ((e.extractLsb' 36 8).toNat &&& need) = need
      (¬ ok → r = .error 5) ∧ (ok → a % align ≠ 0 → r = .error 6) ∧ (ok → a % align = 0 → r = .ok (base + a)))

/-- R200, R277, R281, R283: a load without an order whose operands are in order and whose lanes' accesses pass their checks issues: it
leaves one pending write, counted as an outstanding load, for its data register and its latch, with what each lane reads and its hint; its
data cross the links to homes on other dies as control traffic (R128); LDS loads for the lowest lane only, LDP names private words, and a
capability with PRIVATE reaches the group's own object, whose lines the L1 then holds (R92). R49, R277, R282, R283: a store
without an order whose operands are in order and whose lanes' accesses pass their checks adds one entry per lane to the group's store
buffer, in ascending lane order, and stores nothing in memory yet; STS stores for the lowest lane only, STP names private words. -/
def Obligations.LoadsAndStoresIssue : Prop :=
   (∀ (s : State) (c : Ctx) (f : MForm) (t : State) (g h : Group) (xs : List Src), s.runs c → g.loads < Config.loadLimit →
      let e := c.enabled f.pg f.pn
      let n := elemBytes f.ty
      let reg := f.cap.toNat
      let cap := g.cap reg
      let d := c.put t g
      let pts (ls : List Nat) := ls.map fun l => (l, elemAddr cap (idxSrc f xs l) f.ofs.toInt n)
      let start : Start := { always := false, fence := fenceOf f }
      let issues (i : Instr) (u : State) (ty : ElemType) (hint : BitVec 2) (one : Bool) (src : List (Nat × LaneSource)) : Prop :=
        (u.loadWays g src).all u.roomOn = true → ∃ p : Pending,
        exec i s = doneWith ((u.loadWays g src).foldl (fun s w => s.sendFlit u.uid w) u.fresh.1)
          { g with pending := g.pending ++ [p] } (some []) none ∧ p.uid = u.uid ∧ p.kind = .load ∧ p.ty = ty ∧
        p.dst = pendDst f.data f.nw ∧ p.lanes = src ∧ p.latch = some (c.r.idx % 4) ∧ p.clause = c.r.clause ∧ p.slot = c.r.idx ∧
        p.hint = hint ∧ p.one = one
      let own (u : State) (as : List LaneAcc) : State := u.touchWords g (as.map fun x => x.va) false
      (f.ord = 0 → cap.isPrivate = false → ∀ u as,
        (c.Begins start e f.nw [dataUse f .onlyV] (idxUse f .vsl) t g h xs →
          d.resolve .read reg cap rRead n n (pts (lanes e)) = (u, .ok as) →
          issues (.ld f) u f.ty f.hint false (as.map fun x => (x.lane, u.loadSource g x n))) ∧
        (c.Begins start e f.nw [dataUse f .onlyS] (idxUse f .sl) t g h xs →
          d.resolve .read reg cap rRead n n (pts ((lanes e).take 1)) = (u, .ok as) →
          issues (.lds f) u f.ty f.hint true (as.map fun x => (x.lane, u.loadSource g x n)))) ∧
      (cap.isPrivate = true → ∀ as,
        (c.Begins start e f.nw [dataUse f .onlyV] (idxUse f .vsl) t g h xs →
          d.ownAccess reg cap rRead (some n) (pts (lanes e)) (privatePoints (pts (lanes e))) = .ok as →
          issues (.ld f) (own t as) f.ty f.hint false (as.map fun x => (x.lane, g.ownSource x f.ty n))) ∧
        (c.Begins start e f.nw [dataUse f .onlyS] (idxUse f .sl) t g h xs →
          d.ownAccess reg cap rRead (some n) (pts ((lanes e).take 1)) (privatePoints (pts ((lanes e).take 1))) = .ok as →
          issues (.lds f) (own t as) f.ty f.hint true (as.map fun x => (x.lane, g.ownSource x f.ty n)))) ∧
      (∀ as, c.Begins { always := false } e f.nw [dataUse f .onlyV] (idxUse f .vsl) t g h xs →
        let ws := (lanes e).map fun l => (l, elemIndex (idxSrc f xs l) f.ofs.toInt, 0)
        d.ownAccess reg cap (rPrivate + rRead) none (ws.map fun w => (w.1, 8 * w.2.1)) ws = .ok as →
        issues (.ldp f) (own t as) .n64 0 false (as.map fun x => (x.lane, g.ownSource x .n64 8)))) ∧
   (∀ (s : State) (c : Ctx) (f : MForm) (t : State) (g h : Group) (xs : List Src), s.runs c →
      let e := c.enabled f.pg f.pn
      let n := elemBytes f.ty
      let reg := f.cap.toNat
      let cap := g.cap reg
      let d := c.put t g
      let pts (ls : List Nat) := ls.map fun l => (l, elemAddr cap (idxSrc f xs.tail l) f.ofs.toInt n)
      let buffers (i : Instr) (u : State) (n : Nat) (own : Bool) (data : Nat → W64) (as : List LaneAcc) : Prop :=
        ∃ es : List StoreEntry, exec i s = doneWith u { h with buffer := h.buffer ++ es } none none ∧
          es.map (fun x => (x.lane, x.own, x.va, x.n, x.data)) = as.map (fun x => (x.lane, own, x.va, n, data x.lane))
      let data (l : Nat) : W64 := storeData f.ty ((xs.headD fun _ => 0) l)
      (f.ord = 0 → ∀ as,
        (c.Begins { always := false, fence := fenceOf f || c.g.bufferFull c.p.mask (lanes e) } e true [] (dataUse f .vslq :: idxUse f .vsl) t g h xs false →
          (∀ u, cap.isPrivate = false → d.resolve .write reg cap rWrite n n (pts (lanes e)) = (u, .ok as) →
            buffers (.st f) u n false data as) ∧
          (cap.isPrivate = true → d.ownAccess reg cap rWrite (some n) (pts (lanes e)) (privatePoints (pts (lanes e))) = .ok as →
            buffers (.st f) t n true data as)) ∧
        (let one := (lanes e).take 1
         c.Begins { always := false, fence := fenceOf f || c.g.bufferFull c.p.mask one } e true [] (dataUse f .slq :: idxUse f .sl) t g h xs false →
          (∀ u, cap.isPrivate = false → d.resolve .write reg cap rWrite n n (pts one) = (u, .ok as) → buffers (.sts f) u n false data as) ∧
          (cap.isPrivate = true → d.ownAccess reg cap rWrite (some n) (pts one) (privatePoints (pts one)) = .ok as →
            buffers (.sts f) t n true data as))) ∧
      (∀ as, c.Begins { always := false, fence := c.g.bufferFull c.p.mask (lanes e) } e true [] (dataUse f .vslq :: idxUse f .vsl) t g h xs false →
        let ws := (lanes e).map fun l => (l, elemIndex (idxSrc f xs.tail l) f.ofs.toInt, 0)
        d.ownAccess reg cap (rPrivate + rWrite) none (ws.map fun w => (w.1, 8 * w.2.1)) ws = .ok as →
        buffers (.stp f) t 8 true (fun l => (xs.headD fun _ => 0) l) as))

/-- R50, R52, R157: the end of a quantum commits the buffered stores of its lanes in ascending lane order, within a lane in program order.
Stores to homes on the group's own die are applied in that order, and every byte of memory outside them keeps its value; a store to another
die leaves as a write that is counted until its acknowledgement, and waits while 4,095 are outstanding. -/
def Obligations.QuantumCommitsInLaneOrder : Prop :=
  (∀ (buf : List StoreEntry) (m : W64) (l : Nat),
    (commitOrder buf m).Pairwise (fun a b => a.lane ≤ b.lane) ∧
    (commitOrder buf m).filter (fun e => e.lane = l) =
      if m.getLsbD l then buf.filter (fun e => e.lane = l) else []) ∧
  (∀ (vf : Nat) (es : List (StoreEntry × Nat)) (s t : State) (g h : Group), commitAll vf false es s g = .ok t h →
    (∀ e ∈ es, e.1.own = false ∧ s.remote e.2 = false ∧ homeDie e.2 = g.core / 48) →
    t.mem = es.foldl (fun m e => Memory.writeN m e.2 (bytesOfNat e.1.n e.1.data.toNat)) s.mem ∧ t.net = s.net ∧ h.acks = g.acks ∧
    (∀ a, (∀ e ∈ es, a < e.2 ∨ e.2 + e.1.n ≤ a) → Memory.read t.mem a = Memory.read s.mem a)) ∧
  (∀ (s : State) (g : Group) (e : StoreEntry) (vf cell : Nat), e.own = false → s.remote cell = true ∨ homeDie cell ≠ g.core / 48 →
    (g.acks = Config.ackLimit → s.commitOne g e vf cell false true = .stop s g (.block .acks)) ∧
    (g.acks ≠ Config.ackLimit → s.roomOn (s.hopsOf (s.storeOp g e vf cell)) = true →
      ∃ t o, s.commitOne g e vf cell false true = .ok t { g with acks := g.acks + 1 } ∧ t.mem = s.mem ∧
        t.net = s.net ++ [o] ∧ o.cell = cell ∧ o.kind = .write (bytesOfNat e.n e.data.toNat) ∧ o.counted = true ∧ o.sender = .group g.uid))

/-- R292: an atomic at its home replaces the element by its new value and answers the old one; no other byte changes. AOP 0 adds modulo the
width, 1 and 2 take the lower and the higher in the type's order, 3, 4 and 5 are and, or and exclusive or, 6 exchanges; with a comparand the
element becomes the operand when it equals the comparand, and else keeps its value. R277, R291 to R293: an atomic without an order whose
operands are in order, whose lanes' accesses pass their checks and whose lanes have no load outstanding sends one operation per lane, in
ascending lane order, to its home; memory is as it was. ATOMR and CAS leave a pending write for the old values. -/
def Obligations.AtomicsReplaceAndLeave : Prop :=
   (∀ (s : State) (cell : Nat) (ty : ElemType) (op : Nat) (v : W64) (cmp : Option W64), ty ∈ [ElemType.n32, .s32, .n64, .s64] → op ≤ 6 →
      let n := ty.width / 8
      let r := s.applyAtomic cell ty op v cmp
      let old := natOfBytes (Memory.readN s.mem cell n)
      let new := natOfBytes (Memory.readN r.1.mem cell n)
      let x := v.toNat % 2 ^ ty.width
      r.2 = old ∧ (∀ a, a < cell ∨ cell + n ≤ a → Memory.read r.1.mem a = Memory.read s.mem a) ∧
      (cmp = none →
        (op = 0 → new = (old + x) % 2 ^ ty.width) ∧
        (op = 1 → intOf ty new = min (intOf ty old) (intOf ty x)) ∧ (op = 2 → intOf ty new = max (intOf ty old) (intOf ty x)) ∧
        (op = 3 → new = old &&& x) ∧ (op = 4 → new = old ||| x) ∧ (op = 5 → new = old ^^^ x) ∧ (op = 6 → new = x)) ∧
      ∀ y, cmp = some y → new = if old = y.toNat % 2 ^ ty.width then x else old) ∧
   (∀ (s : State) (c : Ctx) (f : MForm) (t u : State) (g h : Group) (xs : List Src) (as : List LaneAcc), s.runs c → f.ord = 0 →
      let e := c.enabled f.pg f.pn
      let n := f.ty.width / 8
      let reg := f.cap.toNat
      let cap := g.cap reg
      let d := c.put t g
      let a (l : Nat) : W64 := (xs.headD fun _ => 0) l
      let start : Start := { always := false, fence := fenceOf f }
      let sends (i : Instr) (op : Nat) (cmp : Nat → Option W64) (ret : Bool) : Prop := ∃ (t' : State) (g' : Group) (os : List HomeOp),
        exec i s = doneWith t' g' (if ret then some [] else none) none ∧ t'.net = u.net ++ os ∧ t'.mem = u.mem ∧
        { g' with acks := h.acks, pending := h.pending } = h ∧
        g'.acks = h.acks + (os.filter fun o => o.counted).length ∧
        os.map (fun o => (o.sender, o.lane, o.cell)) = as.map (fun x => (Sender.group g.uid, x.lane, x.cell)) ∧
        (∀ o ∈ os, ∃ r, o.kind = .atomic f.ty op (a o.lane) (cmp o.lane) r) ∧
        (ret = false → g'.pending = h.pending) ∧
        (ret = true → ∃ p, g'.pending = h.pending ++ [p] ∧ p.kind = .load ∧ p.dst = pendDst f.data f.nw ∧
          p.lanes = as.map fun x => (x.lane, .home))
      let pts (i : Src) (ofs : Int) := (lanes e).map fun l => (l, elemAddr cap (i l) ofs n)
      let passes (i : Src) (ofs : Int) : Prop := d.resolve .atomic reg cap rAtomic n n (pts i ofs) = (u, .ok as) ∧
        g.loadsOf e = false ∧ g.acks + u.farCount g as ≤ Config.ackLimit ∧ u.roomFor g clsRequest as = true ∧
        h.loads < Config.loadLimit ∧ d.launch.hdr.sub = false
      (c.Begins start e true [] (dataUse f .vslq :: idxUse f .vsl) t g h xs false → passes (idxSrc f xs.tail) (ofs12 f) →
        sends (.atom f) (ofsTop f) (fun _ => none) false) ∧
      (c.Begins start e f.nw [] (dataUse f .onlyV :: idxUse f .vsl) t g h xs → passes (idxSrc f xs.tail) (ofs12 f) →
        sends (.atomr f) (ofsTop f) (fun _ => none) true) ∧
      (∀ o, f.pfx.d4 = some o →
        c.Begins start e f.nw [] (dataUse f .onlyV :: ⟨7, o, .vsl, 1⟩ :: idxUse f .vsl) t g h xs →
        passes (idxSrc f xs.tail.tail) f.ofs.toInt →
        sends (.cas f) 6 (fun l => some ((xs.tail.headD fun _ => 0) l)) true))

/-- R65, R289, R290: CNARROW writes a capability with a narrower window and fewer rights, or moves the offset inside the window; what it
makes reaches no byte and carries no right that its source does not; CSAVE puts a capability and its tag into a slot of the save area and
CLOAD takes one from there. R87, R88, R131, R285 to R287: TALLOC gives a handle a tile of zeros of the asked shape on its core, TFREE takes
one back that nothing names, TST writes the elements of each lane's run and TLD leaves a pending write with them; columns at or beyond COLS
read as zero and are not written. -/
def Obligations.CapabilitiesAndTiles : Prop :=
   ((∀ (s : State) (c : Ctx) (f : MForm) (t : State) (g h : Group) (xs : List Src), s.runs c →
      let e := c.enabled f.pg f.pn
      let k := g.cap f.cap.toNat
      let d := f.data.code.toNat % 16
      let l := (lowest e).getD 0
      let x := idxSrc f xs l
      c.Begins { always := false } e true [] (idxUse f .sl) t g h xs false →
      (f.idx.isSome = true → k.tag = true → k.sealedBit = false → hasRights k.rights rDerive = true → d ≠ 15 →
        (f.ty = .n8 → x.extractLsb' 16 8 = 0 → x.extractLsb' 0 8 = 0 →
          ∃ k', narrow k false x = .ok k' ∧ exec (.cnarrow f) s = doneWith t (h.setCap d k') none none ∧ k'.obj = k.obj ∧
            k'.offset = k.offset ∧ k'.lower = min k.lower (x.extractLsb' 44 20).toNat ∧
            k'.upper = min k.upper (x.extractLsb' 24 20).toNat ∧ k'.rights = k.rights &&& (x.extractLsb' 8 8).toNat) ∧
        (f.ty ≠ .n8 → ∀ k', narrow k true x = .ok k' → exec (.cnarrow f) s = doneWith t (h.setCap d k') none none)) ∧
      ∀ a, saveSlot k x f.ofs.toInt = .ok a →
        exec (.csave f) s = doneWith (t.touchPrivate g.core g.uid a true) (h.saveCap a (g.cap d)) none none ∧
        (g.ownPoison.contains (a / 64) = false →
          exec (.cload f) s = doneWith (t.touchPrivate g.core g.uid a false)
            (h.setCap d { bits := BitVec.ofNat 128 (natOfBytes (Memory.readN g.own a 16)), tag := Tbl.get false g.ownTags a }) none none)) ∧
    ∀ (k k' : Cap) (ofs : Bool) (x : W64), narrow k ofs x = .ok k' → k.page + k.upper < 2 ^ 36 →
      k'.tag = true ∧ k'.sealedBit = false ∧ k'.obj = k.obj ∧ (k'.rights &&& k.rights) = k'.rights ∧
      ∀ a n, k'.holds a n = true → k.holds a n = true) ∧
   (∀ (s : State) (c : Ctx) (f : VForm) (t : State) (g h : Group) (xs : List Src), s.runs c →
      let e := c.enabled f.pg f.pn
      let hd := (f.x.extractLsb' 0 6).toNat
      let d := c.put t g
      (∀ z, c.parcel.tile? hd = some z → z.ty = f.ty →
        let start : Start := { always := false, pre := tileFault c.parcel f, check := elemFault c.parcel f (lanes e) }
        (∀ r, f.dst = .v r → c.Begins start e f.nw [dstOf f .vq] (usesOf f 2 .vsl) t g h xs → d.parcel.tile? hd = some z →
          h.loads < Config.loadLimit → z.poison = [] → ∃ p : Pending,
          exec (.tld f) s = doneWith t.fresh.1 { h with pending := h.pending ++ [p] } (some []) none ∧ p.kind = .load ∧
          p.dst = (if f.nw then .nothing else .vregs r.toNat 1) ∧
          p.lanes = (lanes e).map fun l => (l, .value [z.run (runAt xs l).1 (runAt xs l).2])) ∧
        (∀ row col x : Src, xs = [row, col, x] →
          c.Begins start e true [] (usesOf f 2 .vsl ++ [⟨9, f.sc, .vslq, 1⟩]) t g h xs false → d.parcel.tile? hd = some z →
          exec (.tst f) s = doneWith (t.setTile g.parcel hd
            (z.putAll ((lanes e).flatMap fun l => z.runOf (row l).toNat (col l).toNat (x l)))) h none none)) ∧
      (∀ (row col : Src), xs = [row, col] →
        let l := (lowest e).getD 0
        let level := (f.x.extractLsb' 6 2).toNat
        let n := shapeUnits f.ty (row l).toNat (col l).toNat
        let core := if level = 1 then g.core ^^^ 1 else g.core
        c.Begins { always := false, pre := if (c.parcel.tile? hd).isSome then some (handleFault 0 hd) else none,
                   check := fun xs => shapeFault f.ty level (runAt xs l).1 (runAt xs l).2 } e true [] (usesOf f 2 .sl) t g h xs false →
        ∀ u rsv us, t.placeUnits d.parcel hd level core n = some (u, rsv, us) → ∃ z : Tile,
          exec (.talloc f) s = doneWith (u.setTile g.parcel hd z) h none none ∧ z.rows = (row l).toNat ∧ z.cols = (col l).toNat ∧
          z.ty = f.ty ∧ z.core = core ∧ z.unitsRsv = rsv ∧ z.unitsFree = n - rsv ∧ z.units = us ∧ ∀ i j, z.get i j = 0) ∧
      (∀ z, e ≠ 0 → c.parcel.tile? hd = some z → s.handleBusy c.parcel hd = false → ∃ p : Parcel,
        exec (.tfree f) s = doneWith ((s.setParcel p).returnUnits c.parcel.uid hd z) c.g none none ∧ p.tile? hd = none ∧
        ∀ n, n ≠ hd → p.tile? n = c.parcel.tile? n))

/-- R114, R115, R294, R295: on a work-list outside a subdivisible parcel WLPUSH, WLINS and WLCOM append the lanes' records in ascending lane
order, WLRES reserves room, WLPOPB takes the oldest records, one for each executing lane as far as they go, and WLSIZE reads the number of
records; a list without room changes nothing and answers 0 in the status mask. -/
def Obligations.WorkListsComplete : Prop :=
  ∀ (s : State) (c : Ctx) (f : MForm) (t u : State) (g h : Group) (xs : List Src) (r : ListRef), s.runs c →
    let e := c.enabled f.pg f.pn
    let d := c.put t g
    let v : Ctx := { d with s := u.nextFree.1 }
    let rec' (l : Nat) : W128 := d.records f r.d (xs.headD fun _ => 0) (Config.freeWord u.free) l
    let rs := (lanes e).map rec'
    let appends (i : Instr) (w : State) (k : Append) (won : W64) (rs : List W128) : Prop :=
      w.subdivisible h = false → ∀ w' cells, v.recordCells w f r.d r.d.tail rs.length .write = (w', .ok cells) →
        let x := d.putList (appendAll g.core r.d (cells.zip rs) w').1 r
          { (appendAll g.core r.d (cells.zip rs) w').2 with resv := if k = .commit then r.d.resv - rs.length else r.d.resv }
        exec i s = doneWith (if k = .commit then x.useReserved h r.va rs.length else x) (h.setStatus f e won) none none
    (c.Begins { always := false } e true [] (dataUse f .vslq :: idxUse f .vsl) t g h xs false →
      d.listRef f e (idxSrc f xs.tail) = (u, .ok r) → d.wideStop f r.d = none →
      (r.d.admits rs.length = true → appends (.wlpush f) u.nextFree.1 .push e rs) ∧
      (r.d.admits rs.length = false → exec (.wlpush f) s = doneWith u.nextFree.1 (h.setStatus f e 0) none none) ∧
      (∀ w found, v.present u.nextFree.1 f r.d = (w, .ok found) →
        let ls := inserters rec' found (lanes e)
        (r.d.admits ls.length = true → appends (.wlins f) w .insert (ls.foldl (fun m l => m ||| bit64 l) 0) (ls.map rec')) ∧
        (r.d.admits ls.length = false → exec (.wlins f) s = doneWith w (h.setStatus f e 0) none none)) ∧
      (let p := u.parcelOf h
       let own := Tbl.get 0 p.resv r.va
       (own < rs.length → exec (.wlcom f) s = .next (slotEnd
         (if usesQueue (dataUse f .vslq :: idxUse f .vsl) then c.trap (listFault 1) else .stop u.nextFree.1 g (.trap (listFault 1))))) ∧
       (rs.length ≤ own → appends (.wlcom f) u.nextFree.1 .commit e rs))) ∧
    (∀ n, n = ((xs.headD fun _ => 0) ((lowest e).getD 0)).toNat → n ≤ 2 ^ 31 →
      c.Begins { always := false } e true [] (dataUse f .slq :: idxUse f .vsl) t g h xs false →
      d.listRef f e (idxSrc f xs.tail) = (u, .ok r) →
      let p := u.parcelOf h
      let own := Tbl.get 0 p.resv r.va
      n = 0 ∨ own ≠ 0 ∨ p.resv.length < 8 →
      (r.d.admits n = false → exec (.wlres f) s = doneWith u (h.setStatus f e 0) none none) ∧
      (r.d.admits n = true → exec (.wlres f) s = doneWith
        (d.putList (u.setParcel { p with resv := Tbl.put 0 p.resv r.va (own + n) }) r { r.d with resv := r.d.resv + n })
        (h.setStatus f e e) none none)) ∧
    (c.Begins { always := false } e f.nw [dataUse f .onlyV] (idxUse f .vsl) t g h xs →
      d.listRef f e (idxSrc f xs) = (u, .ok r) → d.wideStop f r.d = none →
      let ls := (lanes e).take (min r.d.count r.d.cap)
      ∀ w cells, d.recordCells u f r.d r.d.head ls.length .read = (w, .ok cells) → h.loads < Config.loadLimit →
        (cells.findSome? fun x => w.badData x r.d.bytes 0 r.va) = none → w.subdivisible h = false → ∃ t' latch, ∃ p : Pending,
        let won := ls.foldl (fun m l => m ||| bit64 l) 0
        exec (.wlpopb f) s = doneWith t' { h.setStatus f e won with pending := h.pending ++ [p] } (some latch) none ∧
        t'.mem = (d.putList w r { r.d with head := (r.d.head + ls.length) % 2 ^ 64 }).mem ∧
        p.lanes = ls.zip ((cells.map fun x => w.readRecord r.d x).map fun x => LaneSource.value
          (if r.d.wide then [x.extractLsb' 0 64, x.extractLsb' 64 64] else [x.extractLsb' 0 64]))) ∧
    (c.Begins { always := false } e f.nw [dataUse f .onlyS] (idxUse f .vsl) t g h xs →
      d.listRef f e (idxSrc f xs) = (u, .ok r) → h.loads < Config.loadLimit → ∃ p : Pending,
      exec (.wlsize f) s = doneWith u.fresh.1 { h with pending := h.pending ++ [p] } (some []) none ∧
      p.lanes = [((lowest e).getD 0, .value [BitVec.ofNat 64 r.d.count])] ∧ p.dst = pendDst f.data f.nw)

/-- R94, R279, R296: a FENCE whose quantum has ended completes: with a release once the group's loads, drains and near atomics are in and, at
package scope or wider, every acknowledgement has returned; with an acquire once every load of the group has returned, and then at pair
scope or wider no line of the core's L1 is left but private ones. R109, R307: QBIND with port 0 empties the queue and leaves it unbound;
with an existing instance of another port, whose output no other queue holds, it empties the queue and binds it in the port's direction
(under a number of its own that results name: the model's, log entry 76); else it raises the queue-binding fault, precise at the slot. -/
def Obligations.FencesAndBindings : Prop :=
   (∀ (s : State) (c : Ctx) (f : VForm) (t u : State) (g h : Group), s.runs c →
      let e := c.enabled f.pg f.pn
      let sc := (f.x.extractLsb' 0 4).toNat
      let ord := f.x.extractLsb' 4 2
      c.Begins { always := false, fence := true } e true [] [] t g h [] false →
      (ord.getLsbD 1 = true → g.loadsDone = true ∧ t.drainsPending g = false ∧ t.nearPending g = false ∧ (6 ≤ sc → g.acks = 0 ∧ g.lateWrite = none)) →
      (u = if ord.getLsbD 1 = true ∧ sc = 5 then t.markReleased g.uid else t) →
      (ord.getLsbD 0 = false → exec (.fence f) s = doneWith u g none none) ∧
      (ord.getLsbD 0 = true → g.loadsDone = true →
        exec (.fence f) s = doneWith (u.acquire g sc) g none none ∧
        (4 ≤ sc → ∀ x ∈ ((u.acquire g sc).core g.core).l1, x.owner ≠ none) ∧ (u.acquire g sc).mem = u.mem) ∧
      (ord.getLsbD 0 = true → g.loadsDone = false → exec (.fence f) s = .next (slotEnd (.stop u g (.block .loads))))) ∧
   (∀ (s : State) (c : Ctx) (f : QForm), s.runs c →
      let e := c.enabled f.pg f.pn
      let l := (lowest e).getD 0
      let q := f.qd.toNat
      let out (x : Nat) : Bool := [2, 4, 6, 9, 11, 13, 15].contains (x / 256)
      let instances (x : Nat) := if x / 256 = 3 ∨ x / 256 = 4 then 4 else if 1 ≤ x / 256 ∧ x / 256 ≤ 15 then 1 else 0
      let refused (x : Nat) : Bool := x / 256 ≠ 0 &&
        (instances x ≤ x % 256 || (out x && (c.g.outputAt (x / 256) (x % 256)).any fun n => n ≠ q))
      let value (xs : List Src) : Nat := ((xs.headD fun _ => 0) l).toNat
      let check (xs : List Src) : Option FaultInfo :=
        if 2 ^ 14 ≤ value xs then some (illegalOperand 6 28 (value xs))
        else if refused (value xs) then some (queueBinding q (c.g.queue q).binding) else none
      (∀ (t : State) (g h : Group) (xs : List Src),
        c.Begins { always := false, access := true, check := check } e true [] [⟨28, f.desc, .sl, 1⟩] t g h xs false →
        let x := value xs
        (x / 256 = 0 → exec (.qbind f) s = doneWith t.fresh.1 (h.setQueue q Queue.empty) none none) ∧
        (x / 256 ≠ 0 → exec (.qbind f) s = doneWith t.fresh.1 (h.setQueue q { Queue.empty with
          binding := BitVec.ofNat 16 (2 ^ 15 + (if out x then 2 ^ 14 else 0) + x), gen := t.uid + 1 }) none none)) ∧
      (∀ n : BitVec 6, f.desc = .s n → e ≠ 0 → (Use.fault c.g ⟨28, f.desc, .sl, 1⟩) = none →
        (c.g.pending.any fun p => p.meets c.r.id ⟨28, f.desc, .sl, 1⟩) = false →
        let x := (c.g.sreg n.toNat).toNat
        x < 2 ^ 14 → refused x = true → exec (.qbind f) s = .next (slotEnd (c.trap (queueBinding q (c.g.queue q).binding)))))

/-- R297, R298: WAITC completes when W COND a holds at its element, acquiring where it is asked to; otherwise it registers a watch at the
element's home slice and its group waits; a later write of the element that makes the comparison hold removes the watch and wakes the group
(on another die once the wake has crossed the links in the control class, R128), whose slot then completes. R149, R150, R299 to R301: PHREG adds the group's roles to a phaser's counts, PHDROP takes them away, PHARR counts
an arrival and answers the phase, and PHWAIT completes once the phase that it names is over; a phase is over when every signaller that
counts in it has arrived, and then the next one begins with the counts that the registrations left. R78, R79, R159, R302: SEMSET writes
the target, the count or both of a semaphore, to which the increments of its cycle are then added, or raises its target, SEMWAIT completes once the count has reached the target and acquires at
package scope, and SEMRD reads them; a semaphore that reaches its target wakes its waiters. -/
def Obligations.WaitsPhasersAndSemaphores : Prop :=
   ((∀ (s : State) (c : Ctx) (f : MForm) (t u : State) (g h : Group) (xs : List Src) (x : LaneAcc), s.runs c →
      let e := c.enabled f.pg f.pn
      let l := (lowest e).getD 0
      let n := f.ty.width / 8
      let reg := f.cap.toNat
      let d := c.put t g
      let a := (xs.headD fun _ => 0) l
      let w : Watch := { group := g.uid, path := c.k, lane := l, vf := d.vf, va := x.va, cell := x.cell, ty := f.ty, cond := ofsTop f, a := a }
      c.Begins { always := false, fence := fenceOf f } e true [] (dataUse f .slq :: idxUse f .sl) t g h xs false →
      (c.r.woken = true → exec (.waitc f) s = doneWith (if isAcquire f.ord then t.acquire h f.scope.toNat else t) h none none) ∧
      (c.r.woken = false → d.resolve .read reg (g.cap reg) rRead n n [(l, elemAddr (g.cap reg) (idxSrc f xs.tail l) (ofs12 f) n)] = (u, .ok [x]) →
        u.deadHome x.cell = false → ∀ v, u.readNow g false clsControl n [x] = .ok v → v.poisoned x.cell n = false →
        let v' := v.updateL1 h.core x.cell (Memory.readN v.mem x.cell n)
        (watchHolds v.mem w = true → exec (.waitc f) s = doneWith (if isAcquire f.ord then v'.acquire h f.scope.toNat else v') h none none) ∧
        (watchHolds v.mem w = false → ((v.die (homeDie x.cell)).slice (homeSlice x.cell)).watches.length < 1024 →
          ((v.die (homeDie x.cell)).slice (homeSlice x.cell)).queued = [] →
          ∃ t', exec (.waitc f) s = .next (slotEnd (.stop t' g (.block .watch))) ∧ t'.mem = v.mem ∧
            ((t'.die (homeDie x.cell)).slice (homeSlice x.cell)).watches =
              ((v.die (homeDie x.cell)).slice (homeSlice x.cell)).watches ++ [w]))) ∧
    ∀ (s : State) (w : Watch) (g : Group) (r : ClauseRun) (cell : Nat) (bs : List Byte),
      let at' (s : State) := ((s.die (homeDie cell)).slice (homeSlice cell)).watches
      at' s = [w] → s.group? w.group = some g → g.run = some r → w.cell < cell + bs.length → cell < w.cell + w.ty.width / 8 →
      bs ≠ [] → cell / 256 = (cell + bs.length - 1) / 256 →
      let t := s.applyWrite cell 0 bs
      (watchHolds (Memory.writeN s.mem cell bs) w = true → at' t = [] ∧
        (g.core / 48 = homeDie cell → t.group? w.group = some { g with status := .ready, run := some { r with woken := true } }) ∧
        (g.core / 48 ≠ homeDie cell → ∃ k, t.group? w.group = some { g with status := .waiting (.waking k) } ∧
          (g.core < 192 → ∃ fl ∈ t.flits, fl.uid = k ∧ fl.hops = inClass clsControl (dieWay (homeDie cell) (g.core / 48))))) ∧
      (watchHolds (Memory.writeN s.mem cell bs) w = false → at' t = [w] ∧ t.group? w.group = some g)) ∧
   ((∀ (s : State) (c : Ctx) (f : VForm) (t : State) (g h : Group) (xs : List Src), s.runs c →
      let e := c.enabled f.pg f.pn
      let l := (lowest e).getD 0
      let x := phaserRef f l xs
      let start (roles : Role → PhaserRef → Option FaultInfo) : Start :=
        { always := false, fence := true, pre := c.phaserPre f,
          check := fun xs => (c.phaserRange (phaserRef f l xs)).or (roles (c.g.role (phaserRef f l xs).pkg (phaserRef f l xs).n) (phaserRef f l xs)) }
      let p := t.phaser h x.pkg x.n
      let full (p : Phaser) : Bool := 65535 < p.sig + (if roleSig f && p.arrived = 0 then 1 else 0) ||
        65535 < p.signext + (if roleSig f then 1 else 0) || 65535 < p.wait + (if roleWait f then 1 else 0)
      let atTable (t u : State) : Prop :=
        if x.pkg then t.crossNow clsControl (toControl (c.put t g).die ++ fromControl (c.put t g).die) = some u else u = t
      (∀ u, c.Begins (start fun r x =>
          if (r.sig && roleSig f) || (r.wait && roleWait f) then some (illegalOperand 6 6 (roleBits f))
          else if x.pkg && !r.sig && !r.wait && 16 ≤ c.g.packagePhasers then some (illegalOperand 6 27 x.n)
          else if full (c.s.phaser c.g x.pkg x.n) then some (illegalOperand 6 x.pos x.n) else none)
          e f.nw [] (phaserUse f ++ []) t g h xs false → atTable t u → ∃ (p' : Phaser) (r : Role),
        exec (.phreg f) s = doneWith (u.setPhaser h x.pkg x.n p') (h.setRole r) none none ∧ p'.phase = p.phase ∧ p'.arrived = p.arrived ∧
        (roleSig f = true → p'.signext = p.signext + 1 ∧ r.sig = true ∧ p'.sig = if p.arrived = 0 then p.sig + 1 else p.sig) ∧
        (roleSig f = false → p'.signext = p.signext ∧ p'.sig = p.sig) ∧
        (roleWait f = true → p'.wait = p.wait + 1 ∧ r.wait = true) ∧ (roleWait f = false → p'.wait = p.wait)) ∧
      (∀ u, c.Begins (start fun r _ => if (roleSig f && !r.sig) || (roleWait f && !r.wait) then some (illegalOperand 6 6 (roleBits f)) else none)
          e f.nw [] (phaserUse f ++ []) t g h xs false → atTable t u →
        exec (.phdrop f) s = doneWith (u.dropRoles h x.pkg x.n (roleSig f) (roleWait f)).1
          (u.dropRoles h x.pkg x.n (roleSig f) (roleWait f)).2 none none) ∧
      (let dsts : List Use := if f.dst.unused then [] else [dstOf f .sq]
       ∀ t1 u, c.Begins (start fun r x => if r.sig then none else some (illegalOperand 6 x.pos x.n)) e f.nw dsts (phaserUse f ++ []) t g h xs
          (!f.dst.unused) →
        t.releaseWait h x.scope = .ok t1 h → (h.role x.pkg x.n).counted = true → (h.role x.pkg x.n).arrived = false → atTable t1 u →
        let q := t1.phaser h x.pkg x.n
        let a := u.phaserTest (h.setRole { h.role x.pkg x.n with arrived := true }) x.pkg x.n { q with arrived := q.arrived + 1 }
        (f.dst.unused = true → exec (.pharr f) s = doneWith a.1 a.2 none none) ∧
        (f.dst.unused = false → exec (.pharr f) s =
          ({ c.put t g with s := a.1 } : Ctx).pathDone e f.dst f.nw f.pfx false a.2 (q.phase.zeroExtend 64))) ∧
      (let pu : Use := if f.var = 1 then ⟨18, f.sb, .slq, 1⟩ else ⟨27, f.sa, .slq, 1⟩
       c.Begins (start fun r x => if r.wait then none else some (illegalOperand 6 x.pos x.n)) e f.nw [] (phaserUse f ++ [pu]) t g h xs false →
        let phase := (((xs.drop (phaserUse f).length).headD fun _ => 0) l).setWidth 32
        (p.passed phase = true → ∀ u, atTable t u → exec (.phwait f) s = doneWith (u.acquire h x.scope) h none none) ∧
        (p.passed phase = false → exec (.phwait f) s = .next (slotEnd (.stop t g (.block (.phaser x.pkg x.n phase))))))) ∧
    ∀ (s : State) (g : Group) (pkg : Bool) (n : Nat) (p : Phaser), s.parcel? g.parcel ≠ none →
      let t := (s.phaserTest g pkg n p).1
      (0 < p.sig ∧ p.arrived = p.sig → t.phaser g pkg n = { p with phase := p.phase + 1, arrived := 0, sig := p.signext }) ∧
      (¬(0 < p.sig ∧ p.arrived = p.sig) → t.phaser g pkg n = p) ∧
      (∀ k : W32, Phaser.passed { p with phase := k + 1 } k = true ∧ Phaser.passed { p with phase := k } k = false)) ∧
   ((∀ (s : State) (c : Ctx) (f : VForm) (t : State) (g h : Group) (xs : List Src), s.runs c →
      let e := c.enabled f.pg f.pn
      let l := (lowest e).getD 0
      let n := (f.x.extractLsb' 0 5).toNat
      let a := (xs.headD fun _ => 0) l
      let b := (xs.tail.headD fun _ => 0) l
      let x := t.sem h.parcel n
      let hi := (x.extractLsb' 32 32).toNat
      let lo := (x.extractLsb' 0 32).toNat
      let start : Start := { always := false, pre := c.semRange 0 n }
      let more (k : Nat) : Nat := min (k + ((t.semNow h.parcel n).map fun i => i.inc).foldl (· + ·) 0) (2 ^ 32 - 1)
      (c.Begins start e true [] (usesOf f (if f.var = 2 then 2 else 1) .slq) t g h xs false → a.toNat < 2 ^ 32 → b.toNat < 2 ^ 32 →
        let y := BitVec.ofNat 64 (match f.var.toNat with
          | 0 => a.toNat * 2 ^ 32 + lo
          | 1 => hi * 2 ^ 32 + more a.toNat
          | 2 => a.toNat * 2 ^ 32 + more b.toNat
          | _ => min (hi + a.toNat) (2 ^ 32 - 1) * 2 ^ 32 + lo)
        exec (.semset f) s = doneWith (t.semIs h.parcel n y) h none none ∧
        (t.semNow h.parcel n = [] → t.semIs h.parcel n y = t.setSem h.parcel n y)) ∧
      (c.Begins { always := false, fence := true, pre := c.semRange 0 n } e true [] [] t g h xs false → g.lateSem n = none →
        (c.r.woken = true ∨ hi ≤ lo → exec (.semwait f) s = doneWith (t.acquire h 6) h none none) ∧
        (c.r.woken = false → lo < hi → exec (.semwait f) s = .next (slotEnd (.stop t g (.block (.semaphore n)))))) ∧
      (c.Begins start e f.nw [dstOf f .vsq] [] t g h xs →
        exec (.semrd f) s = (c.put t g).pathDone e f.dst f.nw f.pfx false h
          (match f.var.toNat with | 0 => BitVec.ofNat 64 lo | 1 => BitVec.ofNat 64 hi | _ => x))) ∧
    ∀ (s : State) (p : Parcel) (g : Group) (r : ClauseRun) (n : Nat) (x : W64),
      s.parcel? p.uid = some p → s.groups = [g] → g.parcel = p.uid → g.status = .waiting (.semaphore n) → g.run = some r →
      (s.setSem p.uid n x).sem p.uid n = x ∧
      ((x.extractLsb' 32 32).toNat ≤ (x.extractLsb' 0 32).toNat →
        (s.setSem p.uid n x).groups = [{ g with status := .ready, run := some { r with woken := true } }]) ∧
      ((x.extractLsb' 0 32).toNat < (x.extractLsb' 32 32).toNat → (s.setSem p.uid n x).groups = [g]))

/-- R122, R303 to R306: TVDECL adds a range to the group's open declaration and, with a release, submits it to the batch of its die; TVWAIT
completes once every block is granted and acquires at package scope; TVEND releases and closes the transaction, whose grant entries end. -/
def Obligations.TraverseOpcodesComplete : Prop :=
  ∀ (s : State) (c : Ctx), s.runs c →
    (∀ (f : MForm) (t u u2 : State) (g h : Group) (xs : List Src) (va : Nat) (d : Decl) (r : List (Nat × Nat × Trans)),
      let e := c.enabled f.pg f.pn
      let l := (lowest e).getD 0
      let held := c.g.decl.getD Decl.open
      let len (xs : List Src) : Nat := ((xs.headD fun _ => 0) l).toNat
      let reg := f.cap.toNat
      c.Begins { always := false, fence := isRelease f.ord, check := fun xs =>
          if held.submitted.isSome then some noDeclaration
          else if len xs = 0 || 2 ^ 32 < len xs then some (illegalOperand 6 36 (len xs))
          else if 16 ≤ held.ranges || 4096 < (len xs + 255) / 256 then some (illegalOperand 6 36 (len xs))
          else none } e true [] (dataUse f .sl :: idxUse f .sl) t g h xs false →
      let k := c.put t g
      capLanes g.core k.vf reg (g.cap reg) rTraverse (len xs) 1 t [(l, elemAddr (g.cap reg) (idxSrc f xs.tail l) f.ofs.toInt 1)]
        = (u, .ok [(l, va)]) →
      held.add (tvBlocks va (len xs)) = some d → u.subdivisible h = false →
      transLanes g.core k.vf .read u ((tvBlocks va (len xs)).map fun b => (l, b * 256)) = (u2, r) →
      laneStop { g with decl := none } k.launch 256 r = none →
      (f.ord = 0 → exec (.tvdecl f) s = doneWith u2 { h with decl := some d } none none) ∧
      (isRelease f.ord = true → u2.subdivisible h = false → h.loadsDone = true → u2.drainsPending h = false → u2.nearPending h = false → h.acks = 0 →
        h.lateWrite = none → ∃ t' x, exec (.tvdecl f) s = doneWith t' { h with decl := some { d with submitted := some u2.uid } } none none ∧
          t'.decls = u2.decls ++ [x] ∧ x.uid = u2.uid ∧ x.blocks = d.blocks ∧ x.group = h.uid ∧
          (t'.die k.die).batch = (u2.die k.die).batch ++ [u2.uid] ∧ t'.mem = u2.mem)) ∧
    (∀ (f : VForm) (d : Decl) (n : Nat), c.enabled f.pg f.pn ≠ 0 → c.g.decl = some d → d.submitted = some n → d.fault = none →
      (s.granted n = true →
        exec (.tvwait f) s = doneWith (s.acquire c.g 6) { c.g with decl := some { d with waited := true } } none none) ∧
      (s.granted n = false → exec (.tvwait f) s = .next (slotEnd (c.block .grants))) ∧
      ∀ t g, s.release c.g c.k 6 = .ok t g → t.subdivisible g = false → ∃ t',
        exec (.tvend f) s = doneWith t' { g with decl := none } none none ∧ t' = t.endEntries n ∧ ∀ x ∈ t'.decls, x.uid ≠ n)

/-- R314, R315: outside a subdivisible parcel LAUNCH, once its release is over and its descriptor is read and in order, claims the next
entry of the launch ring and sends the entry to memory as one write, counted when its home is on another die (R157); the entry names the image, the seed and the frame of the
executing launch, and holds the descriptor's fields, sixteen s registers and the capabilities that are tagged and not sealed. R308 to R311:
a job-card opcode whose operands, descriptor and regions are in order submits one card to the task scheduler of the core's pair: it waits
there with its kind, its regions, its completion semaphore and increment, and the lanes' argument; nothing of the group or of memory
changes. With 64 live cards the slot waits. -/
def Obligations.LaunchesAndJobCards : Prop :=
   (∀ (s : State) (c : Ctx) (f : QForm) (t u u2 : State) (g h : Group) (xs : List Src) (bs : List Byte), s.runs c →
      let e := c.enabled f.pg f.pn
      let l := (lowest e).getD 0
      let a := match f.arg with | .s r => r.toNat | _ => 0
      let d := ((xs.headD fun _ => 0) l).toNat
      let reg := f.cap.toNat
      let n := f.qd.toNat % 8
      let k : Ctx := { c.put t g with s := u }
      let w := natOfBytes bs
      c.Begins { always := false, access := true, check := fun xs =>
          let d := ((xs.headD fun _ => 0) l).toNat
          if d % 64 ≠ 0 then some (illegalOperand 6 28 d) else if 48 < a then some (illegalOperand 6 5 f.arg.code.toNat) else none }
        e true [] [⟨28, f.desc, .sl, 1⟩, ⟨5, f.arg, .onlyS, 1⟩] t g h xs false →
      (g.pending.any fun p => p.meets c.r.id ⟨5, f.arg, .onlyS, 16⟩) = false →
      t.releaseWait h 6 = .ok u h → k.readDescriptor true reg (g.cap reg) rRead d 64 64 l = (u2, .ok bs) → w < 2 ^ 112 →
      field w 96 16 < (c.put t g).launch.kernels → (c.put t g).launch.hdr.sub = false →
      let far := u2.launchFar (c.put t g).die (c.put t g).vf n
      ((u2.vf (c.put t g).vf).queue n).hasRoom = true → (far = true → h.acks ≠ Config.ackLimit) →
      let q := (u2.vf (c.put t g).vf).queue n
      let entry := launchEntry (c.put t g).launch h w a
      (∃ t' o, exec (.launch f) s = doneWith t' { h with acks := h.acks + (if far then 1 else 0) } none none ∧ t'.mem = u2.mem ∧
        ((t'.vf (c.put t g).vf).queue n).prod = q.prod + 1 ∧ t'.net = u2.net ++ [o] ∧ o.cell = ringCell q.cfg q.prod.toNat 512 ∧
        o.kind = .write entry ∧ o.counted = far ∧ o.sender = .group h.uid) ∧
      entry.length = 512 ∧ entry.take 8 = bytesOfNat 4 (c.put t g).launch.text ++ bytesOfNat 4 (c.put t g).launch.metaObj ∧
      ∀ i, i < 16 → (entry.drop (64 + 8 * i)).take 8 = bytesOfNat 8 (h.sreg (a + i)).toNat) ∧
   (∀ (s : State) (c : Ctx) (f : QForm) (kind : CardKind) (i : Instr) (refusal : Option FaultInfo) (t u u2 : State) (g h : Group)
      (xs : List Src) (bs : List Byte) (reads writes : List Region), s.runs c →
      (kind, i, refusal) ∈ [(CardKind.copy, Instr.jccopy f, none), (.gather, .jcgath f, none), (.scatter, .jcscat f, none),
        (.collective, .jccoll f, if c.launch.hdr.sub then some (illegalOperand 6 56 0x93) else none), (.matrix, .jcmtx f, none),
        (.fill, .jcfill f, none)] →
      let e := c.enabled f.pg f.pn
      let l := (lowest e).getD 0
      let d := ((xs.headD fun _ => 0) l).toNat
      let reg := f.cap.toNat
      let k := c.put t g
      let w := natOfBytes bs
      c.Begins { always := false, access := true, pre := refusal, check := fun xs =>
          let d := ((xs.headD fun _ => 0) l).toNat
          (if d % 64 ≠ 0 then some (illegalOperand 6 28 d) else none).or ((c.incFault f).or (c.g.pushFault f.qd.toNat kind.port)) }
        e true [] (⟨28, f.desc, .sl, 1⟩ :: if kind = .fill then [⟨5, f.arg, .sl, 1⟩] else []) t g h xs false →
      t.behind g.uid = false → k.readDescriptor false reg (g.cap reg) (rRead + rEngine) d 192 64 l = (u, .ok bs) →
      k.checkCard u kind w d = (u2, .ok (reads, writes)) → h.cardBreach (reads ++ writes) = none →
      let p := u2.pair (h.core / 2)
      (((p.cards.filter Card.live).length < 64 → ∃ card : Card,
        exec i s = doneWith (u2.fresh.1.setPair (h.core / 2) { p with cards := p.cards ++ [card] }) h none none ∧
        card.kind = kind ∧ card.state = .waiting ∧ card.reads = reads ∧ card.writes = writes ∧ card.group = h.uid ∧
        card.clause = c.r.clause ∧ card.slot = c.r.idx ∧ card.semv = f.semv ∧ card.sem = f.sem.toNat ∧ card.inc = f.inc.toNat ∧
        card.arg = (xs.getD 1 fun _ => 0) l) ∧
      (64 ≤ (p.cards.filter Card.live).length → exec i s = .next (slotEnd (.stop u2 g (.block .scheduler))))))

/-! ## Matrix and attention opcodes -/

/-- R325, R328: MLDA and MLDB build an operand header from the handle of X, the origin word, and for MLDA K and the seed, check it against
the handle's tile and write it to d; the header is the one whose fields stand where R325 puts them. R322, R331, R338, R339, R343: MSYNC
waits for the operations of its group and completes once none is left; MELECT elects the lowest executing lane, its group form only in the
lowest live group of the leader core; VSPC keeps four of eight elements, packs their positions as one metadata byte, or gives the seeded
pattern of a row and a k-group. R321, R322, R329, R335, R336: a multiply whose operands and headers pass their checks issues one operation
to its core's array, a pair form to both arrays of its pair, with the accumulator type, both headers and the accumulator tile; the forms
with metadata capture their metadata registers, and a virtual A its unfold record. UNFOLD issues likewise. While an array that is needed
holds eight operations the slot waits. R322, R340 to R342: ACCZ, ACCLD, ACCMOV, ACCCVT and the drains issue one operation of their kind with
the accumulator tiles, the tile and the words that their fields and operands name; ACCMOV from an accumulator tile leaves a pending write
for its register; a drain to memory has the rights, the bounds and the pages of all its rows checked first. -/
def Obligations.MatrixOpcodesIssue : Prop :=
   (∀ (s : State) (c : Ctx) (f : VForm) (t : State) (g h : Group) (xs : List Src) (u : State), s.runs c →
      let e := c.enabled f.pg f.pn
      let d := c.withTiles t g u
      let v (n : Nat) : W64 := pathValue e xs n
      let hd := (f.x.extractLsb' 0 6).toNat
      let built (w : W64) (k role seed : Nat) : Prop := w.extractLsb' 58 6 = f.x.extractLsb' 0 6 ∧
        w.extractLsb' 46 12 = (v 0).extractLsb' 0 12 ∧ w.extractLsb' 34 12 = (v 0).extractLsb' 16 12 ∧
        (w.extractLsb' 22 12).toNat = k - 1 ∧ (w.extractLsb' 20 2).toNat = role ∧ w.getLsbD 19 = f.x.getLsbD 6 ∧
        w.extractLsb' 16 3 = 0 ∧ (w.extractLsb' 0 16).toNat = seed
      orgOk (v 0) = true → (∃ z, d.parcel.tile? hd = some z ∧ z.has (orgRow (v 0)) (orgCol (v 0)) = true) →
      ((let k := (v 1).toNat
        let role := if f.x.getLsbD 7 then 3 else 1
        let seed := (v 2).toNat
        c.BeginsMtx { always := false } e f.nw [dstOf f .sq] (usesOf f 2 .sl ++ if f.sc.unused then [] else [⟨9, f.sc, .sl, 1⟩]) t g h xs u →
        1 ≤ k → k ≤ 4096 → seed < 65536 → (role = 3 → f.x.getLsbD 6 = false) → (role = 3 ∨ f.x.getLsbD 6 = true → seed = 0) →
        ∃ w, exec (.mlda f) s = d.pathDone e f.dst f.nw f.pfx false h w ∧ built w k role seed) ∧
       (c.BeginsMtx { always := false } e f.nw [dstOf f .sq] (usesOf f 1 .sl ++ []) t g h xs u →
        ∃ w, exec (.mldb f) s = d.pathDone e f.dst f.nw f.pfx false h w ∧ built w 1 2 0))) ∧
   ((∀ (s : State) (c : Ctx) (f : VForm) (t : State) (g h : Group) (xs : List Src), s.runs c →
      let e := c.enabled f.pg f.pn
      (∀ u, c.BeginsMtx { always := false } e true [] [] t g h xs u false →
        let busy := (u.pair (h.core / 2)).ops.any fun o => o.group = h.uid
        (busy = true → exec (.msync f) s = .next (slotEnd (.stop u g (.block .operations)))) ∧
        (busy = false → g.lateMatrix = none → exec (.msync f) s = doneWith u h none none)) ∧
      (∀ u, (xKD f.x) ≠ 0 → c.BeginsMtx { always := false } e f.nw [] [] t g h xs u → ∀ l, lowest e = some l →
        exec (.melect f) s = (c.withTiles t g u).maskDone e (xKD f.x) f.nw h
          (if f.var = 0 ∨ u.isLeader h = true then BitVec.ofNat 64 (2 ^ l) else 0)) ∧
      (f.var = 2 → c.Begins {} e f.nw [dstOf f .vq] [⟨27, f.sa, .vsl, 1⟩, ⟨18, f.sb, .onlyS, 1⟩] t g h xs →
        exec (.vspc f) s = (c.put t g).lanesDone e f.dst f.nw f.pfx true h fun l =>
          let a := ((xs.headD fun _ => 0) l).toNat
          BitVec.ofNat 64 (seededPattern ((pathValue e xs 1).toNat % 65536) (a % 4096) (a / 65536 % 1024))) ∧
      (f.var = 0 → c.Begins {} e f.nw [dstOf f .vq] (usesOf f (if f.ty.width = 16 then 2 else 1) .vsl) t g h xs →
        exec (.vspc f) s = (c.put t g).lanesDone e f.dst f.nw f.pfx true h fun l =>
          let els := (xs.map fun x => elems f.ty (x l)).flatten
          BitVec.ofNat 64 (packElems f.ty ((keptPositions f.ty els).map fun p => els.getD p 0))) ∧
      (f.var = 1 → ∀ n, f.dst = .v n → c.Begins {} e f.nw [dstOf f .onlyV] (usesOf f (if f.ty.width = 16 then 2 else 1) .vsl) t g h xs →
        ∃ y : Nat → W64, exec (.vspc f) s = (c.put t g).lanesDone e f.dst f.nw f.pfx true h y ∧ ∀ l,
          let els := (xs.map fun x => elems f.ty (x l)).flatten
          let at' := 8 * (f.x.extractLsb' 0 3).toNat
          (∀ p, p < 8 → (y l).getLsbD (at' + p) = decide (p ∈ keptPositions f.ty els)) ∧
          ∀ b, b < at' ∨ at' + 8 ≤ b → (y l).getLsbD b = (h.vreg n.toNat l).getLsbD b)) ∧
    (∀ (t : ElemType) (xs : List Nat),
      (keptPositions t xs).length = 4 ∧ (keptPositions t xs).Pairwise (· < ·) ∧ (∀ p ∈ keptPositions t xs, p < 8) ∧
      ∀ p q, p ∈ keptPositions t xs → q < 8 → q ∉ keptPositions t xs → spcMagnitude t (xs.getD q 0) ≤ spcMagnitude t (xs.getD p 0)) ∧
    ∀ s r g, bitsBelow (seededPattern s r g) 8 = 4 ∧ seededPattern s r g < 256) ∧
   (∀ (s : State) (c : Ctx) (f : VForm) (t : State) (g h : Group) (xs : List Src) (u : State), s.runs c →
      let e := c.enabled f.pg f.pn
      let d := c.withTiles t g u
      let v (n : Nat) : W64 := pathValue e xs n
      let p := u.pair (h.core / 2)
      let n := (f.x.extractLsb' 6 3).toNat
      let full (pair : Bool) : Prop := p.arrayFull h.core = true ∨ (pair = true ∧ p.arrayFull (h.core ^^^ 1) = true)
      (∀ (i : Instr) (pair seeded : Bool), (i, pair, seeded) ∈ [(Instr.mma f, false, false), (.mmap f, true, false), (.mmag f, false, true),
          (.mmagp f, true, true)] →
        let d4 : List Use := match f.pfx.d4 with | some o => [⟨7, o, .sl, 1⟩] | none => []
        let r := f.pfx.d4.map fun _ => v 2
        let sp : Sparsity := if seeded then .seeded else .dense
        c.BeginsMtx { always := false } e true [] (usesOf f 2 .sl ++ [] ++ d4) t g h xs u false →
        d.multiplyFault f pair sp (v 0) (v 1) r = none →
        (¬ full pair → d.issues (exec i s) u h f.pfx.rnd (.multiply pair seeded seeded f.ty (v 0) (v 1) n r []) 0 none) ∧
        (full pair → exec i s = .next (slotEnd (.stop u g (.block .operations))))) ∧
      (∀ (i : Instr) (pair : Bool) (m : BitVec 8), (i, pair) ∈ [(Instr.mmas f, false), (.mmasp f, true)] → f.sc = .v m → f.pfx.d4 = none →
        c.BeginsMtx { always := false } e true [] (usesOf f 2 .sl ++ [⟨9, f.sc, .onlyV, 1⟩] ++ []) t g h xs u false →
        d.multiplyFault f pair .metadata (v 0) (v 1) none = none →
        let rows := sparseRows d.parcel (v 0)
        let use : Use := ⟨9, f.sc, .onlyV, max 1 ((rows + h.width - 1) / h.width)⟩
        use.fault h = none → (h.pending.any fun p => p.meets c.r.id use) = false → ¬ full pair →
        ∃ mdata : Tbl W64,
          d.issues (exec i s) u h f.pfx.rnd (.multiply pair true false f.ty (v 0) (v 1) n none mdata) 0 none ∧
          ∀ row, row < rows → Tbl.get 0 mdata row = h.vreg (m.toNat + row / h.width) (row % h.width)) ∧
      (c.BeginsMtx { always := false } e true [] (usesOf f 2 .sl) t g h xs u false →
        let hd := (f.x.extractLsb' 0 6).toNat
        headerFault d.parcel 27 (v 0) [3] false false = none → v 1 >>> 57 = 0 →
        (∃ z y, d.parcel.tile? hd = some z ∧ d.parcel.tile? (hdrHandle (v 0)) = some y ∧ z.ty = y.ty) → ¬ full false →
        d.issues (exec (.unfold f) s) u h 0 (.unfold (v 0) (v 1) hd) 0 none)) ∧
   (∀ (s : State) (c : Ctx) (t : State) (g h : Group) (xs : List Src) (u : State), s.runs c →
      (u.pair (h.core / 2)).arrayFull h.core = false →
      (∀ f : VForm,
        let e := c.enabled f.pg f.pn
        let d := c.withTiles t g u
        let row := xs.headD fun _ => 0
        let n := (f.x.extractLsb' 6 3).toNat
        (c.BeginsMtx { always := false } e true [] [] t g h xs u false →
          d.issues (exec (.accz f) s) u h 0 (.zero (f.x.extractLsb' 0 8)) 0 none ∧
          d.issues (exec (.acccvt f) s) u h f.pfx.rnd (.convert f.ty n (f.x.extractLsb' 3 3).toNat) 0 none) ∧
        (c.BeginsMtx { always := false } e true [] (usesOf f 1 .sl) t g h xs u false →
          let org := pathValue e xs 0
          let hd := (f.x.extractLsb' 0 6).toNat
          ∀ z, d.parcel.tile? hd = some z → orgOk org = true → z.ty = f.ty → z.has (orgRow org) (orgCol org) = true →
            d.issues (exec (.accld f) s) u h 0 (.load f.ty n hd org) 0 none) ∧
        (c.BeginsMtx { always := false } e f.nw [dstOf f .onlyV] (usesOf f 1 .vsl) t g h xs u → (∀ l, e.getLsbD l = true → (row l).toNat < 64) →
          ∀ r, f.dst = .v r → ∃ (t' : State) (o : MtxOp) (p : Pending),
          exec (.accmovGet f) s = doneWith t' { h with pending := h.pending ++ [p] } (some []) none ∧
          (t'.pair (h.core / 2)).ops = (u.pair (h.core / 2)).ops ++ [o] ∧ o.kind = .get n (rowsOf e row) e p.uid ∧ t'.mem = u.mem ∧
          p.dst = .vregs r.toNat 1 ∧ p.lanes = (lanes e).map fun l => (l, .home)) ∧
        (c.BeginsMtx { always := false } e true [] (usesOf f 2 .vsl) t g h xs u false → (∀ l, e.getLsbD l = true → (row l).toNat < 64) →
          d.issues (exec (.accmovPut f) s) u h 0 (.put n (rowsOf e row) (rowsOf e (xs.getD 1 fun _ => 0)) e) 0 none)) ∧
      ∀ (f : QForm) (add : Bool) (i : Instr), (i, add) ∈ [(Instr.accdr f, false), (.accdra f, true)] →
        let e := c.enabled f.pg f.pn
        let d := c.withTiles t g u
        let w := pathValue e xs 0
        let a := pathValue e xs 1
        let inc := if f.semv then some (f.sem.toNat, f.inc.toNat) else none
        d.incFault f = none → drainFault d.parcel add w = none →
        (w.getLsbD 59 = false → f.arg.unused = true → f.cap = 0 → c.BeginsMtx { always := false } e true [] [⟨28, f.desc, .sl, 1⟩] t g h xs u false →
          d.issues (exec i s) u h f.pfx.rnd (.drain add w a) 0 inc) ∧
        (w.getLsbD 59 = true → f.arg.unused = false →
          c.BeginsMtx { always := false } e true [] [⟨28, f.desc, .sl, 1⟩, ⟨5, f.arg, .sl, 1⟩] t g h xs u false → u.behind g.uid = false →
          let cap := g.cap f.cap.toNat
          let n := elemBytes ((drCvt w).getD .n8)
          let cols := ((w.extractLsb' 13 6).toNat + 1) * n
          ∀ u2 vs u3 r, capLanes g.core d.vf f.cap.toNat cap (rWrite + rEngine) cols n u
              ((span 0 ((w.extractLsb' 19 6).toNat + 1)).map fun i =>
                ((lowest e).getD 0, cap.offset + (a.extractLsb' 0 48).toNat + i * (a.extractLsb' 48 16).toNat)) = (u2, .ok vs) →
            transLanes g.core d.vf .write u2 ((vs.map fun x => (pieces x.2 cols).map fun y => ((lowest e).getD 0, y)).flatten) = (u3, r) →
            laneStop g d.launch 1 r = none → (u3.pair (h.core / 2)).arrayFull h.core = false →
            d.issues (exec i s) u3 h f.pfx.rnd (.drain add w a) ((vs.headD (0, 0)).2) inc))

/-- R345 to R352: ATTQK, ATTSM, ATTPV and ATTMD issue one operation of their kind with the words, the tiles and the page that their operands
name, the page's rights, bounds and translation checked first; KVRS, its capability checked at the slot, pushes one command for the
resurvey engine into its queue, or waits while that queue is full. -/
def Obligations.AttentionOpcodesComplete : Prop :=
  ∀ (s : State) (c : Ctx) (t : State) (g h : Group) (xs : List Src) (u : State), s.runs c →
    (∀ f : VForm,
      let e := c.enabled f.pg f.pn
      let d := c.withTiles t g u
      let v (n : Nat) : W64 := pathValue e xs n
      let n := (f.x.extractLsb' 6 3).toNat
      let reg := (f.x.extractLsb' 2 4).toNat
      let room (u : State) : Prop := (u.pair (h.core / 2)).arrayFull h.core = false
      (let d4 : List Use := match f.pfx.d4 with | some o => [⟨7, o, .sl, 1⟩] | none => []
       let scale : W64 := if f.pfx.d4.isSome then v 3 else 0x3F800000
       c.BeginsMtx { always := false } e true [] (usesOf f 3 .sl ++ d4) t g h xs u false →
        d.attqkFault (f.x.getLsbD 1) (v 0) (v 2) scale = none →
        ∀ u2 va, d.namedMemory reg rRead (v 1).toNat (pageSize (pagePitch f.ty (hdrK (v 0)))) .read ((lowest e).getD 0) = (u2, .ok va) →
          room u2 → d.issues (exec (.attqk f) s) u2 h f.pfx.rnd
            (.qk f.ty n (g.cap reg) (f.x.getLsbD 1) (v 0) (v 1) (v 2) (scale.setWidth 32)) va none) ∧
      (c.BeginsMtx { always := false } e true [] (usesOf f 1 .sl) t g h xs u false → (v 0).toNat < 64 →
        statFault d.parcel 27 ((v 0).toNat % 64) (v 0) = none → room u →
        d.issues (exec (.attsm f) s) u h f.pfx.rnd (.softmax (f.x.extractLsb' 3 3).toNat n (f.x.extractLsb' 0 3).toNat (v 0).toNat) 0 none) ∧
      (c.BeginsMtx { always := false } e true [] (usesOf f 2 .sl) t g h xs u false →
        v 0 >>> 32 = 0 → (v 0).extractLsb' 3 5 = 0 → awColumn (v 0) % 64 = 0 → awColumn (v 0) < awD (v 0) →
        ∀ u2 va, d.namedMemory reg rRead (v 1).toNat (pageSize (pagePitch f.ty (awD (v 0)))) .read ((lowest e).getD 0) = (u2, .ok va) →
          room u2 → d.issues (exec (.attpv f) s) u2 h f.pfx.rnd (.pv f.ty n (g.cap reg) (v 0) (v 1)) va none)) ∧
    ∀ f : QForm,
      let e := c.enabled f.pg f.pn
      let d := c.withTiles t g u
      let w := pathValue e xs 0
      let o := pathValue e xs 1
      let q := f.qd.toNat
      (c.BeginsMtx { always := false } e true [] [⟨28, f.desc, .sl, 1⟩, ⟨5, f.arg, .sl, 1⟩] t g h xs u false → u.behind g.uid = false →
        let st := (w.extractLsb' 8 6).toNat
        d.incFault f = none → w &&& 0xFFFFFFFFFFFFC0F8 = 0 → statFault d.parcel 28 st w = none → (u.pair (h.core / 2)).arrayFull h.core = false →
        d.issues (exec (.attmd f) s) u h f.pfx.rnd (.massDrain f.cap.toNat (g.cap f.cap.toNat) (w.extractLsb' 0 3).toNat st o) 0
          (if f.semv then some (f.sem.toNat, f.inc.toNat) else none)) ∧
      (let check (xs : List Src) : Option FaultInfo :=
         firstFault [c.incFault f, faultIf ((pathValue e xs 0).extractLsb' 0 19 ≠ 0 || 1 < kvMode (pathValue e xs 0) ||
           kvMassOp (pathValue e xs 0) = 3) (illegalOperand 6 28 (pathValue e xs 0).toNat), c.g.pushFault q 0x0A,
           (privateCause (c.g.cap f.cap.toNat) (rRead + rWrite) none).map fun x =>
             capabilityFault x f.cap.toNat (pathValue e xs 1).toNat ((lowest e).getD 0)]
       c.BeginsMtx { always := false, fence := true, pre := faultIf c.launch.hdr.sub (illegalOperand 6 56 0xC2), check := check }
        e true [] [⟨28, f.desc, .sl, 1⟩, ⟨5, f.arg, .sl, 1⟩] t g h xs u false →
        u.behind g.uid = false →
        (h.queueFull q = true → exec (.kvrs f) s = .next (slotEnd (.stop u g (.block (.queue q))))) ∧
        (h.queueFull q = false → ∃ x : QEntry, exec (.kvrs f) s = doneWith u (h.pushEntry q x) none none ∧
          x.cmd = some (.kvrs f.ty (g.cap f.cap.toNat) f.cap.toNat w o) ∧ x.semv = f.semv ∧ x.sem = f.sem.toNat ∧ x.inc = f.inc.toNat))

/-- R331, R335, R342, R350, R355, R431, R436: an operation of the array that is ready starts with the result of its operands, applies it,
and retires with its status entry and increment; an operation that hangs for 2^26 cycles, MXRST and the debug port reset the engine of a
pair, which clears its tiles and its queue and holds it until the reset is complete. -/
def Obligations.ArrayOperationsRunAndReset : Prop :=
  ∀ (s : State) (pair : Nat),
    (∀ (o : MtxOp) (t : State) (r : MtxResult), (s.pair pair).op? o.uid = some o → o.started = none → s.heldBy o.vf o.parked = false →
      (s.pair pair).reset = false → s.coreOn (2 * pair) = true → (s.pair pair).ready o = true →
      ((s.group? o.group).bind Group.lateMatrix) = none → s.mtxResult o = (t, .ok r) →
      exec (.mtxOpStart pair o.uid) s = .next (t.setPair pair ((t.pair pair).setOp { o with started := some s.cycles, res := some r }))) ∧
    (∀ (o : MtxOp) (r : MtxResult) (t : State), (s.pair pair).op? o.uid = some o → o.res = some r → s.heldBy o.vf o.parked = false →
      (o.applied = false → s.applyOp o r = .done t none none →
        exec (.mtxOpRetire pair o.uid) s = .next (t.setPair pair ((t.pair pair).setOp { o with applied := true, acks := 0 }))) ∧
      (o.applied = true → o.acks = 0 → o.status = none →
        exec (.mtxOpRetire pair o.uid) s =
          .next ((s.setPair pair ((s.pair pair).dropOp o.uid)).completion o.parcel o.semv o.sem o.inc)) ∧
      (∀ q gen, o.applied = true → o.acks = 0 → o.status = some (q, gen) → s.queueRoom o.group q gen 1 = true →
        exec (.mtxOpRetire pair o.uid) s =
          .next (((s.setPair pair ((s.pair pair).dropOp o.uid)).deliver o.group q gen
            [{ QEntry.ofScalar 0 with clause := o.clause, slot := o.slot }]).completion o.parcel o.semv o.sem o.inc))) ∧
    ((∃ o ∈ (s.pair pair).ops, ∃ t, o.started = some t ∧ t + 2 ^ 26 ≤ s.cycles) → exec (.matrixWatchdog pair) s = .next (s.resetPair pair 1)) ∧
    (s.control.debug = .invasive → pair < 96 → exec (.matrixResetCommand (.debugPort pair)) s = .next (s.resetPair pair 2)) ∧
    (∀ v : W64, s.control.mxrst.getLsbD 7 = false → (v.extractLsb' 0 7).toNat = pair → pair < 96 → v.getLsbD 63 = true →
      exec (.matrixResetCommand (.mxrst v)) s = .next (({ s with control := { s.control with mxrst := BitVec.ofNat 64 (pair + 128) } } : State).resetPair
        pair 2)) ∧
    ((s.pair pair).reset = true →
      ∃ t, exec (.matrixResetComplete pair) s = .next t ∧ (t.pair pair).reset = false ∧ t.mem = s.mem ∧
        ((s.control.mxrst.extractLsb' 0 7).toNat = pair → t.control.mxrst.getLsbD 7 = false)) ∧
    ((s.pair pair).ops = [] → (s.pair pair).cards = [] → ∀ cause,
      let t := s.resetPair pair cause
      (t.pair pair).acc = [] ∧ (t.pair pair).owner = none ∧ (t.pair pair).tags = [] ∧ (t.pair pair).ops = [] ∧ (t.pair pair).reset = true)

/-! ## Rendering opcodes -/

/-- R164, R356 to R361, R363: the generator opcodes answer the draw of a pixel and a dimension, RNGU two uniform numbers; RSVINIT, RSVUPD,
RSVMRG and RSVNRM replace the four registers of the destination of each executing lane by the record that R361 gives; the latch holds the
first of them, and nothing else of the group changes. R364, R371, R387: MOTV answers each lane's reprojected pixel and sets its mask where
that pixel is on the screen; HITUNP turns two 16-bit fractions into FP32 numbers; RAYORG moves a point along its normal; VISCLS answers each
triangle's area and sets its mask for the areas above 0 and below VISAREA; VISW writes VISAREA of the die and the function. -/
def Obligations.GeneratorAndPixelOpcodes : Prop :=
   (∀ (s : State) (c : Ctx) (f : VForm) (t : State) (g h : Group) (xs : List Src), s.runs c →
      let e := c.enabled f.pg f.pn
      let d := c.put t g
      let v (n : Nat) : Src := xs.getD n fun _ => 0
      (c.Begins { always := false } e false [dstOf f .vq] (usesOf f 2 .vsl) t g h xs → f.nw = false →
        exec (.rng f) s = d.lanesDone e f.dst f.nw f.pfx true h (fun l => d.launch.draw (v 0 l) (low32 (v 1 l))) ∧
        exec (.rngu f) s = d.lanesDone e f.dst f.nw f.pfx true h (fun l =>
          join32 (uniform (d.launch.draw (v 0 l) ((low32 (v 1 l) + 1) % 2 ^ 32))) (uniform (d.launch.draw (v 0 l) (low32 (v 1 l)))))) ∧
      (∀ r : BitVec 8, f.dst = .v r → ∀ (i : Instr) (srcs : List Use) (step : Nat → Reservoir → Reservoir),
        (i, srcs, step) ∈ [
          (Instr.rsvinit f, usesOf f 1 .vsl, fun l _ => Reservoir.init (low32 (v 0 l)) (f.x.extractLsb' 0 4).toNat),
          (.rsvupd f, [quadUse 27 f.sa, ⟨18, f.sb, .vsl, 1⟩], fun l a => a.update (.ofNat (g.quad f.sa l)) d.launch (v 1 l)),
          (.rsvmrg f, [quadUse 27 f.sa, ⟨18, f.sb, .vsl, 1⟩, ⟨9, f.sc, .vsl, 1⟩],
            fun l a => a.merge (.ofNat (g.quad f.sa l)) d.launch (v 1 l) (low32 (v 2 l))),
          (.rsvnrm f, [], fun _ a => a.normal)] →
        c.Begins { always := false } e false [quadUse 36 f.dst] (srcs ++ [quadUse 36 f.dst]) t g h xs → ∃ g' : Group,
        let new (l : Nat) : Nat := (step l (.ofNat (g.quad f.dst l))).toNat
        exec i s = doneWith t g' (some (laneTbl e fun l => BitVec.ofNat 64 (new l))) none ∧ { g' with v := h.v } = h ∧
        (∀ l, e.getLsbD l = true → g'.quad f.dst l = new l) ∧
        ∀ n l, l < 64 → (e.getLsbD l = false ∨ n < r.toNat ∨ r.toNat + 4 ≤ n) → g'.vreg n l = h.vreg n l)) ∧
   (∀ (s : State) (c : Ctx) (f : VForm) (t : State) (g h : Group) (xs : List Src), s.runs c → f.nw = false →
      let e := c.enabled f.pg f.pn
      let d := c.put t g
      let v (n : Nat) : Src := xs.getD n fun _ => 0
      let kd := xKD f.x
      (kd ≠ 0 → c.Begins { always := false } e false [dstOf f .onlyV] (usesOf f 3 .vsl) t g h xs →
        let sent (l : Nat) : Option W64 := reproject (v 0 l) (v 1 l) (v 2 l)
        let area (l : Nat) : Nat := triangleArea (area2
          { x := ((v 0 l).extractLsb' 0 32).toInt, y := ((v 0 l).extractLsb' 32 32).toInt, d := 0 }
          { x := ((v 1 l).extractLsb' 0 32).toInt, y := ((v 1 l).extractLsb' 32 32).toInt, d := 0 }
          { x := ((v 2 l).extractLsb' 0 32).toInt, y := ((v 2 l).extractLsb' 32 32).toInt, d := 0 })
        exec (.motv f) s = d.lanesDone e f.dst f.nw f.pfx true (h.setKreg kd e (maskOf e fun l => (sent l).isSome))
          (fun l => (sent l).getD 0) ∧
        exec (.viscls f) s = d.lanesDone e f.dst f.nw f.pfx true
          (h.setKreg kd e (maskOf e fun l => fLt 0 (area l) && fLt (area l) (t.visarea d.die d.vf).toNat))
          (fun l => BitVec.ofNat 64 (area l))) ∧
      (c.Begins { always := false } e false [dstOf f .onlyV] (usesOf f 1 .vslq) t g h xs →
        exec (.hitunp f) s = d.lanesDone e f.dst f.nw f.pfx true h fun l =>
          join32 (fRound (.fin false ((v 0 l).extractLsb' 48 16).toNat (-16))) (fRound (.fin false ((v 0 l).extractLsb' 32 16).toNat (-16)))) ∧
      (∀ r : BitVec 8, f.dst = .v r →
        c.Begins { always := false } e false [pairUse 36 f.dst] [pairUse 27 f.sa, pairUse 18 f.sb, pairUse 36 f.dst] t g h xs → ∃ g' : Group,
        let p (i l : Nat) : W64 := g.vreg (vregOf f.sa + i) l
        let n (i l : Nat) : W64 := g.vreg (vregOf f.sb + i) l
        let first (l : Nat) : W64 := join32 (rayOffset (high32 (p 0 l)) (high32 (n 0 l))) (rayOffset (low32 (p 0 l)) (low32 (n 0 l)))
        exec (.rayorg f) s = doneWith t g' (some (laneTbl e first)) none ∧ { g' with v := h.v } = h ∧
        ∀ l, e.getLsbD l = true → g'.vreg r.toNat l = first l ∧
          g'.vreg (r.toNat + 1) l = join32 (high32 (g.vreg (r.toNat + 1) l)) (rayOffset (low32 (p 1 l)) (low32 (n 1 l)))) ∧
      (let val (xs : List Src) : W64 := (xs.headD fun _ => 0) ((lowest e).getD 0)
       c.Begins { always := false, pre := c.subRefusal 0xDF, check := fun xs => faultIf (high32 (val xs) ≠ 0) (illegalOperand 6 27 (val xs).toNat) }
        e false [] (usesOf f 1 .sl) t g h xs false → ∃ t',
        exec (.visw f) s = doneWith t' h none none ∧ t'.visarea d.die d.vf = (val xs).setWidth 32 ∧
        (∀ n m, (n ≠ d.die ∨ m ≠ d.vf) → t'.visarea n m = t.visarea n m) ∧ t'.mem = t.mem))

/-- R33, R100, R101, R362: the store opcodes. RSVLD leaves a pending write with the records of its lanes' pixels, an empty record where no
die owns the tile, and where a neighbour's store holds one its flit takes the links there and back in the control class; RSVST, RSVCLR and
RSVCPY write the records of the executing lanes into the store of their own die, in the slot of the frame's parity that the variant names,
after the lanes' loads, RSVCPY once its reads of other dies' stores can cross the links; a pixel outside the rectangle is the capability fault with cause 7, and a
subdivisible parcel may not write. -/
def Obligations.ReservoirStoreComplete : Prop :=
  ∀ (s : State) (c : Ctx) (f : VForm) (t : State) (g h : Group) (xs : List Src), s.runs c →
    let e := c.enabled f.pg f.pn
    let d := c.put t g
    let v (n : Nat) : Src := xs.getD n fun _ => 0
    let vf := d.vf
    let k (prev : Bool) : Nat := (d.launch.frame.toNat + if prev then 1 else 0) % 2
    let put (u : State) (p : Src) (prev : Bool) (x : Nat → Nat) : State :=
      (lanes e).foldl (fun s l => s.rsvWrite d.die vf ((s.rect d.die vf).byte (p l) (k prev)) (x l)) u
    let start (op : Nat) : Start := { always := false, pre := if c.launch.hdr.sub then some (illegalOperand 6 56 op) else none }
    let inside (p : Src) : Prop := ∀ l, e.getLsbD l = true → (t.rect d.die vf).has (pixX (p l) / 16) (pixY (p l) / 16) = true
    (c.Begins { always := false } e false [quadUse 36 f.dst] (usesOf f 1 .vsl) t g h xs →
      let src : List (Nat × LaneSource) := (lanes e).map fun l => (l, match t.rsvPlace d.die vf (v 0 l) (k (f.var = 1)) with
        | .at n b => .reservoir vf n b
        | _ => .value [0, 0, 0, 0])
      (∀ l, e.getLsbD l = true → t.rsvPlace d.die vf (v 0 l) (k (f.var = 1)) ≠ .outside) → h.loads < Config.loadLimit →
      (t.loadWays h src).all t.roomOn = true → ∃ p : Pending,
      exec (.rsvld f) s = doneWith ((t.loadWays h src).foldl (fun s w => s.sendFlit t.uid w) t.fresh.1)
        { h with pending := h.pending ++ [p] } (some []) none ∧ p.uid = t.uid ∧ p.dst = .vregs (vregOf f.dst) 4 ∧ p.lanes = src) ∧
    (g.loadsOf e = false →
      (c.Begins (start 0xD7) e false [] [quadUse 27 f.sa, ⟨18, f.sb, .vsl, 1⟩] t g h xs false → inside (v 1) →
        exec (.rsvst f) s = doneWith (put t (v 1) (f.var = 1) fun l => (Reservoir.ofNat (g.quad f.sa l)).toNat) h none none) ∧
      (c.Begins (start 0xE3) e false [] (usesOf f 2 .vsl) t g h xs false → inside (v 0) →
        exec (.rsvclr f) s = doneWith (put t (v 0) (f.var = 1) fun l =>
          (Reservoir.init (low32 (v 1 l)) (f.x.extractLsb' 0 4).toNat).toNat) h none none) ∧
      (c.Begins (start 0xE6) e false [] (usesOf f 2 .vsl) t g h xs false → inside (v 0) →
        (∀ l, e.getLsbD l = true → t.rsvPlace d.die vf (v 1 l) (k true) ≠ .outside ∧
          ∀ n b, t.rsvPlace d.die vf (v 1 l) (k true) = .at n b → t.rsvPoisoned n vf b = false) →
        ∀ u, crossHalo d.die ((lanes e).map fun l => t.rsvPlace d.die vf (v 1 l) (k true)) t = some u →
        exec (.rsvcpy f) s = doneWith (put u (v 0) false fun l =>
          (Reservoir.ofNat (t.rsvRead vf (t.rsvPlace d.die vf (v 1 l) (k true)))).older.toNat) h none none)) ∧
    (∀ l, lowest e = some l → c.Begins (start 0xD7) e false [] [quadUse 27 f.sa, ⟨18, f.sb, .vsl, 1⟩] t g h xs false →
      (t.rect d.die vf).has (pixX (v 1 l) / 16) (pixY (v 1 l) / 16) = false →
      exec (.rsvst f) s = .next (slotEnd (.stop t g (.trap (rectFault l (v 1 l))))))

/-- R365 to R368, R373: SCNBIND and LTSET attach a scene or a tree, read and checked, to a bound queue; RAYQ, RAYS and LTSMP push the four
registers of a request as four entries at once, the first with the command; a queue without room makes the slot wait. R376, R382, R383,
R388, R389: REUSE, GFEMB and GFEDEPTH read and check their descriptor and push one command for their engine; SMPBIND reads a texture
descriptor, checks its region and puts the texture into a sampler; SMPT and SMPB resolve the texels that every lane needs, read them over
the links where they are away, and leave a pending write with the lane's sample. -/
def Obligations.SceneAndRenderingCommands : Prop :=
   (∀ (s : State) (c : Ctx) (f : QForm) (t : State) (g h : Group) (xs : List Src), s.runs c →
      let e := c.enabled f.pg f.pn
      let l := (lowest e).getD 0
      let q := f.qd.toNat
      let d := c.put t g
      (∀ (i : Instr) (port : Nat) (read : Ctx → Nat → Nat → Nat → FaultInfo → State × Except Stop Attached),
        (i, port, read) ∈ [(Instr.scnbind f, 5, fun c r o l x => c.attachScene r o l x), (.ltset f, 8, fun c r o l x => c.attachTree r o l x)] →
        let at' (xs : List Src) : Nat := ((xs.headD fun _ => 0) l).toNat
        c.Begins { always := false, access := true, check := fun xs =>
            (faultIf (at' xs % 32 ≠ 0) (illegalOperand 6 28 (at' xs))).or (c.g.inputFault q port) }
          e false [] [⟨28, f.desc, .sl, 1⟩] t g h xs false →
        ∀ u a, read d f.cap.toNat (at' xs) l (illegalOperand 6 28 (at' xs)) = (u, .ok a) →
          exec i s = doneWith u (h.setQueue q { h.queue q with scene := some a }) none none) ∧
      (∀ (i : Instr) (port : Nat) (flags trap : W64 → Option FaultInfo) (cmd : W64 → Attached → Cmd),
        let rayFlags (any : Bool) (w : W64) : Option FaultInfo := if w >>> 2 ≠ 0 || (any && w.getLsbD 1) then some (illegalOperand 6 5 w.toNat) else none
        let rayTrap (w : W64) : Option FaultInfo := if !w.getLsbD 0 then none
          else ((lanes e).find? fun l => (c.g.rayOf f.desc l).invalid).map fun l => .mk' 0x0013 0 0 0 0 l
        (i, port, flags, trap, cmd) ∈ [(Instr.rayq f, 5, rayFlags false, rayTrap, fun w a => Cmd.ray false w a),
          (.rays f, 5, rayFlags true, rayTrap, fun w a => .ray true w a),
          (.ltsmp f, 8, fun _ => faultIf f.arg.unused (illegalOperand 3 5 0), fun _ => none, fun w a => .light (w.setWidth 32) a)] →
        let value (xs : List Src) : W64 := if f.arg.unused then 0 else (xs.getD 1 fun _ => 0) l
        c.Begins { always := false, access := true, check := fun xs => (flags (value xs)).or ((c.g.inputFault q port).or
            ((if (c.g.queue q).scene.isNone then some (illegalOperand 6 posQd q) else none).or ((c.g.pushFault q port).or (trap (value xs))))) }
          e false [] (quadUse 28 f.desc :: if f.arg.unused then [] else [⟨5, f.arg, .sl, 1⟩]) t g h xs false →
        t.behind g.uid = false → ∀ a, (h.queue q).scene = some a →
        (Config.queueDepth < (h.queue q).entries.length + 4 → exec i s = .next (slotEnd (.stop t g (.block (.queue q))))) ∧
        ((h.queue q).entries.length + 4 ≤ Config.queueDepth → ∃ (g' : Group) (es : List QEntry),
          exec i s = doneWith t g' none none ∧ (g'.queue q).entries = (h.queue q).entries ++ es ∧ es.length = 4 ∧
          (es.map fun x => x.cmd) = [some (cmd (value xs) a), none, none, none] ∧ { g' with queues := h.queues } = h ∧
          ∀ n x, es[n]? = some x → x.mask = e ∧ ∀ l, e.getLsbD l = true → x.at l = g.vreg (vregOf f.desc + n) l))) ∧
   (∀ (s : State) (c : Ctx) (t : State) (g h : Group) (xs : List Src), s.runs c →
      let d := c.put t g
      (∀ f : QForm,
        let e := c.enabled f.pg f.pn
        let l := (lowest e).getD 0
        let q := f.qd.toNat
        let reg := f.cap.toNat
        let k := g.cap reg
        let off (xs : List Src) : Nat := ((xs.headD fun _ => 0) l).toNat
        let pushes (i : Instr) (u : State) (cmd : Cmd) (semv : Bool) (sem inc : Nat) : Prop := ∃ x : QEntry,
          exec i s = doneWith u (h.pushEntry q x) none none ∧ x.cmd = some cmd ∧ x.semv = semv ∧ x.sem = sem ∧ x.inc = inc
        (c.Begins { always := false, access := true, check := fun xs =>
            firstFault [faultIf (off xs % 64 ≠ 0) (illegalOperand 6 28 (off xs)), c.incFault f, c.g.pushFault q 7] }
            e false [] [⟨28, f.desc, .sl, 1⟩] t g h xs false → t.behind g.uid = false → h.queueFull q = false →
          ∀ (u u2 u3 : State) (bs : List Byte) (scene : Attached) (count : Nat) (cid : Nat) (entry : W32) (body : List (List W64)),
            let w := BitVec.ofNat 512 (natOfBytes bs)
            d.readDescriptor false reg k (rRead + rEngine) (k.offset + off xs) 64 1 l = (u, .ok bs) →
            ({ d with s := u } : Ctx).attachScene reg (ruScene w) l (capabilityFault 1 reg (k.offset + ruScene w) l) = (u2, .ok scene) →
            (u2.rect d.die d.vf).has (ruTx w) (ruTy w) = true →
            (d.launch.image.find? fun x => x.1 = ruCid w) = some (cid, count, entry) →
            readBody g.core d.vf d.launch.text d.launch 65 entry.toNat count u2 = (u3, .ok (some body)) →
            ruShapeFault d.parcel w (off xs) = none →
            pushes (.reuse f) u3 (.reuse k w d.p.fmt scene body) f.semv f.sem.toNat f.inc.toNat) ∧
        (c.Begins { always := false, access := true, pre := c.subRefusal 0xDE, check := fun xs =>
            firstFault [faultIf (off xs % 64 ≠ 0) (illegalOperand 6 28 (off xs)), c.incFault f, c.g.pushFault q 0x0E] }
            e false [] [⟨28, f.desc, .sl, 1⟩] t g h xs false → t.behind g.uid = false → h.queueFull q = false →
          ∀ u w, d.gfDescriptor reg (off xs) l gfWellFormed gfRegions (illegalOperand 6 28 (off xs)) = (u, .ok w) →
            pushes (.gfemb f) u (.gfemb k w (u.visarea d.die d.vf)) f.semv f.sem.toNat f.inc.toNat) ∧
        (let val (n : Nat) (xs : List Src) : Nat := ((xs.getD n fun _ => 0) l).toNat
         c.Begins { always := false, check := fun xs =>
            firstFault [faultIf (val 0 xs % 32 ≠ 0) (illegalOperand 6 28 (val 0 xs)), faultIf (15 < val 1 xs) (illegalOperand 6 5 (val 1 xs))] }
            e false [] [⟨28, f.desc, .sl, 1⟩, ⟨5, f.arg, .sl, 1⟩] t g h xs false →
          ∀ u bs x u2 va, d.readDescriptor false reg k rRead (k.offset + val 0 xs) 32 1 l = (u, .ok bs) →
            textureOf k (natOfBytes bs) = some x →
            d.regionOk u reg k rRead (k.offset + x.offset) (x.hm1 * x.pitch + (x.wm1 + 1) * 8) l = (u2, .ok va) →
            exec (.smpbind f) s = doneWith u2 { h with samplers := Tbl.put none h.samplers (val 1 xs) (some x) } none none)) ∧
      ∀ f : VForm,
        let e := c.enabled f.pg f.pn
        let l := (lowest e).getD 0
        (∀ n : BitVec 4, f.dst = .q n →
          let reg := (f.x.extractLsb' 0 4).toNat
          let off (xs : List Src) : Nat := ((xs.headD fun _ => 0) l).toNat
          c.Begins { always := false, access := true, port := 0x0E, pre := c.subRefusal 0xE8,
                     check := fun xs => faultIf (off xs % 64 ≠ 0) (illegalOperand 6 27 (off xs)) }
            e false [dstOf f .onlyQ] (usesOf f 1 .sl) t g h xs false → t.behind g.uid = false → h.queueFull n.toNat = false →
          ∀ u w, d.gfDescriptor reg (off xs) l gfWellFormed (fun w => [gfBuffer w, gfPyramid w])
              (illegalOperand 6 27 (off xs)) = (u, .ok w) → ∃ x : QEntry,
            exec (.gfedepth f) s = doneWith u (h.pushEntry n.toNat x) none none ∧ x.cmd = some (.gfedepth (g.cap reg) w) ∧ x.semv = false) ∧
        ∀ (i : Instr) (taps : Texture → W64 → List Tap) (combine : ElemType → List (Nat × W64) → W64) (x : Texture),
          (i, taps, combine) ∈ [(Instr.smpt f, Texture.pointTaps, fun _ xs => ((xs.head?).map fun x => x.2).getD 0),
            (.smpb f, Texture.bilinearTaps, filterWord)] →
          let n := (f.x.extractLsb' 0 4).toNat
          Tbl.get none c.g.samplers n = some x → x.ty = f.ty →
          c.Begins { always := false, pre := faultIf (x.ty ≠ f.ty) (illegalOperand 6 0 n) } e false [dstOf f .vq] (usesOf f 1 .vsl) t g h xs →
          let per := (lanes e).map fun l => (l, taps x ((xs.headD fun _ => 0) l))
          ∀ u as, d.resolve .read 0 x.cap rRead 8 8
              ((per.map fun y => y.2.filterMap fun p => p.place.map fun b => (y.1, x.cap.offset + b)).flatten) = (u, .ok as) →
            h.loads < Config.loadLimit → ∀ w, u.readNow h true clsControl 8 as = .ok w →
              ∃ u2 src, ∃ p : Pending, d.sampleLanes (combine x.ty) as w per = (u2, src) ∧
              exec i s = doneWith u2.fresh.1 { h with pending := h.pending ++ [p] } (some []) none ∧ p.kind = .load ∧ p.lanes = src ∧
              src.map Prod.fst = lanes e ∧ u2.mem = u.mem)

/-! ## Events: issue, results and homes -/

/-- R34, R36, R37, R104, R200, R218: a ready path whose clause has been fetched and decodes, whose header waits hold and whose turn it is
issues where an issue slot of its core takes it: the group begins the clause in slot 0 with empty latches, and the path's clause count
rises; a semaphore wait ends the quantum and acquires first. A path that no slot takes, that is not in its turn or whose group has a
quantum of 256 clauses to end does not issue. R26, R34, R201, R111, R298, R320: a quantum of 256 clauses ends; a subdivisible parcel whose
allowance is due aborts with trigger 4, and it is due once the cycles that pass use the allowance up; a path that has been ready for 256 cycles is aged; a blocked slot runs again once what it waits for has come, and a sleeping
group once its time has come. -/
def Obligations.ClausesBeginAndWaitsEnd : Prop :=
   (∀ (s t v u : State) (x y : Group) (k : PathSlot) (p q : Path) (w : W64) (ws : List W64) (is : List ClauseSlot),
      s.group? x.uid = some x → x.path? k = some p → s.stopsAt x k p = none → s.candidate x p = true →
      s.fetchClause x p.pc = (t, .ok (w, ws)) → decodeClause (t.launchOf x).hdr.safe.length w ws = .ok is →
      let h := Header.ofWord w
      (x.outOfTurn k = true ∨ x.atLimit = true ∨ t.slotTakes x k p = false ∨ (h.cls = 5 ∧ t.arrayBusy x = true) →
        exec (.clauseIssue x.uid k) s = .next (t.setGroup x)) ∧
      ((p.ready.isSome = true ∨ t.waitsHold x h = true) → x.outOfTurn k = false → x.atLimit = false → t.slotTakes x k p = true →
      (h.cls = 5 → t.arrayBusy x = false) → x.unboundWait h = none → (h.cls = 5 → x.lateMatrix = none) →
      (h.wsem = 0 ∧ u = t ∧ y = x ∧ q = p ∨
        h.wsem ≠ 0 ∧ h.wsem.toNat ≤ (t.launchOf x).hdr.sems ∧ t.quantumEnd x k = .ok v y ∧ y.lateSem (h.wsem.toNat - 1) = none ∧
          u = v.acquire y 6 ∧ y.path? k = some q) →
      exec (.clauseIssue x.uid k) s = .next
        { u.fresh.1.setGroup { y.setPath k (some { q with qcnt := q.qcnt + 1, ready := none, aged := false, waits := 0 }) with
            run := some { id := u.uid, path := k, clause := q.pc, header := w, words := slotWords h ws, idx := 0, latches := [], valid := 0,
                          leaving := none, woken := false, noMatch := false } } with
          active := u.active ++ [y.uid] })) ∧
   (∀ s : State,
      (∀ (x y : Group) (k : PathSlot) (p : Path) (t : State), s.group? x.uid = some x → x.path? k = some p → x.status = .ready →
        x.run = none → 256 ≤ p.qcnt → s.quantumEnd x k = .ok t y → exec (.quantumClauseLimit x.uid k) s = .next (t.setGroup y)) ∧
      (∀ p : Parcel, s.parcel? p.uid = some p → (s.launchFor p).hdr.sub = true →
        (p.state = .running ∨ (∃ n, p.state = .saving n) ∨ (∃ n, p.state = .saveRoutines n) ∨ p.state = .retiring 1) →
        (p.due = true → exec (.allowanceExpiry p.uid) s = .next (s.abortParcel p.uid 4)) ∧
        (∀ cycles ns, (∀ q ∈ s.parcels, q.due = false) → (s.launchFor p).hdr.allowM1 < p.elapsed + cycles → ∃ q : Parcel,
          (s.passTime cycles ns).parcel? p.uid = some q ∧ q.due = true ∧ q.elapsed = (s.launchFor p).hdr.allowM1)) ∧
      (∀ (x : Group) (k : PathSlot) (p : Path) (n : Nat), s.group? x.uid = some x → x.path? k = some p → p.ready = some n →
        n + 256 ≤ s.cycles → s.candidate x p = true →
        exec (.candidateAged x.uid k) s = .next (s.setGroup (x.setPath k (some { p with aged := true })))) ∧
      (∀ (x : Group) (w : Wait), s.group? x.uid = some x → x.status = .waiting w → s.coreOn x.core = true → s.waitOver x w = true →
        exec (.blockedSlotResume x.uid) s = .next (s.wake x.uid w.isWake)) ∧
      (∀ (x : Group) (n : W64), s.group? x.uid = some x → x.status = .waiting (.time n) → s.coreOn x.core = true → n ≤ s.time →
        exec (.sleeptWake x.uid) s = .next (s.wake x.uid true)) ∧
      (∀ (x : Group) (r : ClauseRun) (b : Bool), s.group? x.uid = some x → x.run = some r → s.active.contains x.uid = false →
        s.wake x.uid b =
          { s.setGroup { x with status := .ready, run := some { r with woken := r.woken || b } } with active := s.active ++ [x.uid] }))

/-- R263, R281, R427: a pending load whose lanes have their data writes its destination and its latch and is pending no longer; the results
of the special-function unit do so in the order of issue, a lane outside the write mask keeping its register or taking 0 as the zero policy
says (R246); data that cannot be had faults, and the good lanes are written. -/
def Obligations.ResultsReachTheirRegisters : Prop :=
  ∀ (s t : State) (g : Group) (p : Pending) (r : List (Nat × Except FaultInfo (List W64))), s.group? g.uid = some g →
    s.coreOn g.core = true → lanesData g p { s with flits := s.flits.filter fun f => f.uid ≠ p.uid } p.lanes = (t, r) →
    let h := (g.receive p (goodLanes r)).receiveLatch p (goodLanes r)
    let h := { h with pending := h.pending.filter fun x => x.uid ≠ p.uid }
    let fault := r.findSome? fun x => match x.2 with | .error f => some f | .ok _ => none
    let after := (match fault with
      | some f => t.dataFault h f p.clause p.slot
      | none => t.setGroup h).settleStop h.uid
    (∀ i, g.pending[i]? = some p → p.kind ≠ .sfu → p.lanes.all (s.laneArrives g p (g.pending.take i)) = true →
      exec (.loadResult g.uid i) s = .next after) ∧
    (g.pending.find? (fun q => q.kind = .sfu) = some p → exec (.sfuResult g.uid) s = .next after) ∧
    (∀ n m, p.dst = .vregs n m → ∀ l j, l < 64 → j < m → (p.lanes.map fun x => x.1).Nodup → (∀ x ∈ p.lanes, x.1 < 64) →
      (∀ ws, (l, Except.ok ws) ∈ r → h.vreg (n + j) l =
        if p.keeps.getLsbD l then g.vreg (n + j) l else if p.zeros.getLsbD l then 0 else ws.getD j 0) ∧
      ((∀ ws, (l, Except.ok ws) ∉ r) → h.vreg (n + j) l = g.vreg (n + j) l)) ∧
    (∀ n, p.dst = .sreg n → ∀ y ys, goodLanes r = y :: ys → h.sreg n = y.2.headD 0)

/-- R52, R157, R162, R292, R298, R395, R401, R427, R432: an operation that has reached its home slice, with none of its sender's before it
that it must follow, takes effect there, or is answered in error where the home is held; a counted one is acknowledged; the acknowledgement
lowers its group's count; the oldest WAITC that waits for the watch table registers or goes on; an atomic that finds poisoned data changes
nothing and its lane gets the data-poison fault (R106); a flit enters the class queue of its first direction, and a class that begins to
wait takes the higher of its own pass and the lowest of those that wait; and a link direction carries the oldest flit of the waiting class
with the lowest pass whose next queue has room, and that class's pass rises by its stride modulo 2^16. -/
def Obligations.OperationsReachTheirHomes : Prop :=
  (∀ (s : State) (n : Nat) (o : HomeOp), s.net[n]? = some o → (s.net.take n).any o.after = false →
    let t := { s with net := s.net.eraseIdx n }
    (s.deadHome o.cell = true → s.countFull n o = false → exec (.homeSliceWrite n) s = .next (t.refuseHome o)) ∧
    (s.deadHome o.cell = false → s.arrived o = true → s.countFull n o = false → ∀ bs, o.kind = .write bs →
      let u := (t.applyWrite o.cell o.hint bs).l1Follows o
      exec (.homeSliceWrite n) s = .next (if o.counted then u.sendAck (u.ackOf o false) o.fromDie else u) ∧
      u.mem = Memory.writeN s.mem o.cell bs) ∧
    (s.deadHome o.cell = false → s.arrived o = true → s.countFull n o = false → ∀ ty op x y w, o.kind = .atomic ty op x y w →
      (∀ bad g pend z, t.badData o.cell o.size o.lane o.va = some bad → w = some (g, pend) → s.group? g = some z →
        ∃ u' z', exec (.homeSliceWrite n) s = .next u' ∧ u'.mem = s.mem ∧ u'.group? g = some z' ∧
          ∀ q ∈ z'.pending, q.uid = pend → ∀ e ∈ q.lanes, e.1 = o.lane → e.2 = .failed bad) ∧
      (t.badData o.cell o.size o.lane o.va = none → ∃ u old, t.applyAtomic o.cell ty op x y = (u, old) ∧ ∃ u', exec (.homeSliceWrite n) s = .next u' ∧ u'.mem = u.mem ∧
        (∀ g pend z, w = some (g, pend) → s.group? g = some z →
          ∃ z', u'.group? g = some z' ∧ ∀ q ∈ z'.pending, q.uid = pend → ∀ e ∈ q.lanes, e.1 = o.lane → e.2 = .value [extendLoad ty old])))) ∧
  (∀ (s : State) (n u : Nat) (a : Ack) (g : Group), s.acks[n]? = some a → s.ackArrived a = true → a.sender = .group u →
    s.group? u = some g →
    exec (.ackReturn n) s = .next (({ s with acks := s.acks.eraseIdx n } : State).setGroup
      { g with acks := g.acks - 1, late := if a.error then g.late ++ [a.late] else g.late })) ∧
  (∀ (s : State) (die slice : Nat) (w : Watch) (ws : List Watch), ((s.die die).slice slice).queued = w :: ws →
    ((s.die die).slice slice).watches.length < 1024 →
    let x := (s.die die).slice slice
    let put (y : Slice) : State := s.setDie die ((s.die die).setSlice slice y)
    (watchHolds s.mem w = true → exec (.watchTableRetry die slice) s = .next ((put { x with queued := ws }).wakeFrom die w)) ∧
    (watchHolds s.mem w = false → ∀ g, s.group? w.group = some g →
      exec (.watchTableRetry die slice) s =
        .next ((put { x with queued := ws, watches := x.watches ++ [w] }).setGroup { g with status := .waiting .watch }))) ∧
  (∀ (s : State) (n c : Nat) (f : Flit), n < 32 → s.dirOpen n = true → (s.queueAt n c).head? = some f →
    lowestClass (s.linkDir n).pass ((s.waitingAt n).filter (s.canCross n)) = some c →
    ∃ t, exec (.linkFlitSend n) s = .next t ∧ t.mem = s.mem ∧ (t.linkDir n).sent = (s.linkDir n).sent + 1 ∧
      t.flits = s.flits.erase f ++ (if f.hops.tail = [] then [] else [{ f with hops := f.hops.tail }]) ∧
      ((∀ d, f.hops.tail.head? ≠ some (n, d)) → (t.linkDir n).pass = passAfter (s.linkDir n).pass c)) ∧
  (∀ (s : State) (u n c : Nat) (w : List (Nat × Nat)),
    let t := s.sendFlit u ((n, c) :: w)
    t.flits = s.flits ++ [{ uid := u, hops := (n, c) :: w }] ∧ t.mem = s.mem ∧
    (s.queueAt n c = [] → (t.linkDir n).pass = beginWaiting (s.linkDir n).pass (s.waitingAt n) c) ∧
    (s.queueAt n c ≠ [] → t.linkDir n = s.linkDir n)) ∧
  (∀ (s : State) (u : Nat) (pass : Tbl Nat) (c : Nat),
    (s.flitsIn u = true ↔ ∀ f ∈ s.flits, f.uid ≠ u) ∧
    Tbl.get 0 (passAfter pass c) c = (Tbl.get 0 pass c + strideOf c) % 2 ^ 16 ∧
    (∀ d, d ≠ c → Tbl.get 0 (passAfter pass c) d = Tbl.get 0 pass d)) ∧ strideOf 0 = 12 ∧ strideOf 1 = 4 ∧ strideOf 2 = 3

/-! ## Events: launches, parcels, beats, engines and cards -/

/-- R120: the distributor takes the entry at the consumer index, gives the launch the function's next number, and accepts it with what its
metadata says, or posts the launch-refused record with CAUSE and ARG1 and drops it; an accepted launch whose lease pages are all there is
placed next, its ranges standing in the function's lease table. R128: the entry is read over the links to its home, and the distributor
waits while one carries nothing. -/
def Obligations.LaunchIsAcceptedOrRefused : Prop :=
  (∀ (s : State) (vf n : Nat), s.enabled = true → vf < 64 → n < 8 → (s.vf vf).resetting = false → s.acceptingLaunch vf n = none →
    let q := (s.vf vf).queue n
    let cell := ringCell q.cfg q.cons.toNat 512
    ringOn q.cfg = true → q.prod ≠ q.cons → cellExists cell 512 = true →
    (s.net.any fun o => o.cell < cell + 512 && cell ≤ o.cell) = false →
    (s.entryCrosses cell = none → exec (.launchAccept vf n) s = .next s) ∧
    ∀ x, s.entryCrosses cell = some x →
    let l : Launch := { Launch.blank with uid := s.uid, vf := vf, queue := n, num := (s.vf vf).number, entry := Memory.readN s.mem cell 512,
                                          state := .accepting none }
    let t := x.fresh.1.setVf vf ({ s.vf vf with number := (s.vf vf).number + 1 }.setQueue n { q with cons := q.cons + 1 })
    let u := { t with launches := t.launches ++ [l] }
    (∀ m, u.judge l = .ok m → exec (.launchAccept vf n) s = .next (u.setLaunch m)) ∧
    (∀ cause arg, u.judge l = .error (.refuse cause arg) →
      let v := { u with launches := u.launches.filter fun x => x.uid ≠ l.uid }
      exec (.launchAccept vf n) s =
        .next (((v.post (v.launchRecord l (.mk' 0x0025 cause (entryField l.entry 8 2) arg) 1)).1).noteBacklog vf n))) ∧
  ∀ (s : State) (vf n : Nat) (l : Launch), s.acceptingLaunch vf n = some l → l.state = .filling none → l.vf = vf → l.queue = n →
    (s.vf vf).leases.any (fun e => e.1 = l.uid) = false → (s.vf vf).leases.length + l.leases.length ≤ 256 →
    let t := s.setVf vf { s.vf vf with leases := (s.vf vf).leases ++ l.leases.map fun r => (l.uid, r) }
    (∀ r ∈ l.leases, r.absent t vf = none) → exec (.launchAccept vf n) s = .next ((t.setLaunch { l with state := .placing }).noteBacklog vf n)

/-- R161, R411, R412, R413: a core whose free resources differ from its last report, or the free pinned units of its die from the last one of the die, reports them, no sooner than 256 cycles after it; the
eligible queue with the lowest pass hands its next parcel out; a core sets the share of a stake aside; a refused placement tries again after
64 cycles, doubled with each attempt; and with every stake accepted the parcel is placed and the queue's pass rises by 2^22 / TICKET. R20,
R21, R43, R63, R90: a placed group holds its launched lanes, those of its number in the parcel; it starts at the kernel's entry with s0 to
s15 the arguments, c0 to c14 the capabilities and c15 the private object; every other register is zero and every queue unbound. R315, R396:
before a parcel's first instruction the L1s of its cores hold no line of memory, so that it sees what was released to it. R128: reports, stakes
and commits go as control traffic, and wait while a link holds it. -/
def Obligations.ParcelsArePlacedAndStart : Prop :=
   (∀ s : State,
      (∀ n : Nat, ((s.core n).resources ≠ (s.core n).reported ∨ (s.die (n / 48)).freeUnits ≠ (s.die (n / 48)).reportedPool) → (s.die (n / 48)).held = false →
        (∀ t, (s.core n).lastReport = some t → t + 256 ≤ s.cycles) →
        ∀ u, s.crossNow clsControl (toControl (n / 48)) = some u →
          exec (.resourceReport n) s =
            .next ((u.setDie (n / 48) { s.die (n / 48) with reportedPool := (s.die (n / 48)).freeUnits }).setCore n
              { s.core n with reported := (s.core n).resources, lastReport := some s.cycles })) ∧
      (∀ (vf n : Nat) (x : NextParcel) (cs : List Nat), s.placements.length < 16 → s.enabled = true → s.pickQueue = some (vf, n) →
        s.eligible vf n = some (x, cs) →
        ∃ p : Placement, exec .dispatch s =
            .next (let t := (s.takeParcel vf n x).fresh.1; { t with placements := t.placements ++ [p] }) ∧
          p.vf = vf ∧ p.queue = n ∧ p.launch = x.launch.uid ∧ p.box = x.box ∧ p.cores = cs ∧ p.staked = [] ∧ p.refused = false ∧
          p.attempt = 0) ∧
      (∀ (p : Placement) (core : Nat) (t : State), s.placement? p.uid = some p → s.placementOver p = false → p.refused = false →
        p.cores.contains core = true → p.staked.contains core = false → s.earlierStake p core = false →
        let k := p.kernel ((s.launch? p.launch).getD Launch.blank)
        ∀ u, s.crossNow clsControl (fromControl (core / 48)) = some u →
        (u.coreOpen core = true → u.setAside k p.uid core (core = p.cores.headD 0) = some t →
          exec (.stake p.uid core) s = .next (t.setPlacement { p with staked := p.staked ++ [core] })) ∧
        (u.coreOpen core = false ∨ u.setAside k p.uid core (core = p.cores.headD 0) = none →
          exec (.stake p.uid core) s = .next (u.refuseStake p k))) ∧
      (∀ p : Placement, s.placement? p.uid = some p → s.placementOver p = false → p.refused = true → p.attempt < 15 →
        p.since + 64 * 2 ^ p.attempt ≤ s.cycles →
        let l := (s.launch? p.launch).getD Launch.blank
        exec (.stakeRetry p.uid) s =
          .next (s.nextAttempt p ((s.chooseCores (p.kernel l) p.uid ((p.restore.bind s.parcel?).map fun x => x.core)).getD p.cores))) ∧
      (∀ (p : Placement) (l : Launch), s.placement? p.uid = some p → s.placementOver p = false → p.refused = false →
        p.cores.all (fun c => p.staked.contains c) = true → p.restore = none → s.launch? p.launch = some l →
        ∀ u, s.crossNow clsControl (fromControl (p.cores.headD 0 / 48)) = some u →
          exec (.placementCommit p.uid) s = .next ((({ u with placements := u.placements.filter fun x => x.uid ≠ p.uid } : State).countDispatch
            p.vf p.queue).placeParcel l p.box p.uid (p.cores.headD 0))) ∧
      (∀ (l : Launch) (b : Box) (u core : Nat), ∀ c ∈ l.hdr.cores core, ∀ x ∈ ((s.placeParcel l b u core).core c).l1, x.owner ≠ none) ∧
      ∀ (vf n : Nat) (q : LaunchQueue), (s.vf vf).queue n = q →
        (s.countDispatch vf n).control.dispatched = s.control.dispatched + 1 ∧
        (((s.countDispatch vf n).vf vf).queue n).pass = (q.pass + 2 ^ 22 / q.ticket) % 2 ^ 40) ∧
   (∀ (l : Launch) (uid parcel i core place : Nat), l.args.length = 16 → l.caps.length = 15 →
      let g := l.group uid parcel i core place
      let m := lowMask (min l.hdr.width (l.hdr.lanes - i * l.hdr.width))
      g.launched = m ∧ g.p0 = some (Path.at l.hdr.entry m none l.hdr.fmt) ∧ g.p1 = none ∧ g.stack = 0 ∧ g.allot = l.hdr.allot ∧
      g.width = l.hdr.width ∧ g.run = none ∧ g.status = .ready ∧
      (∀ n, n < 16 → g.sreg n = l.args.getD n 0) ∧ (∀ n, 16 ≤ n → g.sreg n = 0) ∧
      (∀ n, n < 15 → g.cap n = l.caps.getD n Cap.clear) ∧ g.cap 15 = l.hdr.privateCap ∧
      (∀ r x, g.vreg r x = 0) ∧ ∀ n, n < 16 → (g.queue n).entries = [] ∧ bindValid (g.queue n).binding = false)

/-- R24, R25, R117, R143: a parcel whose groups have all ended commits their buffered stores; its log is applied as one indivisible update;
its launches are issued in order, those whose ring is homed elsewhere counted (R157, R158); once everything is acknowledged it gives its
reservation back and is gone; and a launch with nothing left to place or run completes and its leases end. -/
def Obligations.ParcelsRetire : Prop :=
  ∀ s : State,
    (∀ (p q : Parcel) (t u : State), s.parcel? p.uid = some p → p.state = .running → s.parcelDone p = true → p.due = false →
      translateGroups (s.launchFor p) (s.setParcel { p with state := .retiring 1, held := none }) (s.groupsOf p.uid) = (t, none) →
      commitGroups (s.groupsOf p.uid) t = .ok u → u.parcel? p.uid = some q →
      exec (.parcelRetire p.uid) s = .next (u.setParcel { q with state := .retiring (if (s.launchFor p).hdr.sub then 2 else 4) })) ∧
    (∀ (p : Parcel) (t u : State) (cells : List (Nat × Nat)), s.parcel? p.uid = some p → p.state = .retiring 2 →
      s.heldBy (s.launchFor p).vf p.held = false → translateLog (s.launchFor p) s [] p.log = (t, none, cells) →
      crossEach (((cells.filter fun x => !t.deadHome x.2).map fun x => (x.1, t.wayTo (p.core / 48) x.2)).eraseDups) t = some u →
      exec (.commitLogApply p.uid) s = .next (u.applyLog p (s.launchFor p))) ∧
    (∀ (p : Parcel), s.parcel? p.uid = some p → p.state = .retiring 3 →
      (p.log = [] → exec (.parcelRetire p.uid) s = .next (s.setParcel { p with state := .retiring 4 })) ∧
      (∀ n bs rest, p.log = .launch n bs :: rest → ((s.vf (s.launchFor p).vf).queue n).hasRoom = true →
        let far := s.launchFar (p.core / 48) (s.launchFor p).vf n
        (far = true → p.logAcks ≠ Config.ackLimit) →
        exec (.parcelRetire p.uid) s = .next ((s.appendLaunch (.parcel p.uid) (p.core / 48) (s.launchFor p).vf n bs 0 0).setParcel
          { p with log := rest, logAcks := p.logAcks + (if far then 1 else 0) }))) ∧
    (∀ p : Parcel, s.parcel? p.uid = some p → p.state = .retiring 4 → s.parcelQuiet p = true →
      ∃ t, exec (.parcelRetire p.uid) s = .next t ∧ (∀ q ∈ t.parcels, q.uid ≠ p.uid) ∧ (∀ g ∈ t.groups, g.parcel ≠ p.uid)) ∧
    (∀ l : Launch, s.launch? l.uid = some l → l.state ≠ .complete → s.launchLive l = false →
      let v := s.vf l.vf
      exec (.launchComplete l.uid) s =
        .next (((s.setVf l.vf { v with leases := v.leases.filter fun e => e.1 ≠ l.uid }).setLaunch { l with state := .complete }).noteBacklog
          l.vf l.queue))

/-- R29: a parcel aborted by any trigger other than a whole requeue is reborn as two children, which stand first in its queue's head area:
of the axes whose half is not below the minimum extent the largest is split, x before y before z among equals, and where no axis qualifies
the minimum-lot fault is raised, whether or not its launch has failed (R31); a whole requeue keeps the box, and nothing of a failed launch is
queued again. R26: where the allowance runs out in the same cycle, it is the trigger before a whole requeue. R30: what a parcel leaves stands
behind what parcels of lower cores left in the same cycle, and before everything else. -/
def Obligations.SubdivisionSplitsTheLargestAxis : Prop :=
  (∀ (s : State) (p : Parcel) (trigger : Nat), s.parcel? p.uid = some p → p.committed = false →
    let l := s.launchFor p
    let t := s.discardParcel p
    let again (bs : List Box) : State := if l.failed then t else t.requeue l.vf l.queue l.uid p.core bs
    (trigger = 5 → p.due = false → s.abortParcel p.uid trigger = again [p.box]) ∧
    (trigger ≠ 5 → (∀ a b, splitBox l.hdr p.box = some (a, b) → s.abortParcel p.uid trigger = again [a, b]) ∧
      (splitBox l.hdr p.box = none →
        s.abortParcel p.uid trigger = ((t.post (s.parcelRecord p (minimumLot p.box trigger) 1)).1).failLaunch l.uid)) ∧
    (p.due = true → s.abortParcel p.uid 5 = s.abortParcel p.uid 4)) ∧
  (∀ (s : State) (vf n launch core : Nat) (bs : List Box),
    let h := ((s.vf vf).queue n).head
    let ahead (e : HeadEntry) : Bool := e.ahead s.cycles core
    (((s.requeue vf n launch core bs).vf vf).queue n).head =
      h.takeWhile ahead ++ (bs.map fun b => HeadEntry.fresh launch b s.cycles core) ++ h.dropWhile ahead) ∧
  ∀ (k : Kernel) (b : Box),
    let ext : Nat → Nat | 0 => b.x1 - b.x0 | 1 => b.y1 - b.y0 | _ => b.z1 - b.z0
    let least : Nat → Nat | 0 => k.minX | 1 => k.minY | _ => k.minZ
    let cut : Nat → Box × Box
      | 0 => ({ b with x1 := b.x0 + ext 0 / 2 }, { b with x0 := b.x0 + ext 0 / 2 })
      | 1 => ({ b with y1 := b.y0 + ext 1 / 2 }, { b with y0 := b.y0 + ext 1 / 2 })
      | _ => ({ b with z1 := b.z0 + ext 2 / 2 }, { b with z0 := b.z0 + ext 2 / 2 })
    (∀ i, i < 3 → least i ≤ ext i / 2 → (∀ j, j < 3 → j ≠ i → least j ≤ ext j / 2 → ext j < ext i ∨ (ext j = ext i ∧ i < j)) →
      splitBox k b = some (cut i)) ∧
    ((∀ i, i < 3 → ext i / 2 < least i) → splitBox k b = none)

/-- R28, R122, R123, R124: a beat ends no sooner than 1,024 cycles after the last one, and exchanges of each die's batch the first 256
entries, the others having joined the following beat; the declarations of closed beats enter the grant queues in the order of beat, die and
submission, all of a declaration's entries together; entries that outnumber what a slice has free wait until its queue is empty. R128: the
batches go as control traffic, and a beat does not end while a link holds them. -/
def Obligations.BeatsOrderDeclarations : Prop :=
  ∀ s : State,
    (s.control.beatAt + 1024 ≤ s.cycles → (∀ d ∈ s.decls, d.gone = false ∧ d.lost = none) → (∃ u, s.exchangeBatches = some u) →
      ∃ t, exec .beatEnd s = .next t ∧ t.control.beatAt = s.cycles ∧ t.mem = s.mem ∧
        ∀ n, n < 4 → (s.die n).held = false →
          (t.die n).beat = (s.die n).beat + 1 ∧ (t.die n).batch = (s.die n).batch.drop 256) ∧
    (s.exchangeBatches = none → exec .beatEnd s = .next s) ∧
    (∀ (d : TvDecl) (t : State) (cs : List Nat), s.nextDecl = some d → s.heldBy d.vf d.record = false →
      unitCells d.vf .read s (d.blocks.map fun b => b * 256) = (t, .ok cs) →
      let homes := (d.blocks.zip cs).map fun x => (x.1, homeDie x.2, homeSlice x.2)
      (∀ h ∈ homes, (t.die h.2.1).held = false) →
      let fits (y : Nat × Nat) : Bool := ((t.die y.1).slice y.2).takes (entriesAt homes y).length ((t.noteEmpties d homes).contains y)
      ((∀ y ∈ allSlices, fits y = true) →
        exec .grantPlacement s = .next (let u := allSlices.foldl (fun s y => s.placeAt d homes y) t
          { u with decls := u.decls.map fun x => if x.uid = d.uid then { x with placed := true } else x })) ∧
      ((∃ y ∈ allSlices, fits y = false) → exec .grantPlacement s =
        .next { t with decls := t.decls.map fun x => if x.uid = d.uid then { x with empties := t.noteEmpties d homes } else x })) ∧
    (∀ (x : Slice) (n : Nat), 0 < n → (x.takes n true = true → x.grants = []) ∧
      (x.takes n false = true → x.grants = [] ∨ x.grants.length + n ≤ 256)) ∧
    (∀ d e : TvDecl, s.nextDecl = some d → e ∈ s.decls → e.placed = false → (s.die e.die).batch.contains e.uid = false →
      ¬ (e.beat < d.beat ∨ (e.beat = d.beat ∧ (e.die < d.die ∨ (e.die = d.die ∧ e.order < d.order)))))

/-- R109, R111, R112: an idle engine takes the command at the head of the next input queue of its rotation, with all its entries; and what
it holds for delivery goes to the binding that held its output port, one entry at a time, when there is room. R156, R348, R353, R366, R370,
R374, R377, R384, R385: the engines complete their commands: a survey walks the chain, then compacts one page at a time, and its status
entry counts the evicted slots and the pages; a ray query and a light walk deliver one entry of results; a reuse card writes its pixels'
records; a geometry command runs its meshlets or builds its pyramid, and then delivers its counts. -/
def Obligations.EnginesRunTheirCommands : Prop :=
   (∀ (s : State) (e : EngineRef),
      (∀ (f : Feed) (g : Group) (cmd : Cmd), (s.engine e).busy = none → (s.engine e).results = [] → (s.die e.die).held = false →
        s.engineOn e.die e = true → s.nextFeed e = some f → s.group? f.group = some g →
        let q := g.queue f.queue
        let es := q.entries.take e.kind.entries
        (es.head?.bind fun y => y.cmd) = some cmd →
        ∃ b : Taken, exec (.engineTakeCommand e) s =
            .next ((s.setGroup (g.setQueue f.queue { q with entries := q.entries.drop e.kind.entries })).setEngine e
              { s.engine e with last := f.after, busy := some b }) ∧
          b.group = g.uid ∧ b.parcel = g.parcel ∧ b.core = g.core ∧ b.cmd = cmd ∧ b.entries = es ∧ b.stage = 0 ∧ b.parked = none ∧
          (e.kind ≠ .reuse → b.out = (g.outputAt (e.kind.port + 1) e.inst).map fun n => (n, (g.queue n).gen))) ∧
      (∀ (r : EngineResult) (rs : List EngineResult), (s.engine e).results = r :: rs → s.queueRoom r.group r.queue r.gen 1 = true →
        exec (.engineResultDeliver e) s = .next ((s.deliver r.group r.queue r.gen (r.entries.take 1)).setEngine e
          { s.engine e with results := if (r.entries.drop 1).isEmpty then rs else { r with entries := r.entries.drop 1 } :: rs })) ∧
      ∀ (g q gen : Nat) (x : Group) (y : QEntry), s.group? g = some x → (x.queue q).gen = gen → bindValid (x.queue q).binding = true →
        s.deliver g q gen [y] = s.setGroup (x.pushEntry q y)) ∧
   (∀ (s : State) (b : Taken),
      (∀ (d : Nat) (ty : ElemType) (cap : Cap) (reg : Nat) (w : W64) (page : W64), b.cmd = .kvrs ty cap reg w page →
        let e : EngineRef := { kind := .resurvey, unit := d }
        let c : KvCtx := { die := d, vf := b.vf, cap := cap, reg := reg, ty := ty, w := w }
        s.command? e = some b →
        (∀ t ps, b.stage = 0 → c.chain 4096 s page.toNat = (t, .ok ps) →
          exec (.kvrsSurvey d) s = .next (t.setEngine e { t.engine e with busy := some { b with parked := none, stage := 1, survey := c.survivors ps } })) ∧
        (∀ t x, b.stage ≠ 0 → b.survey[b.stage - 1]? = some x → c.compactPage s x = (t, .ok ()) →
          exec (.kvrsSurvey d) s = .next (t.setEngine e { t.engine e with busy := some { b with parked := none, stage := b.stage + 1 } })) ∧
        (b.stage ≠ 0 → b.survey[b.stage - 1]? = none →
          exec (.kvrsSurvey d) s =
            .next ((s.engineDone e b [kvDone b.survey] 1 0 0).completion b.parcel b.first.semv b.first.sem b.first.inc))) ∧
      (∀ (core : Nat) (any : Bool) (a : Attached) (rs : List (Nat × Traced × Nat × Nat × Nat)),
        let e : EngineRef := { kind := .ray, unit := core }
        s.command? e = some b → (∃ fl, b.cmd = .ray any fl a ∧ traceLanes s b a (fl.getLsbD 1) (lanes b.first.mask) = .ok rs) →
        ∃ es n0 n1 n2, exec (.rayResult core) s = .next (s.engineDone e b es n0 n1 n2) ∧ (if any then es.length = 1 else es.length = 2) ∧
          (∀ y ∈ es, y.mask = b.first.mask ∧ y.scalar = false) ∧ n0 = (rs.map fun r => r.2.2.1).foldl (· + ·) 0) ∧
      (∀ (pair : Nat) (d0 : W32) (a : Attached) (rs : List (Nat × W64)),
        let e : EngineRef := { kind := .light, unit := pair }
        s.command? e = some b → b.cmd = .light d0 a →
        lightLanes s b (s.launchOfParcel b.parcel) d0.toNat a (lanes b.first.mask) = .ok rs →
        exec (.lightWalk pair) s = .next (s.engineDone e b
          [QEntry.ofLanes b.first.mask fun l => ((rs.find? fun r => r.1 = l).map fun r => r.2).getD 0] 1 0 0)) ∧
      (∀ (pair : Nat) (card : BitVec 512) (fmt : W32) (scene : Attached) (body : List (List W64)) (xs : List (W64 × Reservoir × Nat)),
        let e : EngineRef := { kind := .reuse, unit := pair }
        s.command? e = some b → (∃ y, b.cmd = .reuse y card fmt scene body) →
        let r : RuCtx := { s := s, b := b, l := s.launchOfParcel b.parcel, die := pair / 24, card := card, fmt := fmt, scene := scene, body := body,
                           params := s.unitTile b.parcel (ruParam card) }
        r.pixels (ruPixels card) = .ok xs →
        exec (.reuseCardRun pair) s = .next (((s.putElements b.parcel (xs.flatMap (ruElements (ruResult card)))).engineDone e b [] 1
          ((xs.map fun x => x.2.2).foldl (· + ·) 0) 0).completion b.parcel b.first.semv b.first.sem b.first.inc)) ∧
      ∀ (d : Nat) (cap : Cap) (w : BitVec 1024) (area : W32),
        let e : EngineRef := { kind := .geometry, unit := d }
        let run (i : Instr) (r : GfeRun) : Prop :=
          (b.stage = 0 → r.stop = none →
            exec i s = .next (r.s.setEngine e { r.s.engine e with
              busy := some { b with parked := none, stage := 1, survey := [(r.swl, [], r.rast)] } })) ∧
          (∀ x xs, b.stage ≠ 0 → b.survey = x :: xs → s.engineQuiet e = true →
            exec i s = .next ((s.engineDone e b [QEntry.ofScalar (BitVec.ofNat 64 (x.1 % 2 ^ 31 * 2 ^ 32 + x.2.2 % 2 ^ 32))] 1 0 0).completion
              b.parcel b.first.semv b.first.sem b.first.inc))
        s.command? e = some b →
        (b.cmd = .gfemb cap w area → run (.gfeMeshletPass d) (GfeCtx.run { e := e, b := b, cap := cap, w := w, area := area } s)) ∧
        (b.cmd = .gfedepth cap w → run (.gfePyramidBuild d) (GfeCtx.pyramid { e := e, b := b, cap := cap, w := w, area := 0 } s)))

/-- R127, R311, R312, R313, R344: the scheduler dispatches the oldest card that is ready and that its engine's rotation has come to (R112):
the engine takes it, it reads its regions and writes what its kind makes of them, or joins its collective; a card that depends on one that
has stopped stops too, and one that has a result to write writes it; and a card whose writes are all acknowledged leaves the pair's list with
status 0 in its queue and its increment, after the cards of its binding that an engine took before it. -/
def Obligations.CardsRunAndComplete : Prop :=
  ∀ (s : State) (c : Card),
    (∀ (pair : Nat) (t : State) (bss : List (List Byte)),
      ((s.pair pair).cards.find? fun x => s.cardReady (s.pair pair) x && (s.cardTurn x || ((s.pair pair).brokenBy x).isSome)) = some c →
      let u := (s.takeCard c).1
      let d := (s.takeCard c).2
      d = { c with taken := d.taken } ∧ d.taken ≠ 0 ∧
      (∀ code, (s.pair pair).brokenBy d = some code → exec (.jobCardDispatch pair) s = .next (u.setCard { d with state := .failed code })) ∧
      (∀ bs q, (s.pair pair).brokenBy d = none → c.state = .result bs q →
        exec (.jobCardDispatch pair) s = .next (u.writeResult { d with state := .result bs none } bs)) ∧
      ((s.pair pair).brokenBy d = none → (∀ bs q, c.state ≠ .result bs q) → regionReads d u d.reads = (t, .ok bss) →
        (c.kind = .collective →
          exec (.jobCardDispatch pair) s = .next ((t.setCard { d with state := .running }).join (t.participant d bss.flatten))) ∧
        (∀ ws, c.kind ≠ .collective → cardWork d bss = .ok (.writes ws) → exec (.jobCardDispatch pair) s = .next (t.cardWrites d ws)) ∧
        (∀ r ty rows, c.kind ≠ .collective → cardWork d bss = .ok (.sums r ty rows) →
          exec (.jobCardDispatch pair) s = .next (t.cardSums d r ty rows)))) ∧
    (∀ (t : State) (ps : List WritePiece) (ws : List CardWrite), (∀ w ∈ ws, w.region.global = true) →
      s.unitPieces c.vf .write ((ws.map fun w => w.region.cut w.at' w.data).flatten) = (t, .ok ps) →
      (t.launchOfParcel c.parcel).hdr.sub = false → t.roomOver c.via ps = true →
      s.cardWrites c ws = ((t.sendPieces (.card c.uid) c.via c.vf 0 c.clause c.slot ps).1).setCard
        { c with state := .acks, acks := (t.sendPieces (.card c.uid) c.via c.vf 0 c.clause c.slot ps).2 }) ∧
    (s.card? c.uid = some c → s.queueRoom c.group c.out.1 c.out.2 1 = true → s.behindTaken c = false → s.cardStalls c = false →
      let status (code : Nat) : List QEntry := [{ QEntry.ofScalar (BitVec.ofNat 64 code) with clause := c.clause, slot := c.slot }]
      (c.state = .acks → c.acks = 0 → (s.net.any fun o => o.sender = .card c.uid) = false →
        let p := s.pair (c.core / 2)
        exec (.jobCardComplete c.uid) s =
          .next ((((s.setPair (c.core / 2) { p with cards := p.cards.filter fun x => x.uid ≠ c.uid }).countCard c).deliver c.group c.out.1 c.out.2
            (status 0)).completion c.parcel c.semv c.sem c.inc)) ∧
      (∀ code, c.state = .failed code →
        exec (.jobCardComplete c.uid) s = .next ((s.setCard { c with state := .stopped code }).deliver c.group c.out.1 c.out.2 (status code)))) ∧
    ∀ (p : Nat) (sem inc : Nat), s.completion p true sem inc = s.incSem p sem inc ∧ s.completion p false sem inc = s

/-! ## Events: translation, preemption, resets and the outside -/

/-- R95, R106, R142, R145, R146: an XINV write removes the function's TLB entries and cached objects that meet its range, and stays busy
until every access through them has reached its home; a MIGCMD write that names a present page and a legal place starts a migration, and any
other is refused with STATUS 3; the copy moves every byte of the page, and the entry then names the new place, once the links between the two
places carry it (R128). R145 step 5, R152: the copy of
a page, whose frames stand under the key that its entry names, puts each of its bytes at the same place of the new page, deciphered under the
old key and enciphered under the new one, and leaves every other byte outside the new page as it was, when the two do not overlap. R134: a
cached object goes when the range meets it as the cache has it or as the table has it now. -/
def Obligations.ShootdownsAndMigrations : Prop :=
   (∀ (s : State) (vf : Nat),
      (∀ (x : W64) (r : Range), (s.vf vf).xinv.getLsbD 0 = false → xinvRange x = some r →
        ∃ t, exec (.shootdown vf x) s = .next t ∧ t.mem = s.mem ∧ t.groups = s.groups ∧ (t.vf vf).xinv.getLsbD 0 = true ∧
          (∀ n, ∀ e ∈ (t.core n).tlb, e.vf = vf → ¬ (e.va < r.hi ∧ r.lo < e.va + e.size)) ∧
          (∀ n, ∀ e ∈ (t.die n).tlb, e.vf = vf → ¬ (e.va < r.hi ∧ r.lo < e.va + e.size)) ∧
          (∀ n, ∀ o ∈ (t.core n).objects, o.vf = vf →
            ¬ (objBase o.bits < r.hi ∧ r.lo < objBase o.bits + max 1 (objPages o.bits * 4096)) ∧
            r.meetsObject (s.objectInMemory vf o.obj) = false) ∧
          (∀ o ∈ t.net, o.vf = vf → o.va < r.hi → r.lo < o.va + 64 → o.stale = true)) ∧
      (∀ p : Nat, p ≤ 5 → ∀ x : W64, (x.extractLsb' 24 4).toNat = p → ∃ r, xinvRange x = some r ∧ r.lo % pageBytes p = 0 ∧
        r.hi = r.lo + pageBytes p ∧ r.lo ≤ (x.extractLsb' 28 36).toNat * 4096 ∧ (x.extractLsb' 28 36).toNat * 4096 < r.hi) ∧
      ((s.vf vf).xinv.getLsbD 0 = true → (∀ x ∈ (s.vf vf).oldLoads, x ∉ s.unreadLoads vf) → (∀ o ∈ s.net, o.vf = vf → o.stale = false) →
        ∃ t, exec (.shootdownDone vf) s = .next t ∧ (t.vf vf).xinv.getLsbD 0 = false ∧ t.mem = s.mem) ∧
      (∀ (x : W128) (l n first run : Nat) (e : W64), (s.vf vf).migrate = none → x.getLsbD 0 = true → (s.vf vf).xroot.getLsbD 0 = true →
        let t := s.setVf vf { s.vf vf with migcmd := withStatus (migFields x) (migStatus (s.vf vf).migcmd) }
        n = pageBytes (pteSize e) →
        walk t ((x.extractLsb' 92 36).toNat * 4096) 4 (s.tableOf vf) = .leaf l first run e →
        let m := migrationOf x ((x.extractLsb' 92 36).toNat * 4096 - (x.extractLsb' 92 36).toNat * 4096 % n) n (pteBase e) (e.extractLsb' 7 2)
        (pteState e = 1 → t.migrationOk vf m = true →
          exec (.migratePage vf x) s =
            .next ((t.setVf vf { t.vf vf with migcmd := withStatus (migFields x) 1, migrate := some m }).startMigration vf m)) ∧
        (pteState e ≠ 1 ∨ t.migrationOk vf m = false → exec (.migratePage vf x) s =
          .next (t.setVf vf { t.vf vf with migcmd := withStatus (migFields x) 3 }))) ∧
      ∀ x : Migration, (s.vf vf).migrate = some x → x.started = true → s.pageQuiet vf x = true →
        ∀ v, s.crossCopy (x.oldCell s) (x.newCell s) x.size = some v →
        let u := (v.liftWatches vf (x.oldCell s) x.size).1
        ∃ t, exec (.migrationCopy vf) s = .next t ∧ (t.vf vf).migrate = none ∧ migStatus (t.vf vf).migcmd = 2 ∧
          ∀ l first run e, walk u x.va 4 (u.tableOf vf) = .leaf l first run e →
            t.mem = ((u.copyPage (x.oldCell s) (x.newCell s) x.size (u.sealOf (pteEnc e) (pteKey e)) (u.sealOf x.enc x.key)).writeRun first
              (x.entry e) run).mem) ∧
   (∀ (s : State) (a b n : Nat) (old new : Seal), (∀ i, i < n / 4096 → Tbl.get none s.seals (a / 4096 + i) = old) → a % 4096 = 0 →
      (s.copyPage a b n old new).mem = copyBytes s.mem a b n ∧ (s.copyPage a b n old new).poison = copyPoison s.poison a b n) ∧
   (∀ (m : Tbl Byte) (a b n : Nat), Memory.wf m = true → (a + n ≤ b ∨ b + n ≤ a) →
      (∀ i, i < n → Memory.read (copyBytes m a b n) (b + i) = Memory.read m (a + i)) ∧
      (∀ c, c < b ∨ b + n ≤ c → Memory.read (copyBytes m a b n) c = Memory.read m c) ∧ Memory.wf (copyBytes m a b n) = true)

/-- R415 to R420: a PRECMD with GO, when no command runs, holds the named queues and begins to save their parcels, requeues the subdivisible
ones whole, ends them, or releases the queues; a saved parcel enters its routines once every path stands at a safe point, is saved when they
are over, runs again after its restore, and one that is late is reported once. -/
def Obligations.PreemptionCompletes : Prop :=
  (∀ (s : State) (vf : Nat) (x : W64), (s.vf vf).precmd.extractLsb' 1 2 ≠ 1 → x.getLsbD 0 = true →
    let mode := (x.extractLsb' 22 2).toNat
    let t := s.setVf vf { s.vf vf with precmd := preWith x 1 }
    let u := t.holdQueues vf x
    let ps := u.namedParcels vf x
    (mode = 0 → exec (.preemptSave vf x) s = .next (ps.foldl (fun s p => s.beginSave ((x.extractLsb' 32 32).toNat * 1024) p) u)) ∧
    (mode = 1 → exec (.preemptSaveOrRequeue vf x) s = .next
      (let sub (p : Parcel) : Bool := (u.launchFor p).hdr.sub && !p.committed && p.state ≠ .saved && !p.isEnded
       (ps.filter fun p => !sub p).foldl (fun s p => s.beginSave ((x.extractLsb' 32 32).toNat * 1024) p)
        ((ps.filter sub).foldl (fun s p => s.abortParcel p.uid 5) u))) ∧
    (mode = 2 → exec (.preemptEnd vf x) s =
      .next ((t.namedParcels vf x).foldl (fun s p => if p.isEnded then s else s.endParcel p.uid none) t)) ∧
    (mode = 3 → ((preQueues x).filter fun n => ((s.vf vf).queue n).held) ≠ [] → exec (.preemptRelease vf x) s =
      .next (((preQueues x).filter fun n => ((s.vf vf).queue n).held).foldl (fun s n => s.holdQueue vf n false)
        (t.setVf vf { t.vf vf with precmd := preWith x 2 }))) ∧
    (∀ n, preNames x n = x.getLsbD (24 + n))) ∧
  (∀ (s : State) (n : Nat) (p : Parcel), p.state = .running →
    s.beginSave n p = s.setParcel { p with state := .saving (s.cycles + n), late := false }) ∧
  ∀ (s : State) (p : Parcel), s.parcel? p.uid = some p →
    let k := (s.launchFor p).hdr
    let gs := s.liveGroups p.uid
    (∀ limit t, p.state = .saving limit → gs ≠ [] → (∀ g ∈ gs, g.standsSafe = true) → endAllQuanta (gs.map fun g => g.uid) s = .ok t →
      exec (.saveRoutineEnter p.uid) s = .next
        (let u := (t.liveGroups p.uid).foldl (fun s g => (s.touchPrivate g.core g.uid (k.saveBase + 14 * 32) true).setGroup
            ((g.saveCap (k.saveBase + 14 * 32) (g.cap 14)).enterRoutines k true)) t
         u.setParcel { (u.parcel? p.uid).getD p with state := .saveRoutines limit })) ∧
    (∀ limit, p.state = .saveRoutines limit → (∀ g ∈ gs, g.savedAll = true) →
      (∀ c ∈ (s.pair (p.core / 2)).cards, c.parcel ≠ p.uid ∨ ∃ k, c.state = .stopped k) → (∀ o ∈ (s.pair (p.core / 2)).ops, o.parcel ≠ p.uid) →
      ∃ t : State, exec (.saveComplete p.uid) s = .next ((t.setParcel { p with state := .saved }).atHead (s.launchFor p).vf (s.launchFor p).queue
        [.saved p.uid]) ∧ t.mem = s.mem) ∧
    (p.state = .restoring → exec (.restore p.uid) s = .next ((restoreGroups k gs s).setParcel { p with state := .running })) ∧
    (∀ limit, p.state = .saving limit ∨ p.state = .saveRoutines limit → limit ≤ s.cycles → p.late = false →
      ∃ n, exec (.preemptLate p.uid) s = .next (((s.post (s.parcelRecord p (.mk' 0x0031 0 n) 1)).1).setParcel { p with late := true }) ∧
        n = (gs.filter fun g => g.livePaths.any fun x => x.2.safe.isNone).length)

/-- R432, R433, R437, R441, R442, R448, R450, R455: a compute-die reset gives every block of the die its reset value and holds it; its links
train anew and it serves with the beat of the others; a function's reset ends its work and then clears its registers; a cold reset clears
the package but for its flash, and boots; a warm reset empties the compute dies; and an island that is turned off is empty. -/
def Obligations.ResetsComplete : Prop :=
  ∀ s : State,
    (∀ (d : Nat) (b : Bool), d < 4 → (s.die d).held = false →
      ∃ t, exec (.computeDieReset d b) s = .next t ∧ (t.die d).held = true ∧ (t.die d).l2 = [] ∧ (t.die d).slices = [] ∧
        (t.die d).tlb = [] ∧ (t.die d).pinned = [] ∧ (∀ n, n / 48 = d → t.core n = Core.reset) ∧ t.control.fieldBook ≠ []) ∧
    (∀ d : Nat, (s.die d).held = true →
      ∃ t, exec (.dieRelink d) s = .next t ∧ (t.die d).held = false ∧ (t.die d).beat = s.openBeat ∧ t.mem = s.mem ∧ t.groups = s.groups) ∧
    (∀ vf : Nat, vf < 64 → (s.vf vf).resetting = true → s.vfQuiet vf = true →
      ∃ t, exec (.vfReset vf) s = .next t ∧ (t.vf vf).resetting = false ∧ (t.vf vf).xroot = 0 ∧ (t.vf vf).otdesc = 0 ∧ (t.vf vf).krange = 0 ∧
        (t.vf vf).prange = 0 ∧ (t.vf vf).leases = [] ∧ (∀ l ∈ t.launches, l.vf ≠ vf) ∧ t.mem = s.mem) ∧
    (∃ t, exec .coldReset s = .next t ∧ t.groups = [] ∧ t.parcels = [] ∧ t.launches = [] ∧ t.vfs = [] ∧ t.net = [] ∧
      t.control.lifecycle = s.control.lifecycle ∧ t.control.flash = s.control.flash ∧
      (Config.bootFailure s.tick = 0 → t.control.boot = .running) ∧
      (∀ k, Config.bootFailure s.tick = k → k ≠ 0 → t.control.boot = .failed k) ∧
      (∀ c, cellTgt c = 0 → Memory.read t.mem c = 0)) ∧
    (∀ k : Nat, s.control.boot = .failed k → 10000000000 ≤ (s.time - s.control.bootAt).toNat → exec .bootSourceRetry s = .next s.bootUp) ∧
    (∃ t, exec .warmReset s = .next t ∧ (∀ n, n < 192 → t.core n = Core.reset) ∧ (∀ d, d < 4 → (t.die d).l2 = [] ∧ (t.die d).held = false)) ∧
    ∀ (n : Nat) (st : IslandState), s.control.boot = .running → n < 128 → s.island n ≠ st →
      (24 ≤ n % 30 → n % 30 ≠ 29 → n < 120 → st ≠ .active → s.pairsOff (n / 30) = true) → (st = .off → s.islandEmpty n = true) →
      ∃ t, exec (.islandPowerChange n st) s = .next t ∧ t.island n = st ∧ (∀ m, m ≠ n → t.island m = s.island m) ∧ t.mem = s.mem ∧
        (n < 120 → n % 30 < 24 → st = .off → t.core (48 * (n / 30) + 2 * (n % 30)) = Core.reset)

/-- R442 to R448: the security engine answers a request with a report over the nonce, the digests and the states, signed by the identity
key; it admits a file whose signature verifies under a trusted key, loads an unwrapped key pair into a slot of the function's range, opens
the debug port for a token of its own nonce after destroying every key, and moves the lifecycle only to its next state. -/
def Obligations.SecurityEngineCompletes : Prop :=
  ∀ s : State,
    (∀ (vf : Option Nat) (nonce : BitVec 256), s.enabled = true → s.control.boot = .running → (∀ n, vf = some n → n < 64) →
      exec (.attestationRequest vf nonce) s = .next { s with replies := s.replies ++ [.report (s.reportBody vf nonce ++
        Config.identitySign (s.reportBody vf nonce))] } ∧ (s.reportBody vf nonce).take 32 = bytesOfNat 32 nonce.toNat) ∧
    (∀ vf pa size obj : Nat, s.enabled = true → vf < 64 → cellExists (cellOf 0 pa) size = true → s.poisoned (cellOf 0 pa) size = false →
      (vf, obj) ∉ s.control.admitted →
      exec (.codeAdmission vf pa size obj) s = .next (if s.admits vf (Memory.readN s.mem (cellOf 0 pa) size) = true then
        { s with control := { s.control with admitted := s.control.admitted ++ [(vf, obj)] } } else s)) ∧
    (∀ (vf slot : Nat) (wrapped k : List Byte), s.enabled = true → vf < 64 → (s.vf vf).wrapKey = some k →
      ((s.vf vf).krange.extractLsb' 0 12).toNat ≤ slot →
      slot < ((s.vf vf).krange.extractLsb' 0 12).toNat + ((s.vf vf).krange.extractLsb' 16 13).toNat →
      s.control.lifecycle ≠ .returnAnalysis → (Tbl.get KeySlot.reset s.control.keys slot).state ≠ 2 →
      let put (bs : List Byte) : State :=
        let k : KeySlot := { state := 1, key1 := BitVec.ofNat 256 (natOfBytes (bs.drop 32)), key2 := BitVec.ofNat 256 (natOfBytes (bs.take 32)) }
        { s with control := { s.control with keys := Tbl.put KeySlot.reset s.control.keys slot k } }
      exec (.keyLoad vf slot wrapped) s = .next (match Config.aesUnwrap k wrapped with
        | some bs => if bs.length = 64 then put bs else s
        | none => s)) ∧
    (∀ (vf : Nat) (c : List Byte), s.enabled = true → vf < 64 →
      exec (.mlKemEncapsulation vf c) s = .next (match Config.mlKemDecapsulate c with
        | some k => s.setVf vf { s.vf vf with wrapKey := some k }
        | none => s)) ∧
    (∀ t : DebugToken, s.control.boot = .running → s.control.lifecycle = .production → t.state = .invasive →
      let good : Prop := t.keyid = Config.identityKeyid ∧ t.nonce = s.control.nonce ∧ Config.tokenVerifies s.provisioned t = true
      ∃ u, exec (.debugToken t) s = .next u ∧ u.mem = s.mem ∧ (¬ good → u = s) ∧
        (good → u.control.debug = .invasive ∧ ∀ n, n < 4096 → (Tbl.get KeySlot.reset u.control.keys n).state = 2)) ∧
    (∀ (r : ConfigRecord) (l : Lifecycle), s.control.boot = .running → nextLifecycle s.control.lifecycle = some l → r.kind = .lifecycle →
      r.owner = false → s.recordFresh r = true →
      let good : Prop := Config.recordVerifies none r = true ∧ Config.recordLifecycle r.payload = lifecycleCode l
      ∃ u, exec (.lifecycleAdvance r) s = .next u ∧ u.mem = s.mem ∧ (¬ good → u = s) ∧
        (good → u.control.lifecycle = l ∧
          (l = .returnAnalysis → ∀ n, n < 4096 → (Tbl.get KeySlot.reset u.control.keys n).state = 2))) ∧
    nextLifecycle .blank = some .provisioned ∧ nextLifecycle .provisioned = some .production ∧
    nextLifecycle .production = some .returnAnalysis ∧ nextLifecycle .returnAnalysis = none

/-- R81 to R84, R105, R106, R429, R430, R449 to R452: every trigger latches the blocks whose VALID is clear; a write of 1 clears VALID; a
read gives what the security matrix allows; a debugger writes latches and breakpoints and resumes what stopped at its port; an error in a
clean line refetches it, and one that cannot be corrected poisons its sector. -/
def Obligations.DebugEventsComplete : Prop :=
  ∀ s : State,
    exec .datumInEdge s = .next (s.fireDatum 3 0).1 ∧
    (s.control.debug = .invasive → exec .debugPortDatumTrigger s = .next (s.fireDatum 2 0).1) ∧
    (∀ src fclass : Nat,
      let t := (s.fireDatum src fclass).1
      let stat := snapStat (s.control.datumSeq + 1) src fclass
      t.mem = s.mem ∧ t.groups = s.groups ∧ t.control.datumSeq = s.control.datumSeq + 1 ∧ t.control.datumOut = s.control.datumOut + 1 ∧
      ∀ b ∈ allBlocks,
        let old := Tbl.get Snapshot.clear s.control.snaps (snapKey b.1 b.2)
        let new := Tbl.get Snapshot.clear t.control.snaps (snapKey b.1 b.2)
        (old.stat.getLsbD 0 = true ∨ s.island (islandOf b.1 b.2) ≠ .active → new = old) ∧
        (old.stat.getLsbD 0 = false → s.island (islandOf b.1 b.2) = .active → new = { stat := stat, regs := s.blockRegs b.1 b.2 })) ∧
    (∀ (d b : Nat) (v : W64), v.getLsbD 0 = true → s.island (islandOf d b) ≠ .off →
      ∃ t, exec (.snapstatClear d b v) s = .next t ∧ (Tbl.get Snapshot.clear t.control.snaps (snapKey d b)).stat.getLsbD 0 = false ∧
        (Tbl.get Snapshot.clear t.control.snaps (snapKey d b)).regs = (Tbl.get Snapshot.clear s.control.snaps (snapKey d b)).regs ∧
        { t with control := s.control } = s) ∧
    (∀ (r : SnapReader) (d b i : Nat), blockExists d b = true →
      ∃ t, exec (.snapshotRead r d b i) s = .next t ∧ t.replies = s.replies ++ [.word (s.snapshotValue r d b i).1] ∧ t.mem = s.mem ∧
        t.groups = s.groups) ∧
    (∀ (d b i : Nat), s.control.debug = .off → (s.snapshotValue .debugPort d b i).1 = 0 ∧ ∀ n, (s.snapshotValue (.vf n) d b i).1 = 0) ∧
    (∀ (w : DebugWriter) (core n : Nat) (v : W128), core < 192 → n < 8 → s.island (islandOf (core / 48) (core % 48)) ≠ .off →
      (match w with
        | .debugPort => s.control.debug = .invasive
        | .vf k => s.debugOn k = true ∧ (v.extractLsb' 58 6).toNat = k) →
      exec (.breakpointWrite w core n v) s =
        .next (s.setCore core { s.core core with bps := Tbl.put 0 (s.core core).bps n (v &&& ~~~(BitVec.ofNat 128 (2 ^ 22 - 8))) })) ∧
    (∀ (g : Group) (q : Option Nat), s.group? g.uid = some g → g.status = .stopped q →
      (∀ latch lane v, s.debugPort = true ∨ s.debugOn (s.launchOf g).vf = true → latch < 4 → lane < g.width →
        exec (.debuggerLatchWrite g.uid latch lane v) s = .next (s.setGroup { g with dbg := { g.dbg with
          lat := Tbl.put [] g.dbg.lat latch (Tbl.put 0 (Tbl.get [] g.dbg.lat latch) lane v),
          empty := g.dbg.empty &&& ~~~(BitVec.ofNat 4 (2 ^ latch)) } })) ∧
      (s.control.debug = .invasive → q = none → exec (.debugPortResume g.uid) s = .next (s.resumeBreak g))) ∧
    ∀ (n : Nat) (one : Bool) (x : L2Line), ((s.die (homeDie (n * 64))).l2.find? fun x => x.line = n / 4) = some x →
      ∃ t, exec (.storageError (.l2Line n one)) s = .next t ∧ t.mem = s.mem ∧
        (x.dirty = false → t.poison = s.poison ∧ ∀ y ∈ (t.die (homeDie (n * 64))).l2, y.line ≠ n / 4) ∧
        (x.dirty = true → one = true → t.poison = s.poison) ∧ (x.dirty = true → one = false → n ∈ t.poison)

/-- R11, R80, R100, R119, R121, R125, R132, R149, R436: a write of a register of the configuration space keeps its writable fields; a write
of a ring's configuration while the ring is on changes EN only; a producer or consumer index beyond the ring, a ticket out of range and a
range that another function has are ignored; a rectangle within the die's tiles and pinned pool is set with every record zero. R154, R312,
R434, R438, R439, R454: a port sends a flit again or retrains, a link steps its rate and holds its traffic until the window closes; a host
access reads or writes memory at its home slice; a coherence request cleans or drops the line that it names; and a request over the fabric
is performed at the home of its address, with an answer where it asks for one. R128: what comes from outside crosses the link of the control
die to its home, and waits while that link carries nothing. -/
def Obligations.OutsideWorldCompletes : Prop :=
   (∀ (s : State) (vf n : Nat), vf < 64 → n < 8 →
      let v := s.vf vf
      let q := v.queue n
      (∀ x : BitVec 576, exec (.sigpolWrite vf x) s = .next (s.setVf vf { v with sigpol := sigpolFields x })) ∧
      (∀ x : W64, let k := (x.extractLsb' 0 13).toNat
        (1 ≤ k → k ≤ 4096 → exec (.lqtktWrite vf n x) s = .next (s.setVf vf (v.setQueue n { q with ticket := k }))) ∧
        (k = 0 ∨ 4096 < k → exec (.lqtktWrite vf n x) s = .next s)) ∧
      (s.enabled = true →
        (∀ x : W64, exec (.lqcfgWrite vf n x) s = .next ((s.setVf vf (v.setQueue n { q with cfg := ringWrite q.cfg x 4 })).noteBacklog vf n)) ∧
        (∀ x : W64, exec (.fqcfgWrite vf x) s = .next (s.setVf vf { v with fqcfg := ringWrite v.fqcfg x 6 })) ∧
        (∀ x : W64, (x.extractLsb' 0 32 - q.cons).toNat ≤ ringSize q.cfg →
          exec (.lqidxWrite vf n x) s = .next ((s.setVf vf (v.setQueue n { q with prod := x.extractLsb' 0 32 })).noteBacklog vf n)) ∧
        (∀ x : W64, ringSize q.cfg < (x.extractLsb' 0 32 - q.cons).toNat → exec (.lqidxWrite vf n x) s = .next s) ∧
        (∀ x : W64, (v.fqprod - x.extractLsb' 32 32).toNat ≤ ringSize v.fqcfg →
          exec (.fqidxWrite vf x) s = .next (s.setVf vf { v with fqcons := x.extractLsb' 32 32 })) ∧
        (∀ x : W32, s.rangeFree vf (fun v => v.krange) (rangeOf (rangeFields x)) = true →
          exec (.krangeWrite vf x) s = .next (s.setVf vf { v with krange := rangeFields x })) ∧
        (∀ x : W32, s.rangeFree vf (fun v => v.prange) (rangeOf (rangeFields x)) = true →
          ∃ t, exec (.prangeWrite vf x) s = .next t ∧ (t.vf vf).prange = rangeFields x ∧ t.mem = s.mem ∧
            ∀ i, (rangeOf (rangeFields x)).1 ≤ i → i < (rangeOf (rangeFields x)).1 + (rangeOf (rangeFields x)).2 →
              (Tbl.get Phaser.clear t.phasers i).live = true) ∧
        (∀ (d : Nat) (x : W64) (y : Die), d < 4 → (s.die d).held = false → (s.die d).tilesBut vf + (Rect.ofWord x).tiles ≤ 2048 →
          ((s.die d).unpin (.reservoir vf)).pin (.reservoir vf) (4 * (Rect.ofWord x).tiles) = some y →
          let z := { y with rsvrect := Tbl.put 0 y.rsvrect vf x, rsv := Tbl.put [] y.rsv vf [], rsvBad := y.rsvBad.filter fun z => z.1 ≠ vf }
          exec (.rsvrectWrite vf d x) s = .next ((s.setDie d z).setRsvstat vf d 0)) ∧
        (∀ x : W128, exec (.registerWrite (.xroot vf) x) s = .next (s.setVf vf { v with xroot := x.extractLsb' 0 64 &&& 0x000FFFFFFFFFF001 }) ∧
          exec (.registerWrite (.otdesc vf) x) s = .next (s.setVf vf { v with otdesc := otdescFields x }))) ∧
      (∀ (old x : W64) (lo : Nat), (ringOn old = true → ringOn x = true → ringWrite old x lo = old) ∧
        (ringOn old = true → ringOn x = false → ringOn (ringWrite old x lo) = false ∧
          ∀ i, i < 63 → (ringWrite old x lo).getLsbD i = old.getLsbD i) ∧
        (ringOn old = false → 2 ≤ ringTgt x ∨ (x.extractLsb' 0 5).toNat < lo ∨ 16 < (x.extractLsb' 0 5).toNat →
          ringOn (ringWrite old x lo) = false))) ∧
   (∀ s : State,
      (∀ p : Nat, p < 16 → (s.port p).retrain = false →
        ((s.linkDir (16 + p)).sent ≠ 0 →
          exec (.flitReplay p) s = .next (s.setLinkDir (16 + p) { s.linkDir (16 + p) with replay := (s.linkDir (16 + p)).replay + 1 })) ∧
        ∃ t, exec (.linkRetrain p) s = .next t ∧ (t.port p).retrain = true ∧ (t.port p).windows = (s.port p).windows + 1 ∧ t.mem = s.mem ∧
          t.net = s.net) ∧
      (∀ (n : Nat) (r : BitVec 2), n < 8 → (s.link n).retrain = false → (s.link n).rate ≠ r →
        (∀ t, (s.link n).stepAt = some t → t + 50000 ≤ s.time.toNat) →
        ∃ t, exec (.linkRateStep n r) s = .next t ∧ (t.link n).retrain = true ∧ (t.link n).rate = r ∧ t.dirOpen (2 * n) = false ∧
          t.dirOpen (2 * n + 1) = false ∧ t.mem = s.mem ∧ t.net = s.net) ∧
      (∀ n : Nat, ((s.link n).retrain = true →
          exec (.retrainingWindowEnd (.die n)) s = .next (s.setLink n { s.link n with retrain := false })) ∧
        ((s.port n).retrain = true → exec (.retrainingWindowEnd (.port n)) s = .next (s.setPort n { s.port n with retrain := false }))) ∧
      (∀ (pa n : Nat) (bs : List Byte) (u : State), let c := cellOf 0 pa
        s.deadHome c = false →
        (cellExists c n = true → s.poisoned c n = false → s.outsideCross c (sizedClass n clsRequest) (sizedClass n clsRequest) = some u →
          ∃ t, exec (.hostCxlMemAccess pa (.read n)) s = .next t ∧ t.mem = s.mem ∧
            t.replies = s.replies ++ [.bytes (Memory.readN s.mem c n)]) ∧
        (cellExists c n = true → s.outsideCross c (sizedClass n clsRequest) (sizedClass n clsRequest) = none →
          exec (.hostCxlMemAccess pa (.read n)) s = .next s) ∧
        (cellExists c bs.length = true → s.outsideCross c (sizedClass bs.length clsRequest) clsControl = some u →
          ∃ t, exec (.hostCxlMemAccess pa (.write bs)) s = .next t ∧ t.mem = Memory.writeN s.mem c bs)) ∧
      (∀ (line : Nat) (bs : List Byte) (u : State), let c := cellOf 1 (line * 64 % 2 ^ 52)
        ((s.die (homeDie c)).l2.any fun x => x.line = c / 256) = true → s.outsideCross c clsControl clsControl = some u →
        (∃ t, exec (.hostCxlCacheSnoop line .readShared) s = .next t ∧ t.mem = s.mem ∧
          (∀ x ∈ (t.die (homeDie c)).l2, x.line = c / 256 → x.dirty = false) ∧ t.replies = s.replies ++ [.bytes (Memory.readN s.mem c 64)]) ∧
        (∃ t, exec (.hostCxlCacheSnoop line .readInvalidate) s = .next t ∧ t.mem = s.mem ∧
          (∀ x ∈ (t.die (homeDie c)).l2, x.line ≠ c / 256) ∧ t.replies = s.replies ++ [.bytes (Memory.readN s.mem c 64)]) ∧
        ∃ t, exec (.hostCxlCacheSnoop line (.write bs)) s = .next t ∧ t.mem = Memory.writeN s.mem c (bs.take 64)) ∧
      ∀ (p pa n op : Nat) (ty : ElemType) (x : W64) (bs : List Byte) (u : State), let c := cellOf 0 (pa % 2 ^ 39)
        s.deadHome c = false →
        (cellExists c n = true → s.poisoned c n = false → s.outsideCross c (sizedClass n clsRequest) (sizedClass n clsRequest) = some u →
          ∃ t, exec (.fabricRequestArrival (.read p pa n)) s = .next t ∧ t.mem = s.mem ∧
            t.replies = s.replies ++ [.bytes (Memory.readN s.mem c n)]) ∧
        (cellExists c bs.length = true → s.outsideCross c (sizedClass bs.length clsRequest) clsControl = some u →
          ∃ t, exec (.fabricRequestArrival (.write p pa bs)) s = .next t ∧ t.mem = Memory.writeN s.mem c bs) ∧
        (cellExists c (ty.width / 8) = true → s.outsideCross c clsRequest clsControl = some u →
          ∃ t, exec (.fabricRequestArrival (.atomic p pa ty op x)) s = .next t ∧ t.mem = (u.applyAtomic c ty op x none).1.mem ∧
            t.replies = s.replies ++ [.word (extendLoad ty (u.applyAtomic c ty op x none).2)]))

/-! ## The whole machine -/

/-- R81, R83, R119, R121, R436, R441, R387: what the manual states of the package right after a cold reset: no work, no queue in use, every
register of the configuration spaces 0, no snapshot valid and the area limit 32.0; its memory has its canonical form. -/
def Obligations.ResetState : Prop :=
  State.reset.memoryOk = true ∧ State.reset.groups = [] ∧ State.reset.parcels = [] ∧ State.reset.net = [] ∧ State.reset.control.datsel = 0 ∧
  State.reset.control.mxrst = 0 ∧ State.reset.control.datumSeq = 0 ∧ State.reset.control.fieldSeq = 0 ∧ State.reset.control.debug = .off ∧
  (∀ d n, ((Tbl.get Snapshot.clear State.reset.control.snaps (snapKey d n)).stat).getLsbD 0 = false) ∧
  (∀ vf d, (State.reset.visarea d vf).toNat = 0x42000000) ∧
  ∀ vf n, let v := State.reset.vf vf
    v.xroot = 0 ∧ v.otdesc = 0 ∧ v.krange = 0 ∧ v.prange = 0 ∧ v.xinv = 0 ∧ v.migcmd = 0 ∧ v.precmd = 0 ∧ v.fqcfg = 0 ∧ v.fqprod = 0 ∧ v.fqcons = 0 ∧
    v.rsvstat = 0 ∧ v.sigpol = 0 ∧ (v.queue n).cfg = 0 ∧ (v.queue n).prod = 0 ∧ (v.queue n).cons = 0

/-- No step breaks the canonical form of memory: whatever state a step begins in, if its memory lists rising addresses and no byte that an
unlisted address reads as, so does the memory after it. The form is the model's own choice, for equal memories to be equal data (log entry
2). -/
def Obligations.StepKeepsMemoryCanonical : Prop :=
  ∀ s t : State, s.memoryOk = true → step s = .next t → t.memoryOk = true

/-- R202 to R211, R216: every well-formed slot instruction has a word before it and a slot word, and the decoder reads the same instruction
from the two: no field of an encoding is dropped. -/
def Obligations.EncodingIsReadBack : Prop :=
  ∀ i : Instr, i.wellFormed = true → ∃ p w, encode i = some (p, w) ∧ decode p w = some i

/-- The V-form of an unguarded slot, with no word before it. -/
def plainV (ty : ElemType) (var : BitVec 2) (dst sa sb sc : Operand) (x : BitVec 9) : VForm :=
  { ty := ty, var := var, pg := 0, pn := false, nw := false, dst := dst, sa := sa, sb := sb, sc := sc, x := x, pfx := Pfx.none }

/-- The M-form of an unguarded relaxed slot. -/
def plainM (ty : ElemType) (data : Operand) (cap : BitVec 4) (idx : Option Operand) (ofs : BitVec 16) : MForm :=
  { ty := ty, hint := 0, pg := 0, pn := false, nw := false, data := data, cap := cap, idx := idx, ofs := ofs, scope := 0, ord := 0,
    pfx := Pfx.none }

/-- The Q-form of an unguarded slot, with the semaphore and the increment of its completion. -/
def plainQ (ty : ElemType) (qd cap : BitVec 4) (desc : Operand) (sem : Option (BitVec 5 × BitVec 8)) (arg : Operand) : QForm :=
  { ty := ty, var := 0, pg := 0, pn := false, nw := false, qd := qd, cap := cap, desc := desc, semv := sem.isSome, sem := (sem.getD (0, 0)).1,
    inc := (sem.getD (0, 0)).2, arg := arg, pfx := Pfx.none }

/-- R202 to R209, R214: the slot words that the manual writes out decode to the instructions that it names with them. -/
def Obligations.WordsOfTheManualDecode : Prop :=
  decodeTableWord 64 0x1DA0004008080600 = some (.vfma (plainV .f32 0 (.v 4) (.v 1) (.v 2) (.v 3) 0)) ∧
  decodeTableWord 64 0x1AA0005A00040000 = some (.vadd (plainV .f32 0 (.v 5) (.l 0) (.v 1) (.v 0) 0)) ∧
  decodeTableWord 64 0x500000008000C800 = some (.br { target := 4, join := 6, kc := 2, kn := false, bmode := 0, cnt := 0 }) ∧
  decodeTableWord 64 0x52001FFFC000000A = some (.loop { target := 0xFFFE, join := 0, kc := 0, kn := false, bmode := 0, cnt := 5 }) ∧
  decodeTableWord 64 0xB0A00008140C0040 = some (.mma (plainV .f32 0 (.v 0) (.s 2) (.s 3) (.v 0) 0x040)) ∧
  decodeTableWord 64 0xD300008064100000 = some (.rsvupd (plainV .n8 0 (.v 8) (.v 12) (.s 4) (.v 0) 0)) ∧
  decodeTableWord 64 0x2A20000028300040 = some (.vcmp (plainV .n32 0 (.v 0) (.v 5) (.v 12) (.v 0) 0x040)) ∧
  decodeTableWord 64 0x3F44014030000002 = some (.vspc (plainV .s8 1 (.v 20) (.v 6) (.v 0) (.v 0) 2)) ∧
  decodeTableWord 64 0x6330003F82800000 = some (.stp (plainM .n64 (.v 3) 15 (some (.s 5)) 0)) ∧
  decodeTableWord 64 0x60A000D1037FFF80 = some (.ld (plainM .f32 (.v 13) 1 (some (.v 6)) 0xFFFF)) ∧
  decodeTableWord 64 0x9000005178004000 = some (.jccopy (plainQ .n8 0 2 (.s 23) (some (0, 1)) (.v 0))) ∧
  decodeTableWord 64 0x8000000000000025 = some (.fence (plainV .n8 0 (.v 0) (.v 0) (.v 0) (.v 0) 0x025))
end

