-- ==== Sys2Proof/Laws/Tables.lean ====
section
/-!
SUPPORT. Tables: a read after a write, and the canonical form kept by every update.
-/
namespace Sys2Proof

theorem Tbl.get_remove_same {α : Type} (d : α) (n : Nat) (t : Tbl α) : Tbl.get d (Tbl.remove t n) n = d := by
  induction t with
  | nil => rfl
  | cons e t ih =>
      obtain ⟨k, w⟩ := e
      by_cases h : k = n
      · simpa [Tbl.remove, h] using ih
      · have : Tbl.remove ((k, w) :: t) n = (k, w) :: Tbl.remove t n := by simp [Tbl.remove, h]
        rw [this, Tbl.get, if_neg h]
        exact ih

theorem Tbl.get_remove_other {α : Type} (d : α) (n m : Nat) (t : Tbl α) (h : m ≠ n) :
    Tbl.get d (Tbl.remove t n) m = Tbl.get d t m := by
  induction t with
  | nil => rfl
  | cons e t ih =>
      obtain ⟨k, w⟩ := e
      by_cases hk : k = n
      · have hd : Tbl.remove ((k, w) :: t) n = Tbl.remove t n := by simp [Tbl.remove, hk]
        have hm : k ≠ m := fun x => h (x.symm.trans hk)
        rw [hd, ih, Tbl.get, if_neg hm]
      · have hd : Tbl.remove ((k, w) :: t) n = (k, w) :: Tbl.remove t n := by simp [Tbl.remove, hk]
        rw [hd, Tbl.get, Tbl.get, ih]

/-- Reading the key that was written. -/
theorem Tbl.get_put_same {α : Type} [DecidableEq α] (d v : α) (n : Nat) (t : Tbl α) : Tbl.get d (Tbl.put d t n v) n = v := by
  induction t with
  | nil => by_cases hv : v = d <;> simp [Tbl.put, Tbl.get, hv]
  | cons e t ih =>
      obtain ⟨k, w⟩ := e
      simp only [Tbl.put]
      split
      · rename_i hlt
        split
        · rename_i hv
          have hk : k ≠ n := by omega
          rw [Tbl.get, if_neg hk, Tbl.get_remove_same, hv]
        · simp [Tbl.get]
      · split
        · exact ih
        · rename_i hne
          have hk : k ≠ n := fun x => hne x.symm
          rw [Tbl.get, if_neg hk]
          exact ih

/-- Reading another key. -/
theorem Tbl.get_put_other {α : Type} [DecidableEq α] (d v : α) (n m : Nat) (t : Tbl α) (h : m ≠ n) :
    Tbl.get d (Tbl.put d t n v) m = Tbl.get d t m := by
  have hn : n ≠ m := fun x => h x.symm
  induction t with
  | nil =>
      simp only [Tbl.put]
      split
      · rfl
      · simp only [Tbl.get, if_neg hn]
  | cons e t ih =>
      obtain ⟨k, w⟩ := e
      simp only [Tbl.put]
      split
      · split
        · rw [Tbl.get, Tbl.get, Tbl.get_remove_other d n m t h]
        · rw [Tbl.get, if_neg hn, Tbl.get, Tbl.get, Tbl.get_remove_other d n m t h]
      · split
        · rename_i heq
          rw [ih, Tbl.get, if_neg fun x => h (x.symm.trans heq.symm)]
        · rw [Tbl.get, Tbl.get, ih]

theorem Tbl.get_put {α : Type} [DecidableEq α] (d v : α) (n m : Nat) (t : Tbl α) :
    Tbl.get d (Tbl.put d t n v) m = if m = n then v else Tbl.get d t m := by
  split
  · rename_i h
    rw [h, Tbl.get_put_same]
  · rename_i h
    exact Tbl.get_put_other d v n m t h

/-! ## The canonical form -/

theorem Tbl.above_remove {α : Type} (n k : Nat) (t : Tbl α) (h : Tbl.above k t = true) : Tbl.above k (Tbl.remove t n) = true := by
  simp only [Tbl.above, Tbl.remove, List.all_eq_true, List.mem_filter] at h ⊢
  exact fun e he => h e he.1

theorem Tbl.above_put {α : Type} [DecidableEq α] (d v : α) (n k : Nat) (t : Tbl α) (hk : k < n) (h : Tbl.above k t = true) :
    Tbl.above k (Tbl.put d t n v) = true := by
  induction t with
  | nil => by_cases hv : v = d <;> simp [Tbl.put, Tbl.above, hv, hk]
  | cons e t ih =>
      obtain ⟨j, w⟩ := e
      simp only [Tbl.above, List.all_cons, Bool.and_eq_true, decide_eq_true_eq] at h
      have ht : Tbl.above k t = true := h.2
      have hd := Tbl.above_remove n k t ht
      have add : ∀ (x : Nat × α) (u : Tbl α), k < x.1 → Tbl.above k u = true → Tbl.above k (x :: u) = true := by
        intro x u hx hu
        simp only [Tbl.above, List.all_cons, Bool.and_eq_true, decide_eq_true_eq]
        exact ⟨hx, hu⟩
      simp only [Tbl.put]
      split
      · split
        · exact add _ _ h.1 hd
        · exact add _ _ hk (add _ _ h.1 hd)
      · split
        · exact ih ht
        · exact add _ _ h.1 (ih ht)

theorem Tbl.above_of_lt {α : Type} (n k : Nat) (t : Tbl α) (h : n < k) (ha : Tbl.above k t = true) : Tbl.above n t = true := by
  simp only [Tbl.above, List.all_eq_true, decide_eq_true_eq] at ha ⊢
  intro e he
  have := ha e he
  omega

theorem Tbl.filter_wf {α : Type} [DecidableEq α] (d : α) (p : Nat × α → Bool) (t : Tbl α) (h : Tbl.wf d t = true) :
    Tbl.wf d (t.filter p) = true := by
  induction t with
  | nil => rfl
  | cons e t ih =>
      obtain ⟨k, w⟩ := e
      simp only [Tbl.wf, Bool.and_eq_true, decide_eq_true_eq] at h
      obtain ⟨⟨hw, ha⟩, ht⟩ := h
      simp only [List.filter_cons]
      split
      · have : Tbl.above k (t.filter p) = true := by
          simp only [Tbl.above, List.all_eq_true, List.mem_filter] at ha ⊢
          exact fun e he => ha e he.1
        simp [Tbl.wf, hw, this, ih ht]
      · exact ih ht

theorem Tbl.remove_wf {α : Type} [DecidableEq α] (d : α) (n : Nat) (t : Tbl α) (h : Tbl.wf d t = true) :
    Tbl.wf d (Tbl.remove t n) = true := Tbl.filter_wf d _ t h

theorem Tbl.cons_wf {α : Type} [DecidableEq α] (d : α) (k : Nat) (w : α) (t : Tbl α) (hw : w ≠ d) (ha : Tbl.above k t = true)
    (ht : Tbl.wf d t = true) : Tbl.wf d ((k, w) :: t) = true := by
  simp only [Tbl.wf, Bool.and_eq_true, decide_eq_true_eq]
  exact ⟨⟨hw, ha⟩, ht⟩

theorem Tbl.put_wf {α : Type} [DecidableEq α] (d v : α) (n : Nat) (t : Tbl α) (h : Tbl.wf d t = true) :
    Tbl.wf d (Tbl.put d t n v) = true := by
  induction t with
  | nil => by_cases hv : v = d <;> simp [Tbl.put, Tbl.wf, Tbl.above, hv]
  | cons e t ih =>
      obtain ⟨k, w⟩ := e
      simp only [Tbl.wf, Bool.and_eq_true, decide_eq_true_eq] at h
      obtain ⟨⟨hw, ha⟩, ht⟩ := h
      have hd := Tbl.remove_wf d n t ht
      have hk := Tbl.cons_wf d k w _ hw (Tbl.above_remove n k t ha) hd
      simp only [Tbl.put]
      split
      · rename_i hlt
        split
        · exact hk
        · rename_i hv
          refine Tbl.cons_wf d n v _ hv ?_ hk
          have := Tbl.above_remove n n t (Tbl.above_of_lt n k t hlt ha)
          simp only [Tbl.above, List.all_cons, Bool.and_eq_true, decide_eq_true_eq]
          exact ⟨hlt, this⟩
      · split
        · exact ih ht
        · exact Tbl.cons_wf d k w _ hw (Tbl.above_put d v n k t (by omega) ha) (ih ht)

/-- Two tables in canonical form that read alike are equal. -/
theorem Tbl.ext_wf {α : Type} [DecidableEq α] (d : α) (t u : Tbl α) (ht : Tbl.wf d t = true) (hu : Tbl.wf d u = true)
    (h : ∀ n, Tbl.get d t n = Tbl.get d u n) : t = u := by
  have absent : ∀ (k : Nat) (t : Tbl α), Tbl.above k t = true → ∀ n, n ≤ k → Tbl.get d t n = d := by
    intro k t
    induction t with
    | nil => intro _ _ _; rfl
    | cons e t ih =>
        obtain ⟨j, w⟩ := e
        intro ha n hn
        simp only [Tbl.above, List.all_cons, Bool.and_eq_true, decide_eq_true_eq] at ha
        have : j ≠ n := by omega
        simp only [Tbl.get, this, if_false]
        exact ih ha.2 n hn
  induction t generalizing u with
  | nil =>
      cases u with
      | nil => rfl
      | cons e u =>
          obtain ⟨k, w⟩ := e
          simp only [Tbl.wf, Bool.and_eq_true, decide_eq_true_eq] at hu
          have := h k
          simp [Tbl.get] at this
          exact absurd this.symm hu.1.1
  | cons e t ih =>
      obtain ⟨k, w⟩ := e
      simp only [Tbl.wf, Bool.and_eq_true, decide_eq_true_eq] at ht
      obtain ⟨⟨hw, ha⟩, ht⟩ := ht
      cases u with
      | nil =>
          have := h k
          simp [Tbl.get] at this
          exact absurd this hw
      | cons e u =>
          obtain ⟨j, x⟩ := e
          simp only [Tbl.wf, Bool.and_eq_true, decide_eq_true_eq] at hu
          obtain ⟨⟨hx, hb⟩, hu⟩ := hu
          have hjk : k = j := by
            rcases Nat.lt_trichotomy k j with hlt | heq | hlt
            · have := h k
              have hne : j ≠ k := by omega
              simp only [Tbl.get, if_true, hne, if_false, absent j u hb k (by omega)] at this
              exact absurd this hw
            · exact heq
            · have := h j
              have hne : k ≠ j := by omega
              simp only [Tbl.get, if_true, hne, if_false, absent k t ha j (by omega)] at this
              exact absurd this.symm hx
          subst hjk
          have hwx : w = x := by simpa [Tbl.get] using h k
          subst hwx
          congr 1
          refine ih u ht hu fun n => ?_
          by_cases hn : k = n
          · subst hn
            rw [absent k t ha k (Nat.le_refl k), absent k u hb k (Nat.le_refl k)]
          · simpa [Tbl.get, hn] using h n

namespace Machine

theorem Memory.writeN_wf (m : Tbl Byte) (a : Nat) (bs : List Byte) (h : Memory.wf m = true) :
    Memory.wf (Memory.writeN m a bs) = true := by
  induction bs generalizing m a with
  | nil => exact h
  | cons b bs ih => exact ih _ _ (Tbl.put_wf 0 b a m h)

theorem Memory.read_writeN_outside (m : Tbl Byte) (a n : Nat) (bs : List Byte) (h : n < a ∨ a + bs.length ≤ n) :
    Memory.read (Memory.writeN m a bs) n = Memory.read m n := by
  induction bs generalizing m a with
  | nil => rfl
  | cons b bs ih =>
      simp only [List.length_cons] at h
      have hn : n ≠ a := by omega
      simp only [Memory.writeN]
      rw [ih _ _ (by omega)]
      exact Tbl.get_put_other 0 b a n m hn

theorem Memory.read_writeN_inside (m : Tbl Byte) (a i : Nat) (bs : List Byte) (h : i < bs.length) :
    Memory.read (Memory.writeN m a bs) (a + i) = bs[i] := by
  induction bs generalizing m a i with
  | nil => exact absurd h (Nat.not_lt_zero i)
  | cons b bs ih =>
      simp only [Memory.writeN]
      cases i with
      | zero =>
          rw [Memory.read_writeN_outside _ _ _ _ (by omega)]
          exact Tbl.get_put_same 0 b a m
      | succ i =>
          have := ih (Tbl.put 0 m a b) (a + 1) i (by simpa using h)
          simpa [Nat.add_comm, Nat.add_left_comm, Nat.add_assoc] using this

theorem Memory.readN_writeN (m : Tbl Byte) (a : Nat) (bs : List Byte) :
    Memory.readN (Memory.writeN m a bs) a bs.length = bs := by
  induction bs generalizing m a with
  | nil => rfl
  | cons b bs ih =>
      simp only [Memory.writeN, List.length_cons, Memory.readN]
      rw [ih, Memory.read_writeN_outside _ _ _ _ (by omega)]
      congr 1
      exact Tbl.get_put_same 0 b a m

end Machine
end Sys2Proof
end

