-- ==== Sys2Proof/Laws/Memory.lean ====
section
/-!
SUPPORT. Every operation of the model on memory keeps its canonical form (log entry 2).
-/
namespace Sys2Proof.Machine
open Sys2Proof

theorem dropRange_wf (m : Tbl Byte) (lo hi : Nat) (h : Memory.wf m = true) : Memory.wf (m.dropRange lo hi) = true := Tbl.filter_wf 0 _ m h

theorem foldPut_wf (f : Nat × Byte → Nat) (l : List (Nat × Byte)) (m : Tbl Byte) (h : Memory.wf m = true) :
    Memory.wf (l.foldl (fun m e => Tbl.put 0 m (f e) e.2) m) = true := by
  induction l generalizing m with
  | nil => exact h
  | cons e l ih => exact ih _ (Tbl.put_wf 0 _ _ _ h)

/-- The loss of what a dirty line of the L2 holds above memory (R432, R441). -/
theorem dropDirty_wf (m : Tbl Byte) (x : L2Line) (h : Memory.wf m = true) : Memory.wf (dropDirty m x) = true := by
  unfold dropDirty
  split
  · exact foldPut_wf _ _ _ (dropRange_wf _ _ _ h)
  · exact h

theorem dropAllDirty_wf (l : List L2Line) (m : Tbl Byte) (h : Memory.wf m = true) : Memory.wf (l.foldl dropDirty m) = true := by
  induction l generalizing m with
  | nil => exact h
  | cons x l ih => exact ih _ (dropDirty_wf _ _ h)

/-- The copy of a page (R145). -/
theorem copyBytes_wf (m : Tbl Byte) (a b n : Nat) (h : Memory.wf m = true) : Memory.wf (copyBytes m a b n) = true :=
  foldPut_wf _ _ _ (dropRange_wf _ _ _ h)

/-! ## A write at a home slice -/

/-- A fold of steps that leave a part of the state alone leaves it alone. -/
theorem foldl_keeps {α β : Type} (p : State → β) (f : State → α → State) (hf : ∀ s x, p (f s x) = p s) (l : List α) (s : State) :
    p (l.foldl f s) = p s := by
  induction l generalizing s with
  | nil => rfl
  | cons x l ih => rw [List.foldl_cons, ih, hf]

theorem foldl_memoryOk {α : Type} (f : State → α → State) (hf : ∀ s x, s.memoryOk = true → (f s x).memoryOk = true) (l : List α)
    (s : State) (h : s.memoryOk = true) : (l.foldl f s).memoryOk = true := by
  induction l generalizing s with
  | nil => exact h
  | cons x l ih => exact ih _ (hf s x h)

/-- The accounting of the L2 changes the dies only (R98, R99). -/
theorem touchL2_dies (s : State) (c : Nat) (h : BitVec 2) (w : Bool) : ∃ ds, s.touchL2 c h w = { s with dies := ds } := by
  unfold State.touchL2
  split
  · exact ⟨s.dies, rfl⟩
  · dsimp only
    split <;> exact ⟨_, rfl⟩

theorem touchL2_mem (s : State) (c : Nat) (h : BitVec 2) (w : Bool) : (s.touchL2 c h w).mem = s.mem := by
  obtain ⟨ds, hd⟩ := touchL2_dies s c h w
  rw [hd]

theorem wake_mem (s : State) (u : Nat) (b : Bool) : (s.wake u b).mem = s.mem := by
  unfold State.wake
  split
  · rfl
  · dsimp only
    split <;> rfl

/-- A flit that joins its queue changes the links and the flits only (R128, R162). -/
theorem sendFlit_frame (s : State) (u : Nat) (hops : List (Nat × Nat)) :
    ∃ ls fs, s.sendFlit u hops = { s with linkDirs := ls, flits := fs } := by
  unfold State.sendFlit
  split
  · exact ⟨s.linkDirs, s.flits, rfl⟩
  · dsimp only
    split
    · exact ⟨_, _, rfl⟩
    · exact ⟨s.linkDirs, _, rfl⟩

theorem sendFlit_mem (s : State) (u : Nat) (hops : List (Nat × Nat)) : (s.sendFlit u hops).mem = s.mem := by
  obtain ⟨ls, fs, h⟩ := sendFlit_frame s u hops
  rw [h]

theorem wakeFrom_mem (s : State) (n : Nat) (w : Watch) : (s.wakeFrom n w).mem = s.mem := by
  unfold State.wakeFrom
  split
  · rfl
  · dsimp only
    split
    · rw [wake_mem]; rfl
    · rw [sendFlit_mem]; rfl

theorem wakeSlice_mem (s : State) (die slice c n : Nat) : (s.wakeSlice die slice c n).mem = s.mem := by
  unfold State.wakeSlice
  dsimp only
  split
  · rfl
  · exact foldl_keeps State.mem _ (fun s w => wakeFrom_mem s die w) _ _

theorem wakeWatches_mem (s : State) (c n : Nat) : (s.wakeWatches c n).mem = s.mem :=
  foldl_keeps State.mem _ (fun s _ => wakeSlice_mem s _ _ c n) _ _

/-- Memory after a write at its home slices holds the bytes at the cell (R292, R470). -/
theorem applyWrite_mem (s : State) (c : Nat) (h : BitVec 2) (bs : List Byte) : (s.applyWrite c h bs).mem = Memory.writeN s.mem c bs := by
  have ht := foldl_keeps State.mem (fun s b => s.touchL2 b h true) (fun s b => touchL2_mem s b h true) (blocksOf c bs.length) s
  simp only [State.applyWrite, wakeWatches_mem, ht]

theorem applyWrite_wf (s : State) (c : Nat) (h : BitVec 2) (bs : List Byte) (hm : s.memoryOk = true) : (s.applyWrite c h bs).memoryOk = true := by
  rw [State.memoryOk, applyWrite_mem]
  exact Memory.writeN_wf _ _ _ hm

/-- Setting DIRTY in a run of page-table entries (R139). -/
theorem setDirty_wf (s : State) (first : Nat) (e : W64) (n : Nat) (h : s.memoryOk = true) : (s.setDirty first e n).memoryOk = true :=
  foldl_memoryOk _ (fun s _ hs => applyWrite_wf s _ 0 _ hs) _ s h

/-- Writing an entry to a run of page-table entries (R145). -/
theorem writeRun_wf (s : State) (first : Nat) (e : W64) (n : Nat) (h : s.memoryOk = true) : (s.writeRun first e n).memoryOk = true :=
  foldl_memoryOk _ (fun s _ hs => applyWrite_wf s _ 0 _ hs) _ s h

/-! ## Encryption at the channels (R151, R152) -/

theorem memoryOk_writeN (s : State) (c : Nat) (bs : List Byte) (h : s.memoryOk = true) :
    ({ s with mem := Memory.writeN s.mem c bs } : State).memoryOk = true := Memory.writeN_wf _ _ _ h

theorem openAs_wf (s : State) (old new : Seal) (c : Nat) (h : s.memoryOk = true) : (s.openAs old new c).memoryOk = true := by
  unfold State.openAs
  split
  · exact h
  · exact memoryOk_writeN s c _ h

theorem memoryOk_seals (s : State) (t : Tbl Seal) (h : s.memoryOk = true) : ({ s with seals := t } : State).memoryOk = true := h

theorem rekey_wf (s : State) (c : Nat) (k : Seal) (h : s.memoryOk = true) : (s.rekey c k).memoryOk = true := by
  unfold State.rekey
  generalize span 0 64 = l
  dsimp only
  split
  · exact h
  · exact memoryOk_seals _ _ (foldl_memoryOk _ (fun s i hs => openAs_wf s _ k _ hs) l s h)

/-- The copy of a page under its new key (R145, R152). -/
theorem copyPage_wf (s : State) (a b n : Nat) (old new : Seal) (h : s.memoryOk = true) : (s.copyPage a b n old new).memoryOk = true :=
  copyBytes_wf _ a b n (foldl_memoryOk _ (fun s _ hs => rekey_wf s _ old hs) _ s h)

end Sys2Proof.Machine
end

