-- ==== Sys2Proof/Laws/Links.lean ====
section
/-!
SUPPORT. What a crossing of link directions can do (R2, R128): it changes the counts and the passes of the directions only, and it
fails only where a direction is held.
-/
namespace Sys2Proof.Machine
open Sys2Proof

/-- A crossing changes the directions only. -/
theorem crossNow_frame {c : Nat} {w : List Nat} {s t : State} (h : s.crossNow c w = some t) : ∃ l, t = { s with linkDirs := l } := by
  induction w generalizing s with
  | nil => cases h; exact ⟨t.linkDirs, rfl⟩
  | cons n w ih =>
      simp only [State.crossNow] at h
      split at h
      · cases h
      · obtain ⟨l, rfl⟩ := ih h
        exact ⟨l, rfl⟩

/-- Open directions can be crossed. -/
theorem crossNow_open {c : Nat} {w : List Nat} {s : State} (h : ∀ n ∈ w, s.dirOpen n = true) :
    ∃ l, s.crossNow c w = some { s with linkDirs := l } := by
  induction w generalizing s with
  | nil => exact ⟨s.linkDirs, rfl⟩
  | cons n w ih =>
      simp only [State.crossNow, h n (by simp), Bool.not_true, Bool.false_eq_true, if_false]
      obtain ⟨l, hl⟩ := ih (s := s.setLinkDir n { s.linkDir n with pass := passAfter (s.linkDir n).pass c, sent := (s.linkDir n).sent + 1 })
        fun m hm => h m (by simp [hm])
      exact ⟨l, hl⟩

theorem crossWays_frame {c : Nat} {ws : List (List Nat)} {s t : State} (h : crossWays c ws s = some t) : ∃ l, t = { s with linkDirs := l } := by
  induction ws generalizing s with
  | nil => cases h; exact ⟨t.linkDirs, rfl⟩
  | cons w ws ih =>
      rw [crossWays, Option.bind_eq_some_iff] at h
      obtain ⟨u, hu, h⟩ := h
      obtain ⟨l, rfl⟩ := crossNow_frame hu
      obtain ⟨l, rfl⟩ := ih h
      exact ⟨l, rfl⟩

theorem crossWays_open {c : Nat} {ws : List (List Nat)} {s : State} (h : ∀ w ∈ ws, ∀ n ∈ w, s.dirOpen n = true) :
    ∃ l, crossWays c ws s = some { s with linkDirs := l } := by
  induction ws generalizing s with
  | nil => exact ⟨s.linkDirs, rfl⟩
  | cons w ws ih =>
      obtain ⟨l, hl⟩ := crossNow_open (c := c) (h w (by simp))
      obtain ⟨k, hk⟩ := ih (s := { s with linkDirs := l }) fun v hv => h v (by simp [hv])
      exact ⟨k, by rw [crossWays, hl, Option.bind_some, hk]⟩

/-- The accounting of the L2 holds no die in reset and releases none. -/
theorem touchL2_held (s : State) (c : Nat) (h : BitVec 2) (w : Bool) (n : Nat) : ((s.touchL2 c h w).die n).held = (s.die n).held := by
  unfold State.touchL2
  split
  · rfl
  · dsimp only
    split <;>
    · simp only [State.die, State.setDie, Tbl.get_put]
      split
      · subst_vars; rfl
      · rfl

/-- Which directions carry flits rests on the links, the ports and the dies that are held. -/
theorem dirOpen_congr {s t : State} (hl : t.links = s.links) (hp : t.ports = s.ports) (hd : ∀ n, (t.die n).held = (s.die n).held) (n : Nat) :
    t.dirOpen n = s.dirOpen n := by
  simp only [State.dirOpen, State.link, State.port, hl, hp, hd]

end Sys2Proof.Machine
end

