-- ==== Sys2Proof/Laws/PerInstr.lean ====
section
/-!
SUPPORT. The encoding of every instruction as syntax: the slot of a well-formed instruction decodes to it, with one lemma for each
constructor.
-/
namespace Sys2Proof

/-! ## Fields of a word that is made of fields -/

theorem bits_or (a b : W64) (lo n : Nat) : bits (a ||| b) lo n = bits a lo n ||| bits b lo n := by
  ext i hi; simp [bits]

theorem bits_place_same {n : Nat} (x : BitVec n) (lo : Nat) (h : lo + n ≤ 64) : bits (place x lo) lo n = x := by
  ext i hi
  have h1 : lo + i < 64 := by omega
  simp [bits, place, h1, hi]

theorem bits_place_below {m : Nat} (x : BitVec m) (l lo n : Nat) (h : l + m ≤ lo) : bits (place x l) lo n = 0#n := by
  ext i hi
  have : m ≤ lo + i - l := by omega
  simp [bits, place, this]

theorem bits_place_above {m : Nat} (x : BitVec m) (l lo n : Nat) (h : lo + n ≤ l) : bits (place x l) lo n = 0#n := by
  ext i hi
  have : lo + i < l := by omega
  simp [bits, place, this]

theorem bits_placeBool_below (b : Bool) (l lo n : Nat) (h : l < lo) : bits (placeBool b l) lo n = 0#n := by
  cases b
  · simp [bits, placeBool]
  · ext i hi
    have : lo + i - l ≠ 0 := by omega
    simp [bits, placeBool, this, BitVec.getLsbD_one]

theorem bits_placeBool_above (b : Bool) (l lo n : Nat) (h : lo + n ≤ l) : bits (placeBool b l) lo n = 0#n := by
  cases b
  · simp [bits, placeBool]
  · ext i hi
    have : lo + i < l := by omega
    simp [bits, placeBool, this]

theorem bitAt_or (a b : W64) (i : Nat) : bitAt (a ||| b) i = (bitAt a i || bitAt b i) := by simp [bitAt]

theorem bitAt_placeBool_same (b : Bool) (i : Nat) (h : i < 64) : bitAt (placeBool b i) i = b := by
  cases b <;> simp [bitAt, placeBool, h]

theorem bitAt_placeBool_ne (b : Bool) (l i : Nat) (h : i ≠ l) : bitAt (placeBool b l) i = false := by
  cases b
  · simp [bitAt, placeBool]
  · simp [bitAt, placeBool, BitVec.getLsbD_one]; omega

theorem bitAt_place_below {m : Nat} (x : BitVec m) (l i : Nat) (h : l + m ≤ i) : bitAt (place x l) i = false := by
  have : m ≤ i - l := by omega
  simp [bitAt, place, this]

theorem bitAt_place_above {m : Nat} (x : BitVec m) (l i : Nat) (h : i < l) : bitAt (place x l) i = false := by
  simp [bitAt, place, h]

theorem Operand.ofCode_s : ∀ r : BitVec 6, Operand.ofCode (Operand.s r).code = .s r := by decide
theorem Operand.ofCode_l : ∀ r : BitVec 2, Operand.ofCode (Operand.l r).code = .l r := by decide
theorem Operand.ofCode_q : ∀ r : BitVec 4, Operand.ofCode (Operand.q r).code = .q r := by decide

theorem Operand.ofCode_code (o : Operand) (h : o.wf = true) : Operand.ofCode o.code = o := by
  cases o with
  | v r =>
    have := r.isLt
    simp [Operand.code, Operand.ofCode]; omega
  | s r => exact ofCode_s r
  | l r => exact ofCode_l r
  | q r => exact ofCode_q r
  | reserved x =>
    have h : 340 ≤ x.toNat := by simpa [Operand.wf] using h
    have a : ¬ x.toNat < 256 := by omega
    have b : ¬ x.toNat < 320 := by omega
    have c : ¬ x.toNat < 324 := by omega
    have d : ¬ x.toNat < 340 := by omega
    simp only [Operand.code, Operand.ofCode, a, b, c, d, if_false]

theorem ElemType.ofCode_code (t : ElemType) : ElemType.ofCode t.code = some t := by cases t <;> rfl

/-- The V-form is read back, and its opcode stands in bits 63 to 56. -/
theorem decV_encV (op : BitVec 8) (f : VForm) (h1 : f.dst.wf = true) (h2 : f.sa.wf = true) (h3 : f.sb.wf = true) (h4 : f.sc.wf = true) :
    decV f.pfx (encV op f) = some f := by
  simp (disch := omega) [decV, encV, bits_or, bits_place_same, bits_place_below, bits_place_above, bits_placeBool_below, bits_placeBool_above,
      bitAt_or, bitAt_placeBool_same, bitAt_placeBool_ne, bitAt_place_below, bitAt_place_above, ElemType.ofCode_code, Operand.ofCode_code]

theorem op_encV (op : BitVec 8) (f : VForm) : bits (encV op f) 56 8 = op := by
  simp (disch := omega) [encV, bits_or, bits_place_same, bits_place_below, bits_placeBool_below]

/-- The I-form is read back, and its opcode stands in bits 63 to 56. -/
theorem decI_encI (op : BitVec 8) (f : IForm) (h1 : f.dst.wf = true) :
    decI f.pfx (encI op f) = some f := by
  simp (disch := omega) [decI, encI, bits_or, bits_place_same, bits_place_below, bits_place_above, bits_placeBool_below, bits_placeBool_above,
      bitAt_or, bitAt_placeBool_same, bitAt_placeBool_ne, bitAt_place_below, bitAt_place_above, ElemType.ofCode_code, Operand.ofCode_code]

theorem op_encI (op : BitVec 8) (f : IForm) : bits (encI op f) 56 8 = op := by
  simp (disch := omega) [encI, bits_or, bits_place_same, bits_place_below, bits_placeBool_below]

theorem idxOf_idxCode (o : Option Operand) (h : ∀ x, o = some x → x.wf = true ∧ x ≠ .reserved 0x1FF) : idxOf (idxCode o) = o := by
  cases o with
  | none => rfl
  | some x =>
    obtain ⟨h1, h2⟩ := h x rfl
    have e := Operand.ofCode_code x h1
    have : x.code ≠ 0x1FF := fun k => h2 (by rw [← e, k]; rfl)
    simp only [idxOf, idxCode, this, if_false, e]

/-- The M-form is read back, and its opcode stands in bits 63 to 56. -/
theorem decM_encM (op : BitVec 8) (f : MForm) (h1 : f.data.wf = true) (h2 : ∀ x, f.idx = some x → x.wf = true ∧ x ≠ .reserved 0x1FF) :
    decM f.pfx (encM op f) = some f := by
  simp (disch := omega) [decM, encM, bits_or, bits_place_same, bits_place_below, bits_place_above, bits_placeBool_below, bits_placeBool_above,
      bitAt_or, bitAt_placeBool_same, bitAt_placeBool_ne, bitAt_place_below, bitAt_place_above, ElemType.ofCode_code, Operand.ofCode_code, idxOf_idxCode f.idx h2]

theorem op_encM (op : BitVec 8) (f : MForm) : bits (encM op f) 56 8 = op := by
  simp (disch := omega) [encM, bits_or, bits_place_same, bits_place_below, bits_placeBool_below]

/-- The Q-form is read back, and its opcode stands in bits 63 to 56. -/
theorem decQ_encQ (op : BitVec 8) (f : QForm) (h1 : f.desc.wf = true) (h2 : f.arg.wf = true) :
    decQ f.pfx (encQ op f) = some f := by
  simp (disch := omega) [decQ, encQ, bits_or, bits_place_same, bits_place_below, bits_place_above, bits_placeBool_below, bits_placeBool_above,
      bitAt_or, bitAt_placeBool_same, bitAt_placeBool_ne, bitAt_place_below, bitAt_place_above, ElemType.ofCode_code, Operand.ofCode_code]

theorem op_encQ (op : BitVec 8) (f : QForm) : bits (encQ op f) 56 8 = op := by
  simp (disch := omega) [encQ, bits_or, bits_place_same, bits_place_below, bits_placeBool_below]

/-- The S-form is read back, and its opcode stands in bits 63 to 56. -/
theorem decS_encS (op : BitVec 8) (f : SForm) (h1 : f.dst.wf = true) (h2 : f.sa.wf = true) :
    decS f.pfx (encS op f) = some f := by
  simp (disch := omega) [decS, encS, bits_or, bits_place_same, bits_place_below, bits_place_above, bits_placeBool_below, bits_placeBool_above,
      bitAt_or, bitAt_placeBool_same, bitAt_placeBool_ne, bitAt_place_below, bitAt_place_above, Operand.ofCode_code]

theorem op_encS (op : BitVec 8) (f : SForm) : bits (encS op f) 56 8 = op := by
  simp (disch := omega) [encS, bits_or, bits_place_same, bits_place_below, bits_placeBool_below]

/-- The B-form is read back, and its opcode stands in bits 63 to 56. -/
theorem decB_encB (op : BitVec 8) (f : BForm) :
    decB (encB op f) = some f := by
  simp (disch := omega) [decB, encB, bits_or, bits_place_same, bits_place_below, bits_place_above, bits_placeBool_below, bits_placeBool_above,
      bitAt_or, bitAt_placeBool_same, bitAt_placeBool_ne, bitAt_place_below, bitAt_place_above, BitVec.zero_or]

theorem op_encB (op : BitVec 8) (f : BForm) : bits (encB op f) 56 8 = op := by
  simp (disch := omega) [encB, bits_or, bits_place_same, bits_place_below, bits_placeBool_below]

theorem decodeSlot_of (p : Pfx) (w : W64) (op : BitVec 8) (i : Instr) (hb : bits w 56 8 = op) (ha : opAssigned op = true)
    (hB : opIsB op = false ∨ p = Pfx.none) (hi : instrOf p w = some i) (hw : i.wellFormed = true) : decodeSlot p w = .ok i := by
  simp only [Instr.wellFormed, Bool.and_eq_true] at hw
  rcases hB with h | h
  · simp [decodeSlot, hb, ha, hi, hw.1.2, hw.2, h]
  · subst h; simp [decodeSlot, hb, ha, hi, hw.1.2, hw.2]

theorem fieldsOk_of {i : Instr} (h : i.wellFormed = true) : i.fieldsOk = true := by
  simp only [Instr.wellFormed, Bool.and_eq_true] at h; exact h.1.2

theorem opNat {w : W64} {op : BitVec 8} {n : Nat} (h : bits w 56 8 = op) (e : op.toNat = n) : (bits w 56 8).toNat = n := by rw [h, e]

theorem andL {a b : Bool} (h : (a && b) = true) : a = true := by simp only [Bool.and_eq_true] at h; exact h.1

theorem andR {a b : Bool} (h : (a && b) = true) : b = true := by simp only [Bool.and_eq_true] at h; exact h.2

theorem varLt {f ty n d a b c x nw g} (h : Wf.v f ty n d a b c x nw g = true) : f.var.toNat < n := by
  simp only [Wf.v, Bool.and_eq_true, decide_eq_true_eq] at h; simp only [h]

theorem selOk {f a b s i} (h : Wf.s f a b s i = true) : s f.sel.toNat = true := by
  simp only [Wf.s, Bool.and_eq_true] at h; simp only [h]

theorem opsV {f ty n d a b c x nw g} (h : Wf.v f ty n d a b c x nw g = true) :
    f.dst.wf = true ∧ f.sa.wf = true ∧ f.sb.wf = true ∧ f.sc.wf = true := by
  simp only [Wf.v, Bool.and_eq_true] at h; simp only [h, and_self]

theorem opsI {f ty} (h : Wf.i f ty = true) : f.dst.wf = true := by
  simp only [Wf.i, Bool.and_eq_true] at h; exact h.1.2

theorem opsM {f ty b} (h : Wf.m f ty b = true) : f.data.wf = true ∧ ∀ x, f.idx = some x → x.wf = true ∧ x ≠ .reserved 0x1FF := by
  simp only [Wf.m, Bool.and_eq_true] at h
  refine ⟨h.1.1.2, fun x e => ?_⟩
  have k := h.1.2
  rw [e] at k
  simpa using k

theorem opsQ {f ty a b c d e g} (h : Wf.q f ty a b c d e g = true) : f.desc.wf = true ∧ f.arg.wf = true := by
  simp only [Wf.q, Bool.and_eq_true] at h; simp only [h, and_self]

theorem opsS {f a b s i} (h : Wf.s f a b s i = true) : f.dst.wf = true ∧ f.sa.wf = true := by
  simp only [Wf.s, Bool.and_eq_true] at h; simp only [h, and_self]

theorem tripV (op : BitVec 8) (i : Instr) (f : VForm) (hs : slotWord i = some (encV op f)) (hp : i.pfx = f.pfx)
    (ho : opAssigned op = true) (hB : opIsB op = false) (h : i.wellFormed = true) (k : f.dst.wf = true ∧ f.sa.wf = true ∧ f.sb.wf = true ∧ f.sc.wf = true)
    (hi : ∀ p w, bits w 56 8 = op → decV p w = some f → instrOf p w = some i) :
    ∃ w, slotWord i = some w ∧ decodeSlot i.pfx w = .ok i := by
  refine ⟨_, hs, decodeSlot_of _ _ op i (op_encV op f) ho (.inl hB) (hi _ _ (op_encV op f) ?_) h⟩
  rw [hp]; exact decV_encV op f k.1 k.2.1 k.2.2.1 k.2.2.2

theorem tripI (op : BitVec 8) (i : Instr) (f : IForm) (hs : slotWord i = some (encI op f)) (hp : i.pfx = f.pfx)
    (ho : opAssigned op = true) (hB : opIsB op = false) (h : i.wellFormed = true) (k : f.dst.wf = true)
    (hi : ∀ p w, bits w 56 8 = op → decI p w = some f → instrOf p w = some i) :
    ∃ w, slotWord i = some w ∧ decodeSlot i.pfx w = .ok i := by
  refine ⟨_, hs, decodeSlot_of _ _ op i (op_encI op f) ho (.inl hB) (hi _ _ (op_encI op f) ?_) h⟩
  rw [hp]; exact decI_encI op f k

theorem tripM (op : BitVec 8) (i : Instr) (f : MForm) (hs : slotWord i = some (encM op f)) (hp : i.pfx = f.pfx)
    (ho : opAssigned op = true) (hB : opIsB op = false) (h : i.wellFormed = true) (k : f.data.wf = true ∧ ∀ x, f.idx = some x → x.wf = true ∧ x ≠ .reserved 0x1FF)
    (hi : ∀ p w, bits w 56 8 = op → decM p w = some f → instrOf p w = some i) :
    ∃ w, slotWord i = some w ∧ decodeSlot i.pfx w = .ok i := by
  refine ⟨_, hs, decodeSlot_of _ _ op i (op_encM op f) ho (.inl hB) (hi _ _ (op_encM op f) ?_) h⟩
  rw [hp]; exact decM_encM op f k.1 k.2

theorem tripQ (op : BitVec 8) (i : Instr) (f : QForm) (hs : slotWord i = some (encQ op f)) (hp : i.pfx = f.pfx)
    (ho : opAssigned op = true) (hB : opIsB op = false) (h : i.wellFormed = true) (k : f.desc.wf = true ∧ f.arg.wf = true)
    (hi : ∀ p w, bits w 56 8 = op → decQ p w = some f → instrOf p w = some i) :
    ∃ w, slotWord i = some w ∧ decodeSlot i.pfx w = .ok i := by
  refine ⟨_, hs, decodeSlot_of _ _ op i (op_encQ op f) ho (.inl hB) (hi _ _ (op_encQ op f) ?_) h⟩
  rw [hp]; exact decQ_encQ op f k.1 k.2

theorem tripS (op : BitVec 8) (i : Instr) (f : SForm) (hs : slotWord i = some (encS op f)) (hp : i.pfx = f.pfx)
    (ho : opAssigned op = true) (hB : opIsB op = false) (h : i.wellFormed = true) (k : f.dst.wf = true ∧ f.sa.wf = true)
    (hi : ∀ p w, bits w 56 8 = op → decS p w = some f → instrOf p w = some i) :
    ∃ w, slotWord i = some w ∧ decodeSlot i.pfx w = .ok i := by
  refine ⟨_, hs, decodeSlot_of _ _ op i (op_encS op f) ho (.inl hB) (hi _ _ (op_encS op f) ?_) h⟩
  rw [hp]; exact decS_encS op f k.1 k.2

theorem tripB (op : BitVec 8) (i : Instr) (f : BForm) (hs : slotWord i = some (encB op f)) (hp : i.pfx = Pfx.none)
    (ho : opAssigned op = true) (h : i.wellFormed = true)
    (hi : ∀ p w, bits w 56 8 = op → decB w = some f → instrOf p w = some i) :
    ∃ w, slotWord i = some w ∧ decodeSlot i.pfx w = .ok i := by
  refine ⟨_, hs, decodeSlot_of _ _ op i (op_encB op f) ho (.inr hp) (hi _ _ (op_encB op f) ?_) h⟩
  exact decB_encB op f 

/-! ## Every constructor -/

namespace Laws.RoundTrip

open Wf

/-- The slot of a well-formed instruction decodes to that instruction. -/
def Statement (i : Instr) : Prop := i.wellFormed = true → ∃ w, slotWord i = some w ∧ decodeSlot i.pfx w = .ok i

theorem nop (f : VForm) : Statement (.nop f) := fun h =>
  tripV 0x01 (.nop f) f rfl rfl rfl rfl h (by have k : (v f noType 1 false false false false (· = 0) false false) = true := fieldsOk_of h; exact opsV k)
    (fun p w a b => by have e : (bits w 56 8).toNat = 0x01 := opNat a rfl; unfold instrOf; rw [e]; show Option.map _ _ = _; rw [b]; rfl)
theorem smov (f : VForm) : Statement (.smov f) := fun h =>
  tripV 0x02 (.smov f) f rfl rfl rfl rfl h (by have k : (v f anyType 1 true true false false (· = 0)) = true := fieldsOk_of h; exact opsV k)
    (fun p w a b => by have e : (bits w 56 8).toNat = 0x02 := opNat a rfl; unfold instrOf; rw [e]; show Option.map _ _ = _; rw [b]; rfl)
theorem smovi (f : IForm) : Statement (.smovi f) := fun h =>
  tripI 0x03 (.smovi f) f rfl rfl rfl rfl h (by have k : (i f anyType) = true := fieldsOk_of h; exact opsI k)
    (fun p w a b => by have e : (bits w 56 8).toNat = 0x03 := opNat a rfl; unfold instrOf; rw [e]; show Option.map _ _ = _; rw [b]; rfl)
theorem sadd (f : VForm) : Statement (.sadd f) := fun h =>
  tripV 0x04 (.sadd f) f rfl rfl rfl rfl h (by have k : (v f ElemType.isInt 1 true true true false (sat f.ty)) = true := fieldsOk_of h; exact opsV k)
    (fun p w a b => by have e : (bits w 56 8).toNat = 0x04 := opNat a rfl; unfold instrOf; rw [e]; show Option.map _ _ = _; rw [b]; rfl)
theorem ssub (f : VForm) : Statement (.ssub f) := fun h =>
  tripV 0x05 (.ssub f) f rfl rfl rfl rfl h (by have k : (v f ElemType.isInt 1 true true true false (sat f.ty)) = true := fieldsOk_of h; exact opsV k)
    (fun p w a b => by have e : (bits w 56 8).toNat = 0x05 := opNat a rfl; unfold instrOf; rw [e]; show Option.map _ _ = _; rw [b]; rfl)
theorem smul (f : VForm) : Statement (.smul f) := fun h =>
  tripV 0x06 (.smul f) f rfl rfl rfl rfl h (by have k : (v f ElemType.isInt 1 true true true false (sat f.ty)) = true := fieldsOk_of h; exact opsV k)
    (fun p w a b => by have e : (bits w 56 8).toNat = 0x06 := opNat a rfl; unfold instrOf; rw [e]; show Option.map _ _ = _; rw [b]; rfl)
theorem smulh (f : VForm) : Statement (.smulh f) := fun h =>
  tripV 0x07 (.smulh f) f rfl rfl rfl rfl h (by have k : (v f ElemType.isInt 1 true true true false (· = 0)) = true := fieldsOk_of h; exact opsV k)
    (fun p w a b => by have e : (bits w 56 8).toNat = 0x07 := opNat a rfl; unfold instrOf; rw [e]; show Option.map _ _ = _; rw [b]; rfl)
theorem sdiv (f : VForm) : Statement (.sdiv f) := fun h =>
  tripV 0x08 (.sdiv f) f rfl rfl rfl rfl h (by have k : (v f ElemType.isInt 1 true true true false (sat f.ty)) = true := fieldsOk_of h; exact opsV k)
    (fun p w a b => by have e : (bits w 56 8).toNat = 0x08 := opNat a rfl; unfold instrOf; rw [e]; show Option.map _ _ = _; rw [b]; rfl)
theorem srem (f : VForm) : Statement (.srem f) := fun h =>
  tripV 0x09 (.srem f) f rfl rfl rfl rfl h (by have k : (v f ElemType.isInt 1 true true true false (· = 0)) = true := fieldsOk_of h; exact opsV k)
    (fun p w a b => by have e : (bits w 56 8).toNat = 0x09 := opNat a rfl; unfold instrOf; rw [e]; show Option.map _ _ = _; rw [b]; rfl)
theorem sand (f : VForm) : Statement (.sand f) := fun h =>
  tripV 0x0A (.sand f) f rfl rfl rfl rfl h (by have k : (v f ElemType.isInt 1 true true true false (· = 0)) = true := fieldsOk_of h; exact opsV k)
    (fun p w a b => by have e : (bits w 56 8).toNat = 0x0A := opNat a rfl; unfold instrOf; rw [e]; show Option.map _ _ = _; rw [b]; rfl)
theorem sor (f : VForm) : Statement (.sor f) := fun h =>
  tripV 0x0B (.sor f) f rfl rfl rfl rfl h (by have k : (v f ElemType.isInt 1 true true true false (· = 0)) = true := fieldsOk_of h; exact opsV k)
    (fun p w a b => by have e : (bits w 56 8).toNat = 0x0B := opNat a rfl; unfold instrOf; rw [e]; show Option.map _ _ = _; rw [b]; rfl)
theorem sxor (f : VForm) : Statement (.sxor f) := fun h =>
  tripV 0x0C (.sxor f) f rfl rfl rfl rfl h (by have k : (v f ElemType.isInt 1 true true true false (· = 0)) = true := fieldsOk_of h; exact opsV k)
    (fun p w a b => by have e : (bits w 56 8).toNat = 0x0C := opNat a rfl; unfold instrOf; rw [e]; show Option.map _ _ = _; rw [b]; rfl)
theorem sshl (f : VForm) : Statement (.sshl f) := fun h =>
  tripV 0x0D (.sshl f) f rfl rfl rfl rfl h (by have k : (v f ElemType.isInt 2 true true true false (· = 0)) = true := fieldsOk_of h; exact opsV k)
    (fun p w a b => by have e : (bits w 56 8).toNat = 0x0D := opNat a rfl; unfold instrOf; rw [e]; show Option.map _ _ = _; rw [b]; rfl)
theorem sshr (f : VForm) : Statement (.sshr f) := fun h =>
  tripV 0x0E (.sshr f) f rfl rfl rfl rfl h (by have k : (v f ElemType.isInt 2 true true true false (· = 0)) = true := fieldsOk_of h; exact opsV k)
    (fun p w a b => by have e : (bits w 56 8).toNat = 0x0E := opNat a rfl; unfold instrOf; rw [e]; show Option.map _ _ = _; rw [b]; rfl)
theorem scmp (f : VForm) : Statement (.scmp f) := fun h =>
  tripV 0x0F (.scmp f) f rfl rfl rfl rfl h (by have k : (v f anyType 1 true true true false (xMask 0x38)) = true := fieldsOk_of h; exact opsV k)
    (fun p w a b => by have e : (bits w 56 8).toNat = 0x0F := opNat a rfl; unfold instrOf; rw [e]; show Option.map _ _ = _; rw [b]; rfl)
theorem ssel (f : VForm) : Statement (.ssel f) := fun h =>
  tripV 0x10 (.ssel f) f rfl rfl rfl rfl h (by have k : (v f anyType 1 true true true true (· = 0)) = true := fieldsOk_of h; exact opsV k)
    (fun p w a b => by have e : (bits w 56 8).toNat = 0x10 := opNat a rfl; unfold instrOf; rw [e]; show Option.map _ _ = _; rw [b]; rfl)
theorem saddi (f : IForm) : Statement (.saddi f) := fun h =>
  tripI 0x11 (.saddi f) f rfl rfl rfl rfl h (by have k : (i f ElemType.isInt) = true := fieldsOk_of h; exact opsI k)
    (fun p w a b => by have e : (bits w 56 8).toNat = 0x11 := opNat a rfl; unfold instrOf; rw [e]; show Option.map _ _ = _; rw [b]; rfl)
theorem smin (f : VForm) : Statement (.smin f) := fun h =>
  tripV 0x12 (.smin f) f rfl rfl rfl rfl h (by have k : (v f ElemType.isInt 1 true true true false (· = 0)) = true := fieldsOk_of h; exact opsV k)
    (fun p w a b => by have e : (bits w 56 8).toNat = 0x12 := opNat a rfl; unfold instrOf; rw [e]; show Option.map _ _ = _; rw [b]; rfl)
theorem smax (f : VForm) : Statement (.smax f) := fun h =>
  tripV 0x13 (.smax f) f rfl rfl rfl rfl h (by have k : (v f ElemType.isInt 1 true true true false (· = 0)) = true := fieldsOk_of h; exact opsV k)
    (fun p w a b => by have e : (bits w 56 8).toNat = 0x13 := opNat a rfl; unfold instrOf; rw [e]; show Option.map _ _ = _; rw [b]; rfl)
theorem srd (f : VForm) : Statement (.srd f) := fun h =>
  tripV 0x14 (.srd f) f rfl rfl rfl rfl h (by have k : (v f noType 1 true false false false srdCode) = true := fieldsOk_of h; exact opsV k)
    (fun p w a b => by have e : (bits w 56 8).toNat = 0x14 := opNat a rfl; unfold instrOf; rw [e]; show Option.map _ _ = _; rw [b]; rfl)
theorem scvt (f : VForm) : Statement (.scvt f) := fun h =>
  tripV 0x15 (.scvt f) f rfl rfl rfl rfl h (by have k : (v f anyType 1 true true false false (fun x => xMask 0x1F x && convX f.ty x)) = true := fieldsOk_of h; exact opsV k)
    (fun p w a b => by have e : (bits w 56 8).toNat = 0x15 := opNat a rfl; unfold instrOf; rw [e]; show Option.map _ _ = _; rw [b]; rfl)
theorem sclz (f : VForm) : Statement (.sclz f) := fun h =>
  tripV 0x16 (.sclz f) f rfl rfl rfl rfl h (by have k : (v f ElemType.isInt 1 true true false false (· = 0)) = true := fieldsOk_of h; exact opsV k)
    (fun p w a b => by have e : (bits w 56 8).toNat = 0x16 := opNat a rfl; unfold instrOf; rw [e]; show Option.map _ _ = _; rw [b]; rfl)
theorem spopc (f : VForm) : Statement (.spopc f) := fun h =>
  tripV 0x17 (.spopc f) f rfl rfl rfl rfl h (by have k : (v f ElemType.isInt 1 true true false false (· = 0)) = true := fieldsOk_of h; exact opsV k)
    (fun p w a b => by have e : (bits w 56 8).toNat = 0x17 := opNat a rfl; unfold instrOf; rw [e]; show Option.map _ _ = _; rw [b]; rfl)
theorem vmov (f : VForm) : Statement (.vmov f) := fun h =>
  tripV 0x18 (.vmov f) f rfl rfl rfl rfl h (by have k : (v f anyType 1 true true false false (· = 0)) = true := fieldsOk_of h; exact opsV k)
    (fun p w a b => by have e : (bits w 56 8).toNat = 0x18 := opNat a rfl; unfold instrOf; rw [e]; show Option.map _ _ = _; rw [b]; rfl)
theorem vmovi (f : IForm) : Statement (.vmovi f) := fun h =>
  tripI 0x19 (.vmovi f) f rfl rfl rfl rfl h (by have k : (i f anyType) = true := fieldsOk_of h; exact opsI k)
    (fun p w a b => by have e : (bits w 56 8).toNat = 0x19 := opNat a rfl; unfold instrOf; rw [e]; show Option.map _ _ = _; rw [b]; rfl)
theorem vadd (f : VForm) : Statement (.vadd f) := fun h =>
  tripV 0x1A (.vadd f) f rfl rfl rfl rfl h (by have k : (v f intOrFloat 1 true true true false (sat f.ty)) = true := fieldsOk_of h; exact opsV k)
    (fun p w a b => by have e : (bits w 56 8).toNat = 0x1A := opNat a rfl; unfold instrOf; rw [e]; show Option.map _ _ = _; rw [b]; rfl)
theorem vsub (f : VForm) : Statement (.vsub f) := fun h =>
  tripV 0x1B (.vsub f) f rfl rfl rfl rfl h (by have k : (v f intOrFloat 1 true true true false (sat f.ty)) = true := fieldsOk_of h; exact opsV k)
    (fun p w a b => by have e : (bits w 56 8).toNat = 0x1B := opNat a rfl; unfold instrOf; rw [e]; show Option.map _ _ = _; rw [b]; rfl)
theorem vmul (f : VForm) : Statement (.vmul f) := fun h =>
  tripV 0x1C (.vmul f) f rfl rfl rfl rfl h (by have k : (v f intOrFloat 1 true true true false (sat f.ty)) = true := fieldsOk_of h; exact opsV k)
    (fun p w a b => by have e : (bits w 56 8).toNat = 0x1C := opNat a rfl; unfold instrOf; rw [e]; show Option.map _ _ = _; rw [b]; rfl)
theorem vfma (f : VForm) : Statement (.vfma f) := fun h =>
  tripV 0x1D (.vfma f) f rfl rfl rfl rfl h (by have k : (v f intOrFloat 1 true true true true (sat f.ty)) = true := fieldsOk_of h; exact opsV k)
    (fun p w a b => by have e : (bits w 56 8).toNat = 0x1D := opNat a rfl; unfold instrOf; rw [e]; show Option.map _ _ = _; rw [b]; rfl)
theorem vmin (f : VForm) : Statement (.vmin f) := fun h =>
  tripV 0x1E (.vmin f) f rfl rfl rfl rfl h (by have k : (v f notWide 1 true true true false (· = 0)) = true := fieldsOk_of h; exact opsV k)
    (fun p w a b => by have e : (bits w 56 8).toNat = 0x1E := opNat a rfl; unfold instrOf; rw [e]; show Option.map _ _ = _; rw [b]; rfl)
theorem vmax (f : VForm) : Statement (.vmax f) := fun h =>
  tripV 0x1F (.vmax f) f rfl rfl rfl rfl h (by have k : (v f notWide 1 true true true false (· = 0)) = true := fieldsOk_of h; exact opsV k)
    (fun p w a b => by have e : (bits w 56 8).toNat = 0x1F := opNat a rfl; unfold instrOf; rw [e]; show Option.map _ _ = _; rw [b]; rfl)
theorem vabs (f : VForm) : Statement (.vabs f) := fun h =>
  tripV 0x20 (.vabs f) f rfl rfl rfl rfl h (by have k : (v f notWide 1 true true false false (sat f.ty)) = true := fieldsOk_of h; exact opsV k)
    (fun p w a b => by have e : (bits w 56 8).toNat = 0x20 := opNat a rfl; unfold instrOf; rw [e]; show Option.map _ _ = _; rw [b]; rfl)
theorem vneg (f : VForm) : Statement (.vneg f) := fun h =>
  tripV 0x21 (.vneg f) f rfl rfl rfl rfl h (by have k : (v f notWide 1 true true false false (sat f.ty)) = true := fieldsOk_of h; exact opsV k)
    (fun p w a b => by have e : (bits w 56 8).toNat = 0x21 := opNat a rfl; unfold instrOf; rw [e]; show Option.map _ _ = _; rw [b]; rfl)
theorem vdiv (f : VForm) : Statement (.vdiv f) := fun h =>
  tripV 0x22 (.vdiv f) f rfl rfl rfl rfl h (by have k : (v f ElemType.isInt 1 true true true false (sat f.ty)) = true := fieldsOk_of h; exact opsV k)
    (fun p w a b => by have e : (bits w 56 8).toNat = 0x22 := opNat a rfl; unfold instrOf; rw [e]; show Option.map _ _ = _; rw [b]; rfl)
theorem vrem (f : VForm) : Statement (.vrem f) := fun h =>
  tripV 0x23 (.vrem f) f rfl rfl rfl rfl h (by have k : (v f ElemType.isInt 1 true true true false (· = 0)) = true := fieldsOk_of h; exact opsV k)
    (fun p w a b => by have e : (bits w 56 8).toNat = 0x23 := opNat a rfl; unfold instrOf; rw [e]; show Option.map _ _ = _; rw [b]; rfl)
theorem vand (f : VForm) : Statement (.vand f) := fun h =>
  tripV 0x24 (.vand f) f rfl rfl rfl rfl h (by have k : (v f ElemType.isInt 1 true true true false (· = 0)) = true := fieldsOk_of h; exact opsV k)
    (fun p w a b => by have e : (bits w 56 8).toNat = 0x24 := opNat a rfl; unfold instrOf; rw [e]; show Option.map _ _ = _; rw [b]; rfl)
theorem vor (f : VForm) : Statement (.vor f) := fun h =>
  tripV 0x25 (.vor f) f rfl rfl rfl rfl h (by have k : (v f ElemType.isInt 1 true true true false (· = 0)) = true := fieldsOk_of h; exact opsV k)
    (fun p w a b => by have e : (bits w 56 8).toNat = 0x25 := opNat a rfl; unfold instrOf; rw [e]; show Option.map _ _ = _; rw [b]; rfl)
theorem vxor (f : VForm) : Statement (.vxor f) := fun h =>
  tripV 0x26 (.vxor f) f rfl rfl rfl rfl h (by have k : (v f ElemType.isInt 1 true true true false (· = 0)) = true := fieldsOk_of h; exact opsV k)
    (fun p w a b => by have e : (bits w 56 8).toNat = 0x26 := opNat a rfl; unfold instrOf; rw [e]; show Option.map _ _ = _; rw [b]; rfl)
theorem vnot (f : VForm) : Statement (.vnot f) := fun h =>
  tripV 0x27 (.vnot f) f rfl rfl rfl rfl h (by have k : (v f ElemType.isInt 1 true true false false (· = 0)) = true := fieldsOk_of h; exact opsV k)
    (fun p w a b => by have e : (bits w 56 8).toNat = 0x27 := opNat a rfl; unfold instrOf; rw [e]; show Option.map _ _ = _; rw [b]; rfl)
theorem vshl (f : VForm) : Statement (.vshl f) := fun h =>
  tripV 0x28 (.vshl f) f rfl rfl rfl rfl h (by have k : (v f ElemType.isInt 2 true true true false (· = 0)) = true := fieldsOk_of h; exact opsV k)
    (fun p w a b => by have e : (bits w 56 8).toNat = 0x28 := opNat a rfl; unfold instrOf; rw [e]; show Option.map _ _ = _; rw [b]; rfl)
theorem vshr (f : VForm) : Statement (.vshr f) := fun h =>
  tripV 0x29 (.vshr f) f rfl rfl rfl rfl h (by have k : (v f ElemType.isInt 2 true true true false (· = 0)) = true := fieldsOk_of h; exact opsV k)
    (fun p w a b => by have e : (bits w 56 8).toNat = 0x29 := opNat a rfl; unfold instrOf; rw [e]; show Option.map _ _ = _; rw [b]; rfl)
theorem vcmp (f : VForm) : Statement (.vcmp f) := fun h =>
  tripV 0x2A (.vcmp f) f rfl rfl rfl rfl h (by have k : (v f anyType 3 false true true false (xMask 0x1F8)) = true := fieldsOk_of h; exact opsV k)
    (fun p w a b => by have e : (bits w 56 8).toNat = 0x2A := opNat a rfl; unfold instrOf; rw [e]; show Option.map _ _ = _; rw [b]; rfl)
theorem vsel (f : VForm) : Statement (.vsel f) := fun h =>
  tripV 0x2B (.vsel f) f rfl rfl rfl rfl h (by have k : (v f anyType 1 true true true false (xMask 0xF)) = true := fieldsOk_of h; exact opsV k)
    (fun p w a b => by have e : (bits w 56 8).toNat = 0x2B := opNat a rfl; unfold instrOf; rw [e]; show Option.map _ _ = _; rw [b]; rfl)
theorem vcvt (f : VForm) : Statement (.vcvt f) := fun h =>
  tripV 0x2C (.vcvt f) f rfl rfl rfl rfl h (by have k : (v f anyType 1 true true false false (fun x => xMask 0x1F x && convX f.ty x && f.ty.count = (srcType x).count)) = true := fieldsOk_of h; exact opsV k)
    (fun p w a b => by have e : (bits w 56 8).toNat = 0x2C := opNat a rfl; unfold instrOf; rw [e]; show Option.map _ _ = _; rw [b]; rfl)
theorem vpack (f : VForm) : Statement (.vpack f) := fun h =>
  tripV 0x2D (.vpack f) f rfl rfl rfl rfl h (by have k : (v f anyType 1 true true (2 ≤ packCount f.ty f.x) (3 ≤ packCount f.ty f.x) (fun x => xMask 0x1F x && convX f.ty x && (srcType x).count < f.ty.count && packCount f.ty x ≤ 4) && (packCount f.ty f.x ≠ 4 || f.pfx.d4.isSome)) = true := fieldsOk_of h; exact opsV (andL k))
    (fun p w a b => by have e : (bits w 56 8).toNat = 0x2D := opNat a rfl; unfold instrOf; rw [e]; show Option.map _ _ = _; rw [b]; rfl)
theorem vunpk (f : VForm) : Statement (.vunpk f) := fun h =>
  tripV 0x2E (.vunpk f) f rfl rfl rfl rfl h (by have k : (v f anyType 1 true true false false (fun x => convX f.ty x && f.ty.count < (srcType x).count && (x.extractLsb' 5 4).toNat * f.ty.count < (srcType x).count)) = true := fieldsOk_of h; exact opsV k)
    (fun p w a b => by have e : (bits w 56 8).toNat = 0x2E := opNat a rfl; unfold instrOf; rw [e]; show Option.map _ _ = _; rw [b]; rfl)
theorem vclz (f : VForm) : Statement (.vclz f) := fun h =>
  tripV 0x2F (.vclz f) f rfl rfl rfl rfl h (by have k : (v f ElemType.isInt 1 true true false false (· = 0)) = true := fieldsOk_of h; exact opsV k)
    (fun p w a b => by have e : (bits w 56 8).toNat = 0x2F := opNat a rfl; unfold instrOf; rw [e]; show Option.map _ _ = _; rw [b]; rfl)
theorem vpopc (f : VForm) : Statement (.vpopc f) := fun h =>
  tripV 0x30 (.vpopc f) f rfl rfl rfl rfl h (by have k : (v f ElemType.isInt 1 true true false false (· = 0)) = true := fieldsOk_of h; exact opsV k)
    (fun p w a b => by have e : (bits w 56 8).toNat = 0x30 := opNat a rfl; unfold instrOf; rw [e]; show Option.map _ _ = _; rw [b]; rfl)
theorem vmulh (f : VForm) : Statement (.vmulh f) := fun h =>
  tripV 0x31 (.vmulh f) f rfl rfl rfl rfl h (by have k : (v f ElemType.isInt 1 true true true false (· = 0)) = true := fieldsOk_of h; exact opsV k)
    (fun p w a b => by have e : (bits w 56 8).toNat = 0x31 := opNat a rfl; unfold instrOf; rw [e]; show Option.map _ _ = _; rw [b]; rfl)
theorem vcpys (f : VForm) : Statement (.vcpys f) := fun h =>
  tripV 0x32 (.vcpys f) f rfl rfl rfl rfl h (by have k : (v f floatOrLog 1 true true true false (· = 0)) = true := fieldsOk_of h; exact opsV k)
    (fun p w a b => by have e : (bits w 56 8).toNat = 0x32 := opNat a rfl; unfold instrOf; rw [e]; show Option.map _ _ = _; rw [b]; rfl)
theorem kand (f : VForm) : Statement (.kand f) := fun h =>
  tripV 0x33 (.kand f) f rfl rfl rfl rfl h (by have k : (v f noType 1 false false false false Instr.fieldsOk.anyX) = true := fieldsOk_of h; exact opsV k)
    (fun p w a b => by have e : (bits w 56 8).toNat = 0x33 := opNat a rfl; unfold instrOf; rw [e]; show Option.map _ _ = _; rw [b]; rfl)
theorem kor (f : VForm) : Statement (.kor f) := fun h =>
  tripV 0x34 (.kor f) f rfl rfl rfl rfl h (by have k : (v f noType 1 false false false false Instr.fieldsOk.anyX) = true := fieldsOk_of h; exact opsV k)
    (fun p w a b => by have e : (bits w 56 8).toNat = 0x34 := opNat a rfl; unfold instrOf; rw [e]; show Option.map _ _ = _; rw [b]; rfl)
theorem kxor (f : VForm) : Statement (.kxor f) := fun h =>
  tripV 0x35 (.kxor f) f rfl rfl rfl rfl h (by have k : (v f noType 1 false false false false Instr.fieldsOk.anyX) = true := fieldsOk_of h; exact opsV k)
    (fun p w a b => by have e : (bits w 56 8).toNat = 0x35 := opNat a rfl; unfold instrOf; rw [e]; show Option.map _ _ = _; rw [b]; rfl)
theorem knot (f : VForm) : Statement (.knot f) := fun h =>
  tripV 0x36 (.knot f) f rfl rfl rfl rfl h (by have k : (v f noType 1 false false false false (xMask 0x1F8)) = true := fieldsOk_of h; exact opsV k)
    (fun p w a b => by have e : (bits w 56 8).toNat = 0x36 := opNat a rfl; unfold instrOf; rw [e]; show Option.map _ _ = _; rw [b]; rfl)
theorem kmovKk (f : VForm) : Statement (.kmovKk f) := fun h =>
  tripV 0x37 (.kmovKk f) f rfl rfl rfl rfl h (by have k : (v f noType 1 false false false false (xMask 0x1F8)) = true := fieldsOk_of h; exact opsV k)
    (fun p w a b => by
    have k : (v f noType 1 false false false false (xMask 0x1F8)) = true := fieldsOk_of h
    have u : f.var.toNat = 0 := by have := varLt k; omega
    have e : (bits w 56 8).toNat = 0x37 := opNat a rfl
    unfold instrOf; rw [e]; show Option.bind _ _ = _; rw [b]; simp only [Option.bind_some, u])
theorem kmovSk (f : VForm) : Statement (.kmovSk f) := fun h =>
  tripV 0x37 (.kmovSk f) f rfl rfl rfl rfl h (by have k : (v f noType 2 false true false false (xMask 0x1C0) && f.var = 1) = true := fieldsOk_of h; exact opsV (andL k))
    (fun p w a b => by
    have k : (v f noType 2 false true false false (xMask 0x1C0) && f.var = 1) = true := fieldsOk_of h
    have u : f.var.toNat = 1 := by have := andR k; simp at this; simp [this]
    have e : (bits w 56 8).toNat = 0x37 := opNat a rfl
    unfold instrOf; rw [e]; show Option.bind _ _ = _; rw [b]; simp only [Option.bind_some, u])
theorem kmovKs (f : VForm) : Statement (.kmovKs f) := fun h =>
  tripV 0x37 (.kmovKs f) f rfl rfl rfl rfl h (by have k : (v f noType 3 true false false false (xMask 0x38) && f.var = 2) = true := fieldsOk_of h; exact opsV (andL k))
    (fun p w a b => by
    have k : (v f noType 3 true false false false (xMask 0x38) && f.var = 2) = true := fieldsOk_of h
    have u : f.var.toNat = 2 := by have := andR k; simp at this; simp [this]
    have e : (bits w 56 8).toNat = 0x37 := opNat a rfl
    unfold instrOf; rw [e]; show Option.bind _ _ = _; rw [b]; simp only [Option.bind_some, u])
theorem vshfl (f : VForm) : Statement (.vshfl f) := fun h =>
  tripV 0x38 (.vshfl f) f rfl rfl rfl rfl h (by have k : (v f anyType 4 true true true false (· = 0)) = true := fieldsOk_of h; exact opsV k)
    (fun p w a b => by have e : (bits w 56 8).toNat = 0x38 := opNat a rfl; unfold instrOf; rw [e]; show Option.map _ _ = _; rw [b]; rfl)
theorem vbcast (f : VForm) : Statement (.vbcast f) := fun h =>
  tripV 0x39 (.vbcast f) f rfl rfl rfl rfl h (by have k : (v f anyType 1 true true true false (· = 0)) = true := fieldsOk_of h; exact opsV k)
    (fun p w a b => by have e : (bits w 56 8).toNat = 0x39 := opNat a rfl; unfold instrOf; rw [e]; show Option.map _ _ = _; rw [b]; rfl)
theorem vvote (f : VForm) : Statement (.vvote f) := fun h =>
  tripV 0x3A (.vvote f) f rfl rfl rfl rfl h (by have k : (v f noType 3 false false false false (xMask 0x1F8)) = true := fieldsOk_of h; exact opsV k)
    (fun p w a b => by have e : (bits w 56 8).toNat = 0x3A := opNat a rfl; unfold instrOf; rw [e]; show Option.map _ _ = _; rw [b]; rfl)
theorem vballot (f : VForm) : Statement (.vballot f) := fun h =>
  tripV 0x3B (.vballot f) f rfl rfl rfl rfl h (by have k : (v f anyType 2 true true false false (· = 0)) = true := fieldsOk_of h; exact opsV k)
    (fun p w a b => by have e : (bits w 56 8).toNat = 0x3B := opNat a rfl; unfold instrOf; rw [e]; show Option.map _ _ = _; rw [b]; rfl)
theorem vredx (f : VForm) : Statement (.vredx f) := fun h =>
  tripV 0x3C (.vredx f) f rfl rfl rfl rfl h (by have k : (v f anyType 1 true true false false (foldX f.ty)) = true := fieldsOk_of h; exact opsV k)
    (fun p w a b => by have e : (bits w 56 8).toNat = 0x3C := opNat a rfl; unfold instrOf; rw [e]; show Option.map _ _ = _; rw [b]; rfl)
theorem vscan (f : VForm) : Statement (.vscan f) := fun h =>
  tripV 0x3D (.vscan f) f rfl rfl rfl rfl h (by have k : (v f anyType 2 true true false false (foldX f.ty)) = true := fieldsOk_of h; exact opsV k)
    (fun p w a b => by have e : (bits w 56 8).toNat = 0x3D := opNat a rfl; unfold instrOf; rw [e]; show Option.map _ _ = _; rw [b]; rfl)
theorem setf (f : VForm) : Statement (.setf f) := fun h =>
  tripV 0x3E (.setf f) f rfl rfl rfl rfl h (by have k : (v f noType 1 true true false false (xMask 0x3F)) = true := fieldsOk_of h; exact opsV k)
    (fun p w a b => by have e : (bits w 56 8).toNat = 0x3E := opNat a rfl; unfold instrOf; rw [e]; show Option.map _ _ = _; rw [b]; rfl)
theorem vspc (f : VForm) : Statement (.vspc f) := fun h =>
  tripV 0x3F (.vspc f) f rfl rfl rfl rfl h (by have k : (if f.var = 2 then v f noType 3 true true true false (· = 0) else v f (fun t => t = .s8 || t = .n8 || t = .lg8 || t = .f16 || t = .bf16) 2 true true (f.ty.width = 16) false (fun x => if f.var = 1 then xMask 0x7 x else x = 0)) = true := fieldsOk_of h; split at k <;> exact opsV k)
    (fun p w a b => by have e : (bits w 56 8).toNat = 0x3F := opNat a rfl; unfold instrOf; rw [e]; show Option.map _ _ = _; rw [b]; rfl)
theorem vrcp (f : VForm) : Statement (.vrcp f) := fun h =>
  tripV 0x40 (.vrcp f) f rfl rfl rfl rfl h (by have k : (v f ElemType.isFloat 1 true true false false (· = 0)) = true := fieldsOk_of h; exact opsV k)
    (fun p w a b => by have e : (bits w 56 8).toNat = 0x40 := opNat a rfl; unfold instrOf; rw [e]; show Option.map _ _ = _; rw [b]; rfl)
theorem vrsq (f : VForm) : Statement (.vrsq f) := fun h =>
  tripV 0x41 (.vrsq f) f rfl rfl rfl rfl h (by have k : (v f ElemType.isFloat 1 true true false false (· = 0)) = true := fieldsOk_of h; exact opsV k)
    (fun p w a b => by have e : (bits w 56 8).toNat = 0x41 := opNat a rfl; unfold instrOf; rw [e]; show Option.map _ _ = _; rw [b]; rfl)
theorem vsqrt (f : VForm) : Statement (.vsqrt f) := fun h =>
  tripV 0x42 (.vsqrt f) f rfl rfl rfl rfl h (by have k : (v f ElemType.isFloat 1 true true false false (· = 0)) = true := fieldsOk_of h; exact opsV k)
    (fun p w a b => by have e : (bits w 56 8).toNat = 0x42 := opNat a rfl; unfold instrOf; rw [e]; show Option.map _ _ = _; rw [b]; rfl)
theorem vexp2 (f : VForm) : Statement (.vexp2 f) := fun h =>
  tripV 0x43 (.vexp2 f) f rfl rfl rfl rfl h (by have k : (v f sfuType 1 true true false false (· = 0)) = true := fieldsOk_of h; exact opsV k)
    (fun p w a b => by have e : (bits w 56 8).toNat = 0x43 := opNat a rfl; unfold instrOf; rw [e]; show Option.map _ _ = _; rw [b]; rfl)
theorem vlog2 (f : VForm) : Statement (.vlog2 f) := fun h =>
  tripV 0x44 (.vlog2 f) f rfl rfl rfl rfl h (by have k : (v f sfuType 1 true true false false (· = 0)) = true := fieldsOk_of h; exact opsV k)
    (fun p w a b => by have e : (bits w 56 8).toNat = 0x44 := opNat a rfl; unfold instrOf; rw [e]; show Option.map _ _ = _; rw [b]; rfl)
theorem vsin (f : VForm) : Statement (.vsin f) := fun h =>
  tripV 0x45 (.vsin f) f rfl rfl rfl rfl h (by have k : (v f sfuType 1 true true false false (· = 0)) = true := fieldsOk_of h; exact opsV k)
    (fun p w a b => by have e : (bits w 56 8).toNat = 0x45 := opNat a rfl; unfold instrOf; rw [e]; show Option.map _ _ = _; rw [b]; rfl)
theorem vcos (f : VForm) : Statement (.vcos f) := fun h =>
  tripV 0x46 (.vcos f) f rfl rfl rfl rfl h (by have k : (v f sfuType 1 true true false false (· = 0)) = true := fieldsOk_of h; exact opsV k)
    (fun p w a b => by have e : (bits w 56 8).toNat = 0x46 := opNat a rfl; unfold instrOf; rw [e]; show Option.map _ _ = _; rw [b]; rfl)
theorem vfdiv (f : VForm) : Statement (.vfdiv f) := fun h =>
  tripV 0x47 (.vfdiv f) f rfl rfl rfl rfl h (by have k : (v f ElemType.isFloat 1 true true true false (· = 0)) = true := fieldsOk_of h; exact opsV k)
    (fun p w a b => by have e : (bits w 56 8).toNat = 0x47 := opNat a rfl; unfold instrOf; rw [e]; show Option.map _ _ = _; rw [b]; rfl)
theorem vtanh (f : VForm) : Statement (.vtanh f) := fun h =>
  tripV 0x48 (.vtanh f) f rfl rfl rfl rfl h (by have k : (v f sfuType 1 true true false false (· = 0)) = true := fieldsOk_of h; exact opsV k)
    (fun p w a b => by have e : (bits w 56 8).toNat = 0x48 := opNat a rfl; unfold instrOf; rw [e]; show Option.map _ _ = _; rw [b]; rfl)
theorem verf (f : VForm) : Statement (.verf f) := fun h =>
  tripV 0x49 (.verf f) f rfl rfl rfl rfl h (by have k : (v f sfuType 1 true true false false (· = 0)) = true := fieldsOk_of h; exact opsV k)
    (fun p w a b => by have e : (bits w 56 8).toNat = 0x49 := opNat a rfl; unfold instrOf; rw [e]; show Option.map _ _ = _; rw [b]; rfl)
theorem br (f : BForm) : Statement (.br f) := fun h =>
  tripB 0x50 (.br f) f rfl rfl rfl h 
    (fun p w a b => by have e : (bits w 56 8).toNat = 0x50 := opNat a rfl; unfold instrOf; rw [e]; show Option.map _ _ = _; rw [b]; rfl)
theorem jmp (f : BForm) : Statement (.jmp f) := fun h =>
  tripB 0x51 (.jmp f) f rfl rfl rfl h 
    (fun p w a b => by have e : (bits w 56 8).toNat = 0x51 := opNat a rfl; unfold instrOf; rw [e]; show Option.map _ _ = _; rw [b]; rfl)
theorem loop (f : BForm) : Statement (.loop f) := fun h =>
  tripB 0x52 (.loop f) f rfl rfl rfl h 
    (fun p w a b => by have e : (bits w 56 8).toNat = 0x52 := opNat a rfl; unfold instrOf; rw [e]; show Option.map _ _ = _; rw [b]; rfl)
theorem exit (f : VForm) : Statement (.exit f) := fun h =>
  tripV 0x53 (.exit f) f rfl rfl rfl rfl h (by have k : (v f noType 1 false false false false (· = 0) false) = true := fieldsOk_of h; exact opsV k)
    (fun p w a b => by have e : (bits w 56 8).toNat = 0x53 := opNat a rfl; unfold instrOf; rw [e]; show Option.map _ _ = _; rw [b]; rfl)
theorem reggive (f : VForm) : Statement (.reggive f) := fun h =>
  tripV 0x54 (.reggive f) f rfl rfl rfl rfl h (by have k : (v f noType 1 false false false false (xMask 0x3F) false false) = true := fieldsOk_of h; exact opsV k)
    (fun p w a b => by have e : (bits w 56 8).toNat = 0x54 := opNat a rfl; unfold instrOf; rw [e]; show Option.map _ _ = _; rw [b]; rfl)
theorem regclaim (f : VForm) : Statement (.regclaim f) := fun h =>
  tripV 0x55 (.regclaim f) f rfl rfl rfl rfl h (by have k : (v f noType 1 false false false false (xMask 0x3F) false false) = true := fieldsOk_of h; exact opsV k)
    (fun p w a b => by have e : (bits w 56 8).toNat = 0x55 := opNat a rfl; unfold instrOf; rw [e]; show Option.map _ _ = _; rw [b]; rfl)
theorem rolesw (f : VForm) : Statement (.rolesw f) := fun h =>
  tripV 0x56 (.rolesw f) f rfl rfl rfl rfl h (by have k : (v f noType 1 false true false false (xMask 0xF) false false) = true := fieldsOk_of h; exact opsV k)
    (fun p w a b => by have e : (bits w 56 8).toNat = 0x56 := opNat a rfl; unfold instrOf; rw [e]; show Option.map _ _ = _; rw [b]; rfl)
theorem ld (f : MForm) : Statement (.ld f) := fun h =>
  tripM 0x60 (.ld f) f rfl rfl rfl rfl h (by have k : (m f anyType true && order f [0, 1]) = true := fieldsOk_of h; exact opsM (andL k))
    (fun p w a b => by have e : (bits w 56 8).toNat = 0x60 := opNat a rfl; unfold instrOf; rw [e]; show Option.map _ _ = _; rw [b]; rfl)
theorem st (f : MForm) : Statement (.st f) := fun h =>
  tripM 0x61 (.st f) f rfl rfl rfl rfl h (by have k : (m f anyType true && order f [0, 2]) = true := fieldsOk_of h; exact opsM (andL k))
    (fun p w a b => by have e : (bits w 56 8).toNat = 0x61 := opNat a rfl; unfold instrOf; rw [e]; show Option.map _ _ = _; rw [b]; rfl)
theorem ldp (f : MForm) : Statement (.ldp f) := fun h =>
  tripM 0x62 (.ldp f) f rfl rfl rfl rfl h (by have k : (m f (· = .n64) true && order f [0]) = true := fieldsOk_of h; exact opsM (andL k))
    (fun p w a b => by have e : (bits w 56 8).toNat = 0x62 := opNat a rfl; unfold instrOf; rw [e]; show Option.map _ _ = _; rw [b]; rfl)
theorem stp (f : MForm) : Statement (.stp f) := fun h =>
  tripM 0x63 (.stp f) f rfl rfl rfl rfl h (by have k : (m f (· = .n64) true && order f [0]) = true := fieldsOk_of h; exact opsM (andL k))
    (fun p w a b => by have e : (bits w 56 8).toNat = 0x63 := opNat a rfl; unfold instrOf; rw [e]; show Option.map _ _ = _; rw [b]; rfl)
theorem tld (f : VForm) : Statement (.tld f) := fun h =>
  tripV 0x64 (.tld f) f rfl rfl rfl rfl h (by have k : (v f anyType 1 true true true false (xMask 0x3F)) = true := fieldsOk_of h; exact opsV k)
    (fun p w a b => by have e : (bits w 56 8).toNat = 0x64 := opNat a rfl; unfold instrOf; rw [e]; show Option.map _ _ = _; rw [b]; rfl)
theorem tst (f : VForm) : Statement (.tst f) := fun h =>
  tripV 0x65 (.tst f) f rfl rfl rfl rfl h (by have k : (v f anyType 1 false true true true (xMask 0x3F)) = true := fieldsOk_of h; exact opsV k)
    (fun p w a b => by have e : (bits w 56 8).toNat = 0x65 := opNat a rfl; unfold instrOf; rw [e]; show Option.map _ _ = _; rw [b]; rfl)
theorem talloc (f : VForm) : Statement (.talloc f) := fun h =>
  tripV 0x66 (.talloc f) f rfl rfl rfl rfl h (by have k : (v f anyType 1 false true true false (fun x => xMask 0xFF x && (x.extractLsb' 6 2).toNat ≤ 2)) = true := fieldsOk_of h; exact opsV k)
    (fun p w a b => by have e : (bits w 56 8).toNat = 0x66 := opNat a rfl; unfold instrOf; rw [e]; show Option.map _ _ = _; rw [b]; rfl)
theorem tfree (f : VForm) : Statement (.tfree f) := fun h =>
  tripV 0x67 (.tfree f) f rfl rfl rfl rfl h (by have k : (v f noType 1 false false false false (xMask 0x3F)) = true := fieldsOk_of h; exact opsV k)
    (fun p w a b => by have e : (bits w 56 8).toNat = 0x67 := opNat a rfl; unfold instrOf; rw [e]; show Option.map _ _ = _; rw [b]; rfl)
theorem cnarrow (f : MForm) : Statement (.cnarrow f) := fun h =>
  tripM 0x68 (.cnarrow f) f rfl rfl rfl rfl h (by have k : (m f (fun t => t = .n8 || t = .n16) false && order f [0] && capData f.data && f.ofs = 0) = true := fieldsOk_of h; exact opsM (andL (andL (andL k))))
    (fun p w a b => by have e : (bits w 56 8).toNat = 0x68 := opNat a rfl; unfold instrOf; rw [e]; show Option.map _ _ = _; rw [b]; rfl)
theorem csave (f : MForm) : Statement (.csave f) := fun h =>
  tripM 0x69 (.csave f) f rfl rfl rfl rfl h (by have k : (m f noType false && order f [0] && capData f.data) = true := fieldsOk_of h; exact opsM (andL (andL k)))
    (fun p w a b => by have e : (bits w 56 8).toNat = 0x69 := opNat a rfl; unfold instrOf; rw [e]; show Option.map _ _ = _; rw [b]; rfl)
theorem cload (f : MForm) : Statement (.cload f) := fun h =>
  tripM 0x6A (.cload f) f rfl rfl rfl rfl h (by have k : (m f noType false && order f [0] && capData f.data) = true := fieldsOk_of h; exact opsM (andL (andL k)))
    (fun p w a b => by have e : (bits w 56 8).toNat = 0x6A := opNat a rfl; unfold instrOf; rw [e]; show Option.map _ _ = _; rw [b]; rfl)
theorem atom (f : MForm) : Statement (.atom f) := fun h =>
  tripM 0x6B (.atom f) f rfl rfl rfl rfl h (by have k : (m f atomType false && order f [0, 1, 2, 3] && (f.ofs.extractLsb' 12 4).toNat ≤ 6) = true := fieldsOk_of h; exact opsM (andL (andL k)))
    (fun p w a b => by have e : (bits w 56 8).toNat = 0x6B := opNat a rfl; unfold instrOf; rw [e]; show Option.map _ _ = _; rw [b]; rfl)
theorem atomr (f : MForm) : Statement (.atomr f) := fun h =>
  tripM 0x6C (.atomr f) f rfl rfl rfl rfl h (by have k : (m f atomType false && order f [0, 1, 2, 3] && (f.ofs.extractLsb' 12 4).toNat ≤ 6) = true := fieldsOk_of h; exact opsM (andL (andL k)))
    (fun p w a b => by have e : (bits w 56 8).toNat = 0x6C := opNat a rfl; unfold instrOf; rw [e]; show Option.map _ _ = _; rw [b]; rfl)
theorem cas (f : MForm) : Statement (.cas f) := fun h =>
  tripM 0x6D (.cas f) f rfl rfl rfl rfl h (by have k : (m f atomType false && order f [0, 1, 2, 3] && f.pfx.d4.isSome) = true := fieldsOk_of h; exact opsM (andL (andL k)))
    (fun p w a b => by have e : (bits w 56 8).toNat = 0x6D := opNat a rfl; unfold instrOf; rw [e]; show Option.map _ _ = _; rw [b]; rfl)
theorem lds (f : MForm) : Statement (.lds f) := fun h =>
  tripM 0x6E (.lds f) f rfl rfl rfl rfl h (by have k : (m f anyType true && order f [0, 1]) = true := fieldsOk_of h; exact opsM (andL k))
    (fun p w a b => by have e : (bits w 56 8).toNat = 0x6E := opNat a rfl; unfold instrOf; rw [e]; show Option.map _ _ = _; rw [b]; rfl)
theorem sts (f : MForm) : Statement (.sts f) := fun h =>
  tripM 0x6F (.sts f) f rfl rfl rfl rfl h (by have k : (m f anyType true && order f [0, 2]) = true := fieldsOk_of h; exact opsM (andL k))
    (fun p w a b => by have e : (bits w 56 8).toNat = 0x6F := opNat a rfl; unfold instrOf; rw [e]; show Option.map _ _ = _; rw [b]; rfl)
theorem wlpush (f : MForm) : Statement (.wlpush f) := fun h =>
  tripM 0x70 (.wlpush f) f rfl rfl rfl rfl h (by have k : (m f (· = .n64) false && f.ord = 0 && f.scope.toNat < 8) = true := fieldsOk_of h; exact opsM (andL (andL k)))
    (fun p w a b => by have e : (bits w 56 8).toNat = 0x70 := opNat a rfl; unfold instrOf; rw [e]; show Option.map _ _ = _; rw [b]; rfl)
theorem wlpopb (f : MForm) : Statement (.wlpopb f) := fun h =>
  tripM 0x71 (.wlpopb f) f rfl rfl rfl rfl h (by have k : (m f (· = .n64) false && f.ord = 0 && f.scope.toNat < 8) = true := fieldsOk_of h; exact opsM (andL (andL k)))
    (fun p w a b => by have e : (bits w 56 8).toNat = 0x71 := opNat a rfl; unfold instrOf; rw [e]; show Option.map _ _ = _; rw [b]; rfl)
theorem wlins (f : MForm) : Statement (.wlins f) := fun h =>
  tripM 0x72 (.wlins f) f rfl rfl rfl rfl h (by have k : (m f (· = .n64) false && f.ord = 0 && f.scope.toNat < 8) = true := fieldsOk_of h; exact opsM (andL (andL k)))
    (fun p w a b => by have e : (bits w 56 8).toNat = 0x72 := opNat a rfl; unfold instrOf; rw [e]; show Option.map _ _ = _; rw [b]; rfl)
theorem wlres (f : MForm) : Statement (.wlres f) := fun h =>
  tripM 0x73 (.wlres f) f rfl rfl rfl rfl h (by have k : (m f (· = .n64) false && f.ord = 0 && f.scope.toNat < 8) = true := fieldsOk_of h; exact opsM (andL (andL k)))
    (fun p w a b => by have e : (bits w 56 8).toNat = 0x73 := opNat a rfl; unfold instrOf; rw [e]; show Option.map _ _ = _; rw [b]; rfl)
theorem wlcom (f : MForm) : Statement (.wlcom f) := fun h =>
  tripM 0x74 (.wlcom f) f rfl rfl rfl rfl h (by have k : (m f (· = .n64) false && f.ord = 0 && f.scope.toNat < 8) = true := fieldsOk_of h; exact opsM (andL (andL k)))
    (fun p w a b => by have e : (bits w 56 8).toNat = 0x74 := opNat a rfl; unfold instrOf; rw [e]; show Option.map _ _ = _; rw [b]; rfl)
theorem wlsize (f : MForm) : Statement (.wlsize f) := fun h =>
  tripM 0x75 (.wlsize f) f rfl rfl rfl rfl h (by have k : (m f (· = .n64) false && f.ord = 0 && f.scope = 0) = true := fieldsOk_of h; exact opsM (andL (andL k)))
    (fun p w a b => by have e : (bits w 56 8).toNat = 0x75 := opNat a rfl; unfold instrOf; rw [e]; show Option.map _ _ = _; rw [b]; rfl)
theorem fence (f : VForm) : Statement (.fence f) := fun h =>
  tripV 0x80 (.fence f) f rfl rfl rfl rfl h (by have k : (v f noType 1 false false false false (fun x => xMask 0x3F x && (x.extractLsb' 0 4).toNat ≤ 8 && x.extractLsb' 4 2 ≠ 0)) = true := fieldsOk_of h; exact opsV k)
    (fun p w a b => by have e : (bits w 56 8).toNat = 0x80 := opNat a rfl; unfold instrOf; rw [e]; show Option.map _ _ = _; rw [b]; rfl)
theorem waitc (f : MForm) : Statement (.waitc f) := fun h =>
  tripM 0x81 (.waitc f) f rfl rfl rfl rfl h (by have k : (m f atomType false && order f [0, 1] && (f.ofs.extractLsb' 12 4).toNat ≤ 5) = true := fieldsOk_of h; exact opsM (andL (andL k)))
    (fun p w a b => by have e : (bits w 56 8).toNat = 0x81 := opNat a rfl; unfold instrOf; rw [e]; show Option.map _ _ = _; rw [b]; rfl)
theorem phreg (f : VForm) : Statement (.phreg f) := fun h =>
  tripV 0x82 (.phreg f) f rfl rfl rfl rfl h (by have k : (v f noType 2 false (f.var = 1) false false (fun x => xMask 0xFF x && x.extractLsb' 6 2 ≠ 0 && (f.var = 0 || x.extractLsb' 0 6 = 0))) = true := fieldsOk_of h; exact opsV k)
    (fun p w a b => by have e : (bits w 56 8).toNat = 0x82 := opNat a rfl; unfold instrOf; rw [e]; show Option.map _ _ = _; rw [b]; rfl)
theorem phdrop (f : VForm) : Statement (.phdrop f) := fun h =>
  tripV 0x8D (.phdrop f) f rfl rfl rfl rfl h (by have k : (v f noType 2 false (f.var = 1) false false (fun x => xMask 0xFF x && x.extractLsb' 6 2 ≠ 0 && (f.var = 0 || x.extractLsb' 0 6 = 0))) = true := fieldsOk_of h; exact opsV k)
    (fun p w a b => by have e : (bits w 56 8).toNat = 0x8D := opNat a rfl; unfold instrOf; rw [e]; show Option.map _ _ = _; rw [b]; rfl)
theorem pharr (f : VForm) : Statement (.pharr f) := fun h =>
  tripV 0x83 (.pharr f) f rfl rfl rfl rfl h (by have k : (v f noType 2 true (f.var = 1) false false (fun x => xMask 0x3F x && (f.var = 0 || x.extractLsb' 0 6 = 0))) = true := fieldsOk_of h; exact opsV k)
    (fun p w a b => by have e : (bits w 56 8).toNat = 0x83 := opNat a rfl; unfold instrOf; rw [e]; show Option.map _ _ = _; rw [b]; rfl)
theorem phwait (f : VForm) : Statement (.phwait f) := fun h =>
  tripV 0x84 (.phwait f) f rfl rfl rfl rfl h (by have k : (v f noType 2 false true (f.var = 1) false (fun x => xMask 0x3F x && (f.var = 0 || x.extractLsb' 0 6 = 0))) = true := fieldsOk_of h; exact opsV k)
    (fun p w a b => by have e : (bits w 56 8).toNat = 0x84 := opNat a rfl; unfold instrOf; rw [e]; show Option.map _ _ = _; rw [b]; rfl)
theorem semset (f : VForm) : Statement (.semset f) := fun h =>
  tripV 0x85 (.semset f) f rfl rfl rfl rfl h (by have k : (v f noType 4 false true (f.var = 2) false (xMask 0x1F)) = true := fieldsOk_of h; exact opsV k)
    (fun p w a b => by have e : (bits w 56 8).toNat = 0x85 := opNat a rfl; unfold instrOf; rw [e]; show Option.map _ _ = _; rw [b]; rfl)
theorem semwait (f : VForm) : Statement (.semwait f) := fun h =>
  tripV 0x86 (.semwait f) f rfl rfl rfl rfl h (by have k : (v f noType 1 false false false false (xMask 0x1F)) = true := fieldsOk_of h; exact opsV k)
    (fun p w a b => by have e : (bits w 56 8).toNat = 0x86 := opNat a rfl; unfold instrOf; rw [e]; show Option.map _ _ = _; rw [b]; rfl)
theorem semrd (f : VForm) : Statement (.semrd f) := fun h =>
  tripV 0x8E (.semrd f) f rfl rfl rfl rfl h (by have k : (v f noType 3 true false false false (xMask 0x1F)) = true := fieldsOk_of h; exact opsV k)
    (fun p w a b => by have e : (bits w 56 8).toNat = 0x8E := opNat a rfl; unfold instrOf; rw [e]; show Option.map _ _ = _; rw [b]; rfl)
theorem tvdecl (f : MForm) : Statement (.tvdecl f) := fun h =>
  tripM 0x87 (.tvdecl f) f rfl rfl rfl rfl h (by have k : (m f (· = .n8) false && ((f.ord = 0 && f.scope = 0) || (f.ord = 2 && f.scope = 6))) = true := fieldsOk_of h; exact opsM (andL k))
    (fun p w a b => by have e : (bits w 56 8).toNat = 0x87 := opNat a rfl; unfold instrOf; rw [e]; show Option.map _ _ = _; rw [b]; rfl)
theorem tvwait (f : VForm) : Statement (.tvwait f) := fun h =>
  tripV 0x88 (.tvwait f) f rfl rfl rfl rfl h (by have k : (v f noType 1 false false false false (· = 0)) = true := fieldsOk_of h; exact opsV k)
    (fun p w a b => by have e : (bits w 56 8).toNat = 0x88 := opNat a rfl; unfold instrOf; rw [e]; show Option.map _ _ = _; rw [b]; rfl)
theorem tvend (f : VForm) : Statement (.tvend f) := fun h =>
  tripV 0x89 (.tvend f) f rfl rfl rfl rfl h (by have k : (v f noType 1 false false false false (· = 0)) = true := fieldsOk_of h; exact opsV k)
    (fun p w a b => by have e : (bits w 56 8).toNat = 0x89 := opNat a rfl; unfold instrOf; rw [e]; show Option.map _ _ = _; rw [b]; rfl)
theorem qbind (f : QForm) : Statement (.qbind f) := fun h =>
  tripQ 0x8A (.qbind f) f rfl rfl rfl rfl h (by have k : (q f noType true false true false false) = true := fieldsOk_of h; exact opsQ k)
    (fun p w a b => by have e : (bits w 56 8).toNat = 0x8A := opNat a rfl; unfold instrOf; rw [e]; show Option.map _ _ = _; rw [b]; rfl)
theorem launch (f : QForm) : Statement (.launch f) := fun h =>
  tripQ 0x8C (.launch f) f rfl rfl rfl rfl h (by have k : (q f noType true true true true false && f.qd.toNat < 8) = true := fieldsOk_of h; exact opsQ (andL k))
    (fun p w a b => by have e : (bits w 56 8).toNat = 0x8C := opNat a rfl; unfold instrOf; rw [e]; show Option.map _ _ = _; rw [b]; rfl)
theorem jccopy (f : QForm) : Statement (.jccopy f) := fun h =>
  tripQ 0x90 (.jccopy f) f rfl rfl rfl rfl h (by have k : (q f noType true true true false true) = true := fieldsOk_of h; exact opsQ k)
    (fun p w a b => by have e : (bits w 56 8).toNat = 0x90 := opNat a rfl; unfold instrOf; rw [e]; show Option.map _ _ = _; rw [b]; rfl)
theorem jcgath (f : QForm) : Statement (.jcgath f) := fun h =>
  tripQ 0x91 (.jcgath f) f rfl rfl rfl rfl h (by have k : (q f noType true true true false true) = true := fieldsOk_of h; exact opsQ k)
    (fun p w a b => by have e : (bits w 56 8).toNat = 0x91 := opNat a rfl; unfold instrOf; rw [e]; show Option.map _ _ = _; rw [b]; rfl)
theorem jcscat (f : QForm) : Statement (.jcscat f) := fun h =>
  tripQ 0x92 (.jcscat f) f rfl rfl rfl rfl h (by have k : (q f noType true true true false true) = true := fieldsOk_of h; exact opsQ k)
    (fun p w a b => by have e : (bits w 56 8).toNat = 0x92 := opNat a rfl; unfold instrOf; rw [e]; show Option.map _ _ = _; rw [b]; rfl)
theorem jccoll (f : QForm) : Statement (.jccoll f) := fun h =>
  tripQ 0x93 (.jccoll f) f rfl rfl rfl rfl h (by have k : (q f noType true true true false true) = true := fieldsOk_of h; exact opsQ k)
    (fun p w a b => by have e : (bits w 56 8).toNat = 0x93 := opNat a rfl; unfold instrOf; rw [e]; show Option.map _ _ = _; rw [b]; rfl)
theorem jcmtx (f : QForm) : Statement (.jcmtx f) := fun h =>
  tripQ 0x94 (.jcmtx f) f rfl rfl rfl rfl h (by have k : (q f noType true true true false true) = true := fieldsOk_of h; exact opsQ k)
    (fun p w a b => by have e : (bits w 56 8).toNat = 0x94 := opNat a rfl; unfold instrOf; rw [e]; show Option.map _ _ = _; rw [b]; rfl)
theorem jcfill (f : QForm) : Statement (.jcfill f) := fun h =>
  tripQ 0x95 (.jcfill f) f rfl rfl rfl rfl h (by have k : (q f noType true true true true true) = true := fieldsOk_of h; exact opsQ k)
    (fun p w a b => by have e : (bits w 56 8).toNat = 0x95 := opNat a rfl; unfold instrOf; rw [e]; show Option.map _ _ = _; rw [b]; rfl)
theorem trap (f : SForm) : Statement (.trap f) := fun h =>
  tripS 0xA0 (.trap f) f rfl rfl rfl rfl h (by have k : (s f false true (· = 0) true) = true := fieldsOk_of h; exact opsS k)
    (fun p w a b => by have e : (bits w 56 8).toNat = 0xA0 := opNat a rfl; unfold instrOf; rw [e]; show Option.map _ _ = _; rw [b]; rfl)
theorem tretSave (f : SForm) : Statement (.tretSave f) := fun h =>
  tripS 0xA1 (.tretSave f) f rfl rfl rfl rfl h (by have k : (s f false false (· = 0) false) = true := fieldsOk_of h; exact opsS k)
    (fun p w a b => by
    have k : (s f false false (· = 0) false) = true := fieldsOk_of h
    have u : f.sel.toNat = 0 := by have := selOk k; simpa using this
    have e : (bits w 56 8).toNat = 0xA1 := opNat a rfl
    unfold instrOf; rw [e]; show Option.bind _ _ = _; rw [b]; simp only [Option.bind_some, u])
theorem tretRest (f : SForm) : Statement (.tretRest f) := fun h =>
  tripS 0xA1 (.tretRest f) f rfl rfl rfl rfl h (by have k : (s f false false (· = 1) false) = true := fieldsOk_of h; exact opsS k)
    (fun p w a b => by
    have k : (s f false false (· = 1) false) = true := fieldsOk_of h
    have u : f.sel.toNat = 1 := by have := selOk k; simpa using this
    have e : (bits w 56 8).toNat = 0xA1 := opNat a rfl
    unfold instrOf; rw [e]; show Option.bind _ _ = _; rw [b]; simp only [Option.bind_some, u])
theorem datum (f : SForm) : Statement (.datum f) := fun h =>
  tripS 0xA2 (.datum f) f rfl rfl rfl rfl h (by have k : (s f true false (· = 0) false) = true := fieldsOk_of h; exact opsS k)
    (fun p w a b => by have e : (bits w 56 8).toNat = 0xA2 := opNat a rfl; unfold instrOf; rw [e]; show Option.map _ _ = _; rw [b]; rfl)
theorem bkpt (f : SForm) : Statement (.bkpt f) := fun h =>
  tripS 0xA3 (.bkpt f) f rfl rfl rfl rfl h (by have k : (s f false false (· = 0) true) = true := fieldsOk_of h; exact opsS k)
    (fun p w a b => by have e : (bits w 56 8).toNat = 0xA3 := opNat a rfl; unfold instrOf; rw [e]; show Option.map _ _ = _; rw [b]; rfl)
theorem sleept (f : SForm) : Statement (.sleept f) := fun h =>
  tripS 0xA4 (.sleept f) f rfl rfl rfl rfl h (by have k : (s f false true (· ≤ 1) false) = true := fieldsOk_of h; exact opsS k)
    (fun p w a b => by have e : (bits w 56 8).toNat = 0xA4 := opNat a rfl; unfold instrOf; rw [e]; show Option.map _ _ = _; rw [b]; rfl)
theorem mma (f : VForm) : Statement (.mma f) := fun h =>
  tripV 0xB0 (.mma f) f rfl rfl rfl rfl h (by have k : (v f accType 1 false true true false (xMask 0x1C0) false) = true := fieldsOk_of h; exact opsV k)
    (fun p w a b => by have e : (bits w 56 8).toNat = 0xB0 := opNat a rfl; unfold instrOf; rw [e]; show Option.map _ _ = _; rw [b]; rfl)
theorem mmap (f : VForm) : Statement (.mmap f) := fun h =>
  tripV 0xB1 (.mmap f) f rfl rfl rfl rfl h (by have k : (v f accType 1 false true true false (xMask 0x1C0) false) = true := fieldsOk_of h; exact opsV k)
    (fun p w a b => by have e : (bits w 56 8).toNat = 0xB1 := opNat a rfl; unfold instrOf; rw [e]; show Option.map _ _ = _; rw [b]; rfl)
theorem mmas (f : VForm) : Statement (.mmas f) := fun h =>
  tripV 0xB2 (.mmas f) f rfl rfl rfl rfl h (by have k : (v f accType 1 false true true true (xMask 0x1C0) false) = true := fieldsOk_of h; exact opsV k)
    (fun p w a b => by have e : (bits w 56 8).toNat = 0xB2 := opNat a rfl; unfold instrOf; rw [e]; show Option.map _ _ = _; rw [b]; rfl)
theorem mmasp (f : VForm) : Statement (.mmasp f) := fun h =>
  tripV 0xB3 (.mmasp f) f rfl rfl rfl rfl h (by have k : (v f accType 1 false true true true (xMask 0x1C0) false) = true := fieldsOk_of h; exact opsV k)
    (fun p w a b => by have e : (bits w 56 8).toNat = 0xB3 := opNat a rfl; unfold instrOf; rw [e]; show Option.map _ _ = _; rw [b]; rfl)
theorem mmag (f : VForm) : Statement (.mmag f) := fun h =>
  tripV 0xB4 (.mmag f) f rfl rfl rfl rfl h (by have k : (v f accType 1 false true true false (xMask 0x1C0) false) = true := fieldsOk_of h; exact opsV k)
    (fun p w a b => by have e : (bits w 56 8).toNat = 0xB4 := opNat a rfl; unfold instrOf; rw [e]; show Option.map _ _ = _; rw [b]; rfl)
theorem mmagp (f : VForm) : Statement (.mmagp f) := fun h =>
  tripV 0xB5 (.mmagp f) f rfl rfl rfl rfl h (by have k : (v f accType 1 false true true false (xMask 0x1C0) false) = true := fieldsOk_of h; exact opsV k)
    (fun p w a b => by have e : (bits w 56 8).toNat = 0xB5 := opNat a rfl; unfold instrOf; rw [e]; show Option.map _ _ = _; rw [b]; rfl)
theorem mlda (f : VForm) : Statement (.mlda f) := fun h =>
  tripV 0xB6 (.mlda f) f rfl rfl rfl rfl h (by have k : (v f noType 1 true true true true (xMask 0xFF) false) = true := fieldsOk_of h; exact opsV k)
    (fun p w a b => by have e : (bits w 56 8).toNat = 0xB6 := opNat a rfl; unfold instrOf; rw [e]; show Option.map _ _ = _; rw [b]; rfl)
theorem mldb (f : VForm) : Statement (.mldb f) := fun h =>
  tripV 0xB7 (.mldb f) f rfl rfl rfl rfl h (by have k : (v f noType 1 true true false false (xMask 0x7F) false) = true := fieldsOk_of h; exact opsV k)
    (fun p w a b => by have e : (bits w 56 8).toNat = 0xB7 := opNat a rfl; unfold instrOf; rw [e]; show Option.map _ _ = _; rw [b]; rfl)
theorem unfold (f : VForm) : Statement (.unfold f) := fun h =>
  tripV 0xB8 (.unfold f) f rfl rfl rfl rfl h (by have k : (v f noType 1 false true true false (xMask 0x3F) false) = true := fieldsOk_of h; exact opsV k)
    (fun p w a b => by have e : (bits w 56 8).toNat = 0xB8 := opNat a rfl; unfold instrOf; rw [e]; show Option.map _ _ = _; rw [b]; rfl)
theorem accdr (f : QForm) : Statement (.accdr f) := fun h =>
  tripQ 0xB9 (.accdr f) f rfl rfl rfl rfl h (by have k : (q f noType false true true true true false) = true := fieldsOk_of h; exact opsQ k)
    (fun p w a b => by have e : (bits w 56 8).toNat = 0xB9 := opNat a rfl; unfold instrOf; rw [e]; show Option.map _ _ = _; rw [b]; rfl)
theorem accdra (f : QForm) : Statement (.accdra f) := fun h =>
  tripQ 0xBA (.accdra f) f rfl rfl rfl rfl h (by have k : (q f noType false true true true true false) = true := fieldsOk_of h; exact opsQ k)
    (fun p w a b => by have e : (bits w 56 8).toNat = 0xBA := opNat a rfl; unfold instrOf; rw [e]; show Option.map _ _ = _; rw [b]; rfl)
theorem accld (f : VForm) : Statement (.accld f) := fun h =>
  tripV 0xBB (.accld f) f rfl rfl rfl rfl h (by have k : (v f (fun t => t = .f32 || t = .s32) 1 false true false false Instr.fieldsOk.anyX false) = true := fieldsOk_of h; exact opsV k)
    (fun p w a b => by have e : (bits w 56 8).toNat = 0xBB := opNat a rfl; unfold instrOf; rw [e]; show Option.map _ _ = _; rw [b]; rfl)
theorem accz (f : VForm) : Statement (.accz f) := fun h =>
  tripV 0xBC (.accz f) f rfl rfl rfl rfl h (by have k : (v f noType 1 false false false false (xMask 0xFF) false) = true := fieldsOk_of h; exact opsV k)
    (fun p w a b => by have e : (bits w 56 8).toNat = 0xBC := opNat a rfl; unfold instrOf; rw [e]; show Option.map _ _ = _; rw [b]; rfl)
theorem accmovGet (f : VForm) : Statement (.accmovGet f) := fun h =>
  tripV 0xBD (.accmovGet f) f rfl rfl rfl rfl h (by have k : (v f noType 1 true true false false (xMask 0x1C0) false) = true := fieldsOk_of h; exact opsV k)
    (fun p w a b => by
    have k : (v f noType 1 true true false false (xMask 0x1C0) false) = true := fieldsOk_of h
    have u : f.var.toNat = 0 := by have := varLt k; omega
    have e : (bits w 56 8).toNat = 0xBD := opNat a rfl
    unfold instrOf; rw [e]; show Option.bind _ _ = _; rw [b]; simp only [Option.bind_some, u])
theorem accmovPut (f : VForm) : Statement (.accmovPut f) := fun h =>
  tripV 0xBD (.accmovPut f) f rfl rfl rfl rfl h (by have k : (v f noType 2 false true true false (xMask 0x1C0) false && f.var = 1) = true := fieldsOk_of h; exact opsV (andL k))
    (fun p w a b => by
    have k : (v f noType 2 false true true false (xMask 0x1C0) false && f.var = 1) = true := fieldsOk_of h
    have u : f.var.toNat = 1 := by have := andR k; simp at this; simp [this]
    have e : (bits w 56 8).toNat = 0xBD := opNat a rfl
    unfold instrOf; rw [e]; show Option.bind _ _ = _; rw [b]; simp only [Option.bind_some, u])
theorem acccvt (f : VForm) : Statement (.acccvt f) := fun h =>
  tripV 0xC5 (.acccvt f) f rfl rfl rfl rfl h (by have k : (v f (fun t => t = .f32 || t = .s32) 1 false false false false (xMask 0x1F8) false) = true := fieldsOk_of h; exact opsV k)
    (fun p w a b => by have e : (bits w 56 8).toNat = 0xC5 := opNat a rfl; unfold instrOf; rw [e]; show Option.map _ _ = _; rw [b]; rfl)
theorem attqk (f : VForm) : Statement (.attqk f) := fun h =>
  tripV 0xBE (.attqk f) f rfl rfl rfl rfl h (by have k : (v f pageType 1 false true true true (xMask 0x1FE) false) = true := fieldsOk_of h; exact opsV k)
    (fun p w a b => by have e : (bits w 56 8).toNat = 0xBE := opNat a rfl; unfold instrOf; rw [e]; show Option.map _ _ = _; rw [b]; rfl)
theorem attsm (f : VForm) : Statement (.attsm f) := fun h =>
  tripV 0xBF (.attsm f) f rfl rfl rfl rfl h (by have k : (v f (· = .f32) 1 false true false false Instr.fieldsOk.anyX false) = true := fieldsOk_of h; exact opsV k)
    (fun p w a b => by have e : (bits w 56 8).toNat = 0xBF := opNat a rfl; unfold instrOf; rw [e]; show Option.map _ _ = _; rw [b]; rfl)
theorem attpv (f : VForm) : Statement (.attpv f) := fun h =>
  tripV 0xC0 (.attpv f) f rfl rfl rfl rfl h (by have k : (v f pageType 1 false true true false (xMask 0x1FC) false) = true := fieldsOk_of h; exact opsV k)
    (fun p w a b => by have e : (bits w 56 8).toNat = 0xC0 := opNat a rfl; unfold instrOf; rw [e]; show Option.map _ _ = _; rw [b]; rfl)
theorem attmd (f : QForm) : Statement (.attmd f) := fun h =>
  tripQ 0xC1 (.attmd f) f rfl rfl rfl rfl h (by have k : (q f noType false true true true true false) = true := fieldsOk_of h; exact opsQ k)
    (fun p w a b => by have e : (bits w 56 8).toNat = 0xC1 := opNat a rfl; unfold instrOf; rw [e]; show Option.map _ _ = _; rw [b]; rfl)
theorem kvrs (f : QForm) : Statement (.kvrs f) := fun h =>
  tripQ 0xC2 (.kvrs f) f rfl rfl rfl rfl h (by have k : (q f pageType true true true true true false) = true := fieldsOk_of h; exact opsQ k)
    (fun p w a b => by have e : (bits w 56 8).toNat = 0xC2 := opNat a rfl; unfold instrOf; rw [e]; show Option.map _ _ = _; rw [b]; rfl)
theorem msync (f : VForm) : Statement (.msync f) := fun h =>
  tripV 0xC3 (.msync f) f rfl rfl rfl rfl h (by have k : (v f noType 1 false false false false (· = 0) false false) = true := fieldsOk_of h; exact opsV k)
    (fun p w a b => by have e : (bits w 56 8).toNat = 0xC3 := opNat a rfl; unfold instrOf; rw [e]; show Option.map _ _ = _; rw [b]; rfl)
theorem melect (f : VForm) : Statement (.melect f) := fun h =>
  tripV 0xC4 (.melect f) f rfl rfl rfl rfl h (by have k : (v f noType 2 false false false false (xMask 0x1C0) false) = true := fieldsOk_of h; exact opsV k)
    (fun p w a b => by have e : (bits w 56 8).toNat = 0xC4 := opNat a rfl; unfold instrOf; rw [e]; show Option.map _ _ = _; rw [b]; rfl)
theorem rng (f : VForm) : Statement (.rng f) := fun h =>
  tripV 0xD0 (.rng f) f rfl rfl rfl rfl h (by have k : (v f (· = .n64) 1 true true true false (· = 0) false) = true := fieldsOk_of h; exact opsV k)
    (fun p w a b => by have e : (bits w 56 8).toNat = 0xD0 := opNat a rfl; unfold instrOf; rw [e]; show Option.map _ _ = _; rw [b]; rfl)
theorem rngu (f : VForm) : Statement (.rngu f) := fun h =>
  tripV 0xD1 (.rngu f) f rfl rfl rfl rfl h (by have k : (v f (· = .f32) 1 true true true false (· = 0) false) = true := fieldsOk_of h; exact opsV k)
    (fun p w a b => by have e : (bits w 56 8).toNat = 0xD1 := opNat a rfl; unfold instrOf; rw [e]; show Option.map _ _ = _; rw [b]; rfl)
theorem rsvinit (f : VForm) : Statement (.rsvinit f) := fun h =>
  tripV 0xD2 (.rsvinit f) f rfl rfl rfl rfl h (by have k : (v f noType 1 true true false false (xMask 0xF) false) = true := fieldsOk_of h; exact opsV k)
    (fun p w a b => by have e : (bits w 56 8).toNat = 0xD2 := opNat a rfl; unfold instrOf; rw [e]; show Option.map _ _ = _; rw [b]; rfl)
theorem rsvupd (f : VForm) : Statement (.rsvupd f) := fun h =>
  tripV 0xD3 (.rsvupd f) f rfl rfl rfl rfl h (by have k : (v f noType 1 true true true false (· = 0) false) = true := fieldsOk_of h; exact opsV k)
    (fun p w a b => by have e : (bits w 56 8).toNat = 0xD3 := opNat a rfl; unfold instrOf; rw [e]; show Option.map _ _ = _; rw [b]; rfl)
theorem rsvmrg (f : VForm) : Statement (.rsvmrg f) := fun h =>
  tripV 0xD4 (.rsvmrg f) f rfl rfl rfl rfl h (by have k : (v f noType 1 true true true true (· = 0) false) = true := fieldsOk_of h; exact opsV k)
    (fun p w a b => by have e : (bits w 56 8).toNat = 0xD4 := opNat a rfl; unfold instrOf; rw [e]; show Option.map _ _ = _; rw [b]; rfl)
theorem rsvnrm (f : VForm) : Statement (.rsvnrm f) := fun h =>
  tripV 0xD5 (.rsvnrm f) f rfl rfl rfl rfl h (by have k : (v f noType 1 true false false false (· = 0) false) = true := fieldsOk_of h; exact opsV k)
    (fun p w a b => by have e : (bits w 56 8).toNat = 0xD5 := opNat a rfl; unfold instrOf; rw [e]; show Option.map _ _ = _; rw [b]; rfl)
theorem rsvld (f : VForm) : Statement (.rsvld f) := fun h =>
  tripV 0xD6 (.rsvld f) f rfl rfl rfl rfl h (by have k : (v f noType 2 true true false false (· = 0) false) = true := fieldsOk_of h; exact opsV k)
    (fun p w a b => by have e : (bits w 56 8).toNat = 0xD6 := opNat a rfl; unfold instrOf; rw [e]; show Option.map _ _ = _; rw [b]; rfl)
theorem rsvst (f : VForm) : Statement (.rsvst f) := fun h =>
  tripV 0xD7 (.rsvst f) f rfl rfl rfl rfl h (by have k : (v f noType 2 false true true false (· = 0) false) = true := fieldsOk_of h; exact opsV k)
    (fun p w a b => by have e : (bits w 56 8).toNat = 0xD7 := opNat a rfl; unfold instrOf; rw [e]; show Option.map _ _ = _; rw [b]; rfl)
theorem rsvclr (f : VForm) : Statement (.rsvclr f) := fun h =>
  tripV 0xE3 (.rsvclr f) f rfl rfl rfl rfl h (by have k : (v f noType 2 false true true false (xMask 0xF) false) = true := fieldsOk_of h; exact opsV k)
    (fun p w a b => by have e : (bits w 56 8).toNat = 0xE3 := opNat a rfl; unfold instrOf; rw [e]; show Option.map _ _ = _; rw [b]; rfl)
theorem rsvcpy (f : VForm) : Statement (.rsvcpy f) := fun h =>
  tripV 0xE6 (.rsvcpy f) f rfl rfl rfl rfl h (by have k : (v f noType 1 false true true false (· = 0) false) = true := fieldsOk_of h; exact opsV k)
    (fun p w a b => by have e : (bits w 56 8).toNat = 0xE6 := opNat a rfl; unfold instrOf; rw [e]; show Option.map _ _ = _; rw [b]; rfl)
theorem motv (f : VForm) : Statement (.motv f) := fun h =>
  tripV 0xE4 (.motv f) f rfl rfl rfl rfl h (by have k : (v f noType 1 true true true true (xMask 0x1C0) false) = true := fieldsOk_of h; exact opsV k)
    (fun p w a b => by have e : (bits w 56 8).toNat = 0xE4 := opNat a rfl; unfold instrOf; rw [e]; show Option.map _ _ = _; rw [b]; rfl)
theorem scnbind (f : QForm) : Statement (.scnbind f) := fun h =>
  tripQ 0xDD (.scnbind f) f rfl rfl rfl rfl h (by have k : (q f noType true true true false false false) = true := fieldsOk_of h; exact opsQ k)
    (fun p w a b => by have e : (bits w 56 8).toNat = 0xDD := opNat a rfl; unfold instrOf; rw [e]; show Option.map _ _ = _; rw [b]; rfl)
theorem rayq (f : QForm) : Statement (.rayq f) := fun h =>
  tripQ 0xD8 (.rayq f) f rfl rfl rfl rfl h (by have k : (q f noType true false true true false false) = true := fieldsOk_of h; exact opsQ k)
    (fun p w a b => by have e : (bits w 56 8).toNat = 0xD8 := opNat a rfl; unfold instrOf; rw [e]; show Option.map _ _ = _; rw [b]; rfl)
theorem rays (f : QForm) : Statement (.rays f) := fun h =>
  tripQ 0xD9 (.rays f) f rfl rfl rfl rfl h (by have k : (q f noType true false true true false false) = true := fieldsOk_of h; exact opsQ k)
    (fun p w a b => by have e : (bits w 56 8).toNat = 0xD9 := opNat a rfl; unfold instrOf; rw [e]; show Option.map _ _ = _; rw [b]; rfl)
theorem hitunp (f : VForm) : Statement (.hitunp f) := fun h =>
  tripV 0xDA (.hitunp f) f rfl rfl rfl rfl h (by have k : (v f (· = .f32) 1 true true false false (· = 0) false) = true := fieldsOk_of h; exact opsV k)
    (fun p w a b => by have e : (bits w 56 8).toNat = 0xDA := opNat a rfl; unfold instrOf; rw [e]; show Option.map _ _ = _; rw [b]; rfl)
theorem rayorg (f : VForm) : Statement (.rayorg f) := fun h =>
  tripV 0xE7 (.rayorg f) f rfl rfl rfl rfl h (by have k : (v f noType 1 true true true false (· = 0) false) = true := fieldsOk_of h; exact opsV k)
    (fun p w a b => by have e : (bits w 56 8).toNat = 0xE7 := opNat a rfl; unfold instrOf; rw [e]; show Option.map _ _ = _; rw [b]; rfl)
theorem ltset (f : QForm) : Statement (.ltset f) := fun h =>
  tripQ 0xE5 (.ltset f) f rfl rfl rfl rfl h (by have k : (q f noType true true true false false false) = true := fieldsOk_of h; exact opsQ k)
    (fun p w a b => by have e : (bits w 56 8).toNat = 0xE5 := opNat a rfl; unfold instrOf; rw [e]; show Option.map _ _ = _; rw [b]; rfl)
theorem ltsmp (f : QForm) : Statement (.ltsmp f) := fun h =>
  tripQ 0xDB (.ltsmp f) f rfl rfl rfl rfl h (by have k : (q f noType true false true true false false) = true := fieldsOk_of h; exact opsQ k)
    (fun p w a b => by have e : (bits w 56 8).toNat = 0xDB := opNat a rfl; unfold instrOf; rw [e]; show Option.map _ _ = _; rw [b]; rfl)
theorem reuse (f : QForm) : Statement (.reuse f) := fun h =>
  tripQ 0xDC (.reuse f) f rfl rfl rfl rfl h (by have k : (q f noType true true true false true false) = true := fieldsOk_of h; exact opsQ k)
    (fun p w a b => by have e : (bits w 56 8).toNat = 0xDC := opNat a rfl; unfold instrOf; rw [e]; show Option.map _ _ = _; rw [b]; rfl)
theorem gfemb (f : QForm) : Statement (.gfemb f) := fun h =>
  tripQ 0xDE (.gfemb f) f rfl rfl rfl rfl h (by have k : (q f noType true true true false true false) = true := fieldsOk_of h; exact opsQ k)
    (fun p w a b => by have e : (bits w 56 8).toNat = 0xDE := opNat a rfl; unfold instrOf; rw [e]; show Option.map _ _ = _; rw [b]; rfl)
theorem gfedepth (f : VForm) : Statement (.gfedepth f) := fun h =>
  tripV 0xE8 (.gfedepth f) f rfl rfl rfl rfl h (by have k : (v f noType 1 true true false false (xMask 0xF) false) = true := fieldsOk_of h; exact opsV k)
    (fun p w a b => by have e : (bits w 56 8).toNat = 0xE8 := opNat a rfl; unfold instrOf; rw [e]; show Option.map _ _ = _; rw [b]; rfl)
theorem viscls (f : VForm) : Statement (.viscls f) := fun h =>
  tripV 0xE9 (.viscls f) f rfl rfl rfl rfl h (by have k : (v f noType 1 true true true true (xMask 0x1C0) false) = true := fieldsOk_of h; exact opsV k)
    (fun p w a b => by have e : (bits w 56 8).toNat = 0xE9 := opNat a rfl; unfold instrOf; rw [e]; show Option.map _ _ = _; rw [b]; rfl)
theorem visw (f : VForm) : Statement (.visw f) := fun h =>
  tripV 0xDF (.visw f) f rfl rfl rfl rfl h (by have k : (v f noType 1 false true false false (· = 0) false) = true := fieldsOk_of h; exact opsV k)
    (fun p w a b => by have e : (bits w 56 8).toNat = 0xDF := opNat a rfl; unfold instrOf; rw [e]; show Option.map _ _ = _; rw [b]; rfl)
theorem smpbind (f : QForm) : Statement (.smpbind f) := fun h =>
  tripQ 0xE2 (.smpbind f) f rfl rfl rfl rfl h (by have k : (q f noType false true true true false false) = true := fieldsOk_of h; exact opsQ k)
    (fun p w a b => by have e : (bits w 56 8).toNat = 0xE2 := opNat a rfl; unfold instrOf; rw [e]; show Option.map _ _ = _; rw [b]; rfl)
theorem smpt (f : VForm) : Statement (.smpt f) := fun h =>
  tripV 0xE0 (.smpt f) f rfl rfl rfl rfl h (by have k : (v f anyType 1 true true false false (xMask 0xF) false) = true := fieldsOk_of h; exact opsV k)
    (fun p w a b => by have e : (bits w 56 8).toNat = 0xE0 := opNat a rfl; unfold instrOf; rw [e]; show Option.map _ _ = _; rw [b]; rfl)
theorem smpb (f : VForm) : Statement (.smpb f) := fun h =>
  tripV 0xE1 (.smpb f) f rfl rfl rfl rfl h (by have k : (v f anyType 1 true true false false (xMask 0xF) false) = true := fieldsOk_of h; exact opsV k)
    (fun p w a b => by have e : (bits w 56 8).toNat = 0xE1 := opNat a rfl; unfold instrOf; rw [e]; show Option.map _ _ = _; rw [b]; rfl)
theorem clauseIssue (g : Nat) (p : PathSlot) : Statement (.clauseIssue g p) := fun h => nomatch h
theorem quantumClauseLimit (g : Nat) (p : PathSlot) : Statement (.quantumClauseLimit g p) := fun h => nomatch h
theorem allowanceExpiry (parcel : Nat) : Statement (.allowanceExpiry parcel) := fun h => nomatch h
theorem candidateAged (g : Nat) (p : PathSlot) : Statement (.candidateAged g p) := fun h => nomatch h
theorem blockedSlotResume (g : Nat) : Statement (.blockedSlotResume g) := fun h => nomatch h
theorem loadResult (g idx : Nat) : Statement (.loadResult g idx) := fun h => nomatch h
theorem sfuResult (g : Nat) : Statement (.sfuResult g) := fun h => nomatch h
theorem sleeptWake (g : Nat) : Statement (.sleeptWake g) := fun h => nomatch h
theorem homeSliceWrite (n : Nat) : Statement (.homeSliceWrite n) := fun h => nomatch h
theorem watchTableRetry (die slice : Nat) : Statement (.watchTableRetry die slice) := fun h => nomatch h
theorem ackReturn (n : Nat) : Statement (.ackReturn n) := fun h => nomatch h
theorem launchAccept (vf queue : Nat) : Statement (.launchAccept vf queue) := fun h => nomatch h
theorem dispatch : Statement (.dispatch) := fun h => nomatch h
theorem resourceReport (core : Nat) : Statement (.resourceReport core) := fun h => nomatch h
theorem stake (placement core : Nat) : Statement (.stake placement core) := fun h => nomatch h
theorem placementCommit (placement : Nat) : Statement (.placementCommit placement) := fun h => nomatch h
theorem stakeRetry (placement : Nat) : Statement (.stakeRetry placement) := fun h => nomatch h
theorem parcelRetire (parcel : Nat) : Statement (.parcelRetire parcel) := fun h => nomatch h
theorem commitLogApply (parcel : Nat) : Statement (.commitLogApply parcel) := fun h => nomatch h
theorem launchComplete (launch : Nat) : Statement (.launchComplete launch) := fun h => nomatch h
theorem beatEnd : Statement (.beatEnd) := fun h => nomatch h
theorem grantPlacement : Statement (.grantPlacement) := fun h => nomatch h
theorem engineTakeCommand (e : EngineRef) : Statement (.engineTakeCommand e) := fun h => nomatch h
theorem engineResultDeliver (e : EngineRef) : Statement (.engineResultDeliver e) := fun h => nomatch h
theorem jobCardDispatch (pair : Nat) : Statement (.jobCardDispatch pair) := fun h => nomatch h
theorem jobCardComplete (card : Nat) : Statement (.jobCardComplete card) := fun h => nomatch h
theorem mtxOpStart (pair op : Nat) : Statement (.mtxOpStart pair op) := fun h => nomatch h
theorem mtxOpRetire (pair op : Nat) : Statement (.mtxOpRetire pair op) := fun h => nomatch h
theorem kvrsSurvey (die : Nat) : Statement (.kvrsSurvey die) := fun h => nomatch h
theorem rayResult (core : Nat) : Statement (.rayResult core) := fun h => nomatch h
theorem lightWalk (pair : Nat) : Statement (.lightWalk pair) := fun h => nomatch h
theorem reuseCardRun (pair : Nat) : Statement (.reuseCardRun pair) := fun h => nomatch h
theorem gfeMeshletPass (die : Nat) : Statement (.gfeMeshletPass die) := fun h => nomatch h
theorem gfePyramidBuild (die : Nat) : Statement (.gfePyramidBuild die) := fun h => nomatch h
theorem faultRecordDeliver (vf : Nat) : Statement (.faultRecordDeliver vf) := fun h => nomatch h
theorem fqresume (vf : Nat) (value : W64) : Statement (.fqresume vf value) := fun h => nomatch h
theorem fqactEnd (vf : Nat) (seq : W32) : Statement (.fqactEnd vf seq) := fun h => nomatch h
theorem fqactResume (vf : Nat) (seq : W32) : Statement (.fqactResume vf seq) := fun h => nomatch h
theorem shootdown (vf : Nat) (value : W64) : Statement (.shootdown vf value) := fun h => nomatch h
theorem shootdownDone (vf : Nat) : Statement (.shootdownDone vf) := fun h => nomatch h
theorem migratePage (vf : Nat) (value : W128) : Statement (.migratePage vf value) := fun h => nomatch h
theorem migrationCopy (vf : Nat) : Statement (.migrationCopy vf) := fun h => nomatch h
theorem preemptSave (vf : Nat) (value : W64) : Statement (.preemptSave vf value) := fun h => nomatch h
theorem preemptSaveOrRequeue (vf : Nat) (value : W64) : Statement (.preemptSaveOrRequeue vf value) := fun h => nomatch h
theorem preemptEnd (vf : Nat) (value : W64) : Statement (.preemptEnd vf value) := fun h => nomatch h
theorem preemptRelease (vf : Nat) (value : W64) : Statement (.preemptRelease vf value) := fun h => nomatch h
theorem saveRoutineEnter (parcel : Nat) : Statement (.saveRoutineEnter parcel) := fun h => nomatch h
theorem saveComplete (parcel : Nat) : Statement (.saveComplete parcel) := fun h => nomatch h
theorem restore (parcel : Nat) : Statement (.restore parcel) := fun h => nomatch h
theorem preemptLate (parcel : Nat) : Statement (.preemptLate parcel) := fun h => nomatch h
theorem matrixWatchdog (pair : Nat) : Statement (.matrixWatchdog pair) := fun h => nomatch h
theorem matrixResetCommand (src : ResetSource) : Statement (.matrixResetCommand src) := fun h => nomatch h
theorem computeDieReset (die : Nat) (writesBack : Bool) : Statement (.computeDieReset die writesBack) := fun h => nomatch h
theorem dieRelink (die : Nat) : Statement (.dieRelink die) := fun h => nomatch h
theorem vfReset (vf : Nat) : Statement (.vfReset vf) := fun h => nomatch h
theorem coldReset : Statement (.coldReset) := fun h => nomatch h
theorem bootSourceRetry : Statement (.bootSourceRetry) := fun h => nomatch h
theorem warmReset : Statement (.warmReset) := fun h => nomatch h
theorem attestationRequest (vf : Option Nat) (nonce : BitVec 256) : Statement (.attestationRequest vf nonce) := fun h => nomatch h
theorem codeAdmission (vf : Nat) (pa size : Nat) (obj : Nat) : Statement (.codeAdmission vf pa size obj) := fun h => nomatch h
theorem keyLoad (vf slot : Nat) (wrapped : List Byte) : Statement (.keyLoad vf slot wrapped) := fun h => nomatch h
theorem debugToken (token : DebugToken) : Statement (.debugToken token) := fun h => nomatch h
theorem lifecycleAdvance (record : ConfigRecord) : Statement (.lifecycleAdvance record) := fun h => nomatch h
theorem islandPowerChange (island : Nat) (state : IslandState) : Statement (.islandPowerChange island state) := fun h => nomatch h
theorem datumInEdge : Statement (.datumInEdge) := fun h => nomatch h
theorem snapstatClear (die block : Nat) (value : W64) : Statement (.snapstatClear die block value) := fun h => nomatch h
theorem snapshotRead (reader : SnapReader) (die block index : Nat) : Statement (.snapshotRead reader die block index) := fun h => nomatch h
theorem storageError (e : StorageError) : Statement (.storageError e) := fun h => nomatch h
theorem linkFlitSend (link : Nat) : Statement (.linkFlitSend link) := fun h => nomatch h
theorem flitReplay (port : Nat) : Statement (.flitReplay port) := fun h => nomatch h
theorem linkRetrain (port : Nat) : Statement (.linkRetrain port) := fun h => nomatch h
theorem linkRateStep (link : Nat) (rate : BitVec 2) : Statement (.linkRateStep link rate) := fun h => nomatch h
theorem hostCxlMemAccess (pa : Nat) (a : HostAccess) : Statement (.hostCxlMemAccess pa a) := fun h => nomatch h
theorem lqidxWrite (vf queue : Nat) (value : W64) : Statement (.lqidxWrite vf queue value) := fun h => nomatch h
theorem fqidxWrite (vf : Nat) (value : W64) : Statement (.fqidxWrite vf value) := fun h => nomatch h
theorem lqcfgWrite (vf queue : Nat) (value : W64) : Statement (.lqcfgWrite vf queue value) := fun h => nomatch h
theorem fqcfgWrite (vf : Nat) (value : W64) : Statement (.fqcfgWrite vf value) := fun h => nomatch h
theorem krangeWrite (vf : Nat) (value : W32) : Statement (.krangeWrite vf value) := fun h => nomatch h
theorem prangeWrite (vf : Nat) (value : W32) : Statement (.prangeWrite vf value) := fun h => nomatch h
theorem rsvrectWrite (vf die : Nat) (value : W64) : Statement (.rsvrectWrite vf die value) := fun h => nomatch h
theorem lqtktWrite (vf queue : Nat) (value : W64) : Statement (.lqtktWrite vf queue value) := fun h => nomatch h
theorem sigpolWrite (vf : Nat) (value : BitVec 576) : Statement (.sigpolWrite vf value) := fun h => nomatch h
theorem breakpointWrite (w : DebugWriter) (core n : Nat) (value : W128) : Statement (.breakpointWrite w core n value) := fun h => nomatch h
theorem debugPortResume (g : Nat) : Statement (.debugPortResume g) := fun h => nomatch h
theorem registerWrite (r : ConfigReg) (value : W128) : Statement (.registerWrite r value) := fun h => nomatch h
theorem matrixResetComplete (pair : Nat) : Statement (.matrixResetComplete pair) := fun h => nomatch h
theorem debugPortDatumTrigger : Statement (.debugPortDatumTrigger) := fun h => nomatch h
theorem debuggerLatchWrite (g latch lane : Nat) (value : W64) : Statement (.debuggerLatchWrite g latch lane value) := fun h => nomatch h
theorem hostCxlCacheSnoop (line : Nat) (kind : SnoopKind) : Statement (.hostCxlCacheSnoop line kind) := fun h => nomatch h
theorem fabricRequestArrival (r : FabricRequest) : Statement (.fabricRequestArrival r) := fun h => nomatch h
theorem retrainingWindowEnd (link : LinkName) : Statement (.retrainingWindowEnd link) := fun h => nomatch h
theorem mlKemEncapsulation (vf : Nat) (ciphertext : List Byte) : Statement (.mlKemEncapsulation vf ciphertext) := fun h => nomatch h

end Laws.RoundTrip
end Sys2Proof
end

