-- ==== Sys2Proof/Laws/Slots.lean ====
section
/-!
SUPPORT. What one slot does: the slot that is next runs, and a slot whose operands are in order goes on to its own effect.
-/
namespace Sys2Proof.Machine
open Sys2Proof

/-- The context of a running slot holds the state it was taken from. -/
theorem State.running_state {s : State} {c : Ctx} (h : s.running = some c) : c.s = s := by
  unfold State.running at h
  split at h
  · cases h
  · split at h
    · cases h
    · split at h
      · cases h
      · split at h
        · cases h
        · split at h
          · cases h
          · cases hp : Group.path? (by assumption) (ClauseRun.path (by assumption)) with
            | none => simp_all
            | some p => simp_all; rw [← h]

theorem runSlot_runs {s : State} {c : Ctx} (h : s.runs c) (body : Ctx → Slot) : runSlot s body = .next (slotEnd (body c)) := by
  simp only [runSlot, h.1, h.2]

@[simp] theorem Slot.precise_done (c : Ctx) (b : Bool) (s : State) (g : Group) (l : Option (Tbl W64)) (d : Option Goto) :
    (Slot.done s g l d).precise c b = .done s g l d := rfl

/-- Whether a slot's quantum ends before its own effect. -/
def endsQuantum (o : Start) (us : List Use) : Bool := o.fence || o.access || usesQueue us

/-- A slot whose operands are in order goes on to its own effect; when its quantum ended for that, a fault of the effect is precise
at the slot (R421). -/
theorem Ctx.enter_begins {c : Ctx} {o : Start} {e : W64} {nw : Bool} {dsts srcs : List Use} {s : State} {g h : Group}
    {xs : List Src} {captures : Bool} (b : c.Begins o e nw dsts srcs s g h xs captures) (body : Ctx → Group → List Src → Slot) :
    c.enter o e nw dsts srcs captures body =
      if endsQuantum o (dsts ++ srcs) then (body (c.put s g) h xs).precise c !o.fence else body (c.put s g) h xs := by
  obtain ⟨h1, h2, hf, h3, h4, h5, h6, h7, h8, h9, h10, h11, h12, h13⟩ := b
  unfold pushQueue at h11
  have hlatch : (captures && c.g.pending.any fun p => p.latches c.r) = false := by
    cases captures
    · rfl
    · simpa using hf rfl
  unfold Ctx.enter endsQuantum
  unfold usesQueue at h10 ⊢
  simp only [h1, h2, h3, h4, h5, h6, h7, h8, h9, hlatch, if_false, Option.or_none, Bool.false_eq_true, decide_false, Bool.false_and]
  split at h10
  · rename_i hq
    simp only [hq, if_true, h10, Act.slot, h11, h12, h13]
  · rename_i hq
    simp only [hq, if_false, Bool.false_eq_true]
    obtain ⟨rfl, rfl⟩ := h10
    simp only [h11, h12, h13]

/-- A slot of a family that begins with `enter`, whose operands are in order and whose own effect completes. -/
theorem Ctx.entry_done {c : Ctx} {e : W64} {nw : Bool} {dsts srcs : List Use} {s : State} {g h : Group} {xs : List Src}
    {captures : Bool} (b : c.Begins {} e nw dsts srcs s g h xs captures) (body : Ctx → Group → List Src → Slot) {t : State} {g' : Group}
    {l : Option (Tbl W64)} {d : Option Goto} (hb : body (c.put s g) h xs = .done t g' l d) :
    c.entry e nw dsts srcs captures body = .done t g' l d := by
  unfold Ctx.entry
  rw [Ctx.enter_begins b, hb]
  simp

theorem Ctx.entry_result {c : Ctx} {e : W64} {nw : Bool} {dsts srcs : List Use} {s : State} {g h : Group} {xs : List Src}
    {captures : Bool} (b : c.Begins {} e nw dsts srcs s g h xs captures) (body : Ctx → Group → List Src → Slot) {d : Ctx}
    {g' : Group} {e' : W64} {dst : Operand} {nw' : Bool} {p : Pfx} {vec : Bool} {r : Res}
    (hb : body (c.put s g) h xs = d.result g' e' dst nw' p vec r) :
    c.entry e nw dsts srcs captures body = d.result g' e' dst nw' p vec r := Ctx.entry_done b body hb

/-! ## The end of a slot -/

/-- A slot with no latch, and a group with no result to come, leave the pending results alone. -/
@[simp] theorem Group.takeLatch_none (g : Group) (r : ClauseRun) : g.takeLatch r none = g := rfl
theorem Group.takeLatch_quiet (g : Group) (r : ClauseRun) (latch : Option (Tbl W64))
    (h : (g.pending.any fun p => p.latches r) = false) : g.takeLatch r latch = g := by
  have hq : ∀ p ∈ g.pending, (p.run = r.id && p.latch = some (r.idx % 4) && p.slot ≠ r.idx) = false := by
    intro p hp
    have hl : p.latches r = false := by simpa using List.any_eq_false.mp h p hp
    unfold Pending.latches at hl
    rw [hl, Bool.false_and]
  have hm : ∀ l : List Pending, (∀ p ∈ l, (p.run = r.id && p.latch = some (r.idx % 4) && p.slot ≠ r.idx) = false) →
      l.map (fun p => if p.run = r.id && p.latch = some (r.idx % 4) && p.slot ≠ r.idx then { p with latch := none } else p) = l := by
    intro l
    induction l with
    | nil => intro _; rfl
    | cons p l ih =>
        intro hl
        rw [List.map_cons, ih fun q hq => hl q (List.mem_cons_of_mem _ hq), hl p List.mem_cons_self]
        rfl
  unfold Group.takeLatch
  rw [hm g.pending hq]
  split <;> rfl

/-- The run after a slot, with the latch that the slot captures. -/
theorem ClauseRun.advance_inside (r : ClauseRun) (latch : Option (Tbl W64)) (h : r.idx + 1 < r.words.length) :
    r.advance latch none = { (match latch with | some t => r.capture t | none => r) with
      idx := r.idx + 1, woken := false, noMatch := false } := by
  have : ¬ r.words.length ≤ r.idx + 1 := by omega
  cases latch <;> simp [ClauseRun.advance, ClauseRun.capture, this]

theorem ClauseRun.advance_last (r : ClauseRun) (latch : Option (Tbl W64)) (h : r.words.length ≤ r.idx + 1) :
    r.advance latch none = { (match latch with | some t => r.capture t | none => r) with
      idx := r.idx + 1, woken := false, noMatch := false, leaving := some .next } := by
  cases latch <;> simp [ClauseRun.advance, ClauseRun.capture, h]

theorem State.finishSlot_inside (s : State) (g : Group) (r : ClauseRun) (latch : Option (Tbl W64)) (hg : g.run = some r)
    (hl : r.leaving = none) (h : r.idx + 1 < r.words.length) :
    s.finishSlot g latch none = s.setGroup { g.takeLatch r latch with run := some (r.advance latch none) } := by
  have hn : (r.advance latch none).leaving.isSome = false := by
    rw [ClauseRun.advance_inside r latch h]
    cases latch <;> simp [ClauseRun.capture, hl]
  simp only [State.finishSlot, hg, hn, Bool.false_eq_true, if_false]

theorem State.finishSlot_last (s : State) (g : Group) (r : ClauseRun) (latch : Option (Tbl W64)) (hg : g.run = some r)
    (h : r.words.length ≤ r.idx + 1) :
    s.finishSlot g latch none = s.endClause { g.takeLatch r latch with run := some (r.advance latch none) } := by
  have hn : (r.advance latch none).leaving.isSome = true := by rw [ClauseRun.advance_last r latch h]; rfl
  simp only [State.finishSlot, hg, hn, if_true]

theorem State.finishSlot_goto (s : State) (g : Group) (r : ClauseRun) (latch : Option (Tbl W64)) (dest : Goto) (hg : g.run = some r) :
    s.finishSlot g latch (some dest) = s.endClause { g.takeLatch r latch with run := some (r.advance latch (some dest)) } := by
  have hn : (r.advance latch (some dest)).leaving.isSome = true := by cases latch <;> rfl
  simp only [State.finishSlot, hg, hn, if_true]

/-! ## Results -/

theorem mem_span (a n x : Nat) : x ∈ span a n ↔ a ≤ x ∧ x < a + n := by
  induction n generalizing a with
  | zero => simp only [span, List.not_mem_nil, false_iff]; omega
  | succ n ih => simp only [span, List.mem_cons, ih]; omega

theorem span_nodup (a n : Nat) : (span a n).Nodup := by
  induction n generalizing a with
  | zero => exact List.nodup_nil
  | succ n ih =>
      simp only [span, List.nodup_cons]
      exact ⟨fun h => by have := (mem_span _ _ _).mp h; omega, ih _⟩

theorem lanes_nodup (m : W64) : (lanes m).Nodup := (span_nodup 0 64).filter _

theorem mem_lanes (m : W64) (l : Nat) : l ∈ lanes m ↔ m.getLsbD l = true := by
  simp only [lanes, List.mem_filter, mem_span]
  constructor
  · exact fun h => h.2
  · intro h
    refine ⟨⟨Nat.zero_le _, ?_⟩, h⟩
    have := BitVec.lt_of_getLsbD h
    omega

/-- A table of rows reads as the table without its zero rows. -/
theorem get_filter_zero (ls : List (Nat × W64)) (hd : (ls.map Prod.fst).Nodup) (l : Nat) :
    Tbl.get 0 (ls.filter fun e => e.2 ≠ 0) l = Tbl.get 0 ls l := by
  have absent : ∀ t : List (Nat × W64), l ∉ t.map Prod.fst → Tbl.get 0 t l = 0 := by
    intro t
    induction t with
    | nil => intro _; rfl
    | cons e t ih =>
        intro h
        simp only [List.map_cons, List.mem_cons, not_or] at h
        obtain ⟨k, v⟩ := e
        have hk : k ≠ l := fun x => h.1 x.symm
        simp only [Tbl.get, hk, if_false]
        exact ih h.2
  induction ls with
  | nil => rfl
  | cons e t ih =>
      obtain ⟨k, v⟩ := e
      simp only [List.map_cons, List.nodup_cons] at hd
      by_cases hk : k = l
      · subst hk
        by_cases hv : v = 0
        · simp only [Tbl.get, if_true, List.filter_cons, hv, ne_eq, not_true, decide_false, Bool.false_eq_true, if_false]
          rw [ih hd.2, absent t hd.1]
        · simp only [Tbl.get, if_true, List.filter_cons, hv, ne_eq, not_false_eq_true, decide_true]
      · by_cases hv : v = 0
        · simp only [Tbl.get, hk, if_false, List.filter_cons, hv, ne_eq, not_true, decide_false, Bool.false_eq_true]
          exact ih hd.2
        · simp only [List.filter_cons, hv, ne_eq, not_false_eq_true, decide_true, if_true, Tbl.get, hk, if_false]
          exact ih hd.2

theorem get_laneTbl (m : W64) (f : Nat → W64) (l : Nat) :
    Tbl.get 0 (laneTbl m f) l = Tbl.get 0 ((lanes m).map fun l => (l, f l)) l := by
  unfold laneTbl
  refine get_filter_zero _ ?_ l
  simpa [List.map_map, Function.comp_def] using lanes_nodup m

/-- The reading of a table of lanes. -/
theorem get_laneTbl_eq (m : W64) (f : Nat → W64) (l : Nat) : Tbl.get 0 (laneTbl m f) l = if m.getLsbD l then f l else 0 := by
  rw [get_laneTbl]
  have : ∀ ls : List Nat, Tbl.get 0 (ls.map fun l => (l, f l)) l = if l ∈ ls then f l else 0 := by
    intro ls
    induction ls with
    | nil => rfl
    | cons x t ih =>
        simp only [List.map_cons, Tbl.get]
        by_cases h : x = l
        · subst h; simp only [if_true, List.mem_cons, true_or]
        · have h' : ¬l = x := fun y => h y.symm
          simp only [h, h', if_false, List.mem_cons, false_or]
          exact ih
  rw [this]
  simp only [mem_lanes]

theorem laneTbl_congr (m : W64) (f g : Nat → W64) (h : ∀ l, m.getLsbD l = true → f l = g l) : laneTbl m f = laneTbl m g := by
  unfold laneTbl
  congr 1
  refine List.map_congr_left fun l hl => ?_
  rw [h l ((mem_lanes m l).mp hl)]

/-- A result for each lane is written alike from two tables that read alike. -/
theorem Ctx.write_congr (c : Ctx) (g : Group) (e : W64) (dst : Operand) (p : Pfx) (vec : Bool) (t u : Tbl W64)
    (h : ∀ l, Tbl.get 0 t l = Tbl.get 0 u l) : c.write g e dst p vec (.lanes t) = c.write g e dst p vec (.lanes u) := by
  have ha : Res.at (.lanes t) = Res.at (.lanes u) := funext h
  have hf : (fun l => Tbl.get 0 t l) = fun l => Tbl.get 0 u l := funext h
  cases dst with
  | v n => simp only [Ctx.write, ha]
  | s n => simp only [Ctx.write, h]
  | l n => rfl
  | q n => simp only [Ctx.write, hf]
  | reserved n => rfl

/-- A slot with a result for each lane completes. -/
theorem Ctx.result_lanes (c : Ctx) (g : Group) (e : W64) (dst : Operand) (nw : Bool) (p : Pfx) (vec : Bool) (t : Tbl W64)
    (x : Nat → W64) (h : ∀ l, Tbl.get 0 t l = if e.getLsbD l then x l else 0) :
    Host.Outcome.next (slotEnd (c.result g e dst nw p vec (.lanes t))) = c.lanesDone e dst nw p vec g x := by
  have hw := c.write_congr g e dst p vec t (laneTbl e x) (fun l => by rw [h, get_laneTbl_eq])
  have hl : laneTbl e (fun l => Tbl.get 0 t l) = laneTbl e x := laneTbl_congr _ _ _ fun l hl => by rw [h, hl]; rfl
  simp only [Ctx.result, Ctx.latchOf, slotEnd, Ctx.lanesDone, doneWith, hw, hl]

theorem get_rows (e : W64) (x : Nat → W64) (l : Nat) :
    Tbl.get 0 ((lanes e).map fun l => (l, x l)) l = if e.getLsbD l then x l else 0 := by
  rw [← get_laneTbl, get_laneTbl_eq]

theorem firstNan_none (j : Nat) (xs : List El) : firstNan j xs = none ↔ ∀ x ∈ xs, x.nan = none := by
  induction xs generalizing j with
  | nil => simp [firstNan]
  | cons x xs ih =>
      simp only [firstNan, List.mem_cons, forall_eq_or_imp]
      cases hx : x.nan with
      | none => simp [ih]
      | some v => simp

theorem laneNan_none (k : Nat) (rows : List (Nat × List El)) :
    laneNan k rows = none ↔ ∀ r ∈ rows, ∀ x ∈ r.2, x.nan = none := by
  induction rows with
  | nil => simp [laneNan]
  | cons r rs ih =>
      obtain ⟨l, xs⟩ := r
      simp only [laneNan, List.mem_cons, forall_eq_or_imp]
      cases hx : firstNan 0 xs with
      | none => exact ⟨fun h => ⟨(firstNan_none 0 xs).mp hx, ih.mp h⟩, fun h => ih.mpr h.2⟩
      | some v =>
          simp only [reduceCtorEq, false_iff, not_and]
          intro h
          exact absurd ((firstNan_none 0 xs).mpr h) (by simp [hx])

/-- An element-wise vector slot completes. -/
theorem Ctx.laneSlot_begins {c : Ctx} {f : VForm} {t : State} {g h : Group} {xs : List Src} {srcs : List Use} (engine : Nat)
    (ty : ElemType) (op : FEnv → List W64 → List El)
    (b : c.Begins {} (c.enabled f.pg f.pn) f.nw [dstOf f .vq] srcs t g h xs)
    (hn : ∀ l, (c.enabled f.pg f.pn).getLsbD l = true →
      noTrap ((c.put t g).fenv f.pfx) (op ((c.put t g).fenv f.pfx) (xs.map fun x => x l))) :
    Host.Outcome.next (slotEnd (c.laneSlot f engine ty srcs op)) =
      (c.put t g).lanesDone (c.enabled f.pg f.pn) f.dst f.nw f.pfx true h
        fun l => elReg ty (op ((c.put t g).fenv f.pfx) (xs.map fun x => x l)) := by
  have hno : (if ((c.put t g).fenv f.pfx).nant then laneNan engine ((lanes (c.enabled f.pg f.pn)).map fun l =>
      (l, op ((c.put t g).fenv f.pfx) (xs.map fun x => x l))) else none) = none := by
    split
    · rename_i hna
      rw [laneNan_none]
      intro r hr x hx
      obtain ⟨l, hl, rfl⟩ := List.mem_map.mp hr
      exact hn l ((mem_lanes _ _).mp hl) hna x hx
    · rfl
  unfold Ctx.laneSlot
  rw [Ctx.entry_result b]
  · exact Ctx.result_lanes _ _ _ _ _ _ _ _ _ fun l => get_rows _ _ l
  · simp only [hno, List.map_map, Function.comp_def]

/-- An element-wise scalar slot completes. -/
theorem Ctx.pathSlot_begins {c : Ctx} {f : VForm} {t : State} {g h : Group} {xs : List Src} {srcs : List Use}
    (ty : ElemType) (op : FEnv → List W64 → List El)
    (b : c.Begins {} (c.enabled f.pg f.pn) f.nw [dstOf f .sq] srcs t g h xs)
    (hn : noTrap ((c.put t g).fenv f.pfx)
      (op ((c.put t g).fenv f.pfx) (xs.map fun x => x ((lowest (c.enabled f.pg f.pn)).getD 0)))) :
    Host.Outcome.next (slotEnd (c.pathSlot f ty srcs op)) =
      (c.put t g).pathDone (c.enabled f.pg f.pn) f.dst f.nw f.pfx false h
        (elReg ty (op ((c.put t g).fenv f.pfx) (xs.map fun x => x ((lowest (c.enabled f.pg f.pn)).getD 0)))) := by
  have hno : (if ((c.put t g).fenv f.pfx).nant then laneNan 1 [((lowest (c.enabled f.pg f.pn)).getD 0,
      op ((c.put t g).fenv f.pfx) (xs.map fun x => x ((lowest (c.enabled f.pg f.pn)).getD 0)))] else none) = none := by
    split
    · rename_i hna
      rw [laneNan_none]
      intro r hr x hx
      rw [List.mem_singleton.mp hr] at hx
      exact hn hna x hx
    · rfl
  unfold Ctx.pathSlot
  rw [Ctx.entry_result b]
  · rfl
  · simp only [hno]

/-- A slot on whole patterns of the lanes completes. -/
theorem Ctx.vecWhole_begins {c : Ctx} {f : VForm} {t : State} {g h : Group} {xs : List Src} (n : Nat) (op : List W64 → W64)
    (b : c.Begins {} (c.enabled f.pg f.pn) f.nw [dstOf f .vq] (usesOf f n .vslq) t g h xs) :
    Host.Outcome.next (slotEnd (c.vecWhole f n op)) =
      (c.put t g).lanesDone (c.enabled f.pg f.pn) f.dst f.nw f.pfx true h fun l => op (xs.map fun x => x l) := by
  unfold Ctx.vecWhole
  rw [Ctx.entry_result b _ rfl]
  exact Ctx.result_lanes _ _ _ _ _ _ _ _ _ fun l => get_laneTbl_eq _ _ l

/-- A slot on a whole pattern for the path completes. -/
theorem Ctx.scalWhole_begins {c : Ctx} {f : VForm} {t : State} {g h : Group} {xs : List Src} (n : Nat) (op : List W64 → W64)
    (b : c.Begins {} (c.enabled f.pg f.pn) f.nw [dstOf f .sq] (usesOf f n .slq) t g h xs) :
    Host.Outcome.next (slotEnd (c.scalWhole f n op)) =
      (c.put t g).pathDone (c.enabled f.pg f.pn) f.dst f.nw f.pfx false h
        (op (xs.map fun x => x ((lowest (c.enabled f.pg f.pn)).getD 0))) := by
  unfold Ctx.scalWhole
  rw [Ctx.entry_result b _ rfl]
  rfl

/-- A slot with a mask destination completes. -/
theorem Ctx.maskSlot_begins {c : Ctx} {f : VForm} {t : State} {g h : Group} {xs : List Src} {srcs : List Use}
    (body : Ctx → W64 → List Src → W64) (hk : xKD f.x ≠ 0)
    (b : c.Begins {} (c.enabled f.pg f.pn) f.nw [] srcs t g h xs) :
    Host.Outcome.next (slotEnd (c.maskSlot f srcs body)) =
      (c.put t g).maskDone (c.enabled f.pg f.pn) (xKD f.x) f.nw h (body (c.put t g) (c.enabled f.pg f.pn) xs) := by
  unfold Ctx.maskSlot kdFault
  rw [if_neg hk]
  simp only []
  rw [Ctx.entry_done b _ rfl]
  rfl

end Sys2Proof.Machine
end

