-- ==== Sys2Proof/Laws/State.lean ====
section
/-!
SUPPORT. The fields of a state and of a group after each named update: one lemma per field and update, true by definition.
-/
namespace Sys2Proof.Machine
open Sys2Proof

/-! ## Updates of the state -/

@[simp] theorem State.setGroup_agenda (s : State) (g : Group) : (s.setGroup g).agenda = s.agenda := rfl
@[simp] theorem State.setGroup_turns (s : State) (g : Group) : (s.setGroup g).turns = s.turns := rfl
@[simp] theorem State.setGroup_tick (s : State) (g : Group) : (s.setGroup g).tick = s.tick := rfl
@[simp] theorem State.setGroup_cycles (s : State) (g : Group) : (s.setGroup g).cycles = s.cycles := rfl
@[simp] theorem State.setGroup_time (s : State) (g : Group) : (s.setGroup g).time = s.time := rfl
@[simp] theorem State.setGroup_uid (s : State) (g : Group) : (s.setGroup g).uid = s.uid := rfl
@[simp] theorem State.setGroup_free (s : State) (g : Group) : (s.setGroup g).free = s.free := rfl
@[simp] theorem State.setGroup_active (s : State) (g : Group) : (s.setGroup g).active = s.active := rfl
@[simp] theorem State.setGroup_mem (s : State) (g : Group) : (s.setGroup g).mem = s.mem := rfl
@[simp] theorem State.setGroup_poison (s : State) (g : Group) : (s.setGroup g).poison = s.poison := rfl
@[simp] theorem State.setGroup_seals (s : State) (g : Group) : (s.setGroup g).seals = s.seals := rfl
@[simp] theorem State.setGroup_groups (s : State) (g : Group) : (s.setGroup g).groups = replaceFirst (fun x => x.uid = g.uid) g s.groups := rfl
@[simp] theorem State.setGroup_parcels (s : State) (g : Group) : (s.setGroup g).parcels = s.parcels := rfl
@[simp] theorem State.setGroup_launches (s : State) (g : Group) : (s.setGroup g).launches = s.launches := rfl
@[simp] theorem State.setGroup_placements (s : State) (g : Group) : (s.setGroup g).placements = s.placements := rfl
@[simp] theorem State.setGroup_cores (s : State) (g : Group) : (s.setGroup g).cores = s.cores := rfl
@[simp] theorem State.setGroup_pairs (s : State) (g : Group) : (s.setGroup g).pairs = s.pairs := rfl
@[simp] theorem State.setGroup_pairTlbs (s : State) (g : Group) : (s.setGroup g).pairTlbs = s.pairTlbs := rfl
@[simp] theorem State.setGroup_dies (s : State) (g : Group) : (s.setGroup g).dies = s.dies := rfl
@[simp] theorem State.setGroup_engines (s : State) (g : Group) : (s.setGroup g).engines = s.engines := rfl
@[simp] theorem State.setGroup_net (s : State) (g : Group) : (s.setGroup g).net = s.net := rfl
@[simp] theorem State.setGroup_acks (s : State) (g : Group) : (s.setGroup g).acks = s.acks := rfl
@[simp] theorem State.setGroup_flits (s : State) (g : Group) : (s.setGroup g).flits = s.flits := rfl
@[simp] theorem State.setGroup_decls (s : State) (g : Group) : (s.setGroup g).decls = s.decls := rfl
@[simp] theorem State.setGroup_joined (s : State) (g : Group) : (s.setGroup g).joined = s.joined := rfl
@[simp] theorem State.setGroup_phasers (s : State) (g : Group) : (s.setGroup g).phasers = s.phasers := rfl
@[simp] theorem State.setGroup_vfs (s : State) (g : Group) : (s.setGroup g).vfs = s.vfs := rfl
@[simp] theorem State.setGroup_links (s : State) (g : Group) : (s.setGroup g).links = s.links := rfl
@[simp] theorem State.setGroup_ports (s : State) (g : Group) : (s.setGroup g).ports = s.ports := rfl
@[simp] theorem State.setGroup_linkDirs (s : State) (g : Group) : (s.setGroup g).linkDirs = s.linkDirs := rfl
@[simp] theorem State.setGroup_control (s : State) (g : Group) : (s.setGroup g).control = s.control := rfl
@[simp] theorem State.setGroup_returns (s : State) (g : Group) : (s.setGroup g).returns = s.returns := rfl
@[simp] theorem State.setGroup_replies (s : State) (g : Group) : (s.setGroup g).replies = s.replies := rfl
@[simp] theorem State.setParcel_agenda (s : State) (p : Parcel) : (s.setParcel p).agenda = s.agenda := rfl
@[simp] theorem State.setParcel_turns (s : State) (p : Parcel) : (s.setParcel p).turns = s.turns := rfl
@[simp] theorem State.setParcel_tick (s : State) (p : Parcel) : (s.setParcel p).tick = s.tick := rfl
@[simp] theorem State.setParcel_cycles (s : State) (p : Parcel) : (s.setParcel p).cycles = s.cycles := rfl
@[simp] theorem State.setParcel_time (s : State) (p : Parcel) : (s.setParcel p).time = s.time := rfl
@[simp] theorem State.setParcel_uid (s : State) (p : Parcel) : (s.setParcel p).uid = s.uid := rfl
@[simp] theorem State.setParcel_free (s : State) (p : Parcel) : (s.setParcel p).free = s.free := rfl
@[simp] theorem State.setParcel_active (s : State) (p : Parcel) : (s.setParcel p).active = s.active := rfl
@[simp] theorem State.setParcel_mem (s : State) (p : Parcel) : (s.setParcel p).mem = s.mem := rfl
@[simp] theorem State.setParcel_poison (s : State) (p : Parcel) : (s.setParcel p).poison = s.poison := rfl
@[simp] theorem State.setParcel_seals (s : State) (p : Parcel) : (s.setParcel p).seals = s.seals := rfl
@[simp] theorem State.setParcel_groups (s : State) (p : Parcel) : (s.setParcel p).groups = s.groups := rfl
@[simp] theorem State.setParcel_parcels (s : State) (p : Parcel) : (s.setParcel p).parcels = replaceFirst (fun x => x.uid = p.uid) p s.parcels := rfl
@[simp] theorem State.setParcel_launches (s : State) (p : Parcel) : (s.setParcel p).launches = s.launches := rfl
@[simp] theorem State.setParcel_placements (s : State) (p : Parcel) : (s.setParcel p).placements = s.placements := rfl
@[simp] theorem State.setParcel_cores (s : State) (p : Parcel) : (s.setParcel p).cores = s.cores := rfl
@[simp] theorem State.setParcel_pairs (s : State) (p : Parcel) : (s.setParcel p).pairs = s.pairs := rfl
@[simp] theorem State.setParcel_pairTlbs (s : State) (p : Parcel) : (s.setParcel p).pairTlbs = s.pairTlbs := rfl
@[simp] theorem State.setParcel_dies (s : State) (p : Parcel) : (s.setParcel p).dies = s.dies := rfl
@[simp] theorem State.setParcel_engines (s : State) (p : Parcel) : (s.setParcel p).engines = s.engines := rfl
@[simp] theorem State.setParcel_net (s : State) (p : Parcel) : (s.setParcel p).net = s.net := rfl
@[simp] theorem State.setParcel_acks (s : State) (p : Parcel) : (s.setParcel p).acks = s.acks := rfl
@[simp] theorem State.setParcel_flits (s : State) (p : Parcel) : (s.setParcel p).flits = s.flits := rfl
@[simp] theorem State.setParcel_decls (s : State) (p : Parcel) : (s.setParcel p).decls = s.decls := rfl
@[simp] theorem State.setParcel_joined (s : State) (p : Parcel) : (s.setParcel p).joined = s.joined := rfl
@[simp] theorem State.setParcel_phasers (s : State) (p : Parcel) : (s.setParcel p).phasers = s.phasers := rfl
@[simp] theorem State.setParcel_vfs (s : State) (p : Parcel) : (s.setParcel p).vfs = s.vfs := rfl
@[simp] theorem State.setParcel_links (s : State) (p : Parcel) : (s.setParcel p).links = s.links := rfl
@[simp] theorem State.setParcel_ports (s : State) (p : Parcel) : (s.setParcel p).ports = s.ports := rfl
@[simp] theorem State.setParcel_linkDirs (s : State) (p : Parcel) : (s.setParcel p).linkDirs = s.linkDirs := rfl
@[simp] theorem State.setParcel_control (s : State) (p : Parcel) : (s.setParcel p).control = s.control := rfl
@[simp] theorem State.setParcel_returns (s : State) (p : Parcel) : (s.setParcel p).returns = s.returns := rfl
@[simp] theorem State.setParcel_replies (s : State) (p : Parcel) : (s.setParcel p).replies = s.replies := rfl
@[simp] theorem State.setLaunch_agenda (s : State) (l : Launch) : (s.setLaunch l).agenda = s.agenda := rfl
@[simp] theorem State.setLaunch_turns (s : State) (l : Launch) : (s.setLaunch l).turns = s.turns := rfl
@[simp] theorem State.setLaunch_tick (s : State) (l : Launch) : (s.setLaunch l).tick = s.tick := rfl
@[simp] theorem State.setLaunch_cycles (s : State) (l : Launch) : (s.setLaunch l).cycles = s.cycles := rfl
@[simp] theorem State.setLaunch_time (s : State) (l : Launch) : (s.setLaunch l).time = s.time := rfl
@[simp] theorem State.setLaunch_uid (s : State) (l : Launch) : (s.setLaunch l).uid = s.uid := rfl
@[simp] theorem State.setLaunch_free (s : State) (l : Launch) : (s.setLaunch l).free = s.free := rfl
@[simp] theorem State.setLaunch_active (s : State) (l : Launch) : (s.setLaunch l).active = s.active := rfl
@[simp] theorem State.setLaunch_mem (s : State) (l : Launch) : (s.setLaunch l).mem = s.mem := rfl
@[simp] theorem State.setLaunch_poison (s : State) (l : Launch) : (s.setLaunch l).poison = s.poison := rfl
@[simp] theorem State.setLaunch_seals (s : State) (l : Launch) : (s.setLaunch l).seals = s.seals := rfl
@[simp] theorem State.setLaunch_groups (s : State) (l : Launch) : (s.setLaunch l).groups = s.groups := rfl
@[simp] theorem State.setLaunch_parcels (s : State) (l : Launch) : (s.setLaunch l).parcels = s.parcels := rfl
@[simp] theorem State.setLaunch_launches (s : State) (l : Launch) : (s.setLaunch l).launches = replaceFirst (fun x => x.uid = l.uid) l s.launches := rfl
@[simp] theorem State.setLaunch_placements (s : State) (l : Launch) : (s.setLaunch l).placements = s.placements := rfl
@[simp] theorem State.setLaunch_cores (s : State) (l : Launch) : (s.setLaunch l).cores = s.cores := rfl
@[simp] theorem State.setLaunch_pairs (s : State) (l : Launch) : (s.setLaunch l).pairs = s.pairs := rfl
@[simp] theorem State.setLaunch_pairTlbs (s : State) (l : Launch) : (s.setLaunch l).pairTlbs = s.pairTlbs := rfl
@[simp] theorem State.setLaunch_dies (s : State) (l : Launch) : (s.setLaunch l).dies = s.dies := rfl
@[simp] theorem State.setLaunch_engines (s : State) (l : Launch) : (s.setLaunch l).engines = s.engines := rfl
@[simp] theorem State.setLaunch_net (s : State) (l : Launch) : (s.setLaunch l).net = s.net := rfl
@[simp] theorem State.setLaunch_acks (s : State) (l : Launch) : (s.setLaunch l).acks = s.acks := rfl
@[simp] theorem State.setLaunch_flits (s : State) (l : Launch) : (s.setLaunch l).flits = s.flits := rfl
@[simp] theorem State.setLaunch_decls (s : State) (l : Launch) : (s.setLaunch l).decls = s.decls := rfl
@[simp] theorem State.setLaunch_joined (s : State) (l : Launch) : (s.setLaunch l).joined = s.joined := rfl
@[simp] theorem State.setLaunch_phasers (s : State) (l : Launch) : (s.setLaunch l).phasers = s.phasers := rfl
@[simp] theorem State.setLaunch_vfs (s : State) (l : Launch) : (s.setLaunch l).vfs = s.vfs := rfl
@[simp] theorem State.setLaunch_links (s : State) (l : Launch) : (s.setLaunch l).links = s.links := rfl
@[simp] theorem State.setLaunch_ports (s : State) (l : Launch) : (s.setLaunch l).ports = s.ports := rfl
@[simp] theorem State.setLaunch_linkDirs (s : State) (l : Launch) : (s.setLaunch l).linkDirs = s.linkDirs := rfl
@[simp] theorem State.setLaunch_control (s : State) (l : Launch) : (s.setLaunch l).control = s.control := rfl
@[simp] theorem State.setLaunch_returns (s : State) (l : Launch) : (s.setLaunch l).returns = s.returns := rfl
@[simp] theorem State.setLaunch_replies (s : State) (l : Launch) : (s.setLaunch l).replies = s.replies := rfl
@[simp] theorem State.setPlacement_agenda (s : State) (p : Placement) : (s.setPlacement p).agenda = s.agenda := rfl
@[simp] theorem State.setPlacement_turns (s : State) (p : Placement) : (s.setPlacement p).turns = s.turns := rfl
@[simp] theorem State.setPlacement_tick (s : State) (p : Placement) : (s.setPlacement p).tick = s.tick := rfl
@[simp] theorem State.setPlacement_cycles (s : State) (p : Placement) : (s.setPlacement p).cycles = s.cycles := rfl
@[simp] theorem State.setPlacement_time (s : State) (p : Placement) : (s.setPlacement p).time = s.time := rfl
@[simp] theorem State.setPlacement_uid (s : State) (p : Placement) : (s.setPlacement p).uid = s.uid := rfl
@[simp] theorem State.setPlacement_free (s : State) (p : Placement) : (s.setPlacement p).free = s.free := rfl
@[simp] theorem State.setPlacement_active (s : State) (p : Placement) : (s.setPlacement p).active = s.active := rfl
@[simp] theorem State.setPlacement_mem (s : State) (p : Placement) : (s.setPlacement p).mem = s.mem := rfl
@[simp] theorem State.setPlacement_poison (s : State) (p : Placement) : (s.setPlacement p).poison = s.poison := rfl
@[simp] theorem State.setPlacement_seals (s : State) (p : Placement) : (s.setPlacement p).seals = s.seals := rfl
@[simp] theorem State.setPlacement_groups (s : State) (p : Placement) : (s.setPlacement p).groups = s.groups := rfl
@[simp] theorem State.setPlacement_parcels (s : State) (p : Placement) : (s.setPlacement p).parcels = s.parcels := rfl
@[simp] theorem State.setPlacement_launches (s : State) (p : Placement) : (s.setPlacement p).launches = s.launches := rfl
@[simp] theorem State.setPlacement_placements (s : State) (p : Placement) : (s.setPlacement p).placements = replaceFirst (fun x => x.uid = p.uid) p s.placements := rfl
@[simp] theorem State.setPlacement_cores (s : State) (p : Placement) : (s.setPlacement p).cores = s.cores := rfl
@[simp] theorem State.setPlacement_pairs (s : State) (p : Placement) : (s.setPlacement p).pairs = s.pairs := rfl
@[simp] theorem State.setPlacement_pairTlbs (s : State) (p : Placement) : (s.setPlacement p).pairTlbs = s.pairTlbs := rfl
@[simp] theorem State.setPlacement_dies (s : State) (p : Placement) : (s.setPlacement p).dies = s.dies := rfl
@[simp] theorem State.setPlacement_engines (s : State) (p : Placement) : (s.setPlacement p).engines = s.engines := rfl
@[simp] theorem State.setPlacement_net (s : State) (p : Placement) : (s.setPlacement p).net = s.net := rfl
@[simp] theorem State.setPlacement_acks (s : State) (p : Placement) : (s.setPlacement p).acks = s.acks := rfl
@[simp] theorem State.setPlacement_flits (s : State) (p : Placement) : (s.setPlacement p).flits = s.flits := rfl
@[simp] theorem State.setPlacement_decls (s : State) (p : Placement) : (s.setPlacement p).decls = s.decls := rfl
@[simp] theorem State.setPlacement_joined (s : State) (p : Placement) : (s.setPlacement p).joined = s.joined := rfl
@[simp] theorem State.setPlacement_phasers (s : State) (p : Placement) : (s.setPlacement p).phasers = s.phasers := rfl
@[simp] theorem State.setPlacement_vfs (s : State) (p : Placement) : (s.setPlacement p).vfs = s.vfs := rfl
@[simp] theorem State.setPlacement_links (s : State) (p : Placement) : (s.setPlacement p).links = s.links := rfl
@[simp] theorem State.setPlacement_ports (s : State) (p : Placement) : (s.setPlacement p).ports = s.ports := rfl
@[simp] theorem State.setPlacement_linkDirs (s : State) (p : Placement) : (s.setPlacement p).linkDirs = s.linkDirs := rfl
@[simp] theorem State.setPlacement_control (s : State) (p : Placement) : (s.setPlacement p).control = s.control := rfl
@[simp] theorem State.setPlacement_returns (s : State) (p : Placement) : (s.setPlacement p).returns = s.returns := rfl
@[simp] theorem State.setPlacement_replies (s : State) (p : Placement) : (s.setPlacement p).replies = s.replies := rfl
@[simp] theorem State.setCore_agenda (s : State) (n : Nat) (c : Core) : (s.setCore n c).agenda = s.agenda := rfl
@[simp] theorem State.setCore_turns (s : State) (n : Nat) (c : Core) : (s.setCore n c).turns = s.turns := rfl
@[simp] theorem State.setCore_tick (s : State) (n : Nat) (c : Core) : (s.setCore n c).tick = s.tick := rfl
@[simp] theorem State.setCore_cycles (s : State) (n : Nat) (c : Core) : (s.setCore n c).cycles = s.cycles := rfl
@[simp] theorem State.setCore_time (s : State) (n : Nat) (c : Core) : (s.setCore n c).time = s.time := rfl
@[simp] theorem State.setCore_uid (s : State) (n : Nat) (c : Core) : (s.setCore n c).uid = s.uid := rfl
@[simp] theorem State.setCore_free (s : State) (n : Nat) (c : Core) : (s.setCore n c).free = s.free := rfl
@[simp] theorem State.setCore_active (s : State) (n : Nat) (c : Core) : (s.setCore n c).active = s.active := rfl
@[simp] theorem State.setCore_mem (s : State) (n : Nat) (c : Core) : (s.setCore n c).mem = s.mem := rfl
@[simp] theorem State.setCore_poison (s : State) (n : Nat) (c : Core) : (s.setCore n c).poison = s.poison := rfl
@[simp] theorem State.setCore_seals (s : State) (n : Nat) (c : Core) : (s.setCore n c).seals = s.seals := rfl
@[simp] theorem State.setCore_groups (s : State) (n : Nat) (c : Core) : (s.setCore n c).groups = s.groups := rfl
@[simp] theorem State.setCore_parcels (s : State) (n : Nat) (c : Core) : (s.setCore n c).parcels = s.parcels := rfl
@[simp] theorem State.setCore_launches (s : State) (n : Nat) (c : Core) : (s.setCore n c).launches = s.launches := rfl
@[simp] theorem State.setCore_placements (s : State) (n : Nat) (c : Core) : (s.setCore n c).placements = s.placements := rfl
@[simp] theorem State.setCore_cores (s : State) (n : Nat) (c : Core) : (s.setCore n c).cores = Tbl.put Core.reset s.cores n c := rfl
@[simp] theorem State.setCore_pairs (s : State) (n : Nat) (c : Core) : (s.setCore n c).pairs = s.pairs := rfl
@[simp] theorem State.setCore_pairTlbs (s : State) (n : Nat) (c : Core) : (s.setCore n c).pairTlbs = s.pairTlbs := rfl
@[simp] theorem State.setCore_dies (s : State) (n : Nat) (c : Core) : (s.setCore n c).dies = s.dies := rfl
@[simp] theorem State.setCore_engines (s : State) (n : Nat) (c : Core) : (s.setCore n c).engines = s.engines := rfl
@[simp] theorem State.setCore_net (s : State) (n : Nat) (c : Core) : (s.setCore n c).net = s.net := rfl
@[simp] theorem State.setCore_acks (s : State) (n : Nat) (c : Core) : (s.setCore n c).acks = s.acks := rfl
@[simp] theorem State.setCore_flits (s : State) (n : Nat) (c : Core) : (s.setCore n c).flits = s.flits := rfl
@[simp] theorem State.setCore_decls (s : State) (n : Nat) (c : Core) : (s.setCore n c).decls = s.decls := rfl
@[simp] theorem State.setCore_joined (s : State) (n : Nat) (c : Core) : (s.setCore n c).joined = s.joined := rfl
@[simp] theorem State.setCore_phasers (s : State) (n : Nat) (c : Core) : (s.setCore n c).phasers = s.phasers := rfl
@[simp] theorem State.setCore_vfs (s : State) (n : Nat) (c : Core) : (s.setCore n c).vfs = s.vfs := rfl
@[simp] theorem State.setCore_links (s : State) (n : Nat) (c : Core) : (s.setCore n c).links = s.links := rfl
@[simp] theorem State.setCore_ports (s : State) (n : Nat) (c : Core) : (s.setCore n c).ports = s.ports := rfl
@[simp] theorem State.setCore_linkDirs (s : State) (n : Nat) (c : Core) : (s.setCore n c).linkDirs = s.linkDirs := rfl
@[simp] theorem State.setCore_control (s : State) (n : Nat) (c : Core) : (s.setCore n c).control = s.control := rfl
@[simp] theorem State.setCore_returns (s : State) (n : Nat) (c : Core) : (s.setCore n c).returns = s.returns := rfl
@[simp] theorem State.setCore_replies (s : State) (n : Nat) (c : Core) : (s.setCore n c).replies = s.replies := rfl
@[simp] theorem State.setPair_agenda (s : State) (n : Nat) (p : Pair) : (s.setPair n p).agenda = s.agenda := rfl
@[simp] theorem State.setPair_turns (s : State) (n : Nat) (p : Pair) : (s.setPair n p).turns = s.turns := rfl
@[simp] theorem State.setPair_tick (s : State) (n : Nat) (p : Pair) : (s.setPair n p).tick = s.tick := rfl
@[simp] theorem State.setPair_cycles (s : State) (n : Nat) (p : Pair) : (s.setPair n p).cycles = s.cycles := rfl
@[simp] theorem State.setPair_time (s : State) (n : Nat) (p : Pair) : (s.setPair n p).time = s.time := rfl
@[simp] theorem State.setPair_uid (s : State) (n : Nat) (p : Pair) : (s.setPair n p).uid = s.uid := rfl
@[simp] theorem State.setPair_free (s : State) (n : Nat) (p : Pair) : (s.setPair n p).free = s.free := rfl
@[simp] theorem State.setPair_active (s : State) (n : Nat) (p : Pair) : (s.setPair n p).active = s.active := rfl
@[simp] theorem State.setPair_mem (s : State) (n : Nat) (p : Pair) : (s.setPair n p).mem = s.mem := rfl
@[simp] theorem State.setPair_poison (s : State) (n : Nat) (p : Pair) : (s.setPair n p).poison = s.poison := rfl
@[simp] theorem State.setPair_seals (s : State) (n : Nat) (p : Pair) : (s.setPair n p).seals = s.seals := rfl
@[simp] theorem State.setPair_groups (s : State) (n : Nat) (p : Pair) : (s.setPair n p).groups = s.groups := rfl
@[simp] theorem State.setPair_parcels (s : State) (n : Nat) (p : Pair) : (s.setPair n p).parcels = s.parcels := rfl
@[simp] theorem State.setPair_launches (s : State) (n : Nat) (p : Pair) : (s.setPair n p).launches = s.launches := rfl
@[simp] theorem State.setPair_placements (s : State) (n : Nat) (p : Pair) : (s.setPair n p).placements = s.placements := rfl
@[simp] theorem State.setPair_cores (s : State) (n : Nat) (p : Pair) : (s.setPair n p).cores = s.cores := rfl
@[simp] theorem State.setPair_pairs (s : State) (n : Nat) (p : Pair) : (s.setPair n p).pairs = Tbl.put Pair.empty s.pairs n p := rfl
@[simp] theorem State.setPair_pairTlbs (s : State) (n : Nat) (p : Pair) : (s.setPair n p).pairTlbs = s.pairTlbs := rfl
@[simp] theorem State.setPair_dies (s : State) (n : Nat) (p : Pair) : (s.setPair n p).dies = s.dies := rfl
@[simp] theorem State.setPair_engines (s : State) (n : Nat) (p : Pair) : (s.setPair n p).engines = s.engines := rfl
@[simp] theorem State.setPair_net (s : State) (n : Nat) (p : Pair) : (s.setPair n p).net = s.net := rfl
@[simp] theorem State.setPair_acks (s : State) (n : Nat) (p : Pair) : (s.setPair n p).acks = s.acks := rfl
@[simp] theorem State.setPair_flits (s : State) (n : Nat) (p : Pair) : (s.setPair n p).flits = s.flits := rfl
@[simp] theorem State.setPair_decls (s : State) (n : Nat) (p : Pair) : (s.setPair n p).decls = s.decls := rfl
@[simp] theorem State.setPair_joined (s : State) (n : Nat) (p : Pair) : (s.setPair n p).joined = s.joined := rfl
@[simp] theorem State.setPair_phasers (s : State) (n : Nat) (p : Pair) : (s.setPair n p).phasers = s.phasers := rfl
@[simp] theorem State.setPair_vfs (s : State) (n : Nat) (p : Pair) : (s.setPair n p).vfs = s.vfs := rfl
@[simp] theorem State.setPair_links (s : State) (n : Nat) (p : Pair) : (s.setPair n p).links = s.links := rfl
@[simp] theorem State.setPair_ports (s : State) (n : Nat) (p : Pair) : (s.setPair n p).ports = s.ports := rfl
@[simp] theorem State.setPair_linkDirs (s : State) (n : Nat) (p : Pair) : (s.setPair n p).linkDirs = s.linkDirs := rfl
@[simp] theorem State.setPair_control (s : State) (n : Nat) (p : Pair) : (s.setPair n p).control = s.control := rfl
@[simp] theorem State.setPair_returns (s : State) (n : Nat) (p : Pair) : (s.setPair n p).returns = s.returns := rfl
@[simp] theorem State.setPair_replies (s : State) (n : Nat) (p : Pair) : (s.setPair n p).replies = s.replies := rfl
@[simp] theorem State.setDie_agenda (s : State) (n : Nat) (d : Die) : (s.setDie n d).agenda = s.agenda := rfl
@[simp] theorem State.setDie_turns (s : State) (n : Nat) (d : Die) : (s.setDie n d).turns = s.turns := rfl
@[simp] theorem State.setDie_tick (s : State) (n : Nat) (d : Die) : (s.setDie n d).tick = s.tick := rfl
@[simp] theorem State.setDie_cycles (s : State) (n : Nat) (d : Die) : (s.setDie n d).cycles = s.cycles := rfl
@[simp] theorem State.setDie_time (s : State) (n : Nat) (d : Die) : (s.setDie n d).time = s.time := rfl
@[simp] theorem State.setDie_uid (s : State) (n : Nat) (d : Die) : (s.setDie n d).uid = s.uid := rfl
@[simp] theorem State.setDie_free (s : State) (n : Nat) (d : Die) : (s.setDie n d).free = s.free := rfl
@[simp] theorem State.setDie_active (s : State) (n : Nat) (d : Die) : (s.setDie n d).active = s.active := rfl
@[simp] theorem State.setDie_mem (s : State) (n : Nat) (d : Die) : (s.setDie n d).mem = s.mem := rfl
@[simp] theorem State.setDie_poison (s : State) (n : Nat) (d : Die) : (s.setDie n d).poison = s.poison := rfl
@[simp] theorem State.setDie_seals (s : State) (n : Nat) (d : Die) : (s.setDie n d).seals = s.seals := rfl
@[simp] theorem State.setDie_groups (s : State) (n : Nat) (d : Die) : (s.setDie n d).groups = s.groups := rfl
@[simp] theorem State.setDie_parcels (s : State) (n : Nat) (d : Die) : (s.setDie n d).parcels = s.parcels := rfl
@[simp] theorem State.setDie_launches (s : State) (n : Nat) (d : Die) : (s.setDie n d).launches = s.launches := rfl
@[simp] theorem State.setDie_placements (s : State) (n : Nat) (d : Die) : (s.setDie n d).placements = s.placements := rfl
@[simp] theorem State.setDie_cores (s : State) (n : Nat) (d : Die) : (s.setDie n d).cores = s.cores := rfl
@[simp] theorem State.setDie_pairs (s : State) (n : Nat) (d : Die) : (s.setDie n d).pairs = s.pairs := rfl
@[simp] theorem State.setDie_pairTlbs (s : State) (n : Nat) (d : Die) : (s.setDie n d).pairTlbs = s.pairTlbs := rfl
@[simp] theorem State.setDie_dies (s : State) (n : Nat) (d : Die) : (s.setDie n d).dies = Tbl.put Die.reset s.dies n d := rfl
@[simp] theorem State.setDie_engines (s : State) (n : Nat) (d : Die) : (s.setDie n d).engines = s.engines := rfl
@[simp] theorem State.setDie_net (s : State) (n : Nat) (d : Die) : (s.setDie n d).net = s.net := rfl
@[simp] theorem State.setDie_acks (s : State) (n : Nat) (d : Die) : (s.setDie n d).acks = s.acks := rfl
@[simp] theorem State.setDie_flits (s : State) (n : Nat) (d : Die) : (s.setDie n d).flits = s.flits := rfl
@[simp] theorem State.setDie_decls (s : State) (n : Nat) (d : Die) : (s.setDie n d).decls = s.decls := rfl
@[simp] theorem State.setDie_joined (s : State) (n : Nat) (d : Die) : (s.setDie n d).joined = s.joined := rfl
@[simp] theorem State.setDie_phasers (s : State) (n : Nat) (d : Die) : (s.setDie n d).phasers = s.phasers := rfl
@[simp] theorem State.setDie_vfs (s : State) (n : Nat) (d : Die) : (s.setDie n d).vfs = s.vfs := rfl
@[simp] theorem State.setDie_links (s : State) (n : Nat) (d : Die) : (s.setDie n d).links = s.links := rfl
@[simp] theorem State.setDie_ports (s : State) (n : Nat) (d : Die) : (s.setDie n d).ports = s.ports := rfl
@[simp] theorem State.setDie_linkDirs (s : State) (n : Nat) (d : Die) : (s.setDie n d).linkDirs = s.linkDirs := rfl
@[simp] theorem State.setDie_control (s : State) (n : Nat) (d : Die) : (s.setDie n d).control = s.control := rfl
@[simp] theorem State.setDie_returns (s : State) (n : Nat) (d : Die) : (s.setDie n d).returns = s.returns := rfl
@[simp] theorem State.setDie_replies (s : State) (n : Nat) (d : Die) : (s.setDie n d).replies = s.replies := rfl
@[simp] theorem State.setVf_agenda (s : State) (n : Nat) (v : Vf) : (s.setVf n v).agenda = s.agenda := rfl
@[simp] theorem State.setVf_turns (s : State) (n : Nat) (v : Vf) : (s.setVf n v).turns = s.turns := rfl
@[simp] theorem State.setVf_tick (s : State) (n : Nat) (v : Vf) : (s.setVf n v).tick = s.tick := rfl
@[simp] theorem State.setVf_cycles (s : State) (n : Nat) (v : Vf) : (s.setVf n v).cycles = s.cycles := rfl
@[simp] theorem State.setVf_time (s : State) (n : Nat) (v : Vf) : (s.setVf n v).time = s.time := rfl
@[simp] theorem State.setVf_uid (s : State) (n : Nat) (v : Vf) : (s.setVf n v).uid = s.uid := rfl
@[simp] theorem State.setVf_free (s : State) (n : Nat) (v : Vf) : (s.setVf n v).free = s.free := rfl
@[simp] theorem State.setVf_active (s : State) (n : Nat) (v : Vf) : (s.setVf n v).active = s.active := rfl
@[simp] theorem State.setVf_mem (s : State) (n : Nat) (v : Vf) : (s.setVf n v).mem = s.mem := rfl
@[simp] theorem State.setVf_poison (s : State) (n : Nat) (v : Vf) : (s.setVf n v).poison = s.poison := rfl
@[simp] theorem State.setVf_seals (s : State) (n : Nat) (v : Vf) : (s.setVf n v).seals = s.seals := rfl
@[simp] theorem State.setVf_groups (s : State) (n : Nat) (v : Vf) : (s.setVf n v).groups = s.groups := rfl
@[simp] theorem State.setVf_parcels (s : State) (n : Nat) (v : Vf) : (s.setVf n v).parcels = s.parcels := rfl
@[simp] theorem State.setVf_launches (s : State) (n : Nat) (v : Vf) : (s.setVf n v).launches = s.launches := rfl
@[simp] theorem State.setVf_placements (s : State) (n : Nat) (v : Vf) : (s.setVf n v).placements = s.placements := rfl
@[simp] theorem State.setVf_cores (s : State) (n : Nat) (v : Vf) : (s.setVf n v).cores = s.cores := rfl
@[simp] theorem State.setVf_pairs (s : State) (n : Nat) (v : Vf) : (s.setVf n v).pairs = s.pairs := rfl
@[simp] theorem State.setVf_pairTlbs (s : State) (n : Nat) (v : Vf) : (s.setVf n v).pairTlbs = s.pairTlbs := rfl
@[simp] theorem State.setVf_dies (s : State) (n : Nat) (v : Vf) : (s.setVf n v).dies = s.dies := rfl
@[simp] theorem State.setVf_engines (s : State) (n : Nat) (v : Vf) : (s.setVf n v).engines = s.engines := rfl
@[simp] theorem State.setVf_net (s : State) (n : Nat) (v : Vf) : (s.setVf n v).net = s.net := rfl
@[simp] theorem State.setVf_acks (s : State) (n : Nat) (v : Vf) : (s.setVf n v).acks = s.acks := rfl
@[simp] theorem State.setVf_flits (s : State) (n : Nat) (v : Vf) : (s.setVf n v).flits = s.flits := rfl
@[simp] theorem State.setVf_decls (s : State) (n : Nat) (v : Vf) : (s.setVf n v).decls = s.decls := rfl
@[simp] theorem State.setVf_joined (s : State) (n : Nat) (v : Vf) : (s.setVf n v).joined = s.joined := rfl
@[simp] theorem State.setVf_phasers (s : State) (n : Nat) (v : Vf) : (s.setVf n v).phasers = s.phasers := rfl
@[simp] theorem State.setVf_vfs (s : State) (n : Nat) (v : Vf) : (s.setVf n v).vfs = Tbl.put Vf.reset s.vfs n v := rfl
@[simp] theorem State.setVf_links (s : State) (n : Nat) (v : Vf) : (s.setVf n v).links = s.links := rfl
@[simp] theorem State.setVf_ports (s : State) (n : Nat) (v : Vf) : (s.setVf n v).ports = s.ports := rfl
@[simp] theorem State.setVf_linkDirs (s : State) (n : Nat) (v : Vf) : (s.setVf n v).linkDirs = s.linkDirs := rfl
@[simp] theorem State.setVf_control (s : State) (n : Nat) (v : Vf) : (s.setVf n v).control = s.control := rfl
@[simp] theorem State.setVf_returns (s : State) (n : Nat) (v : Vf) : (s.setVf n v).returns = s.returns := rfl
@[simp] theorem State.setVf_replies (s : State) (n : Nat) (v : Vf) : (s.setVf n v).replies = s.replies := rfl
@[simp] theorem State.setLink_agenda (s : State) (n : Nat) (l : Link) : (s.setLink n l).agenda = s.agenda := rfl
@[simp] theorem State.setLink_turns (s : State) (n : Nat) (l : Link) : (s.setLink n l).turns = s.turns := rfl
@[simp] theorem State.setLink_tick (s : State) (n : Nat) (l : Link) : (s.setLink n l).tick = s.tick := rfl
@[simp] theorem State.setLink_cycles (s : State) (n : Nat) (l : Link) : (s.setLink n l).cycles = s.cycles := rfl
@[simp] theorem State.setLink_time (s : State) (n : Nat) (l : Link) : (s.setLink n l).time = s.time := rfl
@[simp] theorem State.setLink_uid (s : State) (n : Nat) (l : Link) : (s.setLink n l).uid = s.uid := rfl
@[simp] theorem State.setLink_free (s : State) (n : Nat) (l : Link) : (s.setLink n l).free = s.free := rfl
@[simp] theorem State.setLink_active (s : State) (n : Nat) (l : Link) : (s.setLink n l).active = s.active := rfl
@[simp] theorem State.setLink_mem (s : State) (n : Nat) (l : Link) : (s.setLink n l).mem = s.mem := rfl
@[simp] theorem State.setLink_poison (s : State) (n : Nat) (l : Link) : (s.setLink n l).poison = s.poison := rfl
@[simp] theorem State.setLink_seals (s : State) (n : Nat) (l : Link) : (s.setLink n l).seals = s.seals := rfl
@[simp] theorem State.setLink_groups (s : State) (n : Nat) (l : Link) : (s.setLink n l).groups = s.groups := rfl
@[simp] theorem State.setLink_parcels (s : State) (n : Nat) (l : Link) : (s.setLink n l).parcels = s.parcels := rfl
@[simp] theorem State.setLink_launches (s : State) (n : Nat) (l : Link) : (s.setLink n l).launches = s.launches := rfl
@[simp] theorem State.setLink_placements (s : State) (n : Nat) (l : Link) : (s.setLink n l).placements = s.placements := rfl
@[simp] theorem State.setLink_cores (s : State) (n : Nat) (l : Link) : (s.setLink n l).cores = s.cores := rfl
@[simp] theorem State.setLink_pairs (s : State) (n : Nat) (l : Link) : (s.setLink n l).pairs = s.pairs := rfl
@[simp] theorem State.setLink_pairTlbs (s : State) (n : Nat) (l : Link) : (s.setLink n l).pairTlbs = s.pairTlbs := rfl
@[simp] theorem State.setLink_dies (s : State) (n : Nat) (l : Link) : (s.setLink n l).dies = s.dies := rfl
@[simp] theorem State.setLink_engines (s : State) (n : Nat) (l : Link) : (s.setLink n l).engines = s.engines := rfl
@[simp] theorem State.setLink_net (s : State) (n : Nat) (l : Link) : (s.setLink n l).net = s.net := rfl
@[simp] theorem State.setLink_acks (s : State) (n : Nat) (l : Link) : (s.setLink n l).acks = s.acks := rfl
@[simp] theorem State.setLink_flits (s : State) (n : Nat) (l : Link) : (s.setLink n l).flits = s.flits := rfl
@[simp] theorem State.setLink_decls (s : State) (n : Nat) (l : Link) : (s.setLink n l).decls = s.decls := rfl
@[simp] theorem State.setLink_joined (s : State) (n : Nat) (l : Link) : (s.setLink n l).joined = s.joined := rfl
@[simp] theorem State.setLink_phasers (s : State) (n : Nat) (l : Link) : (s.setLink n l).phasers = s.phasers := rfl
@[simp] theorem State.setLink_vfs (s : State) (n : Nat) (l : Link) : (s.setLink n l).vfs = s.vfs := rfl
@[simp] theorem State.setLink_links (s : State) (n : Nat) (l : Link) : (s.setLink n l).links = Tbl.put Link.reset s.links n l := rfl
@[simp] theorem State.setLink_ports (s : State) (n : Nat) (l : Link) : (s.setLink n l).ports = s.ports := rfl
@[simp] theorem State.setLink_linkDirs (s : State) (n : Nat) (l : Link) : (s.setLink n l).linkDirs = s.linkDirs := rfl
@[simp] theorem State.setLink_control (s : State) (n : Nat) (l : Link) : (s.setLink n l).control = s.control := rfl
@[simp] theorem State.setLink_returns (s : State) (n : Nat) (l : Link) : (s.setLink n l).returns = s.returns := rfl
@[simp] theorem State.setLink_replies (s : State) (n : Nat) (l : Link) : (s.setLink n l).replies = s.replies := rfl
@[simp] theorem State.setPort_agenda (s : State) (n : Nat) (l : Link) : (s.setPort n l).agenda = s.agenda := rfl
@[simp] theorem State.setPort_turns (s : State) (n : Nat) (l : Link) : (s.setPort n l).turns = s.turns := rfl
@[simp] theorem State.setPort_tick (s : State) (n : Nat) (l : Link) : (s.setPort n l).tick = s.tick := rfl
@[simp] theorem State.setPort_cycles (s : State) (n : Nat) (l : Link) : (s.setPort n l).cycles = s.cycles := rfl
@[simp] theorem State.setPort_time (s : State) (n : Nat) (l : Link) : (s.setPort n l).time = s.time := rfl
@[simp] theorem State.setPort_uid (s : State) (n : Nat) (l : Link) : (s.setPort n l).uid = s.uid := rfl
@[simp] theorem State.setPort_free (s : State) (n : Nat) (l : Link) : (s.setPort n l).free = s.free := rfl
@[simp] theorem State.setPort_active (s : State) (n : Nat) (l : Link) : (s.setPort n l).active = s.active := rfl
@[simp] theorem State.setPort_mem (s : State) (n : Nat) (l : Link) : (s.setPort n l).mem = s.mem := rfl
@[simp] theorem State.setPort_poison (s : State) (n : Nat) (l : Link) : (s.setPort n l).poison = s.poison := rfl
@[simp] theorem State.setPort_seals (s : State) (n : Nat) (l : Link) : (s.setPort n l).seals = s.seals := rfl
@[simp] theorem State.setPort_groups (s : State) (n : Nat) (l : Link) : (s.setPort n l).groups = s.groups := rfl
@[simp] theorem State.setPort_parcels (s : State) (n : Nat) (l : Link) : (s.setPort n l).parcels = s.parcels := rfl
@[simp] theorem State.setPort_launches (s : State) (n : Nat) (l : Link) : (s.setPort n l).launches = s.launches := rfl
@[simp] theorem State.setPort_placements (s : State) (n : Nat) (l : Link) : (s.setPort n l).placements = s.placements := rfl
@[simp] theorem State.setPort_cores (s : State) (n : Nat) (l : Link) : (s.setPort n l).cores = s.cores := rfl
@[simp] theorem State.setPort_pairs (s : State) (n : Nat) (l : Link) : (s.setPort n l).pairs = s.pairs := rfl
@[simp] theorem State.setPort_pairTlbs (s : State) (n : Nat) (l : Link) : (s.setPort n l).pairTlbs = s.pairTlbs := rfl
@[simp] theorem State.setPort_dies (s : State) (n : Nat) (l : Link) : (s.setPort n l).dies = s.dies := rfl
@[simp] theorem State.setPort_engines (s : State) (n : Nat) (l : Link) : (s.setPort n l).engines = s.engines := rfl
@[simp] theorem State.setPort_net (s : State) (n : Nat) (l : Link) : (s.setPort n l).net = s.net := rfl
@[simp] theorem State.setPort_acks (s : State) (n : Nat) (l : Link) : (s.setPort n l).acks = s.acks := rfl
@[simp] theorem State.setPort_flits (s : State) (n : Nat) (l : Link) : (s.setPort n l).flits = s.flits := rfl
@[simp] theorem State.setPort_decls (s : State) (n : Nat) (l : Link) : (s.setPort n l).decls = s.decls := rfl
@[simp] theorem State.setPort_joined (s : State) (n : Nat) (l : Link) : (s.setPort n l).joined = s.joined := rfl
@[simp] theorem State.setPort_phasers (s : State) (n : Nat) (l : Link) : (s.setPort n l).phasers = s.phasers := rfl
@[simp] theorem State.setPort_vfs (s : State) (n : Nat) (l : Link) : (s.setPort n l).vfs = s.vfs := rfl
@[simp] theorem State.setPort_links (s : State) (n : Nat) (l : Link) : (s.setPort n l).links = s.links := rfl
@[simp] theorem State.setPort_ports (s : State) (n : Nat) (l : Link) : (s.setPort n l).ports = Tbl.put Link.reset s.ports n l := rfl
@[simp] theorem State.setPort_linkDirs (s : State) (n : Nat) (l : Link) : (s.setPort n l).linkDirs = s.linkDirs := rfl
@[simp] theorem State.setPort_control (s : State) (n : Nat) (l : Link) : (s.setPort n l).control = s.control := rfl
@[simp] theorem State.setPort_returns (s : State) (n : Nat) (l : Link) : (s.setPort n l).returns = s.returns := rfl
@[simp] theorem State.setPort_replies (s : State) (n : Nat) (l : Link) : (s.setPort n l).replies = s.replies := rfl
@[simp] theorem State.setLinkDir_agenda (s : State) (n : Nat) (l : LinkDir) : (s.setLinkDir n l).agenda = s.agenda := rfl
@[simp] theorem State.setLinkDir_turns (s : State) (n : Nat) (l : LinkDir) : (s.setLinkDir n l).turns = s.turns := rfl
@[simp] theorem State.setLinkDir_tick (s : State) (n : Nat) (l : LinkDir) : (s.setLinkDir n l).tick = s.tick := rfl
@[simp] theorem State.setLinkDir_cycles (s : State) (n : Nat) (l : LinkDir) : (s.setLinkDir n l).cycles = s.cycles := rfl
@[simp] theorem State.setLinkDir_time (s : State) (n : Nat) (l : LinkDir) : (s.setLinkDir n l).time = s.time := rfl
@[simp] theorem State.setLinkDir_uid (s : State) (n : Nat) (l : LinkDir) : (s.setLinkDir n l).uid = s.uid := rfl
@[simp] theorem State.setLinkDir_free (s : State) (n : Nat) (l : LinkDir) : (s.setLinkDir n l).free = s.free := rfl
@[simp] theorem State.setLinkDir_active (s : State) (n : Nat) (l : LinkDir) : (s.setLinkDir n l).active = s.active := rfl
@[simp] theorem State.setLinkDir_mem (s : State) (n : Nat) (l : LinkDir) : (s.setLinkDir n l).mem = s.mem := rfl
@[simp] theorem State.setLinkDir_poison (s : State) (n : Nat) (l : LinkDir) : (s.setLinkDir n l).poison = s.poison := rfl
@[simp] theorem State.setLinkDir_seals (s : State) (n : Nat) (l : LinkDir) : (s.setLinkDir n l).seals = s.seals := rfl
@[simp] theorem State.setLinkDir_groups (s : State) (n : Nat) (l : LinkDir) : (s.setLinkDir n l).groups = s.groups := rfl
@[simp] theorem State.setLinkDir_parcels (s : State) (n : Nat) (l : LinkDir) : (s.setLinkDir n l).parcels = s.parcels := rfl
@[simp] theorem State.setLinkDir_launches (s : State) (n : Nat) (l : LinkDir) : (s.setLinkDir n l).launches = s.launches := rfl
@[simp] theorem State.setLinkDir_placements (s : State) (n : Nat) (l : LinkDir) : (s.setLinkDir n l).placements = s.placements := rfl
@[simp] theorem State.setLinkDir_cores (s : State) (n : Nat) (l : LinkDir) : (s.setLinkDir n l).cores = s.cores := rfl
@[simp] theorem State.setLinkDir_pairs (s : State) (n : Nat) (l : LinkDir) : (s.setLinkDir n l).pairs = s.pairs := rfl
@[simp] theorem State.setLinkDir_pairTlbs (s : State) (n : Nat) (l : LinkDir) : (s.setLinkDir n l).pairTlbs = s.pairTlbs := rfl
@[simp] theorem State.setLinkDir_dies (s : State) (n : Nat) (l : LinkDir) : (s.setLinkDir n l).dies = s.dies := rfl
@[simp] theorem State.setLinkDir_engines (s : State) (n : Nat) (l : LinkDir) : (s.setLinkDir n l).engines = s.engines := rfl
@[simp] theorem State.setLinkDir_net (s : State) (n : Nat) (l : LinkDir) : (s.setLinkDir n l).net = s.net := rfl
@[simp] theorem State.setLinkDir_acks (s : State) (n : Nat) (l : LinkDir) : (s.setLinkDir n l).acks = s.acks := rfl
@[simp] theorem State.setLinkDir_flits (s : State) (n : Nat) (l : LinkDir) : (s.setLinkDir n l).flits = s.flits := rfl
@[simp] theorem State.setLinkDir_decls (s : State) (n : Nat) (l : LinkDir) : (s.setLinkDir n l).decls = s.decls := rfl
@[simp] theorem State.setLinkDir_joined (s : State) (n : Nat) (l : LinkDir) : (s.setLinkDir n l).joined = s.joined := rfl
@[simp] theorem State.setLinkDir_phasers (s : State) (n : Nat) (l : LinkDir) : (s.setLinkDir n l).phasers = s.phasers := rfl
@[simp] theorem State.setLinkDir_vfs (s : State) (n : Nat) (l : LinkDir) : (s.setLinkDir n l).vfs = s.vfs := rfl
@[simp] theorem State.setLinkDir_links (s : State) (n : Nat) (l : LinkDir) : (s.setLinkDir n l).links = s.links := rfl
@[simp] theorem State.setLinkDir_ports (s : State) (n : Nat) (l : LinkDir) : (s.setLinkDir n l).ports = s.ports := rfl
@[simp] theorem State.setLinkDir_linkDirs (s : State) (n : Nat) (l : LinkDir) : (s.setLinkDir n l).linkDirs = Tbl.put LinkDir.reset s.linkDirs n l := rfl
@[simp] theorem State.setLinkDir_control (s : State) (n : Nat) (l : LinkDir) : (s.setLinkDir n l).control = s.control := rfl
@[simp] theorem State.setLinkDir_returns (s : State) (n : Nat) (l : LinkDir) : (s.setLinkDir n l).returns = s.returns := rfl
@[simp] theorem State.setLinkDir_replies (s : State) (n : Nat) (l : LinkDir) : (s.setLinkDir n l).replies = s.replies := rfl
@[simp] theorem State.setEngine_agenda (s : State) (e : EngineRef) (x : Engine) : (s.setEngine e x).agenda = s.agenda := rfl
@[simp] theorem State.setEngine_turns (s : State) (e : EngineRef) (x : Engine) : (s.setEngine e x).turns = s.turns := rfl
@[simp] theorem State.setEngine_tick (s : State) (e : EngineRef) (x : Engine) : (s.setEngine e x).tick = s.tick := rfl
@[simp] theorem State.setEngine_cycles (s : State) (e : EngineRef) (x : Engine) : (s.setEngine e x).cycles = s.cycles := rfl
@[simp] theorem State.setEngine_time (s : State) (e : EngineRef) (x : Engine) : (s.setEngine e x).time = s.time := rfl
@[simp] theorem State.setEngine_uid (s : State) (e : EngineRef) (x : Engine) : (s.setEngine e x).uid = s.uid := rfl
@[simp] theorem State.setEngine_free (s : State) (e : EngineRef) (x : Engine) : (s.setEngine e x).free = s.free := rfl
@[simp] theorem State.setEngine_active (s : State) (e : EngineRef) (x : Engine) : (s.setEngine e x).active = s.active := rfl
@[simp] theorem State.setEngine_mem (s : State) (e : EngineRef) (x : Engine) : (s.setEngine e x).mem = s.mem := rfl
@[simp] theorem State.setEngine_poison (s : State) (e : EngineRef) (x : Engine) : (s.setEngine e x).poison = s.poison := rfl
@[simp] theorem State.setEngine_seals (s : State) (e : EngineRef) (x : Engine) : (s.setEngine e x).seals = s.seals := rfl
@[simp] theorem State.setEngine_groups (s : State) (e : EngineRef) (x : Engine) : (s.setEngine e x).groups = s.groups := rfl
@[simp] theorem State.setEngine_parcels (s : State) (e : EngineRef) (x : Engine) : (s.setEngine e x).parcels = s.parcels := rfl
@[simp] theorem State.setEngine_launches (s : State) (e : EngineRef) (x : Engine) : (s.setEngine e x).launches = s.launches := rfl
@[simp] theorem State.setEngine_placements (s : State) (e : EngineRef) (x : Engine) : (s.setEngine e x).placements = s.placements := rfl
@[simp] theorem State.setEngine_cores (s : State) (e : EngineRef) (x : Engine) : (s.setEngine e x).cores = s.cores := rfl
@[simp] theorem State.setEngine_pairs (s : State) (e : EngineRef) (x : Engine) : (s.setEngine e x).pairs = s.pairs := rfl
@[simp] theorem State.setEngine_pairTlbs (s : State) (e : EngineRef) (x : Engine) : (s.setEngine e x).pairTlbs = s.pairTlbs := rfl
@[simp] theorem State.setEngine_dies (s : State) (e : EngineRef) (x : Engine) : (s.setEngine e x).dies = s.dies := rfl
@[simp] theorem State.setEngine_engines (s : State) (e : EngineRef) (x : Engine) : (s.setEngine e x).engines = Tbl.put Engine.idle s.engines (engineIndex e) x := rfl
@[simp] theorem State.setEngine_net (s : State) (e : EngineRef) (x : Engine) : (s.setEngine e x).net = s.net := rfl
@[simp] theorem State.setEngine_acks (s : State) (e : EngineRef) (x : Engine) : (s.setEngine e x).acks = s.acks := rfl
@[simp] theorem State.setEngine_flits (s : State) (e : EngineRef) (x : Engine) : (s.setEngine e x).flits = s.flits := rfl
@[simp] theorem State.setEngine_decls (s : State) (e : EngineRef) (x : Engine) : (s.setEngine e x).decls = s.decls := rfl
@[simp] theorem State.setEngine_joined (s : State) (e : EngineRef) (x : Engine) : (s.setEngine e x).joined = s.joined := rfl
@[simp] theorem State.setEngine_phasers (s : State) (e : EngineRef) (x : Engine) : (s.setEngine e x).phasers = s.phasers := rfl
@[simp] theorem State.setEngine_vfs (s : State) (e : EngineRef) (x : Engine) : (s.setEngine e x).vfs = s.vfs := rfl
@[simp] theorem State.setEngine_links (s : State) (e : EngineRef) (x : Engine) : (s.setEngine e x).links = s.links := rfl
@[simp] theorem State.setEngine_ports (s : State) (e : EngineRef) (x : Engine) : (s.setEngine e x).ports = s.ports := rfl
@[simp] theorem State.setEngine_linkDirs (s : State) (e : EngineRef) (x : Engine) : (s.setEngine e x).linkDirs = s.linkDirs := rfl
@[simp] theorem State.setEngine_control (s : State) (e : EngineRef) (x : Engine) : (s.setEngine e x).control = s.control := rfl
@[simp] theorem State.setEngine_returns (s : State) (e : EngineRef) (x : Engine) : (s.setEngine e x).returns = s.returns := rfl
@[simp] theorem State.setEngine_replies (s : State) (e : EngineRef) (x : Engine) : (s.setEngine e x).replies = s.replies := rfl
@[simp] theorem State.fresh_agenda (s : State) : s.fresh.1.agenda = s.agenda := rfl
@[simp] theorem State.fresh_turns (s : State) : s.fresh.1.turns = s.turns := rfl
@[simp] theorem State.fresh_tick (s : State) : s.fresh.1.tick = s.tick := rfl
@[simp] theorem State.fresh_cycles (s : State) : s.fresh.1.cycles = s.cycles := rfl
@[simp] theorem State.fresh_time (s : State) : s.fresh.1.time = s.time := rfl
@[simp] theorem State.fresh_uid (s : State) : s.fresh.1.uid = s.uid + 1 := rfl
@[simp] theorem State.fresh_free (s : State) : s.fresh.1.free = s.free := rfl
@[simp] theorem State.fresh_active (s : State) : s.fresh.1.active = s.active := rfl
@[simp] theorem State.fresh_mem (s : State) : s.fresh.1.mem = s.mem := rfl
@[simp] theorem State.fresh_poison (s : State) : s.fresh.1.poison = s.poison := rfl
@[simp] theorem State.fresh_seals (s : State) : s.fresh.1.seals = s.seals := rfl
@[simp] theorem State.fresh_groups (s : State) : s.fresh.1.groups = s.groups := rfl
@[simp] theorem State.fresh_parcels (s : State) : s.fresh.1.parcels = s.parcels := rfl
@[simp] theorem State.fresh_launches (s : State) : s.fresh.1.launches = s.launches := rfl
@[simp] theorem State.fresh_placements (s : State) : s.fresh.1.placements = s.placements := rfl
@[simp] theorem State.fresh_cores (s : State) : s.fresh.1.cores = s.cores := rfl
@[simp] theorem State.fresh_pairs (s : State) : s.fresh.1.pairs = s.pairs := rfl
@[simp] theorem State.fresh_pairTlbs (s : State) : s.fresh.1.pairTlbs = s.pairTlbs := rfl
@[simp] theorem State.fresh_dies (s : State) : s.fresh.1.dies = s.dies := rfl
@[simp] theorem State.fresh_engines (s : State) : s.fresh.1.engines = s.engines := rfl
@[simp] theorem State.fresh_net (s : State) : s.fresh.1.net = s.net := rfl
@[simp] theorem State.fresh_acks (s : State) : s.fresh.1.acks = s.acks := rfl
@[simp] theorem State.fresh_flits (s : State) : s.fresh.1.flits = s.flits := rfl
@[simp] theorem State.fresh_decls (s : State) : s.fresh.1.decls = s.decls := rfl
@[simp] theorem State.fresh_joined (s : State) : s.fresh.1.joined = s.joined := rfl
@[simp] theorem State.fresh_phasers (s : State) : s.fresh.1.phasers = s.phasers := rfl
@[simp] theorem State.fresh_vfs (s : State) : s.fresh.1.vfs = s.vfs := rfl
@[simp] theorem State.fresh_links (s : State) : s.fresh.1.links = s.links := rfl
@[simp] theorem State.fresh_ports (s : State) : s.fresh.1.ports = s.ports := rfl
@[simp] theorem State.fresh_linkDirs (s : State) : s.fresh.1.linkDirs = s.linkDirs := rfl
@[simp] theorem State.fresh_control (s : State) : s.fresh.1.control = s.control := rfl
@[simp] theorem State.fresh_returns (s : State) : s.fresh.1.returns = s.returns := rfl
@[simp] theorem State.fresh_replies (s : State) : s.fresh.1.replies = s.replies := rfl
@[simp] theorem State.fresh_number (s : State) : s.fresh.2 = s.uid := rfl
@[simp] theorem State.nextFree_agenda (s : State) : s.nextFree.1.agenda = s.agenda := rfl
@[simp] theorem State.nextFree_turns (s : State) : s.nextFree.1.turns = s.turns := rfl
@[simp] theorem State.nextFree_tick (s : State) : s.nextFree.1.tick = s.tick := rfl
@[simp] theorem State.nextFree_cycles (s : State) : s.nextFree.1.cycles = s.cycles := rfl
@[simp] theorem State.nextFree_time (s : State) : s.nextFree.1.time = s.time := rfl
@[simp] theorem State.nextFree_uid (s : State) : s.nextFree.1.uid = s.uid := rfl
@[simp] theorem State.nextFree_free (s : State) : s.nextFree.1.free = s.free + 1 := rfl
@[simp] theorem State.nextFree_active (s : State) : s.nextFree.1.active = s.active := rfl
@[simp] theorem State.nextFree_mem (s : State) : s.nextFree.1.mem = s.mem := rfl
@[simp] theorem State.nextFree_poison (s : State) : s.nextFree.1.poison = s.poison := rfl
@[simp] theorem State.nextFree_seals (s : State) : s.nextFree.1.seals = s.seals := rfl
@[simp] theorem State.nextFree_groups (s : State) : s.nextFree.1.groups = s.groups := rfl
@[simp] theorem State.nextFree_parcels (s : State) : s.nextFree.1.parcels = s.parcels := rfl
@[simp] theorem State.nextFree_launches (s : State) : s.nextFree.1.launches = s.launches := rfl
@[simp] theorem State.nextFree_placements (s : State) : s.nextFree.1.placements = s.placements := rfl
@[simp] theorem State.nextFree_cores (s : State) : s.nextFree.1.cores = s.cores := rfl
@[simp] theorem State.nextFree_pairs (s : State) : s.nextFree.1.pairs = s.pairs := rfl
@[simp] theorem State.nextFree_pairTlbs (s : State) : s.nextFree.1.pairTlbs = s.pairTlbs := rfl
@[simp] theorem State.nextFree_dies (s : State) : s.nextFree.1.dies = s.dies := rfl
@[simp] theorem State.nextFree_engines (s : State) : s.nextFree.1.engines = s.engines := rfl
@[simp] theorem State.nextFree_net (s : State) : s.nextFree.1.net = s.net := rfl
@[simp] theorem State.nextFree_acks (s : State) : s.nextFree.1.acks = s.acks := rfl
@[simp] theorem State.nextFree_flits (s : State) : s.nextFree.1.flits = s.flits := rfl
@[simp] theorem State.nextFree_decls (s : State) : s.nextFree.1.decls = s.decls := rfl
@[simp] theorem State.nextFree_joined (s : State) : s.nextFree.1.joined = s.joined := rfl
@[simp] theorem State.nextFree_phasers (s : State) : s.nextFree.1.phasers = s.phasers := rfl
@[simp] theorem State.nextFree_vfs (s : State) : s.nextFree.1.vfs = s.vfs := rfl
@[simp] theorem State.nextFree_links (s : State) : s.nextFree.1.links = s.links := rfl
@[simp] theorem State.nextFree_ports (s : State) : s.nextFree.1.ports = s.ports := rfl
@[simp] theorem State.nextFree_linkDirs (s : State) : s.nextFree.1.linkDirs = s.linkDirs := rfl
@[simp] theorem State.nextFree_control (s : State) : s.nextFree.1.control = s.control := rfl
@[simp] theorem State.nextFree_returns (s : State) : s.nextFree.1.returns = s.returns := rfl
@[simp] theorem State.nextFree_replies (s : State) : s.nextFree.1.replies = s.replies := rfl
@[simp] theorem State.nextFree_number (s : State) : s.nextFree.2 = s.free := rfl

/-! ## Updates of a group -/

@[simp] theorem Group.setVreg_uid (g : Group) (r l : Nat) (x : W64) : (g.setVreg r l x).uid = g.uid := rfl
@[simp] theorem Group.setVreg_parcel (g : Group) (r l : Nat) (x : W64) : (g.setVreg r l x).parcel = g.parcel := rfl
@[simp] theorem Group.setVreg_index (g : Group) (r l : Nat) (x : W64) : (g.setVreg r l x).index = g.index := rfl
@[simp] theorem Group.setVreg_core (g : Group) (r l : Nat) (x : W64) : (g.setVreg r l x).core = g.core := rfl
@[simp] theorem Group.setVreg_place (g : Group) (r l : Nat) (x : W64) : (g.setVreg r l x).place = g.place := rfl
@[simp] theorem Group.setVreg_width (g : Group) (r l : Nat) (x : W64) : (g.setVreg r l x).width = g.width := rfl
@[simp] theorem Group.setVreg_launched (g : Group) (r l : Nat) (x : W64) : (g.setVreg r l x).launched = g.launched := rfl
@[simp] theorem Group.setVreg_exited (g : Group) (r l : Nat) (x : W64) : (g.setVreg r l x).exited = g.exited := rfl
@[simp] theorem Group.setVreg_allot (g : Group) (r l : Nat) (x : W64) : (g.setVreg r l x).allot = g.allot := rfl
@[simp] theorem Group.setVreg_prio (g : Group) (r l : Nat) (x : W64) : (g.setVreg r l x).prio = g.prio := rfl
@[simp] theorem Group.setVreg_entry (g : Group) (r l : Nat) (x : W64) : (g.setVreg r l x).entry = g.entry := rfl
@[simp] theorem Group.setVreg_v (g : Group) (r l : Nat) (x : W64) : (g.setVreg r l x).v = Tbl.put 0 g.v (64 * r + l) x := rfl
@[simp] theorem Group.setVreg_s (g : Group) (r l : Nat) (x : W64) : (g.setVreg r l x).s = g.s := rfl
@[simp] theorem Group.setVreg_caps (g : Group) (r l : Nat) (x : W64) : (g.setVreg r l x).caps = g.caps := rfl
@[simp] theorem Group.setVreg_masks (g : Group) (r l : Nat) (x : W64) : (g.setVreg r l x).masks = g.masks := rfl
@[simp] theorem Group.setVreg_p0 (g : Group) (r l : Nat) (x : W64) : (g.setVreg r l x).p0 = g.p0 := rfl
@[simp] theorem Group.setVreg_p1 (g : Group) (r l : Nat) (x : W64) : (g.setVreg r l x).p1 = g.p1 := rfl
@[simp] theorem Group.setVreg_last (g : Group) (r l : Nat) (x : W64) : (g.setVreg r l x).last = g.last := rfl
@[simp] theorem Group.setVreg_stack (g : Group) (r l : Nat) (x : W64) : (g.setVreg r l x).stack = g.stack := rfl
@[simp] theorem Group.setVreg_queues (g : Group) (r l : Nat) (x : W64) : (g.setVreg r l x).queues = g.queues := rfl
@[simp] theorem Group.setVreg_samplers (g : Group) (r l : Nat) (x : W64) : (g.setVreg r l x).samplers = g.samplers := rfl
@[simp] theorem Group.setVreg_pending (g : Group) (r l : Nat) (x : W64) : (g.setVreg r l x).pending = g.pending := rfl
@[simp] theorem Group.setVreg_buffer (g : Group) (r l : Nat) (x : W64) : (g.setVreg r l x).buffer = g.buffer := rfl
@[simp] theorem Group.setVreg_acks (g : Group) (r l : Nat) (x : W64) : (g.setVreg r l x).acks = g.acks := rfl
@[simp] theorem Group.setVreg_status (g : Group) (r l : Nat) (x : W64) : (g.setVreg r l x).status = g.status := rfl
@[simp] theorem Group.setVreg_run (g : Group) (r l : Nat) (x : W64) : (g.setVreg r l x).run = g.run := rfl
@[simp] theorem Group.setVreg_decl (g : Group) (r l : Nat) (x : W64) : (g.setVreg r l x).decl = g.decl := rfl
@[simp] theorem Group.setVreg_closedTv (g : Group) (r l : Nat) (x : W64) : (g.setVreg r l x).closedTv = g.closedTv := rfl
@[simp] theorem Group.setVreg_roles (g : Group) (r l : Nat) (x : W64) : (g.setVreg r l x).roles = g.roles := rfl
@[simp] theorem Group.setVreg_claim (g : Group) (r l : Nat) (x : W64) : (g.setVreg r l x).claim = g.claim := rfl
@[simp] theorem Group.setVreg_granted (g : Group) (r l : Nat) (x : W64) : (g.setVreg r l x).granted = g.granted := rfl
@[simp] theorem Group.setVreg_dbg (g : Group) (r l : Nat) (x : W64) : (g.setVreg r l x).dbg = g.dbg := rfl
@[simp] theorem Group.setVreg_own (g : Group) (r l : Nat) (x : W64) : (g.setVreg r l x).own = g.own := rfl
@[simp] theorem Group.setVreg_ownHome (g : Group) (r l : Nat) (x : W64) : (g.setVreg r l x).ownHome = g.ownHome := rfl
@[simp] theorem Group.setVreg_ownTags (g : Group) (r l : Nat) (x : W64) : (g.setVreg r l x).ownTags = g.ownTags := rfl
@[simp] theorem Group.setVreg_ownPoison (g : Group) (r l : Nat) (x : W64) : (g.setVreg r l x).ownPoison = g.ownPoison := rfl
@[simp] theorem Group.setVreg_badRegs (g : Group) (r l : Nat) (x : W64) : (g.setVreg r l x).badRegs = g.badRegs := rfl
@[simp] theorem Group.setVreg_late (g : Group) (r l : Nat) (x : W64) : (g.setVreg r l x).late = g.late := rfl
@[simp] theorem Group.setSreg_uid (g : Group) (r : Nat) (x : W64) : (g.setSreg r x).uid = g.uid := rfl
@[simp] theorem Group.setSreg_parcel (g : Group) (r : Nat) (x : W64) : (g.setSreg r x).parcel = g.parcel := rfl
@[simp] theorem Group.setSreg_index (g : Group) (r : Nat) (x : W64) : (g.setSreg r x).index = g.index := rfl
@[simp] theorem Group.setSreg_core (g : Group) (r : Nat) (x : W64) : (g.setSreg r x).core = g.core := rfl
@[simp] theorem Group.setSreg_place (g : Group) (r : Nat) (x : W64) : (g.setSreg r x).place = g.place := rfl
@[simp] theorem Group.setSreg_width (g : Group) (r : Nat) (x : W64) : (g.setSreg r x).width = g.width := rfl
@[simp] theorem Group.setSreg_launched (g : Group) (r : Nat) (x : W64) : (g.setSreg r x).launched = g.launched := rfl
@[simp] theorem Group.setSreg_exited (g : Group) (r : Nat) (x : W64) : (g.setSreg r x).exited = g.exited := rfl
@[simp] theorem Group.setSreg_allot (g : Group) (r : Nat) (x : W64) : (g.setSreg r x).allot = g.allot := rfl
@[simp] theorem Group.setSreg_prio (g : Group) (r : Nat) (x : W64) : (g.setSreg r x).prio = g.prio := rfl
@[simp] theorem Group.setSreg_entry (g : Group) (r : Nat) (x : W64) : (g.setSreg r x).entry = g.entry := rfl
@[simp] theorem Group.setSreg_v (g : Group) (r : Nat) (x : W64) : (g.setSreg r x).v = g.v := rfl
@[simp] theorem Group.setSreg_s (g : Group) (r : Nat) (x : W64) : (g.setSreg r x).s = Tbl.put 0 g.s r x := rfl
@[simp] theorem Group.setSreg_caps (g : Group) (r : Nat) (x : W64) : (g.setSreg r x).caps = g.caps := rfl
@[simp] theorem Group.setSreg_masks (g : Group) (r : Nat) (x : W64) : (g.setSreg r x).masks = g.masks := rfl
@[simp] theorem Group.setSreg_p0 (g : Group) (r : Nat) (x : W64) : (g.setSreg r x).p0 = g.p0 := rfl
@[simp] theorem Group.setSreg_p1 (g : Group) (r : Nat) (x : W64) : (g.setSreg r x).p1 = g.p1 := rfl
@[simp] theorem Group.setSreg_last (g : Group) (r : Nat) (x : W64) : (g.setSreg r x).last = g.last := rfl
@[simp] theorem Group.setSreg_stack (g : Group) (r : Nat) (x : W64) : (g.setSreg r x).stack = g.stack := rfl
@[simp] theorem Group.setSreg_queues (g : Group) (r : Nat) (x : W64) : (g.setSreg r x).queues = g.queues := rfl
@[simp] theorem Group.setSreg_samplers (g : Group) (r : Nat) (x : W64) : (g.setSreg r x).samplers = g.samplers := rfl
@[simp] theorem Group.setSreg_pending (g : Group) (r : Nat) (x : W64) : (g.setSreg r x).pending = g.pending := rfl
@[simp] theorem Group.setSreg_buffer (g : Group) (r : Nat) (x : W64) : (g.setSreg r x).buffer = g.buffer := rfl
@[simp] theorem Group.setSreg_acks (g : Group) (r : Nat) (x : W64) : (g.setSreg r x).acks = g.acks := rfl
@[simp] theorem Group.setSreg_status (g : Group) (r : Nat) (x : W64) : (g.setSreg r x).status = g.status := rfl
@[simp] theorem Group.setSreg_run (g : Group) (r : Nat) (x : W64) : (g.setSreg r x).run = g.run := rfl
@[simp] theorem Group.setSreg_decl (g : Group) (r : Nat) (x : W64) : (g.setSreg r x).decl = g.decl := rfl
@[simp] theorem Group.setSreg_closedTv (g : Group) (r : Nat) (x : W64) : (g.setSreg r x).closedTv = g.closedTv := rfl
@[simp] theorem Group.setSreg_roles (g : Group) (r : Nat) (x : W64) : (g.setSreg r x).roles = g.roles := rfl
@[simp] theorem Group.setSreg_claim (g : Group) (r : Nat) (x : W64) : (g.setSreg r x).claim = g.claim := rfl
@[simp] theorem Group.setSreg_granted (g : Group) (r : Nat) (x : W64) : (g.setSreg r x).granted = g.granted := rfl
@[simp] theorem Group.setSreg_dbg (g : Group) (r : Nat) (x : W64) : (g.setSreg r x).dbg = g.dbg := rfl
@[simp] theorem Group.setSreg_own (g : Group) (r : Nat) (x : W64) : (g.setSreg r x).own = g.own := rfl
@[simp] theorem Group.setSreg_ownHome (g : Group) (r : Nat) (x : W64) : (g.setSreg r x).ownHome = g.ownHome := rfl
@[simp] theorem Group.setSreg_ownTags (g : Group) (r : Nat) (x : W64) : (g.setSreg r x).ownTags = g.ownTags := rfl
@[simp] theorem Group.setSreg_ownPoison (g : Group) (r : Nat) (x : W64) : (g.setSreg r x).ownPoison = g.ownPoison := rfl
@[simp] theorem Group.setSreg_badRegs (g : Group) (r : Nat) (x : W64) : (g.setSreg r x).badRegs = g.badRegs := rfl
@[simp] theorem Group.setSreg_late (g : Group) (r : Nat) (x : W64) : (g.setSreg r x).late = g.late := rfl
@[simp] theorem Group.setCap_uid (g : Group) (r : Nat) (c : Cap) : (g.setCap r c).uid = g.uid := rfl
@[simp] theorem Group.setCap_parcel (g : Group) (r : Nat) (c : Cap) : (g.setCap r c).parcel = g.parcel := rfl
@[simp] theorem Group.setCap_index (g : Group) (r : Nat) (c : Cap) : (g.setCap r c).index = g.index := rfl
@[simp] theorem Group.setCap_core (g : Group) (r : Nat) (c : Cap) : (g.setCap r c).core = g.core := rfl
@[simp] theorem Group.setCap_place (g : Group) (r : Nat) (c : Cap) : (g.setCap r c).place = g.place := rfl
@[simp] theorem Group.setCap_width (g : Group) (r : Nat) (c : Cap) : (g.setCap r c).width = g.width := rfl
@[simp] theorem Group.setCap_launched (g : Group) (r : Nat) (c : Cap) : (g.setCap r c).launched = g.launched := rfl
@[simp] theorem Group.setCap_exited (g : Group) (r : Nat) (c : Cap) : (g.setCap r c).exited = g.exited := rfl
@[simp] theorem Group.setCap_allot (g : Group) (r : Nat) (c : Cap) : (g.setCap r c).allot = g.allot := rfl
@[simp] theorem Group.setCap_prio (g : Group) (r : Nat) (c : Cap) : (g.setCap r c).prio = g.prio := rfl
@[simp] theorem Group.setCap_entry (g : Group) (r : Nat) (c : Cap) : (g.setCap r c).entry = g.entry := rfl
@[simp] theorem Group.setCap_v (g : Group) (r : Nat) (c : Cap) : (g.setCap r c).v = g.v := rfl
@[simp] theorem Group.setCap_s (g : Group) (r : Nat) (c : Cap) : (g.setCap r c).s = g.s := rfl
@[simp] theorem Group.setCap_caps (g : Group) (r : Nat) (c : Cap) : (g.setCap r c).caps = Tbl.put Cap.clear g.caps r c := rfl
@[simp] theorem Group.setCap_masks (g : Group) (r : Nat) (c : Cap) : (g.setCap r c).masks = g.masks := rfl
@[simp] theorem Group.setCap_p0 (g : Group) (r : Nat) (c : Cap) : (g.setCap r c).p0 = g.p0 := rfl
@[simp] theorem Group.setCap_p1 (g : Group) (r : Nat) (c : Cap) : (g.setCap r c).p1 = g.p1 := rfl
@[simp] theorem Group.setCap_last (g : Group) (r : Nat) (c : Cap) : (g.setCap r c).last = g.last := rfl
@[simp] theorem Group.setCap_stack (g : Group) (r : Nat) (c : Cap) : (g.setCap r c).stack = g.stack := rfl
@[simp] theorem Group.setCap_queues (g : Group) (r : Nat) (c : Cap) : (g.setCap r c).queues = g.queues := rfl
@[simp] theorem Group.setCap_samplers (g : Group) (r : Nat) (c : Cap) : (g.setCap r c).samplers = g.samplers := rfl
@[simp] theorem Group.setCap_pending (g : Group) (r : Nat) (c : Cap) : (g.setCap r c).pending = g.pending := rfl
@[simp] theorem Group.setCap_buffer (g : Group) (r : Nat) (c : Cap) : (g.setCap r c).buffer = g.buffer := rfl
@[simp] theorem Group.setCap_acks (g : Group) (r : Nat) (c : Cap) : (g.setCap r c).acks = g.acks := rfl
@[simp] theorem Group.setCap_status (g : Group) (r : Nat) (c : Cap) : (g.setCap r c).status = g.status := rfl
@[simp] theorem Group.setCap_run (g : Group) (r : Nat) (c : Cap) : (g.setCap r c).run = g.run := rfl
@[simp] theorem Group.setCap_decl (g : Group) (r : Nat) (c : Cap) : (g.setCap r c).decl = g.decl := rfl
@[simp] theorem Group.setCap_closedTv (g : Group) (r : Nat) (c : Cap) : (g.setCap r c).closedTv = g.closedTv := rfl
@[simp] theorem Group.setCap_roles (g : Group) (r : Nat) (c : Cap) : (g.setCap r c).roles = g.roles := rfl
@[simp] theorem Group.setCap_claim (g : Group) (r : Nat) (c : Cap) : (g.setCap r c).claim = g.claim := rfl
@[simp] theorem Group.setCap_granted (g : Group) (r : Nat) (c : Cap) : (g.setCap r c).granted = g.granted := rfl
@[simp] theorem Group.setCap_dbg (g : Group) (r : Nat) (c : Cap) : (g.setCap r c).dbg = g.dbg := rfl
@[simp] theorem Group.setCap_own (g : Group) (r : Nat) (c : Cap) : (g.setCap r c).own = g.own := rfl
@[simp] theorem Group.setCap_ownHome (g : Group) (r : Nat) (c : Cap) : (g.setCap r c).ownHome = g.ownHome := rfl
@[simp] theorem Group.setCap_ownTags (g : Group) (r : Nat) (c : Cap) : (g.setCap r c).ownTags = g.ownTags := rfl
@[simp] theorem Group.setCap_ownPoison (g : Group) (r : Nat) (c : Cap) : (g.setCap r c).ownPoison = g.ownPoison := rfl
@[simp] theorem Group.setCap_badRegs (g : Group) (r : Nat) (c : Cap) : (g.setCap r c).badRegs = g.badRegs := rfl
@[simp] theorem Group.setCap_late (g : Group) (r : Nat) (c : Cap) : (g.setCap r c).late = g.late := rfl
@[simp] theorem Group.setQueue_uid (g : Group) (q : Nat) (x : Queue) : (g.setQueue q x).uid = g.uid := rfl
@[simp] theorem Group.setQueue_parcel (g : Group) (q : Nat) (x : Queue) : (g.setQueue q x).parcel = g.parcel := rfl
@[simp] theorem Group.setQueue_index (g : Group) (q : Nat) (x : Queue) : (g.setQueue q x).index = g.index := rfl
@[simp] theorem Group.setQueue_core (g : Group) (q : Nat) (x : Queue) : (g.setQueue q x).core = g.core := rfl
@[simp] theorem Group.setQueue_place (g : Group) (q : Nat) (x : Queue) : (g.setQueue q x).place = g.place := rfl
@[simp] theorem Group.setQueue_width (g : Group) (q : Nat) (x : Queue) : (g.setQueue q x).width = g.width := rfl
@[simp] theorem Group.setQueue_launched (g : Group) (q : Nat) (x : Queue) : (g.setQueue q x).launched = g.launched := rfl
@[simp] theorem Group.setQueue_exited (g : Group) (q : Nat) (x : Queue) : (g.setQueue q x).exited = g.exited := rfl
@[simp] theorem Group.setQueue_allot (g : Group) (q : Nat) (x : Queue) : (g.setQueue q x).allot = g.allot := rfl
@[simp] theorem Group.setQueue_prio (g : Group) (q : Nat) (x : Queue) : (g.setQueue q x).prio = g.prio := rfl
@[simp] theorem Group.setQueue_entry (g : Group) (q : Nat) (x : Queue) : (g.setQueue q x).entry = g.entry := rfl
@[simp] theorem Group.setQueue_v (g : Group) (q : Nat) (x : Queue) : (g.setQueue q x).v = g.v := rfl
@[simp] theorem Group.setQueue_s (g : Group) (q : Nat) (x : Queue) : (g.setQueue q x).s = g.s := rfl
@[simp] theorem Group.setQueue_caps (g : Group) (q : Nat) (x : Queue) : (g.setQueue q x).caps = g.caps := rfl
@[simp] theorem Group.setQueue_masks (g : Group) (q : Nat) (x : Queue) : (g.setQueue q x).masks = g.masks := rfl
@[simp] theorem Group.setQueue_p0 (g : Group) (q : Nat) (x : Queue) : (g.setQueue q x).p0 = g.p0 := rfl
@[simp] theorem Group.setQueue_p1 (g : Group) (q : Nat) (x : Queue) : (g.setQueue q x).p1 = g.p1 := rfl
@[simp] theorem Group.setQueue_last (g : Group) (q : Nat) (x : Queue) : (g.setQueue q x).last = g.last := rfl
@[simp] theorem Group.setQueue_stack (g : Group) (q : Nat) (x : Queue) : (g.setQueue q x).stack = g.stack := rfl
@[simp] theorem Group.setQueue_queues (g : Group) (q : Nat) (x : Queue) : (g.setQueue q x).queues = Tbl.put Queue.empty g.queues q x := rfl
@[simp] theorem Group.setQueue_samplers (g : Group) (q : Nat) (x : Queue) : (g.setQueue q x).samplers = g.samplers := rfl
@[simp] theorem Group.setQueue_pending (g : Group) (q : Nat) (x : Queue) : (g.setQueue q x).pending = g.pending := rfl
@[simp] theorem Group.setQueue_buffer (g : Group) (q : Nat) (x : Queue) : (g.setQueue q x).buffer = g.buffer := rfl
@[simp] theorem Group.setQueue_acks (g : Group) (q : Nat) (x : Queue) : (g.setQueue q x).acks = g.acks := rfl
@[simp] theorem Group.setQueue_status (g : Group) (q : Nat) (x : Queue) : (g.setQueue q x).status = g.status := rfl
@[simp] theorem Group.setQueue_run (g : Group) (q : Nat) (x : Queue) : (g.setQueue q x).run = g.run := rfl
@[simp] theorem Group.setQueue_decl (g : Group) (q : Nat) (x : Queue) : (g.setQueue q x).decl = g.decl := rfl
@[simp] theorem Group.setQueue_closedTv (g : Group) (q : Nat) (x : Queue) : (g.setQueue q x).closedTv = g.closedTv := rfl
@[simp] theorem Group.setQueue_roles (g : Group) (q : Nat) (x : Queue) : (g.setQueue q x).roles = g.roles := rfl
@[simp] theorem Group.setQueue_claim (g : Group) (q : Nat) (x : Queue) : (g.setQueue q x).claim = g.claim := rfl
@[simp] theorem Group.setQueue_granted (g : Group) (q : Nat) (x : Queue) : (g.setQueue q x).granted = g.granted := rfl
@[simp] theorem Group.setQueue_dbg (g : Group) (q : Nat) (x : Queue) : (g.setQueue q x).dbg = g.dbg := rfl
@[simp] theorem Group.setQueue_own (g : Group) (q : Nat) (x : Queue) : (g.setQueue q x).own = g.own := rfl
@[simp] theorem Group.setQueue_ownHome (g : Group) (q : Nat) (x : Queue) : (g.setQueue q x).ownHome = g.ownHome := rfl
@[simp] theorem Group.setQueue_ownTags (g : Group) (q : Nat) (x : Queue) : (g.setQueue q x).ownTags = g.ownTags := rfl
@[simp] theorem Group.setQueue_ownPoison (g : Group) (q : Nat) (x : Queue) : (g.setQueue q x).ownPoison = g.ownPoison := rfl
@[simp] theorem Group.setQueue_badRegs (g : Group) (q : Nat) (x : Queue) : (g.setQueue q x).badRegs = g.badRegs := rfl
@[simp] theorem Group.setQueue_late (g : Group) (q : Nat) (x : Queue) : (g.setQueue q x).late = g.late := rfl
@[simp] theorem Group.setKreg_uid (g : Group) (n : Nat) (e x : W64) : (g.setKreg n e x).uid = g.uid := rfl
@[simp] theorem Group.setKreg_parcel (g : Group) (n : Nat) (e x : W64) : (g.setKreg n e x).parcel = g.parcel := rfl
@[simp] theorem Group.setKreg_index (g : Group) (n : Nat) (e x : W64) : (g.setKreg n e x).index = g.index := rfl
@[simp] theorem Group.setKreg_core (g : Group) (n : Nat) (e x : W64) : (g.setKreg n e x).core = g.core := rfl
@[simp] theorem Group.setKreg_place (g : Group) (n : Nat) (e x : W64) : (g.setKreg n e x).place = g.place := rfl
@[simp] theorem Group.setKreg_width (g : Group) (n : Nat) (e x : W64) : (g.setKreg n e x).width = g.width := rfl
@[simp] theorem Group.setKreg_launched (g : Group) (n : Nat) (e x : W64) : (g.setKreg n e x).launched = g.launched := rfl
@[simp] theorem Group.setKreg_exited (g : Group) (n : Nat) (e x : W64) : (g.setKreg n e x).exited = g.exited := rfl
@[simp] theorem Group.setKreg_allot (g : Group) (n : Nat) (e x : W64) : (g.setKreg n e x).allot = g.allot := rfl
@[simp] theorem Group.setKreg_prio (g : Group) (n : Nat) (e x : W64) : (g.setKreg n e x).prio = g.prio := rfl
@[simp] theorem Group.setKreg_entry (g : Group) (n : Nat) (e x : W64) : (g.setKreg n e x).entry = g.entry := rfl
@[simp] theorem Group.setKreg_v (g : Group) (n : Nat) (e x : W64) : (g.setKreg n e x).v = g.v := rfl
@[simp] theorem Group.setKreg_s (g : Group) (n : Nat) (e x : W64) : (g.setKreg n e x).s = g.s := rfl
@[simp] theorem Group.setKreg_caps (g : Group) (n : Nat) (e x : W64) : (g.setKreg n e x).caps = g.caps := rfl
@[simp] theorem Group.setKreg_masks (g : Group) (n : Nat) (e x : W64) : (g.setKreg n e x).masks = Tbl.put 0 g.masks n (((Tbl.get 0 g.masks n &&& ~~~e) ||| (x &&& e)) &&& lowMask g.width) := rfl
@[simp] theorem Group.setKreg_p0 (g : Group) (n : Nat) (e x : W64) : (g.setKreg n e x).p0 = g.p0 := rfl
@[simp] theorem Group.setKreg_p1 (g : Group) (n : Nat) (e x : W64) : (g.setKreg n e x).p1 = g.p1 := rfl
@[simp] theorem Group.setKreg_last (g : Group) (n : Nat) (e x : W64) : (g.setKreg n e x).last = g.last := rfl
@[simp] theorem Group.setKreg_stack (g : Group) (n : Nat) (e x : W64) : (g.setKreg n e x).stack = g.stack := rfl
@[simp] theorem Group.setKreg_queues (g : Group) (n : Nat) (e x : W64) : (g.setKreg n e x).queues = g.queues := rfl
@[simp] theorem Group.setKreg_samplers (g : Group) (n : Nat) (e x : W64) : (g.setKreg n e x).samplers = g.samplers := rfl
@[simp] theorem Group.setKreg_pending (g : Group) (n : Nat) (e x : W64) : (g.setKreg n e x).pending = g.pending := rfl
@[simp] theorem Group.setKreg_buffer (g : Group) (n : Nat) (e x : W64) : (g.setKreg n e x).buffer = g.buffer := rfl
@[simp] theorem Group.setKreg_acks (g : Group) (n : Nat) (e x : W64) : (g.setKreg n e x).acks = g.acks := rfl
@[simp] theorem Group.setKreg_status (g : Group) (n : Nat) (e x : W64) : (g.setKreg n e x).status = g.status := rfl
@[simp] theorem Group.setKreg_run (g : Group) (n : Nat) (e x : W64) : (g.setKreg n e x).run = g.run := rfl
@[simp] theorem Group.setKreg_decl (g : Group) (n : Nat) (e x : W64) : (g.setKreg n e x).decl = g.decl := rfl
@[simp] theorem Group.setKreg_closedTv (g : Group) (n : Nat) (e x : W64) : (g.setKreg n e x).closedTv = g.closedTv := rfl
@[simp] theorem Group.setKreg_roles (g : Group) (n : Nat) (e x : W64) : (g.setKreg n e x).roles = g.roles := rfl
@[simp] theorem Group.setKreg_claim (g : Group) (n : Nat) (e x : W64) : (g.setKreg n e x).claim = g.claim := rfl
@[simp] theorem Group.setKreg_granted (g : Group) (n : Nat) (e x : W64) : (g.setKreg n e x).granted = g.granted := rfl
@[simp] theorem Group.setKreg_dbg (g : Group) (n : Nat) (e x : W64) : (g.setKreg n e x).dbg = g.dbg := rfl
@[simp] theorem Group.setKreg_own (g : Group) (n : Nat) (e x : W64) : (g.setKreg n e x).own = g.own := rfl
@[simp] theorem Group.setKreg_ownHome (g : Group) (n : Nat) (e x : W64) : (g.setKreg n e x).ownHome = g.ownHome := rfl
@[simp] theorem Group.setKreg_ownTags (g : Group) (n : Nat) (e x : W64) : (g.setKreg n e x).ownTags = g.ownTags := rfl
@[simp] theorem Group.setKreg_ownPoison (g : Group) (n : Nat) (e x : W64) : (g.setKreg n e x).ownPoison = g.ownPoison := rfl
@[simp] theorem Group.setKreg_badRegs (g : Group) (n : Nat) (e x : W64) : (g.setKreg n e x).badRegs = g.badRegs := rfl
@[simp] theorem Group.setKreg_late (g : Group) (n : Nat) (e x : W64) : (g.setKreg n e x).late = g.late := rfl
@[simp] theorem Group.setPath_uid (g : Group) (k : PathSlot) (p : Option Path) : (g.setPath k p).uid = g.uid := by cases k <;> rfl
@[simp] theorem Group.setPath_parcel (g : Group) (k : PathSlot) (p : Option Path) : (g.setPath k p).parcel = g.parcel := by cases k <;> rfl
@[simp] theorem Group.setPath_index (g : Group) (k : PathSlot) (p : Option Path) : (g.setPath k p).index = g.index := by cases k <;> rfl
@[simp] theorem Group.setPath_core (g : Group) (k : PathSlot) (p : Option Path) : (g.setPath k p).core = g.core := by cases k <;> rfl
@[simp] theorem Group.setPath_place (g : Group) (k : PathSlot) (p : Option Path) : (g.setPath k p).place = g.place := by cases k <;> rfl
@[simp] theorem Group.setPath_width (g : Group) (k : PathSlot) (p : Option Path) : (g.setPath k p).width = g.width := by cases k <;> rfl
@[simp] theorem Group.setPath_launched (g : Group) (k : PathSlot) (p : Option Path) : (g.setPath k p).launched = g.launched := by cases k <;> rfl
@[simp] theorem Group.setPath_exited (g : Group) (k : PathSlot) (p : Option Path) : (g.setPath k p).exited = g.exited := by cases k <;> rfl
@[simp] theorem Group.setPath_allot (g : Group) (k : PathSlot) (p : Option Path) : (g.setPath k p).allot = g.allot := by cases k <;> rfl
@[simp] theorem Group.setPath_prio (g : Group) (k : PathSlot) (p : Option Path) : (g.setPath k p).prio = g.prio := by cases k <;> rfl
@[simp] theorem Group.setPath_entry (g : Group) (k : PathSlot) (p : Option Path) : (g.setPath k p).entry = g.entry := by cases k <;> rfl
@[simp] theorem Group.setPath_v (g : Group) (k : PathSlot) (p : Option Path) : (g.setPath k p).v = g.v := by cases k <;> rfl
@[simp] theorem Group.setPath_s (g : Group) (k : PathSlot) (p : Option Path) : (g.setPath k p).s = g.s := by cases k <;> rfl
@[simp] theorem Group.setPath_caps (g : Group) (k : PathSlot) (p : Option Path) : (g.setPath k p).caps = g.caps := by cases k <;> rfl
@[simp] theorem Group.setPath_masks (g : Group) (k : PathSlot) (p : Option Path) : (g.setPath k p).masks = g.masks := by cases k <;> rfl
@[simp] theorem Group.setPath_last (g : Group) (k : PathSlot) (p : Option Path) : (g.setPath k p).last = g.last := by cases k <;> rfl
@[simp] theorem Group.setPath_stack (g : Group) (k : PathSlot) (p : Option Path) : (g.setPath k p).stack = g.stack := by cases k <;> rfl
@[simp] theorem Group.setPath_queues (g : Group) (k : PathSlot) (p : Option Path) : (g.setPath k p).queues = g.queues := by cases k <;> rfl
@[simp] theorem Group.setPath_samplers (g : Group) (k : PathSlot) (p : Option Path) : (g.setPath k p).samplers = g.samplers := by cases k <;> rfl
@[simp] theorem Group.setPath_pending (g : Group) (k : PathSlot) (p : Option Path) : (g.setPath k p).pending = g.pending := by cases k <;> rfl
@[simp] theorem Group.setPath_buffer (g : Group) (k : PathSlot) (p : Option Path) : (g.setPath k p).buffer = g.buffer := by cases k <;> rfl
@[simp] theorem Group.setPath_acks (g : Group) (k : PathSlot) (p : Option Path) : (g.setPath k p).acks = g.acks := by cases k <;> rfl
@[simp] theorem Group.setPath_status (g : Group) (k : PathSlot) (p : Option Path) : (g.setPath k p).status = g.status := by cases k <;> rfl
@[simp] theorem Group.setPath_run (g : Group) (k : PathSlot) (p : Option Path) : (g.setPath k p).run = g.run := by cases k <;> rfl
@[simp] theorem Group.setPath_decl (g : Group) (k : PathSlot) (p : Option Path) : (g.setPath k p).decl = g.decl := by cases k <;> rfl
@[simp] theorem Group.setPath_closedTv (g : Group) (k : PathSlot) (p : Option Path) : (g.setPath k p).closedTv = g.closedTv := by cases k <;> rfl
@[simp] theorem Group.setPath_roles (g : Group) (k : PathSlot) (p : Option Path) : (g.setPath k p).roles = g.roles := by cases k <;> rfl
@[simp] theorem Group.setPath_claim (g : Group) (k : PathSlot) (p : Option Path) : (g.setPath k p).claim = g.claim := by cases k <;> rfl
@[simp] theorem Group.setPath_granted (g : Group) (k : PathSlot) (p : Option Path) : (g.setPath k p).granted = g.granted := by cases k <;> rfl
@[simp] theorem Group.setPath_dbg (g : Group) (k : PathSlot) (p : Option Path) : (g.setPath k p).dbg = g.dbg := by cases k <;> rfl
@[simp] theorem Group.setPath_own (g : Group) (k : PathSlot) (p : Option Path) : (g.setPath k p).own = g.own := by cases k <;> rfl
@[simp] theorem Group.setPath_ownHome (g : Group) (k : PathSlot) (p : Option Path) : (g.setPath k p).ownHome = g.ownHome := by cases k <;> rfl
@[simp] theorem Group.setPath_ownTags (g : Group) (k : PathSlot) (p : Option Path) : (g.setPath k p).ownTags = g.ownTags := by cases k <;> rfl
@[simp] theorem Group.setPath_ownPoison (g : Group) (k : PathSlot) (p : Option Path) : (g.setPath k p).ownPoison = g.ownPoison := by cases k <;> rfl
@[simp] theorem Group.setPath_badRegs (g : Group) (k : PathSlot) (p : Option Path) : (g.setPath k p).badRegs = g.badRegs := by cases k <;> rfl
@[simp] theorem Group.setPath_late (g : Group) (k : PathSlot) (p : Option Path) : (g.setPath k p).late = g.late := by cases k <;> rfl
@[simp] theorem Group.setPath_path (g : Group) (k : PathSlot) (p : Option Path) : (g.setPath k p).path? k = p := by
  cases k <;> rfl
theorem Group.setPath_other (g : Group) (k : PathSlot) (p : Option Path) :
    (g.setPath k p).path? (otherSlot k) = g.path? (otherSlot k) := by
  cases k <;> rfl

end Sys2Proof.Machine
end

