-- ==== Sys2Proof/Laws/Registers.lean ====
section
/-!
SUPPORT. What writing a register changes: one read-after-write lemma and one frame lemma per kind of destination.
-/
namespace Sys2Proof.Machine
open Sys2Proof

theorem Group.vreg_setVreg (g : Group) (r l r' l' : Nat) (x : W64) (hl : l < 64) (hl' : l' < 64) :
    (g.setVreg r l x).vreg r' l' = if r' = r ∧ l' = l then x else g.vreg r' l' := by
  simp only [Group.setVreg, Group.vreg, Tbl.get_put]
  have : 64 * r' + l' = 64 * r + l ↔ r' = r ∧ l' = l := by omega
  simp only [this]

theorem Group.sreg_setSreg (g : Group) (r r' : Nat) (x : W64) : (g.setSreg r x).sreg r' = if r' = r then x else g.sreg r' := by
  simp only [Group.setSreg, Group.sreg, Tbl.get_put]

theorem Group.cap_setCap (g : Group) (r r' : Nat) (x : Cap) : (g.setCap r x).cap r' = if r' = r then x else g.cap r' := by
  simp only [Group.setCap, Group.cap, Tbl.get_put]

theorem Group.queue_setQueue (g : Group) (q q' : Nat) (x : Queue) : (g.setQueue q x).queue q' = if q' = q then x else g.queue q' := by
  simp only [Group.setQueue, Group.queue, Tbl.get_put]

/-- Two groups that differ at most in their v registers. -/
def Group.sameButV (g h : Group) : Prop := ∃ t, h = { g with v := t }

theorem Group.sameButV.refl (g : Group) : g.sameButV g := ⟨g.v, rfl⟩

theorem Group.sameButV.trans {a b c : Group} (h : a.sameButV b) (k : b.sameButV c) : a.sameButV c := by
  obtain ⟨t, rfl⟩ := h
  obtain ⟨u, rfl⟩ := k
  exact ⟨u, rfl⟩

theorem Group.sameButV.restore {g h : Group} (k : g.sameButV h) : { h with v := g.v } = g := by
  obtain ⟨t, rfl⟩ := k
  rfl

theorem Group.setVreg_frame (g : Group) (r l : Nat) (x : W64) : g.sameButV (g.setVreg r l x) := ⟨_, rfl⟩

theorem Group.foldVreg_frame (g : Group) (r : Nat) (ls : List Nat) (f : Nat → W64) :
    g.sameButV (ls.foldl (fun g l => g.setVreg r l (f l)) g) := by
  induction ls generalizing g with
  | nil => exact .refl g
  | cons l ls ih => exact (g.setVreg_frame r l (f l)).trans (ih _)

theorem Group.writeLanes_frame (g : Group) (r : Nat) (m : W64) (f : Nat → W64) : g.sameButV (g.writeLanes r m f) :=
  g.foldVreg_frame r (lanes m) f

theorem Group.vreg_writeLanes (g : Group) (r : Nat) (m : W64) (f : Nat → W64) (r' l : Nat) (hl : l < 64) :
    (g.writeLanes r m f).vreg r' l = if r' = r ∧ m.getLsbD l = true then f l else g.vreg r' l := by
  have hb : ∀ x ∈ lanes m, x < 64 := fun x hx => by
    have := BitVec.lt_of_getLsbD ((mem_lanes m x).mp hx)
    omega
  have key : ∀ (ls : List Nat) (g : Group), (∀ x ∈ ls, x < 64) →
      (ls.foldl (fun g l => g.setVreg r l (f l)) g).vreg r' l = if r' = r ∧ l ∈ ls then f l else g.vreg r' l := by
    intro ls
    induction ls with
    | nil => intro g _; simp
    | cons x ls ih =>
        intro g hb
        simp only [List.foldl_cons, List.mem_cons]
        rw [ih _ fun y hy => hb y (List.mem_cons_of_mem _ hy), vreg_setVreg _ _ _ _ _ _ (hb x List.mem_cons_self) hl]
        by_cases h1 : r' = r <;> by_cases h2 : l ∈ ls <;> by_cases h3 : l = x <;> simp_all
  unfold Group.writeLanes
  rw [key _ _ hb]
  simp only [mem_lanes]

theorem Ctx.writeV_frame (c : Ctx) (g : Group) (p : Pfx) (e : W64) (r : Nat) (f : Nat → W64) : g.sameButV (c.writeV g p e r f) :=
  (g.writeLanes_frame r _ f).trans (Group.writeLanes_frame _ r _ _)

/-- R59, R211: what a v destination holds after the write. -/
theorem Ctx.vreg_writeV (c : Ctx) (g : Group) (p : Pfx) (e : W64) (r : Nat) (f : Nat → W64) (r' l : Nat) (hl : l < 64) :
    (c.writeV g p e r f).vreg r' l =
      if r' = r ∧ e.getLsbD l = true then
        (if p.wm = 0 ∨ (g.kreg c.p.mask p.wm.toNat).getLsbD l = true then f l else if p.zpol then 0 else g.vreg r l)
      else g.vreg r' l := by
  unfold Ctx.writeV Ctx.writes
  by_cases hw : p.wm = 0
  · simp only [hw, if_true, Group.vreg_writeLanes _ _ _ _ _ _ hl, true_or]
    have : ¬(0 : W64).getLsbD l = true := by simp
    simp only [this, Bool.false_eq_true, and_false, if_false]
  · simp only [hw, if_false, Group.vreg_writeLanes _ _ _ _ _ _ hl, false_or]
    generalize hm : g.kreg c.p.mask p.wm.toNat = m
    have hn : (~~~m).getLsbD l = !m.getLsbD l := by simp [hl]
    by_cases hr : r' = r
    · subst hr
      cases hz : p.zpol <;> cases he : e.getLsbD l <;> cases hm : m.getLsbD l <;>
        simp [BitVec.getLsbD_and, -BitVec.getLsbD_eq_getElem, he, hm, hn]
    · simp only [hr, false_and, if_false]

/-! ## Queue entries (R110) -/

theorem QEntry.at_ofLanes (e : W64) (f : Nat → W64) (clause : W32) (slot l : Nat) :
    QEntry.at { QEntry.ofLanes e f with clause := clause, slot := slot } l = if e.getLsbD l then f l else 0 := by
  show Tbl.get 0 (laneTbl e f) l = _
  exact get_laneTbl_eq e f l

theorem QEntry.at_ofScalar (x : W64) (clause : W32) (slot l : Nat) :
    QEntry.at { QEntry.ofScalar x with clause := clause, slot := slot } l = x := Tbl.get_put_same 0 x 0 []

theorem Group.queue_pushEntry (g : Group) (q q' : Nat) (x : QEntry) :
    ((g.pushEntry q x).queue q').entries = if q' = q then (g.queue q).entries ++ [x] else (g.queue q').entries := by
  simp only [Group.pushEntry, Group.queue_setQueue]
  split <;> rfl

end Sys2Proof.Machine
end

