-- ==== Sys2Proof/Tests/Slice0.lean ====
section
/-!
SUPPORT. Tests: refused ill-formed terms, words of the manual, one step on small states, and for each statement with hypotheses a state and
operands that meet them.
-/
namespace Sys2Proof.Tests
open Sys2Proof Sys2Proof.Machine
set_option Elab.async false

/-! ## Small states -/

/-- An empty package in which a group of eight lanes is about to execute a slot with the word `w`. -/
def slot (w : W64) : State := State.reset.withSlot w

/-- The same state after a change of its group, its parcel, its launch or its running clause. -/
def State.editG (s : State) (f : Group → Group) : State := { s with groups := s.groups.map f }
def State.editP (s : State) (f : Parcel → Parcel) : State := { s with parcels := s.parcels.map f }
def State.editL (s : State) (f : Launch → Launch) : State := { s with launches := s.launches.map f }
def State.editR (s : State) (f : ClauseRun → ClauseRun) : State := State.editG s fun g => { g with run := g.run.map f }

/-- What `Ctx.Begins` asks, worked out; `k` is asked of what it answers. -/
def starts (c : Ctx) (o : Start) (e : W64) (nw : Bool) (dsts srcs : List Use) (k : State → Group → Group → List Src → Bool) : Bool :=
  decide ((dsts ++ srcs).findSome? (Use.fault c.g) = none) && (decide (e ≠ 0) &&
  (decide ((c.g.pending.any fun p => p.latches c.r) = false) && (decide (o.pre = none) &&
  (decide (latchFault c.r srcs = none) && (decide ((c.g.pending.any fun p => (dsts ++ srcs).any fun u => p.meets c.r.id u) = false) &&
  (decide (o.check (foreseen c.g c.r srcs) = none) && (decide (popsFault c.g srcs = none) &&
  (decide ((dsts.findSome? fun u => u.queue?.bind fun q => if nw then c.g.portFault q o.port else c.g.pushFault q o.port) = none) &&
  (decide (c.g.lateAt srcs = none) &&
  match (if o.fence || o.access || usesQueue (dsts ++ srcs) then c.s.quantumEnd c.g c.k else .ok c.s c.g) with
  | .ok s g =>
      decide (pushQueue nw dsts (fun q => if g.queueFull q then some q else none) = none) &&
        (match takeSources c.r g srcs with
        | .ok (h, xs) => decide (g.badRead e srcs = none) && k s g h xs
        | .error _ => false)
  | _ => false)))))))))

theorem starts_begins {c : Ctx} {o : Start} {e : W64} {nw : Bool} {dsts srcs : List Use} {k : State → Group → Group → List Src → Bool}
    (h : starts c o e nw dsts srcs k = true) :
    ∃ t g h xs, (∀ b, c.Begins o e nw dsts srcs t g h xs b) ∧ k t g h xs = true := by
  simp only [starts, Bool.and_eq_true, decide_eq_true_eq] at h
  obtain ⟨h1, h2, h3, h4, h5, h6, h7, h8, h9, h10, hm⟩ := h
  split at hm
  · rename_i s g hq
    simp only [Bool.and_eq_true, decide_eq_true_eq] at hm
    obtain ⟨h11, hm⟩ := hm
    split at hm
    · rename_i h' xs hs
      simp only [Bool.and_eq_true, decide_eq_true_eq] at hm
      refine ⟨s, g, h', xs, fun _ => ⟨h1, h2, fun _ => h3, h4, h5, h6, h7, h8, h9, h10, ?_, h11, hs, hm.1⟩, hm.2⟩
      split at hq <;> rename_i hc
      · rw [if_pos hc]; exact hq
      · rw [if_neg hc]; cases hq; exact ⟨rfl, rfl⟩
    · cases hm
  · cases hm

/-- The context `c` of the next slot of `s` satisfies `k`. -/
def next (s : State) (k : Ctx → Bool) : Bool :=
  match s.running with
  | some c => decide (c.breakpoint = none) && k c
  | none => false

theorem next_runs {s : State} {k : Ctx → Bool} (h : next s k = true) : ∃ c, s.runs c ∧ k c = true := by
  unfold next at h
  split at h
  · rename_i c hc
    simp only [Bool.and_eq_true, decide_eq_true_eq] at h
    exact ⟨c, ⟨hc, h.1⟩, h.2⟩
  · cases h

/-- The hypotheses that statements about a slot share are met by `s`: its next slot begins with operands in order, whether or not it
captures; and `k` holds of what its beginning answers. -/
def Meets (s : State) (o : Ctx → Start) (e : Ctx → W64) (nw : Bool) (dsts srcs : List Use)
    (k : Ctx → State → Group → Group → List Src → Bool) : Prop :=
  ∃ c, s.runs c ∧ ∃ t g h xs, (∀ b, c.Begins (o c) (e c) nw dsts srcs t g h xs b) ∧ k c t g h xs = true

theorem meets {s : State} {o : Ctx → Start} {e : Ctx → W64} {nw : Bool} {dsts srcs : List Use}
    {k : Ctx → State → Group → Group → List Src → Bool}
    (h : next s (fun c => starts c (o c) (e c) nw dsts srcs (k c)) = true) : Meets s o e nw dsts srcs k := by
  obtain ⟨c, hc, hk⟩ := next_runs h
  obtain ⟨t, g, h', xs, hb, hk⟩ := starts_begins hk
  exact ⟨c, hc, t, g, h', xs, hb, hk⟩

/-- The next slot of `s` has a context that satisfies `k`. -/
def Has (s : State) (k : Ctx → Bool) : Prop := ∃ c, s.runs c ∧ k c = true

/-- Whether a result is an answer. -/
def answered {ε α : Type} : Except ε α → Bool | .ok _ => true | .error _ => false

/-- Whether an outcome is a next state with the property `k`. -/
def goes (k : State → Bool) : Host.Outcome State Fault Refusal → Bool | .next t => k t | _ => false

/-- The executing lanes of an unguarded slot. -/
def unguarded (c : Ctx) : W64 := c.enabled 0 false

/-! ## Hypotheses that can be met: the step, and the scalar, vector, mask and cross-lane opcodes -/

/-- A queue with a binding. -/
def bound (q : Nat) (b : BitVec 16) (s : State) : State := State.editG s fun g => g.setQueue q { Queue.empty with binding := b }

/-- The next slot of `s` has been fetched, and `k` holds of what it decodes to. -/
def fetchedAs (s : State) (k : Except Nat Instr → Bool) : Prop :=
  s.agenda = [] ∧ ∃ c x, s.ready.running = some c ∧ c.fetched = some x ∧ k (fetchedInstr x) = true

theorem fetched_as {s : State} {k : Except Nat Instr → Bool} (ha : s.agenda = [])
    (h : ((s.ready.running.bind fun c => c.fetched).map fun x => k (fetchedInstr x)) = some true) : fetchedAs s k := by
  simp only [Option.map_eq_some_iff, Option.bind_eq_some_iff] at h
  obtain ⟨x, ⟨c, hc, hx⟩, hk⟩ := h
  exact ⟨ha, c, x, hc, hx, hk⟩

theorem witness_StepRunsFetchedSlot :
    fetchedAs (slot 0x0100000000000000) (fun r => match r with | .ok _ => true | .error _ => false) ∧
    fetchedAs (slot 0xFF00000000000000) (fun r => match r with | .ok _ => false | .error _ => true) ∧ Instr.coldReset.isSlot = false :=
  ⟨fetched_as (by decide) (by decide +kernel), fetched_as (by decide) (by decide +kernel), rfl⟩

/-- The same slot twice in its clause. -/
def two (s : State) : State := State.editR s fun r => { r with words := r.words ++ r.words }

theorem witness_SlotEndCapturesLatch :
    (∃ g r, (two (slot 0)).groups = [g] ∧ g.run = some r ∧ r.leaving = none ∧ r.idx + 1 < r.words.length ∧ g.run ≠ none) ∧
    ∃ g r, (slot 0).groups = [g] ∧ g.run = some r ∧ r.leaving = none ∧ ¬ r.idx + 1 < r.words.length := by
  refine ⟨⟨_, _, rfl, rfl, rfl, ?_, ?_⟩, ⟨_, _, rfl, rfl, rfl, ?_⟩⟩ <;> decide

theorem witness_GuardAndWriteMask : (1 : W64).getLsbD 0 = true ∧ (1 : W64).getLsbD 63 = false ∧ (0 : Nat) ≠ 1 := by decide

theorem witness_ScalarAndQueueResults : (1 : W64).getLsbD 0 = true ∧ (0 : Nat) ≠ (1 : BitVec 4).toNat := by decide

theorem witness_RegisterResultFrame :
    (∃ g r, (two (slot 0)).groups = [g] ∧ g.run = some r ∧ r.leaving = none ∧ r.idx + 1 < r.words.length ∧ (∀ q, Operand.v 1 ≠ .q q) ∧
      0 < g.width) ∧
    Has (slot 0) (fun c => goes (fun _ => true) (c.pathDone 1 (.s 1) false Pfx.none false c.g 5)) := by
  refine ⟨⟨_, _, rfl, rfl, rfl, ?_, ?_, ?_⟩, next_runs (by decide)⟩ <;> decide

def fV (n : Nat) : VForm := plainV .n32 0 (.v 8) (.v 1) (.v 2) (if n = 3 then .v 3 else .v 0) 0
def fS (n : Nat) : VForm := plainV .n32 0 (.s 8) (.s 1) (.s 2) (if n = 3 then .s 3 else .v 0) 0
def pendingOn (d : PendDst) (k : PendKind) : Pending :=
  { uid := 90, kind := k, path := .s0, clause := 0, slot := 0, run := 3, latch := none, ty := .n64, dst := d, lanes := [(0, .value [7])], hold := false }

theorem witness_OperandChecksInOrder :
    Has (slot 0) (fun c => decide (([dstOf (fS 2) .vq] ++ usesOf (fV 2) 2 .vslq).findSome? (Use.fault c.g) ≠ none)) ∧
    Has (slot 0) (fun c => decide (([dstOf (fV 2) .vq] ++ usesOf (fV 2) 2 .vslq).findSome? (Use.fault c.g) = none) &&
      decide (c.enabled 0 true = 0) && !usesQueue ([dstOf (fV 2) .vq] ++ usesOf (fV 2) 2 .vslq)) ∧
    Has (slot 0) (fun c => decide (([dstOf (fV 2) .vq] ++ usesOf { fV 2 with sa := .l 3 } 2 .vslq).findSome? (Use.fault c.g) = none) &&
      decide (unguarded c ≠ 0) && decide (latchFault c.r (usesOf { fV 2 with sa := .l 3 } 2 .vslq) ≠ none)) ∧
    Has (State.editG (slot 0) fun g => { g with pending := (g.run.map fun r =>
        { pendingOn .nothing .load with run := r.id, latch := some (r.idx % 4) }).toList })
      (fun c => decide (([dstOf (fV 2) .vq] ++ usesOf (fV 2) 2 .vslq).findSome? (Use.fault c.g) = none) &&
        c.g.pending.any fun p => p.latches c.r) ∧
    Has (State.editG (slot 0) fun g => { g with pending := [pendingOn (.vregs 2 1) .load] })
      (fun c => decide (latchFault c.r (usesOf (fV 2) 2 .vslq) = none) && decide ((c.g.pending.any fun p => p.latches c.r) = false) &&
        c.g.pending.any fun p => ([dstOf (fV 2) .vq] ++ usesOf (fV 2) 2 .vslq).any fun u => p.meets c.r.id u) :=
  ⟨next_runs (by decide), next_runs (by decide), next_runs (by decide), next_runs (by decide), next_runs (by decide)⟩

/-- A slot that cannot trap on a NaN, and an outcome of `i` that goes on. -/
def runsOn (i : Instr) (c : Ctx) (t : State) (g h : Group) (xs : List Src) : Bool :=
  !((c.put t g).fenv Pfx.none).nant && decide (h.uid = g.uid) && decide (xs.length ≤ 4) && goes (fun _ => true) (exec i c.s)

theorem witness_ScalarElementwiseResults :
    Meets (slot 0) (fun _ => {}) unguarded false [dstOf (fS 2) .sq] (usesOf (fS 2) 2 .slq) (runsOn (.sadd (fS 2))) ∧
    Meets (slot 0) (fun _ => {}) unguarded false [dstOf (fS 1) .sq] (usesOf (fS 1) 1 .slq) (runsOn (.sclz (fS 1))) ∧
    Meets (slot 0) (fun _ => {}) unguarded false [dstOf (fS 1) .sq] (usesOf (fS 1) 1 .slq) (runsOn (.scvt (fS 1))) :=
  ⟨meets (by decide), meets (by decide), meets (by decide)⟩

def fI (d : Operand) : IForm := { ty := .n32, var := 0, pg := 0, pn := false, nw := false, dst := d, imm := 5, pfx := Pfx.none }
def withX (f : VForm) (x : BitVec 9) : VForm := { f with x := x }

def onward (s : State) (i : Instr) : Bool := goes (fun _ => true) (exec i s)
/-- What SETF asks of its operand: no reserved bit, and no reserved NSEL when that field is selected. -/
def fmtCheck (x : BitVec 9) (xs : List Src) : Option FaultInfo :=
  let a := (xs.headD fun _ => 0) 0
  if a.extractLsb' 24 40 ≠ 0 || (x.getLsbD 3 && 1 < (a.extractLsb' 4 4).toNat) then some (illegalOperand 6 27 a.toNat) else none

theorem witness_ScalarMovesAndSetf :
    Meets (slot 0) (fun _ => {}) unguarded false [dstOf (fS 1) .sq] (usesOf (fS 1) 1 .slq) (runsOn (.smov (fS 1))) ∧
    Meets (slot 0) (fun _ => {}) unguarded false [dstOf (fS 3) .sq] (usesOf (fS 3) 3 .slq)
      (fun c t g h xs => decide (xs.length = 3) && runsOn (.ssel (fS 3)) c t g h xs) ∧
    Meets (slot 0) (fun _ => {}) unguarded false [⟨36, .s 8, .sq, 1⟩] [] (runsOn (.smovi (fI (.s 8)))) ∧
    Meets (slot 0) (fun _ => {}) unguarded false [⟨36, .s 8, .onlyS, 1⟩] [] (runsOn (.saddi (fI (.s 8)))) ∧
    Meets (slot 0) (fun _ => {}) unguarded false [dstOf (fS 1) .vsq] [] (runsOn (.srd (fS 1))) ∧
    Meets (slot 0) (fun _ => {}) unguarded false [dstOf (fV 1) .vsq] [] (runsOn (.srd (fV 1))) ∧
    Meets (slot 0) (fun _ => {}) unguarded false [dstOf (fV 1) .vsq] [] (runsOn (.srd (withX (fV 1) 1))) ∧
    Meets (slot 0) (fun _ => {}) unguarded false [dstOf (fS 1) .vsq] [] (runsOn (.srd (withX (fS 1) 1))) ∧
    Meets (slot 0) (fun _ => { check := fmtCheck 8 }) unguarded false [dstOf (fS 1) .sq] (usesOf (fS 1) 1 .slq) (runsOn (.setf (withX (fS 1) 8))) ∧
    Has (State.editG (slot 0) fun g => g.setSreg 1 0x20) (fun c => decide (unguarded c ≠ 0) &&
      decide (([dstOf (fS 1) .sq] ++ usesOf (fS 1) 1 .slq).findSome? (Use.fault c.g) = none) && decide (c.g.pending = []) &&
      (fmtCheck 8 [fun _ => c.g.sreg 1]).isSome && onward c.s (.setf (withX (fS 1) 8))) :=
  ⟨meets (by decide), meets (by decide), meets (by decide), meets (by decide), meets (by decide), meets (by decide), meets (by decide),
    meets (by decide), meets (by decide), next_runs (by decide)⟩

theorem witness_VectorElementwiseResults :
    Meets (slot 0) (fun _ => {}) unguarded false [dstOf (fV 1) .vq] (usesOf (fV 1) 1 .vslq) (runsOn (.vnot (fV 1))) ∧
    Meets (slot 0) (fun _ => {}) unguarded false [dstOf (fV 2) .vq] (usesOf (fV 2) 2 .vslq) (runsOn (.vadd (fV 2))) ∧
    Meets (slot 0) (fun _ => {}) unguarded false [dstOf (fV 3) .vq] (usesOf (fV 3) 3 .vslq) (runsOn (.vfma (fV 3))) :=
  ⟨meets (by decide), meets (by decide), meets (by decide)⟩

theorem witness_VectorMovesAndConversions :
    Meets (slot 0) (fun _ => {}) unguarded false [dstOf (fV 1) .vq] (usesOf (fV 1) 1 .vslq) (runsOn (.vmov (fV 1))) ∧
    Meets (slot 0) (fun _ => {}) unguarded false [⟨36, .v 8, .vq, 1⟩] [] (runsOn (.vmovi (fI (.v 8)))) ∧
    Meets (slot 0) (fun _ => {}) unguarded false [dstOf (fV 2) .vq] (usesOf (fV 2) 2 .vslq)
      (fun c t g h xs => decide (xs.length = 2) && runsOn (.vsel (fV 2)) c t g h xs) ∧
    Meets (slot 0) (fun _ => {}) unguarded false [dstOf (fV 1) .vq] (usesOf (fV 1) 1 .vslq) (runsOn (.vcvt (fV 1))) ∧
    Meets (slot 0) (fun _ => {}) unguarded false [dstOf (fV 1) .vq] (packUses (fV 1)) (runsOn (.vpack (fV 1))) ∧
    Meets (slot 0) (fun _ => {}) unguarded false [dstOf (fV 1) .vq] (usesOf (fV 1) 1 .vslq) (runsOn (.vunpk (fV 1))) :=
  ⟨meets (by decide), meets (by decide), meets (by decide), meets (by decide), meets (by decide), meets (by decide)⟩

/-- The third mask register as KD, and the others 0. -/
def toMask (f : VForm) : VForm := { f with dst := .v 0, x := 0x0C0 }

theorem witness_MaskOpcodesComplete :
    xKD (toMask (fV 2)).x ≠ 0 ∧ xKD (fV 2).x = 0 ∧
    Meets (slot 0) (fun _ => {}) unguarded false [] [] (runsOn (.kand (toMask (fV 2)))) ∧
    Meets (slot 0) (fun _ => {}) unguarded false [] (usesOf (fS 1) 1 .slq) (runsOn (.kmovSk (toMask (fS 1)))) ∧
    Meets (slot 0) (fun _ => {}) unguarded false [] (usesOf (fV 2) 2 .vslq)
      (fun c t g h xs => decide (xs.length = 2) && runsOn (.vcmp (toMask (fV 2))) c t g h xs) ∧
    Meets (slot 0) (fun _ => {}) unguarded false [dstOf (fS 1) .sq] [] (runsOn (.kmovKs (fS 1))) :=
  ⟨by decide, by decide, meets (by decide), meets (by decide), meets (by decide), meets (by decide)⟩

theorem witness_CrossLaneResults :
    Meets (slot 0) (fun c => { check := fun xs => subFault .n32 (lanes (unguarded c)) (xs.tail.headD fun _ => 0) }) unguarded false
      [dstOf (fV 2) .vq] [⟨27, .v 1, .vl, 1⟩, ⟨18, .v 2, .vsl, 1⟩] (runsOn (.vshfl (fV 2))) ∧
    Has (State.editG (slot 0) fun g => g.setSreg 2 2) (fun c => decide (lowest (unguarded c) = some 0) &&
      decide (([dstOf (fV 2) .vq] ++ [⟨27, .v 1, .vl, 1⟩, ⟨18, .s 2, .vsl, 1⟩] : List Use).findSome? (Use.fault c.g) = none) &&
      decide (c.g.pending = []) && decide (2 ≤ selSub (c.g.sreg 2)) && onward c.s (.vshfl { fV 2 with sb := .s 2 })) ∧
    Meets (slot 0) (fun c => { check := fun xs => subFault .n32 [(lowest (unguarded c)).getD 0] (xs.tail.headD fun _ => 0) }) unguarded false
      [dstOf (fV 2) .vsq] [⟨27, .v 1, .vl, 1⟩, ⟨18, .s 2, .slq, 1⟩] (runsOn (.vbcast { fV 2 with sb := .s 2 })) ∧
    Meets (slot 0) (fun _ => {}) unguarded false [dstOf (fS 1) .vsq] [⟨27, .v 1, .vl, 1⟩] (runsOn (.vballot { fS 1 with sa := .v 1 })) ∧
    Meets (slot 0) (fun _ => {}) unguarded false [dstOf (fV 1) .vsq] [⟨27, .v 1, .vl, 1⟩] (runsOn (.vredx (fV 1))) ∧
    Meets (slot 0) (fun _ => {}) unguarded false [dstOf (fV 1) .onlyV] [⟨27, .v 1, .vl, 1⟩] (runsOn (.vscan (fV 1))) :=
  ⟨meets (by decide), next_runs (by decide), meets (by decide), meets (by decide), meets (by decide), meets (by decide)⟩

theorem witness_SpecialFunctionsPend :
    Meets (slot 0) (fun _ => {}) unguarded false [dstOf (fV 1) .vq] (usesOf (fV 1) 1 .vslq) (runsOn (.vrcp { fV 1 with ty := .f32 })) ∧
    Meets (bound 3 0xC200 (bound 2 0x8100 (slot 0))) (fun _ => {}) unguarded false
      [⟨36, .q 2, .vq, 1⟩] (usesOf (fV 2) 2 .vslq) (runsOn (.vfdiv { fV 2 with ty := .f32, dst := .q 2 })) :=
  ⟨meets (by decide), meets (by decide)⟩

theorem witness_IntegerElementArithmetic :
    ElemType.isInt .s8 = true ∧ 0x80 < 2 ^ ElemType.width .s8 ∧ 0xFF < 2 ^ ElemType.width .s8 ∧ intOf .s8 0x80 = -2 ^ 7 ∧ intOf .s8 0xFF = -1 ∧
    ElemType.isSigned .s8 = true ∧ ElemType.isInt .n8 = true ∧ ElemType.isSigned .n8 = false := by decide

theorem witness_ShiftsAndRotates :
    Meets (slot 0) (fun _ => {}) unguarded false [dstOf (fV 2) .vq] (usesOf (fV 2) 2 .vslq) (runsOn (.vshl (fV 2))) ∧
    Meets (slot 0) (fun _ => {}) unguarded false [dstOf (fS 2) .sq] (usesOf (fS 2) 2 .slq) (runsOn (.sshr (fS 2))) :=
  ⟨meets (by decide), meets (by decide)⟩

theorem witness_RoundingIsDirectedOrNearest : Fmt.bf16 ∈ [Fmt.f64, .f32, .f16, .bf16] ∧ (3 : Nat) ≠ 0 := by decide

theorem witness_DotProductsSumExactly : ElemType.f32 = .s32 ∨ ElemType.f32 = .f32 := by decide

/-! ## Hypotheses that can be met: control and faults -/

/-- One page of a megabyte at address 0 that function 0 may read, write and execute, with one object over it. -/
def mapped (s : State) : State :=
  let t : TlbEntry := { vf := 0, va := 0, size := 2 ^ 20, pa := 0, tgt := 0, wr := true, ex := true, dirty := true, enc := false, key := 0 }
  let o : ObjEntry := { vf := 0, obj := 0, bits := BitVec.ofNat 128 (256 * 2 ^ 44 + 0xFF * 2 ^ 36 + 1) }
  let s := s.setVf 0 { Vf.reset with xroot := 1, otdesc := BitVec.ofNat 128 (2 ^ 64) }
  let s := s.setCore 0 { Core.reset with tlb := [t], objects := [o] }
  s.setDie 0 { Die.reset with tlb := [t] }

/-- The group with a capability to the whole object in register 1, one without PRIVATE, and one to its own words in register 15. -/
def armed (s : State) : State :=
  State.editG (mapped s) fun g => (g.setCap 1 (Cap.make 0 0 0 255 0xDF false)).setCap 15 (Cap.make 0 0 0 15 0x23 false)

def deep (s : State) : State := State.editL s fun l => { l with hdr := { l.hdr with depth := 4, privW := 64, sems := 4, phasers := 4, ceil := 16384 } }
def fB (m : BitVec 2) (kc : BitVec 3) (kn : Bool) : BForm := { target := 4, join := 6, kc := kc, kn := kn, bmode := m, cnt := 5 }
/-- The lanes that a branch takes. -/
def taken (f : BForm) (c : Ctx) : W64 :=
  let k := c.g.kreg c.p.mask f.kc.toNat
  c.p.mask &&& (if f.kn then ~~~k else k)
def masked (s : State) : State := State.editG s fun g => { g with masks := [(2, 1)] }
/-- A role record of `n` blocks at address 0. -/
def role (n : Nat) (s : State) : State := { s with mem := Memory.writeN s.mem 0 [5, 0, 0, 0, 0, 0, 0, 0, BitVec.ofNat 8 n] }
def fRole : VForm := { fS 1 with dst := .v 0, sb := .v 0, x := 1 }

/-- A group of `m` blocks meets a role record of `n` blocks. -/
def Exchanges (n m : Nat) : Prop :=
  Meets (role n (deep (State.editG (armed (slot 0)) fun g => { g with allot := 8 * m }))) (fun _ => {}) (fun c => c.p.mask) true []
    [⟨27, .s 1, .slq, 1⟩] (fun c t g h xs =>
      let d := c.put t g
      d.g.single && (match d.resolve .write 1 (g.cap 1) (rRead + rWrite) 16 16 [(0, ((xs.headD fun _ => 0) 0).toNat)] with
        | (t0, .ok [y]) => (match t0.readNow g false clsRequest 16 [y] with
            | .ok t1 => decide (t1.badFor g false y.cell 16 0 y.va = none) && (decide (n ≤ m) || !Ctx.claimRefused { d with s := t1 } (n - m)) &&
                (match d.exchange t1 h y (roleWord (g.allot / 8) g.prio g.entry) with | .ok _ _ => true | _ => false)
            | .error _ => false)
        | _ => false) && runsOn (.rolesw fRole) c t g h xs)

theorem witness_BranchesLoopsAndRoles :
    Has (slot 0) (fun c => decide (taken (fB 0 2 false) c = 0) && onward c.s (.br (fB 0 2 false))) ∧
    Has (slot 0) (fun c => decide (taken (fB 0 0 false) c = c.p.mask) && onward c.s (.br (fB 0 0 false))) ∧
    Has (State.editG (masked (slot 0)) fun g => { g with stack := 2 })
      (fun c => decide (taken (fB 0 2 false) c ≠ 0) && decide (taken (fB 0 2 false) c ≠ c.p.mask) &&
        decide (c.launch.hdr.depth < c.g.stack + c.g.diverges c.k)) ∧
    Has (masked (slot 0)) (fun c => decide (taken (fB 0 2 false) c ≠ 0) && decide (taken (fB 0 2 false) c ≠ c.p.mask) &&
        decide (c.g.stack + c.g.diverges c.k ≤ c.launch.hdr.depth) && onward c.s (.br (fB 0 2 false)) && onward c.s (.jmp (fB 0 0 false))) ∧
    Has (State.editG (slot 0) fun g => { g with pending := [pendingOn (.sreg 5) .load] }) (fun c =>
      c.g.pending.any (fun p => p.dst = .sreg 5) && onward c.s (.loop (fB 0 0 false))) ∧
    Has (slot 0) (fun c => decide (c.p.mask ≠ 0) && decide (c.g.sreg 5 = 0) && onward c.s (.loop (fB 0 0 false))) ∧
    Has (State.editG (slot 0) fun g => g.setSreg 5 1) (fun c => decide (c.g.sreg 5 = 1) && onward c.s (.loop (fB 0 0 false))) ∧
    Has (State.editG (slot 0) fun g => g.setSreg 5 2) (fun c => decide (c.g.sreg 5 = 2) && onward c.s (.loop (fB 0 0 false))) ∧
    Exchanges 8 8 ∧ Exchanges 8 9 ∧ Exchanges 9 8 :=
  ⟨next_runs (by decide), next_runs (by decide), next_runs (by decide), next_runs (by decide), next_runs (by decide),
    next_runs (by decide), next_runs (by decide), next_runs (by decide), meets (by decide), meets (by decide), meets (by decide)⟩

theorem witness_DivergencePushesJoinEntry :
    (slot 0).groups.map (fun g => g.path? (otherSlot .s0)) = [none] ∧
    (State.editG (slot 0) fun g => { g with p1 := g.p0 }).groups.map (fun g => (g.path? (otherSlot .s0)).isSome) = [true] := by decide

theorem witness_ExitsAndAllotments :
    Has (slot 0) (fun c => decide (c.enabled 0 true = 0)) ∧
    Has (State.editG (slot 0) fun g => { g with masks := [(1, 1)] }) (fun c => decide (c.enabled 1 false ≠ 0) && decide (c.g.lateAtExit = none) &&
      decide (c.g.launched &&& ~~~(c.g.exited ||| c.enabled 1 false) ≠ 0) && onward c.s (.exit { fV 1 with pg := 1 })) ∧
    Has (slot 0) (fun c => decide (c.g.launched &&& ~~~(c.g.exited ||| unguarded c) = 0) && decide (c.g.pending = []) &&
      !c.s.opsOf c.g.uid c.g.core && decide (c.g.decl = none) && onward c.s (.exit (fV 1))) ∧
    Has (slot 0) (fun c => decide (c.p.mask ≠ 0) && c.g.single && onward c.s (.reggive (withX (fV 1) 7)) && decide (8 * (7 + 1) ≤ c.g.allot) &&
      decide (c.g.allot < 8 * (63 + 1)) && c.claimRefused 1) ∧
    Has (State.editG (slot 0) fun g => { g with stack := 1 }) (fun c => !c.g.single) ∧
    Has (deep (State.editG (slot 0) fun g => { g with allot := 64 })) (fun c => !c.claimRefused 7 &&
      (match c.s.claim c.g 7 with | .ok _ _ => true | _ => false) && onward c.s (.regclaim (withX (fV 1) 7))) :=
  ⟨next_runs (by decide), next_runs (by decide), next_runs (by decide), next_runs (by decide), next_runs (by decide), next_runs (by decide)⟩

def fY (sel : BitVec 12) (dst sa : Operand) : SForm :=
  { pg := 0, pn := false, nw := false, dst := dst, sa := sa, sel := sel, imm := 3, pfx := Pfx.none }
def inRoutine (r : Routine) (s : State) : State := State.editG s fun g => { g with p0 := g.p0.map fun p => { p with routine := r } }

theorem witness_SystemOpcodesComplete :
    Has (slot 0) (fun c => decide (unguarded c ≠ 0) && onward c.s (.nop (fV 0)) && onward c.s (.bkpt (fY 0 (.v 0) (.v 0)))) ∧
    Has (slot 0) (fun c => decide (c.enabled 0 true = 0)) ∧
    Has (inRoutine .save (slot 0)) (fun c => decide (c.p.routine = .save) && onward c.s (.tretSave (fY 0 (.v 0) (.v 0)))) ∧
    Has (inRoutine .rest (slot 0)) (fun c => decide (c.p.routine = .rest) && onward c.s (.tretRest (fY 0 (.v 0) (.v 0)))) ∧
    Meets (slot 0) (fun _ => { always := false }) unguarded true [] (sysUse (fY 0 (.v 0) (.s 3))) (runsOn (.trap (fY 0 (.v 0) (.s 3)))) ∧
    Meets (slot 0) (fun _ => { always := false }) unguarded false [] [] (runsOn (.datum (fY 0 (.v 0) (.v 0)))) ∧
    Meets (slot 0) (fun _ => { always := false }) unguarded false [⟨36, .s 4, .sq, 1⟩] [] (runsOn (.datum (fY 0 (.s 4) (.v 0)))) ∧
    Meets (slot 0) (fun _ => { always := false }) unguarded true [] [⟨27, .s 3, .sl, 1⟩]
      (fun c t g h xs => decide (((xs.headD fun _ => 0) 0).toNat ≤ t.time.toNat) && runsOn (.sleept (fY 0 (.v 0) (.s 3))) c t g h xs) ∧
    Meets (State.editG (slot 0) fun g => g.setSreg 3 9) (fun _ => { always := false }) unguarded true [] [⟨27, .s 3, .sl, 1⟩]
      (fun c t g h xs => !c.r.woken && decide (t.time.toNat < (t.time + (xs.headD fun _ => 0) 0).toNat) &&
        runsOn (.sleept (fY 1 (.v 0) (.s 3))) c t g h xs) :=
  ⟨next_runs (by decide), next_runs (by decide), next_runs (by decide), next_runs (by decide), meets (by decide), meets (by decide),
    meets (by decide), meets (by decide), meets (by decide)⟩

theorem witness_TakingAFaultStopsTheGroup :
    (FaultInfo.mk' 0x0001 1).disposition = .stop ∧ (FaultInfo.mk' 0x000E 0).disposition = .resumable ∧
    (FaultInfo.mk' 0x0020 0).disposition = .park ∧ State.reset.atDebugPort (FaultInfo.mk' 0x0001 1) = false ∧
    Has (slot 0) (fun c => decide (c.g.run = some c.r) && decide (c.g.path? c.r.path = some c.p) && decide (c.g.pending = []) &&
      !(c.s.parcelOf c.g).due) ∧
    Has (State.editG (slot 0) fun g => { g with pending := [pendingOn .nothing .load] }) (fun c => decide (c.g.pending ≠ []) &&
      !(c.s.parcelOf c.g).due) ∧
    Has { slot 0 with parcels := (slot 0).parcels.map fun p => { p with due := true } } (fun c =>
      decide (c.g.run = some c.r) && (c.s.parcelOf c.g).due && !(c.s.parcelOf c.g).committed) :=
  ⟨by decide, by decide, by decide, by decide, next_runs (by decide), next_runs (by decide), next_runs (by decide)⟩

/-- Function 0 with a fault ring of 64 records at address 0x1000. -/
def ringed (s : State) : State := s.setVf 0 { s.vf 0 with fqcfg := BitVec.ofNat 64 (2 ^ 63 + 0x1000 + 6) }
def aRecord (code : Nat) (o : Owner) : FaultRecord :=
  { info := .mk' code 0, time := 0, clause := 0, slot := 0, group := 0, core := 0, die := 0, seq := 0, launch := 0, state := 0, vf := 0, queue := 0,
    owner := o }

theorem witness_PostedRecordReachesItsRing :
    (ringed State.reset).ringReady 0 = true ∧ (State.reset.recordCrosses (aRecord 2 .nobody)).isSome = true ∧
    ((State.reset.setLink 4 { State.reset.link 4 with retrain := true }).recordCrosses (aRecord 2 .nobody)).isNone = true ∧ ((ringed State.reset).vf 0).heldRec = [] ∧ ((ringed State.reset).vf 0).stalled = [] ∧
    State.reset.ringReady 0 = false ∧ (List.replicate 64 0).length = 64 := by decide

/-- Function 0 with a record that waits, and the group stopped on it. -/
def stoppedOn (code : Nat) (f : Vf → Vf) : State :=
  let s := ringed (State.editG (slot 0) fun g => { g with status := .stopped (some 0) })
  s.setVf 0 (f { s.vf 0 with records := [aRecord code (.group 2)] })

theorem witness_FaultQueueEventsComplete :
    (let s := stoppedOn 1 fun v => { v with heldRec := [0] }
     (s.vf 0).heldRec = [0] ∧ s.ringReady 0 = true ∧ (s.record? 0 0).isSome = true ∧ onward s (.faultRecordDeliver 0) = true) ∧
    (let s := stoppedOn 1 fun v => { v with stalled := [aRecord 2 .nobody] }
     (s.vf 0).heldRec = [] ∧ (s.vf 0).stalled ≠ [] ∧ (s.recordCrosses (aRecord 2 .nobody)).isSome = true ∧ onward s (.faultRecordDeliver 0) = true) ∧
    (let s := stoppedOn 1 id
     (s.record? 0 0).isSome = true ∧ ((s.setRecord 0 0 1).parcelBehind (.group 2)) = some 1 ∧ onward s (.fqactEnd 0 0) = true) ∧
    (let s := stoppedOn 0x000E id
     (s.group? 2).map (fun g => g.status) = some (.stopped (some 0)) ∧ (s.record? 0 0).map (fun r => r.info.code) = some 0x000E ∧
      onward s (.fqactResume 0 0) = true) ∧
    (let s := stoppedOn 0x000F id
     (s.record? 0 0).map (fun r => (r.info.code, r.info.cause)) = some (0x000F, 0) ∧ (s.group? 2).map (fun g => g.dbg.bkpt) = some false ∧
      onward s (.fqactResume 0 0) = true) := by
  refine ⟨⟨?_, ?_, ?_, ?_⟩, ⟨?_, ?_, ?_⟩, ⟨?_, ?_, ?_⟩, ⟨?_, ?_, ?_⟩, ⟨?_, ?_, ?_⟩⟩ <;> decide

/-! ## Hypotheses that can be met: memory and synchronization -/

theorem witness_CapabilityChecksInOrder :
    let s := mapped State.reset
    let k := Cap.make 0 0 0 255 0xDF false
    k.isPrivate = false ∧ (s.capCheck (some 0) 0 { k with tag := false } 1 0 8 8).2 = .error 4 ∧
    (s.capCheck (some 0) 0 (Cap.make 0 0 0 255 0xDF true) 1 0 8 8).2 = .error 3 ∧
    (s.capCheck (some 0) 0 (Cap.make 0 0 0 255 0xDE false) 1 0 8 8).2 = .error 2 ∧
    (s.capCheck (some 0) 0 k 1 (2 ^ 20 - 7) 8 8).2 = .error 1 ∧ (s.capCheck (some 0) 0 (Cap.make 1 0 0 255 0xDF false) 1 0 8 8).2 = .error 5 ∧
    (s.capCheck (some 0) 0 k 1 (2 ^ 20 - 4) 4 8).2 = .error 6 ∧ (s.capCheck (some 0) 0 k 1 (2 ^ 20 - 8) 8 8).2 = .ok (2 ^ 20 - 8) := by decide

def fM (data : Operand) (cap : BitVec 4) : MForm := plainM .n64 data cap (some (.s 5)) 0
/-- The points that the lanes `ls` of a slot name through a capability. -/
def points (f : MForm) (g : Group) (i : Src) (ls : List Nat) : List (Nat × Nat) :=
  ls.map fun l => (l, elemAddr (g.cap f.cap.toNat) (i l) f.ofs.toInt (elemBytes f.ty))
/-- The accesses of a slot pass their checks, through a capability or in the group's own object. -/
def passes (f : MForm) (kind : Access) (need : Nat) (lo : Nat) (i : Instr) (one : Bool) (c : Ctx) (t : State) (g h : Group) (xs : List Src) : Bool :=
  let ls := if one then (lanes (unguarded c)).take 1 else lanes (unguarded c)
  let src := idxSrc f (xs.drop lo)
  (match (c.put t g).resolve kind f.cap.toNat (g.cap f.cap.toNat) need (elemBytes f.ty) (elemBytes f.ty) (points f g src ls) with
    | (u, .ok as) => (u.loadWays g (as.map fun x => (x.lane, u.loadSource g x (elemBytes f.ty)))).all u.roomOn && u.roomFor g clsRequest as &&
        decide (g.acks + u.farCount g as ≤ Config.ackLimit)
    | _ => false) && decide (h.loads < Config.loadLimit) && !c.launch.hdr.sub && !(g.cap f.cap.toNat).isPrivate && decide (g.loads < Config.loadLimit) && !g.loadsOf (unguarded c) && runsOn i c t g h xs
def passesOwn (f : MForm) (need : Nat) (lo : Nat) (i : Instr) (one : Bool) (c : Ctx) (t : State) (g h : Group) (xs : List Src) : Bool :=
  let ls := if one then (lanes (unguarded c)).take 1 else lanes (unguarded c)
  let src := idxSrc f (xs.drop lo)
  answered ((c.put t g).ownAccess f.cap.toNat (g.cap f.cap.toNat) need (some (elemBytes f.ty)) (points f g src ls)
    (privatePoints (points f g src ls))) && (g.cap f.cap.toNat).isPrivate && runsOn i c t g h xs
/-- The same of words of the group's own object. -/
def passesWords (f : MForm) (need : Nat) (lo : Nat) (i : Instr) (c : Ctx) (t : State) (g h : Group) (xs : List Src) : Bool :=
  let ws := (lanes (unguarded c)).map fun l => (l, elemIndex (idxSrc f (xs.drop lo) l) f.ofs.toInt, 0)
  answered ((c.put t g).ownAccess f.cap.toNat (g.cap f.cap.toNat) need none (ws.map fun w => (w.1, 8 * w.2.1)) ws) && runsOn i c t g h xs

theorem witness_LoadsAndStoresIssue :
    Meets (deep (armed (slot 0))) (fun _ => { always := false, fence := fenceOf (fM (.v 8) 1) }) unguarded false [dataUse (fM (.v 8) 1) .onlyV] (idxUse (fM (.v 8) 1) .vsl)
      (passes (fM (.v 8) 1) .read rRead 0 (.ld (fM (.v 8) 1)) false) ∧
    Meets (deep (armed (slot 0))) (fun _ => { always := false }) unguarded false [dataUse (fM (.s 8) 1) .onlyS] (idxUse (fM (.s 8) 1) .sl)
      (passes (fM (.s 8) 1) .read rRead 0 (.lds (fM (.s 8) 1)) true) ∧
    Meets (deep (armed (slot 0))) (fun _ => { always := false }) unguarded false [dataUse (fM (.v 8) 15) .onlyV] (idxUse (fM (.v 8) 15) .vsl)
      (passesOwn (fM (.v 8) 15) rRead 0 (.ld (fM (.v 8) 15)) false) ∧
    Meets (deep (armed (slot 0))) (fun _ => { always := false }) unguarded false [dataUse (fM (.s 8) 15) .onlyS] (idxUse (fM (.s 8) 15) .sl)
      (passesOwn (fM (.s 8) 15) rRead 0 (.lds (fM (.s 8) 15)) true) ∧
    Meets (deep (armed (slot 0))) (fun _ => { always := false }) unguarded false [dataUse (fM (.v 8) 15) .onlyV] (idxUse (fM (.v 8) 15) .vsl)
      (passesWords (fM (.v 8) 15) (rPrivate + rRead) 0 (.ldp (fM (.v 8) 15))) ∧
    Meets (deep (armed (slot 0))) (fun c => { always := false, fence := fenceOf (fM (.v 8) 1) || c.g.bufferFull c.p.mask (lanes (unguarded c)) }) unguarded true []
      (dataUse (fM (.v 8) 1) .vslq :: idxUse (fM (.v 8) 1) .vsl) (passes (fM (.v 8) 1) .write rWrite 1 (.st (fM (.v 8) 1)) false) ∧
    Meets (deep (armed (slot 0))) (fun c => { always := false, fence := fenceOf (fM (.v 8) 1) || c.g.bufferFull c.p.mask (lanes (unguarded c)) }) unguarded true []
      (dataUse (fM (.v 8) 15) .vslq :: idxUse (fM (.v 8) 15) .vsl) (passesOwn (fM (.v 8) 15) rWrite 1 (.st (fM (.v 8) 15)) false) ∧
    Meets (deep (armed (slot 0))) (fun c => { always := false, fence := fenceOf (fM (.v 8) 1) || c.g.bufferFull c.p.mask ((lanes (unguarded c)).take 1) }) unguarded true []
      (dataUse (fM (.s 8) 1) .slq :: idxUse (fM (.s 8) 1) .sl) (passes (fM (.s 8) 1) .write rWrite 1 (.sts (fM (.s 8) 1)) true) ∧
    Meets (deep (armed (slot 0))) (fun c => { always := false, fence := fenceOf (fM (.v 8) 1) || c.g.bufferFull c.p.mask ((lanes (unguarded c)).take 1) }) unguarded true []
      (dataUse (fM (.s 8) 15) .slq :: idxUse (fM (.s 8) 15) .sl) (passesOwn (fM (.s 8) 15) rWrite 1 (.sts (fM (.s 8) 15)) true) ∧
    Meets (deep (armed (slot 0))) (fun c => { always := false, fence := c.g.bufferFull c.p.mask (lanes (unguarded c)) }) unguarded true []
      (dataUse (fM (.v 8) 15) .vslq :: idxUse (fM (.v 8) 15) .vsl) (passesWords (fM (.v 8) 15) (rPrivate + rWrite) 1 (.stp (fM (.v 8) 15))) :=
  ⟨meets (by decide), meets (by decide), meets (by decide), meets (by decide), meets (by decide), meets (by decide), meets (by decide),
    meets (by decide), meets (by decide), meets (by decide)⟩

def aStore : StoreEntry := { lane := 1, own := false, va := 8, n := 8, data := 5, hint := 0, reg := 1, clause := 0, slot := 0 }

theorem witness_QuantumCommitsInLaneOrder :
    (match commitAll 0 false [(aStore, 8)] State.reset Group.blank with | .ok _ _ => true | _ => false) = true ∧
    State.reset.remote 8 = false ∧ homeDie 8 = Group.blank.core / 48 ∧ homeDie (64 * 256) ≠ Group.blank.core / 48 ∧
    Group.blank.acks ≠ Config.ackLimit ∧
    State.reset.roomOn (State.reset.hopsOf (State.reset.storeOp Group.blank aStore 0 (64 * 256))) = true := by decide

theorem witness_AtomicsReplaceAndLeave :
    ElemType.n64 ∈ [ElemType.n32, .s32, .n64, .s64] ∧ 6 ≤ 6 ∧
    Meets (deep (armed (slot 0))) (fun _ => { always := false }) unguarded true [] (dataUse (fM (.v 8) 1) .vslq :: idxUse (fM (.v 8) 1) .vsl)
      (passes (fM (.v 8) 1) .atomic rAtomic 1 (.atom (fM (.v 8) 1)) false) ∧
    Meets (deep (armed (slot 0))) (fun _ => { always := false }) unguarded false [] (dataUse (fM (.v 8) 1) .onlyV :: idxUse (fM (.v 8) 1) .vsl)
      (passes (fM (.v 8) 1) .atomic rAtomic 1 (.atomr (fM (.v 8) 1)) false) ∧
    Meets (deep (armed (slot 0))) (fun _ => { always := false }) unguarded false []
      (dataUse (fM (.v 8) 1) .onlyV :: ⟨7, .v 9, .vsl, 1⟩ :: idxUse (fM (.v 8) 1) .vsl)
      (passes (fM (.v 8) 1) .atomic rAtomic 2 (.cas { fM (.v 8) 1 with pfx := { Pfx.none with d4 := some (.v 9) } }) false) :=
  ⟨by decide, by decide, meets (by decide), meets (by decide), meets (by decide)⟩

/-- A 2 × 8 tile of 32-bit elements behind handle 3, with the units of the parcel and of its core. -/
def tiled (s : State) : State :=
  State.editP s fun p => { p with unitsLead := 4, tiles := [(3, some { level := 0, core := 0, ty := .n32, rows := 2, cols := 8, pitch := 64, unitsRsv := 1, unitsFree := 0, units := [0], since := 0, byGroup := 0, data := [], poison := [] })] }
def fT (x : BitVec 9) (dst : Operand) (ty : ElemType) : VForm := plainV ty 0 dst (.s 1) (.s 2) (.v 0) x
/-- A capability that was sealed to the save area of 64 bytes. -/
def sealed (s : State) : State := State.editG s fun g => g.setCap 2 (Cap.make 0 0 0 15 0x23 true)

theorem witness_CapabilitiesAndTiles :
    Meets (armed (slot 0)) (fun _ => { always := false }) unguarded true [] (idxUse (fM (.v 3) 1) .sl)
      (fun c t g h xs => let k := g.cap 1
        k.tag && !k.sealedBit && hasRights k.rights rDerive && decide (idxSrc (fM (.v 3) 1) xs 0 = 0) && answered (narrow k true 0) &&
        runsOn (.cnarrow (fM (.v 3) 1)) c t g h xs && runsOn (.cnarrow { fM (.v 3) 1 with ty := .n8 }) c t g h xs) ∧
    Meets (sealed (armed (slot 0))) (fun _ => { always := false }) unguarded true [] (idxUse (fM (.v 3) 2) .sl)
      (fun c t g h xs => answered (saveSlot (g.cap 2) (idxSrc (fM (.v 3) 2) xs 0) 0) && !g.ownPoison.contains 0 &&
        runsOn (.csave (fM (.v 3) 2)) c t g h xs && runsOn (.cload (fM (.v 3) 2)) c t g h xs) ∧
    (answered (narrow (Cap.make 0 0x5000 2 3 0xFF false) true 0x1000) = true ∧
      (Cap.make 0 0x5000 2 3 0xFF false).page + (Cap.make 0 0x5000 2 3 0xFF false).upper < 2 ^ 36) ∧
    Meets (tiled (slot 0)) (fun c => { always := false, pre := tileFault c.parcel (fT 3 (.v 8) .n32), check := elemFault c.parcel (fT 3 (.v 8) .n32) (lanes (unguarded c)) })
      unguarded false [dstOf (fT 3 (.v 8) .n32) .vq] (usesOf (fT 3 (.v 8) .n32) 2 .vsl)
      (fun c t g h xs => decide (((c.put t g).parcel.tile? 3).map (fun z => (z.ty, z.poison)) = some (.n32, [])) && decide (h.loads < Config.loadLimit) &&
        runsOn (.tld (fT 3 (.v 8) .n32)) c t g h xs) ∧
    Meets (tiled (slot 0)) (fun c => { always := false, pre := tileFault c.parcel (fT 3 (.v 0) .n32), check := elemFault c.parcel (fT 3 (.v 0) .n32) (lanes (unguarded c)) })
      unguarded true [] (usesOf (fT 3 (.v 0) .n32) 2 .vsl ++ [⟨9, .v 0, .vslq, 1⟩])
      (fun c t g h xs => decide (xs.length = 3) && runsOn (.tst (fT 3 (.v 0) .n32)) c t g h xs) ∧
    Meets (State.editG (tiled (slot 0)) fun g => (g.setSreg 1 2).setSreg 2 8)
      (fun c => { always := false, pre := if (c.parcel.tile? 4).isSome then some (handleFault 0 4) else none,
                  check := fun xs => shapeFault .n32 0 (runAt xs 0).1 (runAt xs 0).2 }) unguarded true [] (usesOf (fT 4 (.v 0) .n32) 2 .sl)
      (fun c t g h xs => decide (xs.length = 2) && ((t.placeUnits (c.put t g).parcel 4 0 g.core (shapeUnits .n32 2 8)).isSome) &&
        runsOn (.talloc (fT 4 (.v 0) .n32)) c t g h xs) ∧
    Has (tiled (slot 0)) (fun c => decide (unguarded c ≠ 0) && (c.parcel.tile? 3).isSome && !c.s.handleBusy c.parcel 3 &&
      onward c.s (.tfree (fT 3 (.v 0) .n32))) :=
  ⟨meets (by decide), meets (by decide), by decide, meets (by decide), meets (by decide), meets (by decide), next_runs (by decide)⟩

/-- A list of 64 records, `n` of them pushed, whose descriptor stands at address 64. -/
def listed (n : Nat) (s : State) : State :=
  { s with mem := Memory.writeN s.mem 64 (bytesOfNat 64 (64 * 2 ^ 96 + n * 2 ^ 192)) }
def fL (data : Operand) : MForm := { fM data 1 with ofs := 8 }
/-- The descriptor is reached and in order, and admits `m` records or does not. -/
def reaches (f : MForm) (lo : Nat) (k : ListDesc → Bool) (i : Instr) (c : Ctx) (t : State) (g h : Group) (xs : List Src) : Bool :=
  (match (c.put t g).listRef f (unguarded c) (idxSrc f (xs.drop lo)) with
    | (u, .ok r) => decide ((c.put t g).wideStop f r.d = none) && k r.d && !u.subdivisible h &&
        answered ((c.put t g).recordCells u f r.d r.d.tail 8 .write).2 && answered ((c.put t g).recordCells u f r.d r.d.head 8 .read).2
    | _ => false) && decide (h.loads < Config.loadLimit) && runsOn i c t g h xs

theorem witness_WorkListsComplete :
    Meets (listed 56 (armed (slot 0))) (fun _ => { always := false }) unguarded true [] (dataUse (fL (.v 8)) .vslq :: idxUse (fL (.v 8)) .vsl)
      (reaches (fL (.v 8)) 1 (fun d => d.admits 8) (.wlpush (fL (.v 8)))) ∧
    Meets (listed 57 (armed (slot 0))) (fun _ => { always := false }) unguarded true [] (dataUse (fL (.v 8)) .vslq :: idxUse (fL (.v 8)) .vsl)
      (reaches (fL (.v 8)) 1 (fun d => !d.admits 8) (.wlpush (fL (.v 8)))) ∧
    Meets (listed 2 (armed (slot 0))) (fun _ => { always := false }) unguarded true [] (dataUse (fL (.v 8)) .vslq :: idxUse (fL (.v 8)) .vsl)
      (reaches (fL (.v 8)) 1 (fun d => d.admits 8) (.wlins (fL (.v 8)))) ∧
    Meets (listed 2 (armed (slot 0))) (fun _ => { always := false }) unguarded true [] (dataUse (fL (.v 8)) .vslq :: idxUse (fL (.v 8)) .vsl)
      (fun c t g h xs => (Tbl.get 0 (t.parcelOf h).resv 64 < 8) && reaches (fL (.v 8)) 1 (fun d => d.admits 8) (.wlcom (fL (.v 8))) c t g h xs) ∧
    Meets (State.editP (listed 2 (armed (slot 0))) fun p => { p with resv := [(64, 8)] }) (fun _ => { always := false }) unguarded true []
      (dataUse (fL (.v 8)) .vslq :: idxUse (fL (.v 8)) .vsl)
      (fun c t g h xs => decide (8 ≤ Tbl.get 0 (t.parcelOf h).resv 64) && reaches (fL (.v 8)) 1 (fun d => d.admits 8) (.wlcom (fL (.v 8))) c t g h xs) ∧
    Meets (listed 2 (armed (slot 0))) (fun _ => { always := false }) unguarded true [] (dataUse (fL (.s 8)) .slq :: idxUse (fL (.s 8)) .vsl)
      (fun c t g h xs => decide (((xs.headD fun _ => 0) 0).toNat ≤ 2 ^ 31) && reaches (fL (.s 8)) 1 (fun d => d.admits 0) (.wlres (fL (.s 8))) c t g h xs) ∧
    Meets (listed 2 (State.editG (armed (slot 0)) fun g => g.setSreg 8 63)) (fun _ => { always := false }) unguarded true []
      (dataUse (fL (.s 8)) .slq :: idxUse (fL (.s 8)) .vsl)
      (fun c t g h xs => decide (((xs.headD fun _ => 0) 0).toNat = 63) && reaches (fL (.s 8)) 1 (fun d => !d.admits 63) (.wlres (fL (.s 8))) c t g h xs) ∧
    Meets (listed 2 (armed (slot 0))) (fun _ => { always := false }) unguarded false [dataUse (fL (.v 8)) .onlyV] (idxUse (fL (.v 8)) .vsl)
      (reaches (fL (.v 8)) 0 (fun d => decide (d.count = 2)) (.wlpopb (fL (.v 8)))) ∧
    Meets (listed 2 (armed (slot 0))) (fun _ => { always := false }) unguarded false [dataUse (fL (.s 8)) .onlyS] (idxUse (fL (.s 8)) .vsl)
      (reaches (fL (.s 8)) 0 (fun d => decide (d.count = 2)) (.wlsize (fL (.s 8)))) :=
  ⟨meets (by decide +kernel), meets (by decide +kernel), meets (by decide +kernel), meets (by decide +kernel), meets (by decide +kernel), meets (by decide +kernel), meets (by decide +kernel),
    meets (by decide +kernel), meets (by decide +kernel)⟩

def fF (x : BitVec 9) : VForm := plainV .n8 0 (.v 0) (.v 0) (.v 0) (.v 0) x
def fQ (qd : BitVec 4) (arg : Operand) : QForm := plainQ .n8 qd 1 (.s 5) none arg
/-- The group's s5 and s6. -/
def operands (x y : W64) (s : State) : State := State.editG s fun g => (g.setSreg 5 x).setSreg 6 y
/-- Whether QBIND refuses a port and instance for queue 2. -/
def bindRefused (g : Group) (x : Nat) : Bool :=
  let out := [2, 4, 6, 9, 11, 13, 15].contains (x / 256)
  let instances := if x / 256 = 3 ∨ x / 256 = 4 then 4 else if 1 ≤ x / 256 ∧ x / 256 ≤ 15 then 1 else 0
  x / 256 ≠ 0 && (instances ≤ x % 256 || (out && (g.outputAt (x / 256) (x % 256)).any fun n => n ≠ 2))
/-- The check of QBIND's operand. -/
def bindCheck (c : Ctx) (xs : List Src) : Option FaultInfo :=
  let x := ((xs.headD fun _ => 0) 0).toNat
  if 2 ^ 14 ≤ x then some (illegalOperand 6 28 x) else if bindRefused c.g x then some (queueBinding 2 (c.g.queue 2).binding) else none
def binds (n : Nat) : Prop :=
  Meets (operands (BitVec.ofNat 64 n) 0 (slot 0)) (fun c => { always := false, access := true, check := bindCheck c }) unguarded true []
    [⟨28, .s 5, .sl, 1⟩] (runsOn (.qbind (fQ 2 (.v 0))))
/-- A bind to port and instance `n` that is refused in `s`. -/
def refuses (n : Nat) (s : State) : Prop :=
  Has (operands (BitVec.ofNat 64 n) 0 s) (fun c => decide (unguarded c ≠ 0) && decide (Use.fault c.g ⟨28, .s 5, .sl, 1⟩ = none) &&
    decide (c.g.pending = []) && decide (c.g.sreg 5 = BitVec.ofNat 64 n) && bindRefused c.g n && onward c.s (.qbind (fQ 2 (.v 0))))

theorem witness_FencesAndBindings :
    Meets (slot 0) (fun _ => { always := false, fence := true }) unguarded true [] [] (fun c t g h xs =>
      !t.drainsPending g && !t.nearPending g && decide (g.acks = 0) && decide (g.lateWrite = none) && g.loadsDone &&
        runsOn (.fence (fF 0x025)) c t g h xs && runsOn (.fence (fF 0x036)) c t g h xs) ∧
    Meets (State.editG (slot 0) fun g => { g with pending := [pendingOn .nothing .load] }) (fun _ => { always := false, fence := true })
      unguarded true [] [] (fun c t g h xs => !g.loadsDone && runsOn (.fence (fF 0x016)) c t g h xs) ∧
    binds 0 ∧ binds 0x303 ∧ binds 0x403 ∧ binds 0xF00 ∧ refuses 0x304 (slot 0) ∧ refuses 0x1000 (slot 0) ∧ refuses 0x403 (bound 3 0xC403 (slot 0)) :=
  ⟨meets (by decide +kernel), meets (by decide +kernel), meets (by decide +kernel), meets (by decide +kernel), meets (by decide +kernel),
    meets (by decide +kernel), next_runs (by decide +kernel), next_runs (by decide +kernel), next_runs (by decide +kernel)⟩

/-- The comparison of a WAITC of the word at address 0 with s8, as its watch. -/
def waits (k : Bool → Bool) (v : W64) : Prop :=
  Meets (State.editG (armed (slot 0)) fun g => g.setSreg 8 v) (fun _ => { always := false, fence := fenceOf (fM (.s 8) 1) }) unguarded true []
    (dataUse (fM (.s 8) 1) .slq :: idxUse (fM (.s 8) 1) .sl) (fun c t g h xs =>
      !c.r.woken && (match (c.put t g).resolve .read 1 (g.cap 1) rRead 8 8 [(0, elemAddr (g.cap 1) (idxSrc (fM (.s 8) 1) xs.tail 0) (ofs12 (fM (.s 8) 1)) 8)] with
        | (u, .ok [x]) => !u.deadHome x.cell && (match u.readNow g false clsControl 8 [x] with
            | .ok v => !v.poisoned x.cell 8 && decide (((v.die (homeDie x.cell)).slice (homeSlice x.cell)).queued = []) &&
                k (watchHolds v.mem { group := g.uid, path := c.k, lane := 0, vf := 0, va := x.va, cell := x.cell, ty := .n64, cond := 0, a := (xs.headD fun _ => 0) 0 })
            | .error _ => false)
        | _ => false) && runsOn (.waitc (fM (.s 8) 1)) c t g h xs)

def aWatch : Watch := { group := 2, path := .s0, lane := 0, vf := 0, va := 0, cell := 0, ty := .n64, cond := 0, a := 5 }
/-- The group waits with a watch of its own at the home of address 0. -/
def watched : State :=
  let s := State.editG (slot 0) fun g => { g with status := .waiting .watch }
  s.setDie 0 { Die.reset with slices := [(homeSlice 0, { Slice.empty with watches := [aWatch] })] }

/-- A phaser slot of the core's phaser 1 that names roles of X[7:6] on X[5:0]. -/
def fP (roles : BitVec 9) : VForm := plainV .n8 0 (.v 0) (.s 5) (.v 0) (.v 0) (roles * 64 + 1)
def withRole (sig wait : Bool) (s : State) : State :=
  let s := deep s
  let s := State.editP s fun p => { p with phasers := [(1, { phase := 3, sig := 1, wait := 1, arrived := 0, signext := 1, live := true })] }
  State.editG s fun g => { g with roles := [{ pkg := false, n := 1, sig := sig, wait := wait, counted := true, arrived := false }] }
/-- The group's phaser 1 of the package, on a die whose way to the control die carries flits. -/
def packaged (s : State) : State :=
  let s := operands 1 0 (deep s)
  { s.setVf 0 { s.vf 0 with prange := BitVec.ofNat 32 (4 * 2 ^ 16) } with phasers := [(1, { Phaser.clear with live := true })] }
/-- A registration that would pass 65,535. -/
def fullPhaser (f : VForm) (p : Phaser) : Bool :=
  65535 < p.sig + (if roleSig f && p.arrived = 0 then 1 else 0) || 65535 < p.signext + (if roleSig f then 1 else 0) ||
    65535 < p.wait + (if roleWait f then 1 else 0)
/-- What PHREG asks of the roles that the group has. -/
def phregRoles (f : VForm) (c : Ctx) (r : Role) (x : PhaserRef) : Option FaultInfo :=
  if (r.sig && roleSig f) || (r.wait && roleWait f) then some (illegalOperand 6 6 (roleBits f))
  else if x.pkg && !r.sig && !r.wait && 16 ≤ c.g.packagePhasers then some (illegalOperand 6 27 x.n)
  else if fullPhaser f (c.s.phaser c.g x.pkg x.n) then some (illegalOperand 6 x.pos x.n) else none
def phaserStart (f : VForm) (roles : Ctx → Role → PhaserRef → Option FaultInfo) (c : Ctx) : Start :=
  { always := false, fence := true, pre := c.phaserPre f,
    check := fun xs => (c.phaserRange (phaserRef f 0 xs)).or (roles c (c.g.role (phaserRef f 0 xs).pkg (phaserRef f 0 xs).n) (phaserRef f 0 xs)) }

def fSem (var : BitVec 2) (dst : Operand) : VForm := plainV .n8 var dst (.s 5) (.s 6) (.v 0) 2
def semStart (c : Ctx) : Start := { always := false, pre := c.semRange 0 2 }
def semsOf (x : W64) (s : State) : State := State.editP (deep s) fun p => { p with sems := [(2, x)] }

theorem witness_WaitsPhasersAndSemaphores :
    waits id 0 ∧ waits not 1 ∧
    Has (State.editR (slot 0) fun r => { r with woken := true }) (fun c => c.r.woken) ∧
    (∀ core ∈ [0, 48], let s := State.editG watched fun g => { g with core := core }
     ((s.die (homeDie 0)).slice (homeSlice 0)).watches = [aWatch] ∧
      ((s.group? 2).map fun g => (g.run.isSome, decide (g.core / 48 = homeDie 0))) = some (true, decide (core = 0)) ∧
      watchHolds (Memory.writeN s.mem 0 (bytesOfNat 8 5)) aWatch = true ∧ watchHolds (Memory.writeN s.mem 0 (bytesOfNat 8 6)) aWatch = false) ∧
    Meets (withRole false false (slot 0)) (phaserStart (fP 3) (phregRoles (fP 3))) unguarded false [] (phaserUse (fP 3) ++ [])
      (runsOn (.phreg (fP 3))) ∧
    (let f : VForm := { fP 3 with var := 1, x := 0xC0 }
     Meets (packaged (slot 0)) (phaserStart f (phregRoles f)) unguarded false [] (phaserUse f ++ []) (fun c t g h xs =>
      (t.crossNow clsControl (toControl (c.put t g).die ++ fromControl (c.put t g).die)).isSome && runsOn (.phreg f) c t g h xs)) ∧
    Meets (withRole true true (slot 0)) (phaserStart (fP 3) fun _ r _ =>
        if (roleSig (fP 3) && !r.sig) || (roleWait (fP 3) && !r.wait) then some (illegalOperand 6 6 (roleBits (fP 3))) else none)
      unguarded false [] (phaserUse (fP 3) ++ []) (runsOn (.phdrop (fP 3))) ∧
    Meets (withRole true false (slot 0)) (phaserStart (fP 0) fun _ r x => if r.sig then none else some (illegalOperand 6 x.pos x.n))
      unguarded false [] (phaserUse (fP 0) ++ []) (fun c t g h xs =>
        (match t.releaseWait h 3 with | .ok _ g' => decide (g' = h) | _ => false) && (h.role false 1).counted && !(h.role false 1).arrived &&
          runsOn (.pharr (fP 0)) c t g h xs) ∧
    Meets (withRole true false (slot 0)) (phaserStart { fP 0 with dst := .s 9 } fun _ r x => if r.sig then none else some (illegalOperand 6 x.pos x.n))
      unguarded false [dstOf { fP 0 with dst := .s 9 } .sq] (phaserUse (fP 0) ++ []) (runsOn (.pharr { fP 0 with dst := .s 9 })) ∧
    Meets (operands 2 0 (withRole false true (slot 0))) (phaserStart (fP 0) fun _ r x => if r.wait then none else some (illegalOperand 6 x.pos x.n))
      unguarded false [] (phaserUse (fP 0) ++ [⟨27, .s 5, .slq, 1⟩])
      (fun c t g h xs => (t.phaser h false 1).passed 2 && runsOn (.phwait (fP 0)) c t g h xs) ∧
    Meets (operands 3 0 (withRole false true (slot 0))) (phaserStart (fP 0) fun _ r x => if r.wait then none else some (illegalOperand 6 x.pos x.n))
      unguarded false [] (phaserUse (fP 0) ++ [⟨27, .s 5, .slq, 1⟩])
      (fun c t g h xs => !(t.phaser h false 1).passed 3 && runsOn (.phwait (fP 0)) c t g h xs) ∧
    (0 < 1 ∧ (slot 0).parcel? 1 ≠ none) ∧
    Meets (deep (slot 0)) semStart unguarded true [] (usesOf (fSem 2 (.v 0)) 2 .slq) (fun c t g h xs =>
      decide (((xs.headD fun _ => 0) 0).toNat < 2 ^ 32) && runsOn (.semset (fSem 2 (.v 0))) c t g h xs) ∧
    Meets (deep (slot 0)) semStart unguarded true [] (usesOf (fSem 0 (.v 0)) 1 .slq) (runsOn (.semset (fSem 0 (.v 0)))) ∧
    Meets (semsOf 0x300000003 (slot 0)) (fun c => { always := false, fence := true, pre := c.semRange 0 2 }) unguarded true [] []
      (fun c t g h xs => decide (g.lateSem 2 = none) && decide (t.sem h.parcel 2 = 0x300000003) && runsOn (.semwait (fSem 0 (.v 0))) c t g h xs) ∧
    Meets (semsOf 0x300000002 (slot 0)) (fun c => { always := false, fence := true, pre := c.semRange 0 2 }) unguarded true [] []
      (fun c t g h xs => !c.r.woken && runsOn (.semwait (fSem 0 (.v 0))) c t g h xs) ∧
    Meets (deep (slot 0)) semStart unguarded false [dstOf (fSem 1 (.s 9)) .vsq] [] (runsOn (.semrd (fSem 1 (.s 9)))) ∧
    (let s := State.editG (slot 0) fun g => { g with status := .waiting (.semaphore 2) }
     s.groups.map (fun g => (g.parcel, g.status)) = [(1, .waiting (.semaphore 2))] ∧ (s.parcel? 1).isSome = true) :=
  ⟨meets (by decide +kernel), meets (by decide +kernel), next_runs (by decide), by decide +kernel, meets (by decide), meets (by decide +kernel), meets (by decide),
    meets (by decide), meets (by decide),
    meets (by decide), meets (by decide), by decide, meets (by decide), meets (by decide), meets (by decide), meets (by decide), meets (by decide),
    by decide⟩

def fTv (ord : BitVec 2) : MForm := { fM (.s 6) 1 with ord := ord }
def tvCheck (c : Ctx) (xs : List Src) : Option FaultInfo :=
  let held := c.g.decl.getD Decl.open
  let n := ((xs.headD fun _ => 0) 0).toNat
  if held.submitted.isSome then some noDeclaration
  else if n = 0 || 2 ^ 32 < n then some (illegalOperand 6 36 n)
  else if 16 ≤ held.ranges || 4096 < (n + 255) / 256 then some (illegalOperand 6 36 n)
  else none
/-- A range of 300 bytes at address 0 is declared. -/
def declares (f : MForm) : Prop :=
  Meets (operands 0 300 (armed (slot 0))) (fun c => { always := false, fence := isRelease f.ord, check := tvCheck c }) unguarded true []
    (dataUse f .sl :: idxUse f .sl) (fun c t g h xs =>
      let k := c.put t g
      (match capLanes g.core k.vf 1 (g.cap 1) rTraverse 300 1 t [(0, elemAddr (g.cap 1) (idxSrc f xs.tail 0) f.ofs.toInt 1)] with
        | (u, .ok [(0, va)]) => ((Decl.open.add (tvBlocks va 300)).isSome) && !u.subdivisible h && h.loadsDone &&
            (match transLanes g.core k.vf .read u ((tvBlocks va 300).map fun b => (0, b * 256)) with
              | (u2, r) => decide (laneStop { g with decl := none } k.launch 256 r = none) && !u2.drainsPending h && !u2.nearPending h)
        | _ => false) && decide (h.acks = 0) && decide (h.lateWrite = none) && runsOn (.tvdecl f) c t g h xs)
def declared (n : Nat) (s : State) : State := State.editG s fun g => { g with decl := some { Decl.open with submitted := some n } }
def aDecl : TvDecl := { uid := 50, group := 2, parcel := 1, vf := 0, die := 0, beat := 0, order := 0, blocks := [1], placed := false, gone := false, record := none, empties := [], lost := none }
/-- The declaration has its one block. -/
def granting : State :=
  let d : Die := { Die.reset with slices := [(0, { Slice.empty with grants := [{ decl := 50, vf := 0, block := 1 }] })] }
  { (slot 0).setDie 0 d with decls := [{ aDecl with placed := true }] }

theorem witness_TraverseOpcodesComplete :
    declares (fTv 0) ∧ declares (fTv 2) ∧ isRelease 2 = true ∧
    Has (declared 50 granting) (fun c => c.s.granted 50 && decide (unguarded c ≠ 0) &&
      onward c.s (.tvwait (fV 0)) && (match c.s.release c.g c.k 6 with | .ok t g => !t.subdivisible g | _ => false) && onward c.s (.tvend (fV 0))) ∧
    Has (declared 50 { slot 0 with decls := [aDecl] }) (fun c => !c.s.granted 50 && onward c.s (.tvwait (fV 0))) :=
  ⟨meets (by decide +kernel), meets (by decide +kernel), by decide, next_runs (by decide +kernel), next_runs (by decide +kernel)⟩

/-- A launch ring of sixteen entries for queue 0 of function 0, and a descriptor of zeros at address 0. -/
def ringAt (base : Nat) (s : State) : State :=
  let s := State.editL (armed s) fun l => { l with kernels := 1 }
  s.setVf 0 ((s.vf 0).setQueue 0 { LaunchQueue.reset with cfg := BitVec.ofNat 64 (2 ^ 63 + base + 4) })
def launching (s : State) : State := ringAt 0x4000 s
def fLaunch : QForm := { fQ 0 (.s 16) with desc := .s 5 }
def descCheck (a : Nat) (arg : Operand) (xs : List Src) : Option FaultInfo :=
  let d := ((xs.headD fun _ => 0) 0).toNat
  if d % 64 ≠ 0 then some (illegalOperand 6 28 d) else if 48 < a then some (illegalOperand 6 5 arg.code.toNat) else none
/-- The descriptor of a fill of eight bytes at address 0x200, which stands at address 0x400. -/
def filling (s : State) : State :=
  let s := bound 3 0xC400 (bound 2 0x8300 (operands 0x400 7 (armed s)))
  { s with mem := Memory.writeN (Memory.writeN s.mem 0x400 [0x10]) 0x480 (bytesOfNat 16 (0x200 * 2 ^ 80 + 8 * 2 ^ 56 + 2 ^ 14 + 2 ^ 10)) }
/-- `n` cards that wait in the scheduler of pair 0. -/
def crowded (n : Nat) (s : State) : State :=
  let card : Card :=
    { uid := 60, kind := .copy, group := 2, parcel := 1, vf := 0, core := 0, out := (3, 0), engine := { kind := .copy, unit := 0 }, clause := 0,
      slot := 0, fmt := 0, arg := 0, semv := false, sem := 0, inc := 0, key := 0, parts := 0, cop := 0, ety := .n8, kspec := 0, reads := [],
      writes := [], acks := 0, state := .waiting }
  s.setPair 0 { Pair.empty with cards := List.replicate n card }
def cardCheck (c : Ctx) (xs : List Src) : Option FaultInfo :=
  (descCheck 0 (.v 0) xs).or ((c.incFault (fQ 2 (.s 6))).or (c.g.pushFault 2 CardKind.fill.port))
def submits (n : Nat) (b : Bool) : Prop :=
  Meets (crowded n (filling (slot 0))) (fun c => { always := false, access := true, check := cardCheck c }) unguarded true []
    [⟨28, .s 5, .sl, 1⟩, ⟨5, .s 6, .sl, 1⟩] (fun c t g h xs =>
      !t.behind g.uid && (match (c.put t g).readDescriptor false 1 (g.cap 1) (rRead + rEngine) 0x400 192 64 0 with
        | (u, .ok bs) => (match (c.put t g).checkCard u .fill (natOfBytes bs) 0x400 with
            | (u2, .ok (reads, writes)) => decide (h.cardBreach (reads ++ writes) = none) &&
                decide (decide (((u2.pair 0).cards.filter Card.live).length < 64) = b)
            | _ => false)
        | _ => false) && runsOn (.jcfill (fQ 2 (.s 6))) c t g h xs)

theorem witness_LaunchesAndJobCards :
    Meets (launching (slot 0)) (fun _ => { always := false, access := true, check := descCheck 16 (.s 16) }) unguarded true []
      [⟨28, .s 5, .sl, 1⟩, ⟨5, .s 16, .onlyS, 1⟩] (fun c t g h xs =>
        !(g.pending.any fun p => p.meets c.r.id ⟨5, .s 16, .onlyS, 16⟩) &&
        (match t.releaseWait h 6 with
          | .ok u h' => decide (h' = h) && (match ({ c.put t g with s := u } : Ctx).readDescriptor true 1 (g.cap 1) rRead 0 64 64 0 with
              | (u2, .ok bs) => decide (natOfBytes bs < 2 ^ 112) && decide (field (natOfBytes bs) 96 16 < (c.put t g).launch.kernels) &&
                  ((u2.vf 0).queue 0).hasRoom
              | _ => false)
          | _ => false) && !(c.put t g).launch.hdr.sub && decide (h.acks ≠ Config.ackLimit) && runsOn (.launch fLaunch) c t g h xs) ∧
    submits 0 true ∧ submits 64 false :=
  ⟨meets (by decide +kernel), meets (by decide +kernel), meets (by decide +kernel)⟩

/-! ## Hypotheses that can be met: matrix and attention opcodes -/

def tileOf (ty : ElemType) (rows cols pitch : Nat) : Option Tile :=
  some { level := 0, core := 0, ty := ty, rows := rows, cols := cols, pitch := pitch, unitsRsv := 1, unitsFree := 0, units := [0], since := 0, byGroup := 0,
         data := [], poison := [] }
/-- Handle 3: a tile of 8-bit elements; 4: of FP16; 5: of FP32; and the operands s1, s2, s3. -/
def matrix (a b d : W64) : State :=
  let s := State.editP (deep (armed (slot 0))) fun p => { p with tiles := [(3, tileOf .s8 8 64 64), (4, tileOf .f16 8 64 128), (5, tileOf .f32 64 2 64)] }
  State.editG s fun g => ((g.setSreg 1 a).setSreg 2 b).setSreg 3 d
/-- The header of an 8 × 8 operand at the origin of a tile. -/
def header (handle role : Nat) : W64 := BitVec.ofNat 64 (handle * 2 ^ 58 + (if role = 2 then 0 else 7) * 2 ^ 22 + role * 2 ^ 20)
def fX (ty : ElemType) (x : BitVec 9) : VForm := plainV ty 0 (.v 0) (.s 1) (.s 2) (.v 0) x
/-- A matrix slot whose operands are in order and that acquires the accumulator tiles. -/
def MeetsMtx (s : State) (nw : Bool) (dsts srcs : List Use) (k : Ctx → State → Group → Group → List Src → State → Bool) : Prop :=
  Meets s (fun _ => { always := false }) unguarded nw dsts srcs fun c t g h xs =>
    match t.acquireTiles g.parcel g.core with | some u => k c t g h xs u | none => false
def free (i : Instr) (c : Ctx) (t : State) (g h : Group) (xs : List Src) (u : State) : Bool :=
  !(u.pair (h.core / 2)).arrayFull h.core && runsOn i c t g h xs
/-- Eight operations of the group in the array of core 0. -/
def crammed (s : State) : State :=
  let o : MtxOp :=
    { uid := 70, group := 2, parcel := 1, vf := 0, core := 0, clause := 0, slot := 0, fmt := 0, status := none, semv := false, sem := 0, inc := 0,
      kind := .zero 1, va := 0, started := none, res := none, applied := false, acks := 0, parked := none }
  s.setPair 0 { Pair.empty with owner := some 1, ops := List.replicate 8 o }
def multiplies (s : State) (f : VForm) (i : Instr) (sp : Sparsity) (full : Bool) : Prop :=
  MeetsMtx s true [] (usesOf f 2 .sl ++ []) fun c t g h xs u =>
    let d := c.withTiles t g u
    decide (d.multiplyFault f false sp (pathValue (unguarded c) xs 0) (pathValue (unguarded c) xs 1) none = none) &&
      decide ((u.pair 0).arrayFull 0 = full) && runsOn i c t g h xs

/-- A drain of one FP32 cell to the tile of a handle, or to memory. -/
def drainWord (handle : Nat) (memory : Bool) : W64 :=
  BitVec.ofNat 64 ((if memory then 2 ^ 59 else 0) + ElemType.f32.code.toNat * 2 ^ 55 + handle * 2 ^ 49)

theorem witness_MatrixOpcodesIssue :
    MeetsMtx (matrix 0 8 0) false [dstOf { fX .n8 3 with dst := .s 9 } .sq] (usesOf (fX .n8 3) 2 .sl ++ []) (fun c t g h xs u =>
      let d := c.withTiles t g u
      orgOk (pathValue (unguarded c) xs 0) && ((d.parcel.tile? 3).map fun z => z.has 0 0) = some true &&
        decide ((pathValue (unguarded c) xs 1).toNat = 8) && runsOn (.mlda { fX .n8 3 with dst := .s 9 }) c t g h xs) ∧
    MeetsMtx (matrix 0 8 0) false [dstOf { fX .n8 3 with dst := .s 9, sb := .v 0 } .sq] (usesOf (fX .n8 3) 1 .sl ++ [])
      (free (.mldb { fX .n8 3 with dst := .s 9, sb := .v 0 })) ∧
    MeetsMtx (crammed (matrix 0 0 0)) true [] [] (fun c t g h xs u => ((u.pair 0).ops.any fun o => o.group = h.uid) && runsOn (.msync (fF 0)) c t g h xs) ∧
    MeetsMtx (matrix 0 0 0) true [] [] (fun c t g h xs u => !((u.pair 0).ops.any fun o => o.group = h.uid) && decide (g.lateMatrix = none) &&
      runsOn (.msync (fF 0)) c t g h xs) ∧
    MeetsMtx (matrix 0 0 0) false [] [] (fun c t g h xs _ => decide (lowest (unguarded c) = some 0) && runsOn (.melect (toMask (fF 0))) c t g h xs) ∧
    Meets (slot 0) (fun _ => {}) unguarded false [dstOf (fV 2) .vq] [⟨27, .v 1, .vsl, 1⟩, ⟨18, .s 2, .onlyS, 1⟩]
      (runsOn (.vspc { fV 2 with var := 2, sb := .s 2 })) ∧
    Meets (slot 0) (fun _ => {}) unguarded false [dstOf (fV 1) .vq] (usesOf (fV 1) 1 .vsl) (runsOn (.vspc { fV 1 with ty := .s8, sb := .v 0 })) ∧
    Meets (slot 0) (fun _ => {}) unguarded false [dstOf (fV 1) .onlyV] (usesOf (fV 1) 1 .vsl) (runsOn (.vspc { fV 1 with ty := .s8, var := 1, sb := .v 0 })) ∧
    multiplies (matrix (header 3 1) (header 3 2) 0) (fX .s32 0) (.mma (fX .s32 0)) .dense false ∧
    multiplies (crammed (matrix (header 3 1) (header 3 2) 0)) (fX .s32 0) (.mma (fX .s32 0)) .dense true ∧
    multiplies (matrix (header 3 1) (header 3 2) 0) (fX .s32 0) (.mmag (fX .s32 0)) .seeded false ∧
    MeetsMtx (matrix (header 3 1) (header 3 2) 0) true [] (usesOf (fX .s32 0) 2 .sl ++ [⟨9, .v 12, .onlyV, 1⟩] ++ []) (fun c t g h xs u =>
      let d := c.withTiles t g u
      decide (d.multiplyFault (fX .s32 0) false .metadata (pathValue (unguarded c) xs 0) (pathValue (unguarded c) xs 1) none = none) &&
        free (.mmas { fX .s32 0 with sc := .v 12 }) c t g h xs u) ∧
    MeetsMtx (matrix (header 3 3) 0 0) true [] (usesOf (fX .n8 3) 2 .sl) (fun c t g h xs u =>
      decide (headerFault (c.withTiles t g u).parcel 27 (pathValue (unguarded c) xs 0) [3] false false = none) && free (.unfold (fX .n8 3)) c t g h xs u) ∧
    MeetsMtx (matrix 0 0 0) true [] [] (fun c t g h xs u => free (.accz (fF 3)) c t g h xs u && free (.acccvt { fF 3 with ty := .s32 }) c t g h xs u) ∧
    MeetsMtx (matrix 0 0 0) true [] (usesOf (fX .s8 3) 1 .sl) (fun c t g h xs u =>
      decide (((c.withTiles t g u).parcel.tile? 3).map (fun z => z.ty) = some .s8) && free (.accld { fX .s8 3 with sb := .v 0 }) c t g h xs u) ∧
    MeetsMtx (matrix 0 0 0) false [dstOf (fV 1) .onlyV] (usesOf (fV 1) 1 .vsl) (fun c t g h xs u =>
      decide (((xs.headD fun _ => 0) 0).toNat < 64) && free (.accmovGet { fV 1 with sb := .v 0 }) c t g h xs u) ∧
    MeetsMtx (matrix 0 0 0) true [] (usesOf (fV 2) 2 .vsl) (free (.accmovPut { fV 2 with dst := .v 0 })) ∧
    MeetsMtx (operands (drainWord 5 false) 0 (matrix 0 0 0)) true [] [⟨28, .s 5, .sl, 1⟩] (fun c t g h xs u =>
      decide (drainFault (c.withTiles t g u).parcel false (pathValue (unguarded c) xs 0) = none) && !(pathValue (unguarded c) xs 0).getLsbD 59 &&
        free (.accdr { fQ 0 (.v 0) with cap := 0 }) c t g h xs u) ∧
    MeetsMtx (operands (drainWord 0 true) 0 (matrix 0 0 0)) true [] [⟨28, .s 5, .sl, 1⟩, ⟨5, .s 6, .sl, 1⟩] (fun c t g h xs u =>
      decide (drainFault (c.withTiles t g u).parcel false (pathValue (unguarded c) xs 0) = none) && (pathValue (unguarded c) xs 0).getLsbD 59 &&
        free (.accdr (fQ 0 (.s 6))) c t g h xs u) :=
  ⟨meets (by decide +kernel), meets (by decide +kernel), meets (by decide +kernel), meets (by decide +kernel), meets (by decide +kernel), meets (by decide), meets (by decide),
    meets (by decide), meets (by decide +kernel), meets (by decide +kernel), meets (by decide +kernel), meets (by decide +kernel), meets (by decide +kernel),
    meets (by decide +kernel), meets (by decide +kernel), meets (by decide +kernel), meets (by decide +kernel), meets (by decide +kernel), meets (by decide +kernel)⟩

theorem witness_AttentionOpcodesComplete :
    MeetsMtx (matrix (header 4 1) 0 0) true [] (usesOf { fX .f16 0x004 with sc := .s 3 } 3 .sl ++ []) (fun c t g h xs u =>
      let d := c.withTiles t g u
      decide (d.attqkFault false (pathValue (unguarded c) xs 0) (pathValue (unguarded c) xs 2) 0x3F800000 = none) &&
        answered (d.namedMemory 1 rRead (pathValue (unguarded c) xs 1).toNat (pageSize (pagePitch .f16 8)) .read 0).2 &&
        free (.attqk { fX .f16 0x004 with sc := .s 3 }) c t g h xs u) ∧
    MeetsMtx (matrix 5 0 0) true [] (usesOf (fX .n8 0) 1 .sl) (fun c t g h xs u =>
      decide (statFault (c.withTiles t g u).parcel 27 5 (pathValue (unguarded c) xs 0) = none) && free (.attsm { fX .n8 0 with sb := .v 0 }) c t g h xs u) ∧
    MeetsMtx (matrix 0x700 0 0) true [] (usesOf (fX .f16 0x004) 2 .sl) (fun c t g h xs u =>
      decide (awColumn (pathValue (unguarded c) xs 0) < awD (pathValue (unguarded c) xs 0)) &&
        answered ((c.withTiles t g u).namedMemory 1 rRead 0 (pageSize (pagePitch .f16 8)) .read 0).2 && free (.attpv (fX .f16 0x004)) c t g h xs u) ∧
    MeetsMtx (operands 0x500 0 (matrix 0 0 0)) true [] [⟨28, .s 5, .sl, 1⟩, ⟨5, .s 6, .sl, 1⟩] (fun c t g h xs u =>
      decide (statFault (c.withTiles t g u).parcel 28 5 (pathValue (unguarded c) xs 0) = none) && free (.attmd (fQ 0 (.s 6))) c t g h xs u) ∧
    (∀ full ∈ [false, true], Meets (State.editG (bound 3 0xCB00 (bound 2 0x8A00 (operands 0 0 (matrix 0 0 0)))) fun g =>
        if full then g.setQueue 2 { g.queue 2 with entries := List.replicate 32 (QEntry.ofScalar 0) } else g)
      (fun c => { always := false, fence := true, pre := faultIf c.launch.hdr.sub (illegalOperand 6 56 0xC2), check := fun xs =>
        firstFault [c.incFault (fQ 2 (.s 6)), faultIf ((pathValue (unguarded c) xs 0).extractLsb' 0 19 ≠ 0 || 1 < kvMode (pathValue (unguarded c) xs 0) ||
          kvMassOp (pathValue (unguarded c) xs 0) = 3) (illegalOperand 6 28 (pathValue (unguarded c) xs 0).toNat), c.g.pushFault 2 0x0A,
          (privateCause (c.g.cap 1) (rRead + rWrite) none).map fun x => capabilityFault x 1 (pathValue (unguarded c) xs 1).toNat 0] })
      unguarded true [] [⟨28, .s 5, .sl, 1⟩, ⟨5, .s 6, .sl, 1⟩] (fun c t g h xs =>
        !t.behind g.uid && decide (h.queueFull 2 = full) && runsOn (.kvrs (fQ 2 (.s 6))) c t g h xs)) := by
  refine ⟨meets (by decide +kernel), meets (by decide +kernel), meets (by decide +kernel), meets (by decide +kernel), ?_⟩
  intro full hf
  simp only [List.mem_cons, List.not_mem_nil, or_false] at hf
  rcases hf with rfl | rfl <;> exact meets (by decide +kernel)

def anOp (started : Option Nat) (res : Option MtxResult) (applied : Bool) (status : Option (Nat × Nat)) : MtxOp :=
  { uid := 70, group := 2, parcel := 1, vf := 0, core := 0, clause := 0, slot := 0, fmt := 0, status := status, semv := false, sem := 0, inc := 0,
    kind := .zero 1, va := 0, started := started, res := res, applied := applied, acks := 0, parked := none }
def withOp (o : MtxOp) (s : State) : State := s.setPair 0 { Pair.empty with owner := some 1, ops := [o] }

theorem witness_ArrayOperationsRunAndReset :
    (let s := withOp (anOp none none false none) (slot 0)
     s.heldBy 0 none = false ∧ s.coreOn 0 = true ∧ (s.pair 0).ready (anOp none none false none) = true ∧
      answered (s.mtxResult (anOp none none false none)).2 = true ∧ onward s (.mtxOpStart 0 70) = true) ∧
    (let o := anOp (some 0) (some MtxResult.none) false none
     (match (withOp o (slot 0)).applyOp o MtxResult.none with | .done _ none none => true | _ => false) = true ∧
      onward (withOp o (slot 0)) (.mtxOpRetire 0 70) = true) ∧
    onward (withOp (anOp (some 0) (some MtxResult.none) true none) (slot 0)) (.mtxOpRetire 0 70) = true ∧
    (let o := anOp (some 0) (some MtxResult.none) true (some (2, 0))
     let s := withOp o (bound 2 0xC200 (slot 0))
     s.queueRoom 2 2 0 1 = true ∧ onward s (.mtxOpRetire 0 70) = true) ∧
    (let s := { withOp (anOp (some 0) none false none) (slot 0) with cycles := 2 ^ 26 }
     (s.pair 0).ops.map (fun o => o.started) = [some 0] ∧ onward s (.matrixWatchdog 0) = true) ∧
    (let s := { slot 0 with control := { Control.reset with debug := .invasive } }
     s.control.debug = .invasive ∧ onward s (.matrixResetCommand (.debugPort 95)) = true) ∧
    (let v : W64 := BitVec.ofNat 64 (2 ^ 63 + 95)
     (v.extractLsb' 0 7).toNat = 95 ∧ v.getLsbD 63 = true ∧ (slot 0).control.mxrst.getLsbD 7 = false ∧ onward (slot 0) (.matrixResetCommand (.mxrst v)) = true) ∧
    (let s := (slot 0).setPair 0 { Pair.empty with reset := true }
     (s.pair 0).reset = true ∧ onward s (.matrixResetComplete 0) = true ∧ (s.pair 0).ops = [] ∧ (s.pair 0).cards = []) := by
  refine ⟨?_, ?_, ?_, ?_, ?_, ?_, ?_, ?_⟩ <;> decide +kernel

/-! ## Hypotheses that can be met: rendering opcodes -/

def fR (dst sa sb sc : Operand) (x : BitVec 9) : VForm := plainV .n8 0 dst sa sb sc x
def quadOk (f : VForm) (i : Instr) (c : Ctx) (t : State) (g h : Group) (xs : List Src) : Bool := !f.nw && runsOn i c t g h xs

theorem witness_GeneratorAndPixelOpcodes :
    (let f := fR (.v 8) (.v 1) (.v 2) (.v 0) 0
     Meets (slot 0) (fun _ => { always := false }) unguarded false [dstOf f .vq] (usesOf f 2 .vsl)
      (fun c t g h xs => quadOk f (.rng f) c t g h xs && quadOk f (.rngu f) c t g h xs)) ∧
    (let f := fR (.v 8) (.v 1) (.v 0) (.v 0) 4
     Meets (slot 0) (fun _ => { always := false }) unguarded false [quadUse 36 f.dst] (usesOf f 1 .vsl ++ [quadUse 36 f.dst]) (quadOk f (.rsvinit f))) ∧
    (let f := fR (.v 8) (.v 12) (.v 2) (.v 0) 0
     Meets (slot 0) (fun _ => { always := false }) unguarded false [quadUse 36 f.dst] ([quadUse 27 f.sa, ⟨18, f.sb, .vsl, 1⟩] ++ [quadUse 36 f.dst])
      (quadOk f (.rsvupd f))) ∧
    (let f := fR (.v 8) (.v 12) (.v 2) (.v 3) 0
     Meets (slot 0) (fun _ => { always := false }) unguarded false [quadUse 36 f.dst]
      ([quadUse 27 f.sa, ⟨18, f.sb, .vsl, 1⟩, ⟨9, f.sc, .vsl, 1⟩] ++ [quadUse 36 f.dst]) (quadOk f (.rsvmrg f))) ∧
    (let f := fR (.v 252) (.v 0) (.v 0) (.v 0) 0
     Meets (slot 0) (fun _ => { always := false }) unguarded false [quadUse 36 f.dst] ([] ++ [quadUse 36 f.dst]) (quadOk f (.rsvnrm f))) ∧
    (let f := fR (.v 8) (.v 1) (.v 2) (.v 3) 0x0C0
     xKD f.x ≠ 0 ∧ Meets (slot 0) (fun _ => { always := false }) unguarded false [dstOf f .onlyV] (usesOf f 3 .vsl)
      (fun c t g h xs => quadOk f (.motv f) c t g h xs && quadOk f (.viscls f) c t g h xs)) ∧
    (let f := fR (.v 8) (.v 1) (.v 0) (.v 0) 0
     Meets (slot 0) (fun _ => { always := false }) unguarded false [dstOf f .onlyV] (usesOf f 1 .vslq) (quadOk f (.hitunp f))) ∧
    (let f := fR (.v 8) (.v 10) (.v 12) (.v 0) 0
     Meets (slot 0) (fun _ => { always := false }) unguarded false [pairUse 36 f.dst] [pairUse 27 f.sa, pairUse 18 f.sb, pairUse 36 f.dst]
      (quadOk f (.rayorg f))) ∧
    (let f := fR (.v 0) (.s 1) (.v 0) (.v 0) 0
     let val (xs : List Src) : W64 := (xs.headD fun _ => 0) 0
     Meets (slot 0) (fun c => { always := false, pre := c.subRefusal 0xDF, check := fun xs => faultIf (high32 (val xs) ≠ 0) (illegalOperand 6 27 (val xs).toNat) })
      unguarded false [] (usesOf f 1 .sl) (quadOk f (.visw f))) :=
  ⟨meets (by decide +kernel), meets (by decide +kernel), meets (by decide +kernel), meets (by decide +kernel), meets (by decide +kernel),
    ⟨by decide, meets (by decide +kernel)⟩, meets (by decide +kernel), meets (by decide +kernel), meets (by decide +kernel)⟩

/-- Die 0 serves the 16 × 16 pixels of tile (0, 0) of function 0, die 1 those of the next tile. -/
def served (s : State) : State :=
  (s.setDie 0 { Die.reset with rsvrect := [(0, BitVec.ofNat 64 (2 ^ 32 + 2 ^ 48))] }).setDie 1
    { Die.reset with rsvrect := [(0, BitVec.ofNat 64 (1 + 2 ^ 33 + 2 ^ 48))] }
def storeStart (op : Nat) (c : Ctx) : Start := { always := false, pre := if c.launch.hdr.sub then some (illegalOperand 6 56 op) else none }
/-- Lane 0's pixel (source `n`) is inside the die's rectangle. -/
def insideRect (n : Nat) (i : Instr) (c : Ctx) (t : State) (g h : Group) (xs : List Src) : Bool :=
  (t.rect 0 0).has (pixX ((xs.getD n fun _ => 0) 0) / 16) (pixY ((xs.getD n fun _ => 0) 0) / 16) && !g.loadsOf (unguarded c) && runsOn i c t g h xs
/-- RSVLD's pixel is at a place of the own store or of a neighbour's, and its read has room on its way. -/
def readsRecord (own : Bool) (f : VForm) (c : Ctx) (t : State) (g h : Group) (xs : List Src) : Bool :=
  let src : List (Nat × LaneSource) := (lanes (unguarded c)).map fun l => (l, match t.rsvPlace 0 0 ((xs.headD fun _ => 0) l) 0 with
    | .at n b => .reservoir 0 n b
    | _ => .value [0, 0, 0, 0])
  ((lanes (unguarded c)).all fun l => decide (t.rsvPlace 0 0 ((xs.headD fun _ => 0) l) 0 ≠ .outside)) && decide (h.loads < Config.loadLimit) &&
    (t.loadWays h src).all t.roomOn && decide ((t.loadWays h src).isEmpty = own) && runsOn (.rsvld f) c t g h xs
/-- RSVCPY's source is a place of the own store with good records. -/
def copiesRecord (f : VForm) (c : Ctx) (t : State) (g h : Group) (xs : List Src) : Bool :=
  let p := t.rsvPlace 0 0 ((xs.getD 1 fun _ => 0) 0) 1
  (match p with | .at n b => !t.rsvPoisoned n 0 b | _ => false) && (crossHalo 0 [p] t).isSome && insideRect 0 (.rsvcpy f) c t g h xs

theorem witness_ReservoirStoreComplete :
    (let f := fR (.v 8) (.v 1) (.v 0) (.v 0) 0
     Meets (served (slot 0)) (fun _ => { always := false }) unguarded false [quadUse 36 f.dst] (usesOf f 1 .vsl) (readsRecord true f)) ∧
    (let f := fR (.v 8) (.s 1) (.v 0) (.v 0) 0
     Meets (served (State.editG (slot 0) fun g => g.setSreg 1 16)) (fun _ => { always := false }) unguarded false [quadUse 36 f.dst] (usesOf f 1 .vsl)
      (readsRecord false f)) ∧
    (let f := fR (.v 0) (.v 8) (.v 1) (.v 0) 0
     Meets (served (slot 0)) (storeStart 0xD7) unguarded false [] [quadUse 27 f.sa, ⟨18, f.sb, .vsl, 1⟩] (insideRect 1 (.rsvst f))) ∧
    (let f := fR (.v 0) (.v 1) (.v 2) (.v 0) 0
     Meets (served (slot 0)) (storeStart 0xE3) unguarded false [] (usesOf f 2 .vsl) (insideRect 0 (.rsvclr f))) ∧
    (let f := fR (.v 0) (.v 1) (.v 2) (.v 0) 0
     Meets (served (slot 0)) (storeStart 0xE6) unguarded false [] (usesOf f 2 .vsl) (copiesRecord f)) ∧
    (let f := fR (.v 0) (.v 8) (.s 1) (.v 0) 0
     Meets (served (State.editG (slot 0) fun g => g.setSreg 1 16)) (storeStart 0xD7) unguarded false [] [quadUse 27 f.sa, ⟨18, f.sb, .vsl, 1⟩]
      (fun c t g h xs => decide (lowest (unguarded c) = some 0) && !(t.rect 0 0).has (pixX ((xs.getD 1 fun _ => 0) 0) / 16) (pixY ((xs.getD 1 fun _ => 0) 0) / 16) &&
        runsOn (.rsvst f) c t g h xs)) :=
  ⟨meets (by decide +kernel), meets (by decide +kernel), meets (by decide +kernel), meets (by decide +kernel), meets (by decide +kernel), meets (by decide +kernel)⟩

/-- A scene or a tree of one node at address 0, whose descriptor stands at address 0x100. -/
def sceneAt (node : Nat) (s : State) : State := { s with mem := Memory.writeN s.mem 0x100 (bytesOfNat 32 (2 ^ node)) }
def anScene : Attached := { cap := Cap.make 0 0 0 255 0xDF false, nodeOff := 0, triOff := 0, nTri := 0, nNode := 1 }
def attaches (node : Nat) (b : BitVec 16) (port : Nat) (i : Instr) (read : Ctx → Nat → Nat → Nat → FaultInfo → State × Except Stop Attached) : Prop :=
  Meets (bound 2 b (operands 0x100 0 (sceneAt node (armed (slot 0))))) (fun c => { always := false, access := true, check := fun xs =>
    (faultIf (((xs.headD fun _ => 0) 0).toNat % 32 ≠ 0) (illegalOperand 6 28 ((xs.headD fun _ => 0) 0).toNat)).or (c.g.inputFault 2 port) })
    unguarded false [] [⟨28, .s 5, .sl, 1⟩] (fun c t g h xs => answered (read (c.put t g) 1 0x100 0 (illegalOperand 6 28 0x100)).2 && runsOn i c t g h xs)
/-- A request of v12 to v15 to a queue with a scene and `n` entries. -/
def requests (n port : Nat) (b o : BitVec 16) (i : Instr) (arg : List Use) (flags trap : Ctx → W64 → Option FaultInfo) : Prop :=
  Meets (State.editG (bound 3 o (slot 0)) fun g => g.setQueue 2 { Queue.empty with binding := b, scene := some anScene, entries := List.replicate n (QEntry.ofScalar 0) })
    (fun c => { always := false, access := true, check := fun xs =>
      let w : W64 := if arg.isEmpty then 0 else (xs.getD 1 fun _ => 0) 0
      (flags c w).or ((c.g.inputFault 2 port).or
        ((if (c.g.queue 2).scene.isNone then some (illegalOperand 6 posQd 2) else none).or ((c.g.pushFault 2 port).or (trap c w)))) })
    unguarded false [] (quadUse 28 (.v 12) :: arg) (fun c t g h xs => !t.behind g.uid && (h.queue 2).scene.isSome &&
      decide ((h.queue 2).entries.length = n) && runsOn i c t g h xs)
def fRay : QForm := plainQ .n8 2 1 (.v 12) none (.v 0)
def rayFlags (any : Bool) (_ : Ctx) (w : W64) : Option FaultInfo := if w >>> 2 ≠ 0 || (any && w.getLsbD 1) then some (illegalOperand 6 5 w.toNat) else none
def rayTrap (c : Ctx) (w : W64) : Option FaultInfo :=
  if !w.getLsbD 0 then none else ((lanes (unguarded c)).find? fun l => (c.g.rayOf (.v 12) l).invalid).map fun l => .mk' 0x0013 0 0 0 0 l
def noFault (_ : Ctx) (_ : W64) : Option FaultInfo := none

/-- A reuse card at address 0x400 whose callable has no clauses. -/
def reusing : State :=
  let s := State.editL (bound 2 0x8700 (operands 0x400 0 (sceneAt 96 (armed (slot 0))))) fun l => { l with image := [(0, 0, 0)] }
  let s := State.editP s fun p => { p with tiles := [(3, tileOf .n64 256 8 64), (4, tileOf .n64 256 4 64)] }
  served { s with mem := Memory.writeN s.mem 0x400 (bytesOfNat 64 (0x100 * 2 ^ 255 + 3 * 2 ^ 338 + 4 * 2 ^ 332)) }
/-- A geometry command of a single pass over one meshlet and one pixel, at address 0x400. -/
def meshing : State :=
  let s := bound 3 0xCF00 (bound 2 0x8E00 (operands 0x400 0 (armed (slot 0))))
  { s with mem := Memory.writeN s.mem 0x400 (bytesOfNat 128 (2 ^ 704 + 2 ^ 688 + 3 * 2 ^ 590 + 2 ^ 720)) }
/-- A texture of one texel at address 0, whose descriptor stands at address 0x400, and the same in sampler 4. -/
def texturing : State :=
  let s := operands 0x400 4 (armed (slot 0))
  { s with mem := Memory.writeN s.mem 0x400 (bytesOfNat 32 (ElemType.f32.code.toNat * 2 ^ 124 + 8 * 2 ^ 160)) }
def aTexture : Texture := { cap := Cap.make 0 0 0 255 0xDF false, offset := 0, pitch := 8, wm1 := 0, hm1 := 0, ty := .f32, amode := 0 }
def sampling : State := State.editG (armed (slot 0)) fun g => { g with samplers := [(4, some aTexture)] }
def samples (i : Instr) (taps : Texture → W64 → List Tap) : Prop :=
  Meets sampling (fun _ => { always := false, pre := faultIf (aTexture.ty ≠ .f32) (illegalOperand 6 0 4) }) unguarded false
    [dstOf (fR (.v 8) (.v 1) (.v 0) (.v 0) 4) .vq] (usesOf (fR (.v 8) (.v 1) (.v 0) (.v 0) 4) 1 .vsl) (fun c t g h xs =>
      decide (Tbl.get none c.g.samplers 4 = some aTexture) && decide (h.loads < Config.loadLimit) &&
      (let per := (lanes (unguarded c)).map fun l => (l, taps aTexture ((xs.headD fun _ => 0) l))
       match (c.put t g).resolve .read 0 aTexture.cap rRead 8 8
        ((per.map fun y => y.2.filterMap fun p => p.place.map fun b => (y.1, aTexture.cap.offset + b)).flatten) with
       | (u, .ok as) => answered (u.readNow h true clsControl 8 as)
       | _ => false) && runsOn i c t g h xs)

def commandCheck (c : Ctx) (port : Nat) (xs : List Src) : Option FaultInfo :=
  let d := ((xs.headD fun _ => 0) 0).toNat
  firstFault [faultIf (d % 64 ≠ 0) (illegalOperand 6 28 d), c.incFault (fQ 2 (.v 0)), c.g.pushFault 2 port]
def depthCheck (xs : List Src) : Option FaultInfo :=
  faultIf (((xs.headD fun _ => 0) 0).toNat % 64 ≠ 0) (illegalOperand 6 27 ((xs.headD fun _ => 0) 0).toNat)
def textureCheck (xs : List Src) : Option FaultInfo :=
  let val (n : Nat) : Nat := ((xs.getD n fun _ => 0) 0).toNat
  firstFault [faultIf (val 0 % 32 ≠ 0) (illegalOperand 6 28 (val 0)), faultIf (15 < val 1) (illegalOperand 6 5 (val 1))]

theorem witness_SceneAndRenderingCommands :
    attaches 96 0x8500 5 (.scnbind (fQ 2 (.v 0))) (fun c r o l x => c.attachScene r o l x) ∧
    attaches 176 0x8800 8 (.ltset (fQ 2 (.v 0))) (fun c r o l x => c.attachTree r o l x) ∧
    requests 0 5 0x8500 0xC600 (.rayq fRay) [] (rayFlags false) rayTrap ∧ requests 28 5 0x8500 0xC600 (.rays fRay) [] (rayFlags true) rayTrap ∧
    requests 29 5 0x8500 0xC600 (.rayq fRay) [] (rayFlags false) rayTrap ∧
    requests 0 8 0x8800 0xC900 (.ltsmp { fRay with arg := .s 6 }) [⟨5, .s 6, .sl, 1⟩] noFault noFault ∧
    Meets reusing (fun c => { always := false, access := true, check := commandCheck c 7 })
      unguarded false [] [⟨28, .s 5, .sl, 1⟩] (fun c t g h xs => !t.behind g.uid && !h.queueFull 2 &&
        (let d := c.put t g
         match d.readDescriptor false 1 (g.cap 1) (rRead + rEngine) 0x400 64 1 0 with
         | (u, .ok bs) =>
            let w := BitVec.ofNat 512 (natOfBytes bs)
            let (u2, x) := ({ d with s := u } : Ctx).attachScene 1 (ruScene w) 0 (capabilityFault 1 1 (ruScene w) 0)
            answered x && (u2.rect 0 0).has (ruTx w) (ruTy w) &&
              (match (readBody g.core 0 d.launch.text d.launch 65 0 0 u2).2 with | .ok (some _) => true | _ => false) && decide (d.launch.image.find? (fun x => x.1 = ruCid w) = some (0, 0, 0)) &&
              decide (ruShapeFault d.parcel w 0x400 = none)
         | _ => false) && runsOn (.reuse (fQ 2 (.v 0))) c t g h xs) ∧
    Meets meshing (fun c => { always := false, access := true, pre := c.subRefusal 0xDE, check := commandCheck c 0x0E })
      unguarded false [] [⟨28, .s 5, .sl, 1⟩] (fun c t g h xs => !t.behind g.uid && !h.queueFull 2 &&
        answered ((c.put t g).gfDescriptor 1 0x400 0 gfWellFormed gfRegions (illegalOperand 6 28 0x400)).2 && runsOn (.gfemb (fQ 2 (.v 0))) c t g h xs) ∧
    Meets texturing (fun _ => { always := false, check := textureCheck })
      unguarded false [] [⟨28, .s 5, .sl, 1⟩, ⟨5, .s 6, .sl, 1⟩] (fun c t g h xs =>
        (match (c.put t g).readDescriptor false 1 (g.cap 1) rRead 0x400 32 1 0 with
         | (u, .ok bs) => decide ((textureOf (g.cap 1) (natOfBytes bs)).map (fun x => (x.offset, x.pitch, x.wm1, x.hm1)) = some (0, 8, 0, 0)) &&
            answered ((c.put t g).regionOk u 1 (g.cap 1) rRead 0 8 0).2
         | _ => false) && runsOn (.smpbind (fQ 0 (.s 6))) c t g h xs) ∧
    Meets meshing (fun c => { always := false, access := true, port := 0x0E, pre := c.subRefusal 0xE8, check := depthCheck })
      unguarded false [⟨36, .q 2, .onlyQ, 1⟩] (usesOf (fR (.q 2) (.s 5) (.v 0) (.v 0) 1) 1 .sl) (fun c t g h xs => !t.behind g.uid && !h.queueFull 2 &&
        answered ((c.put t g).gfDescriptor 1 0x400 0 gfWellFormed (fun w => [gfBuffer w, gfPyramid w]) (illegalOperand 6 27 0x400)).2 &&
        runsOn (.gfedepth (fR (.q 2) (.s 5) (.v 0) (.v 0) 1)) c t g h xs) ∧
    samples (.smpt { fR (.v 8) (.v 1) (.v 0) (.v 0) 4 with ty := .f32 }) Texture.pointTaps ∧
    samples (.smpb { fR (.v 8) (.v 1) (.v 0) (.v 0) 4 with ty := .f32 }) Texture.bilinearTaps :=
  ⟨meets (by decide +kernel), meets (by decide +kernel), meets (by decide +kernel), meets (by decide +kernel), meets (by decide +kernel),
    meets (by decide +kernel), meets (by decide +kernel), meets (by decide +kernel), meets (by decide +kernel), meets (by decide +kernel),
    meets (by decide +kernel), meets (by decide +kernel)⟩

/-! ## Hypotheses that can be met: the events of the package -/

/-- The group is between clauses and its next one, at address 0, has the header `h` and one NOP. -/
def between (h : W64) (s : State) : State :=
  let s := State.editG (armed s) fun g => { g with run := none }
  { s with active := [], mem := Memory.writeN (Memory.writeN s.mem 0 (bytesOfNat 8 h.toNat)) 15 [1] }
/-- What clause issue asks, with a header that waits for no semaphore or for one that has reached its target. -/
def issues (s : State) (h : W64) : Bool :=
  match s.group? 2 with
  | some x => match x.path? .s0 with
    | some p => decide (s.stopsAt x .s0 p = none) && s.candidate x p && !x.outOfTurn .s0 && !x.atLimit && decide (x.unboundWait (Header.ofWord h) = none) &&
        (match s.fetchClause x p.pc with
          | (t, .ok (w, ws)) => decide (w = h) && t.waitsHold x (Header.ofWord h) && t.slotTakes x .s0 p && (match decodeClause (t.launchOf x).hdr.safe.length w ws with | .ok _ => true | .error _ => false)
          | _ => false)
    | none => false
  | none => false

/-- A clause that can be fetched stands at the path, and it does not issue: its turn, its quantum or the core's issue slots hold it. -/
def held (s : State) (k : PathSlot) : Bool :=
  match s.group? 2 with
  | some x => match x.path? k with
    | some p => decide (s.stopsAt x k p = none) && s.candidate x p &&
        (match s.fetchClause x p.pc with
          | (t, .ok (w, ws)) => (x.outOfTurn k || x.atLimit || !t.slotTakes x k p) &&
              (match decodeClause (t.launchOf x).hdr.safe.length w ws with | .ok _ => true | .error _ => false)
          | _ => false)
    | none => false
  | none => false
/-- Two more groups of the core run clauses of other addresses, one in each issue slot. -/
def contended : State :=
  let s := between 0 (slot 0)
  let other (n : Nat) (pc : W32) : List Group := (slot 0).groups.map fun g => { g with uid := n, place := n, run := g.run.map fun r => { r with clause := pc } }
  { s with groups := s.groups ++ other 8 64 ++ other 9 128, active := [8, 9] }

theorem witness_ClausesBeginAndWaitsEnd :
    (held (State.editG (between 0 (slot 0)) fun g => { g with last := .s0, p1 := g.p0.map fun p => { p with ready := some 0 } }) .s0 = true ∧
      held (State.editG (between 0 (slot 0)) fun g => { g with p0 := g.p0.map fun p => { p with qcnt := 256 } }) .s0 = true ∧
      held contended .s0 = true) ∧
    (issues (between 0 (slot 0)) 0 = true ∧ onward (between 0 (slot 0)) (.clauseIssue 2 .s0) = true) ∧
    (issues (between 0x2000 (deep (slot 0))) 0x2000 = true ∧ onward (between 0x2000 (deep (slot 0))) (.clauseIssue 2 .s0) = true) ∧
    (let s := State.editG (between 0 (slot 0)) fun g => { g with p0 := g.p0.map fun p => { p with qcnt := 256 } }
     (s.group? 2).map (fun g => (g.status, g.run)) = some (.ready, none) ∧ onward s (.quantumClauseLimit 2 .s0) = true) ∧
    (let s := State.editP (State.editL (slot 0) fun l => { l with hdr := { l.hdr with sub := true } }) fun p => { p with elapsed := 1, due := true }
     (s.parcel? 1).map (fun p => ((s.launchFor p).hdr.sub, p.state, p.due)) = some (true, .running, true) ∧ onward s (.allowanceExpiry 1) = true) ∧
    (let s := State.editL (slot 0) fun l => { l with hdr := { l.hdr with sub := true } }
     (s.parcels.all fun q => !q.due) = true ∧ (s.parcel? 1).map (fun p => decide ((s.launchFor p).hdr.allowM1 < p.elapsed + 2)) = some true) ∧
    (let s := { State.editG (between 0 (slot 0)) fun g => { g with p0 := g.p0.map fun p => { p with ready := some 0 } } with cycles := 256 }
     (s.group? 2).map (fun g => (g.path? .s0).map fun p => (p.ready, s.candidate g p)) = some (some (some 0, true)) ∧ onward s (.candidateAged 2 .s0) = true) ∧
    (let s := State.editG (slot 0) fun g => { g with status := .waiting .loads }
     (s.group? 2).map (fun g => s.waitOver g .loads) = some true ∧ onward s (.blockedSlotResume 2) = true) ∧
    (let s := { State.editG (slot 0) fun g => { g with status := .waiting (.time 5) } with time := 5 }
     (s.group? 2).map (fun g => g.status) = some (.waiting (.time 5)) ∧ s.coreOn 0 = true ∧ onward s (.sleeptWake 2) = true) := by
  refine ⟨⟨?_, ?_, ?_⟩, ⟨?_, ?_⟩, ⟨?_, ?_⟩, ⟨?_, ?_⟩, ⟨?_, ?_⟩, ⟨?_, ?_⟩, ⟨?_, ?_⟩, ⟨?_, ?_⟩, ⟨?_, ?_, ?_⟩⟩ <;> decide +kernel

theorem witness_ResultsReachTheirRegisters :
    (let p := pendingOn (.vregs 8 1) .load
     let s := State.editG (slot 0) fun g => { g with pending := [p] }
     (s.group? 2).map (fun g => (g.pending[0]?, p.lanes.all (s.laneArrives g p []))) = some (some p, true) ∧ onward s (.loadResult 2 0) = true) ∧
    (let s := State.editG (slot 0) fun g => { g with pending := [pendingOn (.vregs 8 1) .sfu] }
     (s.group? 2).map (fun g => (g.pending.find? fun q => q.kind = .sfu).isSome) = some true ∧ onward s (.sfuResult 2) = true) := by
  refine ⟨⟨?_, ?_⟩, ⟨?_, ?_⟩⟩ <;> decide +kernel

def anOpHome (k : HomeKind) : HomeOp :=
  { sender := .group 2, fromDie := 0, home := 0, lane := 0, vf := 0, va := 0, cell := 0, hint := 0, kind := k, counted := true, released := false, clause := 0, slot := 0 }
def travelling (k : HomeKind) (held : Bool) : State := { (slot 0).setDie 0 { Die.reset with held := held } with net := [anOpHome k] }

theorem witness_OperationsReachTheirHomes :
    (let s := travelling (.write [1]) true
     s.deadHome 0 = true ∧ s.countFull 0 (anOpHome (.write [1])) = false ∧ onward s (.homeSliceWrite 0) = true) ∧
    (let s := travelling (.write [1]) false
     s.deadHome 0 = false ∧ s.arrived (anOpHome (.write [1])) = true ∧ s.countFull 0 (anOpHome (.write [1])) = false ∧ onward s (.homeSliceWrite 0) = true) ∧
    (let s := travelling (.atomic .n32 0 1 none none) false
     s.arrived (anOpHome (.atomic .n32 0 1 none none)) = true ∧ s.badData 0 4 0 0 = none ∧ onward s (.homeSliceWrite 0) = true) ∧
    (let s := { travelling (.atomic .n32 0 1 none (some (2, 0))) false with poison := [0] }
     s.arrived (anOpHome (.atomic .n32 0 1 none (some (2, 0)))) = true ∧ (s.badData 0 4 0 0).isSome = true ∧ onward s (.homeSliceWrite 0) = true) ∧
    (let a : Ack := { sender := .group 2, error := false, rank := 0, lane := 0, va := 0, clause := 0, slot := 0 }
     let s := { slot 0 with acks := [a] }
     s.ackArrived a = true ∧ (s.group? 2).isSome = true ∧ onward s (.ackReturn 0) = true) ∧
    (let s := (slot 0).setDie 0 { Die.reset with slices := [(5, { Slice.empty with queued := [{ aWatch with a := 0 }] })] }
     watchHolds s.mem { aWatch with a := 0 } = true ∧ watchHolds s.mem aWatch = false ∧ onward s (.watchTableRetry 0 5) = true) ∧
    (∀ hops ∈ [[(0, 1)], [(0, 1), (4, 1)]],
     let s := { slot 0 with flits := [{ uid := 70, hops := hops }] }
     s.dirOpen 0 = true ∧ (s.queueAt 0 1).head? = some { uid := 70, hops := hops } ∧
      lowestClass (s.linkDir 0).pass ((s.waitingAt 0).filter (s.canCross 0)) = some 1 ∧ onward s (.linkFlitSend 0) = true) ∧
    (slot 0).queueAt 0 1 = [] ∧ ({ slot 0 with flits := [{ uid := 70, hops := [(0, 1)] }] } : State).queueAt 0 1 ≠ [] := by
  refine ⟨?_, ?_, ?_, ?_, ?_, ?_, ?_, ?_, ?_⟩ <;> decide +kernel

/-- A booted package whose function 0 has a launch ring of sixteen entries at 0x4000 with one entry in it. -/
def submitted : State :=
  let q : LaunchQueue := { LaunchQueue.reset with cfg := BitVec.ofNat 64 (2 ^ 63 + 0x4000 + 4), prod := 1, backed := true }
  let s : State := { State.reset with control := { Control.reset with boot := .running, lifecycle := .production } }
  s.setVf 0 (Vf.reset.setQueue 0 q)

theorem witness_LaunchIsAcceptedOrRefused :
    (submitted.enabled = true ∧ (submitted.vf 0).resetting = false ∧ submitted.acceptingLaunch 0 0 = none ∧
      (let q := (submitted.vf 0).queue 0
       ringOn q.cfg = true ∧ q.prod ≠ q.cons ∧ cellExists (ringCell q.cfg q.cons.toNat 512) 512 = true ∧
        (submitted.entryCrosses (ringCell q.cfg q.cons.toNat 512)).isSome = true ∧
        (let h := { submitted with links := (span 4 4).map fun n => (n, { submitted.link n with retrain := true }) }
         (h.entryCrosses (cellOf 0 0x4000)).isNone = true)) ∧ onward submitted (.launchAccept 0 0) = true) ∧
    (let l : Launch := { Launch.blank with state := .filling none }
     let s := { submitted with launches := [l] }
     s.acceptingLaunch 0 0 = some l ∧ (s.vf 0).leases = [] ∧ l.leases = [] ∧ onward s (.launchAccept 0 0) = true) := by
  refine ⟨⟨?_, ?_, ?_, ⟨?_, ?_, ?_, ?_, ?_⟩, ?_⟩, ?_, ?_, ?_, ?_⟩ <;> decide +kernel

def aBox : Box := { x0 := 0, x1 := 8, y0 := 0, y1 := 1, z0 := 0, z1 := 1 }
def aPlacement : Placement :=
  { uid := 9, vf := 0, queue := 0, launch := 0, box := aBox, restore := none, cores := [0], staked := [], refused := false, attempt := 0, since := 0 }
/-- A launch that is being placed, with a placement of its first parcel. -/
def placing (f : Placement → Placement) : State := { submitted with launches := [Launch.blank], placements := [f aPlacement], uid := 20 }

theorem witness_ParcelsArePlacedAndStart :
    (let s := State.reset.setCore 5 { Core.reset with freePlaces := 31 }
     ((s.core 5).resources ≠ (s.core 5).reported ∨ (s.die 0).freeUnits ≠ (s.die 0).reportedPool) ∧ (s.die 0).held = false ∧ (s.core 5).lastReport = none ∧ (s.crossNow clsControl (toControl 0)).isSome = true ∧ onward s (.resourceReport 5) = true) ∧
    (let s := { submitted with launches := [{ Launch.blank with domX := 8 }] }
     s.placements.length < 16 ∧ s.enabled = true ∧ s.pickQueue = some (0, 0) ∧ (s.eligible 0 0).isSome = true ∧ onward s .dispatch = true) ∧
    (let s := placing id
     s.placementOver aPlacement = false ∧ s.earlierStake aPlacement 0 = false ∧
      (match s.crossNow clsControl (fromControl 0) with
        | some u => u.coreOpen 0 && (u.setAside (aPlacement.kernel Launch.blank) 9 0 true).isSome
        | none => false) = true ∧ onward s (.stake 9 0) = true) ∧
    (let s := (placing id).setCore 0 { Core.reset with freePlaces := 0 }
     (match s.crossNow clsControl (fromControl 0) with
        | some u => (u.setAside (aPlacement.kernel Launch.blank) 9 0 true).isNone
        | none => false) = true ∧ onward s (.stake 9 0) = true) ∧
    (let s := { placing fun p => { p with refused := true } with cycles := 64 }
     s.placementOver { aPlacement with refused := true } = false ∧ 0 + 64 * 2 ^ 0 ≤ s.cycles ∧ onward s (.stakeRetry 9) = true) ∧
    (let s := placing fun p => { p with staked := [0] }
     (s.launch? 0).isSome = true ∧ s.placementOver { aPlacement with staked := [0] } = false ∧ (s.crossNow clsControl (fromControl 0)).isSome = true ∧
      onward s (.placementCommit 9) = true) ∧
    (List.replicate 16 (0 : W64)).length = 16 ∧ (List.replicate 15 Cap.clear).length = 15 := by
  refine ⟨⟨?_, ?_, ?_, ?_, ?_⟩, ⟨?_, ?_, ?_, ?_, ?_⟩, ⟨?_, ?_, ?_, ?_⟩, ⟨?_, ?_⟩, ⟨?_, ?_, ?_⟩, ⟨?_, ?_, ?_, ?_⟩, ?_, ?_⟩ <;> decide +kernel

/-- The parcel of the ended group in a state of its life. -/
def ending (st : ParcelState) (log : List LogRec) (s : State) : State :=
  let s := State.editG s fun g => { g with status := .ended, run := none }
  { State.editP s fun p => { p with state := st, log := log } with active := [] }

theorem witness_ParcelsRetire :
    (let s := ending .running [] (slot 0)
     (s.parcel? 1).map (fun p => (p.state, s.parcelDone p, p.due)) = some (.running, true, false) ∧
      (match s.parcel? 1 with
        | some p => (match translateGroups (s.launchFor p) (s.setParcel { p with state := .retiring 1, held := none }) (s.groupsOf 1) with
          | (t, none) => answered (commitGroups (s.groupsOf 1) t)
          | _ => false)
        | none => false) = true ∧ onward s (.parcelRetire 1) = true) ∧
    (let s := ending (.retiring 2) [] (slot 0)
     (s.parcel? 1).map (fun p => (p.state, s.heldBy 0 p.held)) = some (.retiring 2, false) ∧
      (match s.parcel? 1 with
        | some p => (match translateLog (s.launchFor p) s [] p.log with
          | (t, none, cells) => (crossEach (((cells.filter fun x => !t.deadHome x.2).map fun x => (x.1, t.wayTo 0 x.2)).eraseDups) t).isSome
          | _ => false)
        | none => false) = true ∧ onward s (.commitLogApply 1) = true) ∧
    (let s := ending (.retiring 3) [] (slot 0)
     (s.parcel? 1).map (fun p => (p.state, p.log)) = some (.retiring 3, []) ∧ onward s (.parcelRetire 1) = true) ∧
    (let s := ending (.retiring 3) [.launch 0 (List.replicate 512 0)] (ringAt 0x10000 (slot 0))
     ((s.vf 0).queue 0).hasRoom = true ∧ s.launchFar 0 0 0 = false ∧ onward s (.parcelRetire 1) = true) ∧
    (let s := ending (.retiring 3) [.launch 0 (List.replicate 512 0)] (ringAt 0x4000 (slot 0))
     ((s.vf 0).queue 0).hasRoom = true ∧ s.launchFar 0 0 0 = true ∧ onward s (.parcelRetire 1) = true) ∧
    (let s := ending (.retiring 4) [] (slot 0)
     (s.parcel? 1).map (fun p => (p.state, s.parcelQuiet p)) = some (.retiring 4, true) ∧ onward s (.parcelRetire 1) = true) ∧
    (let s := { State.reset with launches := [{ Launch.blank with cut := 1 }] }
     (s.launch? 0).map (fun l => (l.state, s.launchLive l)) = some (.placing, false) ∧ onward s (.launchComplete 0) = true) := by
  refine ⟨⟨?_, ?_, ?_⟩, ⟨?_, ?_, ?_⟩, ⟨?_, ?_⟩, ⟨?_, ?_, ?_⟩, ⟨?_, ?_, ?_⟩, ⟨?_, ?_⟩, ⟨?_, ?_⟩⟩ <;> decide +kernel

theorem witness_SubdivisionSplitsTheLargestAxis :
    ((slot 0).parcel? 1).map (fun p => (p.committed, p.due, ((slot 0).launchFor p).failed)) = some (false, false, false) ∧
    (let s := State.editP (State.editL (slot 0) fun l => { l with failed := true }) fun p => { p with due := true }
     (s.parcel? 1).map (fun p => (p.committed, p.due, (s.launchFor p).failed)) = some (false, true, true)) ∧
    splitBox { Kernel.blank with minX := 4, minY := 8 } { aBox with y1 := 8 } = some ({ aBox with y1 := 8, x1 := 4 }, { aBox with y1 := 8, x0 := 4 }) ∧
    splitBox { Kernel.blank with minX := 5 } aBox = none ∧ (8 / 2 < 5 ∧ 1 / 2 < 1) ∧ 4 ≤ 8 / 2 := by decide +kernel

/-- The tables in memory for the same page and object: the first two levels at 0x10000 and 0x11000, the object table at 0x12000. -/
def tabled (s : State) : State :=
  let m := Memory.writeN (Memory.writeN s.mem 0x10000 (bytesOfNat 8 0x11020)) 0x11000 (bytesOfNat 8 0xA3E)
  let m := Memory.writeN m 0x12000 (bytesOfNat 16 (256 * 2 ^ 44 + 0xFF * 2 ^ 36 + 1))
  { s.setVf 0 { s.vf 0 with xroot := 0x10001, otdesc := BitVec.ofNat 128 (2 ^ 64 + 0x12000) } with mem := m }

/-- The declaration's block has a cell on a die that runs, and every slice takes its entries, or one does not. -/
def places (s : State) (fit : Bool) : Bool :=
  match unitCells 0 .read s [256] with
  | (t, .ok cs) =>
      let homes := ([1].zip cs).map fun x => (x.1, homeDie x.2, homeSlice x.2)
      (homes.all fun h => !(t.die h.2.1).held) &&
        decide ((allSlices.all fun y => ((t.die y.1).slice y.2).takes (entriesAt homes y).length ((t.noteEmpties aDecl homes).contains y)) = fit)
  | _ => false
theorem witness_BeatsOrderDeclarations :
    (let s := { State.reset with cycles := 1024, decls := [aDecl] }
     s.control.beatAt + 1024 ≤ s.cycles ∧ aDecl.gone = false ∧ aDecl.lost = none ∧ (s.die 3).held = false ∧ s.exchangeBatches.isSome = true ∧ onward s .beatEnd = true) ∧
    (let s := { State.reset.setLink 0 { State.reset.link 0 with retrain := true } with cycles := 1024, decls := [aDecl] }
     s.exchangeBatches.isNone = true ∧ onward s .beatEnd = true) ∧
    (let s := { (tabled (slot 0)).setDie 0 { Die.reset with beat := 1 } with decls := [aDecl] }
     s.nextDecl = some aDecl ∧ s.heldBy 0 none = false ∧ places s true = true ∧ onward s .grantPlacement = true) ∧
    (let home := (homeDie 256, homeSlice 256)
     let full : Slice := { Slice.empty with grants := List.replicate 256 { decl := 7, vf := 0, block := 9 } }
     let s := (tabled (slot 0)).setDie 0 { Die.reset with beat := 1 }
     let s := { s.setDie home.1 ((s.die home.1).setSlice home.2 full) with decls := [aDecl] }
     s.nextDecl = some aDecl ∧ s.heldBy 0 none = false ∧ places s false = true ∧ onward s .grantPlacement = true) ∧
    (Slice.empty.takes 1 true = true ∧ Slice.empty.takes 1 false = true) := by
  refine ⟨⟨?_, ?_, ?_, ?_, ?_, ?_⟩, ⟨?_, ?_⟩, ⟨?_, ?_, ?_, ?_⟩, ⟨?_, ?_, ?_, ?_⟩, ⟨?_, ?_⟩⟩ <;> decide +kernel

/-! ## Hypotheses that can be met: engines, cards and the package -/

/-- The scene, tree or list at address 0 of the whole object. -/
def anAttached : Attached := { anScene with nNode := 1, nTri := 1 }
def aCap : Cap := Cap.make 0 0 0 255 0xDF false
/-- A command of the group in an engine, with an entry that has lane 0. -/
def aTaken (cmd : Cmd) : Taken :=
  { group := 2, parcel := 1, vf := 0, core := 0, out := some (5, 0), entries := [{ QEntry.ofLanes 1 fun _ => 0 with cmd := some cmd }], cmd := cmd,
    parked := none, stage := 0, survey := [] }
def busyWith (e : EngineRef) (b : Taken) (s : State) : State := s.setEngine e { Engine.idle with busy := some b }
def paged : State := tabled (slot 0)
/-- A reuse card of one pixel. -/
def aReuse : BitVec 512 := BitVec.ofNat 512 (2 ^ 400 + 2 ^ 384)
def theReuse (s : State) (b : Taken) : RuCtx :=
  { s := s, b := b, l := s.launchOfParcel 1, die := 0, card := aReuse, fmt := 0, scene := anAttached, body := [], params := s.unitTile 1 0 }
def theGeometry : EngineRef := { kind := .geometry, unit := 0 }

/-! A page is long: its hypotheses are met by a proof, not by evaluation. -/

/-- Tables that map a gigabyte at address 0 to itself, an object table, and at 0x20000 a page of .lg6 rows of one element whose 64 slots are
live with masses 0. -/
def pageMem : Tbl Byte :=
  [(0x10000, 0x20), (0x10001, 0x10), (0x10002, 0x01), (0x11000, 0x3E), (0x11001, 0x0A), (0x12000, 0x01), (0x12004, 0xF0), (0x12005, 0x0F), (0x12006, 0x10)] ++
    ((List.range 63).map fun i => (0x22104 + 4 * i, BitVec.ofNat 8 (i + 1))) ++ [(0x22200, 64)]
def theSurvey : EngineRef := { kind := .resurvey, unit := 0 }
def aSurvey (n : Nat) (l : List (Nat × List Nat × Nat)) : Taken := { aTaken (.kvrs .lg6 aCap 1 0 0x20000) with stage := n, survey := l }
def surveying (n : Nat) (l : List (Nat × List Nat × Nat)) : State := busyWith theSurvey (aSurvey n l) { tabled (slot 0) with mem := pageMem }
def theCtx : KvCtx := { die := 0, vf := 0, cap := aCap, reg := 1, ty := .lg6, w := 0 }

/-- A state translates every address below a gigabyte for reads and writes to itself, and its links are open. -/
structure Plain (s : State) : Prop where
  root  : s.vf 0 = (surveying 0 []).vf 0
  first : s.read64 0x10000 = 0x11020
  next  : s.read64 0x11000 = 0xA3E
  leaf  : leafOk s 2 0x11000 1 0xA3E = true
  clear : s.seals = []
  dirs  : ∀ n, s.dirOpen n = true

theorem Plain.walk {s : State} (h : Plain s) {va : Nat} (hv : va < 2 ^ 30) : walk s va 4 0x10000 = .leaf 2 0x11000 1 0xA3E := by
  have f3 : field va (12 + 9 * 3) 9 = 0 := by simp only [field, Nat.shiftRight_eq_div_pow]; omega
  have f2 : field va (12 + 9 * 2) 9 = 0 := by simp only [field, Nat.shiftRight_eq_div_pow]; omega
  rw [Machine.walk]
  simp only [f3, Nat.mul_zero, Nat.add_zero, h.first]
  rw [if_neg (by decide), if_neg (by decide), if_neg (by decide), if_neg (by decide), Machine.walk]
  simp only [f2, Nat.mul_zero, Nat.add_zero, show pteBase 0x11020 = 0x11000 by decide, h.next]
  rw [if_neg (by decide), if_neg (by decide), if_pos (by decide)]
  simp only [show runLength 2 (pteSize 0xA3E) = 1 by decide, Nat.mod_one, Nat.mul_zero, Nat.sub_zero, h.leaf, if_true]

theorem Plain.translate {s : State} (h : Plain s) {va : Nat} (hv : va < 2 ^ 30) {k : Access} (hk : k ≠ .fetch) :
    s.translate none 0 va k = (s, .ok (s.cellFor 0 va)) := by
  have hr : (s.vf 0).xroot = 0x10001 := by rw [h.root]; decide
  have hp : permission s 0 k (pteWr 0xA3E) (pteEx 0xA3E) (pteEnc 0xA3E) (pteKey 0xA3E) 2 0xA3E = none := by
    cases k <;> first | exact absurd rfl hk | rfl
  have hk (c : Nat) : s.rekey c (s.sealOf false (pteKey 0xA3E)) = s := by simp [State.rekey, State.sealOf, h.clear, Tbl.get]
  simp only [State.translate, hr, Option.bind]
  rw [if_neg (by decide), State.walkFor, hr, show ((0x10001 : W64).extractLsb' 12 40).toNat * 4096 = 0x10000 by decide, h.walk hv]
  simp only [hp]
  rw [if_neg (by decide)]
  simp only [show pteTgt 0xA3E = 0 by decide, show pteBase 0xA3E = 0 by decide, show pageBytes (pteSize 0xA3E) = 2 ^ 30 by decide,
    Nat.mod_eq_of_lt hv, Nat.zero_add, show pteDirty 0xA3E = true by decide, Bool.not_true, Bool.and_false, Bool.false_eq_true, if_false,
    show pteEnc 0xA3E = false by decide, hk]

theorem unitCells_all {s : State} {vf : Nat} {k : Access} {f : Nat → Nat} {vs : List Nat} (h : ∀ va ∈ vs, s.translate none vf va k = (s, .ok (f va))) :
    unitCells vf k s vs = (s, .ok (vs.map f)) := by
  induction vs with
  | nil => rfl
  | cons va vs ih => simp [unitCells, h va (by simp), ih fun v hv => h v (by simp [hv])]

theorem surveying_open (k : Nat) (l : List (Nat × List Nat × Nat)) (n : Nat) : (surveying k l).dirOpen n = true := by
  have hl (m : Nat) : (surveying k l).link m = Link.reset := rfl
  have hp (m : Nat) : (surveying k l).port m = Link.reset := rfl
  have hd (m : Nat) : (surveying k l).die m = Die.reset := rfl
  simp [State.dirOpen, hl, hp, hd, Link.reset, Die.reset]
theorem plain0 : Plain (surveying 0 []) := ⟨rfl, by decide +kernel, by decide +kernel, by decide +kernel, rfl, surveying_open _ _⟩
theorem plain1 : Plain (surveying 1 [(0x20000, [], 64)]) := ⟨rfl, by decide +kernel, by decide +kernel, by decide +kernel, rfl, surveying_open _ _⟩

theorem touches_dies (l : List (Nat × Nat)) (s : State) :
    ∃ ds, l.foldl (fun s p => s.touchL2 p.2 0 false) s = { s with dies := ds } ∧ ∀ n, (({ s with dies := ds } : State).die n).held = (s.die n).held := by
  induction l generalizing s with
  | nil => exact ⟨s.dies, rfl, fun _ => rfl⟩
  | cons p l ih =>
      obtain ⟨d, hd⟩ := touchL2_dies s p.2 0 false
      obtain ⟨e, he, hh⟩ := ih (s.touchL2 p.2 0 false)
      have hx : ({ s.touchL2 p.2 0 false with dies := e } : State) = { s with dies := e } := by rw [hd]
      exact ⟨e, by rw [List.foldl_cons, he, hx], fun n => by rw [← hx, hh n, touchL2_held]⟩

/-- A state after reads: its directions have counted flits and its L2s lines. -/
def readState (s : State) (ds : Tbl Die) (ls : Tbl LinkDir) : State := { s with dies := ds, linkDirs := ls }

theorem Plain.reads {s : State} (h : Plain s) {va n : Nat} (hn : n ≠ 0) (hv : ∀ x ∈ pieces va n, x < 2 ^ 30)
    (hb : ∀ x ∈ pieces va n, s.badData (s.cellFor 0 x) (pieceSize va n x) 0 x = none) :
    ∃ ds ls, s.unitRead theCtx.via 0 [] va n = (readState s ds ls,
      .ok ((pieces va n).map fun x => patchBytes (Memory.readN s.mem (s.cellFor 0 x) (pieceSize va n x)) []).flatten) ∧ ∀ m, (readState s ds ls).dirOpen m = true := by
  have hc : unitCells 0 .read s (pieces va n) = (s, .ok ((pieces va n).map (s.cellFor 0))) :=
    unitCells_all fun x hx => h.translate (hv x hx) (by decide)
  have hz : (pieces va n).zip ((pieces va n).map (s.cellFor 0)) = (pieces va n).map fun x => (x, s.cellFor 0 x) := by
    generalize pieces va n = l
    induction l with
    | nil => rfl
    | cons x l ih => simp [ih]
  have hbad : ((pieces va n).map fun x => (x, s.cellFor 0 x)).findSome? (fun p => s.badData p.2 (pieceSize va n p.1) 0 p.1) = none := by
    simpa [List.findSome?_eq_none_iff] using hb
  obtain ⟨ls, hl⟩ := crossWays_open (c := theCtx.via.cls)
    (ws := (((pieces va n).map fun x => (x, s.cellFor 0 x)).map fun p => s.unitWay theCtx.via.die p.2).eraseDups) fun _ _ m _ => h.dirs m
  obtain ⟨ds, hd, hh⟩ := touches_dies ((pieces va n).map fun x => (x, s.cellFor 0 x)) { s with linkDirs := ls }
  refine ⟨ds, ls, ?_, fun m => (dirOpen_congr (s := { s with linkDirs := ls }) (t := readState s ds ls) rfl rfl hh m).trans (h.dirs m)⟩
  unfold State.unitRead
  simp only [if_neg hn, hc, hz, hbad]
  simp only [logBad, logOverlay, Option.none_or, Bool.false_eq_true, if_false]
  rw [hl]
  simp only [List.map_map]
  refine Prod.ext hd ?_
  dsimp only
  congr 3
  funext x
  simp [overlay]

/-- The bytes of the piece at `x` of the page, and the block at its end. -/
def pagePiece (x : Nat) : List Byte := patchBytes (Memory.readN pageMem x 64) []
def theRows : List Byte := ((span 2048 128).map fun i => pagePiece (64 * i)).flatten
def theBlock : List Byte := ((span 2176 9).map fun i => pagePiece (64 * i)).flatten

theorem page_pieces : pieces 0x20000 8768 = (span 2048 128 ++ span 2176 9).map (fun i => 64 * i) := by decide +kernel
theorem pages_below : ∀ x ∈ pieces 0x20000 8768, x < 2 ^ 30 ∧ pieceSize 0x20000 8768 x = 64 := by decide +kernel

theorem page_reads {s : State} (h : Plain s) (hm : s.mem = pageMem) (hb : ∀ c n l v, s.badData c n l v = none) :
    ∃ ds ls, s.unitRead theCtx.via 0 [] 0x20000 8768 = (readState s ds ls, .ok (theRows ++ theBlock)) ∧ ∀ m, (readState s ds ls).dirOpen m = true := by
  obtain ⟨ds, ls, hr, ho⟩ := h.reads (va := 0x20000) (n := 8768) (by decide) (fun x hx => (pages_below x hx).1) fun x _ => hb _ _ _ _
  have hx : ((pieces 0x20000 8768).map fun x => patchBytes (Memory.readN s.mem (s.cellFor 0 x) (pieceSize 0x20000 8768 x)) []) =
      (pieces 0x20000 8768).map pagePiece := by
    refine List.map_congr_left fun x hx => ?_
    rw [(pages_below x hx).2, hm, pagePiece, show s.cellFor 0 x = x by simp [State.cellFor, cellOf]]
  refine ⟨ds, ls, ?_, ho⟩
  rw [hr, hx, page_pieces, List.map_map, List.map_append, List.flatten_append]
  rfl

theorem patchBytes_length (bs : List Byte) (f : List (Nat × Byte)) : (patchBytes bs f).length = bs.length := by
  have h (a n : Nat) : (span a n).length = n := by
    induction n generalizing a with
    | zero => rfl
    | succ n ih => simp [span, ih]
  simp [patchBytes, h]
theorem readN_length (m : Tbl Byte) (a n : Nat) : (Memory.readN m a n).length = n := by
  induction n generalizing a with
  | zero => rfl
  | succ n ih => simp [Memory.readN, ih]

/-- The block of the page. -/
theorem page_block : theCtx.block (theRows ++ theBlock) = theBlock := by
  refine List.drop_left' ?_
  have h (l : List Nat) : ((l.map fun i => pagePiece (64 * i)).flatten).length = 64 * l.length := by
    induction l with
    | nil => rfl
    | cons i l ih => rw [List.map_cons, List.flatten_cons, List.length_append, ih, pagePiece, patchBytes_length, readN_length, List.length_cons]; omega
  rw [theRows, h]
  decide +kernel

theorem block_ok : blkOk theBlock = true ∧ blkNext theBlock = 0 := by decide +kernel

theorem surveying_mem (n : Nat) (l : List (Nat × List Nat × Nat)) : (surveying n l).mem = pageMem := rfl
theorem surveying_good (n : Nat) (l : List (Nat × List Nat × Nat)) (c k a v : Nat) : (surveying n l).badData c k a v = none := by
  have h (d : Nat) : (surveying n l).die d = Die.reset := rfl
  simp [State.badData, State.deadHome, h, Die.reset, State.poisoned, show (surveying n l).poison = [] from rfl]

/-- Every slot of the page is live with mass 0: all are to be evicted. -/
def anEviction : Nat × List Nat × Nat := (0x20000, [], 64)
theorem page_cap : (surveying 0 []).capCheck none 0 aCap (rRead + rWrite) 0x20000 8768 64 = (surveying 0 [], .ok 0x20000) := by
  have ho : (surveying 0 []).objectInMemory 0 0 = BitVec.ofNat 128 (256 * 2 ^ 44 + 0xFF * 2 ^ 36 + 1) := by decide +kernel
  unfold State.capCheck
  rw [if_neg (by decide), if_neg (by decide), if_neg (by decide), if_neg (by decide), if_neg (by decide)]
  rw [State.object, if_neg (by decide +kernel), show aCap.obj = 0 by decide]
  simp only [ho]
  rw [if_neg (by decide), if_neg (by decide), show objBase (BitVec.ofNat 128 (256 * 2 ^ 44 + 0xFF * 2 ^ 36 + 1)) = 0 by decide]

theorem readPage_ok {c : KvCtx} {s u t : State} {o va : Nat} {bs : List Byte}
    (hk : s.capCheck none c.vf c.cap (rRead + rWrite) o c.size 64 = (u, .ok va)) (hr : u.unitRead c.via c.vf [] va c.size = (t, .ok bs))
    (hb : blkOk (c.block bs) = true) : c.readPage s o = (t, .ok { va := va, block := c.block bs }) := by
  simp only [KvCtx.readPage, hk, hr, hb, if_true]
theorem chain_ok {c : KvCtx} {s t : State} {o n : Nat} {p : Surveyed} (h : c.readPage s o = (t, .ok p)) (hc : kvChain c.w = false) :
    c.chain (n + 1) s o = (t, .ok [p]) := by
  simp only [KvCtx.chain, h, hc, Bool.not_false, Bool.true_or, if_true]

theorem compactPage_ok {c : KvCtx} {s t : State} {x : Nat × List Nat × Nat} {bs : List Byte} {cs : List Nat}
    (hr : s.unitRead c.via c.vf [] x.1 c.size = (t, .ok bs)) (ho : ∀ m, t.dirOpen m = true)
    (hc : unitCells c.vf .write t ((cutBytes x.1 (c.compact bs (kvKeep x.2.1 x.2.2 (blkLive (c.block bs))))).map fun p => p.1) = (t, .ok cs)) :
    ∃ v, c.compactPage s x = (v, .ok ()) := by
  simp only [KvCtx.compactPage, hr, State.unitPieces, List.map_cons, List.map_nil, List.flatten_cons, List.flatten_nil, List.append_nil, hc,
    State.crossPieces]
  generalize hw : List.eraseDups (α := List Nat) _ = ws
  obtain ⟨l, hl⟩ := crossWays_open (c := c.via.cls) (ws := ws) fun _ _ m _ => ho m
  rw [hl]
  exact ⟨_, rfl⟩

/-- The pieces of a write that ends below a gigabyte are below it. -/
theorem cutBytes_below {va : Nat} {bs : List Byte} (h : va + bs.length < 2 ^ 30) : ∀ x ∈ (cutBytes va bs).map (fun p => p.1), x < 2 ^ 30 := by
  intro x hx
  unfold cutBytes at hx
  split at hx
  · cases hx
  · rename_i hb
    have hl : bs.length ≠ 0 := fun h => hb (by simpa using h)
    rw [pieces, List.map_map, List.map_map, List.mem_map] at hx
    obtain ⟨z, hz, rfl⟩ := hx
    have := (mem_span _ _ _).1 hz
    simp only [Function.comp, Nat.max_def]
    split <;> omega

theorem compact_length (bs : List Byte) (n : Nat) : 0x20000 + (theCtx.compact bs (kvKeep [] 64 n)).length < 2 ^ 30 := by
  have hb (n x : Nat) : (bytesOfNat n x).length = n := by
    induction n generalizing x with
    | zero => rfl
    | succ n ih => simp [bytesOfNat, ih]
  rw [show kvKeep [] 64 n = [] by simp [kvKeep, show min n 64 - 64 = 0 by omega, span]]
  simp only [KvCtx.compact, hb, show theCtx.pitch = 64 by decide, List.length_append, List.length_replicate, List.length_flatten, List.map_nil,
    List.map_replicate, List.sum_replicate, List.length_nil, List.flatten_nil, smul_eq_mul]
  decide

theorem witness_EnginesRunTheirCommands_survey :
    (surveying 0 []).command? theSurvey = some (aSurvey 0 []) ∧ (∃ t ps, theCtx.chain 4096 (surveying 0 []) 0x20000 = (t, .ok ps)) ∧
      onward (surveying 0 []) (.kvrsSurvey 0) = true := by
  obtain ⟨ds, ls, hr, _⟩ := page_reads plain0 (surveying_mem _ _) (surveying_good _ _)
  have hs : theCtx.size = 8768 := by decide
  have hb : blkOk (theCtx.block (theRows ++ theBlock)) = true := by rw [page_block]; exact block_ok.1
  have hk : (surveying 0 []).capCheck none theCtx.vf theCtx.cap (rRead + rWrite) 0x20000 theCtx.size 64 = (surveying 0 [], .ok 0x20000) := by
    rw [hs]; exact page_cap
  have hc := chain_ok (n := 4095) (readPage_ok hk (by rw [hs]; exact hr) hb) rfl
  exact ⟨by decide +kernel, ⟨_, _, hc⟩, rfl⟩

theorem witness_EnginesRunTheirCommands_compact :
    (surveying 1 [anEviction]).command? theSurvey = some (aSurvey 1 [anEviction]) ∧
      (∃ t, theCtx.compactPage (surveying 1 [anEviction]) anEviction = (t, .ok ())) ∧ onward (surveying 1 [anEviction]) (.kvrsSurvey 0) = true := by
  obtain ⟨ds, ls, hr, ho⟩ := page_reads plain1 (surveying_mem _ _) (surveying_good _ _)
  have hs : theCtx.size = 8768 := by decide
  have hp : Plain (readState (surveying 1 [anEviction]) ds ls) := ⟨plain1.root, plain1.first, plain1.next, plain1.leaf, plain1.clear, ho⟩
  have hc (n : Nat) := unitCells_all fun x hx => hp.translate (k := .write) (cutBytes_below (compact_length (theRows ++ theBlock) n) x hx) (by decide)
  exact ⟨by decide +kernel, compactPage_ok (by rw [hs]; exact hr) ho (hc _), rfl⟩

theorem witness_EnginesRunTheirCommands_take :
    (let y := (aTaken (.kvrs .lg6 aCap 1 0 0x20000)).first
     let s := State.editG (slot 0) fun g => g.setQueue 2 { Queue.empty with binding := 0x8A00, entries := [y] }
     (s.engine theSurvey).busy = none ∧ (s.engine theSurvey).results = [] ∧ (s.die 0).held = false ∧ s.engineOn 0 theSurvey = true ∧
       ((s.nextFeed theSurvey).bind fun f => s.group? f.group).isSome = true ∧ onward s (.engineTakeCommand theSurvey) = true) := by
  refine ⟨?_, ?_, ?_, ?_, ?_⟩ <;> decide +kernel
theorem witness_EnginesRunTheirCommands_deliver :
    (let r : EngineResult := { group := 2, queue := 5, gen := 0, entries := [QEntry.ofScalar 1, QEntry.ofScalar 2] }
     let s := (bound 5 0xC600 (slot 0)).setEngine theSurvey { Engine.idle with results := [r] }
     s.queueRoom 2 5 0 1 = true ∧ onward s (.engineResultDeliver theSurvey) = true) := by
  refine ⟨?_, ?_⟩ <;> decide +kernel
theorem witness_EnginesRunTheirCommands_status :
    (let s := busyWith theSurvey (aSurvey 1 []) paged
     s.command? theSurvey = some (aSurvey 1 []) ∧ onward s (.kvrsSurvey 0) = true) := by
  refine ⟨?_, ?_⟩ <;> decide +kernel
theorem witness_EnginesRunTheirCommands_ray :
    (let b := aTaken (.ray true 2 anAttached)
     let s := busyWith { kind := .ray, unit := 0 } b paged
     s.command? { kind := .ray, unit := 0 } = some b ∧ answered (traceLanes s b anAttached true (lanes b.first.mask)) = true ∧ onward s (.rayResult 0) = true) := by
  refine ⟨?_, ?_, ?_⟩ <;> decide +kernel
theorem witness_EnginesRunTheirCommands_light :
    (let b := aTaken (.light 0 anAttached)
     let s := busyWith { kind := .light, unit := 0 } b paged
     s.command? { kind := .light, unit := 0 } = some b ∧ answered (lightLanes s b (s.launchOfParcel 1) 0 anAttached (lanes b.first.mask)) = true ∧
       onward s (.lightWalk 0) = true) := by
  refine ⟨?_, ?_, ?_⟩ <;> decide +kernel
theorem witness_EnginesRunTheirCommands_reuse :
    (let b := aTaken (.reuse aCap aReuse 0 anAttached [])
     let s := busyWith { kind := .reuse, unit := 0 } b paged
     s.command? { kind := .reuse, unit := 0 } = some b ∧ (ruPixels aReuse).length = 1 ∧ answered ((theReuse s b).pixels (ruPixels aReuse)) = true ∧
       onward s (.reuseCardRun 0) = true) := by
  refine ⟨?_, ?_, ?_, ?_⟩ <;> decide +kernel
theorem witness_EnginesRunTheirCommands_meshlets :
    (let b := aTaken (.gfemb aCap 0 0)
     let s := busyWith theGeometry b paged
     s.command? theGeometry = some b ∧ (GfeCtx.run { e := theGeometry, b := b, cap := aCap, w := 0, area := 0 } s).stop = none ∧
       onward s (.gfeMeshletPass 0) = true) := by
  refine ⟨?_, ?_, ?_⟩ <;> decide +kernel
theorem witness_EnginesRunTheirCommands_pyramid :
    (let b := aTaken (.gfedepth aCap (BitVec.ofNat 1024 (2 ^ 704 + 2 ^ 688)))
     let s := busyWith theGeometry b paged
     s.command? theGeometry = some b ∧
       (GfeCtx.pyramid { e := theGeometry, b := b, cap := aCap, w := BitVec.ofNat 1024 (2 ^ 704 + 2 ^ 688), area := 0 } s).stop = none ∧
       onward s (.gfePyramidBuild 0) = true) := by
  refine ⟨?_, ?_, ?_⟩ <;> decide +kernel
theorem witness_EnginesRunTheirCommands_counts :
    (let b := { aTaken (.gfemb aCap 0 0) with stage := 1, survey := [(0, [], 0)] }
     let s := busyWith theGeometry b paged
     s.command? theGeometry = some b ∧ s.engineQuiet theGeometry = true ∧ onward s (.gfeMeshletPass 0) = true) := by
  refine ⟨?_, ?_, ?_⟩ <;> decide +kernel

/-- Card 60 of the group, which copies eight bytes at 0x200 to 0x300, after a change. -/
def aRegion (n : Nat) : Region := { global := true, cap := aCap, reg := 1, off := n, base := n, handle := 0, rowLen := 8, rows := 1, pitch := 8 }
def aCard : Card :=
  { uid := 60, kind := .copy, group := 2, parcel := 1, vf := 0, core := 0, out := (3, 0), engine := { kind := .copy, unit := 0 }, clause := 0,
    slot := 0, fmt := 0, arg := 0, semv := false, sem := 0, inc := 0, key := 0, parts := 2, cop := 0, ety := .n8, kspec := 0,
    reads := [aRegion 0x200], writes := [aRegion 0x300], acks := 0, state := .waiting }
/-- A matrix card that adds a product of one byte by one byte to a number of four. -/
def aProduct : Card :=
  { aCard with kind := .matrix, kspec := BitVec.ofNat 168 (2 ^ 96 + 2 ^ 90), reads := [aRegion 0x200, aRegion 0x208], writes := [{ aRegion 0x300 with rowLen := 4 }] }
def carded (l : List Card) : State := (tabled (bound 3 0xC400 (slot 0))).setPair 0 { Pair.empty with cards := l }

/-- The card is the next one that the scheduler dispatches. -/
def dispatches (s : State) (c : Card) : Bool :=
  (s.pair 0).cards.find? (fun x => s.cardReady (s.pair 0) x && (s.cardTurn x || ((s.pair 0).brokenBy x).isSome)) = some c
/-- What the regions of a card hold once an engine has taken it. -/
def regionsOf (s : State) (c : Card) : Except UnitStop (List (List Byte)) :=
  let (u, d) := s.takeCard c
  (regionReads d u d.reads).2

theorem witness_CardsRunAndComplete_stop :
    (let c := { aCard with uid := 61, reads := [aRegion 0x300] }
     let s := carded [{ aCard with state := .stopped 7 }, c]
     dispatches s c = true ∧ (s.pair 0).brokenBy c = some 7 ∧ onward s (.jobCardDispatch 0) = true) ∧
    (let c := { aCard with kind := .collective, state := .result [1, 2] none }
     let s := carded [c]
     dispatches s c = true ∧ (s.pair 0).brokenBy c = none ∧ onward s (.jobCardDispatch 0) = true) := by
  refine ⟨⟨?_, ?_, ?_⟩, ⟨?_, ?_, ?_⟩⟩ <;> decide +kernel
theorem witness_CardsRunAndComplete_run :
    (let s := carded [aCard]
     dispatches s aCard = true ∧ (s.pair 0).brokenBy (s.takeCard aCard).2 = none ∧
      (match regionsOf s aCard with
        | .ok bss => decide (cardWork aCard bss = .ok (.writes [{ region := aRegion 0x300, at' := 0, data := List.replicate 8 0 }]))
        | _ => false) = true ∧ (aRegion 0x300).global = true ∧
      (match s.unitPieces 0 .write ((aRegion 0x300).cut 0 (List.replicate 8 0)) with | (t, .ok ps) => t.roomOver aCard.via ps | _ => false) = true ∧
      ((s.unitPieces 0 .write ((aRegion 0x300).cut 0 (List.replicate 8 0))).1.launchOfParcel 1).hdr.sub = false ∧ onward s (.jobCardDispatch 0) = true) ∧
    (let s := carded [{ aCard with kind := .collective }]
     dispatches s { aCard with kind := .collective } = true ∧ answered (regionsOf s { aCard with kind := .collective }) = true ∧ onward s (.jobCardDispatch 0) = true) ∧
    (let s := carded [aProduct]
     dispatches s aProduct = true ∧ (s.pair 0).brokenBy (s.takeCard aProduct).2 = none ∧
      (match regionsOf s aProduct with
        | .ok bss => (match cardWork aProduct bss with | .ok (.sums _ t _) => decide (t = .s32) | _ => false)
        | _ => false) = true ∧ onward s (.jobCardDispatch 0) = true) := by
  refine ⟨⟨?_, ?_, ?_, ?_, ?_, ?_, ?_⟩, ⟨?_, ?_, ?_⟩, ⟨?_, ?_, ?_, ?_⟩⟩ <;> decide +kernel
/-- The status of a card has room in its queue, is its binding's next, and has its record held or posted. -/
def ends (s : State) (c : Card) : Bool := s.queueRoom 2 3 0 1 && !s.behindTaken c && !s.cardStalls c
theorem witness_CardsRunAndComplete_end :
    (let s := carded [{ aCard with state := .acks }]
     s.card? 60 = some { aCard with state := .acks } ∧ ends s { aCard with state := .acks } = true ∧ (s.net.any fun o => o.sender = .card 60) = false ∧
      onward s (.jobCardComplete 60) = true) ∧
    (let s := carded [{ aCard with state := .failed 7 }]
     s.card? 60 = some { aCard with state := .failed 7 } ∧ ends s { aCard with state := .failed 7 } = true ∧ onward s (.jobCardComplete 60) = true) := by
  refine ⟨⟨?_, ?_, ?_, ?_⟩, ⟨?_, ?_, ?_⟩⟩ <;> decide +kernel

/-- Page tables of four levels that put the 4 KiB page at address 0 at 0x20000. -/
def paged4 : State :=
  let w (a v : Nat) (m : Tbl Byte) : Tbl Byte := Memory.writeN m a (bytesOfNat 8 v)
  let s := tabled (slot 0)
  { s with mem := w 0x10000 0x11020 (w 0x11000 0x13020 (w 0x13000 0x14020 (w 0x14000 0x2003E (Memory.writeN [] 0x20000 [7])))) }
def aMove (b : Bool) : Migration :=
  { va := 0, size := 4096, oldPa := 0x20000, oldTgt := 0, pfn := 0x30, tgt := 0, key := 0, enc := false, started := b }
def moveWord (pfn : Nat) : W128 := BitVec.ofNat 128 (pfn * 2 ^ 52 + 1)
def commanded (s : State) (x : W128) : State := s.setVf 0 { s.vf 0 with migcmd := withStatus (migFields x) (migStatus (s.vf 0).migcmd) }
/-- The migration that the word asks for of the page at address 0 is one the package may make, or is not. -/
def movable (pfn : Nat) (b : Bool) : Bool :=
  let s := commanded paged4 (moveWord pfn)
  match walk s 0 4 (s.tableOf 0) with
  | .leaf _ _ _ e =>
      decide (pageBytes (pteSize e) = 4096) && decide (pteState e = 1) &&
        decide (s.migrationOk 0 (migrationOf (moveWord pfn) 0 4096 (pteBase e) (e.extractLsb' 7 2)) = b)
  | _ => false

theorem witness_ShootdownsAndMigrations :
    (let s := mapped (slot 0)
     (s.vf 0).xinv.getLsbD 0 = false ∧ (xinvRange 0).isSome = true ∧ onward s (.shootdown 0 0) = true) ∧
    (((5 * 2 ^ 24 + 3 * 2 ^ 28 : W64).extractLsb' 24 4).toNat = 5 ∧ ((0 : W64).extractLsb' 24 4).toNat = 0) ∧
    (let s := (slot 0).setVf 0 { Vf.reset with xinv := 1 }
     (s.vf 0).xinv.getLsbD 0 = true ∧ (s.vf 0).oldLoads = [] ∧ s.net = [] ∧ onward s (.shootdownDone 0) = true) ∧
    ((paged4.vf 0).migrate = none ∧ (moveWord 0x30).getLsbD 0 = true ∧ (paged4.vf 0).xroot.getLsbD 0 = true ∧ movable 0x30 true = true ∧
      movable (2 ^ 39) false = true ∧ onward paged4 (.migratePage 0 (moveWord 0x30)) = true ∧ onward paged4 (.migratePage 0 (moveWord (2 ^ 39))) = true) ∧
    (let s := paged4.setVf 0 { paged4.vf 0 with migrate := some (aMove true) }
     (s.vf 0).migrate = some (aMove true) ∧ s.pageQuiet 0 (aMove true) = true ∧
      (s.crossCopy ((aMove true).oldCell s) ((aMove true).newCell s) 4096).isSome = true ∧
      (match walk s 0 4 (s.tableOf 0) with | .leaf _ _ _ _ => true | _ => false) = true ∧ onward s (.migrationCopy 0) = true) ∧
    (Memory.wf paged4.mem = true ∧ 0x20000 + 4096 ≤ 0x30000) := by
  refine ⟨⟨?_, ?_, ?_⟩, ⟨?_, ?_⟩, ⟨?_, ?_, ?_, ?_⟩, ⟨?_, ?_, ?_, ?_, ?_, ?_, ?_⟩, ⟨?_, ?_, ?_, ?_⟩, ⟨?_, ?_⟩⟩ <;> decide +kernel

/-- A command for queue 0 in a mode, with GO. -/
def preWord (mode : Nat) : W64 := BitVec.ofNat 64 (2 ^ 24 + mode * 2 ^ 22 + 1)
/-- The group stands at a safe point, and its parcel is in a state. -/
def standing (st : ParcelState) (r : Routine) : State :=
  let s := State.editG (slot 0) fun g => { g with run := none, p0 := g.p0.map fun p => { p with safe := some 0, routine := r } }
  { State.editP (deep s) fun p => { p with state := st } with active := [] }
def quiet (s : State) : Bool := (s.vf 0).precmd.extractLsb' 1 2 != 1

theorem witness_PreemptionCompletes :
    (quiet (slot 0) = true ∧ (preWord 0).getLsbD 0 = true ∧ ((preWord 0).extractLsb' 22 2).toNat = 0 ∧ onward (slot 0) (.preemptSave 0 (preWord 0)) = true) ∧
    (((preWord 1).extractLsb' 22 2).toNat = 1 ∧ onward (slot 0) (.preemptSaveOrRequeue 0 (preWord 1)) = true) ∧
    (((preWord 2).extractLsb' 22 2).toNat = 2 ∧ onward (slot 0) (.preemptEnd 0 (preWord 2)) = true) ∧
    (let s := (slot 0).holdQueue 0 0 true
     quiet s = true ∧ ((preWord 3).extractLsb' 22 2).toNat = 3 ∧ ((preQueues (preWord 3)).filter fun n => ((s.vf 0).queue n).held) = [0] ∧
      onward s (.preemptRelease 0 (preWord 3)) = true) ∧
    (let s := standing (.saving 9) .none
     (s.parcel? 1).map (fun p => p.state) = some (.saving 9) ∧ (s.liveGroups 1).length = 1 ∧ (s.liveGroups 1).all Group.standsSafe = true ∧
      answered (endAllQuanta [2] s) = true ∧ onward s (.saveRoutineEnter 1) = true) ∧
    (let s := standing (.saveRoutines 9) .saved
     (s.parcel? 1).map (fun p => p.state) = some (.saveRoutines 9) ∧ (s.liveGroups 1).all Group.savedAll = true ∧ (s.pair 0).cards = [] ∧
      (s.pair 0).ops = [] ∧ onward s (.saveComplete 1) = true) ∧
    (let s := (standing (.saveRoutines 9) .saved).setPair 0 { Pair.empty with cards := [{ aCard with state := .stopped 7 }] }
     (s.parcel? 1).map (fun p => p.state) = some (.saveRoutines 9) ∧ onward s (.saveComplete 1) = true ∧
      goes (fun t => decide ((t.parcel? 1).map (fun p => p.state) = some .saved)) (exec (.saveComplete 1) s) = true) ∧
    (let s := standing .restoring .saved
     (s.parcel? 1).map (fun p => p.state) = some .restoring ∧ onward s (.restore 1) = true) ∧
    (let s := standing (.saving 0) .none
     (s.parcel? 1).map (fun p => (p.state, p.late)) = some (.saving 0, false) ∧ onward s (.preemptLate 1) = true) ∧
    ((slot 0).parcel? 1).map (fun p => p.state) = some .running := by
  refine ⟨⟨?_, ?_, ?_, ?_⟩, ⟨?_, ?_⟩, ⟨?_, ?_⟩, ⟨?_, ?_, ?_, ?_⟩, ⟨?_, ?_, ?_, ?_, ?_⟩, ⟨?_, ?_, ?_, ?_, ?_⟩, ⟨?_, ?_, ?_⟩, ⟨?_, ?_⟩, ⟨?_, ?_⟩, ?_⟩ <;> decide +kernel

def booted : State := { State.reset with control := { Control.reset with boot := .running, lifecycle := .production } }

theorem witness_ResetsComplete :
    ((State.reset.die 0).held = false ∧ onward State.reset (.computeDieReset 0 true) = true) ∧
    (let s := State.reset.setDie 0 { Die.reset with held := true }
     (s.die 0).held = true ∧ onward s (.dieRelink 0) = true) ∧
    (let s := State.reset.setVf 63 { Vf.reset with resetting := true }
     (s.vf 63).resetting = true ∧ s.vfQuiet 63 = true ∧ onward s (.vfReset 63) = true) ∧
    onward State.reset .coldReset = true ∧ onward State.reset .warmReset = true ∧
    (let s := { State.reset with control := { Control.reset with boot := .failed 1 }, time := 10000000000 }
     s.control.boot = .failed 1 ∧ 10000000000 ≤ (s.time - s.control.bootAt).toNat ∧ onward s .bootSourceRetry = true) ∧
    (booted.control.boot = .running ∧ booted.island 0 = .active ∧ booted.islandEmpty 0 = true ∧ onward booted (.islandPowerChange 0 .off) = true) ∧
    (booted.island 119 = .active ∧ onward booted (.islandPowerChange 119 .gated) = true) ∧
    (let s := (List.range 24).foldl (fun s n => { s with control := { s.control with islands := Tbl.put .active s.control.islands n .off } }) booted
     s.pairsOff 0 = true ∧ onward s (.islandPowerChange 24 .gated) = true) := by
  refine ⟨⟨?_, ?_⟩, ⟨?_, ?_⟩, ⟨?_, ?_, ?_⟩, ?_, ?_, ⟨?_, ?_, ?_⟩, ⟨?_, ?_, ?_, ?_⟩, ⟨?_, ?_⟩, ⟨?_, ?_⟩⟩ <;> decide +kernel

def aToken : DebugToken := { keyid := 0, state := .invasive, nonce := 0, owner := false, signature := [] }
def aLifecycle : ConfigRecord := { kind := .lifecycle, seq := 1, payload := [], owner := false, signature := [] }

theorem witness_SecurityEngineCompletes :
    (booted.enabled = true ∧ booted.control.boot = .running ∧ (63 < 64) ∧ onward booted (.attestationRequest (some 63) 5) = true) ∧
    (cellExists (cellOf 0 0x1000) 64 = true ∧ booted.poisoned (cellOf 0 0x1000) 64 = false ∧ booted.control.admitted = [] ∧
      onward booted (.codeAdmission 0 0x1000 64 3) = true) ∧
    (let s := booted.setVf 0 { Vf.reset with wrapKey := some [1], krange := BitVec.ofNat 32 (2 ^ 16) }
     s.enabled = true ∧ (s.vf 0).wrapKey = some [1] ∧ ((s.vf 0).krange.extractLsb' 0 12).toNat = 0 ∧ ((s.vf 0).krange.extractLsb' 16 13).toNat = 1 ∧
      s.control.lifecycle = .production ∧ (Tbl.get KeySlot.reset s.control.keys 0).state = 0 ∧ onward s (.keyLoad 0 0 []) = true) ∧
    onward booted (.mlKemEncapsulation 0 []) = true ∧
    (booted.control.lifecycle = .production ∧ aToken.state = .invasive ∧ onward booted (.debugToken aToken) = true) ∧
    (nextLifecycle booted.control.lifecycle = some .returnAnalysis ∧ aLifecycle.kind = .lifecycle ∧ aLifecycle.owner = false ∧
      booted.recordFresh aLifecycle = true ∧ onward booted (.lifecycleAdvance aLifecycle) = true) := by
  refine ⟨⟨?_, ?_, ?_, ?_⟩, ⟨?_, ?_, ?_, ?_⟩, ⟨?_, ?_, ?_, ?_, ?_, ?_, ?_⟩, ?_, ⟨?_, ?_, ?_⟩, ⟨?_, ?_, ?_, ?_, ?_⟩⟩ <;> decide +kernel

def invasive : State := { booted with control := { booted.control with debug := .invasive } }

theorem witness_DebugEventsComplete :
    onward State.reset .datumInEdge = true ∧ (invasive.control.debug = .invasive ∧ onward invasive .debugPortDatumTrigger = true) ∧
    ((Tbl.get Snapshot.clear State.reset.control.snaps (snapKey 3 0x171)).stat.getLsbD 0 = false ∧ State.reset.island (islandOf 3 0x171) = .active) ∧
    (let s := { State.reset with control := { Control.reset with snaps := [(snapKey 3 0x171, { stat := 1, regs := [] })] } }
     (Tbl.get Snapshot.clear s.control.snaps (snapKey 3 0x171)).stat.getLsbD 0 = true ∧ s.island (islandOf 3 0x171) ≠ .off ∧
      onward s (.snapstatClear 3 0x171 1) = true) ∧
    (blockExists 3 0x171 = true ∧ State.reset.control.debug = .off ∧ onward State.reset (.snapshotRead .debugPort 3 0x171 7) = true) ∧
    ((191 < 192) ∧ (7 < 8) ∧ invasive.island (islandOf 3 47) ≠ .off ∧ onward invasive (.breakpointWrite .debugPort 191 7 5) = true) ∧
    (let s := { (slot 0).setVf 0 { Vf.reset with sigpol := 2 } with control := { booted.control with debug := .selfHosted } }
     s.debugOn 0 = true ∧ (0 : W128).extractLsb' 58 6 = 0 ∧ onward s (.breakpointWrite (.vf 0) 0 0 0) = true) ∧
    (let s := { State.editG (slot 0) fun g => { g with status := .stopped none } with control := invasive.control }
     (s.group? 2).map (fun g => (g.status, g.width)) = some (.stopped none, 8) ∧ s.debugPort = true ∧ (3 < 4 ∧ 7 < 8) ∧
      onward s (.debuggerLatchWrite 2 3 7 5) = true ∧ onward s (.debugPortResume 2) = true) ∧
    (let line (d : Bool) : L2Line := { line := 0, way := 0, hint := 0, dirty := d, below := [] }
     let s (d : Bool) : State := State.reset.setDie (homeDie 0) { Die.reset with l2 := [line d] }
     ((s true).die (homeDie (0 * 64))).l2.find? (fun x => x.line = 0 / 4) = some (line true) ∧ onward (s true) (.storageError (.l2Line 0 false)) = true ∧
      ((s false).die (homeDie (0 * 64))).l2.find? (fun x => x.line = 0 / 4) = some (line false) ∧ onward (s false) (.storageError (.l2Line 0 true)) = true) := by
  refine ⟨?_, ⟨?_, ?_⟩, ⟨?_, ?_⟩, ⟨?_, ?_, ?_⟩, ⟨?_, ?_, ?_⟩, ⟨?_, ?_, ?_, ?_⟩, ⟨?_, ?_, ?_⟩, ⟨?_, ?_, ?_, ?_, ?_⟩, ⟨?_, ?_, ?_, ?_⟩⟩ <;> decide +kernel

/-- The port or the link of number 0 while it trains. -/
def training : State :=
  let s := State.reset.setLink 0 { State.reset.link 0 with retrain := true }
  s.setPort 0 { s.port 0 with retrain := true }

theorem witness_OutsideWorldCompletes_registers :
    onward submitted (.sigpolWrite 63 5) = true ∧ onward submitted (.lqtktWrite 63 7 4096) = true ∧ onward submitted (.lqtktWrite 0 0 4097) = true ∧
    submitted.enabled = true ∧ onward submitted (.lqcfgWrite 0 0 0) = true ∧ onward submitted (.fqcfgWrite 0 0) = true ∧
    (((16 : W64).extractLsb' 0 32 - ((submitted.vf 0).queue 0).cons).toNat ≤ ringSize ((submitted.vf 0).queue 0).cfg) ∧
    (ringSize ((submitted.vf 0).queue 0).cfg < ((17 : W64).extractLsb' 0 32 - ((submitted.vf 0).queue 0).cons).toNat) ∧
    onward submitted (.lqidxWrite 0 0 16) = true ∧ onward submitted (.lqidxWrite 0 0 17) = true ∧
    (((submitted.vf 0).fqprod - (0 : W64).extractLsb' 32 32).toNat ≤ ringSize (submitted.vf 0).fqcfg) ∧ onward submitted (.fqidxWrite 0 0) = true ∧
    submitted.rangeFree 0 (fun v => v.krange) (rangeOf (rangeFields 0x10000)) = true ∧ onward submitted (.krangeWrite 0 0x10000) = true ∧
    submitted.rangeFree 0 (fun v => v.prange) (rangeOf (rangeFields 0x10000)) = true ∧ onward submitted (.prangeWrite 0 0x10000) = true ∧
    (let x : W64 := BitVec.ofNat 64 (2 ^ 32 + 2 ^ 48)
     (submitted.die 3).held = false ∧ (submitted.die 3).tilesBut 0 + (Rect.ofWord x).tiles ≤ 2048 ∧
      (((submitted.die 3).unpin (.reservoir 0)).pin (.reservoir 0) (4 * (Rect.ofWord x).tiles)).isSome = true ∧
      onward submitted (.rsvrectWrite 0 3 x) = true) ∧
    onward submitted (.registerWrite (.xroot 0) 1) = true ∧ onward submitted (.registerWrite (.otdesc 0) 1) = true ∧
    (let on : W64 := BitVec.ofNat 64 (2 ^ 63 + 4)
     ringOn on = true ∧ ringOn 0 = false ∧ (4 : W64).extractLsb' 0 5 = 4) := by
  refine ⟨?_, ?_, ?_, ?_, ?_, ?_, ?_, ?_, ?_, ?_, ?_, ?_, ?_, ?_, ?_, ?_, ⟨?_, ?_, ?_, ?_⟩, ?_, ?_, ⟨?_, ?_, ?_⟩⟩ <;> decide +kernel

theorem witness_OutsideWorldCompletes_outside :
    (let s := State.reset.setLinkDir 31 { State.reset.linkDir 31 with sent := 1 }
     (s.port 15).retrain = false ∧ (s.linkDir (16 + 15)).sent ≠ 0 ∧ onward s (.flitReplay 15) = true ∧ onward s (.linkRetrain 15) = true) ∧
    ((State.reset.link 7).retrain = false ∧ (State.reset.link 7).rate ≠ 1 ∧ (State.reset.link 7).stepAt = none ∧
      onward State.reset (.linkRateStep 7 1) = true) ∧
    ((training.link 0).retrain = true ∧ onward training (.retrainingWindowEnd (.die 0)) = true) ∧
    ((training.port 0).retrain = true ∧ onward training (.retrainingWindowEnd (.port 0)) = true) ∧
    (let s := submitted
     (s.outsideCross (cellOf 0 0x1000) clsControl clsControl).isSome = true ∧ (s.outsideCross (cellOf 0 0x1000) clsRequest clsControl).isSome = true ∧
      (let h := { s with links := [(4, { s.link 4 with retrain := true })] }
       homeDie (cellOf 0 0x1000) = 0 ∧ (h.outsideCross (cellOf 0 0x1000) clsControl clsControl).isNone = true) ∧
      s.deadHome (cellOf 0 0x1000) = false ∧ cellExists (cellOf 0 0x1000) 64 = true ∧ s.poisoned (cellOf 0 0x1000) 64 = false ∧
      onward s (.hostCxlMemAccess 0x1000 (.read 64)) = true ∧ onward s (.hostCxlMemAccess 0x1000 (.write [1, 2])) = true ∧
      onward s (.fabricRequestArrival (.read 1 0x1000 64)) = true ∧ onward s (.fabricRequestArrival (.write 1 0x1000 [1, 2])) = true ∧
      cellExists (cellOf 0 0x1000) (ElemType.n32.width / 8) = true ∧ onward s (.fabricRequestArrival (.atomic 1 0x1000 .n32 0 5)) = true) ∧
    (let c := cellOf 1 0x1000
     let s := submitted.setDie (homeDie c) { Die.reset with l2 := [{ line := c / 256, way := 0, hint := 0, dirty := true, below := [] }] }
     ((s.die (homeDie c)).l2.any fun x => x.line = c / 256) = true ∧ (s.outsideCross c clsControl clsControl).isSome = true ∧
      onward s (.hostCxlCacheSnoop 0x40 .readShared) = true ∧
      onward s (.hostCxlCacheSnoop 0x40 .readInvalidate) = true ∧ onward s (.hostCxlCacheSnoop 0x40 (.write [1])) = true) := by
  refine ⟨⟨?_, ?_, ?_, ?_⟩, ⟨?_, ?_, ?_, ?_⟩, ⟨?_, ?_⟩, ⟨?_, ?_⟩, ⟨?_, ?_, ⟨?_, ?_⟩, ?_, ?_, ?_, ?_, ?_, ?_, ?_, ?_, ?_⟩, ⟨?_, ?_, ?_, ?_, ?_⟩⟩ <;> decide +kernel

/-- A datum edge and an XROOT write are to come. -/
theorem witness_StepKeepsMemoryCanonical :
    (let s : State := { State.reset with agenda := [{ ev := .datumInEdge, cycles := 1, ns := 1 }, { ev := .registerWrite (.xroot 0) 1, cycles := 1, ns := 1 }] }
     s.memoryOk = true ∧ goes (fun _ => true) (step s) = true) := by
  refine ⟨?_, ?_⟩ <;> decide +kernel

theorem witness_EncodingIsReadBack :
    (Instr.vadd (fV 2)).wellFormed = true ∧ (Instr.jccopy (plainQ .n8 0 2 (.s 23) (some (0, 1)) (.v 0))).wellFormed = true ∧
    (Instr.br { target := 4, join := 6, kc := 2, kn := false, bmode := 0, cnt := 0 }).wellFormed = true := by decide

/-! ## Ill-formed terms are refused -/

/-- The first of two instructions is well formed and the second, which differs from it in one field, is not. -/
def apart (l : List (Instr × Instr)) : Bool := l.all fun x => x.1.wellFormed && !x.2.wellFormed
def wV (ty : ElemType) (x : BitVec 9) : VForm := plainV ty 0 (.v 1) (.v 2) (.v 3) (.v 4) x
def w3 (ty : ElemType) (x : BitVec 9) : VForm := { wV ty x with sc := .v 0 }
def w2 (ty : ElemType) (x : BitVec 9) : VForm := { w3 ty x with sb := .v 0 }
def wD (ty : ElemType) (x : BitVec 9) : VForm := { w2 ty x with sa := .v 0 }
def w0 (ty : ElemType) (x : BitVec 9) : VForm := { wD ty x with dst := .v 0 }
def wA (ty : ElemType) (x : BitVec 9) : VForm := { w2 ty x with dst := .v 0 }
def wAB (ty : ElemType) (x : BitVec 9) : VForm := { w3 ty x with dst := .v 0 }
def wM (ty : ElemType) (data : Operand) (ofs : BitVec 16) : MForm := plainM ty data 1 (some (.s 5)) ofs
def wQ (qd cap : BitVec 4) (desc arg : Operand) : QForm := plainQ .n8 qd cap desc none arg
def wI : IForm := { ty := .n32, var := 0, pg := 0, pn := false, nw := false, dst := .s 1, imm := 5, pfx := Pfx.none }
def wB : BForm := { target := 4, join := 6, kc := 2, kn := false, bmode := 0, cnt := 0 }
def wS (sel : BitVec 12) (dst sa : Operand) (imm : BitVec 15) : SForm :=
  { sel := sel, pg := 0, pn := false, nw := false, dst := dst, sa := sa, imm := imm, pfx := Pfx.none }
def wP (f : VForm) (p : Pfx) : VForm := { f with pfx := p }

theorem smoke_forms :
    apart [(.vadd (w3 .n32 0), .vadd (w3 .lg8 0)), (.vadd (w3 .n32 0), .vadd { w3 .n32 0 with var := 1 }), (.vadd (w3 .n32 0), .vadd (wV .n32 0)),
      (.vadd (w3 .n32 0), .vadd (w3 .n32 2)), (.vadd (w3 .n32 1), .vadd (w3 .f32 1)), (.vadd (w3 .n32 0), .vadd { w3 .n32 0 with sb := .reserved 5 }),
      (.vadd (wP (w3 .f32 0) { Pfx.none with rnd := 4 }), .vadd (wP (w3 .f32 0) { Pfx.none with rnd := 5 })),
      (.vnot (w2 .n32 0), .vnot (w3 .n32 0)), (.nop (w0 .n8 0), .nop (w0 .n16 0)), (.nop (w0 .n8 0), .nop (wD .n8 0)),
      (.nop (w0 .n8 0), .nop { w0 .n8 0 with nw := true }), (.nop (w0 .n8 0), .nop { w0 .n8 0 with pg := 1 }), (.nop (w0 .n8 0), .nop (wA .n8 0))] = true ∧
    apart [(.vadd (wP (w3 .n32 0) { Pfx.none with wm := 2 }), .sadd (wP (w3 .n32 0) { Pfx.none with wm := 2 })),
      (.vadd (wP (w3 .f32 0) { Pfx.none with rnd := 1 }), .vadd (wP (w3 .n32 0) { Pfx.none with rnd := 1 })),
      (.cas { wM .n32 (.v 1) 0 with pfx := { Pfx.none with d4 := some (.v 2) } }, .cas (wM .n32 (.v 1) 0)),
      (.vadd (w3 .n32 0), .vadd (wP (w3 .n32 0) { Pfx.none with d4 := some (.v 2) })), (.nop (w0 .n8 0), .dispatch), (.nop (w0 .n8 0), .coldReset)] = true := by
  refine ⟨?_, ?_⟩ <;> decide

theorem smoke_scalar :
    apart [(.smovi wI, .smovi { wI with ty := .n8, imm := 256 }), (.saddi wI, .saddi { wI with ty := .f32 }), (.vmovi wI, .vmovi { wI with var := 1 }),
      (.sadd (w3 .n32 1), .sadd (w3 .f32 0)), (.srem (w3 .n32 0), .srem (w3 .n32 1)), (.sshl (w3 .n32 0), .sshl { w3 .n32 0 with var := 2 }),
      (.scmp (w3 .n32 8), .scmp (w3 .n32 1)), (.ssel (wV .n32 0), .ssel (wV .n32 1)), (.srd (wD .n8 0x15), .srd (wD .n8 0x16)),
      (.scvt (w2 .n32 (BitVec.ofNat 9 12)), .scvt (w2 .n32 (BitVec.ofNat 9 28))), (.scvt (w2 .n32 (BitVec.ofNat 9 13)), .scvt (w2 .f32 (BitVec.ofNat 9 13))),
      (.sclz (w2 .n32 0), .sclz (w2 .f32 0)), (.smov (w2 .n32 0), .smov (w2 .n32 1))] = true := by decide

theorem smoke_vector :
    apart [(.vmin (w3 .lg8 0), .vmin (w3 .lg8 1)), (.vdiv (w3 .n32 0), .vdiv (w3 .f32 0)), (.vand (w3 .n32 0), .vand (w3 .n32 1)), (.vcmp (wAB .n32 0x40), .vcmp (wAB .n32 0x41)),
      (.vsel (w3 .n32 0xF), .vsel (w3 .n32 0x10)), (.vcvt (w2 .n32 (BitVec.ofNat 9 12)), .vcvt (w2 .n32 (BitVec.ofNat 9 14))),
      (.vunpk (w2 .n32 (BitVec.ofNat 9 2)), .vunpk (w2 .n32 (BitVec.ofNat 9 66))), (.vcpys (w3 .f32 0), .vcpys (w3 .n32 0)),
      (.kand (w0 .n8 5), .kand (w0 .n16 5)), (.knot (w0 .n8 0x1F8), .knot (w0 .n8 1)), (.kmovSk { wA .n8 0x1C0 with var := 1 }, .kmovSk (wA .n8 0x1C0)),
      (.kmovKs { wD .n8 0x38 with var := 2 }, .kmovKs { wD .n8 0x38 with var := 1 })] = true ∧
    apart [(.vpack (w3 .n8 (BitVec.ofNat 9 2)), .vpack (w3 .n8 (BitVec.ofNat 9 0))), (.vshfl { w3 .n32 0 with var := 3 }, .vshfl (w3 .n32 1)),
      (.vvote { w0 .n8 8 with var := 2 }, .vvote { w0 .n8 8 with var := 3 }), (.vballot { w2 .n8 0 with var := 1 }, .vballot { w2 .n8 0 with var := 2 }),
      (.vredx (w2 .n32 (BitVec.ofNat 9 10)), .vredx (w2 .f32 (BitVec.ofNat 9 10))), (.vscan (w2 .n32 0), .vscan (w2 .lg8 0)), (.setf (w2 .n8 0x3F), .setf (w2 .n8 0x40)),
      (.vspc { w2 .s8 2 with var := 1 }, .vspc { w2 .n32 2 with var := 1 }), (.vspc { w3 .n8 0 with var := 2 }, .vspc { w3 .s8 0 with var := 2 }),
      (.vrcp (w2 .f64 0), .vrcp (w2 .n64 0)), (.vexp2 (w2 .f32 0), .vexp2 (w2 .f64 0))] = true := by
  refine ⟨?_, ?_⟩ <;> decide

theorem smoke_control :
    apart [(.br wB, .br { wB with cnt := 5 }), (.br wB, .br { wB with join := 0x8000 }), (.br { wB with bmode := 1, join := 0x8000 }, .br { wB with bmode := 1 }),
      (.br { wB with bmode := 2, join := 0x8000 }, .br { wB with bmode := 3, join := 0x8000 }), (.jmp { wB with join := 0, kc := 0 }, .jmp { wB with join := 0 }),
      (.loop { wB with join := 0, kc := 0, target := 0xFFFE }, .loop { wB with join := 0, kc := 0, target := 4 }), (.exit (w0 .n8 0), .exit { w0 .n8 0 with nw := true }),
      (.reggive (w0 .n8 7), .reggive (w0 .n8 0x47)), (.rolesw (wA .n8 2), .rolesw (wA .n8 0x12)), (.trap (wS 0 (.v 0) (.v 1) 5), .trap (wS 1 (.v 0) (.v 1) 5)),
      (.tretRest (wS 1 (.v 0) (.v 0) 0), .tretRest (wS 1 (.v 0) (.v 0) 1)), (.tretSave (wS 0 (.v 0) (.v 0) 0), .tretSave (wS 0 (.v 0) (.v 1) 0)),
      (.datum (wS 0 (.v 1) (.v 0) 0), .datum (wS 1 (.v 1) (.v 0) 0)), (.bkpt (wS 0 (.v 0) (.v 0) 9), .bkpt (wS 0 (.v 1) (.v 0) 9)),
      (.sleept (wS 1 (.v 0) (.s 1) 0), .sleept (wS 2 (.v 0) (.s 1) 0))] = true := by decide

theorem smoke_memory :
    apart [(.ld { wM .f32 (.v 1) 5 with scope := 4, ord := 1 }, .ld { wM .f32 (.v 1) 5 with scope := 4, ord := 2 }), (.ld (wM .f32 (.v 1) 5), .ld { wM .f32 (.v 1) 5 with scope := 1 }),
      (.st { wM .f32 (.v 1) 5 with scope := 8, ord := 2 }, .st { wM .f32 (.v 1) 5 with scope := 9, ord := 2 }), (.ldp (wM .n64 (.v 1) 5), .ldp (wM .n32 (.v 1) 5)),
      (.ld { wM .f32 (.v 1) 5 with hint := 2 }, .ld { wM .f32 (.v 1) 5 with hint := 3 }), (.atom (wM .n32 (.v 1) 0), .atom { wM .n32 (.v 1) 0 with hint := 1 }),
      (.atom (wM .n32 (.v 1) 0x6000), .atom (wM .n32 (.v 1) 0x7000)), (.atomr (wM .s64 (.v 1) 0), .atomr (wM .f32 (.v 1) 0)),
      (.cnarrow (wM .n16 (.v 3) 0), .cnarrow (wM .n16 (.v 16) 0)), (.csave (wM .n8 (.v 3) 8), .csave (wM .n16 (.v 3) 8)),
      (.ld (wM .n8 (.v 1) 0), .ld { wM .n8 (.v 1) 0 with idx := some (.reserved 0x1FF) }), (.wlpush { wM .n64 (.v 1) 0 with scope := 7 }, .wlpush { wM .n64 (.v 1) 0 with scope := 8 }),
      (.wlsize (wM .n64 (.v 1) 0), .wlsize { wM .n64 (.v 1) 0 with scope := 1 })] = true ∧
    apart [(.tld (w3 .n32 0x3F), .tld (w3 .n32 0x40)), (.tst { wV .n32 5 with dst := .v 0 }, .tst (wV .n32 5)), (.talloc (wAB .n32 0x83), .talloc (wAB .n32 0xC3)),
      (.tfree (w0 .n8 3), .tfree (w0 .n32 3)), (.fence (w0 .n8 0x25), .fence (w0 .n8 0x29)), (.fence (w0 .n8 0x25), .fence (w0 .n8 5)),
      (.waitc (wM .n64 (.v 1) 0x5000), .waitc (wM .n64 (.v 1) 0x6000)), (.phreg (w0 .n8 0x41), .phreg (w0 .n8 1)), (.phdrop { wA .n8 0x40 with var := 1 }, .phdrop { wA .n8 0x41 with var := 1 }),
      (.pharr (wD .n8 5), .pharr (wD .n8 0x45)), (.phwait (wA .n8 5), .phwait (wAB .n8 5)), (.semset { wAB .n8 5 with var := 2 }, .semset { wAB .n8 5 with var := 1 }),
      (.semwait (w0 .n8 5), .semwait (w0 .n8 0x25)), (.semrd { wD .n8 5 with var := 2 }, .semrd { wD .n8 5 with var := 3 }),
      (.tvdecl { wM .n8 (.s 1) 0 with ord := 2, scope := 6 }, .tvdecl { wM .n8 (.s 1) 0 with ord := 2, scope := 5 }), (.tvwait (w0 .n8 0), .tvwait (w0 .n8 1)),
      (.tvend (w0 .n8 0), .tvend (w0 .n16 0))] = true := by
  refine ⟨?_, ?_⟩ <;> decide

theorem smoke_arrays :
    apart [(.qbind (wQ 2 0 (.s 5) (.v 0)), .qbind (wQ 2 1 (.s 5) (.v 0))), (.launch (wQ 7 1 (.s 5) (.s 6)), .launch (wQ 8 1 (.s 5) (.s 6))),
      (.jccopy (wQ 2 1 (.s 5) (.v 0)), .jccopy (wQ 2 1 (.s 5) (.v 1))), (.jcfill (wQ 2 1 (.s 5) (.s 6)), .jcfill { wQ 2 1 (.s 5) (.s 6) with ty := .n16 }),
      (.jcmtx (wQ 2 1 (.s 5) (.v 0)), .jcmtx { wQ 2 1 (.s 5) (.v 0) with var := 1 }), (.qbind (wQ 2 0 (.s 5) (.v 0)), .qbind { wQ 2 0 (.s 5) (.v 0) with semv := true }),
      (.mma (wAB .f32 0x40), .mma (wAB .f16 0x40)), (.mma (wAB .f32 0x40), .mma { wAB .f32 0x40 with nw := true }), (.mmas { wV .f32 0x40 with dst := .v 0 }, .mmas (wV .f32 0x40)),
      (.mlda (wV .n8 0xFF), .mlda (wV .n8 0x1FF)), (.mldb (w2 .n8 0x7F), .mldb (w2 .n8 0xFF)), (.unfold (wAB .n8 5), .unfold (wA .n8 0x45))] = true ∧
    apart [(.accdr (wQ 0 1 (.s 5) (.v 1)), .accdr (wQ 1 1 (.s 5) (.v 1))), (.accld (wA .s32 5), .accld (wA .f64 5)), (.accz (w0 .n8 5), .accz (w0 .n8 0x105)),
      (.accmovGet (w2 .n8 0x40), .accmovGet { w2 .n8 0x40 with var := 1 }), (.accmovPut { wAB .n8 0x40 with var := 1 }, .accmovPut (wAB .n8 0x40)),
      (.acccvt (w0 .f32 8), .acccvt (w0 .f32 1)), (.attqk { wV .lg6 2 with dst := .v 0 }, .attqk { wV .n8 2 with dst := .v 0 }), (.attsm (wA .f32 5), .attsm (wA .f16 5)),
      (.attpv (wAB .f32 4), .attpv (wAB .f32 1)), (.attmd (wQ 0 1 (.s 5) (.v 1)), .attmd { wQ 0 1 (.s 5) (.v 1) with nw := true }),
      (.kvrs { wQ 2 1 (.s 5) (.s 6) with ty := .lg6 }, .kvrs { wQ 2 1 (.s 5) (.s 6) with ty := .n8 }), (.msync (w0 .n8 0), .msync { w0 .n8 0 with pg := 1 }),
      (.melect { w0 .n8 0x40 with var := 1 }, .melect { w0 .n8 0x40 with var := 2 })] = true := by
  refine ⟨?_, ?_⟩ <;> decide

theorem smoke_rendering :
    apart [(.rng (w3 .n64 0), .rng (w3 .n32 0)), (.rngu (w3 .f32 0), .rngu (w3 .n64 0)), (.rsvinit (w2 .n8 0xF), .rsvinit (w2 .n8 0x10)), (.rsvupd (w3 .n8 0), .rsvupd (w3 .n8 1)),
      (.rsvmrg (wV .n8 0), .rsvmrg (wV .n16 0)), (.rsvnrm (wD .n8 0), .rsvnrm (w2 .n8 0)), (.rsvld { w2 .n8 0 with var := 1 }, .rsvld { w2 .n8 0 with var := 2 }),
      (.rsvst (wAB .n8 0), .rsvst (w3 .n8 0)), (.rsvclr (wAB .n8 0xF), .rsvclr (wAB .n8 0x10)), (.rsvcpy (wAB .n8 0), .rsvcpy { wAB .n8 0 with var := 1 }),
      (.motv (wV .n8 0x40), .motv (wV .n8 0x41)), (.scnbind (wQ 2 1 (.s 5) (.v 0)), .scnbind (wQ 2 1 (.s 5) (.v 1)))] = true ∧
    apart [(.rayq (wQ 2 0 (.v 5) (.v 1)), .rayq (wQ 2 1 (.v 5) (.v 1))), (.hitunp (w2 .f32 0), .hitunp (w2 .f16 0)), (.rayorg (w3 .n8 0), .rayorg (w3 .f32 0)),
      (.reuse (wQ 2 1 (.s 5) (.v 0)), .reuse (wQ 2 1 (.s 5) (.v 1))), (.gfedepth (w2 .n8 0xF), .gfedepth (w2 .n8 0x10)), (.viscls (wV .n8 0x1C0), .viscls (wV .n8 0x1C1)),
      (.visw (wA .n8 0), .visw (w2 .n8 0)), (.smpbind (wQ 0 1 (.s 5) (.v 1)), .smpbind (wQ 1 1 (.s 5) (.v 1))), (.smpt (w2 .f32 5), .smpt (w2 .f32 0x15)),
      (.smpb (w2 .n8 5), .smpb { w2 .n8 5 with var := 1 })] = true := by
  refine ⟨?_, ?_⟩ <;> decide

/-! ## Every opcode's word

Each word is laid out from the forms of R202 to R209 and the opcode map of R214, in the order of the map's families, with the guard !k5 where
the opcode takes one. -/

def reads (l : List (Nat × Instr)) : Bool := l.all fun x => decide (decodeTableWord 64 x.1 = some x.2)
def tV (ty : ElemType) (var : BitVec 2) (dst sa sb sc : Operand) (x : BitVec 9) : VForm := { plainV ty var dst sa sb sc x with pg := 5, pn := true }
def tI (ty : ElemType) (dst : Operand) (imm : W32) : IForm := { ty := ty, var := 0, pg := 5, pn := true, nw := false, dst := dst, imm := imm, pfx := Pfx.none }
def tM (ty : ElemType) (hint : BitVec 2) (data : Operand) (cap : BitVec 4) (idx : Option Operand) (ofs : BitVec 16) (scope : BitVec 4) (ord : BitVec 2) : MForm :=
  { plainM ty data cap idx ofs with hint := hint, pg := 5, pn := true, scope := scope, ord := ord }
def tQ (ty : ElemType) (qd cap : BitVec 4) (desc : Operand) (sem : Option (BitVec 5 × BitVec 8)) (arg : Operand) : QForm :=
  { plainQ ty qd cap desc sem arg with pg := 5, pn := true }
def tS (dst sa : Operand) (sel : BitVec 12) (imm : BitVec 15) : SForm :=
  { sel := sel, pg := 5, pn := true, nw := false, dst := dst, sa := sa, imm := imm, pfx := Pfx.none }

theorem words_1 : reads [
    (0x0100000000000000, .nop (plainV .n8 0 (.v 0) (.v 0) (.v 0) (.v 0) 0)),
    (0x02D2D3FA98000000, .smov (tV .lg6 0 (.s 63) (.q 15) (.v 0) (.v 0) 0)),
    (0x0322D010DEADBEEF, .smovi (tI .n32 (.s 1) 3735928559)),
    (0x0452D01A1D180001, .sadd (tV .s16 0 (.s 1) (.l 3) (.q 2) (.v 0) 1)),
    (0x0552D01A1D180001, .ssub (tV .s16 0 (.s 1) (.l 3) (.q 2) (.v 0) 1)),
    (0x0652D01A1D180001, .smul (tV .s16 0 (.s 1) (.l 3) (.q 2) (.v 0) 1)),
    (0x0852D01A1D180001, .sdiv (tV .s16 0 (.s 1) (.l 3) (.q 2) (.v 0) 1)),
    (0x0732D478140C0000, .smulh (tV .n64 0 (.q 3) (.s 2) (.s 3) (.v 0) 0)),
    (0x0932D478140C0000, .srem (tV .n64 0 (.q 3) (.s 2) (.s 3) (.v 0) 0)),
    (0x0A32D478140C0000, .sand (tV .n64 0 (.q 3) (.s 2) (.s 3) (.v 0) 0)),
    (0x0B32D478140C0000, .sor (tV .n64 0 (.q 3) (.s 2) (.s 3) (.v 0) 0)),
    (0x0C32D478140C0000, .sxor (tV .n64 0 (.q 3) (.s 2) (.s 3) (.v 0) 0)),
    (0x1232D478140C0000, .smin (tV .n64 0 (.q 3) (.s 2) (.s 3) (.v 0) 0)),
    (0x1332D478140C0000, .smax (tV .n64 0 (.q 3) (.s 2) (.s 3) (.v 0) 0))] = true := by decide

theorem words_2 : reads [
    (0x0D76D018140C0000, .sshl (tV .s64 1 (.s 1) (.s 2) (.s 3) (.v 0) 0)),
    (0x0E76D018140C0000, .sshr (tV .s64 1 (.s 1) (.s 2) (.s 3) (.v 0) 0)),
    (0x0F82D018140C0028, .scmp (tV .f16 0 (.s 1) (.s 2) (.s 3) (.v 0) 40)),
    (0x1092D018140E0800, .ssel (tV .bf16 0 (.s 1) (.s 2) (.s 3) (.s 4) 0)),
    (0x1142D0700000007F, .saddi (tI .s8 (.s 7) 127)),
    (0x1402D01000000015, .srd (tV .n8 0 (.s 1) (.v 0) (.v 0) (.v 0) 21)),
    (0x15B2D01810000014, .scvt (tV .f64 0 (.s 1) (.s 2) (.v 0) (.v 0) 20)),
    (0x1612D01810000000, .sclz (tV .n16 0 (.s 1) (.s 2) (.v 0) (.v 0) 0)),
    (0x1702D01810000000, .spopc (tV .n8 0 (.s 1) (.s 2) (.v 0) (.v 0) 0)),
    (0x18C2CFFA20000000, .vmov (tV .lg8 0 (.v 255) (.q 0) (.v 0) (.v 0) 0)),
    (0x19A2CC803F800000, .vmovi (tI .f32 (.v 200) 1065353216)),
    (0x1A62C814120C0001, .vadd (tV .s32 0 (.v 129) (.v 130) (.v 131) (.v 0) 1)),
    (0x1B62C814120C0001, .vsub (tV .s32 0 (.v 129) (.v 130) (.v 131) (.v 0) 1)),
    (0x1C62C814120C0001, .vmul (tV .s32 0 (.v 129) (.v 130) (.v 131) (.v 0) 1))] = true := by decide

theorem words_3 : reads [
    (0x1D62C814120E8401, .vfma (tV .s32 0 (.v 129) (.v 130) (.v 131) (.l 2) 1)),
    (0x1EC2C04028180000, .vmin (tV .lg8 0 (.v 4) (.v 5) (.v 6) (.v 0) 0)),
    (0x1FC2C04028180000, .vmax (tV .lg8 0 (.v 4) (.v 5) (.v 6) (.v 0) 0)),
    (0x32C2C04028180000, .vcpys (tV .lg8 0 (.v 4) (.v 5) (.v 6) (.v 0) 0)),
    (0x2042C04028000001, .vabs (tV .s8 0 (.v 4) (.v 5) (.v 0) (.v 0) 1)),
    (0x2142C04028000001, .vneg (tV .s8 0 (.v 4) (.v 5) (.v 0) (.v 0) 1)),
    (0x2262C04028180001, .vdiv (tV .s32 0 (.v 4) (.v 5) (.v 6) (.v 0) 1)),
    (0x2322C0402C180000, .vrem (tV .n32 0 (.v 4) (.v 5) (.s 6) (.v 0) 0)),
    (0x2422C0402C180000, .vand (tV .n32 0 (.v 4) (.v 5) (.s 6) (.v 0) 0)),
    (0x2522C0402C180000, .vor (tV .n32 0 (.v 4) (.v 5) (.s 6) (.v 0) 0)),
    (0x2622C0402C180000, .vxor (tV .n32 0 (.v 4) (.v 5) (.s 6) (.v 0) 0)),
    (0x3122C0402C180000, .vmulh (tV .n32 0 (.v 4) (.v 5) (.s 6) (.v 0) 0)),
    (0x2722C04028000000, .vnot (tV .n32 0 (.v 4) (.v 5) (.v 0) (.v 0) 0)),
    (0x2F22C04028000000, .vclz (tV .n32 0 (.v 4) (.v 5) (.v 0) (.v 0) 0))] = true := by decide

theorem words_4 : reads [
    (0x3022C04028000000, .vpopc (tV .n32 0 (.v 4) (.v 5) (.v 0) (.v 0) 0)),
    (0x2806C04028180000, .vshl (tV .n8 1 (.v 4) (.v 5) (.v 6) (.v 0) 0)),
    (0x2906C04028180000, .vshr (tV .n8 1 (.v 4) (.v 5) (.v 6) (.v 0) 0)),
    (0x2A2AC000281801E8, .vcmp (tV .n32 2 (.v 0) (.v 5) (.v 6) (.v 0) 488)),
    (0x2B22C0402818000B, .vsel (tV .n32 0 (.v 4) (.v 5) (.v 6) (.v 0) 11)),
    (0x2C62C0402800000D, .vcvt (tV .s32 0 (.v 4) (.v 5) (.v 0) (.v 0) 13)),
    (0x2D12C04028180005, .vpack (tV .n16 0 (.v 4) (.v 5) (.v 6) (.v 0) 5)),
    (0x2E32C04028000062, .vunpk (tV .n64 0 (.v 4) (.v 5) (.v 0) (.v 0) 98)),
    (0x3302C000000001E2, .kand (tV .n8 0 (.v 0) (.v 0) (.v 0) (.v 0) 482)),
    (0x3402C000000001E2, .kor (tV .n8 0 (.v 0) (.v 0) (.v 0) (.v 0) 482)),
    (0x3502C000000001E2, .kxor (tV .n8 0 (.v 0) (.v 0) (.v 0) (.v 0) 482)),
    (0x3602C000000001E0, .knot (tV .n8 0 (.v 0) (.v 0) (.v 0) (.v 0) 480)),
    (0x3702C000000001E0, .kmovKk (tV .n8 0 (.v 0) (.v 0) (.v 0) (.v 0) 480)),
    (0x3706C008280001C0, .kmovSk (tV .n8 1 (.v 0) (.s 5) (.v 0) (.v 0) 448))] = true := by decide

theorem words_5 : reads [
    (0x370AD05000000020, .kmovKs (tV .n8 2 (.s 5) (.v 0) (.v 0) (.v 0) 32)),
    (0x382EC0402C180000, .vshfl (tV .n32 3 (.v 4) (.v 5) (.s 6) (.v 0) 0)),
    (0x3922C0402C180000, .vbcast (tV .n32 0 (.v 4) (.v 5) (.s 6) (.v 0) 0)),
    (0x3A0AC000000001A0, .vvote (tV .n8 2 (.v 0) (.v 0) (.v 0) (.v 0) 416)),
    (0x3B06D04028000000, .vballot (tV .n8 1 (.s 4) (.v 5) (.v 0) (.v 0) 0)),
    (0x3C22C0402800000A, .vredx (tV .n32 0 (.v 4) (.v 5) (.v 0) (.v 0) 10)),
    (0x3DA6C04028000004, .vscan (tV .f32 1 (.v 4) (.v 5) (.v 0) (.v 0) 4)),
    (0x3E02C0482800002A, .setf (tV .n8 0 (.v 4) (.s 5) (.v 0) (.v 0) 42)),
    (0x3F06C14030000002, .vspc (tV .n8 1 (.v 20) (.v 6) (.v 0) (.v 0) 2)),
    (0x40B2C04028000000, .vrcp (tV .f64 0 (.v 4) (.v 5) (.v 0) (.v 0) 0)),
    (0x41B2C04028000000, .vrsq (tV .f64 0 (.v 4) (.v 5) (.v 0) (.v 0) 0)),
    (0x42B2C04028000000, .vsqrt (tV .f64 0 (.v 4) (.v 5) (.v 0) (.v 0) 0)),
    (0x4392C04028000000, .vexp2 (tV .bf16 0 (.v 4) (.v 5) (.v 0) (.v 0) 0)),
    (0x4492C04028000000, .vlog2 (tV .bf16 0 (.v 4) (.v 5) (.v 0) (.v 0) 0))] = true := by decide

theorem words_6 : reads [
    (0x4592C04028000000, .vsin (tV .bf16 0 (.v 4) (.v 5) (.v 0) (.v 0) 0)),
    (0x4692C04028000000, .vcos (tV .bf16 0 (.v 4) (.v 5) (.v 0) (.v 0) 0)),
    (0x4892C04028000000, .vtanh (tV .bf16 0 (.v 4) (.v 5) (.v 0) (.v 0) 0)),
    (0x4992C04028000000, .verf (tV .bf16 0 (.v 4) (.v 5) (.v 0) (.v 0) 0)),
    (0x4782C04028180000, .vfdiv (tV .f16 0 (.v 4) (.v 5) (.v 6) (.v 0) 0)),
    (0x50001FFFAFFFF600, .br { target := 65533, join := 32767, kc := 5, kn := true, bmode := 0, cnt := 0 }),
    (0x51001FFFA0000000, .jmp { target := 65533, join := 0, kc := 0, kn := false, bmode := 0, cnt := 0 }),
    (0x52001FFFA000007E, .loop { target := 65533, join := 0, kc := 0, kn := false, bmode := 0, cnt := 63 }),
    (0x5302C00000000000, .exit (tV .n8 0 (.v 0) (.v 0) (.v 0) (.v 0) 0)),
    (0x540000000000003F, .reggive (plainV .n8 0 (.v 0) (.v 0) (.v 0) (.v 0) 63)),
    (0x550000000000003F, .regclaim (plainV .n8 0 (.v 0) (.v 0) (.v 0) (.v 0) 63)),
    (0x5600000A0800000F, .rolesw (plainV .n8 0 (.v 0) (.l 1) (.v 0) (.v 0) 15)),
    (0x60D6C0DF037FFF42, .ld (tM .lg6 1 (.v 13) 15 (some (.v 6)) 65534 8 1)),
    (0x6EBAD0D7FFBFFFA2, .lds (tM .f64 2 (.s 13) 7 none 32767 4 1))] = true := by decide

theorem words_7 : reads [
    (0x6106D51F037FFF44, .st (tM .n8 1 (.q 13) 15 (some (.v 6)) 65534 8 2)),
    (0x6F1AD0D7A00002A4, .sts (tM .n16 2 (.s 13) 7 (some (.l 0)) 5 4 2)),
    (0x6236C0DF837FFF80, .ldp (tM .n64 1 (.v 13) 15 (some (.s 6)) 65535 0 0)),
    (0x633AC0DEFF800180, .stp (tM .n64 2 (.v 13) 14 none 3 0 0)),
    (0x6482C0482818003F, .tld (tV .f16 0 (.v 4) (.s 5) (.v 6) (.v 0) 63)),
    (0x6592C008281A962A, .tst (tV .bf16 0 (.v 0) (.s 5) (.v 6) (.q 7) 42)),
    (0x6622C0082C1800A1, .talloc (tV .n32 0 (.v 0) (.s 5) (.s 6) (.v 0) 161)),
    (0x6702C00000000021, .tfree (tV .n8 0 (.v 0) (.v 0) (.v 0) (.v 0) 33)),
    (0x6812C09483000000, .cnarrow (tM .n16 0 (.v 9) 4 (some (.s 6)) 0 0 0)),
    (0x6902C094FFFFFC80, .csave (tM .n8 0 (.v 9) 4 none 65529 0 0)),
    (0x6A02C09483000480, .cload (tM .n8 0 (.v 9) 4 (some (.s 6)) 9 0 0)),
    (0x6B22C094831802BE, .atom (tM .n32 0 (.v 9) 4 (some (.s 6)) 12293 7 3)),
    (0x6C72C0948337FFB4, .atomr (tM .s64 0 (.v 9) 4 (some (.s 6)) 28671 6 2)),
    (0x7032C094837FFC28, .wlpush (tM .n64 0 (.v 9) 4 (some (.s 6)) 65528 5 0))] = true := by decide

theorem words_8 : reads [
    (0x7132C094837FFC28, .wlpopb (tM .n64 0 (.v 9) 4 (some (.s 6)) 65528 5 0)),
    (0x7232D454837FFC28, .wlins (tM .n64 0 (.q 1) 4 (some (.s 6)) 65528 5 0)),
    (0x7332D094837FFC28, .wlres (tM .n64 0 (.s 9) 4 (some (.s 6)) 65528 5 0)),
    (0x7432D424837FFC28, .wlcom (tM .n64 0 (.l 2) 4 (some (.s 6)) 65528 5 0)),
    (0x7532D094837FFC00, .wlsize (tM .n64 0 (.s 9) 4 (some (.s 6)) 65528 0 0)),
    (0x8002C00000000037, .fence (tV .n8 0 (.v 0) (.v 0) (.v 0) (.v 0) 55)),
    (0x8162D094FFA801B2, .waitc (tM .s32 0 (.s 9) 4 none 20483 6 1)),
    (0x8202C000000000A1, .phreg (tV .n8 0 (.v 0) (.v 0) (.v 0) (.v 0) 161)),
    (0x8D06C008280000C0, .phdrop (tV .n8 1 (.v 0) (.s 5) (.v 0) (.v 0) 192)),
    (0x8302D05000000021, .pharr (tV .n8 0 (.s 5) (.v 0) (.v 0) (.v 0) 33)),
    (0x8406C0082D280000, .phwait (tV .n8 1 (.v 0) (.s 5) (.q 6) (.v 0) 0)),
    (0x850AC0082C18001F, .semset (tV .n8 2 (.v 0) (.s 5) (.s 6) (.v 0) 31)),
    (0x8602C0000000001E, .semwait (tV .n8 0 (.v 0) (.v 0) (.v 0) (.v 0) 30)),
    (0x8E0AD0500000001D, .semrd (tV .n8 2 (.s 5) (.v 0) (.v 0) (.v 0) 29))] = true := by decide

theorem words_9 : reads [
    (0x8702D094A08004B4, .tvdecl (tM .n8 0 (.s 9) 4 (some (.l 1)) 9 6 2)),
    (0x8802C00000000000, .tvwait (tV .n8 0 (.v 0) (.v 0) (.v 0) (.v 0) 0)),
    (0x8902C00000000000, .tvend (tV .n8 0 (.v 0) (.v 0) (.v 0) (.v 0) 0)),
    (0x8A02DE13F0000000, .qbind (tQ .n8 15 0 (.s 63) none (.v 0))),
    (0x8C02CFB050002120, .launch (tQ .n8 7 13 (.s 5) none (.s 9))),
    (0x9002D3B43D720000, .jccopy (tQ .n8 9 13 (.l 3) (some (21, 200)) (.v 0))),
    (0x9102D3B43D720000, .jcgath (tQ .n8 9 13 (.l 3) (some (21, 200)) (.v 0))),
    (0x9202D3B43D720000, .jcscat (tQ .n8 9 13 (.l 3) (some (21, 200)) (.v 0))),
    (0x9302D3B43D720000, .jccoll (tQ .n8 9 13 (.l 3) (some (21, 200)) (.v 0))),
    (0x9402D3B43D720000, .jcmtx (tQ .n8 9 13 (.l 3) (some (21, 200)) (.v 0))),
    (0x9502D3B43D722900, .jcfill (tQ .n8 9 13 (.l 3) (some (21, 200)) (.q 4))),
    (0xA002C00828007FFF, .trap (tS (.v 0) (.s 5) 0 32767)),
    (0xA102C00000000000, .tretSave (tS (.v 0) (.v 0) 0 0)),
    (0xA102C00000008000, .tretRest (tS (.v 0) (.v 0) 1 0))] = true := by decide

theorem words_10 : reads [
    (0xA202D05000000000, .datum (tS (.s 5) (.v 0) 0 0)),
    (0xA302C00000001234, .bkpt (tS (.v 0) (.v 0) 0 4660)),
    (0xA402C00A10008000, .sleept (tS (.v 0) (.l 2) 1 0)),
    (0xB062C0082C1800C0, .mma (tV .s32 0 (.v 0) (.s 5) (.s 6) (.v 0) 192)),
    (0xB162C0082C1800C0, .mmap (tV .s32 0 (.v 0) (.s 5) (.s 6) (.v 0) 192)),
    (0xB462C0082C1800C0, .mmag (tV .s32 0 (.v 0) (.s 5) (.s 6) (.v 0) 192)),
    (0xB562C0082C1800C0, .mmagp (tV .s32 0 (.v 0) (.s 5) (.s 6) (.v 0) 192)),
    (0xB2B2C0082C180E80, .mmas (tV .f64 0 (.v 0) (.s 5) (.s 6) (.v 7) 128)),
    (0xB3B2C0082C180E80, .mmasp (tV .f64 0 (.v 0) (.s 5) (.s 6) (.v 7) 128)),
    (0xB602C0482C1A0EAB, .mlda (tV .n8 0 (.v 4) (.s 5) (.s 6) (.s 7) 171)),
    (0xB702C0482800006B, .mldb (tV .n8 0 (.v 4) (.s 5) (.v 0) (.v 0) 107)),
    (0xB802C0082C180021, .unfold (tV .n8 0 (.v 0) (.s 5) (.s 6) (.v 0) 33)),
    (0xB902C1B058C260E0, .accdr (tQ .n8 0 13 (.s 5) (some (3, 9)) (.s 7))),
    (0xBA02C1B058C260E0, .accdra (tQ .n8 0 13 (.s 5) (some (3, 9)) (.s 7)))] = true := by decide

theorem words_11 : reads [
    (0xBB62C008280001E1, .accld (tV .s32 0 (.v 0) (.s 5) (.v 0) (.v 0) 481)),
    (0xBC02C000000000A5, .accz (tV .n8 0 (.v 0) (.v 0) (.v 0) (.v 0) 165)),
    (0xBD02C048280001C0, .accmovGet (tV .n8 0 (.v 4) (.s 5) (.v 0) (.v 0) 448)),
    (0xBD06C008281801C0, .accmovPut (tV .n8 1 (.v 0) (.s 5) (.v 6) (.v 0) 448)),
    (0xC5A2C000000001E0, .acccvt (tV .f32 0 (.v 0) (.v 0) (.v 0) (.v 0) 480)),
    (0xBED2C0082C1A0FA2, .attqk (tV .lg6 0 (.v 0) (.s 5) (.s 6) (.s 7) 418)),
    (0xBFA2C008280001A3, .attsm (tV .f32 0 (.v 0) (.s 5) (.v 0) (.v 0) 419)),
    (0xC092C0082C1801A4, .attpv (tV .bf16 0 (.v 0) (.s 5) (.s 6) (.v 0) 420)),
    (0xC102C1B058C260E0, .attmd (tQ .n8 0 13 (.s 5) (some (3, 9)) (.s 7))),
    (0xC2C2CDB058C260E0, .kvrs (tQ .lg8 6 13 (.s 5) (some (3, 9)) (.s 7))),
    (0xC300000000000000, .msync (plainV .n8 0 (.v 0) (.v 0) (.v 0) (.v 0) 0)),
    (0xC406C00000000140, .melect (tV .n8 1 (.v 0) (.v 0) (.v 0) (.v 0) 320)),
    (0xD032C0402C180000, .rng (tV .n64 0 (.v 4) (.v 5) (.s 6) (.v 0) 0)),
    (0xD1A2C0402C180000, .rngu (tV .f32 0 (.v 4) (.v 5) (.s 6) (.v 0) 0))] = true := by decide

theorem words_12 : reads [
    (0xD202C04828000009, .rsvinit (tV .n8 0 (.v 4) (.s 5) (.v 0) (.v 0) 9)),
    (0xD302C04044180000, .rsvupd (tV .n8 0 (.v 4) (.v 8) (.s 6) (.v 0) 0)),
    (0xD402C040441A8200, .rsvmrg (tV .n8 0 (.v 4) (.v 8) (.s 6) (.l 1) 0)),
    (0xD502C04000000000, .rsvnrm (tV .n8 0 (.v 4) (.v 0) (.v 0) (.v 0) 0)),
    (0xD606C04828000000, .rsvld (tV .n8 1 (.v 4) (.s 5) (.v 0) (.v 0) 0)),
    (0xD706C00024140000, .rsvst (tV .n8 1 (.v 0) (.v 4) (.s 5) (.v 0) 0)),
    (0xE306C00824140009, .rsvclr (tV .n8 1 (.v 0) (.s 4) (.s 5) (.v 0) 9)),
    (0xE602C00824140000, .rsvcpy (tV .n8 0 (.v 0) (.s 4) (.s 5) (.v 0) 0)),
    (0xE402C040403020C0, .motv (tV .n8 0 (.v 4) (.v 8) (.v 12) (.v 16) 192)),
    (0xDD02CDB050000000, .scnbind (tQ .n8 6 13 (.s 5) none (.v 0))),
    (0xE502CDB050000000, .ltset (tQ .n8 6 13 (.s 5) none (.v 0))),
    (0xD802CC00800020E0, .rayq (tQ .n8 6 0 (.v 8) none (.s 7))),
    (0xD902CC00800020E0, .rays (tQ .n8 6 0 (.v 8) none (.s 7))),
    (0xDB02CC00800020E0, .ltsmp (tQ .n8 6 0 (.v 8) none (.s 7)))] = true := by decide

theorem words_13 : reads [
    (0xDAA2C04028000000, .hitunp (tV .f32 0 (.v 4) (.v 5) (.v 0) (.v 0) 0)),
    (0xE702C04040300000, .rayorg (tV .n8 0 (.v 4) (.v 8) (.v 12) (.v 0) 0)),
    (0xDC02CDB058C24000, .reuse (tQ .n8 6 13 (.s 5) (some (3, 9)) (.v 0))),
    (0xDE02CDB058C24000, .gfemb (tQ .n8 6 13 (.s 5) (some (3, 9)) (.v 0))),
    (0xE802C04828000009, .gfedepth (tV .n8 0 (.v 4) (.s 5) (.v 0) (.v 0) 9)),
    (0xE902C04028180FC0, .viscls (tV .n8 0 (.v 4) (.v 5) (.v 6) (.v 7) 448)),
    (0xDF02C00828000000, .visw (tV .n8 0 (.v 0) (.s 5) (.v 0) (.v 0) 0)),
    (0xE202C1B0500020E0, .smpbind (tQ .n8 0 13 (.s 5) none (.s 7))),
    (0xE092C04028000009, .smpt (tV .bf16 0 (.v 4) (.v 5) (.v 0) (.v 0) 9)),
    (0xE142C04028000009, .smpb (tV .s8 0 (.v 4) (.v 5) (.v 0) (.v 0) 9))] = true := by decide

/-! ## One step against the manual

The expected results are the manual's own worked cases, or worked by hand from the rule that the comment names. -/

/-- Whether the group satisfies `k` after the instruction. -/
def after (i : Instr) (s : State) (k : Group → Bool) : Bool :=
  goes (fun t => match t.group? 2 with | some g => k g | none => false) (exec i s)
/-- The eight-lane group with values of v1, v2 and v3 in lane 3 and of s1 and s2. -/
def given (a b c : W64) : State :=
  State.editG (slot 0) fun g => ((((g.setVreg 1 3 a).setVreg 2 3 b).setVreg 3 3 c).setSreg 1 a).setSreg 2 b
/-- The lane that `given` fills receives `x` in v4. -/
def laneGets (i : Instr) (a b c x : W64) : Bool := after i (given a b c) fun g => g.vreg 4 3 = x
def scalarGets (i : Instr) (a b x : W64) : Bool := after i (given a b 0) fun g => g.sreg 4 = x
def opV (ty : ElemType) (var : BitVec 2) (n : Nat) (x : BitVec 9) : VForm :=
  plainV ty var (.v 4) (.v 1) (if 2 ≤ n then .v 2 else .v 0) (if 3 ≤ n then .v 3 else .v 0) x
def opS (ty : ElemType) (var : BitVec 2) (n : Nat) (x : BitVec 9) : VForm :=
  plainV ty var (.s 4) (.s 1) (if 2 ≤ n then .s 2 else .v 0) (.v 0) x

/-- The packed add worked after R253. -/
theorem test_packed_add :
    laneGets (.vadd (opV .s16 0 2 1)) 0x7FF0000180000005 0x0020FFFFFFFF0003 0 0x7FFF000080000008 = true ∧
    laneGets (.vadd (opV .s16 0 2 0)) 0x7FF0000180000005 0x0020FFFFFFFF0003 0 0x801000007FFF0008 = true := by
  refine ⟨?_, ?_⟩ <;> decide +kernel
/-- The table of R183. -/
theorem test_division_corners :
    scalarGets (.sdiv (opS .n64 0 2 0)) 7 0 0xFFFFFFFFFFFFFFFF = true ∧ scalarGets (.srem (opS .s64 0 2 0)) 7 0 7 = true ∧
    laneGets (.vdiv (opV .s8 0 2 0)) 0x80 0xFF 0 0xFFFFFFFFFFFFFF80 = true ∧ laneGets (.vdiv (opV .s8 0 2 1)) 0x80 0xFF 0 0xFFFFFFFFFFFFFF7F = true ∧
    scalarGets (.srem (opS .s64 0 2 0)) 0xFFFFFFFFFFFFFFF9 2 0xFFFFFFFFFFFFFFFF = true := by
  refine ⟨?_, ?_, ?_, ?_, ?_⟩ <;> decide +kernel
/-- The table of R251: counts of the width and above, and rotates by the count modulo the width. -/
theorem test_shifts :
    scalarGets (.sshl (opS .n64 0 2 0)) 1 64 0 = true ∧ scalarGets (.sshr (opS .s64 0 2 0)) 0x8000000000000000 99 0xFFFFFFFFFFFFFFFF = true ∧
    laneGets (.vshl (opV .n8 1 2 0)) 0x81 0x09 0 0x03 = true ∧ laneGets (.vshr (opV .n32 0 2 0)) 0x8000000080000000 0x000000200000001F 0 1 = true := by
  refine ⟨?_, ?_, ?_, ?_⟩ <;> decide +kernel
/-- The case of VSPC worked after R339. -/
theorem test_vspc :
    laneGets (.vspc (opV .s8 0 1 0)) 0x01FD05FE0007F903 0 0 0x000000000507F903 = true ∧
    laneGets (.vspc (opV .s8 1 1 2)) 0x01FD05FE0007F903 0 0 0x0000000000270000 = true := by
  refine ⟨?_, ?_⟩ <;> decide +kernel
/-- A fused multiply-add rounds once: (1 + 2^-12)^2 - (1 + 2^-11) is exactly 2^-24, which a rounded product would lose (R252). -/
theorem test_fused : laneGets (.vfma (opV .f32 0 3 0)) 0x3F800800 0x3F800800 0xBF801000 0x33800000 = true := by decide +kernel
/-- A NaN gives the canonical NaN from VMIN, and −0 orders below +0 (R253); VNEG only inverts the sign (R169). -/
theorem test_minimum :
    laneGets (.vmin (opV .f64 0 2 0)) 0 0x8000000000000000 0 0x8000000000000000 = true ∧
    laneGets (.vneg (opV .f32 0 1 0)) 0x7FC000017F800000 0 0 0xFFC00001FF800000 = true := by
  refine ⟨?_, ?_⟩ <;> decide +kernel
/-- The conversions worked after R179 and R180. -/
theorem test_log_conversions :
    scalarGets (.scvt (opS .f16 0 1 (BitVec.ofNat 9 (13 * 2)))) 0x16 0 0x41A8 = true ∧
    scalarGets (.scvt (opS .bf16 0 1 (BitVec.ofNat 9 (13 * 2)))) 0x16 0 0x4035 = true ∧
    scalarGets (.scvt (opS .lg6 0 1 (BitVec.ofNat 9 (10 * 2)))) 0x40400000 0 0x16 = true ∧
    scalarGets (.scvt { opS .lg6 0 1 (BitVec.ofNat 9 (10 * 2)) with pfx := { Pfx.none with rnd := 3 } }) 0x40400000 0 0x17 = true ∧
    scalarGets (.scvt (opS .lg6 0 1 (BitVec.ofNat 9 (10 * 2)))) 0xC2C80000 0 0x3F = true := by
  refine ⟨?_, ?_, ?_, ?_, ?_⟩ <;> decide +kernel

/-- The cross-lane case worked after R268: the guard k1 is 0xF6, lane l of v1 holds l and 10 l. -/
def crossLane : State :=
  State.editG (slot 0) fun g =>
    let h : Group := (span 0 8).foldl (fun (h : Group) l => h.setVreg 1 l (BitVec.ofNat 64 (10 * l * 2 ^ 32 + l))) { g with masks := [(1, 0xF6)] }
    h.setSreg 4 0x10
theorem test_scan_and_shuffle :
    after (.vscan { plainV .s32 0 (.v 2) (.v 1) (.v 0) (.v 0) 0 with pg := 1 }) crossLane
      (fun g => (span 0 8).map (g.vreg 2) = [0, 0x0000000A00000001, 0x0000001E00000003, 0, 0x0000004600000007, 0x000000780000000C, 0x000000B400000012,
        0x000000FA00000019]) = true ∧
    after (.vshfl { plainV .s32 2 (.v 3) (.v 1) (.s 4) (.v 0) 0 with pg := 1 }) crossLane
      (fun g => (span 0 8).map (g.vreg 3) = [0, 0, 0x0000000A00000001, 0, 0, 0x0000002800000004, 0x0000003200000005, 0x0000003C00000006]) = true := by
  refine ⟨?_, ?_⟩ <;> decide +kernel
/-- The second case after R268: ((2^24 + 1) + 1) − 2^24 in FP32 is +0.0. -/
theorem test_fold_order :
    after (.vredx { plainV .f32 0 (.s 5) (.v 1) (.v 0) (.v 0) 0 with pg := 1 })
      (State.editG (slot 0) fun g => { ((((g.setVreg 1 0 0x4B800000).setVreg 1 1 0x3F800000).setVreg 1 2 0x3F800000).setVreg 1 3 0xCB800000) with masks := [(1, 0x0F)] })
      (fun g => g.sreg 5 = 0) = true := by decide +kernel
/-- VCMP by R254 and R256: −0 equals +0, and a NaN is unequal. -/
theorem test_compare :
    after (.vcmp (plainV .f64 0 (.v 0) (.v 1) (.v 2) (.v 0) 0x40)) (given 0 0x8000000000000000 0) (fun g => g.kreg 0xFF 1 = 0xFF) = true ∧
    after (.vcmp (plainV .f64 0 (.v 0) (.v 1) (.v 2) (.v 0) 0x48)) (given 0x7FF8000000000000 0 0) (fun g => g.kreg 0xFF 1 = 0x08) = true := by
  refine ⟨?_, ?_⟩ <;> decide +kernel
/-- The branch at A of the case worked after R42. -/
theorem test_divergence :
    after (.br { target := 4, join := 6, kc := 2, kn := false, bmode := 0, cnt := 0 }) (State.editG (slot 0) fun g => { g with masks := [(2, 0x0F)] })
      (fun g => (g.p0.map fun p => p.mask) = some 0x0F && (g.p1.map fun p => p.mask) = some 0xF0 && decide (g.stack = 1)) = true := by decide +kernel
/-- The halvings worked after R33. -/
def halves (x y a b : Nat) : List Nat :=
  match splitBox { Kernel.blank with minX := 16, minY := 16 } { x0 := x, x1 := y, y0 := a, y1 := b, z0 := 0, z1 := 1 } with
  | some (p, q) => [p.x0, p.x1, p.y0, p.y1, q.x0, q.x1, q.y0, q.y1]
  | none => []
theorem test_halving :
    halves 0 100 0 40 = [0, 50, 0, 40, 50, 100, 0, 40] ∧ halves 0 50 0 40 = [0, 25, 0, 40, 25, 50, 0, 40] ∧
    halves 0 25 0 40 = [0, 25, 0, 20, 0, 25, 20, 40] ∧ halves 0 25 0 20 = [] := by decide
/-- The home of the address of R96's example, and the next block's channel. -/
theorem test_homes :
    channelOf 0x1234567890 = 8 ∧ homeDie (cellOf 0 0x1234567890) = 0 ∧ homeSlice (cellOf 0 0x1234567890) = 34 ∧ channelOf 0x1234567990 = 9 := by decide
/-- The mass drain worked after R155: 1.5 and 0.3 make 0x0001CCCD. -/
theorem test_mass : massAdd 0x00018000 0x3E99999A = 0x0001CCCD := by decide
/-- The LG6 k-group worked after R191 (R186, R187), with SCB −1 and an accumulator of 0.5. -/
theorem test_log_k_group :
    let a (i : Nat) : Opnd := some ([0x12, 0x10, 0x14].getD i 0)
    let b (i : Nat) : Opnd := some ([0x11, 0x30, 0x0E].getD i 5)
    accAfter .f32 .lg6 .lg6 (FEnv.of 0xFF0000 0) (kStep .f32 8 a b) 0x3F000000 1 = 0x3FC62400 := by decide +kernel
/-- The indices of the address of R138's example. -/
theorem test_walk_indices :
    [field 0x123456789ABC 39 9, field 0x123456789ABC 30 9, field 0x123456789ABC 21 9, field 0x123456789ABC 12 9] = [0x024, 0x0D1, 0x0B3, 0x189] := by decide
/-- A slot of zeros, an unassigned opcode, a reserved TYPE, a reserved bit and an unused field are refused (R215, R218). -/
theorem test_refused_words :
    [0, 0xF000000000000000, 0x1AE0004008080000, 0x6020000000000001, 0x0100000000000001, 0x5000000000000001].all (fun w => decodeTableWord 64 w = none) =
      true := by decide
/-- The words before a slot (R211, R212): the one worked after R213, and a fourth operand of CAS. -/
theorem test_prefixes :
    decode 0x2A 0x1DA0004008080600 = some (.vfma { plainV .f32 0 (.v 4) (.v 1) (.v 2) (.v 3) 0 with pfx := { d4 := none, rnd := 2, zpol := true, wm := 2 } }) ∧
    decode (BitVec.ofNat 32 (2 ^ 16 + 258 * 2 ^ 7)) (BitVec.ofNat 64 (0x6D * 2 ^ 56 + 2 * 2 ^ 52 + 9 * 2 ^ 36 + 4 * 2 ^ 32 + 0x1FF * 2 ^ 23)) =
      some (.cas { plainM .n32 (.v 9) 4 none 0 with pfx := { Pfx.none with d4 := some (.s 2) } }) ∧
    decode 0x2A 0x0100000000000000 = none := by decide
theorem test_reset_memory : Memory.wf State.reset.mem = true := by decide

end Sys2Proof.Tests
end

section
/-!
SUPPORT. What comes from outside the package: writes of configuration registers, link events, host accesses and fabric requests
(R100, R119, R121, R132, R149, R154, R312, R434, R436, R438, R439, R454).
-/
namespace Sys2Proof.Machine
open Sys2Proof

/-! ## A part read after it was set -/

@[simp] theorem State.vf_setVf (s : State) (n : Nat) (v : Vf) : (s.setVf n v).vf n = v := Tbl.get_put_same _ _ _ _
@[simp] theorem State.die_setDie (s : State) (n : Nat) (d : Die) : (s.setDie n d).die n = d := Tbl.get_put_same _ _ _ _
@[simp] theorem State.link_setLink (s : State) (n : Nat) (l : Link) : (s.setLink n l).link n = l := Tbl.get_put_same _ _ _ _
@[simp] theorem State.port_setPort (s : State) (n : Nat) (l : Link) : (s.setPort n l).port n = l := Tbl.get_put_same _ _ _ _

@[simp] theorem State.trainDir_link (s : State) (n m : Nat) : (s.trainDir n).link m = s.link m := rfl
@[simp] theorem State.trainDir_port (s : State) (n m : Nat) : (s.trainDir n).port m = s.port m := rfl
@[simp] theorem State.trainDir_mem (s : State) (n : Nat) : (s.trainDir n).mem = s.mem := rfl
@[simp] theorem State.trainDir_net (s : State) (n : Nat) : (s.trainDir n).net = s.net := rfl

/-- A record in the field book changes the control die only (R105, R453). -/
theorem State.book_frame (s : State) (k d : BitVec 8) (b : BitVec 16) (x : W128) : ∃ c, s.book k d b x = { s with control := c } := ⟨_, rfl⟩

@[simp] theorem State.book_port (s : State) (k d : BitVec 8) (b : BitVec 16) (x : W128) (n : Nat) : (s.book k d b x).port n = s.port n := by
  obtain ⟨c, h⟩ := s.book_frame k d b x
  rw [h]; rfl

@[simp] theorem State.book_mem (s : State) (k d : BitVec 8) (b : BitVec 16) (x : W128) : (s.book k d b x).mem = s.mem := by
  obtain ⟨c, h⟩ := s.book_frame k d b x
  rw [h]

@[simp] theorem State.book_net (s : State) (k d : BitVec 8) (b : BitVec 16) (x : W128) : (s.book k d b x).net = s.net := by
  obtain ⟨c, h⟩ := s.book_frame k d b x
  rw [h]

/-! ## The meanings of the events -/

section
variable (s : State) (vf n : Nat) (x : W64)

@[simp] theorem exec_sigpolWrite (y : BitVec 576) : exec (.sigpolWrite vf y) s = execSigpolWrite vf y s := rfl
@[simp] theorem exec_lqtktWrite : exec (.lqtktWrite vf n x) s = execLqtktWrite vf n x s := rfl
@[simp] theorem exec_lqcfgWrite : exec (.lqcfgWrite vf n x) s = execLqcfgWrite vf n x s := rfl
@[simp] theorem exec_fqcfgWrite : exec (.fqcfgWrite vf x) s = execFqcfgWrite vf x s := rfl
@[simp] theorem exec_lqidxWrite : exec (.lqidxWrite vf n x) s = execLqidxWrite vf n x s := rfl
@[simp] theorem exec_fqidxWrite : exec (.fqidxWrite vf x) s = execFqidxWrite vf x s := rfl
@[simp] theorem exec_krangeWrite (y : W32) : exec (.krangeWrite vf y) s = execKrangeWrite vf y s := rfl
@[simp] theorem exec_prangeWrite (y : W32) : exec (.prangeWrite vf y) s = execPrangeWrite vf y s := rfl
@[simp] theorem exec_rsvrectWrite (d : Nat) : exec (.rsvrectWrite vf d x) s = execRsvrectWrite vf d x s := rfl
@[simp] theorem exec_registerWrite (r : ConfigReg) (y : W128) : exec (.registerWrite r y) s = execRegisterWrite r y s := rfl
@[simp] theorem exec_flitReplay (p : Nat) : exec (.flitReplay p) s = execFlitReplay p s := rfl
@[simp] theorem exec_linkRetrain (p : Nat) : exec (.linkRetrain p) s = execLinkRetrain p s := rfl
@[simp] theorem exec_linkRateStep (r : BitVec 2) : exec (.linkRateStep n r) s = execLinkRateStep n r s := rfl
@[simp] theorem exec_retrainingWindowEnd (l : LinkName) : exec (.retrainingWindowEnd l) s = execRetrainingWindowEnd l s := rfl
@[simp] theorem exec_hostCxlMemAccess (pa : Nat) (a : HostAccess) : exec (.hostCxlMemAccess pa a) s = execHostCxlMemAccess pa a s := rfl
@[simp] theorem exec_hostCxlCacheSnoop (line : Nat) (k : SnoopKind) : exec (.hostCxlCacheSnoop line k) s = execHostCxlCacheSnoop line k s := rfl
@[simp] theorem exec_fabricRequestArrival (r : FabricRequest) : exec (.fabricRequestArrival r) s = execFabricRequestArrival r s := rfl

end

/-! ## Ring configurations (R119, R436) -/

/-- Bit 63 is EN: clearing it leaves every other bit. -/
theorem getLsbD_clearEn (x : W64) (i : Nat) :
    (x &&& ~~~(BitVec.ofNat 64 (2 ^ 63))).getLsbD i = (x.getLsbD i && decide (i ≠ 63)) := by
  have hen : BitVec.ofNat 64 (2 ^ 63) = BitVec.twoPow 64 63 := rfl
  rw [hen, BitVec.getLsbD_and, BitVec.getLsbD_not, BitVec.getLsbD_twoPow]
  by_cases hi : i < 64
  · simp [hi, eq_comm]
  · simp [BitVec.getLsbD_of_ge x i (by omega)]

@[simp] theorem ringOn_clearEn (x : W64) : ringOn (x &&& ~~~(BitVec.ofNat 64 (2 ^ 63))) = false := by
  simp [ringOn]

@[simp] theorem ringOn_ringFields (x : W64) : ringOn (ringFields x) = ringOn x := by
  have hbit : (0xE00FFFFFFFFFF01F : W64).getLsbD 63 = true := by decide
  rw [ringOn, ringFields, BitVec.getLsbD_and, hbit, Bool.and_true, ringOn]

/-- While a ring is on, a write that leaves EN set changes nothing. -/
theorem ringWrite_on_on {old x : W64} (lo : Nat) (ho : ringOn old = true) (hx : ringOn x = true) : ringWrite old x lo = old := by
  simp only [ringWrite, ho, hx, if_true]

/-- While a ring is on, a write that clears EN clears EN alone. -/
theorem ringWrite_on_off {old x : W64} (lo : Nat) (ho : ringOn old = true) (hx : ringOn x = false) :
    ringWrite old x lo = old &&& ~~~(BitVec.ofNat 64 (2 ^ 63)) := by
  simp only [ringWrite, ho, hx, if_true, Bool.false_eq_true, if_false]

/-- A ring that is off stays off under a reserved TGT or a LOGSIZE out of range. -/
theorem ringWrite_off_invalid {old x : W64} {lo : Nat} (ho : ringOn old = false)
    (hx : 2 ≤ ringTgt x ∨ (x.extractLsb' 0 5).toNat < lo ∨ 16 < (x.extractLsb' 0 5).toNat) : ringOn (ringWrite old x lo) = false := by
  have hbad : (decide (2 ≤ ringTgt x) || decide ((x.extractLsb' 0 5).toNat < lo) || decide (16 < (x.extractLsb' 0 5).toNat)) = true := by
    simpa [or_assoc] using hx
  simp only [ringWrite, ho, hbad, Bool.and_true, Bool.false_eq_true, if_false]
  cases hon : ringOn x with
  | true => simp only [if_true, ringOn_clearEn]
  | false => simp only [Bool.false_eq_true, if_false, ringOn_ringFields, hon]

/-! ## Registers of the configuration space (R11, R119, R121, R132, R149, R436) -/

section
variable {s : State} {vf n : Nat}

theorem sigpolWrite_sets (hv : vf < 64) (x : BitVec 576) :
    exec (.sigpolWrite vf x) s = .next (s.setVf vf { s.vf vf with sigpol := sigpolFields x }) := by
  simp only [exec_sigpolWrite, execSigpolWrite, Nat.not_le.mpr hv, if_false]

theorem lqtktWrite_sets (hv : vf < 64) (hn : n < 8) (x : W64) (h1 : 1 ≤ (x.extractLsb' 0 13).toNat) (h2 : (x.extractLsb' 0 13).toNat ≤ 4096) :
    exec (.lqtktWrite vf n x) s =
      .next (s.setVf vf ((s.vf vf).setQueue n { (s.vf vf).queue n with ticket := (x.extractLsb' 0 13).toNat })) := by
  have h0 : (x.extractLsb' 0 13).toNat ≠ 0 := by omega
  simp only [exec_lqtktWrite, execLqtktWrite, Nat.not_le.mpr hv, Nat.not_le.mpr hn, h0, Nat.not_lt.mpr h2, decide_false, Bool.or_false,
    Bool.false_eq_true, if_false]

theorem lqtktWrite_ignored (x : W64) (h : (x.extractLsb' 0 13).toNat = 0 ∨ 4096 < (x.extractLsb' 0 13).toNat) :
    exec (.lqtktWrite vf n x) s = .next s := by
  have hbad : (64 ≤ vf || 8 ≤ n || (x.extractLsb' 0 13).toNat = 0 || 4096 < (x.extractLsb' 0 13).toNat) = true := by
    simp only [Bool.or_eq_true, decide_eq_true_eq]
    tauto
  simp only [exec_lqtktWrite, execLqtktWrite, hbad, if_true]

theorem lqcfgWrite_sets (he : s.enabled = true) (hv : vf < 64) (hn : n < 8) (x : W64) :
    exec (.lqcfgWrite vf n x) s =
      .next ((s.setVf vf ((s.vf vf).setQueue n { (s.vf vf).queue n with cfg := ringWrite ((s.vf vf).queue n).cfg x 4 })).noteBacklog vf n) := by
  simp [execLqcfgWrite, he, hv, hn]

theorem fqcfgWrite_sets (he : s.enabled = true) (hv : vf < 64) (x : W64) :
    exec (.fqcfgWrite vf x) s = .next (s.setVf vf { s.vf vf with fqcfg := ringWrite (s.vf vf).fqcfg x 6 }) := by
  simp [execFqcfgWrite, he, hv]

theorem lqidxWrite_sets (he : s.enabled = true) (hv : vf < 64) (hn : n < 8) (x : W64)
    (h : (x.extractLsb' 0 32 - ((s.vf vf).queue n).cons).toNat ≤ ringSize ((s.vf vf).queue n).cfg) :
    exec (.lqidxWrite vf n x) s =
      .next ((s.setVf vf ((s.vf vf).setQueue n { (s.vf vf).queue n with prod := x.extractLsb' 0 32 })).noteBacklog vf n) := by
  simp only [exec_lqidxWrite, execLqidxWrite, he, Nat.not_le.mpr hv, Nat.not_le.mpr hn, Nat.not_lt.mpr h, Bool.not_true, decide_false,
    Bool.or_false, Bool.false_eq_true, if_false]

theorem lqidxWrite_ignored (x : W64) (h : ringSize ((s.vf vf).queue n).cfg < (x.extractLsb' 0 32 - ((s.vf vf).queue n).cons).toNat) :
    exec (.lqidxWrite vf n x) s = .next s := by
  simp only [exec_lqidxWrite, execLqidxWrite, h, decide_true, Bool.or_true, if_true]

theorem fqidxWrite_sets (he : s.enabled = true) (hv : vf < 64) (x : W64)
    (h : ((s.vf vf).fqprod - x.extractLsb' 32 32).toNat ≤ ringSize (s.vf vf).fqcfg) :
    exec (.fqidxWrite vf x) s = .next (s.setVf vf { s.vf vf with fqcons := x.extractLsb' 32 32 }) := by
  simp only [exec_fqidxWrite, execFqidxWrite, he, Nat.not_le.mpr hv, Nat.not_lt.mpr h, Bool.not_true, decide_false,
    Bool.or_false, Bool.false_eq_true, if_false]

theorem krangeWrite_sets (he : s.enabled = true) (hv : vf < 64) (x : W32)
    (h : s.rangeFree vf (fun v => v.krange) (rangeOf (rangeFields x)) = true) :
    exec (.krangeWrite vf x) s = .next (s.setVf vf { s.vf vf with krange := rangeFields x }) := by
  simp [execKrangeWrite, he, hv, h]

/-- Giving the entries of a range LIVE, or taking it, leaves LIVE of the others as it was (R149). -/
theorem setLive_live (t : Tbl Phaser) (r : Nat × Nat) (b : Bool) (i : Nat) :
    (Tbl.get Phaser.clear (setLive t r b) i).live = if r.1 ≤ i ∧ i < r.1 + r.2 then b else (Tbl.get Phaser.clear t i).live := by
  simp only [setLive, ← mem_span]
  generalize span r.1 r.2 = l
  induction l generalizing t with
  | nil => simp
  | cons k l ih =>
      rw [List.foldl_cons, ih, Tbl.get_put]
      by_cases hk : i = k <;> by_cases hl : i ∈ l <;> simp [hk, hl]

theorem prangeWrite_sets (he : s.enabled = true) (hv : vf < 64) (x : W32)
    (h : s.rangeFree vf (fun v => v.prange) (rangeOf (rangeFields x)) = true) :
    ∃ t, exec (.prangeWrite vf x) s = .next t ∧ (t.vf vf).prange = rangeFields x ∧ t.mem = s.mem ∧
      ∀ i, (rangeOf (rangeFields x)).1 ≤ i → i < (rangeOf (rangeFields x)).1 + (rangeOf (rangeFields x)).2 →
        (Tbl.get Phaser.clear t.phasers i).live = true := by
  simp only [exec_prangeWrite, execPrangeWrite, he, h, Nat.not_le.mpr hv, Bool.not_true, decide_false, Bool.or_false, Bool.false_eq_true,
    if_false]
  refine ⟨_, rfl, by rw [State.vf_setVf], rfl, fun i h1 h2 => ?_⟩
  rw [State.setVf_phasers, setLive_live, if_pos ⟨h1, h2⟩]

theorem rsvrectWrite_sets (he : s.enabled = true) (hv : vf < 64) {d : Nat} {x : W64} {y : Die} (hd : d < 4) (hh : (s.die d).held = false)
    (ht : (s.die d).tilesBut vf + (Rect.ofWord x).tiles ≤ 2048)
    (hy : ((s.die d).unpin (.reservoir vf)).pin (.reservoir vf) (4 * (Rect.ofWord x).tiles) = some y) :
    exec (.rsvrectWrite vf d x) s =
      .next ((s.setDie d { y with rsvrect := Tbl.put 0 y.rsvrect vf x, rsv := Tbl.put [] y.rsv vf [],
                                  rsvBad := y.rsvBad.filter fun z => z.1 ≠ vf }).setRsvstat vf d 0) := by
  have hdies : ¬ Config.dies ≤ d := Nat.not_le.mpr hd
  simp only [exec_rsvrectWrite, execRsvrectWrite, he, hh, hy, Nat.not_le.mpr hv, hdies, Nat.not_lt.mpr ht, Bool.not_true, decide_false,
    Bool.or_false, Bool.false_eq_true, if_false]

theorem xrootWrite_sets (he : s.enabled = true) (hv : vf < 64) (x : W128) :
    exec (.registerWrite (.xroot vf) x) s = .next (s.setVf vf { s.vf vf with xroot := xrootFields (x.extractLsb' 0 64) }) := by
  simp [execRegisterWrite, he, hv]

theorem otdescWrite_sets (he : s.enabled = true) (hv : vf < 64) (x : W128) :
    exec (.registerWrite (.otdesc vf) x) s = .next (s.setVf vf { s.vf vf with otdesc := otdescFields x }) := by
  simp [execRegisterWrite, he, hv]

end

/-! ## Links and ports (R154, R438, R454) -/

theorem dirOpen_of_port_open {s : State} {p : Nat} (h : (s.port p).retrain = false) : s.dirOpen (16 + p) = true := by
  simp [State.dirOpen, h]

/-- A link that retrains carries nothing in either direction. -/
theorem dirOpen_of_link_retrain {s : State} {n m : Nat} (hm : m / 2 = n) (hn : n < 8) (h : (s.link n).retrain = true) :
    s.dirOpen m = false := by
  have hlt : m < 16 := by omega
  simp [State.dirOpen, hlt, hm, h]

theorem flitReplay_counts {s : State} {p : Nat} (hp : p < 16) (hr : (s.port p).retrain = false) (hs : (s.linkDir (16 + p)).sent ≠ 0) :
    exec (.flitReplay p) s = .next (s.setLinkDir (16 + p) { s.linkDir (16 + p) with replay := (s.linkDir (16 + p)).replay + 1 }) := by
  simp [execFlitReplay, hp, hs, dirOpen_of_port_open hr]

theorem linkRetrain_opensWindow {s : State} {p : Nat} (hp : p < 16) (hr : (s.port p).retrain = false) :
    ∃ t, exec (.linkRetrain p) s = .next t ∧ (t.port p).retrain = true ∧ (t.port p).windows = (s.port p).windows + 1 ∧ t.mem = s.mem ∧
      t.net = s.net := by
  simp only [exec_linkRetrain, execLinkRetrain, hr, Nat.not_le.mpr hp, decide_false, Bool.or_false, Bool.false_eq_true, if_false]
  exact ⟨_, rfl, by simp, by simp, by simp, by simp⟩

theorem linkRateStep_opensWindow {s : State} {n : Nat} {r : BitVec 2} (hn : n < 8) (hr : (s.link n).retrain = false)
    (hrate : (s.link n).rate ≠ r) (hdue : ∀ t, (s.link n).stepAt = some t → t + 50000 ≤ s.time.toNat) :
    ∃ t, exec (.linkRateStep n r) s = .next t ∧ (t.link n).retrain = true ∧ (t.link n).rate = r ∧ t.dirOpen (2 * n) = false ∧
      t.dirOpen (2 * n + 1) = false ∧ t.mem = s.mem ∧ t.net = s.net := by
  have hexec : exec (.linkRateStep n r) s = .next (((s.setLink n
      { rate := r, retrain := true, stepAt := some s.time.toNat, windows := (s.link n).windows + 1 }).trainDir (2 * n)).trainDir
        (2 * n + 1)) := by
    cases hs : (s.link n).stepAt with
    | none => simp [execLinkRateStep, hn, hr, hrate, hs]
    | some t => simp [execLinkRateStep, hn, hr, hrate, hs, hdue t hs]
  exact ⟨_, hexec, by simp, by simp, dirOpen_of_link_retrain (by omega) hn (by simp), dirOpen_of_link_retrain (by omega) hn (by simp), by simp, by simp⟩

theorem retrainingWindowEnd_die {s : State} {n : Nat} (h : (s.link n).retrain = true) :
    exec (.retrainingWindowEnd (.die n)) s = .next (s.setLink n { s.link n with retrain := false }) := by
  simp only [exec_retrainingWindowEnd, execRetrainingWindowEnd, h, if_true]

theorem retrainingWindowEnd_port {s : State} {n : Nat} (h : (s.port n).retrain = true) :
    exec (.retrainingWindowEnd (.port n)) s = .next (s.setPort n { s.port n with retrain := false }) := by
  simp only [exec_retrainingWindowEnd, execRetrainingWindowEnd, h, if_true]

/-! ## Accesses from outside (R128, R312, R434, R439) -/

/-- What comes from outside changes the link directions only while it crosses. -/
theorem outsideCross_frame {s u : State} {c out back : Nat} (h : s.outsideCross c out back = some u) : ∃ l, u = { s with linkDirs := l } := by
  obtain ⟨v, hv, hu⟩ := Option.bind_eq_some_iff.mp h
  obtain ⟨l, rfl⟩ := crossNow_frame hv
  obtain ⟨k, rfl⟩ := crossNow_frame hu
  exact ⟨k, rfl⟩

section
variable {s u : State} {c : Nat}

theorem outsideCross_mem {out back : Nat} (h : s.outsideCross c out back = some u) : u.mem = s.mem := by
  obtain ⟨l, rfl⟩ := outsideCross_frame h
  rfl

theorem outsideCross_replies {out back : Nat} (h : s.outsideCross c out back = some u) : u.replies = s.replies := by
  obtain ⟨l, rfl⟩ := outsideCross_frame h
  rfl

theorem outsideCross_die {out back : Nat} (h : s.outsideCross c out back = some u) (d : Nat) : u.die d = s.die d := by
  obtain ⟨l, rfl⟩ := outsideCross_frame h
  rfl

theorem outsideCross_poisoned {out back : Nat} (h : s.outsideCross c out back = some u) (a n : Nat) : u.poisoned a n = s.poisoned a n := by
  obtain ⟨l, rfl⟩ := outsideCross_frame h
  rfl

end

/-! ### What a write at a home slice leaves of the replies -/

theorem wake_replies (s : State) (g : Nat) (b : Bool) : (s.wake g b).replies = s.replies := by
  unfold State.wake
  split
  · rfl
  · dsimp only
    split <;> rfl

theorem sendFlit_replies (s : State) (f : Nat) (hops : List (Nat × Nat)) : (s.sendFlit f hops).replies = s.replies := by
  obtain ⟨ls, fs, h⟩ := sendFlit_frame s f hops
  rw [h]

theorem touchL2_replies (s : State) (c : Nat) (h : BitVec 2) (w : Bool) : (s.touchL2 c h w).replies = s.replies := by
  obtain ⟨ds, hd⟩ := touchL2_dies s c h w
  rw [hd]

theorem wakeFrom_replies (s : State) (d : Nat) (w : Watch) : (s.wakeFrom d w).replies = s.replies := by
  unfold State.wakeFrom
  split
  · rfl
  · dsimp only
    split
    · rw [wake_replies]; rfl
    · rw [sendFlit_replies]; rfl

theorem wakeSlice_replies (s : State) (d i c n : Nat) : (s.wakeSlice d i c n).replies = s.replies := by
  unfold State.wakeSlice
  dsimp only
  split
  · rfl
  · exact foldl_keeps State.replies _ (fun s w => wakeFrom_replies s d w) _ _

theorem wakeWatches_replies (s : State) (c n : Nat) : (s.wakeWatches c n).replies = s.replies :=
  foldl_keeps State.replies _ (fun s _ => wakeSlice_replies s _ _ c n) _ _

theorem applyWrite_replies (s : State) (c : Nat) (h : BitVec 2) (bs : List Byte) : (s.applyWrite c h bs).replies = s.replies := by
  have ht := foldl_keeps State.replies (fun s b => s.touchL2 b h true) (fun s b => touchL2_replies s b h true) (blocksOf c bs.length) s
  simp only [State.applyWrite, wakeWatches_replies, ht]

/-! ### Reads and writes -/

section
variable {s u : State} {c : Nat}

theorem outsideRead_answers {n : Nat} (hd : s.deadHome c = false) (hp : s.poisoned c n = false)
    (h : s.outsideCross c (sizedClass n clsRequest) (sizedClass n clsRequest) = some u) :
    (s.outsideRead c n).mem = s.mem ∧ (s.outsideRead c n).replies = s.replies ++ [.bytes (Memory.readN s.mem c n)] := by
  have hq : u.poisoned c n = false := (outsideCross_poisoned h c n).trans hp
  simp only [State.outsideRead, hd, h, hq, Bool.false_eq_true, if_false, touchL2_mem, touchL2_replies, outsideCross_mem h,
    outsideCross_replies h, and_self]

/-- A read from outside waits while the link of the control die carries nothing (R128). -/
theorem outsideRead_waits {n : Nat} (hd : s.deadHome c = false)
    (h : s.outsideCross c (sizedClass n clsRequest) (sizedClass n clsRequest) = none) : s.outsideRead c n = s := by
  simp only [State.outsideRead, hd, h, Bool.false_eq_true, if_false]

theorem outsideWrite_mem {bs : List Byte} (hd : s.deadHome c = false)
    (h : s.outsideCross c (sizedClass bs.length clsRequest) clsControl = some u) :
    (s.outsideWrite c bs).mem = Memory.writeN s.mem c bs := by
  simp only [State.outsideWrite, hd, h, Bool.false_eq_true, if_false, applyWrite_mem, outsideCross_mem h]

theorem outsideAtomic_answers {ty : ElemType} {op : Nat} {x : W64} (hd : s.deadHome c = false)
    (h : s.outsideCross c clsRequest clsControl = some u) :
    (s.outsideAtomic c ty op x).mem = (u.applyAtomic c ty op x none).1.mem ∧
      (s.outsideAtomic c ty op x).replies = s.replies ++ [.word (extendLoad ty (u.applyAtomic c ty op x none).2)] := by
  have hr : (u.applyAtomic c ty op x none).1.replies = s.replies := (applyWrite_replies _ _ _ _).trans (outsideCross_replies h)
  simp only [State.outsideAtomic, hd, h, hr, Bool.false_eq_true, if_false, and_self]

end

section
variable {s : State} {pa n : Nat}

theorem hostRead_performs (h : cellExists (cellOf 0 pa) n = true) :
    exec (.hostCxlMemAccess pa (.read n)) s = .next (s.outsideRead (cellOf 0 pa) n) := by
  simp [execHostCxlMemAccess, h]

theorem hostWrite_performs {bs : List Byte} (h : cellExists (cellOf 0 pa) bs.length = true) :
    exec (.hostCxlMemAccess pa (.write bs)) s = .next (s.outsideWrite (cellOf 0 pa) bs) := by
  simp [execHostCxlMemAccess, h]

theorem fabricRead_performs (p : Nat) (h : cellExists (cellOf 0 (pa % 2 ^ 39)) n = true) :
    exec (.fabricRequestArrival (.read p pa n)) s = .next (s.outsideRead (cellOf 0 (pa % 2 ^ 39)) n) := by
  simp only [exec_fabricRequestArrival, execFabricRequestArrival, h, Bool.not_true, Bool.false_eq_true, if_false]

theorem fabricWrite_performs (p : Nat) {bs : List Byte} (h : cellExists (cellOf 0 (pa % 2 ^ 39)) bs.length = true) :
    exec (.fabricRequestArrival (.write p pa bs)) s = .next (s.outsideWrite (cellOf 0 (pa % 2 ^ 39)) bs) := by
  simp only [exec_fabricRequestArrival, execFabricRequestArrival, h, Bool.not_true, Bool.false_eq_true, if_false]

theorem fabricAtomic_performs (p op : Nat) {ty : ElemType} (x : W64) (h : cellExists (cellOf 0 (pa % 2 ^ 39)) (ty.width / 8) = true) :
    exec (.fabricRequestArrival (.atomic p pa ty op x)) s = .next (s.outsideAtomic (cellOf 0 (pa % 2 ^ 39)) ty op x) := by
  simp only [exec_fabricRequestArrival, execFabricRequestArrival, h, Bool.not_true, Bool.false_eq_true, if_false]

end

/-! ### Coherence requests of the host (R434) -/

section
variable {s u : State} {line c : Nat}

/-- The line of a cell is gone from the L2 of its home once it is dropped. -/
theorem line_ne_of_dropHostLine (s : State) (c : Nat) : ∀ x ∈ ((s.dropHostLine c).die (homeDie c)).l2, x.line ≠ c / 256 := by
  intro x hx
  rw [State.dropHostLine, State.die_setDie] at hx
  simpa using (List.mem_filter.mp hx).2

theorem readShared_cleans (hc : cellOf 1 (line * 64 % 2 ^ 52) = c) (hl : ((s.die (homeDie c)).l2.any fun x => x.line = c / 256) = true)
    (h : s.outsideCross c clsControl clsControl = some u) :
    ∃ t, exec (.hostCxlCacheSnoop line .readShared) s = .next t ∧ t.mem = s.mem ∧
      (∀ x ∈ (t.die (homeDie c)).l2, x.line = c / 256 → x.dirty = false) ∧ t.replies = s.replies ++ [.bytes (Memory.readN s.mem c 64)] := by
  rw [← outsideCross_die h] at hl
  simp only [exec_hostCxlCacheSnoop, execHostCxlCacheSnoop, hc, h, hl, Bool.not_true, Bool.false_eq_true, if_false]
  refine ⟨_, rfl, by rw [← outsideCross_mem h]; rfl, fun x hx hline => ?_, by rw [← outsideCross_mem h, ← outsideCross_replies h]⟩
  have hx : x ∈ ((u.setDie (homeDie c) _).die (homeDie c)).l2 := hx
  rw [State.die_setDie] at hx
  obtain ⟨y, -, rfl⟩ := List.mem_map.mp hx
  by_cases hy : y.line = c / 256
  · rw [if_pos hy]
  · rw [if_neg hy] at hline
    exact absurd hline hy

theorem readInvalidate_drops (hc : cellOf 1 (line * 64 % 2 ^ 52) = c) (hl : ((s.die (homeDie c)).l2.any fun x => x.line = c / 256) = true)
    (h : s.outsideCross c clsControl clsControl = some u) :
    ∃ t, exec (.hostCxlCacheSnoop line .readInvalidate) s = .next t ∧ t.mem = s.mem ∧
      (∀ x ∈ (t.die (homeDie c)).l2, x.line ≠ c / 256) ∧ t.replies = s.replies ++ [.bytes (Memory.readN s.mem c 64)] := by
  rw [← outsideCross_die h] at hl
  simp only [exec_hostCxlCacheSnoop, execHostCxlCacheSnoop, hc, h, hl, Bool.not_true, Bool.false_eq_true, if_false]
  exact ⟨_, rfl, by rw [← outsideCross_mem h]; rfl, line_ne_of_dropHostLine u c, by rw [← outsideCross_mem h, ← outsideCross_replies h]⟩

theorem snoopWrite_mem (hc : cellOf 1 (line * 64 % 2 ^ 52) = c) (h : s.outsideCross c clsControl clsControl = some u) (bs : List Byte) :
    ∃ t, exec (.hostCxlCacheSnoop line (.write bs)) s = .next t ∧ t.mem = Memory.writeN s.mem c (bs.take 64) := by
  simp only [exec_hostCxlCacheSnoop, execHostCxlCacheSnoop, hc, h]
  exact ⟨_, rfl, by rw [wakeWatches_mem, ← outsideCross_mem h]; rfl⟩

end

/-! ## The statement -/

/-- Settles O56: the register writes, the link events and the accesses from outside each by its own rule above. -/
theorem outsideWorldCompletes : Obligations.OutsideWorldCompletes := by
  unfold Obligations.OutsideWorldCompletes
  refine ⟨fun s vf n hv hn => ⟨sigpolWrite_sets hv, fun x => ⟨lqtktWrite_sets hv hn x, lqtktWrite_ignored x⟩, fun he => ?_, ?_⟩,
    fun s => ⟨?_, ?_, ?_, ?_, ?_, ?_⟩⟩
  · exact ⟨lqcfgWrite_sets he hv hn, fqcfgWrite_sets he hv, lqidxWrite_sets he hv hn, lqidxWrite_ignored, fqidxWrite_sets he hv,
      krangeWrite_sets he hv, prangeWrite_sets he hv, fun d x y => rsvrectWrite_sets he hv,
      fun x => ⟨xrootWrite_sets he hv x, otdescWrite_sets he hv x⟩⟩
  · refine fun old x lo => ⟨ringWrite_on_on lo, fun ho hx => ?_, ringWrite_off_invalid⟩
    rw [ringWrite_on_off lo ho hx]
    exact ⟨ringOn_clearEn old, fun i hi => by rw [getLsbD_clearEn, decide_eq_true (show i ≠ 63 by omega), Bool.and_true]⟩
  · exact fun p hp hr => ⟨flitReplay_counts hp hr, linkRetrain_opensWindow hp hr⟩
  · exact fun n r => linkRateStep_opensWindow
  · exact fun n => ⟨retrainingWindowEnd_die, retrainingWindowEnd_port⟩
  · intro pa n bs u c hd
    refine ⟨fun hc hp h => ⟨_, hostRead_performs hc, outsideRead_answers hd hp h⟩, fun hc h => ?_,
      fun hc h => ⟨_, hostWrite_performs hc, outsideWrite_mem hd h⟩⟩
    rw [hostRead_performs hc, outsideRead_waits hd h]
  · exact fun line bs u hl h => ⟨readShared_cleans rfl hl h, readInvalidate_drops rfl hl h, snoopWrite_mem rfl h bs⟩
  · intro p pa n op ty x bs u c hd
    exact ⟨fun hc hp h => ⟨_, fabricRead_performs p hc, outsideRead_answers hd hp h⟩,
      fun hc h => ⟨_, fabricWrite_performs p hc, outsideWrite_mem hd h⟩,
      fun hc h => ⟨_, fabricAtomic_performs p op x hc, outsideAtomic_answers hd h⟩⟩

end Sys2Proof.Machine
end

section
/-!
SUPPORT. Registers, masks and the results of scalar and mask slots: what a slot writes and what it leaves (R57 to R61, R66, R72, R245 to
R260), and the package after a cold reset.
-/
namespace Sys2Proof.Machine
open Sys2Proof

/-! ## The package after a cold reset (R81, R83, R119, R121, R387, R436, R441) -/

/-- Settles O57: every part of the package after a cold reset is the default of its table. -/
theorem resetState : Obligations.ResetState := by
  unfold Obligations.ResetState
  exact ⟨rfl, rfl, rfl, rfl, rfl, rfl, rfl, rfl, rfl, fun _ _ => (by decide : Snapshot.clear.stat.getLsbD 0 = false), fun _ _ => rfl,
    fun _ _ => ⟨rfl, rfl, rfl, rfl, rfl, rfl, rfl, rfl, rfl, rfl, rfl, rfl, rfl, rfl, rfl⟩⟩

/-! ## Which lanes a slot writes (R59, R211) -/

/-- The executing lanes are those of the path's mask in which the guard holds. -/
theorem Ctx.getLsbD_enabled (c : Ctx) (pg : BitVec 3) (pn : Bool) (l : Nat) :
    (c.enabled pg pn).getLsbD l = (c.p.mask.getLsbD l && ((c.g.kreg c.p.mask pg.toNat).getLsbD l != pn)) := by
  by_cases hl : l < 64
  · cases pn <;> simp [Ctx.enabled, hl]
  · simp [Ctx.enabled, BitVec.getLsbD_of_ge c.p.mask l (by omega)]

/-- Settles O3: a v register is read after the write (`vreg_writeV`), and the write leaves the other registers of the group. -/
theorem guardAndWriteMask : Obligations.GuardAndWriteMask := by
  unfold Obligations.GuardAndWriteMask
  refine ⟨Ctx.getLsbD_enabled, fun c g p e r f => ⟨fun l hl => ?_, fun r' l hl hr => ?_, (c.writeV_frame g p e r f).restore,
    fun _ _ _ _ _ => ⟨rfl, rfl, rfl⟩⟩⟩
  · simp only [c.vreg_writeV g p e r f r l hl, true_and]
  · simp only [c.vreg_writeV g p e r f r' l hl, hr, false_and, if_false]

/-! ## Results for s registers and queues (R61, R110, R245) -/

/-- The queue entry of one value for the path: a vector entry where the opcode is a vector one. -/
theorem Ctx.write_queue_one (c : Ctx) (g : Group) (e : W64) (n : BitVec 4) (p : Pfx) (vec : Bool) (x : W64) :
    ∃ y : QEntry, c.write g e (.q n) p vec (.one x) = g.pushEntry n.toNat y ∧ y.scalar = !vec ∧ y.cmd = none ∧
      (vec = true → y.mask = e) ∧ (vec = false → ∀ l, y.at l = x) ∧ (vec = true → ∀ l, e.getLsbD l = true → y.at l = x) := by
  cases vec with
  | true =>
      refine ⟨{ QEntry.ofLanes e fun _ => x with clause := c.r.clause, slot := c.r.idx }, rfl, rfl, rfl, fun _ => rfl, nofun, fun _ l hl => ?_⟩
      exact (QEntry.at_ofLanes e _ c.r.clause c.r.idx l).trans (if_pos hl)
  | false => 
      exact ⟨{ QEntry.ofScalar x with clause := c.r.clause, slot := c.r.idx }, rfl, rfl, rfl, nofun,
        fun _ => QEntry.at_ofScalar x c.r.clause c.r.idx, nofun⟩

/-- Settles O4: a write of an s register is read back, and a queue ends with the pushed entry. -/
theorem scalarAndQueueResults : Obligations.ScalarAndQueueResults := by
  unfold Obligations.ScalarAndQueueResults
  refine fun c g e p vec x t => ⟨fun n => ⟨?_, fun m hm => ?_, rfl⟩, fun n => ?_, fun n => ?_⟩
  · exact (g.sreg_setSreg _ _ x).trans (if_pos rfl)
  · exact (g.sreg_setSreg _ m x).trans (if_neg hm)
  · obtain ⟨y, hw, hy⟩ := c.write_queue_one g e n p vec x
    refine ⟨y, ?_, fun m hm => ?_, by rw [hw]; rfl, hy⟩
    · rw [hw, Group.queue_pushEntry, if_pos rfl]
    · rw [hw, Group.pushEntry, Group.queue_setQueue, if_neg hm]
  · refine ⟨_, (Group.queue_pushEntry g _ _ _).trans (if_pos rfl), rfl, rfl, fun l hl => ?_⟩
    exact (QEntry.at_ofLanes e _ c.r.clause c.r.idx l).trans (if_pos hl)

/-! ## The frame of a register result (R57, R60, R61, R66) -/

/-- A slot that takes a latch leaves every pending write but for the latch it goes to. -/
theorem Group.takeLatch_pending (g : Group) (r : ClauseRun) (latch : Option (Tbl W64)) :
    ∃ ps : List Pending, g.takeLatch r latch = { g with pending := ps } ∧
      ps.map (fun p => { p with latch := none }) = g.pending.map fun p => { p with latch := none } := by
  unfold Group.takeLatch
  split
  · exact ⟨g.pending, rfl, rfl⟩
  · refine ⟨_, rfl, ?_⟩
    rw [List.map_map]
    refine List.map_congr_left fun p _ => ?_
    dsimp only [Function.comp_apply]
    split <;> rfl

/-- A slot that is done inside its clause changes its group only, and of it the latches, the slot counter and the latches that pending
writes go to. -/
theorem doneWith_inside (s : State) (g : Group) (r : ClauseRun) (latch : Option (Tbl W64)) (hr : g.run = some r) (hl : r.leaving = none)
    (hi : r.idx + 1 < r.words.length) :
    ∃ (ps : List Pending) (r' : Option ClauseRun), doneWith s g latch none = .next (s.setGroup { g with run := r', pending := ps }) ∧
      ps.map (fun p => { p with latch := none }) = g.pending.map fun p => { p with latch := none } := by
  obtain ⟨ps, hg, hps⟩ := g.takeLatch_pending r latch
  refine ⟨ps, some (r.advance latch none), ?_, hps⟩
  rw [doneWith, State.finishSlot_inside s g r latch hr hl hi, hg]

/-- What writing a result changes of a group that is no queue push: at most the destination's v or s register. -/
theorem Ctx.write_register_frame (c : Ctx) (g : Group) (e : W64) (dst : Operand) (p : Pfx) (vec : Bool) (x : Res) (hq : ∀ q, dst ≠ .q q) :
    ∃ v s, c.write g e dst p vec x = { g with v := v, s := s } ∧
      (∀ n l, l < 64 → (c.write g e dst p vec x).vreg n l = g.vreg n l ∨ ∃ k : BitVec 8, dst = .v k ∧ k.toNat = n) ∧
      (∀ n, (c.write g e dst p vec x).sreg n = g.sreg n ∨ ∃ k : BitVec 6, dst = .s k ∧ k.toNat = n) := by
  cases dst with
  | v k =>
      obtain ⟨t, ht⟩ := c.writeV_frame g p e k.toNat x.at
      refine ⟨t, g.s, ht, fun n l hl => ?_, fun n => .inl (by rw [Ctx.write, ht]; rfl)⟩
      by_cases hn : k.toNat = n
      · exact .inr ⟨k, rfl, hn⟩
      · left
        rw [Ctx.write, c.vreg_writeV g p e k.toNat x.at n l hl, if_neg fun h => hn h.1.symm]
  | s k =>
      refine ⟨g.v, _, rfl, fun n l _ => .inl rfl, fun n => ?_⟩
      by_cases hn : k.toNat = n
      · exact .inr ⟨k, rfl, hn⟩
      · exact .inl ((g.sreg_setSreg _ n _).trans (if_neg fun h => hn h.symm))
  | l k => exact ⟨g.v, g.s, rfl, fun _ _ _ => .inl rfl, fun _ => .inl rfl⟩
  | q k => exact absurd rfl (hq k)
  | reserved k => exact ⟨g.v, g.s, rfl, fun _ _ _ => .inl rfl, fun _ => .inl rfl⟩

theorem getLsbD_lowMask (n l : Nat) : (lowMask n).getLsbD l = (decide (l < 64) && decide (l < n)) := by
  rw [lowMask, BitVec.getLsbD_ofNat, Nat.testBit_two_pow_sub_one]

/-- A lane that does not execute keeps its bit of a mask register (R66). -/
theorem Group.getLsbD_setKreg_other (g : Group) (kd : Nat) (e b : W64) (l : Nat) (he : e.getLsbD l = false) (hw : l < g.width) (hl : l < 64) :
    (Tbl.get 0 (g.setKreg kd e b).masks kd).getLsbD l = (Tbl.get 0 g.masks kd).getLsbD l := by
  rw [Group.setKreg_masks, Tbl.get_put_same]
  simp only [BitVec.getLsbD_and, BitVec.getLsbD_or, BitVec.getLsbD_not, he, getLsbD_lowMask, hl, hw, decide_true, Bool.and_self, Bool.and_true,
    Bool.not_false, Bool.and_false, Bool.or_false]

/-- What the outcome `o` of a slot with a result for a register leaves of the state of `c` and of the group `h`: the frame of the
statement. -/
def Ctx.KeepsAllBut (c : Ctx) (dst : Operand) (nw : Bool) (h : Group) (o : Host.Outcome State Fault Refusal) : Prop :=
  ∃ t g', o = .next t ∧ t = c.s.setGroup g' ∧ t.mem = c.s.mem ∧
    { g' with v := h.v, s := h.s, run := h.run, pending := h.pending } = h ∧
    (g'.pending.map fun p => { p with latch := none }) = (h.pending.map fun p => { p with latch := none }) ∧
    (nw = true → g'.v = h.v ∧ g'.s = h.s) ∧
    (∀ n l, l < 64 → g'.vreg n l = h.vreg n l ∨ ∃ k : BitVec 8, dst = .v k ∧ k.toNat = n) ∧
    (∀ n, g'.sreg n = h.sreg n ∨ ∃ k : BitVec 6, dst = .s k ∧ k.toNat = n)

theorem Ctx.result_keepsAllBut (c : Ctx) (e : W64) (dst : Operand) (nw : Bool) (p : Pfx) (vec : Bool) (h : Group) (r : ClauseRun) (x : Res)
    (latch : Tbl W64) (hr : h.run = some r) (hl : r.leaving = none) (hi : r.idx + 1 < r.words.length) (hq : ∀ q, dst ≠ .q q) :
    c.KeepsAllBut dst nw h (doneWith c.s (if nw then h else c.write h e dst p vec x) (some latch) none) := by
  cases nw with
  | true =>
      obtain ⟨ps, r', hd, hps⟩ := doneWith_inside c.s h r (some latch) hr hl hi
      exact ⟨_, _, hd, rfl, rfl, rfl, hps, fun _ => ⟨rfl, rfl⟩, fun _ _ _ => .inl rfl, fun _ => .inl rfl⟩
  | false =>
      obtain ⟨v, s, hw, hv, hs⟩ := c.write_register_frame h e dst p vec x hq
      obtain ⟨ps, r', hd, hps⟩ := doneWith_inside c.s { h with v := v, s := s } r (some latch) hr hl hi
      rw [hw] at hv hs
      rw [if_neg (by decide), hw, hd]
      exact ⟨_, _, rfl, rfl, rfl, rfl, hps, nofun, hv, hs⟩

/-- What the outcome of a slot with a mask destination leaves of the state and the group. -/
theorem Ctx.maskDone_frame (c : Ctx) (e : W64) (kd : Nat) (nw : Bool) (h : Group) (b : W64) (r : ClauseRun) (hr : h.run = some r)
    (hl : r.leaving = none) (hi : r.idx + 1 < r.words.length) :
    ∃ g' : Group, c.maskDone e kd nw h b = .next (c.s.setGroup g') ∧ { g' with masks := h.masks, run := h.run, pending := h.pending } = h ∧
      (g'.pending.map fun p => { p with latch := none }) = (h.pending.map fun p => { p with latch := none }) ∧
      g'.masks = if nw then h.masks else (h.setKreg kd e b).masks := by
  cases nw with
  | true =>
      obtain ⟨ps, r', hd, hps⟩ := doneWith_inside c.s h r (some (c.spread (Tbl.get 0 (h.setKreg kd e b).masks kd))) hr hl hi
      exact ⟨_, hd, rfl, hps, rfl⟩
  | false =>
      obtain ⟨ps, r', hd, hps⟩ :=
        doneWith_inside c.s (h.setKreg kd e b) r (some (c.spread (Tbl.get 0 (h.setKreg kd e b).masks kd))) hr hl hi
      exact ⟨_, hd, rfl, hps, rfl⟩

/-- Settles O5: the slot ends inside its clause (`doneWith_inside`), and writing its result changes at most the destination. -/
theorem registerResultFrame : Obligations.RegisterResultFrame := by
  unfold Obligations.RegisterResultFrame
  intro c e dst nw p vec h r hr hl hi hq bare
  refine ⟨?_, fun kd b => ?_⟩
  · rintro o (⟨x, rfl⟩ | ⟨y, rfl⟩)
    · exact c.result_keepsAllBut e dst nw p vec h r (.one x) (c.spread x) hr hl hi hq
    · exact c.result_keepsAllBut e dst nw p vec h r (.lanes (laneTbl e y)) (laneTbl e y) hr hl hi hq
  · obtain ⟨g', ho, hg, hps, hm⟩ := c.maskDone_frame e kd nw h b r hr hl hi
    refine ⟨_, g', ho, rfl, rfl, hg, hps, fun hn => by rw [hm, hn]; rfl, fun k hk => ?_, fun l he hw hl => ?_⟩
    · rw [hm]
      split
      · rfl
      · exact Tbl.get_put_other _ _ _ _ _ hk
    · rw [hm]
      split
      · rfl
      · exact h.getLsbD_setKreg_other kd e b l he hw hl

/-! ## Element-wise scalar slots (R61, R245, R250, R251, R253, R255) -/

/-- An element-wise scalar slot of `n` sources completes with the operation on each sub-element. -/
theorem Ctx.scalElems_begins {c : Ctx} {f : VForm} {t : State} {g h : Group} {xs : List Src} {n : Nat} (op : FEnv → List Nat → El)
    (b : c.Begins {} (c.enabled f.pg f.pn) f.nw [dstOf f .sq] (usesOf f n .slq) t g h xs) :
    let fe := (c.put t g).fenv f.pfx
    let row := elements f.ty fun j => op fe (xs.map fun x => elem f.ty (x ((lowest (c.enabled f.pg f.pn)).getD 0)) j)
    noTrap fe row →
    Host.Outcome.next (slotEnd (c.scalElems f n op)) =
      (c.put t g).pathDone (c.enabled f.pg f.pn) f.dst f.nw f.pfx false h (elReg f.ty row) := by
  intro fe row hn
  have hrow : mapElems f.ty (op fe) (xs.map fun x => x ((lowest (c.enabled f.pg f.pn)).getD 0)) = row := by
    simp only [mapElems, List.map_map, Function.comp_def]
    rfl
  rw [← hrow] at hn ⊢
  exact Ctx.pathSlot_begins f.ty (fun fe xs => mapElems f.ty (op fe) xs) b hn

/-- The element-wise scalar opcodes: the number of sources and the operation on a sub-element. -/
def scalarOps (f : VForm) : List (Nat × Instr × (FEnv → List Nat → El)) :=
  [(2, .sadd f, fun fe => op2 (elAdd f.ty (xSat f.x) fe)), (2, .ssub f, fun fe => op2 (elSub f.ty (xSat f.x) fe)),
    (2, .smul f, fun fe => op2 (elMul f.ty (xSat f.x) fe)), (2, .smulh f, fun _ => op2 (elMulh f.ty)),
    (2, .sdiv f, fun _ => op2 (elDiv f.ty (xSat f.x))), (2, .srem f, fun _ => op2 (elRem f.ty)), (2, .sand f, fun _ => op2 elAnd),
    (2, .sor f, fun _ => op2 elOr), (2, .sxor f, fun _ => op2 elXor), (2, .sshl f, fun _ => op2 (elShl f.ty (f.var = 1))),
    (2, .sshr f, fun _ => op2 (elShr f.ty (f.var = 1))),
    (2, .scmp f, fun fe => op2 fun a b => elMask f.ty (elCompare f.ty fe (xCond f.x) a b)),
    (2, .smin f, fun fe => op2 (elPick f.ty false fe)), (2, .smax f, fun fe => op2 (elPick f.ty true fe)),
    (1, .sclz f, fun _ => op1 (elClz f.ty)), (1, .spopc f, fun _ => op1 (elPopc f.ty))]

/-- Every one of them runs the element-wise scalar slot with its operation. -/
theorem exec_scalarOps (f : VForm) (s : State) : ∀ o ∈ scalarOps f, exec o.2.1 s = runSlot s fun c => c.scalElems f o.1 o.2.2 := by
  simp only [scalarOps, List.forall_mem_cons, List.not_mem_nil, false_imp_iff, implies_true, and_true]
  exact ⟨rfl, rfl, rfl, rfl, rfl, rfl, rfl, rfl, rfl, rfl, rfl, rfl, rfl, rfl, rfl, rfl⟩

/-- Settles O7: the opcodes of `scalarOps` by the element-wise slot, SCVT by the path slot on sub-element 0. -/
theorem scalarElementwiseResults : Obligations.ScalarElementwiseResults := by
  unfold Obligations.ScalarElementwiseResults
  intro s c f t g h xs hc e l fe
  refine ⟨?_, ?_⟩
  · intro n i op hmem b row hn
    have hmem : (n, i, op) ∈ (scalarOps f).map fun o => (o.1, o.2.1, o.2.2 fe) := hmem
    obtain ⟨⟨m, j, op'⟩, hin, heq⟩ := List.mem_map.mp hmem
    obtain ⟨rfl, rfl, rfl⟩ : m = n ∧ j = i ∧ op' fe = op := by simpa using heq
    rw [exec_scalarOps f s _ hin, runSlot_runs hc]
    exact Ctx.scalElems_begins op' b hn
  · intro b row hn
    have hhead : (xs.map fun x => x l).headD 0 = (xs.headD fun _ => 0) l := by cases xs <;> rfl
    have hrun : exec (.scvt f) s = .next (slotEnd (c.pathSlot f f.ty (usesOf f 1 .slq) fun fe xs =>
        [elConvert (Wf.srcType f.x) f.ty (xSat f.x) fe (elem (Wf.srcType f.x) (xs.headD 0) 0)])) := runSlot_runs hc _
    rw [hrun, Ctx.pathSlot_begins f.ty _ b (by rw [hhead]; exact hn), hhead]

end Sys2Proof.Machine
end

section
/-!
SUPPORT. Scalar moves, special registers, SETF and the opcodes with a mask destination (R66, R72, R74, R249, R250, R254 to R260, R267).
-/
namespace Sys2Proof.Machine
open Sys2Proof

/-- A slot whose operands are in order and whose own effect completes is done with it. -/
theorem Ctx.enter_completes {c : Ctx} {o : Start} {e : W64} {nw : Bool} {dsts srcs : List Use} {s : State} {g h : Group} {xs : List Src}
    {captures : Bool} (b : c.Begins o e nw dsts srcs s g h xs captures) {body : Ctx → Group → List Src → Slot} {t : State} {g' : Group}
    {l : Option (Tbl W64)} {d : Option Goto} (hb : body (c.put s g) h xs = .done t g' l d) :
    .next (slotEnd (c.enter o e nw dsts srcs captures body)) = doneWith t g' l d := by
  rw [Ctx.enter_begins b, hb, Slot.precise_done, ite_self]
  rfl

/-! ## Moves and special registers (R74, R249, R250, R260) -/

section
variable {s : State} {c : Ctx} {t : State} {g h : Group} {xs : List Src} (hc : s.runs c)
include hc

theorem smov_copies {f : VForm} (b : c.Begins {} (c.enabled f.pg f.pn) f.nw [dstOf f .sq] (usesOf f 1 .slq) t g h xs) :
    exec (.smov f) s = (c.put t g).pathDone (c.enabled f.pg f.pn) f.dst f.nw f.pfx false h
      ((xs.headD fun _ => 0) ((lowest (c.enabled f.pg f.pn)).getD 0)) := by
  have hrun : exec (.smov f) s = .next (slotEnd (c.scalWhole f 1 fun xs => xs.headD 0)) := runSlot_runs hc _
  rw [hrun, Ctx.scalWhole_begins 1 _ b]
  cases xs <;> rfl

theorem ssel_selects {f : VForm} {x y z : Src}
    (b : c.Begins {} (c.enabled f.pg f.pn) f.nw [dstOf f .sq] (usesOf f 3 .slq) t g h [x, y, z]) :
    let l := (lowest (c.enabled f.pg f.pn)).getD 0
    exec (.ssel f) s = (c.put t g).pathDone (c.enabled f.pg f.pn) f.dst f.nw f.pfx false h (if z l ≠ 0 then x l else y l) := by
  have hrun : exec (.ssel f) s = .next (slotEnd (c.scalWhole f 3 selectWhole)) := runSlot_runs hc _
  exact hrun.trans (Ctx.scalWhole_begins 3 selectWhole b)

theorem smovi_writes {f : IForm} (b : c.Begins {} (c.enabled f.pg f.pn) f.nw [⟨36, f.dst, .sq, 1⟩] [] t g h xs) :
    exec (.smovi f) s = (c.put t g).pathDone (c.enabled f.pg f.pn) f.dst f.nw f.pfx false h (immReg f.ty f.imm) := by
  refine (runSlot_runs hc _).trans ?_
  unfold Ctx.immSlot Ctx.entry
  exact Ctx.enter_completes b rfl

theorem saddi_adds {f : IForm} {r : BitVec 6} (hd : f.dst = .s r)
    (b : c.Begins {} (c.enabled f.pg f.pn) f.nw [⟨36, f.dst, .onlyS, 1⟩] [] t g h xs) :
    exec (.saddi f) s = (c.put t g).pathDone (c.enabled f.pg f.pn) f.dst f.nw f.pfx false h
      (elReg f.ty (elements f.ty fun j =>
        elAdd f.ty false ((c.put t g).fenv f.pfx) (elem f.ty (h.sreg r.toNat) j) (elem f.ty (immReg f.ty f.imm) j))) := by
  refine (runSlot_runs hc _).trans (Ctx.enter_completes b ?_)
  rw [hd]
  rfl

/-- What SRD answers: sr.lane by lanes or for the path, another special register in every lane or for the path. -/
theorem srd_answers {f : VForm} {r : Res} (b : c.Begins {} (c.enabled f.pg f.pn) f.nw [dstOf f .vsq] [] t g h xs)
    (hr : (match f.dst, f.x.toNat with
      | .s _, 0 => Res.one ((Res.lanes (laneTbl (c.enabled f.pg f.pn) fun l => BitVec.ofNat 64 l)).at ((lowest (c.enabled f.pg f.pn)).getD 0))
      | _, 0 => Res.lanes (laneTbl (c.enabled f.pg f.pn) fun l => BitVec.ofNat 64 l)
      | .v _, _ => Res.lanes (laneTbl (c.enabled f.pg f.pn) fun _ => (c.put t g).special f.x.toNat)
      | _, _ => Res.one ((c.put t g).special f.x.toNat)) = r) :
    exec (.srd f) s = .next (slotEnd ((c.put t g).result h (c.enabled f.pg f.pn) f.dst f.nw f.pfx false r)) := by
  subst hr
  exact (runSlot_runs hc _).trans (Ctx.enter_completes b rfl)

theorem srd_lane_scalar {f : VForm} {r : BitVec 6} (hd : f.dst = .s r) (hx : f.x = 0)
    (b : c.Begins {} (c.enabled f.pg f.pn) f.nw [dstOf f .vsq] [] t g h xs) :
    exec (.srd f) s = (c.put t g).pathDone (c.enabled f.pg f.pn) f.dst f.nw f.pfx false h
      (Tbl.get 0 (laneTbl (c.enabled f.pg f.pn) fun l => BitVec.ofNat 64 l) ((lowest (c.enabled f.pg f.pn)).getD 0)) :=
  srd_answers hc b (by rw [hd, hx]; rfl)

theorem srd_lane_each {f : VForm} (hd : ∀ r, f.dst ≠ .s r) (hx : f.x = 0)
    (b : c.Begins {} (c.enabled f.pg f.pn) f.nw [dstOf f .vsq] [] t g h xs) :
    exec (.srd f) s = (c.put t g).lanesDone (c.enabled f.pg f.pn) f.dst f.nw f.pfx false h fun l => BitVec.ofNat 64 l := by
  refine (srd_answers hc b (r := .lanes (laneTbl (c.enabled f.pg f.pn) fun l => BitVec.ofNat 64 l)) ?_).trans
    (Ctx.result_lanes _ _ _ _ _ _ _ _ _ fun l => get_laneTbl_eq _ _ l)
  rw [hx]
  cases hdst : f.dst with
  | s r => exact absurd hdst (hd r)
  | _ => rfl

theorem srd_other_vector {f : VForm} {r : BitVec 8} (hd : f.dst = .v r) (hx : f.x ≠ 0)
    (b : c.Begins {} (c.enabled f.pg f.pn) f.nw [dstOf f .vsq] [] t g h xs) :
    exec (.srd f) s = (c.put t g).lanesDone (c.enabled f.pg f.pn) f.dst f.nw f.pfx false h fun _ => (c.put t g).special f.x.toNat := by
  obtain ⟨n, hn⟩ := Nat.exists_eq_succ_of_ne_zero (n := f.x.toNat) fun h => hx (BitVec.eq_of_toNat_eq h)
  refine (srd_answers hc b (r := .lanes (laneTbl (c.enabled f.pg f.pn) fun _ => (c.put t g).special f.x.toNat)) ?_).trans
    (Ctx.result_lanes _ _ _ _ _ _ _ _ _ fun l => get_laneTbl_eq _ _ l)
  rw [hd, hn]
  rfl

theorem srd_other_path {f : VForm} (hd : ∀ r, f.dst ≠ .v r) (hx : f.x ≠ 0)
    (b : c.Begins {} (c.enabled f.pg f.pn) f.nw [dstOf f .vsq] [] t g h xs) :
    exec (.srd f) s = (c.put t g).pathDone (c.enabled f.pg f.pn) f.dst f.nw f.pfx false h ((c.put t g).special f.x.toNat) := by
  obtain ⟨n, hn⟩ := Nat.exists_eq_succ_of_ne_zero (n := f.x.toNat) fun h => hx (BitVec.eq_of_toNat_eq h)
  refine srd_answers hc b ?_
  rw [hn]
  cases hdst : f.dst with
  | v r => exact absurd hdst (hd r)
  | _ => rfl

end

/-! ## SETF (R72, R259) -/

/-- The operand of SETF, and its check of that operand. -/
def setfValue (c : Ctx) (f : VForm) (xs : List Src) : W64 := (xs.headD fun _ => 0) ((lowest (c.enabled f.pg f.pn)).getD 0)

def setfCheck (c : Ctx) (f : VForm) (xs : List Src) : Option FaultInfo :=
  if fmtRefused (setfValue c f xs) f.x then some (illegalOperand 6 27 (setfValue c f xs).toNat) else none

/-- fmt after SETF: the fields that the mask selects are those of `a`. -/
def setfFmt (fmt : W32) (m : BitVec 9) (a : W64) : W32 := (fmt &&& ~~~fmtBits m) ||| (a.truncate 32 &&& fmtBits m)

section
variable {s : State} {c : Ctx} {f : VForm} (hc : s.runs c)
include hc

theorem setf_completes {t : State} {g h : Group} {xs : List Src}
    (b : c.Begins { check := setfCheck c f } (c.enabled f.pg f.pn) f.nw [dstOf f .sq] (usesOf f 1 .slq) t g h xs) :
    exec (.setf f) s = (c.put t g).pathDone (c.enabled f.pg f.pn) f.dst f.nw f.pfx false
      (h.setPath c.k (some { (c.put t g).p with fmt := setfFmt (c.put t g).p.fmt f.x (setfValue c f xs) }))
      ((c.put t g).p.fmt.zeroExtend 64) :=
  (runSlot_runs hc _).trans (Ctx.enter_completes b rfl)

/-- A value that SETF refuses raises the illegal-operand fault, before anything is written. -/
theorem setf_refuses {n : BitVec 6} (hs : f.sa = .s n) (he : c.enabled f.pg f.pn ≠ 0)
    (hfields : ([dstOf f .sq] ++ usesOf f 1 .slq).findSome? (Use.fault c.g) = none)
    (hp : (c.g.pending.any fun p => p.latches c.r || ([dstOf f .sq] ++ usesOf f 1 .slq).any fun u => p.meets c.r.id u) = false)
    (hr : fmtRefused (c.g.sreg n.toNat) f.x = true) :
    exec (.setf f) s = .next (slotEnd (c.trap (illegalOperand 6 27 (c.g.sreg n.toNat).toNat))) := by
  have hlatch : (c.g.pending.any fun p => p.latches c.r) = false := by
    simp only [List.any_eq_false, Bool.or_eq_true, not_or] at hp ⊢
    exact fun p h => (hp p h).1
  have hmeets : (c.g.pending.any fun p => ([dstOf f .sq] ++ usesOf f 1 .slq).any fun u => p.meets c.r.id u) = false := by
    simp only [List.any_eq_false, Bool.or_eq_true, not_or] at hp ⊢
    exact fun p h => (hp p h).2
  have huses : usesOf f 1 .slq = [⟨27, .s n, .slq, 1⟩] := by rw [← hs]; rfl
  have hcheck : setfCheck c f (foreseen c.g c.r (usesOf f 1 .slq)) = some (illegalOperand 6 27 (c.g.sreg n.toNat).toNat) := by
    rw [huses]
    exact if_pos hr
  have hvals : latchFault c.r (usesOf f 1 .slq) = none := by rw [huses]; rfl
  refine (runSlot_runs hc _).trans ?_
  have henter : ∀ body, c.enter { check := setfCheck c f } (c.enabled f.pg f.pn) f.nw [dstOf f .sq] (usesOf f 1 .slq) true body =
      c.trap (illegalOperand 6 27 (c.g.sreg n.toNat).toNat) := by
    intro body
    unfold Ctx.enter
    simp only [he, hfields, hlatch, hvals, hmeets, hcheck, decide_false, Bool.false_and, Bool.and_false, Bool.false_eq_true, if_false,
      Option.or_none, Option.some_or]
  exact congrArg (fun x => Host.Outcome.next (slotEnd x)) (henter _)

end

/-- Settles O8: the moves, SRD and SETF each by its own rule above. -/
theorem scalarMovesAndSetf : Obligations.ScalarMovesAndSetf := by
  unfold Obligations.ScalarMovesAndSetf
  refine ⟨fun s c t g h xs hc => ⟨fun f => smov_copies hc, ?_, fun f => smovi_writes hc, fun f r hd => saddi_adds hc hd,
    fun f r hd hx => srd_lane_scalar hc hd hx, fun f hd hx => srd_lane_each hc hd hx, fun f r hd hx => srd_other_vector hc hd hx,
    fun f hd hx => srd_other_path hc hd hx⟩, fun s c f hc => ⟨fun t g h xs => setf_completes hc, fun n => setf_refuses hc⟩⟩
  rintro f a b d rfl
  exact ssel_selects hc

/-! ## Opcodes with a mask destination (R66, R254 to R257, R267) -/

section
variable {s : State} {c : Ctx} {f : VForm} (hc : s.runs c)
include hc

theorem maskSlot_kd_zero (hk : xKD f.x = 0) (srcs : List Use) (body : Ctx → W64 → List Src → W64) :
    runSlot s (fun c => c.maskSlot f srcs body) = .next (slotEnd (c.trap (illegalOperand 3 6 0))) := by
  rw [runSlot_runs hc, Ctx.maskSlot, kdFault, if_pos hk]

/-- k0 is no destination (R66): the opcodes with a mask destination fault on KD 0. -/
theorem maskOpcodes_kd_zero (hk : xKD f.x = 0) :
    ∀ i ∈ [Instr.vcmp f, .kand f, .kor f, .kxor f, .knot f, .kmovKk f, .kmovSk f, .vvote f],
      exec i s = .next (slotEnd (c.trap (illegalOperand 3 6 0))) := by
  simp only [List.forall_mem_cons, List.not_mem_nil, false_imp_iff, implies_true, and_true]
  have h := maskSlot_kd_zero hc hk
  exact ⟨h _ _, h _ _, h _ _, h _ _, h _ _, h _ _, h _ _, h _ _⟩

theorem maskSlot_completes (hk : xKD f.x ≠ 0) {t : State} {g h : Group} {xs : List Src} {srcs : List Use}
    (b : c.Begins {} (c.enabled f.pg f.pn) f.nw [] srcs t g h xs) (body : Ctx → W64 → List Src → W64) :
    runSlot s (fun c => c.maskSlot f srcs body) =
      (c.put t g).maskDone (c.enabled f.pg f.pn) (xKD f.x) f.nw h (body (c.put t g) (c.enabled f.pg f.pn) xs) :=
  (runSlot_runs hc _).trans (Ctx.maskSlot_begins body hk b)

theorem vvote_votes (hk : xKD f.x ≠ 0) {t : State} {g h : Group} {xs : List Src}
    (b : c.Begins {} (c.enabled f.pg f.pn) f.nw [] [] t g h xs) :
    let e := c.enabled f.pg f.pn
    let p := g.kreg (c.put t g).p.mask (xKA f.x) &&& e
    exec (.vvote f) s = (c.put t g).maskDone e (xKD f.x) f.nw h
      (if (f.var = 0 ∧ p ≠ 0) ∨ (f.var = 1 ∧ p = e) ∨ (f.var ≠ 0 ∧ f.var ≠ 1 ∧ (p = 0 ∨ p = e)) then BitVec.allOnes 64 else 0) := by
  intro e p
  refine (maskSlot_completes hc hk b _).trans (congrArg _ (ite_congr (propext ?_) (fun _ => rfl) fun _ => rfl))
  show (if f.var = 0 then decide (p ≠ 0) else if f.var = 1 then decide (p = e) else decide (p = 0) || decide (p = e)) = true ↔ _
  by_cases h0 : f.var = 0
  · simp [h0]
  · by_cases h1 : f.var = 1
    · simp [h1]
    · simp only [h0, h1, if_false, Bool.or_eq_true, decide_eq_true_eq, ne_eq, not_false_eq_true, false_and, true_and, false_or]

end

/-- Settles O11: KD 0 by `maskOpcodes_kd_zero`, the others by the mask slot that each runs. -/
theorem maskOpcodesComplete : Obligations.MaskOpcodesComplete := by
  unfold Obligations.MaskOpcodesComplete
  intro s c f t g h xs hc e d k p
  refine ⟨fun i hi hk => maskOpcodes_kd_zero hc hk i hi, fun hk b => ⟨?_, ?_, ?_, ?_, ?_, vvote_votes hc hk b⟩, fun hk b => ?_, ?_, ?_⟩
  · exact maskSlot_completes hc hk b _
  · exact maskSlot_completes hc hk b _
  · exact maskSlot_completes hc hk b _
  · exact maskSlot_completes hc hk b _
  · exact maskSlot_completes hc hk b _
  · exact maskSlot_completes hc hk b _
  · rintro a y rfl hk b
    exact maskSlot_completes hc hk b _
  · exact fun b => (runSlot_runs hc _).trans (Ctx.enter_completes b rfl)

end Sys2Proof.Machine
end

section
/-!
SUPPORT. The checks of one access through a capability (R63, R64, R134, R277).
-/
namespace Sys2Proof.Machine
open Sys2Proof

/-- Looking up an object changes no memory: it fills the core's object cache at most (R134). -/
theorem object_mem (s : State) (core : Option Nat) (vf obj : Nat) : (s.object core vf obj).1.mem = s.mem := by
  unfold State.object
  split
  · rfl
  · split
    · rfl
    · dsimp only
      split <;> rfl

/-- B of R64 is the page number of OFFSET: its upper 36 bits. -/
theorem Cap.page_eq (k : Cap) : k.page = (k.bits.extractLsb' 68 36).toNat := by
  simp only [Cap.page, Cap.offset, BitVec.extractLsb'_toNat, Nat.shiftRight_eq_div_pow]
  omega

/-- The window of R64 in the fields of the capability. -/
theorem Cap.holds_iff (k : Cap) (a n : Nat) :
    k.holds a n = true ↔ (k.page - k.lower) * 4096 ≤ a ∧ a + n ≤ (k.page + k.upper + 1) * 4096 := by
  simp only [Cap.holds, Bool.and_eq_true, decide_eq_true_eq]

theorem objectHolds_iff (e : W128) (need a n : Nat) :
    objectHolds e need a n = true ↔ objLive e = true ∧ objBase e % 4096 = 0 ∧ objBase e + objPages e * 4096 ≤ 2 ^ 48 ∧
      a + n ≤ objPages e * 4096 ∧ (objRights e &&& need) = need := by
  simp only [objectHolds, hasRights, Bool.and_eq_true, decide_eq_true_eq, and_assoc]

section
variable {s : State} {core : Option Nat} {vf need a n align : Nat} {k : Cap}

theorem capCheck_untagged (ht : k.tag = false) : s.capCheck core vf k need a n align = (s, .error 4) := by
  simp only [State.capCheck, ht, Bool.not_false, if_true]

theorem capCheck_sealed (ht : k.tag = true) (hs : k.sealedBit = true) : s.capCheck core vf k need a n align = (s, .error 3) := by
  simp only [State.capCheck, ht, hs, Bool.not_true, Bool.false_eq_true, if_false, if_true]

theorem capCheck_right (ht : k.tag = true) (hs : k.sealedBit = false) (hr : ¬ (k.rights &&& need) = need) :
    s.capCheck core vf k need a n align = (s, .error 2) := by
  have hright : hasRights k.rights need = false := decide_eq_false hr
  simp only [State.capCheck, ht, hs, hright, Bool.not_true, Bool.not_false, Bool.false_eq_true, if_false, if_true]

theorem capCheck_bounds (ht : k.tag = true) (hs : k.sealedBit = false) (hr : (k.rights &&& need) = need) (hb : ¬ k.holds a n = true) :
    s.capCheck core vf k need a n align = (s, .error 1) := by
  have hright : hasRights k.rights need = true := decide_eq_true hr
  simp only [State.capCheck, ht, hs, hright, hb, Bool.not_true, Bool.not_false, Bool.false_eq_true, if_false, if_true]

section
variable {t : State} (hp : k.isPrivate = false) (ht : k.tag = true) (hs : k.sealedBit = false) (hr : (k.rights &&& need) = need)
  (hb : k.holds a n = true)
include hp ht hs hr hb

theorem capCheck_no_object (ho : s.object core vf k.obj = (t, none)) : s.capCheck core vf k need a n align = (t, .error 5) := by
  have hright : hasRights k.rights need = true := decide_eq_true hr
  simp only [State.capCheck, ht, hs, hright, hb, hp, ho, Bool.not_true, Bool.false_eq_true, if_false]

/-- Past the checks of the capability itself its object decides, and then the alignment. -/
theorem capCheck_object {e : W128} (ho : s.object core vf k.obj = (t, some e)) :
    s.capCheck core vf k need a n align =
      if objectHolds e need a n = true then (if a % align = 0 then (t, .ok (objBase e + a)) else (t, .error 6)) else (t, .error 5) := by
  have hright : hasRights k.rights need = true := decide_eq_true hr
  simp only [State.capCheck, ht, hs, hright, hb, hp, ho, Bool.not_true, Bool.false_eq_true, if_false, Bool.not_eq_true', ne_eq, ite_not]
  cases objectHolds e need a n <;> rfl

end

theorem capCheck_mem (s : State) (core : Option Nat) (vf : Nat) (k : Cap) (need a n align : Nat) :
    (s.capCheck core vf k need a n align).1.mem = s.mem := by
  have hobj := object_mem s core vf k.obj
  unfold State.capCheck
  iterate 5 (split; · rfl)
  split
  · rename_i ho
    rwa [ho] at hobj
  · rename_i ho
    rw [ho] at hobj
    split
    · exact hobj
    · split <;> exact hobj

end

/-- Settles O25: each check of the list decides where those before it pass. -/
theorem capabilityChecksInOrder : Obligations.CapabilityChecksInOrder := by
  unfold Obligations.CapabilityChecksInOrder
  intro s core vf k need a n align hp r w b lo hi inside right pass
  have hin : inside ↔ k.holds a n = true := by
    rw [Cap.holds_iff, Cap.page_eq]
    exact Iff.rfl
  refine ⟨capCheck_mem s core vf k need a n align, fun ht => ?_, fun ht hs => ?_, fun ht hs hr => ?_, fun ht hs hr hb => ?_, ?_, ?_⟩
  · exact congrArg Prod.snd (capCheck_untagged ht)
  · exact congrArg Prod.snd (capCheck_sealed ht hs)
  · exact congrArg Prod.snd (capCheck_right ht hs hr)
  · exact congrArg Prod.snd (capCheck_bounds ht hs hr fun h => hb (hin.mpr h))
  · rintro ⟨ht, hs, hr, hb⟩ t ho
    exact congrArg Prod.snd (capCheck_no_object hp ht hs hr (hin.mp hb) ho)
  · rintro ⟨ht, hs, hr, hb⟩ t e ho
    have hc := congrArg Prod.snd (capCheck_object (align := align) hp ht hs hr (hin.mp hb) ho)
    intro base extent ok
    have hok : objectHolds e need a n = true ↔ ok := objectHolds_iff e need a n
    refine ⟨fun h => hc.trans ?_, fun h hal => hc.trans ?_, fun h hal => hc.trans ?_⟩
    · rw [if_neg fun x => h (hok.mp x)]
    · rw [if_pos (hok.mpr h), if_neg hal]
    · rw [if_pos (hok.mpr h), if_pos hal]
      rfl

end Sys2Proof.Machine
end

section
/-!
SUPPORT. How a group stops, and what debug sees of it: taking a fault (R84, R421, R422, R428), snapshots, latch and breakpoint writes
(R81 to R84, R429, R430, R449 to R452) and errors in the L2 (R105, R106).
-/
namespace Sys2Proof.Machine
open Sys2Proof

/-! ## Taking a fault (R421, R422, R428) -/

theorem takeFault_stopping {s : State} {g : Group} {f : FaultInfo} (clause : W32) (slot : Nat)
    (h : f.disposition = .stop ∨ f.disposition = .resumable) :
    s.takeFault g f clause slot =
      if (s.parcelOf g).due && !(s.parcelOf g).committed then (s.setGroup g).abortParcel g.parcel 4
      else if g.pending.isEmpty then (s.stopNow g f clause slot none).rest g
      else (s.setGroup ({ g with status := .stopping (f.at s.time) none }.fillDbg clause slot)).rest g := by
  rcases h with h | h <;> rw [State.takeFault, h]

theorem takeFault_park {s : State} {g : Group} {f : FaultInfo} (clause : W32) (slot : Nat) (h : f.disposition = .park) :
    s.takeFault g f clause slot = s.parkGroup g f clause slot := by
  rw [State.takeFault, h]

theorem Group.fillDbg_running {g : Group} {r : ClauseRun} {p : Path} (hr : g.run = some r) (hp : g.path? r.path = some p) (clause : W32)
    (slot : Nat) :
    g.fillDbg clause slot = { g with dbg := { lat := r.latches, empty := ~~~r.valid, clause := clause, slot := slot, iter := p.iter } } := by
  rw [Group.fillDbg, hr]
  simp only [hp]

/-- The stop of a group whose results are all in, away from the debug port: its registers are filled and its record is posted. -/
theorem stopNow_posts {s : State} {g : Group} {f : FaultInfo} {r : ClauseRun} {p : Path} (hr : g.run = some r)
    (hp : g.path? r.path = some p) (hd : s.atDebugPort f = false) (clause : W32) (slot : Nat) :
    let post := s.post (s.groupRecord g f clause slot 0 (.group g.uid))
    s.stopNow g f clause slot none = post.1.setGroup { g with
      dbg := { lat := r.latches, empty := ~~~r.valid, clause := clause, slot := slot, iter := p.iter,
               bkpt := f.code = 0x000F && (f.detail.extractLsb' 128 56).toNat < 0x100 }
      status := .stopped (some post.2) } := by
  intro post
  rw [State.stopNow, Group.fillDbg_running hr hp]
  simp only [hd, Option.isSome_none, Bool.false_eq_true, if_false]
  rfl

/-- Settles O22: each case is one branch of `takeFault`. -/
theorem takingAFaultStopsTheGroup : Obligations.TakingAFaultStopsTheGroup := by
  unfold Obligations.TakingAFaultStopsTheGroup
  intro s g r p f clause slot hr hp hport rec'
  refine ⟨fun h hpend hdue => ?_, fun h hpend hdue => ?_, fun h hdue hc => ?_, fun h => ?_⟩
  · rw [takeFault_stopping clause slot h, hdue, hpend]
    refine ⟨_, congrArg (fun t => t.rest g) (stopNow_posts hr hp hport clause slot), ?_⟩
    exact ⟨rfl, rfl, rfl, rfl, rfl, rfl, rfl⟩
  · have hne : g.pending.isEmpty = false := List.isEmpty_eq_false_iff.mpr hpend
    rw [takeFault_stopping clause slot h, hdue, hne]
    have hfill := Group.fillDbg_running (g := { g with status := .stopping (f.at s.time) none }) hr hp clause slot
    rw [hfill]
    exact ⟨_, rfl, rfl, rfl⟩
  · rw [takeFault_stopping clause slot h, hdue, hc]
    rfl
  · rw [takeFault_park clause slot h]
    exact ⟨_, rfl, rfl, rfl⟩

/-! ## Snapshots (R81 to R83, R449 to R452) -/

/-- Every block number is below 4096, so that a block has a key of its own. -/
theorem lt_of_mem_allBlocks {b : Nat × Nat} (h : b ∈ allBlocks) : b.2 < 4096 := by
  simp only [allBlocks, computeBlocks, controlBlocks, List.mem_append, List.mem_flatten, List.mem_map,
    mem_span] at h
  rcases h with ⟨_, ⟨d, -, rfl⟩, h⟩ | ⟨n, hn, rfl⟩
  · simp only [List.mem_map, List.mem_append, List.mem_cons, List.not_mem_nil, or_false, mem_span] at h
    obtain ⟨n, hn, rfl⟩ := h
    dsimp only
    omega
  · dsimp only
    omega

theorem snapKey_inj {b b' : Nat × Nat} (h : b.2 < 4096) (h' : b'.2 < 4096) : snapKey b.1 b.2 = snapKey b'.1 b'.2 ↔ b = b' := by
  simp only [snapKey, Prod.ext_iff]
  omega

/-- SNAPSTAT of a trigger has VALID set. -/
theorem snapStat_valid (seq : W32) (src fclass : Nat) : (snapStat seq src fclass).getLsbD 0 = true := by
  simp only [snapStat, BitVec.getLsbD_ofNat, Nat.testBit_zero, decide_eq_true_eq, Bool.and_eq_true]
  omega

/-- What a block holds after a trigger: what it held where its VALID was set or its island is not Active, else its registers. -/
def latchedBy (s : State) (stat : W64) (b : Nat × Nat) (old : Snapshot) : Snapshot :=
  if old.stat.getLsbD 0 || s.island (islandOf b.1 b.2) ≠ .active then old else { stat := stat, regs := s.blockRegs b.1 b.2 }

theorem get_latchBlock (s : State) (stat : W64) (t : Tbl Snapshot) (b : Nat × Nat) (k : Nat) :
    Tbl.get Snapshot.clear (latchBlock s stat t b) k =
      if k = snapKey b.1 b.2 then latchedBy s stat b (Tbl.get Snapshot.clear t k) else Tbl.get Snapshot.clear t k := by
  unfold latchBlock latchedBy
  by_cases hk : k = snapKey b.1 b.2
  · subst hk
    rw [if_pos rfl]
    dsimp only
    split
    · rfl
    · exact Tbl.get_put_same _ _ _ _
  · rw [if_neg hk]
    dsimp only
    split
    · rfl
    · exact Tbl.get_put_other _ _ _ _ _ hk

/-- A block that has latched latches no more: its VALID is set. -/
theorem latchedBy_idem {s : State} {stat : W64} (hv : stat.getLsbD 0 = true) (b : Nat × Nat) (old : Snapshot) :
    latchedBy s stat b (latchedBy s stat b old) = latchedBy s stat b old := by
  by_cases h : (old.stat.getLsbD 0 || decide (s.island (islandOf b.1 b.2) ≠ .active)) = true
  · have hl : latchedBy s stat b old = old := if_pos h
    rw [hl, hl]
  · have hl : latchedBy s stat b old = { stat := stat, regs := s.blockRegs b.1 b.2 } := if_neg h
    rw [hl, latchedBy, hv, Bool.true_or, if_pos rfl]

/-- Latching the blocks of a list in turn latches each of them once. -/
theorem get_latchBlocks {s : State} {stat : W64} (hv : stat.getLsbD 0 = true) {b : Nat × Nat} (hb : b.2 < 4096) (l : List (Nat × Nat))
    (hl : ∀ x ∈ l, x.2 < 4096) (t : Tbl Snapshot) :
    Tbl.get Snapshot.clear (l.foldl (latchBlock s stat) t) (snapKey b.1 b.2) =
      if b ∈ l then latchedBy s stat b (Tbl.get Snapshot.clear t (snapKey b.1 b.2)) else Tbl.get Snapshot.clear t (snapKey b.1 b.2) := by
  induction l generalizing t with
  | nil => simp
  | cons x l ih =>
      have hx := snapKey_inj hb (hl x List.mem_cons_self)
      rw [List.foldl_cons, ih (fun y hy => hl y (List.mem_cons_of_mem _ hy)), get_latchBlock]
      by_cases hbx : b = x
      · subst hbx
        simp only [if_true, List.mem_cons_self, latchedBy_idem hv, ite_self]
      · simp only [hx, hbx, if_false, List.mem_cons, false_or]

/-- A trigger changes the control die only (R81, R452, R453). -/
theorem fireDatum_frame (s : State) (src fclass : Nat) :
    ∃ c, (s.fireDatum src fclass).1 = { s with control := c } ∧ c.datumSeq = s.control.datumSeq + 1 ∧
      c.datumOut = s.control.datumOut + 1 ∧
      c.snaps = allBlocks.foldl (latchBlock s (snapStat (s.control.datumSeq + 1) src fclass)) s.control.snaps := by
  unfold State.fireDatum State.book
  generalize allBlocks = l
  exact ⟨_, rfl, rfl, rfl, rfl⟩

theorem snapshotValue_debug_off {s : State} (h : s.control.debug = .off) (d b i : Nat) :
    (s.snapshotValue .debugPort d b i).1 = 0 ∧ ∀ n, (s.snapshotValue (.vf n) d b i).1 = 0 := by
  have hd : s.deniesReads = true := by rw [State.deniesReads, h]
  simp only [State.snapshotValue, hd, if_true, implies_true, and_self]

/-- A write of 1 clears VALID of a block whose island is not off, and nothing else. -/
theorem snapstatClear_clears {s : State} {d b : Nat} {v : W64} (hv : v.getLsbD 0 = true) (hi : s.island (islandOf d b) ≠ .off) :
    let x := Tbl.get Snapshot.clear s.control.snaps (snapKey d b)
    exec (.snapstatClear d b v) s = .next { s with
      control := { s.control with snaps := Tbl.put Snapshot.clear s.control.snaps (snapKey d b) { x with stat := x.stat &&& ~~~1 } } } := by
  have hgo : (v.getLsbD 0 && decide (s.island (islandOf d b) ≠ .off)) = true := by
    simp only [hv, hi, ne_eq, not_false_eq_true, decide_true, Bool.and_self]
  exact congrArg Host.Outcome.next (if_pos hgo)

@[simp] theorem State.book_replies (s : State) (k d : BitVec 8) (b : BitVec 16) (x : W128) : (s.book k d b x).replies = s.replies := by
  obtain ⟨c, h⟩ := s.book_frame k d b x
  rw [h]

@[simp] theorem State.book_groups (s : State) (k d : BitVec 8) (b : BitVec 16) (x : W128) : (s.book k d b x).groups = s.groups := by
  obtain ⟨c, h⟩ := s.book_frame k d b x
  rw [h]

/-- A read is answered with the value that the security matrix allows; a denied one is recorded. -/
theorem snapshotRead_answers {s : State} {d b : Nat} (r : SnapReader) (i : Nat) (h : blockExists d b = true) :
    ∃ t, exec (.snapshotRead r d b i) s = .next t ∧ t.replies = s.replies ++ [.word (s.snapshotValue r d b i).1] ∧ t.mem = s.mem ∧
      t.groups = s.groups := by
  have hexec : exec (.snapshotRead r d b i) s = execSnapshotRead r d b i s := rfl
  rw [hexec]
  simp only [execSnapshotRead, h, Bool.not_true, Bool.false_eq_true, if_false]
  split
  · exact ⟨_, rfl, by rw [State.book_replies], by rw [State.book_mem], by rw [State.book_groups]⟩
  · exact ⟨_, rfl, rfl, rfl, rfl⟩

/-! ## The debugger (R84, R429, R430, R449) -/

theorem breakpointWrite_sets {s : State} {w : DebugWriter} {core n : Nat} {v : W128} (hc : core < 192) (hn : n < 8)
    (hi : s.island (islandOf (core / 48) (core % 48)) ≠ .off)
    (hw : match w with
      | .debugPort => s.control.debug = .invasive
      | .vf k => s.debugOn k = true ∧ (v.extractLsb' 58 6).toNat = k) :
    exec (.breakpointWrite w core n v) s =
      .next (s.setCore core { s.core core with bps := Tbl.put 0 (s.core core).bps n (bpFields v) }) := by
  have hexec : exec (.breakpointWrite w core n v) s = execBreakpointWrite w core n v s := rfl
  rw [hexec]
  cases w with
  | debugPort =>
      have hport : s.debugPort = true := decide_eq_true hw
      simp [execBreakpointWrite, hport, Nat.not_le.mpr hc, Nat.not_le.mpr hn, hi]
  | vf k =>
      obtain ⟨hon, hvf⟩ := hw
      simp [execBreakpointWrite, hon, hvf, Nat.not_le.mpr hc, Nat.not_le.mpr hn, hi]

section
variable {s : State} {g : Group} {q : Option Nat} (hg : s.group? g.uid = some g) (hs : g.status = .stopped q)
include hg hs

theorem debuggerLatchWrite_writes {latch lane : Nat} (v : W64) (hd : s.debugPort = true ∨ s.debugOn (s.launchOf g).vf = true)
    (hlatch : latch < 4) (hlane : lane < g.width) :
    exec (.debuggerLatchWrite g.uid latch lane v) s = .next (s.setGroup { g with dbg := { g.dbg with
      lat := Tbl.put [] g.dbg.lat latch (Tbl.put 0 (Tbl.get [] g.dbg.lat latch) lane v),
      empty := g.dbg.empty &&& ~~~(BitVec.ofNat 4 (2 ^ latch)) } }) := by
  have hdebugs : s.debugs g = true := by simpa only [State.debugs, Bool.or_eq_true] using hd
  show execDebuggerLatchWrite g.uid latch lane v s = _
  simp only [execDebuggerLatchWrite, hg, hs, hdebugs, Nat.not_le.mpr hlatch, Nat.not_le.mpr hlane, Bool.not_true, decide_false, Bool.or_self,
    Bool.false_eq_true, if_false]

theorem debugPortResume_resumes (hd : s.control.debug = .invasive) (hq : q = none) :
    exec (.debugPortResume g.uid) s = .next (s.resumeBreak g) := by
  have hport : s.debugPort = true := decide_eq_true hd
  show execDebugPortResume g.uid s = _
  simp only [execDebugPortResume, hg, hs, hq, hport, decide_true, Bool.and_self, if_true]

end

/-! ## Errors in the L2 (R105, R106) -/

@[simp] theorem State.book_die (s : State) (k d : BitVec 8) (b : BitVec 16) (x : W128) (n : Nat) : (s.book k d b x).die n = s.die n := by
  obtain ⟨c, h⟩ := s.book_frame k d b x
  rw [h]
  rfl

/-- An error in a line of the L2: a clean line is refetched, an error that cannot be corrected poisons its sector. -/
theorem l2Error_effect {s : State} {n : Nat} (one : Bool) {x : L2Line}
    (hx : ((s.die (homeDie (n * 64))).l2.find? fun x => x.line = n / 4) = some x) :
    (s.l2Error n one).mem = s.mem ∧
      (x.dirty = false → (s.l2Error n one).poison = s.poison ∧ ∀ y ∈ ((s.l2Error n one).die (homeDie (n * 64))).l2, y.line ≠ n / 4) ∧
      (x.dirty = true → one = true → (s.l2Error n one).poison = s.poison) ∧
      (x.dirty = true → one = false → n ∈ (s.l2Error n one).poison) := by
  cases hdirty : x.dirty with
  | false =>
      have he : s.l2Error n one = (s.setDie (homeDie (n * 64)) { s.die (homeDie (n * 64)) with
          l2 := (s.die (homeDie (n * 64))).l2.filter fun y => y.line ≠ n / 4 }).bookError (homeDie (n * 64)) (0x100 + homeSlice (n * 64)) 2
            (n * 64) 0 := by
        simp only [State.l2Error, hx, hdirty, Bool.not_false, if_true]
      rw [he]
      refine ⟨rfl, fun _ => ⟨rfl, fun y hy => ?_⟩, nofun, nofun⟩
      rw [State.bookError, State.book_die, State.die_setDie] at hy
      simpa using (List.mem_filter.mp hy).2
  | true =>
      cases one with
      | true =>
          have he : s.l2Error n true = (s.countSlice (n * 64) false).bookError (homeDie (n * 64)) (0x100 + homeSlice (n * 64)) 2 (n * 64) 1 := by
            simp only [State.l2Error, hx, hdirty, Bool.not_true, Bool.false_eq_true, if_false, if_true]
          rw [he]
          exact ⟨rfl, nofun, fun _ _ => rfl, nofun⟩
      | false =>
          have he : s.l2Error n false =
              ((s.poisonSector n).countSlice (n * 64) true).bookError (homeDie (n * 64)) (0x100 + homeSlice (n * 64)) 2 (n * 64) 2 := by
            simp only [State.l2Error, hx, hdirty, Bool.not_true, Bool.false_eq_true, if_false]
          rw [he]
          refine ⟨rfl, nofun, nofun, fun _ _ => ?_⟩
          show n ∈ if s.poison.contains n then s.poison else s.poison ++ [n]
          split
          · simpa using ‹s.poison.contains n = true›
          · simp

/-- Settles O55: each event by its own rule above. -/
theorem debugEventsComplete : Obligations.DebugEventsComplete := by
  unfold Obligations.DebugEventsComplete
  intro s
  refine ⟨rfl, fun h => congrArg Host.Outcome.next (if_pos (decide_eq_true h)), fun src fclass => ?_, fun d b v hv hi => ?_,
    fun r d b i h => snapshotRead_answers r i h, fun d b i h => snapshotValue_debug_off h d b i,
    fun w core n v hc hn hi hw => breakpointWrite_sets hc hn hi hw,
    fun g q hg hs => ⟨fun latch lane v => debuggerLatchWrite_writes hg hs v, debugPortResume_resumes hg hs⟩,
    fun n one x hx => ⟨_, rfl, l2Error_effect one hx⟩⟩
  · obtain ⟨c, ht, hseq, hout, hsnaps⟩ := fireDatum_frame s src fclass
    rw [ht]
    refine ⟨rfl, rfl, hseq, hout, fun b hb => ?_⟩
    intro old new
    have hnew : new = latchedBy s (snapStat (s.control.datumSeq + 1) src fclass) b old := by
      show Tbl.get Snapshot.clear c.snaps (snapKey b.1 b.2) = _
      rw [hsnaps, get_latchBlocks (snapStat_valid _ _ _) (lt_of_mem_allBlocks hb) allBlocks (fun _ => lt_of_mem_allBlocks), if_pos hb]
    refine ⟨fun h => hnew.trans (if_pos ?_), fun hv hi => hnew.trans (if_neg ?_)⟩
    · simpa using h
    · rw [hv, hi]
      decide
  · rw [snapstatClear_clears hv hi]
    refine ⟨_, rfl, ?_, ?_, rfl⟩
    · rw [Tbl.get_put_same]
      simp
    · rw [Tbl.get_put_same]

end Sys2Proof.Machine
end

section
/-!
SUPPORT. Capability registers and tiles: what CNARROW makes (R65, R289), the save area (R290), and TALLOC, TFREE, TLD and TST (R87, R88,
R131, R285 to R287).
-/
namespace Sys2Proof.Machine
open Sys2Proof

/-! ## The fields of a capability (R63) -/

section
variable (obj offset lower upper rights : Nat) (b : Bool)

/-- The number of a capability: its fields stand beside one another. -/
theorem Cap.make_toNat :
    (Cap.make obj offset lower upper rights b).bits.toNat = obj % 2 ^ 24 * 2 ^ 104 + offset % 2 ^ 48 * 2 ^ 56 + lower % 2 ^ 20 * 2 ^ 36 +
      upper % 2 ^ 20 * 2 ^ 16 + rights % 256 * 256 + if b then 128 else 0 := by
  have hb : (if b then 128 else 0) ≤ 128 := by cases b <;> decide
  simp only [Cap.make, BitVec.toNat_ofNat]
  omega

@[simp] theorem Cap.make_tag : (Cap.make obj offset lower upper rights b).tag = true := rfl

@[simp] theorem Cap.make_obj : (Cap.make obj offset lower upper rights b).obj = obj % 2 ^ 24 := by
  have hb : (if b then 128 else 0) ≤ 128 := by cases b <;> decide
  rw [Cap.obj, BitVec.extractLsb'_toNat, Nat.shiftRight_eq_div_pow, Cap.make_toNat]
  omega

@[simp] theorem Cap.make_offset : (Cap.make obj offset lower upper rights b).offset = offset % 2 ^ 48 := by
  have hb : (if b then 128 else 0) ≤ 128 := by cases b <;> decide
  rw [Cap.offset, BitVec.extractLsb'_toNat, Nat.shiftRight_eq_div_pow, Cap.make_toNat]
  omega

@[simp] theorem Cap.make_lower : (Cap.make obj offset lower upper rights b).lower = lower % 2 ^ 20 := by
  have hb : (if b then 128 else 0) ≤ 128 := by cases b <;> decide
  rw [Cap.lower, BitVec.extractLsb'_toNat, Nat.shiftRight_eq_div_pow, Cap.make_toNat]
  omega

@[simp] theorem Cap.make_upper : (Cap.make obj offset lower upper rights b).upper = upper % 2 ^ 20 := by
  have hb : (if b then 128 else 0) ≤ 128 := by cases b <;> decide
  rw [Cap.upper, BitVec.extractLsb'_toNat, Nat.shiftRight_eq_div_pow, Cap.make_toNat]
  omega

@[simp] theorem Cap.make_rights : (Cap.make obj offset lower upper rights b).rights = rights % 256 := by
  have hb : (if b then 128 else 0) ≤ 128 := by cases b <;> decide
  rw [Cap.rights, BitVec.extractLsb'_toNat, Nat.shiftRight_eq_div_pow, Cap.make_toNat]
  omega

@[simp] theorem Cap.make_sealedBit : (Cap.make obj offset lower upper rights b).sealedBit = b := by
  have hb : (if b then 128 else 0) = 128 * b.toNat := by cases b <;> rfl
  rw [Cap.sealedBit, BitVec.getLsbD, Cap.make_toNat, hb, Nat.testBit_eq_decide_div_mod_eq]
  cases b <;> simp only [Bool.toNat_true, Bool.toNat_false, decide_eq_true_eq, decide_eq_false_iff_not] <;> omega

end

theorem Cap.obj_lt (k : Cap) : k.obj < 2 ^ 24 := BitVec.isLt _
theorem Cap.offset_lt (k : Cap) : k.offset < 2 ^ 48 := BitVec.isLt _
theorem Cap.lower_lt (k : Cap) : k.lower < 2 ^ 20 := BitVec.isLt _
theorem Cap.upper_lt (k : Cap) : k.upper < 2 ^ 20 := BitVec.isLt _
theorem Cap.rights_lt (k : Cap) : k.rights < 256 := BitVec.isLt _

/-! ## CNARROW (R65, R289) -/

/-- What the window form of CNARROW makes: the smaller bounds and the common rights. -/
theorem narrow_window (k : Cap) (x : W64) :
    ∃ k', narrow k false x = .ok k' ∧ k'.tag = true ∧ k'.sealedBit = false ∧ k'.obj = k.obj ∧ k'.offset = k.offset ∧
      k'.lower = min k.lower (x.extractLsb' 44 20).toNat ∧ k'.upper = min k.upper (x.extractLsb' 24 20).toNat ∧
      k'.rights = k.rights &&& (x.extractLsb' 8 8).toNat := by
  have hobj := k.obj_lt
  have hoff := k.offset_lt
  have hlo := k.lower_lt
  have hup := k.upper_lt
  have hr : k.rights &&& (x.extractLsb' 8 8).toNat < 256 := Nat.lt_of_le_of_lt Nat.and_le_left k.rights_lt
  refine ⟨_, rfl, rfl, by simp, ?_, ?_, ?_, ?_, ?_⟩
  · rw [Cap.make_obj, Nat.mod_eq_of_lt hobj]
  · rw [Cap.make_offset, Nat.mod_eq_of_lt hoff]
  · rw [Cap.make_lower, Nat.mod_eq_of_lt (by omega)]
  · rw [Cap.make_upper, Nat.mod_eq_of_lt (by omega)]
  · rw [Cap.make_rights, Nat.mod_eq_of_lt hr]

/-- What the offset form of CNARROW makes: the offset stands inside the window, and the bounds meet the window's from there. -/
theorem narrow_offset {k k' : Cap} {x : W64} (h : narrow k true x = .ok k') :
    k'.tag = true ∧ k'.sealedBit = false ∧ k'.obj = k.obj ∧ k'.rights = k.rights ∧ k.page - k.lower ≤ k'.page - k'.lower ∧
      k'.page + k'.upper ≤ k.page + k.upper := by
  have hobj := k.obj_lt
  have hrights := k.rights_lt
  simp only [narrow, Bool.not_true, Bool.false_eq_true, if_false] at h
  generalize ho : (((k.offset : Int) + x.toInt).emod (2 ^ 48)).toNat = o at h
  have hlt : o < 2 ^ 48 := by
    have hnonneg : 0 ≤ ((k.offset : Int) + x.toInt).emod (2 ^ 48) := Int.emod_nonneg _ (by decide)
    have hbound : ((k.offset : Int) + x.toInt).emod (2 ^ 48) < 2 ^ 48 := Int.emod_lt_of_pos _ (by decide)
    omega
  split at h
  · cases h
  · rename_i hin
    simp only [Bool.or_eq_true, decide_eq_true_eq, not_or] at hin
    cases h
    simp only [Cap.page, Cap.make_tag, Cap.make_sealedBit, Cap.make_obj, Cap.make_rights, Cap.make_offset, Cap.make_lower, Cap.make_upper] at hin ⊢
    refine ⟨trivial, trivial, Nat.mod_eq_of_lt hobj, Nat.mod_eq_of_lt hrights, ?_, ?_⟩ <;> omega

/-- A capability whose window lies in another's reaches no byte that the other does not. -/
theorem Cap.holds_of_window {k k' : Cap} (hlo : k.page - k.lower ≤ k'.page - k'.lower) (hup : k'.page + k'.upper ≤ k.page + k.upper)
    (a n : Nat) (h : k'.holds a n = true) : k.holds a n = true := by
  rw [Cap.holds_iff] at h ⊢
  exact ⟨(Nat.mul_le_mul_right _ hlo).trans h.1, h.2.trans (Nat.mul_le_mul_right _ (Nat.succ_le_succ hup))⟩

/-- What CNARROW makes reaches no byte and carries no right that its source does not (R65). -/
theorem narrow_no_more {k k' : Cap} {ofs : Bool} {x : W64} (h : narrow k ofs x = .ok k') :
    k'.tag = true ∧ k'.sealedBit = false ∧ k'.obj = k.obj ∧ (k'.rights &&& k.rights) = k'.rights ∧
      ∀ a n, k'.holds a n = true → k.holds a n = true := by
  cases ofs with
  | true =>
      obtain ⟨htag, hseal, hobj, hrights, hlo, hup⟩ := narrow_offset h
      exact ⟨htag, hseal, hobj, by rw [hrights, Nat.and_self], Cap.holds_of_window hlo hup⟩
  | false =>
      obtain ⟨k'', hk, htag, hseal, hobj, hoff, hlower, hupper, hrights⟩ := narrow_window k x
      obtain rfl : k'' = k' := Except.ok.inj (hk.symm.trans h)
      have hpage : k''.page = k.page := by rw [Cap.page, hoff, Cap.page]
      refine ⟨htag, hseal, hobj, ?_, Cap.holds_of_window ?_ ?_⟩
      · rw [hrights, Nat.and_right_comm, Nat.and_self]
      · rw [hpage, hlower]
        omega
      · rw [hpage, hupper]
        omega

section
variable {s : State} {c : Ctx} {f : MForm} {t : State} {g h : Group} {xs : List Src} (hc : s.runs c)
  (b : c.Begins { always := false } (c.enabled f.pg f.pn) true [] (idxUse f .sl) t g h xs false)
include hc b

/-- CNARROW writes the capability that `narrow` makes. -/
theorem cnarrow_writes {k' : Cap} (hi : f.idx.isSome = true) (ht : (g.cap f.cap.toNat).tag = true)
    (hs : (g.cap f.cap.toNat).sealedBit = false) (hr : hasRights (g.cap f.cap.toNat).rights rDerive = true)
    (hd : f.data.code.toNat % 16 ≠ 15)
    (hx : f.ty = .n8 → (idxSrc f xs ((lowest (c.enabled f.pg f.pn)).getD 0)).extractLsb' 16 8 = 0 ∧
      (idxSrc f xs ((lowest (c.enabled f.pg f.pn)).getD 0)).extractLsb' 0 8 = 0)
    (hk : narrow (g.cap f.cap.toNat) (f.ty ≠ .n8) (idxSrc f xs ((lowest (c.enabled f.pg f.pn)).getD 0)) = .ok k') :
    exec (.cnarrow f) s = doneWith t (h.setCap (f.data.code.toNat % 16) k') none none := by
  have hidx : f.idx.isNone = false := by rw [← Option.not_isSome, hi]; rfl
  refine (runSlot_runs hc _).trans (Ctx.enter_completes b ?_)
  have hg : (c.put t g).g = g := rfl
  have hbits : (!decide (f.ty ≠ .n8) && (decide ((idxSrc f xs ((lowest (c.enabled f.pg f.pn)).getD 0)).extractLsb' 16 8 ≠ 0) ||
      decide ((idxSrc f xs ((lowest (c.enabled f.pg f.pn)).getD 0)).extractLsb' 0 8 ≠ 0))) = false := by
    by_cases hty : f.ty = .n8
    · simp [hty, hx hty]
    · simp [hty]
  simp only [hg, hidx, ht, hs, hr, hd, hbits, hk, Bool.not_true, Bool.false_eq_true, if_false]
  rfl

/-- CSAVE puts a capability and its tag into the slot (R290). -/
theorem csave_saves {a : Nat} (ha : saveSlot (g.cap f.cap.toNat) (idxSrc f xs ((lowest (c.enabled f.pg f.pn)).getD 0)) f.ofs.toInt = .ok a) :
    exec (.csave f) s = doneWith (t.touchPrivate g.core g.uid a true) (h.saveCap a (g.cap (f.data.code.toNat % 16))) none none := by
  refine (runSlot_runs hc _).trans ?_
  unfold Ctx.saveAccess
  refine Ctx.enter_completes b ?_
  have hg : (c.put t g).g = g := rfl
  simp only [hg, ha]
  rfl

/-- CLOAD takes a capability and its tag from the slot (R290). -/
theorem cload_loads {a : Nat} (ha : saveSlot (g.cap f.cap.toNat) (idxSrc f xs ((lowest (c.enabled f.pg f.pn)).getD 0)) f.ofs.toInt = .ok a)
    (hp : g.ownPoison.contains (a / 64) = false) :
    exec (.cload f) s = doneWith (t.touchPrivate g.core g.uid a false) (h.setCap (f.data.code.toNat % 16)
      { bits := BitVec.ofNat 128 (natOfBytes (Memory.readN g.own a 16)), tag := Tbl.get false g.ownTags a }) none none := by
  refine (runSlot_runs hc _).trans ?_
  unfold Ctx.saveAccess
  refine Ctx.enter_completes b ?_
  have hg : (c.put t g).g = g := rfl
  simp only [hg, ha, hp, Bool.false_eq_true, if_false]
  rfl

end

/-! ## Tiles (R87, R88, R131, R285 to R287) -/

/-- Memory that lists nothing reads as 0. -/
theorem natOfBytes_readN_nil (a n : Nat) : natOfBytes (Memory.readN [] a n) = 0 := by
  induction n generalizing a with
  | zero => rfl
  | succ n ih =>
      rw [Memory.readN, natOfBytes, ih]
      rfl

/-- Every element of a tile without data is 0. -/
theorem Tile.get_of_data_nil {z : Tile} (h : z.data = []) (i j : Nat) : z.get i j = 0 := by
  simp only [Tile.get, h, natOfBytes_readN_nil, field, Nat.zero_shiftRight, Nat.zero_mod]

/-- A tile without poisoned sectors gives every run. -/
theorem Tile.runBad_of_sound {z : Tile} (h : z.poison = []) (i j : Nat) : z.runBad i j = false := by
  simp [Tile.runBad, Tile.bad, h]

/-- A handle that is free is claimed back from no one (R131). -/
theorem Ctx.reclaim_free (c : Ctx) {n : Nat} (h : c.parcel.tile? n = none) : c.reclaim n = c := by
  rw [Ctx.reclaim, h]

/-- How TALLOC begins: the handle must be free and the shape one of R88. -/
def tallocStart (c : Ctx) (f : VForm) : Start :=
  { always := false, pre := if (c.parcel.tile? (tileH f)).isSome then some (handleFault 0 (tileH f)) else none,
    check := fun xs => shapeFault f.ty (f.x.extractLsb' 6 2).toNat (runAt xs ((lowest (c.enabled f.pg f.pn)).getD 0)).1
      (runAt xs ((lowest (c.enabled f.pg f.pn)).getD 0)).2 }

/-- The tile that TALLOC makes of `rows` and `cols`. -/
def newTile (c : Ctx) (f : VForm) (core rows cols rsv : Nat) (us : List Nat) : Tile :=
  { level := BitVec.ofNat 2 (f.x.extractLsb' 6 2).toNat, core := core, ty := f.ty, rows := rows, cols := cols, pitch := tilePitch f.ty cols,
    unitsRsv := rsv, unitsFree := shapeUnits f.ty rows cols - rsv, units := us, since := c.s.cycles, byGroup := c.g.index, data := [], poison := [] }

/-- What TFREE leaves of the parcel: the handle is free again. -/
theorem freeTile_frees (s : State) (p : Parcel) (n : Nat) (z : Tile) :
    ∃ q : Parcel, s.freeTile p n z = (s.setParcel q).returnUnits p.uid n z ∧ q.tile? n = none ∧ ∀ m, m ≠ n → q.tile? m = p.tile? m := by
  have hsame : Tbl.get none (p.setTile n none).tiles n = none := Tbl.get_put_same _ _ _ _
  have hother : ∀ m, m ≠ n → Tbl.get none (p.setTile n none).tiles m = Tbl.get none p.tiles m := fun m hm => Tbl.get_put_other _ _ _ _ _ hm
  unfold State.freeTile
  dsimp only
  split
  · exact ⟨_, rfl, hsame, hother⟩
  · unfold Parcel.setUnits
    split <;> exact ⟨_, rfl, hsame, hother⟩

section
variable {s : State} {c : Ctx} {f : VForm} {t : State} {g h : Group} {xs : List Src} (hc : s.runs c)
include hc

theorem tld_loads {o : Start} {z : Tile} {r : BitVec 8}
    (ho : o = { always := false, pre := tileFault c.parcel f, check := elemFault c.parcel f (lanes (c.enabled f.pg f.pn)) })
    (hd : f.dst = .v r) (b : c.Begins o (c.enabled f.pg f.pn) f.nw [dstOf f .vq] (usesOf f 2 .vsl) t g h xs)
    (hz : (c.put t g).parcel.tile? (tileH f) = some z) (hl : h.loads < Config.loadLimit) (hp : z.poison = []) :
    ∃ p : Pending, exec (.tld f) s = doneWith t.fresh.1 { h with pending := h.pending ++ [p] } (some []) none ∧ p.kind = .load ∧
      p.dst = (if f.nw then .nothing else .vregs r.toNat 1) ∧
      p.lanes = (lanes (c.enabled f.pg f.pn)).map fun l => (l, .value [z.run (runAt xs l).1 (runAt xs l).2]) := by
  subst ho
  let src : List (Nat × LaneSource) := (lanes (c.enabled f.pg f.pn)).map fun l => (l, .value [z.run (runAt xs l).1 (runAt xs l).2])
  refine ⟨((c.put t g).pend t .load .n64 (if f.nw then .nothing else .vregs r.toNat 1) src true false).2,
    (runSlot_runs hc _).trans (Ctx.enter_completes b ?_), rfl, rfl, rfl⟩
  simp only [hz, Nat.not_le.mpr hl, if_false, hd, Tile.runBad_of_sound hp, Bool.false_eq_true]
  rfl

theorem tst_stores {o : Start} {z : Tile} {row col x : Src}
    (b : c.Begins o (c.enabled f.pg f.pn) true [] (usesOf f 2 .vsl ++ [⟨9, f.sc, .vslq, 1⟩]) t g h [row, col, x] false)
    (ho : o = { always := false, pre := tileFault c.parcel f, check := elemFault c.parcel f (lanes (c.enabled f.pg f.pn)) })
    (hz : (c.put t g).parcel.tile? (tileH f) = some z) :
    exec (.tst f) s = doneWith (t.setTile g.parcel (tileH f)
      (z.putAll ((lanes (c.enabled f.pg f.pn)).flatMap fun l => z.runOf (row l).toNat (col l).toNat (x l)))) h none none := by
  subst ho
  refine (runSlot_runs hc _).trans (Ctx.enter_completes b ?_)
  simp only [hz]
  rfl

theorem talloc_places {row col : Src} {u : State} {rsv : Nat} {us : List Nat}
    (b : c.Begins (tallocStart c f) (c.enabled f.pg f.pn) true [] (usesOf f 2 .sl) t g h [row, col] false) :
    let l := (lowest (c.enabled f.pg f.pn)).getD 0
    let core := if (f.x.extractLsb' 6 2).toNat = 1 then g.core ^^^ 1 else g.core
    t.placeUnits (c.put t g).parcel (tileH f) (f.x.extractLsb' 6 2).toNat core (shapeUnits f.ty (row l).toNat (col l).toNat) = some (u, rsv, us) →
    exec (.talloc f) s =
      doneWith (u.setTile g.parcel (tileH f) (newTile (c.put t g) f core (row l).toNat (col l).toNat rsv us)) h none none := by
  intro l core hu
  have hfree : c.parcel.tile? (tileH f) = none := by
    have hown := b.own
    cases hz : c.parcel.tile? (tileH f) with
    | none => rfl
    | some z => simp [tallocStart, hz] at hown
  have hsame : (if c.enabled f.pg f.pn = 0 then c else c.reclaim (tileH f)) = c := by rw [c.reclaim_free hfree, ite_self]
  refine (runSlot_runs hc _).trans ?_
  simp only [hsame]
  refine Ctx.enter_completes b ?_
  have hu : (c.put t g).s.placeUnits (c.put t g).parcel (tileH f) (f.x.extractLsb' 6 2).toNat core
      (shapeUnits f.ty (row l).toNat (col l).toNat) = some (u, rsv, us) := hu
  simp only [runAt]
  rw [show (if (f.x.extractLsb' 6 2).toNat = 1 then (c.put t g).g.core ^^^ 1 else (c.put t g).g.core) = core from rfl, hu]
  rfl

theorem tfree_frees {z : Tile} (he : c.enabled f.pg f.pn ≠ 0) (hz : c.parcel.tile? (tileH f) = some z)
    (hb : s.handleBusy c.parcel (tileH f) = false) : exec (.tfree f) s = doneWith (s.freeTile c.parcel (tileH f) z) c.g none none := by
  have hs := State.running_state hc.1
  refine (runSlot_runs hc _).trans ?_
  simp only [he, hz, hs, hb, if_false, Bool.false_eq_true]
  rfl

end

/-- Settles O29: the capability opcodes, what CNARROW makes, and the tile opcodes, each by its own rule above. -/
theorem capabilitiesAndTiles : Obligations.CapabilitiesAndTiles := by
  unfold Obligations.CapabilitiesAndTiles
  refine ⟨⟨fun s c f t g h xs hc => ?_, fun k k' ofs x h _ => narrow_no_more h⟩, fun s c f t g h xs hc => ?_⟩
  · intro e k d l x b
    refine ⟨fun hi ht hs hr hd => ⟨fun hty hx1 hx2 => ?_, fun hty k' hk => ?_⟩,
      fun a ha => ⟨csave_saves hc b ha, fun hp => cload_loads hc b ha hp⟩⟩
    · obtain ⟨k', hk, -, -, hfields⟩ := narrow_window k x
      have hofs : decide (f.ty ≠ .n8) = false := by simp [hty]
      exact ⟨k', hk, cnarrow_writes hc b hi ht hs hr hd (fun _ => ⟨hx1, hx2⟩) (hofs ▸ hk), hfields⟩
    · have hofs : decide (f.ty ≠ .n8) = true := by simp [hty]
      exact cnarrow_writes hc b hi ht hs hr hd (fun h => absurd h hty) (hofs ▸ hk)
  · intro e hd d
    refine ⟨fun z hz hty => ?_, ?_, fun z he hz hb => ?_⟩
    · intro start
      refine ⟨fun r hdst b hz' hl hp => tld_loads hc rfl hdst b hz' hl hp, ?_⟩
      rintro row col x rfl b hz'
      exact tst_stores hc b rfl hz'
    · rintro row col rfl l level n core b u rsv us hu
      exact ⟨_, talloc_places hc b hu, rfl, rfl, rfl, rfl, rfl, rfl, rfl, Tile.get_of_data_nil rfl⟩
    · obtain ⟨q, hq, hfree, hother⟩ := freeTile_frees s c.parcel (tileH f) z
      exact ⟨q, (tfree_frees hc he hz hb).trans (congrArg (fun u => doneWith u c.g none none) hq), hfree, hother⟩

end Sys2Proof.Machine
end

section
/-!
SUPPORT. Waits on elements, phasers and semaphores (R78, R79, R149, R150, R159, R297 to R302): what WAITC, the phaser opcodes and the
semaphore opcodes do once they have begun, and whom a write, a phase or a target wakes.
-/
namespace Sys2Proof.Machine
open Sys2Proof

/-! ## Slots that block -/

/-- A slot whose operands are in order and whose own effect waits blocks its path. -/
theorem Ctx.enter_blocks {c : Ctx} {o : Start} {e : W64} {nw : Bool} {dsts srcs : List Use} {s : State} {g h : Group} {xs : List Src}
    {captures : Bool} (b : c.Begins o e nw dsts srcs s g h xs captures) {body : Ctx → Group → List Src → Slot} {t : State} {g' : Group}
    {w : Wait} (hb : body (c.put s g) h xs = .stop t g' (.block w)) :
    (.next (slotEnd (c.enter o e nw dsts srcs captures body)) : Host.Outcome State Fault Refusal) =
      .next (slotEnd (.stop t g' (.block w))) := by
  rw [Ctx.enter_begins b, hb]
  split <;> rfl

/-! ## Groups and parcels in a state -/

/-- The first entry that `q` picks, when the first that `p` picks is replaced by `x` and `p` picks nothing that `q` does not. -/
theorem find?_replaceFirst {α : Type} {p : α → Bool} {x y : α} {l : List α} (hx : p x = true) (hy : l.find? p = some y) :
    (replaceFirst p x l).find? p = some x := by
  induction l with
  | nil => cases hy
  | cons z l ih =>
      rw [replaceFirst]
      by_cases hz : p z = true
      · rw [if_pos hz, List.find?_cons_of_pos hx]
      · rw [List.find?_cons_of_neg hz] at hy
        rw [if_neg hz, List.find?_cons_of_neg hz, ih hy]

theorem State.uid_of_group? {s : State} {u : Nat} {g : Group} (h : s.group? u = some g) : g.uid = u := by
  simpa using List.find?_some h

theorem State.group?_setGroup {s : State} {u : Nat} {g g' : Group} (h : s.group? u = some g) (hu : g'.uid = g.uid) :
    (s.setGroup g').group? u = some g' := by
  obtain rfl : g'.uid = u := hu.trans (State.uid_of_group? h)
  exact find?_replaceFirst (decide_eq_true rfl) h

theorem State.parcel?_setParcel {s : State} {p q : Parcel} (h : s.parcel? q.uid = some p) : (s.setParcel q).parcel? q.uid = some q :=
  find?_replaceFirst (decide_eq_true rfl) h

theorem State.uid_of_parcel? {s : State} {u : Nat} {p : Parcel} (h : s.parcel? u = some p) : p.uid = u := by
  simpa using List.find?_some h

theorem State.group?_congr {s t : State} (h : t.groups = s.groups) (u : Nat) : t.group? u = s.group? u := by
  rw [State.group?, h, State.group?]

/-! ## Watches (R54, R297, R298) -/

/-- The accounting of the L2 leaves the watch tables of every slice alone. -/
theorem touchL2_slices (s : State) (c : Nat) (h : BitVec 2) (w : Bool) (n : Nat) : ((s.touchL2 c h w).die n).slices = (s.die n).slices := by
  unfold State.touchL2
  split
  · rfl
  · dsimp only
    split <;>
    · simp only [State.die, State.setDie, Tbl.get_put]
      split
      · subst_vars; rfl
      · rfl

/-- The watches registered at a slice of a die. -/
def State.watchesAt (s : State) (n m : Nat) : List Watch := ((s.die n).slice m).watches

theorem State.watchesAt_congr {s t : State} (h : ∀ n, (t.die n).slices = (s.die n).slices) (n m : Nat) :
    t.watchesAt n m = s.watchesAt n m := by
  rw [State.watchesAt, Die.slice, h, State.watchesAt, Die.slice]

theorem State.watchesAt_setSlice (s : State) (n m : Nat) (x : Slice) :
    (s.setDie n ((s.die n).setSlice m x)).watchesAt n m = x.watches := by
  rw [State.watchesAt, State.die_setDie, Die.slice, Die.setSlice, Tbl.get_put_same]

section
variable {s : State} {w : Watch}

theorem addWatch_registers (hl : (s.watchesAt (homeDie w.cell) (homeSlice w.cell)).length < 1024)
    (hq : ((s.die (homeDie w.cell)).slice (homeSlice w.cell)).queued = []) :
    ∃ t, s.addWatch w = (t, .watch) ∧ t.mem = s.mem ∧
      t.watchesAt (homeDie w.cell) (homeSlice w.cell) = s.watchesAt (homeDie w.cell) (homeSlice w.cell) ++ [w] := by
  have hroom : (decide ((s.watchesAt (homeDie w.cell) (homeSlice w.cell)).length < 1024) &&
      ((s.die (homeDie w.cell)).slice (homeSlice w.cell)).queued.isEmpty) = true := by
    rw [hq, decide_eq_true hl]; rfl
  refine ⟨_, if_pos hroom, rfl, State.watchesAt_setSlice _ _ _ _⟩

end

section
variable {s : State} {c : Ctx} {f : MForm} {t u v : State} {g h : Group} {xs : List Src} {x : LaneAcc} (hc : s.runs c)
  (b : c.Begins { always := false, fence := fenceOf f } (c.enabled f.pg f.pn) true [] (dataUse f .slq :: idxUse f .sl) t g h xs false)
include hc b

theorem waitc_woken (hw : c.r.woken = true) :
    exec (.waitc f) s = doneWith (if isAcquire f.ord then t.acquire h f.scope.toNat else t) h none none := by
  refine (runSlot_runs hc _).trans (Ctx.enter_completes b ?_)
  simp only [show (c.put t g).r = c.r from rfl, hw, if_true]
  rfl

/-- The watch that WAITC sets on an element for the lowest executing lane. -/
def waitWatch (c : Ctx) (f : MForm) (t : State) (g : Group) (xs : List Src) (x : LaneAcc) : Watch :=
  { group := g.uid, path := c.k, lane := (lowest (c.enabled f.pg f.pn)).getD 0, vf := (c.put t g).vf, va := x.va, cell := x.cell, ty := f.ty,
    cond := ofsTop f, a := (xs.headD fun _ => 0) ((lowest (c.enabled f.pg f.pn)).getD 0) }

variable (hw : c.r.woken = false) (hr : (c.put t g).resolve .read f.cap.toNat (g.cap f.cap.toNat) rRead (f.ty.width / 8) (f.ty.width / 8)
    [((lowest (c.enabled f.pg f.pn)).getD 0, elemAddr (g.cap f.cap.toNat) (idxSrc f xs.tail ((lowest (c.enabled f.pg f.pn)).getD 0)) (ofs12 f)
      (f.ty.width / 8))] = (u, .ok [x]))
  (hd : u.deadHome x.cell = false) (hn : u.readNow g false clsControl (f.ty.width / 8) [x] = .ok v)
  (hp : v.poisoned x.cell (f.ty.width / 8) = false)
include hw hr hd hn hp

theorem waitc_holds (hh : watchHolds v.mem (waitWatch c f t g xs x) = true) :
    exec (.waitc f) s = doneWith (if isAcquire f.ord then (v.updateL1 h.core x.cell (Memory.readN v.mem x.cell (f.ty.width / 8))).acquire h
      f.scope.toNat else v.updateL1 h.core x.cell (Memory.readN v.mem x.cell (f.ty.width / 8))) h none none := by
  refine (runSlot_runs hc _).trans (Ctx.enter_completes b ?_)
  simp only [show (c.put t g).r = c.r from rfl, show (c.put t g).g = g from rfl, hw, hr, List.headD_cons, hd, hn, hp, Bool.false_eq_true,
    if_false]
  exact if_pos hh

theorem waitc_watches {t' : State} (hh : watchHolds v.mem (waitWatch c f t g xs x) = false)
    (ha : v.addWatch (waitWatch c f t g xs x) = (t', .watch)) :
    exec (.waitc f) s = .next (slotEnd (.stop t' g (.block .watch))) := by
  refine (runSlot_runs hc _).trans (Ctx.enter_blocks b ?_)
  simp only [show (c.put t g).r = c.r from rfl, show (c.put t g).g = g from rfl, hw, hr, List.headD_cons, hd, hn, hp, Bool.false_eq_true,
    if_false]
  refine (if_neg (Bool.eq_false_iff.mp hh)).trans ?_
  exact congrArg (fun p : State × Wait => Slot.stop p.1 g (.block p.2)) ha

end

/-! ## A write at a watched element (R54, R128, R297, R298) -/

/-- A group that wakes is ready at the slot where it waits. -/
theorem wake_group? {s : State} {u : Nat} {g : Group} {r : ClauseRun} (hg : s.group? u = some g) (hr : g.run = some r) :
    (s.wake u true).group? u = some { g with status := .ready, run := some { r with woken := true } } := by
  have hset : (s.setGroup { g with status := .ready, run := some { r with woken := true } }).group? u =
      some { g with status := .ready, run := some { r with woken := true } } := State.group?_setGroup hg rfl
  simp only [State.wake, hg, hr, Option.map_some, Bool.or_true]
  split
  · exact hset
  · exact hset

/-- The state that a wake makes differs in the groups and in those that run only. -/
theorem wake_frame (s : State) (u : Nat) (b : Bool) : ∃ gs as, s.wake u b = { s with groups := gs, active := as } := by
  unfold State.wake
  split
  · exact ⟨s.groups, s.active, rfl⟩
  · dsimp only
    split
    · exact ⟨_, _, rfl⟩
    · exact ⟨_, s.active, rfl⟩

theorem sendFlit_groups (s : State) (u : Nat) (hops : List (Nat × Nat)) : (s.sendFlit u hops).groups = s.groups := by
  obtain ⟨ls, fs, h⟩ := sendFlit_frame s u hops
  rw [h]

/-- A flit with a way to go stands among the flits once it is sent. -/
theorem sendFlit_sends (s : State) (u : Nat) {hops : List (Nat × Nat)} (h : hops ≠ []) :
    ∃ fl ∈ (s.sendFlit u hops).flits, fl.uid = u ∧ fl.hops = hops := by
  cases hops with
  | nil => exact absurd rfl h
  | cons a hops => exact ⟨{ uid := u, hops := a :: hops }, List.mem_append_right _ (List.mem_singleton_self _), rfl, rfl⟩

/-- Two different dies are a link or more apart. -/
theorem inClass_dieWay_ne_nil {c a b : Nat} (h : a ≠ b) : inClass c (dieWay a b) ≠ [] := by
  unfold dieWay inClass
  rw [if_neg h]
  split <;> exact List.cons_ne_nil _ _

theorem wakeFrom_dies (s : State) (n : Nat) (w : Watch) : (s.wakeFrom n w).dies = s.dies := by
  unfold State.wakeFrom
  split
  · rfl
  · rename_i g _
    dsimp only
    split
    · obtain ⟨gs, as, h⟩ := wake_frame (s.updateL1 g.core w.cell (Memory.readN s.mem w.cell (w.ty.width / 8))) w.group true
      rw [h]
      rfl
    · obtain ⟨ls, fs, h⟩ := sendFlit_frame _ _ _
      rw [h]
      rfl

section
variable {s : State} {n : Nat} {w : Watch} {g : Group} (hg : s.group? w.group = some g)
include hg

/-- A watch whose group runs on the die of its home slice wakes it at once. -/
theorem wakeFrom_here {r : ClauseRun} (hr : g.run = some r) (hn : g.core / 48 = n) :
    (s.wakeFrom n w).group? w.group = some { g with status := .ready, run := some { r with woken := true } } := by
  unfold State.wakeFrom
  simp only [hg, hn, if_true]
  exact wake_group? hg hr

/-- A watch whose group runs on another die sends the wake over the links. -/
theorem wakeFrom_away (hn : g.core / 48 ≠ n) :
    ∃ k, (s.wakeFrom n w).group? w.group = some { g with status := .waiting (.waking k) } ∧
      ∃ fl ∈ (s.wakeFrom n w).flits, fl.uid = k ∧ fl.hops = inClass clsControl (dieWay n (g.core / 48)) := by
  unfold State.wakeFrom
  simp only [hg, hn, if_false]
  refine ⟨_, ?_, sendFlit_sends _ _ (inClass_dieWay_ne_nil (Ne.symm hn))⟩
  rw [State.group?_congr (sendFlit_groups _ _ _)]
  exact State.group?_setGroup hg rfl

end

/-- A range of one block has one home slice. -/
theorem blocksOf_single {c n : Nat} (h : c / 256 = (c + n - 1) / 256) : blocksOf c n = [c] := by
  have hmax : max c (c / 256 * 256) = c := by omega
  simp only [blocksOf, ← h, Nat.sub_self, span, List.map_cons, List.map_nil, hmax]

/-- A write inside one block wakes the watches of one slice, in a state that differs from the one before in memory and in what the L2
and the poison lists hold. -/
theorem applyWrite_single (s : State) {cell : Nat} {bs : List Byte} (h : cell / 256 = (cell + bs.length - 1) / 256) :
    ∃ u : State, s.applyWrite cell 0 bs = u.wakeSlice (homeDie cell) (homeSlice cell) cell bs.length ∧ u.mem = Memory.writeN s.mem cell bs ∧
      u.groups = s.groups ∧ ∀ n m, u.watchesAt n m = s.watchesAt n m := by
  obtain ⟨ds, hd⟩ := touchL2_dies s cell 0 true
  have hslices := touchL2_slices s cell 0 true
  rw [hd] at hslices
  refine ⟨{ s with dies := ds, mem := Memory.writeN s.mem cell bs, poison := clearPoison s.poison cell bs.length }, ?_, rfl, rfl,
    State.watchesAt_congr hslices⟩
  simp only [State.applyWrite, State.wakeWatches, blocksOf_single h, List.foldl_cons, List.foldl_nil, hd]

section
variable {s : State} {cell n : Nat} {w : Watch} (ha : s.watchesAt (homeDie cell) (homeSlice cell) = [w])
include ha

/-- A write that leaves the comparison of the only watch false wakes nobody. -/
theorem wakeSlice_misses (hh : watchHolds s.mem w = false) : s.wakeSlice (homeDie cell) (homeSlice cell) cell n = s := by
  rw [State.watchesAt] at ha
  simp only [State.wakeSlice, ha, List.filter_cons, List.filter_nil, hh, Bool.and_false, Bool.false_eq_true, if_false, List.isEmpty_nil, if_true]

/-- A write that makes the comparison of the only watch true removes it and wakes its group. -/
theorem wakeSlice_hits (h1 : w.cell < cell + n) (h2 : cell < w.cell + w.ty.width / 8) (hh : watchHolds s.mem w = true) :
    ∃ u : State, s.wakeSlice (homeDie cell) (homeSlice cell) cell n = u.wakeFrom (homeDie cell) w ∧ u.groups = s.groups ∧
      u.watchesAt (homeDie cell) (homeSlice cell) = [] := by
  rw [State.watchesAt] at ha
  refine ⟨s.setDie (homeDie cell) ((s.die (homeDie cell)).setSlice (homeSlice cell)
    { (s.die (homeDie cell)).slice (homeSlice cell) with watches := [] }), ?_, rfl, State.watchesAt_setSlice _ _ _ _⟩
  simp only [State.wakeSlice, ha, List.filter_cons, List.filter_nil, hh, h1, h2, decide_true, Bool.and_true, Bool.not_true, Bool.false_eq_true,
    if_true, if_false, List.isEmpty_cons, List.foldl_cons, List.foldl_nil]

end

/-- What a write does to the one watch of its home slice. -/
theorem applyWrite_watch {s : State} {w : Watch} {g : Group} {r : ClauseRun} {cell : Nat} {bs : List Byte}
    (ha : s.watchesAt (homeDie cell) (homeSlice cell) = [w]) (hg : s.group? w.group = some g) (hr : g.run = some r)
    (h1 : w.cell < cell + bs.length) (h2 : cell < w.cell + w.ty.width / 8) (hblock : cell / 256 = (cell + bs.length - 1) / 256) :
    let t := s.applyWrite cell 0 bs
    (watchHolds (Memory.writeN s.mem cell bs) w = true → t.watchesAt (homeDie cell) (homeSlice cell) = [] ∧
      (g.core / 48 = homeDie cell → t.group? w.group = some { g with status := .ready, run := some { r with woken := true } }) ∧
      (g.core / 48 ≠ homeDie cell → ∃ k, t.group? w.group = some { g with status := .waiting (.waking k) } ∧
        ∃ fl ∈ t.flits, fl.uid = k ∧ fl.hops = inClass clsControl (dieWay (homeDie cell) (g.core / 48)))) ∧
    (watchHolds (Memory.writeN s.mem cell bs) w = false → t.watchesAt (homeDie cell) (homeSlice cell) = [w] ∧ t.group? w.group = some g) := by
  intro t
  obtain ⟨u, hu, hmem, hgroups, hat⟩ := applyWrite_single s hblock
  rw [← hat] at ha
  rw [← State.group?_congr hgroups] at hg
  rw [← hmem, show t = _ from hu]
  refine ⟨fun hh => ?_, fun hh => ?_⟩
  · obtain ⟨v, hv, hvg, hva⟩ := wakeSlice_hits ha h1 h2 hh
    rw [← State.group?_congr hvg] at hg
    rw [hv]
    refine ⟨?_, wakeFrom_here hg hr, wakeFrom_away hg⟩
    rw [State.watchesAt, State.die, wakeFrom_dies]
    exact hva
  · rw [wakeSlice_misses ha hh]
    exact ⟨ha, hg⟩

/-! ## Phasers (R149, R150, R299 to R301) -/

/-- The phaser that a slot names for its lowest executing lane. -/
def phaserNamed (c : Ctx) (f : VForm) (xs : List Src) : PhaserRef := phaserRef f ((lowest (c.enabled f.pg f.pn)).getD 0) xs

/-- How a phaser slot begins: the quantum ends, the number must be the parcel's or the function's, and the roles must allow it. -/
def phaserStart (c : Ctx) (f : VForm) (roles : Role → PhaserRef → Option FaultInfo) : Start :=
  { always := false, fence := true, pre := c.phaserPre f,
    check := fun xs => (c.phaserRange (phaserNamed c f xs)).or
      (roles (c.g.role (phaserNamed c f xs).pkg (phaserNamed c f xs).n) (phaserNamed c f xs)) }

section
variable {c : Ctx} {f : VForm} {roles : Role → PhaserRef → Option FaultInfo} {nw captures : Bool} {dsts srcs : List Use} {s : State} {g h : Group}
  {xs : List Src} (b : c.Begins (phaserStart c f roles) (c.enabled f.pg f.pn) f.nw dsts (phaserUse f ++ srcs) s g h xs captures)
  {body : Ctx → Group → W64 → PhaserRef → List Src → Slot} {t : State} {g' : Group}
include b

/-- A phaser slot whose operands are in order and whose own effect completes is done with it. -/
theorem Ctx.phaserSlot_completes {l : Option (Tbl W64)} {d : Option Goto}
    (hb : body (c.put s g) h (c.enabled f.pg f.pn) (phaserNamed c f xs) (xs.drop (phaserUse f).length) = .done t g' l d) :
    .next (slotEnd (c.phaserSlot f dsts srcs captures roles body)) = doneWith t g' l d := by
  unfold Ctx.phaserSlot
  exact Ctx.enter_completes b hb

/-- A phaser slot whose operands are in order and whose own effect waits blocks its path. -/
theorem Ctx.phaserSlot_blocks {w : Wait}
    (hb : body (c.put s g) h (c.enabled f.pg f.pn) (phaserNamed c f xs) (xs.drop (phaserUse f).length) = .stop t g' (.block w)) :
    (.next (slotEnd (c.phaserSlot f dsts srcs captures roles body)) : Host.Outcome State Fault Refusal) =
      .next (slotEnd (.stop t g' (.block w))) := by
  unfold Ctx.phaserSlot
  exact Ctx.enter_blocks b hb

end

/-- `u` is the state `s` once an operation of `c` on a phaser has reached its table and come back. -/
def Ctx.Reaches (c : Ctx) (s u : State) (x : PhaserRef) : Prop :=
  if x.pkg then s.crossNow clsControl (toControl c.die ++ fromControl c.die) = some u else u = s

section
variable {c : Ctx} {s u : State} {x : PhaserRef} (ha : c.Reaches s u x)
include ha

theorem Ctx.atTable_reaches (f : State → Slot) : c.atTable s x f = f u := by
  unfold Ctx.Reaches at ha
  unfold Ctx.atTable
  cases hp : x.pkg <;> simp only [hp, if_true, if_false, Bool.false_eq_true] at ha
  · subst ha
    rfl
  · simp only [ha, Bool.not_true, Bool.false_eq_true, if_false]

theorem Ctx.Reaches.phaser (g : Group) (pkg : Bool) (n : Nat) : u.phaser g pkg n = s.phaser g pkg n := by
  unfold Ctx.Reaches at ha
  split at ha
  · obtain ⟨l, rfl⟩ := crossNow_frame ha
    rfl
  · rw [ha]

end

/-- The count that PHREG must not pass, role by role. -/
theorem Phaser.overfull_eq (p : Phaser) (sig wait : Bool) :
    p.overfull sig wait = (decide (65535 < p.sig + (if sig && p.arrived = 0 then 1 else 0)) ||
      decide (65535 < p.signext + (if sig then 1 else 0)) || decide (65535 < p.wait + (if wait then 1 else 0))) := by
  cases sig <;> cases wait <;> by_cases h : p.arrived = 0 <;> simp [Phaser.overfull, Phaser.register, phaserLimit, h]

/-- What PHREG does to the counts of an entry. -/
theorem Phaser.register_counts (p : Phaser) (sig wait : Bool) :
    (p.register sig wait).phase = p.phase ∧ (p.register sig wait).arrived = p.arrived ∧
      (sig = true → (p.register sig wait).signext = p.signext + 1 ∧ (p.register sig wait).sig = if p.arrived = 0 then p.sig + 1 else p.sig) ∧
      (sig = false → (p.register sig wait).signext = p.signext ∧ (p.register sig wait).sig = p.sig) ∧
      (wait = true → (p.register sig wait).wait = p.wait + 1) ∧ (wait = false → (p.register sig wait).wait = p.wait) := by
  cases sig <;> cases wait <;> simp [Phaser.register]

/-- The role of a group after PHREG on the entry `p`. -/
def Role.registered (r : Role) (p : Phaser) (sig wait : Bool) : Role :=
  let r := if sig then { r with sig := true, counted := p.arrived = 0, arrived := false } else r
  if wait then { r with wait := true } else r

theorem Role.registered_sig (r : Role) (p : Phaser) {sig : Bool} (wait : Bool) (h : sig = true) : (r.registered p sig wait).sig = true := by
  subst h
  cases wait <;> rfl

theorem Role.registered_wait (r : Role) (p : Phaser) (sig : Bool) {wait : Bool} (h : wait = true) : (r.registered p sig wait).wait = true := by
  subst h
  rfl

/-- What PHREG refuses: a role that the group has, a 17th package phaser, and a count past its limit. -/
def phregRoles (c : Ctx) (f : VForm) (r : Role) (x : PhaserRef) : Option FaultInfo :=
  if (r.sig && roleSig f) || (r.wait && roleWait f) then some (illegalOperand 6 6 (roleBits f))
  else if x.pkg && !r.sig && !r.wait && 16 ≤ c.g.packagePhasers then some (illegalOperand 6 27 x.n)
  else faultIf ((c.s.phaser c.g x.pkg x.n).overfull (roleSig f) (roleWait f)) (illegalOperand 6 x.pos x.n)

section
variable {s : State} {c : Ctx} {f : VForm} {t u : State} {g h : Group} {xs : List Src} (hc : s.runs c)
include hc

theorem phreg_registers (b : c.Begins (phaserStart c f (phregRoles c f)) (c.enabled f.pg f.pn) f.nw [] (phaserUse f ++ []) t g h xs false)
    (ha : (c.put t g).Reaches t u (phaserNamed c f xs)) :
    let x := phaserNamed c f xs
    let p := t.phaser h x.pkg x.n
    exec (.phreg f) s = doneWith (u.setPhaser h x.pkg x.n (p.register (roleSig f) (roleWait f)))
      (h.setRole ((h.role x.pkg x.n).registered p (roleSig f) (roleWait f))) none none := by
  refine (runSlot_runs hc _).trans (Ctx.phaserSlot_completes b ((Ctx.atTable_reaches ha _).trans ?_))
  rw [← ha.phaser]
  rfl

theorem phdrop_drops {roles : Role → PhaserRef → Option FaultInfo}
    (hr : roles = fun r _ => if (roleSig f && !r.sig) || (roleWait f && !r.wait) then some (illegalOperand 6 6 (roleBits f)) else none)
    (b : c.Begins (phaserStart c f roles) (c.enabled f.pg f.pn) f.nw [] (phaserUse f ++ []) t g h xs false)
    (ha : (c.put t g).Reaches t u (phaserNamed c f xs)) :
    let x := phaserNamed c f xs
    exec (.phdrop f) s = doneWith (u.dropRoles h x.pkg x.n (roleSig f) (roleWait f)).1 (u.dropRoles h x.pkg x.n (roleSig f) (roleWait f)).2
      none none := by
  subst hr
  exact (runSlot_runs hc _).trans (Ctx.phaserSlot_completes b (Ctx.atTable_reaches ha _))

/-- PHARR counts the arrival in the entry and tests whether the phase is over; a destination gets the phase in which the group arrived. -/
theorem pharr_arrives {t1 : State} {roles : Role → PhaserRef → Option FaultInfo}
    (hr : roles = fun r x => if r.sig then none else some (illegalOperand 6 x.pos x.n))
    (b : c.Begins (phaserStart c f roles) (c.enabled f.pg f.pn) f.nw (if f.dst.unused then [] else [dstOf f .sq]) (phaserUse f ++ []) t g h xs
      (!f.dst.unused))
    (hrel : t.releaseWait h (phaserNamed c f xs).scope = .ok t1 h)
    (hcount : (h.role (phaserNamed c f xs).pkg (phaserNamed c f xs).n).counted = true)
    (hfirst : (h.role (phaserNamed c f xs).pkg (phaserNamed c f xs).n).arrived = false)
    (ha : (c.put t g).Reaches t1 u (phaserNamed c f xs)) :
    let x := phaserNamed c f xs
    let q := t1.phaser h x.pkg x.n
    let a := u.phaserTest (h.setRole { h.role x.pkg x.n with arrived := true }) x.pkg x.n { q with arrived := q.arrived + 1 }
    (f.dst.unused = true → exec (.pharr f) s = doneWith a.1 a.2 none none) ∧
    (f.dst.unused = false → exec (.pharr f) s =
      ({ c.put t g with s := a.1 } : Ctx).pathDone (c.enabled f.pg f.pn) f.dst f.nw f.pfx false a.2 (q.phase.zeroExtend 64)) := by
  subst hr
  intro x q a
  have hdsts : (if f.dst.unused = true then [] else [dstOf f .sq]) = if (!f.dst.unused) = true then [dstOf f .sq] else [] := by
    cases f.dst.unused <;> rfl
  rw [hdsts] at b
  have hgo : (!(h.role x.pkg x.n).counted || (h.role x.pkg x.n).arrived) = false := by rw [hcount, hfirst]; rfl
  have hdone : ∀ g' l, (if (!f.dst.unused) = true then ({ c.put t g with s := a.1 } : Ctx).result a.2 (c.enabled f.pg f.pn) f.dst f.nw f.pfx false
      (.one (q.phase.zeroExtend 64)) else .done a.1 a.2 none none) = Slot.done a.1 g' l none → exec (.pharr f) s = doneWith a.1 g' l none := by
    intro g' l hl
    refine (runSlot_runs hc _).trans (Ctx.phaserSlot_completes b ?_)
    dsimp only
    rw [show (c.put t g).s = t from rfl, hrel]
    exact (if_neg (Bool.eq_false_iff.mp hgo)).trans ((Ctx.atTable_reaches ha _).trans hl)
  exact ⟨fun hu => hdone _ _ (by rw [hu]; rfl), fun hu => hdone _ _ (by rw [hu]; rfl)⟩

/-- What PHWAIT waits for: a phase of the entry that it names. -/
def phwaitUse (f : VForm) : Use := if f.var = 1 then ⟨18, f.sb, .slq, 1⟩ else ⟨27, f.sa, .slq, 1⟩

theorem phwait_waits {roles : Role → PhaserRef → Option FaultInfo}
    (hr : roles = fun r x => if r.wait then none else some (illegalOperand 6 x.pos x.n))
    (b : c.Begins (phaserStart c f roles) (c.enabled f.pg f.pn) f.nw [] (phaserUse f ++ [phwaitUse f]) t g h xs false) :
    let x := phaserNamed c f xs
    let phase := (((xs.drop (phaserUse f).length).headD fun _ => 0) ((lowest (c.enabled f.pg f.pn)).getD 0)).setWidth 32
    ((t.phaser h x.pkg x.n).passed phase = true → ∀ u, (c.put t g).Reaches t u x →
      exec (.phwait f) s = doneWith (u.acquire h x.scope) h none none) ∧
    ((t.phaser h x.pkg x.n).passed phase = false → exec (.phwait f) s = .next (slotEnd (.stop t g (.block (.phaser x.pkg x.n phase))))) := by
  subst hr
  intro x phase
  refine ⟨fun hp u ha => ?_, fun hp => ?_⟩
  · refine (runSlot_runs hc _).trans (Ctx.phaserSlot_completes b ?_)
    exact (if_pos hp).trans (Ctx.atTable_reaches ha _)
  · refine (runSlot_runs hc _).trans (Ctx.phaserSlot_blocks b ?_)
    exact if_neg (Bool.eq_false_iff.mp hp)

end

/-- The entry that a phaser has after it is set, in a parcel that exists. -/
theorem State.phaser_setPhaser {s : State} {g : Group} (hp : s.parcel? g.parcel ≠ none) (pkg : Bool) (n : Nat) (p : Phaser) :
    (s.setPhaser g pkg n p).phaser g pkg n = p := by
  cases pkg with
  | true => exact Tbl.get_put_same _ _ _ _
  | false =>
      obtain ⟨q, hq⟩ := Option.ne_none_iff_exists'.mp hp
      have hu := State.uid_of_parcel? hq
      have hof : s.parcelOf g = q := by rw [State.parcelOf, hq, Option.getD_some]
      have hset : (s.setParcel { q with phasers := Tbl.put Phaser.clear q.phasers n p }).parcel? g.parcel =
          some { q with phasers := Tbl.put Phaser.clear q.phasers n p } := by
        rw [← hu] at hq ⊢
        exact State.parcel?_setParcel hq
      simp only [State.setPhaser, State.phaser, Bool.false_eq_true, if_false, hof]
      rw [State.parcelOf, hset]
      exact Tbl.get_put_same _ _ _ _

/-- The entry that a phaser has after it is stored and tested (R150). -/
theorem phaserTest_phaser {s : State} {g : Group} (hp : s.parcel? g.parcel ≠ none) (pkg : Bool) (n : Nat) (p : Phaser) :
    (s.phaserTest g pkg n p).1.phaser g pkg n = if 0 < p.sig ∧ p.arrived = p.sig then p.next else p := by
  have hc : p.completes = true ↔ 0 < p.sig ∧ p.arrived = p.sig := by simp [Phaser.completes]
  unfold State.phaserTest
  by_cases h : 0 < p.sig ∧ p.arrived = p.sig
  · rw [if_pos (hc.mpr h), if_pos h]
    exact State.phaser_setPhaser hp pkg n p.next
  · rw [if_neg (mt hc.mp h), if_neg h]
    exact State.phaser_setPhaser hp pkg n p

/-- A wait for the phase before the present one is over, and one for the present one is not. -/
theorem Phaser.passed_next (p : Phaser) (k : W32) :
    Phaser.passed { p with phase := k + 1 } k = true ∧ Phaser.passed { p with phase := k } k = false := by
  have hnext : k + 1 - k = 1 := by rw [BitVec.add_comm, BitVec.add_sub_cancel]
  simp only [Phaser.passed, hnext, BitVec.sub_self]
  decide

/-! ## Semaphores (R78, R79, R159, R302) -/

theorem semCount_lt (x : W64) : semCount x < 2 ^ 32 := BitVec.isLt _
theorem semTarget_lt (x : W64) : semTarget x < 2 ^ 32 := BitVec.isLt _

theorem semMax_eq : semMax = 2 ^ 32 - 1 := rfl

theorem semWord_of_lt {target count : Nat} (ht : target < 2 ^ 32) (hc : count < 2 ^ 32) :
    semWord target count = BitVec.ofNat 64 (target * 2 ^ 32 + count) := by
  rw [semWord, Nat.mod_eq_of_lt ht, Nat.mod_eq_of_lt hc]

theorem semValueFault_of_lt {pos : Nat} {x : W64} (h : x.toNat < 2 ^ 32) : semValueFault pos x = none := if_pos h

/-- A count of `k` with the increments of the cycle added, saturating. -/
def countAfter (t : State) (u n k : Nat) : Nat := min (k + ((t.semNow u n).map fun i => i.inc).foldl (· + ·) 0) (2 ^ 32 - 1)

theorem countAfter_lt (t : State) (u n k : Nat) : countAfter t u n k < 2 ^ 32 := Nat.lt_of_le_of_lt (Nat.min_le_right _ _) (by decide)

/-- What SEMSET of variant `k` makes of semaphore `n` of parcel `u`. -/
def semsetWord (t : State) (u n k : Nat) (a b : W64) : W64 :=
  BitVec.ofNat 64 (match k with
    | 0 => a.toNat * 2 ^ 32 + semCount (t.sem u n)
    | 1 => semTarget (t.sem u n) * 2 ^ 32 + countAfter t u n a.toNat
    | 2 => a.toNat * 2 ^ 32 + countAfter t u n b.toNat
    | _ => min (semTarget (t.sem u n) + a.toNat) (2 ^ 32 - 1) * 2 ^ 32 + semCount (t.sem u n))

section
variable (t : State) (u n : Nat)

theorem State.semTgt_of_lt {target : Nat} (h : target < 2 ^ 32) :
    t.semTgt u n target = t.semIs u n (BitVec.ofNat 64 (target * 2 ^ 32 + semCount (t.sem u n))) := by
  rw [State.semTgt, semWord_of_lt h (semCount_lt _)]

theorem State.semSet_of_lt {target : Nat} (h : target < 2 ^ 32) (count : Nat) :
    t.semSet u n target count = t.semIs u n (BitVec.ofNat 64 (target * 2 ^ 32 + countAfter t u n count)) := by
  rw [State.semSet, semMax_eq, ← countAfter, semWord_of_lt h (countAfter_lt _ _ _ _)]

theorem State.semTgt_saturated (target : Nat) :
    t.semTgt u n (min target semMax) = t.semIs u n (BitVec.ofNat 64 (min target (2 ^ 32 - 1) * 2 ^ 32 + semCount (t.sem u n))) := by
  rw [semMax_eq, t.semTgt_of_lt u n (Nat.lt_of_le_of_lt (Nat.min_le_right _ _) (by decide))]

end

/-- Every variant of SEMSET from 3 on adds to the target. -/
theorem semsetWord_of_add (t : State) (u n : Nat) {k : Nat} {a b : W64} (h0 : k ≠ 0) (h1 : k ≠ 1) (h2 : k ≠ 2) :
    semsetWord t u n k a b = BitVec.ofNat 64 (min (semTarget (t.sem u n) + a.toNat) (2 ^ 32 - 1) * 2 ^ 32 + semCount (t.sem u n)) := by
  unfold semsetWord
  split
  · exact absurd rfl h0
  · exact absurd rfl h1
  · exact absurd rfl h2
  · rfl

/-- What SEMRD of variant `k` reads of a semaphore. -/
def semrdWord (k : Nat) (x : W64) : W64 :=
  match k with
  | 0 => BitVec.ofNat 64 (semCount x)
  | 1 => BitVec.ofNat 64 (semTarget x)
  | _ => x

/-- Without increments in its cycle, a set of a semaphore is a write. -/
theorem State.semIs_quiet {t : State} {u n : Nat} (h : t.semNow u n = []) (x : W64) : t.semIs u n x = t.setSem u n x := by
  rw [State.semIs, h, List.isEmpty_nil, Bool.or_true]
  rfl

section
variable {s : State} {c : Ctx} {f : VForm} {t : State} {g h : Group} {xs : List Src} (hc : s.runs c)
include hc

theorem semset_sets (b : c.Begins { always := false, pre := c.semRange 0 (semN f) } (c.enabled f.pg f.pn) true []
      (usesOf f (if f.var = 2 then 2 else 1) .slq) t g h xs false) :
    let l := (lowest (c.enabled f.pg f.pn)).getD 0
    let x := (xs.headD fun _ => 0) l
    let y := (xs.tail.headD fun _ => 0) l
    x.toNat < 2 ^ 32 → y.toNat < 2 ^ 32 →
      exec (.semset f) s = doneWith (t.semIs h.parcel (semN f) (semsetWord t h.parcel (semN f) f.var.toNat x y)) h none none := by
  intro l x y hx hy
  refine (runSlot_runs hc _).trans (Ctx.enter_completes b ?_)
  dsimp only
  rw [semValueFault_of_lt hx, semValueFault_of_lt hy, Option.or_none]
  refine congrArg (Slot.done · h none none) ?_
  generalize f.var.toNat = k
  split
  · exact t.semTgt_of_lt _ _ hx
  · exact t.semSet_of_lt _ _ (semTarget_lt _) _
  · exact t.semSet_of_lt _ _ hx _
  · rename_i h0 h1 h2
    rw [semsetWord_of_add t _ _ h0 h1 h2]
    exact t.semTgt_saturated _ _ _

theorem semwait_waits (b : c.Begins { always := false, fence := true, pre := c.semRange 0 (semN f) }
    (c.enabled f.pg f.pn) true [] [] t g h xs false)
    (hl : g.lateSem (semN f) = none) :
    let x := t.sem h.parcel (semN f)
    (c.r.woken = true ∨ semTarget x ≤ semCount x → exec (.semwait f) s = doneWith (t.acquire h 6) h none none) ∧
    (c.r.woken = false → semCount x < semTarget x → exec (.semwait f) s = .next (slotEnd (.stop t g (.block (.semaphore (semN f)))))) := by
  intro x
  refine ⟨fun hr => ?_, fun hw hr => ?_⟩
  · have hgo : (c.r.woken || semReached x) = true := by simpa [semReached] using hr
    refine (runSlot_runs hc _).trans (Ctx.enter_completes b ?_)
    dsimp only
    rw [show (c.put t g).g = g from rfl, hl]
    exact if_pos hgo
  · have hno : ¬ (c.r.woken || semReached x) = true := by simp [semReached, hw, hr]
    refine (runSlot_runs hc _).trans (Ctx.enter_blocks b ?_)
    dsimp only
    rw [show (c.put t g).g = g from rfl, hl]
    exact if_neg hno

theorem semrd_reads (b : c.Begins { always := false, pre := c.semRange 0 (semN f) } (c.enabled f.pg f.pn) f.nw [dstOf f .vsq] [] t g h xs) :
    exec (.semrd f) s = (c.put t g).pathDone (c.enabled f.pg f.pn) f.dst f.nw f.pfx false h
      (semrdWord f.var.toNat (t.sem h.parcel (semN f))) :=
  (runSlot_runs hc _).trans (Ctx.enter_completes b rfl)

end

section
variable {s : State} {p : Parcel} (hp : s.parcel? p.uid = some p) (n : Nat) (x : W64)
include hp

theorem State.setSem_waits (hx : semReached x = false) : s.setSem p.uid n x = s.setParcel { p with sems := Tbl.put 0 p.sems n x } := by
  simp only [State.setSem, hp, hx, Bool.not_false, if_true]

/-- A semaphore that reaches its target wakes the one group that waits for it. -/
theorem State.setSem_wakes (hx : semReached x = true) {g : Group} (hs : s.groups = [g]) (hg : g.parcel = p.uid)
    (hw : g.status = .waiting (.semaphore n)) :
    s.setSem p.uid n x = (s.setParcel { p with sems := Tbl.put 0 p.sems n x }).wake g.uid true := by
  simp only [State.setSem, hp, hx, Bool.not_true, Bool.false_eq_true, if_false, State.setParcel_groups, hs, hg, hw, List.filter_cons, decide_true,
    Bool.and_true, if_true, List.filter_nil, List.foldl_cons, List.foldl_nil]

theorem State.sem_setParcel : (s.setParcel { p with sems := Tbl.put 0 p.sems n x }).sem p.uid n = x := by
  have hset : (s.setParcel { p with sems := Tbl.put 0 p.sems n x }).parcel? p.uid = some { p with sems := Tbl.put 0 p.sems n x } :=
    State.parcel?_setParcel hp
  rw [State.sem, hset]
  exact Tbl.get_put_same _ _ _ _

end

theorem wake_sem (s : State) (v : Nat) (b : Bool) (u n : Nat) : (s.wake v b).sem u n = s.sem u n := by
  obtain ⟨gs, as, h⟩ := wake_frame s v b
  rw [h]
  rfl

/-- A group that is alone in the state and wakes is ready. -/
theorem wake_groups {s : State} {g : Group} {r : ClauseRun} (hs : s.groups = [g]) (hr : g.run = some r) :
    (s.wake g.uid true).groups = [{ g with status := .ready, run := some { r with woken := true } }] := by
  have hg : s.group? g.uid = some g := by simp [State.group?, hs]
  have hset : replaceFirst (fun y : Group => y.uid = g.uid) { g with status := .ready, run := some { r with woken := true } } s.groups =
      [{ g with status := .ready, run := some { r with woken := true } }] := by simp [hs, replaceFirst]
  simp only [State.wake, hg, hr, Option.map_some, Bool.or_true]
  split
  · exact hset
  · exact hset

/-- What a write of a semaphore does to it and to the one group that waits for it. -/
theorem setSem_effect {s : State} {p : Parcel} {g : Group} {r : ClauseRun} {n : Nat} (x : W64) (hp : s.parcel? p.uid = some p)
    (hs : s.groups = [g]) (hg : g.parcel = p.uid) (hw : g.status = .waiting (.semaphore n)) (hr : g.run = some r) :
    (s.setSem p.uid n x).sem p.uid n = x ∧
      (semTarget x ≤ semCount x → (s.setSem p.uid n x).groups = [{ g with status := .ready, run := some { r with woken := true } }]) ∧
      (semCount x < semTarget x → (s.setSem p.uid n x).groups = [g]) := by
  cases hx : semReached x with
  | true =>
      have hle : semTarget x ≤ semCount x := of_decide_eq_true hx
      rw [State.setSem_wakes hp n x hx hs hg hw, wake_sem, State.sem_setParcel hp]
      exact ⟨rfl, fun _ => wake_groups hs hr, fun hlt => absurd hlt (Nat.not_lt.mpr hle)⟩
  | false =>
      have hlt : ¬ semTarget x ≤ semCount x := of_decide_eq_false hx
      rw [State.setSem_waits hp n x hx, State.sem_setParcel hp]
      exact ⟨rfl, fun hle => absurd hle hlt, fun _ => hs⟩

/-! ## The obligation -/

/-- Settles O32: WAITC, the phaser opcodes and the semaphore opcodes by their own rules above, then what a write at a watched element, an
arrival and a reached target do. -/
theorem waitsPhasersAndSemaphores : Obligations.WaitsPhasersAndSemaphores := by
  unfold Obligations.WaitsPhasersAndSemaphores
  refine ⟨⟨?_, ?_⟩, ⟨?_, ?_⟩, ?_, ?_⟩
  · intro s c f t u g h xs x hc e l n reg d a w b
    refine ⟨waitc_woken hc b, fun hw hr hd v hn hp => ⟨fun hh => waitc_holds hc b hw hr hd hn hp hh, fun hh hl hq => ?_⟩⟩
    obtain ⟨t', ha, hmem, hat⟩ := addWatch_registers (s := v) (w := waitWatch c f t g xs x) hl hq
    exact ⟨t', waitc_watches hc b hw hr hd hn hp hh ha, hmem, hat⟩
  · intro s w g r cell bs at' ha hg hr h1 h2 _ hblock t
    obtain ⟨hhits, hmisses⟩ := applyWrite_watch ha hg hr h1 h2 hblock
    refine ⟨fun hh => ?_, hmisses⟩
    obtain ⟨hat, hhere, haway⟩ := hhits hh
    refine ⟨hat, hhere, fun hn => ?_⟩
    obtain ⟨k, hk, hfl⟩ := haway hn
    exact ⟨k, hk, fun _ => hfl⟩
  · intro s c f t g h xs hc e l x start p full atTable
    refine ⟨fun u b ha => ?_, fun u b ha => phdrop_drops hc rfl b ha,
      fun t1 u b hrel hcount hfirst ha => pharr_arrives hc rfl b hrel hcount hfirst ha, phwait_waits hc rfl⟩
    have b' : c.Begins (phaserStart c f (phregRoles c f)) e f.nw [] (phaserUse f ++ []) t g h xs false := by
      unfold phregRoles
      simp only [faultIf, Phaser.overfull_eq]
      exact b
    obtain ⟨hphase, harr, hsig, hnosig, hwait, hnowait⟩ := p.register_counts (roleSig f) (roleWait f)
    refine ⟨_, _, phreg_registers hc b' ha, hphase, harr, fun hs => ?_, hnosig, fun hw => ?_, hnowait⟩
    · obtain ⟨hnext, hnow⟩ := hsig hs
      exact ⟨hnext, Role.registered_sig _ _ _ hs, hnow⟩
    · exact ⟨hwait hw, Role.registered_wait _ _ _ hw⟩
  · intro s g pkg n p hp t
    have htest := phaserTest_phaser hp pkg n p
    exact ⟨fun h => htest.trans (if_pos h), fun h => htest.trans (if_neg h), p.passed_next⟩
  · intro s c f t g h xs hc e l n a b x hi lo start more
    exact ⟨fun hs ha hb => ⟨semset_sets hc hs ha hb, fun hq => State.semIs_quiet hq _⟩, semwait_waits hc, semrd_reads hc⟩
  · intro s p g r n x hp hs hg hw hr
    exact setSem_effect x hp hs hg hw hr

end Sys2Proof.Machine
end

section
/-!
SUPPORT. The canonical form of memory as an invariant (R86, log entry 2): a state, and whatever an operation answers with, has its memory in
canonical form.
-/
namespace Sys2Proof.Machine
open Sys2Proof

/-! ## Canonical states and answers -/

/-- The memory of the state is in canonical form. -/
structure State.Canonical (s : State) : Prop where
  memoryOk : s.memoryOk = true

/-- The state that an operation on a state and a group leaves is canonical. -/
inductive Act.Canonical : Act → Prop
  | ok {s : State} {g : Group} : s.Canonical → Act.Canonical (.ok s g)
  | stop {s : State} {g : Group} {r : Stop} : s.Canonical → Act.Canonical (.stop s g r)

/-- The state at the end of a slot is canonical. -/
inductive Slot.Canonical : Slot → Prop
  | done {s : State} {g : Group} {l : Option (Tbl W64)} {d : Option Goto} : s.Canonical → Slot.Canonical (.done s g l d)
  | stop {s : State} {g : Group} {r : Stop} : s.Canonical → Slot.Canonical (.stop s g r)

/-- The state after an instruction or an event, if there is one, is canonical. -/
inductive NextCanonical : Host.Outcome State Fault Refusal → Prop
  | next {s : State} : s.Canonical → NextCanonical (.next s)
  | fault {r : Fault} : NextCanonical (.fault r)

/-- The state that an operation answers, if it answers one, is canonical. -/
inductive OptCanonical : Option State → Prop
  | none : OptCanonical none
  | some {s : State} : s.Canonical → OptCanonical (some s)

/-- The state that an operation answers, unless it fails, is canonical. -/
inductive OkCanonical {ε : Type} : Except ε State → Prop
  | error {e : ε} : OkCanonical (.error e)
  | ok {s : State} : s.Canonical → OkCanonical (.ok s)

/-- The state that an operation answers is canonical, whether it fails or not. -/
inductive BothCanonical : Except State State → Prop
  | error {s : State} : s.Canonical → BothCanonical (.error s)
  | ok {s : State} : s.Canonical → BothCanonical (.ok s)

section
variable {s t : State} {α β : Type}

/-- Canonical form is about memory alone. -/
theorem State.Canonical.of_mem (h : s.Canonical) (e : t.mem = s.mem) : t.Canonical := ⟨by rw [State.memoryOk, e]; exact h.memoryOk⟩

/-- The state of an answer that is known. -/
theorem State.Canonical.of_fst {a : State × α} {x : α} (e : a = (t, x)) (h : a.1.Canonical) : t.Canonical := by rw [e] at h; exact h

theorem State.Canonical.ite {c : Prop} [Decidable c] (h : s.Canonical) (h' : t.Canonical) : (if c then s else t).Canonical := by
  split
  · exact h
  · exact h'

theorem State.Canonical.foldl {f : State → α → State} {l : List α} (h : s.Canonical) (hf : ∀ s x, s.Canonical → (f s x).Canonical) :
    (l.foldl f s).Canonical := by
  induction l generalizing s with
  | nil => exact h
  | cons x l ih => exact ih (hf s x h)

theorem State.Canonical.ite_fst {c : Prop} [Decidable c] {a b : State × α} (h : a.1.Canonical) (h' : b.1.Canonical) :
    (if c then a else b).1.Canonical := by
  split
  · exact h
  · exact h'

/-- The first component of a fold that carries more than the state. -/
theorem State.Canonical.foldl_fst {f : State × α → β → State × α} {l : List β} {a : State × α} (h : a.1.Canonical)
    (hf : ∀ a x, a.1.Canonical → (f a x).1.Canonical) : (l.foldl f a).1.Canonical := by
  induction l generalizing a with
  | nil => exact h
  | cons x l ih => exact ih (hf a x h)

theorem State.Canonical.getD {o : Option State} (h : s.Canonical) (ho : OptCanonical o) : (o.getD s).Canonical := by
  cases ho with
  | none => exact h
  | some ht => exact ht

theorem State.Canonical.of_some {o : Option State} (e : o = Option.some t) (h : OptCanonical o) : t.Canonical := by
  rw [e] at h
  cases h with
  | some ht => exact ht

theorem OptCanonical.bind {o : Option State} {f : State → Option State} (h : OptCanonical o) (hf : ∀ s, s.Canonical → OptCanonical (f s)) :
    OptCanonical (o.bind f) := by
  cases h with
  | none => exact .none
  | some hs => exact hf _ hs

theorem OptCanonical.map {o : Option State} {f : State → State} (h : OptCanonical o) (hf : ∀ s, s.Canonical → (f s).Canonical) :
    OptCanonical (o.map f) := by
  cases h with
  | none => exact .none
  | some hs => exact .some (hf _ hs)

/-- A state that is worked out from an answer of another kind. -/
theorem OptCanonical.map_of {o : Option α} {f : α → State} (hf : ∀ x, (f x).Canonical) : OptCanonical (o.map f) := by
  cases o with
  | none => exact .none
  | some x => exact .some (hf x)

theorem OptCanonical.ite {c : Prop} [Decidable c] {o p : Option State} (h : OptCanonical o) (h' : OptCanonical p) :
    OptCanonical (if c then o else p) := by
  split
  · exact h
  · exact h'

theorem State.Canonical.of_ok {ε : Type} {o : Except ε State} (e : o = Except.ok t) (h : OkCanonical o) : t.Canonical := by
  rw [e] at h
  cases h with
  | ok ht => exact ht

theorem State.Canonical.of_both_ok {o : Except State State} (e : o = Except.ok t) (h : BothCanonical o) : t.Canonical := by
  rw [e] at h
  cases h with
  | ok ht => exact ht

theorem State.Canonical.of_both_error {o : Except State State} (e : o = Except.error t) (h : BothCanonical o) : t.Canonical := by
  rw [e] at h
  cases h with
  | error ht => exact ht

theorem State.Canonical.of_act_ok {a : Act} {g : Group} (e : a = .ok s g) (h : a.Canonical) : s.Canonical := by
  rw [e] at h
  cases h with
  | ok hs => exact hs

theorem State.Canonical.of_act_stop {a : Act} {g : Group} {r : Stop} (e : a = .stop s g r) (h : a.Canonical) : s.Canonical := by
  rw [e] at h
  cases h with
  | stop hs => exact hs

theorem State.Canonical.of_done {x : Slot} {g : Group} {l : Option (Tbl W64)} {d : Option Goto} (e : x = .done s g l d) (h : x.Canonical) :
    s.Canonical := by
  rw [e] at h
  cases h with
  | done hs => exact hs

theorem Act.Canonical.ite {c : Prop} [Decidable c] {a b : Act} (h : a.Canonical) (h' : b.Canonical) : (if c then a else b).Canonical := by
  split
  · exact h
  · exact h'

theorem Slot.Canonical.ite {c : Prop} [Decidable c] {a b : Slot} (h : a.Canonical) (h' : b.Canonical) : (if c then a else b).Canonical := by
  split
  · exact h
  · exact h'

theorem Act.Canonical.andThen {a : Act} {f : State → Group → Act} (h : a.Canonical) (hf : ∀ s g, s.Canonical → (f s g).Canonical) :
    (a.andThen f).Canonical := by
  cases h with
  | ok hs => exact hf _ _ hs
  | stop hs => exact .stop hs

theorem Act.Canonical.slot {a : Act} {f : State → Group → Slot} (h : a.Canonical) (hf : ∀ s g, s.Canonical → (f s g).Canonical) :
    (a.slot f).Canonical := by
  cases h with
  | ok hs => exact hf _ _ hs
  | stop hs => exact .stop hs

theorem NextCanonical.ite {c : Prop} [Decidable c] {o p : Host.Outcome State Fault Refusal} (h : NextCanonical o) (h' : NextCanonical p) :
    NextCanonical (if c then o else p) := by
  split
  · exact h
  · exact h'

theorem State.Canonical.of_next {o : Host.Outcome State Fault Refusal} (e : o = .next t) (h : NextCanonical o) : t.Canonical := by
  rw [e] at h
  cases h with
  | next ht => exact ht

end

/-! ## Writes of memory -/

theorem State.Canonical.writeN {s : State} {c : Nat} {bs : List Byte} {l : List Nat} (h : s.Canonical) :
    ({ s with mem := Memory.writeN s.mem c bs, poison := l } : State).Canonical := ⟨Memory.writeN_wf _ _ _ h.memoryOk⟩

theorem State.Canonical.applyWrite {s : State} {c : Nat} {x : BitVec 2} {bs : List Byte} (h : s.Canonical) :
    (s.applyWrite c x bs).Canonical := ⟨applyWrite_wf _ _ _ _ h.memoryOk⟩

theorem State.Canonical.setDirty {s : State} {first n : Nat} {e : W64} (h : s.Canonical) : (s.setDirty first e n).Canonical :=
  ⟨setDirty_wf _ _ _ _ h.memoryOk⟩

theorem State.Canonical.writeRun {s : State} {first n : Nat} {e : W64} (h : s.Canonical) : (s.writeRun first e n).Canonical :=
  ⟨writeRun_wf _ _ _ _ h.memoryOk⟩

theorem State.Canonical.rekey {s : State} {c : Nat} {k : Seal} (h : s.Canonical) : (s.rekey c k).Canonical := ⟨rekey_wf _ _ _ h.memoryOk⟩

theorem State.Canonical.copyPage {s : State} {a b n : Nat} {old new : Seal} (h : s.Canonical) : (s.copyPage a b n old new).Canonical :=
  ⟨copyPage_wf _ _ _ _ _ _ h.memoryOk⟩

/-! ## Setting a part of the state -/

section
variable {s : State} {n : Nat}

theorem State.Canonical.setGroup {g : Group} (h : s.Canonical) : (s.setGroup g).Canonical := h.of_mem rfl
theorem State.Canonical.setParcel {p : Parcel} (h : s.Canonical) : (s.setParcel p).Canonical := h.of_mem rfl
theorem State.Canonical.setLaunch {l : Launch} (h : s.Canonical) : (s.setLaunch l).Canonical := h.of_mem rfl
theorem State.Canonical.setPlacement {p : Placement} (h : s.Canonical) : (s.setPlacement p).Canonical := h.of_mem rfl
theorem State.Canonical.setCore {c : Core} (h : s.Canonical) : (s.setCore n c).Canonical := h.of_mem rfl
theorem State.Canonical.setPair {p : Pair} (h : s.Canonical) : (s.setPair n p).Canonical := h.of_mem rfl
theorem State.Canonical.setDie {d : Die} (h : s.Canonical) : (s.setDie n d).Canonical := h.of_mem rfl
theorem State.Canonical.setEngine {r : EngineRef} {x : Engine} (h : s.Canonical) : (s.setEngine r x).Canonical := h.of_mem rfl
theorem State.Canonical.setVf {v : Vf} (h : s.Canonical) : (s.setVf n v).Canonical := h.of_mem rfl
theorem State.Canonical.setLink {l : Link} (h : s.Canonical) : (s.setLink n l).Canonical := h.of_mem rfl
theorem State.Canonical.setPort {l : Link} (h : s.Canonical) : (s.setPort n l).Canonical := h.of_mem rfl
theorem State.Canonical.setLinkDir {l : LinkDir} (h : s.Canonical) : (s.setLinkDir n l).Canonical := h.of_mem rfl
theorem State.Canonical.fresh (h : s.Canonical) : s.fresh.1.Canonical := h.of_mem rfl
theorem State.Canonical.nextFree (h : s.Canonical) : s.nextFree.1.Canonical := h.of_mem rfl

end

theorem State.Canonical.crossNow {s : State} {c : Nat} {w : List Nat} (h : s.Canonical) : OptCanonical (s.crossNow c w) := by
  cases e : s.crossNow c w with
  | none => exact .none
  | some t =>
      obtain ⟨l, rfl⟩ := crossNow_frame e
      exact .some (h.of_mem rfl)

theorem State.Canonical.crossWays {s : State} {c : Nat} {ws : List (List Nat)} (h : s.Canonical) : OptCanonical (crossWays c ws s) := by
  cases e : Machine.crossWays c ws s with
  | none => exact .none
  | some t =>
      obtain ⟨l, rfl⟩ := crossWays_frame e
      exact .some (h.of_mem rfl)

/-! ## Changes that do not reach memory -/

section
variable {s : State}

theorem State.Canonical.withAcks {x : List Ack} (h : s.Canonical) : ({ s with acks := x } : State).Canonical := h.of_mem rfl
theorem State.Canonical.withActive {x : List Nat} (h : s.Canonical) : ({ s with active := x } : State).Canonical := h.of_mem rfl
theorem State.Canonical.withActiveDies {x1 : List Nat} {x2 : Tbl Die} (h : s.Canonical) : ({ s with active := x1, dies := x2 } : State).Canonical :=
  h.of_mem rfl
theorem State.Canonical.withAgenda {x : List Planned} (h : s.Canonical) : ({ s with agenda := x } : State).Canonical := h.of_mem rfl
theorem State.Canonical.withControl {x : Control} (h : s.Canonical) : ({ s with control := x } : State).Canonical := h.of_mem rfl
theorem State.Canonical.withCores {x : Tbl Core} (h : s.Canonical) : ({ s with cores := x } : State).Canonical := h.of_mem rfl
theorem State.Canonical.withCoresPairTlbsDies {x1 : Tbl Core} {x2 : Tbl (List TlbEntry)} {x3 : Tbl Die} (h : s.Canonical) :
    ({ s with cores := x1, pairTlbs := x2, dies := x3 } : State).Canonical :=
  h.of_mem rfl
theorem State.Canonical.withCoresPairsPairTlbsControl {x1 : Tbl Core} {x2 : Tbl Pair} {x3 : Tbl (List TlbEntry)} {x4 : Control} (h : s.Canonical)
    : ({ s with cores := x1, pairs := x2, pairTlbs := x3, control := x4 } : State).Canonical :=
  h.of_mem rfl
theorem State.Canonical.withCoresPairsPairTlbsEnginesJoinedControl {x1 : Tbl Core} {x2 : Tbl Pair} {x3 : Tbl (List TlbEntry)} {x4 : Tbl Engine}
    {x5 : List Participant} {x6 : Control} (h : s.Canonical) :
    ({ s with cores := x1, pairs := x2, pairTlbs := x3, engines := x4, joined := x5, control := x6 } : State).Canonical :=
  h.of_mem rfl
theorem State.Canonical.withDecls {x : List TvDecl} (h : s.Canonical) : ({ s with decls := x } : State).Canonical := h.of_mem rfl
theorem State.Canonical.withDies {x : Tbl Die} (h : s.Canonical) : ({ s with dies := x } : State).Canonical := h.of_mem rfl
theorem State.Canonical.withEngines {x : Tbl Engine} (h : s.Canonical) : ({ s with engines := x } : State).Canonical := h.of_mem rfl
theorem State.Canonical.withEnginesControl {x1 : Tbl Engine} {x2 : Control} (h : s.Canonical) :
    ({ s with engines := x1, control := x2 } : State).Canonical :=
  h.of_mem rfl
theorem State.Canonical.withFlits {x : List Flit} (h : s.Canonical) : ({ s with flits := x } : State).Canonical := h.of_mem rfl
theorem State.Canonical.withFree {x : Nat} (h : s.Canonical) : ({ s with free := x } : State).Canonical := h.of_mem rfl
theorem State.Canonical.withFreeControl {x1 : Nat} {x2 : Control} (h : s.Canonical) : ({ s with free := x1, control := x2 } : State).Canonical :=
  h.of_mem rfl
theorem State.Canonical.withGroups {x : List Group} (h : s.Canonical) : ({ s with groups := x } : State).Canonical := h.of_mem rfl
theorem State.Canonical.withGroupsParcels {x1 : List Group} {x2 : List Parcel} (h : s.Canonical) :
    ({ s with groups := x1, parcels := x2 } : State).Canonical :=
  h.of_mem rfl
theorem State.Canonical.withJoined {x : List Participant} (h : s.Canonical) : ({ s with joined := x } : State).Canonical := h.of_mem rfl
theorem State.Canonical.withLaunches {x : List Launch} (h : s.Canonical) : ({ s with launches := x } : State).Canonical := h.of_mem rfl
theorem State.Canonical.withLaunchesDiesPhasersControlReturns {x1 : List Launch} {x2 : Tbl Die} {x3 : Tbl Phaser} {x4 : Control}
    {x5 : List ListReturn} (h : s.Canonical) : ({ s with launches := x1, dies := x2, phasers := x3, control := x4, returns := x5 } :
    State).Canonical :=
  h.of_mem rfl
theorem State.Canonical.withNet {x : List HomeOp} (h : s.Canonical) : ({ s with net := x } : State).Canonical := h.of_mem rfl
theorem State.Canonical.withNetAcksFlitsDecls {x1 : List HomeOp} {x2 : List Ack} {x3 : List Flit} {x4 : List TvDecl} (h : s.Canonical) :
    ({ s with net := x1, acks := x2, flits := x3, decls := x4 } : State).Canonical :=
  h.of_mem rfl
theorem State.Canonical.withPairTlbs {x : Tbl (List TlbEntry)} (h : s.Canonical) : ({ s with pairTlbs := x } : State).Canonical :=
  h.of_mem rfl
theorem State.Canonical.withParcels {x : List Parcel} (h : s.Canonical) : ({ s with parcels := x } : State).Canonical := h.of_mem rfl
theorem State.Canonical.withPhasers {x : Tbl Phaser} (h : s.Canonical) : ({ s with phasers := x } : State).Canonical := h.of_mem rfl
theorem State.Canonical.withPlacements {x : List Placement} (h : s.Canonical) : ({ s with placements := x } : State).Canonical := h.of_mem rfl
theorem State.Canonical.withPoison {x : List Nat} (h : s.Canonical) : ({ s with poison := x } : State).Canonical := h.of_mem rfl
theorem State.Canonical.withReplies {x : List Reply} (h : s.Canonical) : ({ s with replies := x } : State).Canonical := h.of_mem rfl
theorem State.Canonical.withReturns {x : List ListReturn} (h : s.Canonical) : ({ s with returns := x } : State).Canonical := h.of_mem rfl
theorem State.Canonical.withTickCyclesTimeParcels {x1 : Nat} {x2 : Nat} {x3 : W64} {x4 : List Parcel} (h : s.Canonical) :
    ({ s with tick := x1, cycles := x2, time := x3, parcels := x4 } : State).Canonical :=
  h.of_mem rfl
theorem State.Canonical.withTurnsActive {x1 : List Nat} {x2 : List Nat} (h : s.Canonical) :
    ({ s with turns := x1, active := x2 } : State).Canonical :=
  h.of_mem rfl

end

end Sys2Proof.Machine
end

section
/-!
SUPPORT. Operations keep memory canonical (R86, log entry 2): the caches, addresses, faults, paths, quanta, lists and ends of groups.
-/
namespace Sys2Proof.Machine
open Sys2Proof

/-! ## Operations of Machine/Flits.lean -/

theorem State.Canonical.sendFlit {s : State} {u : Nat} {hops : List (Nat × Nat)} (h : s.Canonical) : (s.sendFlit u hops).Canonical := by
  unfold State.sendFlit
  dsimp only
  split
  · exact h
  · exact .withFlits (.ite h.setLinkDir h)

theorem State.Canonical.crossOne {s : State} {n c : Nat} (h : s.Canonical) : (s.crossOne n c).Canonical := by
  unfold State.crossOne
  split
  · exact h
  · exact h.withFlits.sendFlit

/-! ## Operations of Machine/Address.lean -/

theorem State.Canonical.touchL2 {s : State} {c : Nat} {y : BitVec 2} {write : Bool} (h : s.Canonical) : (s.touchL2 c y write).Canonical := by
  unfold State.touchL2
  dsimp only
  refine .ite h ?_
  split <;> exact h.setDie

theorem State.Canonical.writeBackLines {s : State} {ls : List L1Line} (h : s.Canonical) : (s.writeBackLines ls).Canonical := by
  unfold State.writeBackLines
  refine h.foldl fun _ _ h => ?_
  split
  · exact .ite h.withGroups h
  · exact h

theorem State.Canonical.placeL1 {s : State} {core : Nat} {rest : List L1Line} {x : L1Line} (h : s.Canonical) :
    (s.placeL1 core rest x).Canonical := by
  unfold State.placeL1
  dsimp only
  split
  · exact h.setCore
  · exact h.setCore.writeBackLines

theorem State.Canonical.fillL1 {s : State} {core cell : Nat} (h : s.Canonical) : (s.fillL1 core cell).Canonical := .ite h h.placeL1

theorem State.Canonical.updateL1 {s : State} {core cell : Nat} {bs : List Byte} (h : s.Canonical) : (s.updateL1 core cell bs).Canonical := h.setCore

theorem State.Canonical.touchPrivate {s : State} {core g byte : Nat} {write : Bool} (h : s.Canonical) :
    (s.touchPrivate core g byte write).Canonical := h.placeL1

theorem State.Canonical.touchWords {s : State} {g : Group} {bs : List Nat} {write : Bool} (h : s.Canonical) :
    (s.touchWords g bs write).Canonical := h.foldl fun _ _ h => h.touchPrivate

theorem State.Canonical.invalidateL1 {s : State} {core : Nat} (h : s.Canonical) : (s.invalidateL1 core).Canonical := h.setCore

theorem State.Canonical.wake {s : State} {u : Nat} {woken : Bool} (h : s.Canonical) : (s.wake u woken).Canonical := by
  unfold State.wake
  dsimp only
  split
  · exact h
  · exact .ite h.setGroup.withActive h.setGroup

theorem State.Canonical.wakeFrom {s : State} {n : Nat} {w : Watch} (h : s.Canonical) : (s.wakeFrom n w).Canonical := by
  unfold State.wakeFrom
  dsimp only
  split
  · exact h
  · exact .ite h.updateL1.wake h.updateL1.fresh.setGroup.sendFlit

theorem State.Canonical.wakeSlice {s : State} {die slice c n : Nat} (h : s.Canonical) : (s.wakeSlice die slice c n).Canonical :=
  .ite h (h.setDie.foldl fun _ _ h => h.wakeFrom)

theorem State.Canonical.wakeWatches {s : State} {c n : Nat} (h : s.Canonical) : (s.wakeWatches c n).Canonical := h.foldl fun _ _ h => h.wakeSlice

theorem State.Canonical.tlbFill {s : State} {core : Nat} {t : TlbEntry} (h : s.Canonical) : (s.tlbFill core t).Canonical :=
  h.setCore.withPairTlbs.setDie

theorem State.Canonical.walkFor {s : State} {core : Option Nat} {vf va : Nat} {k : Access} (h : s.Canonical) :
    (s.walkFor core vf va k).1.Canonical := by
  unfold State.walkFor
  dsimp only
  split
  · exact h
  · exact h
  · refine .ite_fst h ?_
    split
    · exact h
    · refine .rekey ?_
      split
      · exact .tlbFill (.ite h.setDirty h)
      · exact .ite h.setDirty h

theorem State.Canonical.translate {s : State} {core : Option Nat} {vf va : Nat} {k : Access} (h : s.Canonical) :
    (s.translate core vf va k).1.Canonical := by
  unfold State.translate
  dsimp only
  refine .ite_fst h ?_
  split
  · exact .ite_fst h.rekey h.walkFor
  · exact h.walkFor

theorem State.Canonical.object {s : State} {core : Option Nat} {vf obj : Nat} (h : s.Canonical) : (s.object core vf obj).1.Canonical := by
  unfold State.object
  dsimp only
  refine .ite_fst h ?_
  split
  · exact h
  · split
    · exact h
    · exact h.setCore

theorem State.Canonical.capCheck {s : State} {core : Option Nat} {vf : Nat} {c : Cap} {need a n align : Nat} (h : s.Canonical) :
    (s.capCheck core vf c need a n align).1.Canonical := by
  unfold State.capCheck
  refine .ite_fst h (.ite_fst h (.ite_fst h (.ite_fst h (.ite_fst h ?_))))
  split
  · rename_i e
    exact .of_fst e h.object
  · rename_i e
    exact .ite_fst (.of_fst e h.object) (.ite_fst (.of_fst e h.object) (.of_fst e h.object))

/-! ## Operations of Machine/Datum.lean -/

theorem State.Canonical.book {s : State} {kind die : BitVec 8} {block : BitVec 16} {data : W128} (h : s.Canonical) :
    (s.book kind die block data).Canonical := h.withControl

theorem State.Canonical.fireDatum {s : State} {src fclass : Nat} (h : s.Canonical) : (s.fireDatum src fclass).1.Canonical := h.withControl.book

/-! ## Operations of Machine/Faults.lean -/

theorem State.Canonical.recordCrosses {s : State} {r : FaultRecord} (h : s.Canonical) : OptCanonical (s.recordCrosses r) := by
  unfold State.recordCrosses
  split
  · exact .some h
  · exact .ite (.some h) h.crossNow

theorem State.Canonical.toRing {s : State} {vf : Nat} {r : FaultRecord} (h : s.Canonical) : (s.toRing vf r).Canonical :=
  (h.getD h.crossNow).setVf.applyWrite

theorem State.Canonical.post {s : State} {r : FaultRecord} (h : s.Canonical) : (s.post r).1.Canonical := by
  unfold State.post
  extract_lets sent s₁ v r s₂ s₃ d fires s₄ v'
  have h₁ : s₁.Canonical := h.getD (.ite h.recordCrosses .none)
  have h₄ : s₄.Canonical := .ite h₁.setVf.book.fireDatum h₁.setVf.book
  exact .ite_fst h₄.setVf.toRing (.ite_fst h₄.setVf h₄.setVf)

theorem State.Canonical.setRecord {s : State} {vf seq : Nat} {st : BitVec 2} (h : s.Canonical) : (s.setRecord vf seq st).Canonical := by
  unfold State.setRecord
  dsimp only
  split
  · exact .ite h.setVf.applyWrite h.setVf
  · exact h.setVf

theorem State.Canonical.closeRecords {s : State} {vf : Nat} {p : FaultRecord → Bool} {st : BitVec 2} (h : s.Canonical) :
    (s.closeRecords vf p st).Canonical := h.foldl fun _ _ h => h.setRecord

/-! ## Operations of Machine/Quantum.lean -/

theorem State.Canonical.applyAtomic {s : State} {c : Nat} {t : ElemType} {op : Nat} {v : W64} {cmp : Option W64} (h : s.Canonical) :
    (s.applyAtomic c t op v cmp).1.Canonical := h.applyWrite

theorem State.Canonical.sendOp {s : State} {o : HomeOp} {c : Nat} (h : s.Canonical) : (s.sendOp o c).Canonical := h.fresh.withNet.sendFlit

theorem State.Canonical.logFor {s : State} {g : Group} {rs : List LogRec} (h : s.Canonical) : (s.logFor g rs).Canonical := by
  unfold State.logFor
  dsimp only
  split
  · exact .ok h.setParcel
  · exact .stop h

theorem State.Canonical.translateEntries {s : State} {core vf : Nat} {l : Launch} {es : List StoreEntry} (h : s.Canonical) :
    (translateEntries core vf l s es).1.Canonical := by
  induction es generalizing s with
  | nil => exact h
  | cons x es ih =>
      unfold Machine.translateEntries
      dsimp only
      refine .ite_fst (ih h) ?_
      split <;> exact ih h.translate

theorem State.Canonical.sendStore {s : State} {g : Group} {z : StoreEntry} {vf cell : Nat} (h : s.Canonical) :
    (s.sendStore g z vf cell).1.Canonical := .ite_fst h.updateL1.applyWrite h.updateL1.sendOp

theorem State.Canonical.commitOne {s : State} {g : Group} {z : StoreEntry} {vf cell : Nat} {log waits : Bool} (h : s.Canonical) :
    (s.commitOne g z vf cell log waits).Canonical := by
  unfold State.commitOne
  dsimp only
  refine .ite (.ok h) (.ite h.logFor ?_)
  split
  · exact .stop h
  · exact .ok h.sendStore

theorem State.Canonical.commitAll {s : State} {vf : Nat} {log : Bool} {es : List (StoreEntry × Nat)} {g : Group} (h : s.Canonical) :
    (commitAll vf log es s g).Canonical := by
  induction es generalizing s g with
  | nil => exact .ok h
  | cons x es ih =>
      unfold Machine.commitAll
      exact h.commitOne.andThen fun _ _ h => ih h

theorem State.Canonical.touchOwn {s : State} {g : Group} {es : List StoreEntry} (h : s.Canonical) : (s.touchOwn g es).Canonical :=
  h.foldl fun _ _ h => h.touchWords

theorem State.Canonical.commit {s : State} {g : Group} {m : W64} (h : s.Canonical) : (s.commit g m).Canonical := by
  unfold State.commit
  dsimp only
  refine .ite (.ok h) (.ite (.stop h) ?_)
  split
  · exact .stop h.translateEntries
  · exact .stop h.translateEntries
  · split
    · rename_i e1
      exact .stop (.of_act_stop e1 h.translateEntries.touchOwn.commitAll)
    · rename_i e1
      exact .ok (.of_act_ok e1 h.translateEntries.touchOwn.commitAll)

theorem State.Canonical.quantumEnd {s : State} {g : Group} {k : PathSlot} (h : s.Canonical) : (s.quantumEnd g k).Canonical := by
  unfold State.quantumEnd
  split
  · exact .ok h
  · exact h.commit.andThen fun _ _ h => .ok h

theorem State.Canonical.markReleased {s : State} {u : Nat} (h : s.Canonical) : (s.markReleased u).Canonical := h.withNet

theorem State.Canonical.releaseWait {s : State} {g : Group} {sc : Nat} (h : s.Canonical) : (s.releaseWait g sc).Canonical := by
  unfold State.releaseWait
  refine .ite (.stop h) (.ite (.stop h) (.ite (.stop h) (.ite (.ok (.ite h.markReleased h)) (.ite (.stop h) ?_))))
  split
  · exact .stop h
  · exact .ok h

theorem State.Canonical.release {s : State} {g : Group} {k : PathSlot} {sc : Nat} (h : s.Canonical) : (s.release g k sc).Canonical :=
  h.quantumEnd.andThen fun _ _ h => h.releaseWait

theorem State.Canonical.acquire {s : State} {g : Group} {sc : Nat} (h : s.Canonical) : (s.acquire g sc).Canonical := .ite h.invalidateL1 h

/-! ## Operations of Machine/Lists.lean -/

theorem State.Canonical.setList {s : State} {c : Nat} {d : ListDesc} (h : s.Canonical) : (s.setList c d).Canonical := h.applyWrite

theorem State.Canonical.recordVa {s : State} {core : Option Nat} {vf : Nat} {d : ListDesc} {n : Nat} (h : s.Canonical) :
    (s.recordVa core vf d n).1.Canonical := by
  unfold State.recordVa
  split
  · rename_i e
    exact .of_fst e h.object
  · rename_i e
    exact .of_fst e h.object

theorem State.Canonical.recordCell {s : State} {core : Option Nat} {vf : Nat} {d : ListDesc} {n : Nat} {k : Access} (h : s.Canonical) :
    (s.recordCell core vf d n k).1.Canonical := by
  unfold State.recordCell
  split
  · rename_i e
    exact .translate (.of_fst e h.recordVa)
  · rename_i e
    exact .of_fst e h.recordVa

theorem State.Canonical.appendRecord {s : State} {core : Option Nat} {vf : Nat} {d : ListDesc} {r : W128} (h : s.Canonical) :
    (s.appendRecord core vf d r).1.Canonical := by
  unfold State.appendRecord
  split
  · rename_i e
    exact .applyWrite (.of_fst e h.recordCell)
  · rename_i e e
    exact .of_fst e h.recordCell

theorem State.Canonical.restoreRecords {s : State} {vf n : Nat} {d : ListDesc} {rs : List W128} (h : s.Canonical) :
    OptCanonical (restoreRecords vf d s n rs) := by
  induction rs generalizing s n with
  | nil => exact .some h
  | cons r rs ih =>
      unfold Machine.restoreRecords
      split
      · rename_i e
        exact ih (.applyWrite (.of_fst e h.recordCell))
      · exact .none

theorem State.Canonical.tryReturn {s : State} {x : ListReturn} (h : s.Canonical) : OptCanonical (s.tryReturn x) := by
  unfold State.tryReturn
  dsimp only
  split
  · rename_i e
    exact .map (State.Canonical.restoreRecords (.of_fst e h.translate)) fun _ h => h.setList
  · exact .none

theorem State.Canonical.returnList {s : State} {x : ListReturn} (h : s.Canonical) : (s.returnList x).Canonical := h.withReturns.getD h.tryReturn

theorem State.Canonical.retryReturns {s : State} (h : s.Canonical) : s.retryReturns.Canonical := h.withReturns.foldl fun _ _ h => h.returnList

theorem State.Canonical.undoList {s : State} {vf : Nat} {p : Parcel} {list : Nat} (h : s.Canonical) : (s.undoList vf p list).Canonical :=
  h.returnList

theorem State.Canonical.undoLists {s : State} {vf : Nat} {p : Parcel} (h : s.Canonical) : (s.undoLists vf p).Canonical :=
  h.foldl fun _ _ h => h.undoList

theorem State.Canonical.settleLists {s : State} {vf : Nat} {p : Parcel} (h : s.Canonical) : (s.settleLists vf p).Canonical :=
  h.foldl fun _ _ h => h.returnList

theorem State.Canonical.setPhaser {s : State} {g : Group} {pkg : Bool} {n : Nat} {p : Phaser} (h : s.Canonical) :
    (s.setPhaser g pkg n p).Canonical := .ite h.withPhasers h.setParcel

theorem State.Canonical.phaserTest {s : State} {g : Group} {pkg : Bool} {n : Nat} {p : Phaser} (h : s.Canonical) :
    (s.phaserTest g pkg n p).1.Canonical := .ite_fst h.setPhaser.withGroups h.setPhaser

theorem State.Canonical.dropRoles {s : State} {g : Group} {pkg : Bool} {n : Nat} {sig wait : Bool} (h : s.Canonical) :
    (s.dropRoles g pkg n sig wait).1.Canonical := h.phaserTest

theorem State.Canonical.dropAllRoles {s : State} {g : Group} (h : s.Canonical) : (s.dropAllRoles g).1.Canonical :=
  h.foldl_fst fun _ _ h => h.dropRoles

/-! ## Operations of Machine/Ends.lean -/

theorem State.Canonical.noteBacklog {s : State} {vf n : Nat} (h : s.Canonical) : (s.noteBacklog vf n).Canonical := h.setVf

theorem State.Canonical.atHead {s : State} {vf n : Nat} {es : List HeadEntry} (h : s.Canonical) : (s.atHead vf n es).Canonical :=
  h.setVf.noteBacklog

theorem State.Canonical.requeue {s : State} {vf n launch core : Nat} {bs : List Box} (h : s.Canonical) :
    (s.requeue vf n launch core bs).Canonical := h.setVf.noteBacklog

theorem State.Canonical.giveBack {s : State} {k : Kernel} {core : Nat} {lead running : Bool} (h : s.Canonical) :
    (s.giveBack k core lead running).Canonical := h.setCore

theorem State.Canonical.returnUnits {s : State} {u y : Nat} {t : Tile} (h : s.Canonical) : (s.returnUnits u y t).Canonical :=
  .ite h.setDie h.setCore

theorem State.Canonical.releaseTiles {s : State} {p core : Nat} (h : s.Canonical) : (s.releaseTiles p core).Canonical := .ite h.setPair h

theorem State.Canonical.releaseParcel {s : State} {p : Parcel} {running : Bool} (h : s.Canonical) : (s.releaseParcel p running).Canonical := by
  unfold State.releaseParcel
  dsimp only
  refine .releaseTiles (.setDie (.foldl (.ite h.giveBack.giveBack h.giveBack) fun _ _ h => ?_))
  split
  · exact h.returnUnits
  · exact h

theorem State.Canonical.forgetGroups {s : State} {mine : Nat → Bool} (h : s.Canonical) : (s.forgetGroups mine).Canonical := h.withActiveDies

theorem State.Canonical.dropDecls {s : State} {p : Nat} (h : s.Canonical) : (s.dropDecls p).Canonical := h.withDecls

theorem State.Canonical.dropCards {s : State} {p core : Nat} {all : Bool} (h : s.Canonical) : (s.dropCards p core all).Canonical := h.setPair

theorem State.Canonical.failLaunch {s : State} {u : Nat} (h : s.Canonical) : (s.failLaunch u).Canonical := by
  unfold State.failLaunch
  dsimp only
  split
  · exact h
  · exact h.setLaunch.setVf.noteBacklog

theorem State.Canonical.dropHead {s : State} {vf n u : Nat} (h : s.Canonical) : (s.dropHead vf n u).Canonical := .ite h.setVf.noteBacklog h

theorem State.Canonical.dropPrivate {s : State} {core g : Nat} (h : s.Canonical) : (s.dropPrivate core g).Canonical := h.setCore

theorem State.Canonical.dropPrivates {s : State} {p : Nat} (h : s.Canonical) : (s.dropPrivates p).Canonical := h.foldl fun _ _ h => h.dropPrivate

theorem State.Canonical.discardParcel {s : State} {p : Parcel} (h : s.Canonical) : (s.discardParcel p).Canonical :=
  h.closeRecords.undoLists.forgetGroups.dropDecls.dropCards.withEngines.releaseParcel.dropPrivates.withGroupsParcels

theorem State.Canonical.abortParcel {s : State} {u trigger : Nat} (h : s.Canonical) : (s.abortParcel u trigger).Canonical := by
  unfold State.abortParcel
  dsimp only
  split
  · exact h
  · refine .ite h (.ite (.ite h.discardParcel h.discardParcel.requeue) ?_)
    split
    · exact .ite h.discardParcel h.discardParcel.requeue
    · exact h.discardParcel.post.failLaunch

theorem State.Canonical.satisfyClaims {s : State} {u core n : Nat} (h : s.Canonical) : (satisfyClaims u core n s).Canonical := by
  induction n generalizing s with
  | zero => exact h
  | succ n ih =>
      unfold Machine.satisfyClaims
      dsimp only
      split
      · exact h
      · split
        · exact h
        · split
          · exact h
          · exact .ite h (ih h.setParcel.setGroup)

theorem State.Canonical.returnBlocks {s : State} {u core n : Nat} (h : s.Canonical) : (s.returnBlocks u core n).Canonical := by
  unfold State.returnBlocks
  split
  · exact h
  · exact h.setParcel.satisfyClaims

theorem State.Canonical.dueClaims {s : State} {p : Parcel} (h : s.Canonical) : (s.dueClaims p).Canonical := h.foldl fun _ _ h => h.satisfyClaims

theorem State.Canonical.endParcel {s : State} {u : Nat} {except : Option Nat} (h : s.Canonical) : (s.endParcel u except).Canonical := by
  unfold State.endParcel
  dsimp only
  split
  · exact h
  · refine .ite h (.dropHead (.failLaunch ?_))
    split
    · exact .setParcel (.dropCards (.dropDecls (.withGroups (.forgetGroups
        (.foldl (.ite h.closeRecords.undoLists h.closeRecords.settleLists) fun _ _ h => h.dropAllRoles.setGroup.dropPrivate)))))
    · exact .dropCards (.dropDecls (.withGroups (.forgetGroups
        (.foldl (.ite h.closeRecords.undoLists h.closeRecords.settleLists) fun _ _ h => h.dropAllRoles.setGroup.dropPrivate))))

theorem State.Canonical.faultEnds {s : State} {g : Group} {f : FaultInfo} {clause : W32} {slot : Nat} (h : s.Canonical) :
    (s.faultEnds g f clause slot).Canonical := h.post.endParcel

theorem State.Canonical.deadlockCheck {s : State} {u core : Nat} (h : s.Canonical) : (s.deadlockCheck u core).Canonical := by
  unfold State.deadlockCheck
  dsimp only
  refine .ite h ?_
  split
  · exact h
  · exact .ite h.abortParcel h.post.endParcel

theorem State.Canonical.endGroup {s : State} {g : Group} (h : s.Canonical) : (s.endGroup g).Canonical :=
  h.dropAllRoles.setGroup.dropPrivate.forgetGroups.returnBlocks.deadlockCheck

/-! ## Operations of Machine/Ops.lean -/

theorem State.Canonical.trap {c : Ctx} {f : FaultInfo} (h : c.s.Canonical) : (c.trap f).Canonical := .stop h

theorem State.Canonical.block {c : Ctx} {w : Wait} (h : c.s.Canonical) : (c.block w).Canonical := .stop h

theorem State.Canonical.skip {c : Ctx} (h : c.s.Canonical) : c.skip.Canonical := .done h

theorem State.Canonical.stopNow {s : State} {g : Group} {f : FaultInfo} {clause : W32} {slot : Nat} {posted : Option Nat} (h : s.Canonical) :
    (s.stopNow g f clause slot posted).Canonical := .ite h.setGroup (.ite h.setGroup h.post.setGroup)

theorem State.Canonical.rest {s : State} {g : Group} (h : s.Canonical) : (s.rest g).Canonical := h.withActive

theorem State.Canonical.parkGroup {s : State} {g : Group} {f : FaultInfo} {clause : W32} {slot : Nat} (h : s.Canonical) :
    (s.parkGroup g f clause slot).Canonical := h.post.setGroup.rest

theorem State.Canonical.takeFault {s : State} {g : Group} {f : FaultInfo} {clause : W32} {slot : Nat} {posted : Option Nat} (h : s.Canonical) :
    (s.takeFault g f clause slot posted).Canonical := by
  unfold State.takeFault
  split
  · exact h.parkGroup
  · exact .ite h.setGroup.endParcel h.setGroup.faultEnds
  · exact h.post.setGroup
  · exact .ite h.setGroup.abortParcel (.ite h.stopNow.rest h.setGroup.rest)

theorem State.Canonical.takeLate {s : State} {g : Group} {f : LateFault} (h : s.Canonical) : (s.takeLate g f).Canonical := h.takeFault

theorem State.Canonical.resumeGroup {s : State} {g : Group} {slot : Nat} {noMatch : Bool} (h : s.Canonical) :
    (s.resumeGroup g slot noMatch).Canonical := by
  unfold State.resumeGroup
  dsimp only
  split
  · exact h.setGroup
  · exact h.setGroup.withActive

theorem State.Canonical.resumeBreak {s : State} {g : Group} (h : s.Canonical) : (s.resumeBreak g).Canonical := .ite h.resumeGroup h.resumeGroup

theorem State.Canonical.joinOps {s : State} {u : Nat} {m : W64} (h : s.Canonical) : (s.joinOps u m).Canonical := h.withNet

theorem State.Canonical.leaveClause {s : State} {g : Group} {r : ClauseRun} {dest : Goto} (h : s.Canonical) :
    (s.leaveClause g r dest).Canonical := by
  unfold State.leaveClause
  dsimp only
  refine .ite h.dropAllRoles.setGroup.dropPrivate.forgetGroups ?_
  split
  · exact h.setGroup.rest
  · split
    · exact h.takeFault
    · split
      · exact (h.foldl fun _ _ h => h.joinOps).rest.takeLate
      · exact (h.foldl fun _ _ h => h.joinOps).setGroup.rest

theorem State.Canonical.stopSlot {s : State} {g : Group} {st : Stop} (h : s.Canonical) : (s.stopSlot g st).Canonical := by
  unfold State.stopSlot
  dsimp only
  split
  · exact h.setGroup.rest
  · exact h.parkGroup
  · exact h.takeFault
  · exact h.takeLate
  · exact h.setGroup.abortParcel

theorem State.Canonical.endClause {s : State} {g : Group} (h : s.Canonical) : (s.endClause g).Canonical := by
  unfold State.endClause
  dsimp only
  split
  · exact h.setGroup
  · split
    · exact h.setGroup
    · split
      · rename_i e2
        exact .leaveClause (.of_act_ok e2 (.ite h.quantumEnd (.ok h)))
      · rename_i e2
        exact .stopSlot (.of_act_stop e2 (.ite h.quantumEnd (.ok h)))

theorem State.Canonical.finishSlot {s : State} {g : Group} {latch : Option (Tbl W64)} {goto : Option Goto} (h : s.Canonical) :
    (s.finishSlot g latch goto).Canonical := by
  unfold State.finishSlot
  dsimp only
  split
  · exact h.setGroup
  · exact .ite h.endClause h.setGroup

theorem State.Canonical.slotEnd {x : Slot} (h : x.Canonical) : (slotEnd x).Canonical := by
  cases h with
  | done h => exact h.finishSlot
  | stop h => exact h.stopSlot

/-- A slot keeps the canonical form if its meaning does (R426). -/
theorem State.Canonical.runSlot {s : State} {body : Ctx → Slot} (h : s.Canonical) (hb : ∀ c, c.s.Canonical → (body c).Canonical) :
    NextCanonical (runSlot s body) := by
  unfold Machine.runSlot
  split
  · exact .next h
  · rename_i c e
    have hc : c.s.Canonical := by rw [State.running_state e]; exact h
    split
    · exact .next (.slotEnd (.stop hc))
    · exact .next (.slotEnd (hb c hc))

end Sys2Proof.Machine
end

section
/-!
SUPPORT. Operations keep memory canonical (R86, log entry 2): operands, accesses, synchronisation, grants, tiles and launches.
-/
namespace Sys2Proof.Machine
open Sys2Proof

/-! ## Operations of Machine/Operands.lean -/

theorem State.Canonical.precise {r : Slot} {c : Ctx} {b : Bool} (h : r.Canonical) (h1 : c.s.Canonical) : (r.precise c b).Canonical := by
  unfold Slot.precise
  split
  · exact .ite h1.trap h
  · exact h

theorem State.Canonical.put {c : Ctx} {s : State} {g : Group} (h : s.Canonical) : (c.put s g).s.Canonical := h

/-- The entry of a slot keeps the canonical form if what follows does (R245). -/
theorem State.Canonical.enter {c : Ctx} {o : Start} {m : W64} {nw : Bool} {dsts srcs : List Use} {captures : Bool}
    {body : Ctx → Group → List Src → Slot} (h : c.s.Canonical)
    (hb : ∀ c g xs, c.s.Canonical → (body c g xs).Canonical) : (c.enter o m nw dsts srcs captures body).Canonical := by
  unfold Ctx.enter
  dsimp only
  refine .ite (.done h) ?_
  split
  · exact h.trap
  · refine .ite h.block (.ite (.ite (h.quantumEnd.slot fun _ _ h' => State.Canonical.precise (.done h') h) (.done h)) ?_)
    split
    · exact h.trap
    · refine .ite h.block ?_
      split
      · exact h.trap
      · split
        · exact .stop h
        · refine .ite (h.quantumEnd.slot fun s g h' => State.Canonical.precise ?_ h) ?_
          · split
            · exact .stop h'
            · split
              · exact .stop h'
              · split
                · exact .stop h'
                · exact hb _ _ _ h'.put
          · split
            · exact .stop h
            · split
              · exact .stop h
              · split
                · exact .stop h
                · exact hb _ _ _ h.put

theorem State.Canonical.entry {c : Ctx} {z : W64} {nw : Bool} {dsts srcs : List Use} {captures : Bool} {body : Ctx → Group → List Src → Slot}
    (h : c.s.Canonical) (hbody : ∀ c g1 x2, c.s.Canonical → (body c g1 x2).Canonical) : (c.entry z nw dsts srcs captures body).Canonical :=
  h.enter fun _ _ _ h => hbody _ _ _ h

theorem State.Canonical.result {c : Ctx} {g : Group} {z : W64} {dst : Operand} {nw : Bool} {p : Pfx} {vec : Bool} {r : Res} (h : c.s.Canonical) :
    (c.result g z dst nw p vec r).Canonical := .done h

/-! ## Operations of Machine/Flags.lean -/

theorem State.Canonical.laneSlot {c : Ctx} {f : VForm} {engine : Nat} {t : ElemType} {srcs : List Use} {op : FEnv → List W64 → List El}
    (h : c.s.Canonical) : (c.laneSlot f engine t srcs op).Canonical := by
  unfold Ctx.laneSlot
  dsimp only
  refine h.entry fun _ _ _ h => ?_
  split
  · exact h.trap
  · exact h.result

theorem State.Canonical.pathSlot {c : Ctx} {f : VForm} {t : ElemType} {srcs : List Use} {op : FEnv → List W64 → List El} (h : c.s.Canonical) :
    (c.pathSlot f t srcs op).Canonical := by
  unfold Ctx.pathSlot
  dsimp only
  refine h.entry fun _ _ _ h => ?_
  split
  · exact h.trap
  · exact h.result

theorem State.Canonical.vecElems {c : Ctx} {f : VForm} {n : Nat} {op : FEnv → List Nat → El} (h : c.s.Canonical) :
    (c.vecElems f n op).Canonical := h.laneSlot

theorem State.Canonical.scalElems {c : Ctx} {f : VForm} {n : Nat} {op : FEnv → List Nat → El} (h : c.s.Canonical) :
    (c.scalElems f n op).Canonical := h.pathSlot

theorem State.Canonical.vecWhole {c : Ctx} {f : VForm} {n : Nat} {op : List W64 → W64} (h : c.s.Canonical) : (c.vecWhole f n op).Canonical :=
  h.entry fun _ _ _ h => h.result

theorem State.Canonical.scalWhole {c : Ctx} {f : VForm} {n : Nat} {op : List W64 → W64} (h : c.s.Canonical) : (c.scalWhole f n op).Canonical :=
  h.entry fun _ _ _ h => h.result

theorem State.Canonical.pend {c : Ctx} {s : State} {kind : PendKind} {ty : ElemType} {dst : PendDst} {lanes : List (Nat × LaneSource)}
    {latch hold : Bool} (h : s.Canonical) : (c.pend s kind ty dst lanes latch hold).1.Canonical := h.fresh

theorem State.Canonical.sfuSlot {c : Ctx} {f : VForm} {n : Nat} {op : FEnv → List Nat → El} (h : c.s.Canonical) :
    (c.sfuSlot f n op).Canonical := by
  unfold Ctx.sfuSlot
  dsimp only
  refine h.entry fun _ _ _ h => ?_
  split
  · exact h.trap
  · split
    · exact .done h.pend
    · exact h.result

theorem State.Canonical.maskResult {c : Ctx} {g : Group} {z : W64} {kd : Nat} {nw : Bool} {bits : W64} (h : c.s.Canonical) :
    (c.maskResult g z kd nw bits).Canonical := .done h

theorem State.Canonical.maskSlot {c : Ctx} {f : VForm} {srcs : List Use} {body : Ctx → W64 → List Src → W64} (h : c.s.Canonical) :
    (c.maskSlot f srcs body).Canonical := by
  unfold Ctx.maskSlot
  dsimp only
  split
  · exact h.trap
  · exact h.entry fun _ _ _ h => h.maskResult

/-! ## Operations of Machine/Accesses.lean -/

theorem State.Canonical.capLanes {s : State} {core vf reg : Nat} {k : Cap} {need n align : Nat} {ps : List (Nat × Nat)} (h : s.Canonical) :
    (capLanes core vf reg k need n align s ps).1.Canonical := by
  induction ps generalizing s with
  | nil => exact h
  | cons p ps ih =>
      unfold Machine.capLanes
      split
      · rename_i e
        exact .of_fst e h.capCheck
      · rename_i e
        have h' := State.Canonical.of_fst e h.capCheck
        split
        all_goals
          rename_i e'
          exact .of_fst e' (ih h')

theorem State.Canonical.transLanes {s : State} {core vf : Nat} {k : Access} {ps : List (Nat × Nat)} (h : s.Canonical) :
    (transLanes core vf k s ps).1.Canonical := by
  induction ps generalizing s with
  | nil => exact h
  | cons p ps ih =>
      unfold Machine.transLanes
      exact ih h.translate

theorem State.Canonical.resolve {c : Ctx} {kind : Access} {reg : Nat} {k : Cap} {need n align : Nat} {pts : List (Nat × Nat)} (h : c.s.Canonical) :
    (c.resolve kind reg k need n align pts).1.Canonical := by
  unfold Ctx.resolve
  dsimp only
  split
  · rename_i e
    exact .of_fst e h.capLanes
  · rename_i e
    split <;> exact .transLanes (.of_fst e h.capLanes)

theorem State.Canonical.resolveSpan {c : Ctx} {covered : Bool} {kind : Access} {reg : Nat} {k : Cap} {need a n align lane : Nat}
    (h : c.s.Canonical) : (c.resolveSpan covered kind reg k need a n align lane).1.Canonical := by
  unfold Ctx.resolveSpan
  dsimp only
  split
  · rename_i e
    exact .of_fst e h.capLanes
  · rename_i e
    split <;> exact .transLanes (.of_fst e h.capLanes)

theorem State.Canonical.readCached {s : State} {core cell n : Nat} {hint : BitVec 2} (h : s.Canonical) :
    (s.readCached core cell n hint).1.Canonical := by
  unfold State.readCached
  split
  · exact h
  · exact h.touchL2.fillL1

theorem State.Canonical.readHome {s : State} {cell n : Nat} {hint : BitVec 2} (h : s.Canonical) : (s.readHome cell n hint).1.Canonical := h.touchL2

theorem State.Canonical.crossReads {s : State} {g : Group} {cached : Bool} {out : Nat} {xs : List LaneAcc} (h : s.Canonical) :
    OptCanonical (crossReads g cached out xs s) := by
  induction xs generalizing s with
  | nil => exact .some h
  | cons x xs ih =>
      unfold Machine.crossReads
      exact .ite (ih h) (h.crossNow.bind fun _ h' => h'.crossNow.bind fun _ h => ih h)

theorem State.Canonical.readNow {s : State} {g : Group} {cached : Bool} {out n : Nat} {as : List LaneAcc} (h : s.Canonical) :
    OkCanonical (s.readNow g cached out n as) := by
  unfold State.readNow
  split
  · exact .error
  · split
    · rename_i e₁
      exact .ok (.of_some e₁ h.crossReads)
    · exact .error

theorem State.Canonical.dataFault {s : State} {g : Group} {f : FaultInfo} {clause : W32} {slot : Nat} (h : s.Canonical) :
    (s.dataFault g f clause slot).Canonical := .ite h.takeLate h.setGroup

theorem State.Canonical.sendAtomic {s : State} {g : Group} {x : LaneAcc} {t : ElemType} {op : Nat} {v : W64} {cmp : Option W64}
    {ret : Option (Nat × Nat)} {vf : Nat} {clause : W32} {slot : Nat} (h : s.Canonical) :
    (s.sendAtomic g x t op v cmp ret vf clause slot).1.Canonical := h.sendOp

/-! ## Operations of Machine/Memory.lean -/

theorem State.Canonical.issueLoad {c : Ctx} {s : State} {g : Group} {t : ElemType} {dst : PendDst} {src : List (Nat × LaneSource)}
    {hint : BitVec 2} {one : Bool} (h : s.Canonical) : (c.issueLoad s g t dst src hint one).Canonical := by
  unfold Ctx.issueLoad
  dsimp only
  exact .ite (.stop h) (.ite (.stop h) (.done (h.pend.foldl fun _ _ h => h.sendFlit)))

theorem State.Canonical.acquireLoad {c : Ctx} {s : State} {f : MForm} {z : W64} {vec : Bool} {xs : List LaneAcc} (h : s.Canonical) :
    (c.acquireLoad s f z vec xs).Canonical := by
  unfold Ctx.acquireLoad
  dsimp only
  split
  · exact .stop h
  · rename_i e
    have h' := State.Canonical.of_ok e h.readNow
    split
    · exact .stop h'
    · exact State.Canonical.result (.acquire (.foldl_fst h' fun _ _ h => .ite_fst h.readCached h.readHome))

theorem State.Canonical.loadSlot {c : Ctx} {f : MForm} {vec : Bool} {k ik : Kinds} (h : c.s.Canonical) : (c.loadSlot f vec k ik).Canonical := by
  unfold Ctx.loadSlot
  dsimp only
  refine h.enter fun _ _ _ h => .ite ?_ ?_
  · split
    · exact h.trap
    · exact h.touchWords.issueLoad
  · split
    · rename_i e
      exact .stop (.of_fst e h.resolve)
    · rename_i e
      have h' := State.Canonical.of_fst e h.resolve
      exact .ite h'.acquireLoad h'.issueLoad

theorem State.Canonical.execLd {f : MForm} {s : State} (h : s.Canonical) : NextCanonical (execLd f s) := h.runSlot fun _ h => h.loadSlot

theorem State.Canonical.execLds {f : MForm} {s : State} (h : s.Canonical) : NextCanonical (execLds f s) := h.runSlot fun _ h => h.loadSlot

theorem State.Canonical.applyStores {s : State} {vf : Nat} {log : Bool} {es : List (StoreEntry × Nat)} {g : Group} (h : s.Canonical) :
    (applyStores vf log es s g).Canonical := by
  induction es generalizing s g with
  | nil => exact .ok h
  | cons x es ih =>
      unfold Machine.applyStores
      exact h.commitOne.andThen fun _ _ h => ih h

theorem State.Canonical.storeSlot {c : Ctx} {f : MForm} {vec : Bool} {k ik : Kinds} (h : c.s.Canonical) : (c.storeSlot f vec k ik).Canonical := by
  unfold Ctx.storeSlot
  dsimp only
  refine h.enter fun _ _ _ h => .ite ?_ ?_
  · split
    · exact h.trap
    · refine .ite (.done h) ?_
      split
      · rename_i e₁
        exact .stop (.of_act_stop e₁ h.releaseWait)
      · rename_i e₁
        have h' := State.Canonical.of_act_ok e₁ h.releaseWait
        refine .ite (.stop h') ?_
        split
        · exact .stop h'
        · exact h'.touchOwn.applyStores.slot fun _ _ h => .done h
  · split
    · rename_i e
      exact .stop (.of_fst e h.resolve)
    · rename_i e
      have h' := State.Canonical.of_fst e h.resolve
      refine .ite (.done h') ?_
      split
      · rename_i e₁
        exact .stop (.of_act_stop e₁ h'.releaseWait)
      · rename_i e₁
        have h'' := State.Canonical.of_act_ok e₁ h'.releaseWait
        refine .ite (.stop h'') ?_
        split
        · exact .stop h''
        · exact h''.touchOwn.applyStores.slot fun _ _ h => .done h

theorem State.Canonical.execSt {f : MForm} {s : State} (h : s.Canonical) : NextCanonical (execSt f s) := h.runSlot fun _ h => h.storeSlot

theorem State.Canonical.execSts {f : MForm} {s : State} (h : s.Canonical) : NextCanonical (execSts f s) := h.runSlot fun _ h => h.storeSlot

theorem State.Canonical.execLdp {f : MForm} {s : State} (h : s.Canonical) : NextCanonical (execLdp f s) := by
  unfold Machine.execLdp
  dsimp only
  refine h.runSlot fun _ h' => h'.enter fun _ _ _ h => ?_
  split
  · exact h.trap
  · exact h.touchWords.issueLoad

theorem State.Canonical.execStp {f : MForm} {s : State} (h : s.Canonical) : NextCanonical (execStp f s) := by
  unfold Machine.execStp
  dsimp only
  refine h.runSlot fun _ h' => h'.enter fun _ _ _ h => ?_
  split
  · exact h.trap
  · exact .done h

theorem State.Canonical.execCnarrow {f : MForm} {s : State} (h : s.Canonical) : NextCanonical (execCnarrow f s) := by
  unfold Machine.execCnarrow
  dsimp only
  refine h.runSlot fun _ h' => h'.enter fun _ _ _ h => .ite h.trap ?_
  split
  · exact h.trap
  · refine .ite h.trap (.ite h.trap ?_)
    split
    · exact h.trap
    · exact .done h

theorem State.Canonical.saveAccess {c : Ctx} {f : MForm} {write : Bool} {body : Ctx → Group → Nat → Slot} (h : c.s.Canonical)
    (hbody : ∀ c g1 x2, c.s.Canonical → (body c g1 x2).Canonical) : (c.saveAccess f write body).Canonical := by
  unfold Ctx.saveAccess
  dsimp only
  refine h.enter fun _ _ _ h => ?_
  split
  · exact h.trap
  · exact hbody _ _ _ h.touchPrivate

theorem State.Canonical.execCsave {f : MForm} {s : State} (h : s.Canonical) : NextCanonical (execCsave f s) :=
  h.runSlot fun _ h' => h'.saveAccess fun _ _ _ h => .done h

theorem State.Canonical.execCload {f : MForm} {s : State} (h : s.Canonical) : NextCanonical (execCload f s) :=
  h.runSlot fun _ h' => h'.saveAccess fun _ _ _ h => .ite h.trap (.done h)

/-- The atomics of a subdivisible parcel go to its log, whose state stays canonical where it is full too (R102). -/
theorem State.Canonical.logAtomics {s : State} {t : ElemType} {op : Nat} {v : Src} {cmp : Option Src} {xs : List LaneAcc} {g : Group}
    {out : List (Nat × W64)} (h : s.Canonical) :
    (∀ u k r, logAtomics t op v cmp xs s g out = .error (u, k, r) → u.Canonical) ∧
      ∀ u k l, logAtomics t op v cmp xs s g out = .ok (u, k, l) → u.Canonical := by
  induction xs generalizing s g out with
  | nil =>
      rw [Machine.logAtomics]
      refine ⟨fun u k r e => ?_, fun u k l e => ?_⟩
      · cases e
      · injection e with e
        injection e with e
        rw [← e]
        exact h
  | cons x xs ih =>
      rw [Machine.logAtomics]
      split
      · rename_i e
        refine ⟨fun u k r e' => ?_, fun u k l e' => ?_⟩
        · injection e' with e'
          injection e' with e'
          rw [← e']
          exact .of_act_stop e h.logFor
        · cases e'
      · rename_i e
        exact ih (.of_act_ok e h.logFor)

theorem State.Canonical.applyAtomics {s : State} {core : Nat} {t : ElemType} {op : Nat} {v : Src} {cmp : Option Src} {xs : List LaneAcc}
    {out : List (Nat × W64)} (h : s.Canonical) : (applyAtomics core t op v cmp xs s out).1.Canonical := by
  induction xs generalizing s out with
  | nil => exact h
  | cons x xs ih =>
      unfold Machine.applyAtomics
      exact ih h.applyAtomic.updateL1

theorem State.Canonical.atomicSlot {c : Ctx} {f : MForm} {op : Nat} {ofs : Int} {dsts srcs : List Use} {ret : Bool}
    {args : List Src → Src × Option Src × List Src} (h : c.s.Canonical) : (c.atomicSlot f op ofs dsts srcs ret args).Canonical := by
  unfold Ctx.atomicSlot
  dsimp only
  refine h.enter fun _ _ _ h => ?_
  split
  · rename_i e
    exact .stop (.of_fst e h.resolve)
  · rename_i e
    have h' := State.Canonical.of_fst e h.resolve
    split
    · rename_i e'
      exact .stop (.of_act_stop e' (.ite h'.releaseWait (.ok h')))
    · rename_i e'
      have h := State.Canonical.of_act_ok e' (.ite h'.releaseWait (.ok h'))
      refine .ite (.stop h) (.ite (.stop h) (.ite ?_ (.ite ?_ ?_)))
      · split
        · rename_i e
          exact .stop (h.logAtomics.1 _ _ _ e)
        · rename_i e
          have h' := h.logAtomics.2 _ _ _ e
          exact .ite (State.Canonical.issueLoad (.ite h'.acquire h')) (.done (.ite h'.acquire h'))
      · split
        · exact .stop h
        · rename_i e
          have h' := State.Canonical.of_ok e h.readNow
          split
          · exact .stop h'
          · exact .ite h'.applyAtomics.acquire.result (.done h'.applyAtomics.acquire)
      · split
        · exact .stop h
        · exact .ite (.done (.foldl_fst h.fresh fun _ _ h => h.sendAtomic)) (.done (.foldl_fst h.fresh fun _ _ h => h.sendAtomic))

theorem State.Canonical.execAtom {f : MForm} {s : State} (h : s.Canonical) : NextCanonical (execAtom f s) := h.runSlot fun _ h => h.atomicSlot

theorem State.Canonical.execAtomr {f : MForm} {s : State} (h : s.Canonical) : NextCanonical (execAtomr f s) := h.runSlot fun _ h => h.atomicSlot

theorem State.Canonical.execCas {f : MForm} {s : State} (h : s.Canonical) : NextCanonical (execCas f s) := h.runSlot fun _ h => h.atomicSlot

/-! ## Operations of Machine/Sync.lean -/

theorem State.Canonical.execFence {f : VForm} {s : State} (h : s.Canonical) : NextCanonical (execFence f s) := by
  unfold Machine.execFence
  dsimp only
  exact h.runSlot fun _ h' => h'.enter fun _ _ _ h'' => Act.Canonical.slot (.ite h''.releaseWait (.ok h'')) fun _ _ h => .ite
      (.ite (.done h.acquire) (.stop h)) (.done h)

theorem State.Canonical.addWatch {s : State} {w : Watch} (h : s.Canonical) : (s.addWatch w).1.Canonical := .ite_fst h.setDie h.setDie

theorem State.Canonical.execWaitc {f : MForm} {s : State} (h : s.Canonical) : NextCanonical (execWaitc f s) := by
  unfold Machine.execWaitc
  dsimp only
  refine h.runSlot fun _ h' => h'.enter fun _ _ _ h => .ite (.done (.ite h.acquire h)) ?_
  split
  · rename_i e
    exact .stop (.of_fst e h.resolve)
  · rename_i e
    have h'' := State.Canonical.of_fst e h.resolve
    refine .ite (.stop h'') ?_
    split
    · exact .stop h''
    · rename_i e₁
      have h''' := State.Canonical.of_ok e₁ h''.readNow
      exact .ite (.stop h''') (.ite (.done (.ite h'''.updateL1.acquire h'''.updateL1)) (.stop h'''.addWatch))

theorem State.Canonical.phaserSlot {c : Ctx} {f : VForm} {dsts srcs : List Use} {captures : Bool} {roles : Role → PhaserRef → Option FaultInfo}
    {body : Ctx → Group → W64 → PhaserRef → List Src → Slot} (h : c.s.Canonical)
    (hbody : ∀ c g1 x2 x3 x4, c.s.Canonical → (body c g1 x2 x3 x4).Canonical) : (c.phaserSlot f dsts srcs captures roles body).Canonical := by
  unfold Ctx.phaserSlot
  dsimp only
  exact h.enter fun _ _ _ h => hbody _ _ _ _ _ h

theorem State.Canonical.atTable {c : Ctx} {s : State} {x : PhaserRef} {f : State → Slot} (h : s.Canonical)
    (hf : ∀ s, s.Canonical → (f s).Canonical) : (c.atTable s x f).Canonical := by
  unfold Ctx.atTable
  refine .ite (hf _ h) ?_
  split
  · rename_i e
    have h' := State.Canonical.of_some e h.crossNow
    exact hf _ h'
  · exact .stop h

theorem State.Canonical.execPhreg {f : VForm} {s : State} (h : s.Canonical) : NextCanonical (execPhreg f s) := by
  unfold Machine.execPhreg
  dsimp only
  exact h.runSlot fun _ h' => h'.phaserSlot fun _ _ _ _ _ h'' => h''.atTable fun _ h => .done h.setPhaser

theorem State.Canonical.execPhdrop {f : VForm} {s : State} (h : s.Canonical) : NextCanonical (execPhdrop f s) := by
  unfold Machine.execPhdrop
  dsimp only
  exact h.runSlot fun _ h' => h'.phaserSlot fun _ _ _ _ _ h'' => h''.atTable fun _ h => .done h.dropRoles

theorem State.Canonical.execPharr {f : VForm} {s : State} (h : s.Canonical) : NextCanonical (execPharr f s) := by
  unfold Machine.execPharr
  dsimp only
  exact h.runSlot fun _ h' => h'.phaserSlot fun _ _ _ _ _ h'' => h''.releaseWait.slot fun _ _ h''' => .ite (.stop h''')
      (h'''.atTable fun _ h => .ite h.phaserTest.result (.done h.phaserTest))

theorem State.Canonical.execPhwait {f : VForm} {s : State} (h : s.Canonical) : NextCanonical (execPhwait f s) := by
  unfold Machine.execPhwait
  dsimp only
  exact h.runSlot fun _ h' => h'.phaserSlot fun _ _ _ _ _ h'' => .ite (h''.atTable fun _ h => .done h.acquire) (.stop h'')

theorem State.Canonical.setSem {s : State} {u n : Nat} {x : W64} (h : s.Canonical) : (s.setSem u n x).Canonical := by
  unfold State.setSem
  dsimp only
  split
  · exact h
  · exact .ite h.setParcel (h.setParcel.foldl fun _ _ h => h.wake)

theorem State.Canonical.incSem {s : State} {u n inc : Nat} (h : s.Canonical) : (s.incSem u n inc).Canonical := by
  unfold State.incSem
  dsimp only
  refine .setSem ?_
  split
  · exact h.setParcel
  · exact h

theorem State.Canonical.unwake {s : State} {n u : Nat} (h : s.Canonical) : (s.unwake n u).Canonical := by
  unfold State.unwake
  split
  · exact h
  · exact .ite h.setGroup.rest h

theorem State.Canonical.judgeReady {s : State} {u : Nat} (h : s.Canonical) : (s.judgeReady u).Canonical := h.withGroups

theorem State.Canonical.semIs {s : State} {u n : Nat} {x : W64} (h : s.Canonical) : (s.semIs u n x).Canonical :=
  .ite h.setSem (h.setSem.foldl fun _ _ h => h.unwake).judgeReady

theorem State.Canonical.semSet {s : State} {u n target count : Nat} (h : s.Canonical) : (s.semSet u n target count).Canonical := h.semIs

theorem State.Canonical.semTgt {s : State} {u n target : Nat} (h : s.Canonical) : (s.semTgt u n target).Canonical := h.semIs

theorem State.Canonical.execSemset {f : VForm} {s : State} (h : s.Canonical) : NextCanonical (execSemset f s) := by
  unfold Machine.execSemset
  dsimp only
  refine h.runSlot fun _ h' => h'.enter fun _ _ _ h => ?_
  split
  · exact h.trap
  · refine .done ?_
    split
    · exact h.semTgt
    · exact h.semSet
    · exact h.semSet
    · exact h.semTgt

theorem State.Canonical.execSemwait {f : VForm} {s : State} (h : s.Canonical) : NextCanonical (execSemwait f s) := by
  unfold Machine.execSemwait
  dsimp only
  refine h.runSlot fun _ h' => h'.enter fun _ _ _ h => ?_
  split
  · exact .stop h
  · exact .ite (.done h.acquire) (.stop h)

theorem State.Canonical.execSemrd {f : VForm} {s : State} (h : s.Canonical) : NextCanonical (execSemrd f s) :=
  h.runSlot fun _ h' => h'.enter fun _ _ _ h => h.result

theorem State.Canonical.execQbind {f : QForm} {s : State} (h : s.Canonical) : NextCanonical (execQbind f s) :=
  h.runSlot fun _ h' => h'.enter fun _ _ _ h => .ite (.done h.fresh) (.done h.fresh)

/-! ## Operations of Machine/Grants.lean -/

theorem State.Canonical.codeWord {s : State} {core vf text o : Nat} (h : s.Canonical) : (s.codeWord core vf text o).1.Canonical := by
  unfold State.codeWord
  dsimp only
  split
  · rename_i e
    exact .of_fst e h.object
  · rename_i e
    have h' := State.Canonical.of_fst e h.object
    refine .ite_fst h' (.ite_fst h' (.ite_fst h' ?_))
    split
    · rename_i e₁
      have h'' := State.Canonical.of_fst e₁ h'.translate
      split
      · exact h''
      · split
        · rename_i e₃
          exact .fillL1 (.touchL2 (.of_some e₃ h''.crossNow))
        · exact h''
    · rename_i e₁
      exact .of_fst e₁ h'.translate
    · rename_i e₁
      exact .of_fst e₁ h'.translate
    · rename_i e₁
      exact .of_fst e₁ h'.translate

theorem State.Canonical.fetchWords {s : State} {core vf text n o : Nat} {l : Launch} (h : s.Canonical) :
    (fetchWords core vf text l n o s).1.Canonical := by
  induction n generalizing s o with
  | zero => exact h
  | succ n ih =>
      unfold Machine.fetchWords
      split
      · rename_i e
        have h' := State.Canonical.of_fst e h.codeWord
        split
        all_goals
          rename_i e'
          exact .of_fst e' (ih h')
      · rename_i e
        exact .of_fst e h.codeWord

theorem State.Canonical.codeWords {s : State} {core vf text n o : Nat} (h : s.Canonical) : (State.codeWords core vf text n o s).1.Canonical := by
  induction n generalizing s o with
  | zero => exact h
  | succ n ih =>
      unfold State.codeWords
      split
      · rename_i e
        have h' := State.Canonical.of_fst e h.codeWord
        split
        all_goals
          rename_i e'
          exact .of_fst e' (ih h')
      · rename_i e
        exact .of_fst e h.codeWord

theorem State.Canonical.bodyWords {s : State} {core vf text last n o : Nat} (h : s.Canonical) :
    (State.bodyWords core vf text last n o s).1.Canonical := by
  induction n generalizing s o with
  | zero => exact h
  | succ n ih =>
      unfold State.bodyWords
      split
      · rename_i e
        have h' := State.Canonical.of_fst e h.codeWord
        split
        · rename_i e'
          exact .of_fst e' h'.codeWords
        · rename_i e'
          have h'' := State.Canonical.of_fst e' h'.codeWords
          refine .ite_fst h'' (.ite_fst h'' ?_)
          split
          all_goals
            rename_i e''
            exact .of_fst e'' (ih h'')
      · rename_i e
        exact .of_fst e h.codeWord

theorem State.Canonical.fillLoop {s : State} {core vf text : Nat} {first last : W32} (h : s.Canonical) :
    (s.fillLoop core vf text first last).Canonical := by
  unfold State.fillLoop
  dsimp only
  refine .ite h ?_
  split
  · rename_i e
    exact .of_fst e h.bodyWords
  · rename_i e
    have h' := State.Canonical.of_fst e h.bodyWords
    exact h'.setCore

theorem State.Canonical.tidyLoops {s : State} (h : s.Canonical) : s.tidyLoops.Canonical := by
  unfold State.tidyLoops
  dsimp only
  refine h.foldl fun _ _ h => ?_
  split
  · exact .ite h h.setCore
  · exact h

theorem State.Canonical.mapGrants {s : State} {f : List Grant → List Grant} (h : s.Canonical) : (s.mapGrants f).Canonical := h.withDies

theorem State.Canonical.endEntries {s : State} {d : Nat} (h : s.Canonical) : (s.endEntries d).Canonical := h.mapGrants.withDecls

theorem State.Canonical.closeTransaction {s : State} {g : Group} {d : Nat} (h : s.Canonical) : (s.closeTransaction g d).1.Canonical :=
  .ite_fst h h.endEntries

/-! ## Operations of Machine/Tiles.lean -/

theorem State.Canonical.setTile {s : State} {u y : Nat} {t : Tile} (h : s.Canonical) : (s.setTile u y t).Canonical := by
  unfold State.setTile
  split
  · exact h.setParcel
  · exact h

/-! ## Operations of Machine/Units.lean -/

theorem State.Canonical.unitCells {s : State} {vf : Nat} {k : Access} {vas : List Nat} (h : s.Canonical) : (unitCells vf k s vas).1.Canonical := by
  induction vas generalizing s with
  | nil => exact h
  | cons a vas ih =>
      unfold Machine.unitCells
      split
      · rename_i e
        have h' := State.Canonical.of_fst e h.translate
        split
        all_goals
          rename_i e'
          exact .of_fst e' (ih h')
      all_goals
        rename_i e
        exact .of_fst e h.translate

theorem State.Canonical.unitRead {s : State} {by' : Via} {vf : Nat} {log : List LogRec} {va n : Nat} (h : s.Canonical) :
    (s.unitRead by' vf log va n).1.Canonical := by
  unfold State.unitRead
  dsimp only
  refine .ite_fst h ?_
  split
  · rename_i e
    exact .of_fst e h.unitCells
  · rename_i e
    have h' := State.Canonical.of_fst e h.unitCells
    split
    · exact h'
    · split
      · exact h'
      · rename_i e₂
        exact .foldl (.of_some e₂ h'.crossWays) fun _ _ h => h.touchL2

theorem State.Canonical.unitReads {s : State} {v : Via} {vf : Nat} {log : List LogRec} {rs : List (Nat × Nat)} (h : s.Canonical) :
    (unitReads v vf log s rs).1.Canonical := by
  induction rs generalizing s with
  | nil => exact h
  | cons r rs ih =>
      unfold Machine.unitReads
      split
      · rename_i e
        exact .of_fst e h.unitRead
      · rename_i e
        have h' := State.Canonical.of_fst e h.unitRead
        split
        all_goals
          rename_i e'
          exact .of_fst e' (ih h')

theorem State.Canonical.unitPieces {s : State} {vf : Nat} {kind : Access} {ws : List (Nat × List Byte)} (h : s.Canonical) :
    (s.unitPieces vf kind ws).1.Canonical := by
  unfold State.unitPieces
  dsimp only
  split
  all_goals
    rename_i e
    exact .of_fst e h.unitCells

theorem State.Canonical.applyPieces {s : State} {y : BitVec 2} {ps : List WritePiece} (h : s.Canonical) : (s.applyPieces y ps).Canonical :=
  h.foldl fun _ _ h => h.applyWrite

theorem State.Canonical.crossPieces {s : State} {by' : Via} {ps : List WritePiece} (h : s.Canonical) : OptCanonical (s.crossPieces by' ps) :=
  h.crossWays

theorem State.Canonical.sendPieces {s : State} {sender : Sender} {by' : Via} {vf : Nat} {y : BitVec 2} {clause : W32} {slot : Nat}
    {ps : List WritePiece} (h : s.Canonical) : (s.sendPieces sender by' vf y clause slot ps).1.Canonical := h.foldl fun _ _ h => h.sendOp

theorem State.Canonical.sendAck {s : State} {a : Ack} {die : Nat} (h : s.Canonical) : (s.sendAck a die).Canonical := h.fresh.withAcks.sendFlit

theorem State.Canonical.putElements {s : State} {parcel : Nat} {es : List (Nat × Nat × Nat × Nat)} (h : s.Canonical) :
    (s.putElements parcel es).Canonical := by
  unfold State.putElements
  dsimp only
  refine h.foldl fun _ _ h => ?_
  split
  · exact h.setTile
  · exact h

theorem State.Canonical.deliver {s : State} {g q gen : Nat} {es : List QEntry} (h : s.Canonical) : (s.deliver g q gen es).Canonical := by
  unfold State.deliver
  split
  · exact h
  · exact .ite h.setGroup h

theorem State.Canonical.addLate {s : State} {g : Nat} {f : LateFault} (h : s.Canonical) : (s.addLate g f).Canonical := by
  unfold State.addLate
  split
  · exact h
  · exact h.setGroup

theorem State.Canonical.unitFails {s : State} {g : Nat} {clause : W32} {slot : Nat} {f : FaultInfo} {queue sem : Option Nat} {boundary : Bool}
    (h : s.Canonical) : (s.unitFails g clause slot f queue sem boundary).Canonical := by
  unfold State.unitFails
  dsimp only
  split
  · exact h
  · exact .ite h.post.endParcel h.post.addLate

theorem State.Canonical.unitParks {s : State} {g : Nat} {clause : W32} {slot : Nat} {owner : Owner} {va : Nat} (h : s.Canonical) :
    (s.unitParks g clause slot owner va).1.Canonical := by
  unfold State.unitParks
  dsimp only
  split
  · exact h
  · split
    · exact h.post
    · exact h
    · exact h

theorem State.Canonical.completion {s : State} {parcel : Nat} {semv : Bool} {sem inc : Nat} (h : s.Canonical) :
    (s.completion parcel semv sem inc).Canonical := .ite h.incSem h

/-! ## Operations of Machine/Accept.lean -/

theorem State.Canonical.fillRecord {s : State} {l : Launch} {va : Nat} (h : s.Canonical) : (s.fillRecord l va).1.Canonical := h.post

theorem State.Canonical.acceptLaunch {s : State} {l : Launch} (h : s.Canonical) : (s.acceptLaunch l).Canonical := by
  unfold State.acceptLaunch
  dsimp only
  split
  · exact h.setLaunch
  · exact h.withLaunches.post.noteBacklog
  · exact h.fillRecord.setLaunch
  · exact h

theorem State.Canonical.fillLeases {s : State} {l : Launch} (h : s.Canonical) : (s.fillLeases l).Canonical := by
  unfold State.fillLeases
  dsimp only
  refine .ite h ?_
  split
  · exact .setLaunch (.fillRecord (.ite h h.setVf))
  · exact .noteBacklog (.setLaunch (.ite h h.setVf))

theorem State.Canonical.takeEntry {s : State} {vf n : Nat} {q : LaunchQueue} {cell : Nat} (h : s.Canonical) :
    (s.takeEntry vf n q cell).Canonical := h.fresh.setVf.withLaunches.acceptLaunch

theorem State.Canonical.entryCrosses {s : State} {cell : Nat} (h : s.Canonical) : OptCanonical (s.entryCrosses cell) := h.crossWays

theorem State.Canonical.execLaunchAccept {vf queue : Nat} {s : State} (h : s.Canonical) : NextCanonical (execLaunchAccept vf queue s) := by
  unfold Machine.execLaunchAccept
  dsimp only
  split
  · refine .next ?_
    split
    · exact .ite h h.acceptLaunch
    · exact .ite h h.fillLeases
    · exact h
  · refine .ite (.next h) (.ite .fault (.ite (.next h) ?_))
    split
    · rename_i e₁
      exact .next (.takeEntry (.of_some e₁ h.entryCrosses))
    · exact .next h

/-! ## Operations of Machine/Launching.lean -/

theorem State.Canonical.readDescriptor {c : Ctx} {covered : Bool} {reg : Nat} {k : Cap} {need a n align lane : Nat} (h : c.s.Canonical) :
    (c.readDescriptor covered reg k need a n align lane).1.Canonical := by
  unfold Ctx.readDescriptor
  dsimp only
  split
  · rename_i e
    exact .of_fst e h.resolveSpan
  · rename_i e
    have h' := State.Canonical.of_fst e h.resolveSpan
    split
    · exact h'
    · rename_i e₁
      have h'' := State.Canonical.of_ok e₁ h'.readNow
      split
      · exact h''
      · exact h''.foldl fun _ _ h => h.touchL2

theorem State.Canonical.appendLaunch {s : State} {sender : Sender} {fromDie vf n : Nat} {bs : List Byte} {clause : W32} {slot : Nat}
    (h : s.Canonical) : (s.appendLaunch sender fromDie vf n bs clause slot).Canonical := h.setVf.sendOp.noteBacklog

theorem State.Canonical.execLaunch {f : QForm} {s : State} (h : s.Canonical) : NextCanonical (execLaunch f s) := by
  unfold Machine.execLaunch
  dsimp only
  refine h.runSlot fun _ h' => h'.enter fun _ _ _ h'' => .ite h''.block (h''.releaseWait.slot fun _ _ h => ?_)
  split
  · rename_i e
    exact .stop (.of_fst e h.readDescriptor)
  · rename_i e
    have h''' := State.Canonical.of_fst e h.readDescriptor
    exact .ite (.stop h''') (.ite (.stop h''') (.ite (h'''.logFor.slot fun _ _ h => .done h)
        (.ite (.stop h''') (.ite (.stop h''') (.done h'''.appendLaunch)))))

end Sys2Proof.Machine
end

section
/-!
SUPPORT. Operations keep memory canonical (R86, log entry 2): job cards, the matrix unit, attention, scalar and vector instructions, and the
    engines.
-/
namespace Sys2Proof.Machine
open Sys2Proof

/-! ## Operations of Machine/JobCard.lean -/

theorem State.Canonical.regionCaps {c : Ctx} {s : State} {rs : List RawRegion} (h : s.Canonical) : (regionCaps c s rs).1.Canonical := by
  induction rs generalizing s with
  | nil => exact h
  | cons r rs ih =>
      unfold Machine.regionCaps
      dsimp only
      refine .ite_fst ?_ ?_
      · split
        all_goals
          rename_i e
          exact .of_fst e (ih h)
      · split
        · rename_i e
          exact .of_fst e h.capCheck
        · rename_i e
          have h' := State.Canonical.of_fst e h.capCheck
          split
          all_goals
            rename_i e'
            exact .of_fst e' (ih h')

theorem State.Canonical.checkCard {c : Ctx} {s : State} {kind : CardKind} {w d : Nat} (h : s.Canonical) :
    (c.checkCard s kind w d).1.Canonical := by
  unfold Ctx.checkCard
  dsimp only
  refine .ite_fst h (.ite_fst h (.ite_fst h ?_))
  split
  · rename_i e
    exact .of_fst e h.regionCaps
  · rename_i e
    have h' := State.Canonical.of_fst e h.regionCaps
    exact .ite_fst h' (.ite_fst h' (.ite_fst h' h'))

theorem State.Canonical.notBehind {c : Ctx} {k : Slot} (h : c.s.Canonical) (h1 : k.Canonical) : (c.notBehind k).Canonical := .ite h.block h1

theorem State.Canonical.submitCard {c : Ctx} {f : QForm} {kind : CardKind} {refusal : Option FaultInfo} (h : c.s.Canonical) :
    (c.submitCard f kind refusal).Canonical := by
  unfold Ctx.submitCard
  dsimp only
  refine h.enter fun _ _ _ h => h.notBehind ?_
  split
  · rename_i e
    exact .stop (.of_fst e h.readDescriptor)
  · rename_i e
    have h' := State.Canonical.of_fst e h.readDescriptor
    split
    · rename_i e₁
      exact .stop (.of_fst e₁ h'.checkCard)
    · rename_i e₁
      have h'' := State.Canonical.of_fst e₁ h'.checkCard
      split
      · exact .stop h''
      · exact .ite (.stop h'') (.done h''.fresh.setPair)

theorem State.Canonical.execJccopy {f : QForm} {s : State} (h : s.Canonical) : NextCanonical (execJccopy f s) := h.runSlot fun _ h => h.submitCard

theorem State.Canonical.execJcgath {f : QForm} {s : State} (h : s.Canonical) : NextCanonical (execJcgath f s) := h.runSlot fun _ h => h.submitCard

theorem State.Canonical.execJcscat {f : QForm} {s : State} (h : s.Canonical) : NextCanonical (execJcscat f s) := h.runSlot fun _ h => h.submitCard

theorem State.Canonical.execJccoll {f : QForm} {s : State} (h : s.Canonical) : NextCanonical (execJccoll f s) := h.runSlot fun _ h => h.submitCard

theorem State.Canonical.execJcmtx {f : QForm} {s : State} (h : s.Canonical) : NextCanonical (execJcmtx f s) := h.runSlot fun _ h => h.submitCard

theorem State.Canonical.execJcfill {f : QForm} {s : State} (h : s.Canonical) : NextCanonical (execJcfill f s) := h.runSlot fun _ h => h.submitCard

/-! ## Operations of Machine/Matrix.lean -/

theorem State.Canonical.acquireTiles {s : State} {parcel core : Nat} (h : s.Canonical) : OptCanonical (s.acquireTiles parcel core) := by
  unfold State.acquireTiles
  dsimp only
  refine .ite .none ?_
  split
  · exact .ite (.some h) .none
  · exact .some h.setPair

theorem State.Canonical.mtxSlot {c : Ctx} {z : W64} {nw : Bool} {dsts srcs : List Use} {captures : Bool} {body : Ctx → Group → List Src → Slot}
    {o : Start} (h : c.s.Canonical) (hbody : ∀ c g1 x2, c.s.Canonical → (body c g1 x2).Canonical) :
    (c.mtxSlot z nw dsts srcs captures body o).Canonical := by
  unfold Ctx.mtxSlot
  refine h.enter fun _ _ _ h => ?_
  split
  · exact h.block
  · rename_i e
    have h' := State.Canonical.of_some e h.acquireTiles
    exact hbody _ _ _ h'.put

theorem State.Canonical.issueOp {c : Ctx} {s : State} {g : Group} {rnd : BitVec 3} {kind : MtxKind} {va : Nat} {inc : Option (Nat × Nat)}
    (h : s.Canonical) : (c.issueOp s g rnd kind va inc).Canonical := .ite (.stop h) (.done h.fresh.setPair)

theorem State.Canonical.buildHeader {c : Ctx} {f : VForm} {a : Bool} (h : c.s.Canonical) : (c.buildHeader f a).Canonical := by
  unfold Ctx.buildHeader
  dsimp only
  refine h.mtxSlot fun _ _ _ h => ?_
  split
  · exact .stop h
  · exact h.result

theorem State.Canonical.execMlda {f : VForm} {s : State} (h : s.Canonical) : NextCanonical (execMlda f s) := h.runSlot fun _ h => h.buildHeader

theorem State.Canonical.execMldb {f : VForm} {s : State} (h : s.Canonical) : NextCanonical (execMldb f s) := h.runSlot fun _ h => h.buildHeader

theorem State.Canonical.multiplySlot {c : Ctx} {f : VForm} {pair : Bool} {sp : Sparsity} (h : c.s.Canonical) :
    (c.multiplySlot f pair sp).Canonical := by
  unfold Ctx.multiplySlot
  dsimp only
  refine h.mtxSlot fun _ _ _ h => ?_
  split
  · exact .stop h
  · split
    · exact .stop h
    · exact .ite (.stop h) h.issueOp

theorem State.Canonical.execMma {f : VForm} {s : State} (h : s.Canonical) : NextCanonical (execMma f s) := h.runSlot fun _ h => h.multiplySlot

theorem State.Canonical.execMmap {f : VForm} {s : State} (h : s.Canonical) : NextCanonical (execMmap f s) := h.runSlot fun _ h => h.multiplySlot

theorem State.Canonical.execMmas {f : VForm} {s : State} (h : s.Canonical) : NextCanonical (execMmas f s) := h.runSlot fun _ h => h.multiplySlot

theorem State.Canonical.execMmasp {f : VForm} {s : State} (h : s.Canonical) : NextCanonical (execMmasp f s) := h.runSlot fun _ h => h.multiplySlot

theorem State.Canonical.execMmag {f : VForm} {s : State} (h : s.Canonical) : NextCanonical (execMmag f s) := h.runSlot fun _ h => h.multiplySlot

theorem State.Canonical.execMmagp {f : VForm} {s : State} (h : s.Canonical) : NextCanonical (execMmagp f s) := h.runSlot fun _ h => h.multiplySlot

theorem State.Canonical.execUnfold {f : VForm} {s : State} (h : s.Canonical) : NextCanonical (execUnfold f s) := by
  unfold Machine.execUnfold
  dsimp only
  refine h.runSlot fun _ h' => h'.mtxSlot fun _ _ _ h => ?_
  split
  · exact .stop h
  · exact h.issueOp

theorem State.Canonical.execAccz {f : VForm} {s : State} (h : s.Canonical) : NextCanonical (execAccz f s) :=
  h.runSlot fun _ h' => h'.mtxSlot fun _ _ _ h => h.issueOp

theorem State.Canonical.execAccld {f : VForm} {s : State} (h : s.Canonical) : NextCanonical (execAccld f s) := by
  unfold Machine.execAccld
  dsimp only
  refine h.runSlot fun _ h' => h'.mtxSlot fun _ _ _ h => ?_
  split
  · exact .stop h
  · exact h.issueOp

theorem State.Canonical.execAccmovGet {f : VForm} {s : State} (h : s.Canonical) : NextCanonical (execAccmovGet f s) := by
  unfold Machine.execAccmovGet
  dsimp only
  refine h.runSlot fun _ h' => h'.mtxSlot fun _ _ _ h => ?_
  split
  · exact .stop h
  · split
    · rename_i e₁
      exact .done (.of_done e₁ h.pend.issueOp)
    · exact h.pend.issueOp

theorem State.Canonical.execAccmovPut {f : VForm} {s : State} (h : s.Canonical) : NextCanonical (execAccmovPut f s) := by
  unfold Machine.execAccmovPut
  dsimp only
  refine h.runSlot fun _ h' => h'.mtxSlot fun _ _ _ h => ?_
  split
  · exact .stop h
  · exact h.issueOp

theorem State.Canonical.execAcccvt {f : VForm} {s : State} (h : s.Canonical) : NextCanonical (execAcccvt f s) :=
  h.runSlot fun _ h' => h'.mtxSlot fun _ _ _ h => h.issueOp

theorem State.Canonical.drainSlot {c : Ctx} {f : QForm} {add : Bool} (h : c.s.Canonical) : (c.drainSlot f add).Canonical := by
  unfold Ctx.drainSlot
  dsimp only
  refine h.mtxSlot fun _ _ _ h => ?_
  split
  · exact .stop h
  · refine .ite h.issueOp (h.notBehind ?_)
    split
    · rename_i e₁
      exact .stop (.of_fst e₁ h.capLanes)
    · rename_i e₁
      have h' := State.Canonical.of_fst e₁ h.capLanes
      split
      · exact .stop h'.transLanes
      · exact h'.transLanes.issueOp

theorem State.Canonical.execAccdr {f : QForm} {s : State} (h : s.Canonical) : NextCanonical (execAccdr f s) := h.runSlot fun _ h => h.drainSlot

theorem State.Canonical.execAccdra {f : QForm} {s : State} (h : s.Canonical) : NextCanonical (execAccdra f s) := h.runSlot fun _ h => h.drainSlot

theorem State.Canonical.execMsync {f : VForm} {s : State} (h : s.Canonical) : NextCanonical (execMsync f s) := by
  unfold Machine.execMsync
  dsimp only
  refine h.runSlot fun _ h' => h'.mtxSlot fun _ _ _ h => .ite (.stop h) ?_
  split
  · exact .stop h
  · exact .done h

theorem State.Canonical.execMelect {f : VForm} {s : State} (h : s.Canonical) : NextCanonical (execMelect f s) :=
  h.runSlot fun _ h' => h'.mtxSlot fun _ _ _ h => h.maskResult

theorem State.Canonical.execVspc {f : VForm} {s : State} (h : s.Canonical) : NextCanonical (execVspc f s) :=
  h.runSlot fun _ h' => .ite (h'.entry fun _ _ _ h => h.result) (h'.entry fun _ _ _ h => h.result)

/-! ## Operations of Machine/Attention.lean -/

theorem State.Canonical.namedMemory {c : Ctx} {reg need o n : Nat} {kind : Access} {lane : Nat} (h : c.s.Canonical) :
    (c.namedMemory reg need o n kind lane).1.Canonical := by
  unfold Ctx.namedMemory
  split
  all_goals
    rename_i e
    exact .of_fst e h.resolveSpan

theorem State.Canonical.execAttqk {f : VForm} {s : State} (h : s.Canonical) : NextCanonical (execAttqk f s) := by
  unfold Machine.execAttqk
  dsimp only
  refine h.runSlot fun _ h' => h'.mtxSlot fun _ _ _ h => ?_
  split
  · exact .stop h
  · split
    · rename_i e₁
      exact .stop (.of_fst e₁ h.namedMemory)
    · rename_i e₁
      exact State.Canonical.issueOp (.of_fst e₁ h.namedMemory)

theorem State.Canonical.execAttsm {f : VForm} {s : State} (h : s.Canonical) : NextCanonical (execAttsm f s) := by
  unfold Machine.execAttsm
  dsimp only
  refine h.runSlot fun _ h' => h'.mtxSlot fun _ _ _ h => ?_
  split
  · exact .stop h
  · exact h.issueOp

theorem State.Canonical.execAttpv {f : VForm} {s : State} (h : s.Canonical) : NextCanonical (execAttpv f s) := by
  unfold Machine.execAttpv
  dsimp only
  refine h.runSlot fun _ h' => h'.mtxSlot fun _ _ _ h => .ite (.stop h) ?_
  split
  · rename_i e
    exact .stop (.of_fst e h.namedMemory)
  · rename_i e
    exact State.Canonical.issueOp (.of_fst e h.namedMemory)

theorem State.Canonical.execAttmd {f : QForm} {s : State} (h : s.Canonical) : NextCanonical (execAttmd f s) := by
  unfold Machine.execAttmd
  dsimp only
  refine h.runSlot fun _ h' => h'.mtxSlot fun _ _ _ h => ?_
  split
  · exact .stop h
  · exact h.notBehind h.issueOp

theorem State.Canonical.execKvrs {f : QForm} {s : State} (h : s.Canonical) : NextCanonical (execKvrs f s) :=
  h.runSlot fun _ h' => h'.mtxSlot fun _ _ _ h => h.notBehind (.ite (.stop h) (.done h))

/-! ## Operations of Machine/Arrays.lean -/

theorem State.Canonical.readPage {s : State} {o : MtxOp} {t : ElemType} {d : Nat} (h : s.Canonical) : (s.readPage o t d).1.Canonical := h.unitRead

theorem State.Canonical.mtxResult {s : State} {o : MtxOp} (h : s.Canonical) : (s.mtxResult o).1.Canonical := by
  unfold State.mtxResult
  dsimp only
  split
  · exact h
  · exact h
  · exact h
  · exact h
  · exact h
  · exact h
  · exact h
  · exact h
  · split
    · rename_i e₁
      exact .of_fst e₁ h.readPage
    · rename_i e₁
      exact .of_fst e₁ h.readPage
    · rename_i e₂
      exact .of_fst e₂ h.readPage
  · exact h
  · split
    · rename_i e₁
      exact .of_fst e₁ h.readPage
    · rename_i e₁
      exact .of_fst e₁ h.readPage
    · rename_i e₂
      exact .of_fst e₂ h.readPage
  · split
    · refine .ite_fst h ?_
      split
      all_goals
        rename_i e₂
        exact .of_fst e₂ h.capCheck
    · exact h

theorem State.Canonical.discardOp {s : State} {pair : Nat} {o : MtxOp} (h : s.Canonical) : (s.discardOp pair o).Canonical := by
  unfold State.discardOp
  dsimp only
  split
  · exact h.setPair.setGroup
  · exact h.setPair

theorem State.Canonical.parkOp {s : State} {pair : Nat} {o : MtxOp} {l : Launch} {va : Nat} (h : s.Canonical) :
    (s.parkOp pair o l va).Canonical := by
  unfold State.parkOp
  dsimp only
  split
  · exact h.post.setPair
  · exact h.setPair
  · exact h

theorem State.Canonical.execMtxOpStart {pair op : Nat} {s : State} (h : s.Canonical) : NextCanonical (execMtxOpStart pair op s) := by
  unfold Machine.execMtxOpStart
  dsimp only
  refine .next ?_
  split
  · exact h
  · refine .ite h (.ite h.discardOp ?_)
    split
    · rename_i e₁
      exact .setPair (.of_fst e₁ h.mtxResult)
    · rename_i e₁
      exact .parkOp (.of_fst e₁ h.mtxResult)
    · rename_i e₂
      exact .of_fst e₂ h.mtxResult

/-- What the application of a matrix operation comes to leaves a canonical state. -/
inductive Applied.Canonical : Applied → Prop
  | done {s : State} {k : Option Nat} {f : Option FaultInfo} : s.Canonical → Applied.Canonical (.done s k f)
  | wait {s : State} : s.Canonical → Applied.Canonical (.wait s)
  | absent {s : State} {va : Nat} : s.Canonical → Applied.Canonical (.absent s va)
  | abort {s : State} : s.Canonical → Applied.Canonical (.abort s)

section
variable {s : State} {a : Applied}

theorem Applied.Canonical.ite {c : Prop} [Decidable c] {b : Applied} (h : a.Canonical) (h' : b.Canonical) : (if c then a else b).Canonical := by
  split
  · exact h
  · exact h'

theorem State.Canonical.of_applied_done {k : Option Nat} {f : Option FaultInfo} (e : a = .done s k f) (h : a.Canonical) : s.Canonical := by
  rw [e] at h
  cases h with
  | done hs => exact hs

theorem State.Canonical.of_applied_wait (e : a = .wait s) (h : a.Canonical) : s.Canonical := by
  rw [e] at h
  cases h with
  | wait hs => exact hs

theorem State.Canonical.of_applied_absent {va : Nat} (e : a = .absent s va) (h : a.Canonical) : s.Canonical := by
  rw [e] at h
  cases h with
  | absent hs => exact hs

theorem State.Canonical.of_applied_abort (e : a = .abort s) (h : a.Canonical) : s.Canonical := by
  rw [e] at h
  cases h with
  | abort hs => exact hs

end

theorem State.Canonical.applyGlobal {s : State} {o : MtxOp} {ws : List (Nat × List Byte)} {recs : List LogRec} {fault : Option FaultInfo}
    (h : s.Canonical) : (s.applyGlobal o ws recs fault).Canonical := by
  unfold State.applyGlobal
  dsimp only
  split
  · rename_i e
    have h' := State.Canonical.of_fst e h.unitPieces
    exact .done h'
  · rename_i e
    exact .wait (.of_fst e h.unitPieces)
  · rename_i e
    exact .absent (.of_fst e h.unitPieces)
  · rename_i e
    have h' := State.Canonical.of_fst e h.unitPieces
    refine .ite ?_ ?_
    · split
      · exact .done h'.setParcel
      · exact .abort h'
    · split
      · exact .done h'
      · refine .ite (.wait h') ?_
        split
        · exact .wait h'
        · rename_i e₂
          exact .done (.applyPieces (.of_some e₂ h'.crossPieces))

theorem State.Canonical.applyDrain {s : State} {o : MtxOp} {add : Bool} {w arg : W64} (h : s.Canonical) :
    (s.applyDrain o add w arg).Canonical := by
  unfold State.applyDrain
  dsimp only
  refine .ite ?_ ?_
  · split
    · exact .done h
    · exact .done h.putElements.setPair
  · split
    · rename_i e
      have h' := State.Canonical.of_fst e (.ite_fst h.unitReads h)
      exact .done h'
    · rename_i e
      exact .wait (.of_fst e (.ite_fst h.unitReads h))
    · rename_i e
      exact .absent (.of_fst e (.ite_fst h.unitReads h))
    · rename_i e
      have h' := State.Canonical.of_fst e (.ite_fst h.unitReads h)
      split
      · rename_i e₁
        exact .done (.ite (.of_applied_done e₁ h'.applyGlobal) (.setPair (.of_applied_done e₁ h'.applyGlobal)))
      · exact h'.applyGlobal

theorem State.Canonical.applyMass {s : State} {o : MtxOp} {va : Nat} {gen : BitVec 16} {vals : List W32} (h : s.Canonical) :
    (s.applyMass o va gen vals).Canonical := by
  unfold State.applyMass
  dsimp only
  refine .ite h.applyGlobal ?_
  split
  · rename_i e
    have h' := State.Canonical.of_fst e h.unitRead
    exact .done h'
  · rename_i e
    exact .wait (.of_fst e h.unitRead)
  · rename_i e
    exact .absent (.of_fst e h.unitRead)
  · rename_i e
    have h' := State.Canonical.of_fst e h.unitRead
    refine .ite (.done ?_) h'.applyGlobal
    split
    · exact h'.post
    · exact h'

theorem State.Canonical.applyOp {s : State} {o : MtxOp} {r : MtxResult} (h : s.Canonical) : (s.applyOp o r).Canonical := by
  unfold State.applyOp
  dsimp only
  split
  · exact .ite (.done h) h.applyDrain
  · split
    · split
      · rename_i e₂
        exact .done (.of_applied_done e₂ h.applyMass)
      · exact h.applyMass
    · exact .done h
  · split
    · exact .done h
    · exact .done h.setGroup
  · refine .done (.putElements ?_)
    split
    · exact h.setPair.setPair
    · exact h.setPair

theorem State.Canonical.failOp {s : State} {pair : Nat} {o : MtxOp} {f : FaultInfo} (h : s.Canonical) : (s.failOp pair o f).Canonical :=
  h.setPair.addLate.foldl fun _ _ h => h.discardOp

theorem State.Canonical.retireOp {s : State} {pair : Nat} {o : MtxOp} (h : s.Canonical) : (s.retireOp pair o).Canonical := by
  unfold State.retireOp
  dsimp only
  split
  · exact .ite h.setPair.deliver.completion h
  · exact h.setPair.completion

theorem State.Canonical.execMtxOpRetire {pair op : Nat} {s : State} (h : s.Canonical) : NextCanonical (execMtxOpRetire pair op s) := by
  unfold Machine.execMtxOpRetire
  dsimp only
  refine .next ?_
  split
  · exact h
  · split
    · exact h
    · refine .ite h (.ite (.ite h.retireOp h) ?_)
      split
      · rename_i e₂
        exact .of_applied_wait e₂ h.applyOp
      · rename_i e₂
        exact .parkOp (.of_applied_absent e₂ h.applyOp)
      · rename_i e₂
        exact .abortParcel (.of_applied_abort e₂ h.applyOp)
      · rename_i e₂
        split
        · refine .failOp ?_
          split
          · refine .sendAck ?_
            split
            · exact .setGroup (.of_applied_done e₂ h.applyOp)
            · exact .of_applied_done e₂ h.applyOp
          · exact .of_applied_done e₂ h.applyOp
        · refine .setPair ?_
          split
          · refine .sendAck ?_
            split
            · exact .setGroup (.of_applied_done e₂ h.applyOp)
            · exact .of_applied_done e₂ h.applyOp
          · exact .of_applied_done e₂ h.applyOp

/-! ## Operations of Machine/Scalar.lean -/

theorem State.Canonical.execNop {_f : VForm} {s : State} (h : s.Canonical) : NextCanonical (execNop _f s) := h.runSlot fun _ h => h.skip

theorem State.Canonical.execSmov {f : VForm} {s : State} (h : s.Canonical) : NextCanonical (execSmov f s) := h.runSlot fun _ h => h.scalWhole

theorem State.Canonical.immSlot {c : Ctx} {f : IForm} {vec : Bool} (h : c.s.Canonical) : (c.immSlot f vec).Canonical :=
  h.entry fun _ _ _ h => h.result

theorem State.Canonical.execSmovi {f : IForm} {s : State} (h : s.Canonical) : NextCanonical (execSmovi f s) := h.runSlot fun _ h => h.immSlot

theorem State.Canonical.execSadd {f : VForm} {s : State} (h : s.Canonical) : NextCanonical (execSadd f s) := h.runSlot fun _ h => h.scalElems

theorem State.Canonical.execSsub {f : VForm} {s : State} (h : s.Canonical) : NextCanonical (execSsub f s) := h.runSlot fun _ h => h.scalElems

theorem State.Canonical.execSmul {f : VForm} {s : State} (h : s.Canonical) : NextCanonical (execSmul f s) := h.runSlot fun _ h => h.scalElems

theorem State.Canonical.execSmulh {f : VForm} {s : State} (h : s.Canonical) : NextCanonical (execSmulh f s) := h.runSlot fun _ h => h.scalElems

theorem State.Canonical.execSdiv {f : VForm} {s : State} (h : s.Canonical) : NextCanonical (execSdiv f s) := h.runSlot fun _ h => h.scalElems

theorem State.Canonical.execSrem {f : VForm} {s : State} (h : s.Canonical) : NextCanonical (execSrem f s) := h.runSlot fun _ h => h.scalElems

theorem State.Canonical.execSand {f : VForm} {s : State} (h : s.Canonical) : NextCanonical (execSand f s) := h.runSlot fun _ h => h.scalElems

theorem State.Canonical.execSor {f : VForm} {s : State} (h : s.Canonical) : NextCanonical (execSor f s) := h.runSlot fun _ h => h.scalElems

theorem State.Canonical.execSxor {f : VForm} {s : State} (h : s.Canonical) : NextCanonical (execSxor f s) := h.runSlot fun _ h => h.scalElems

theorem State.Canonical.execSshl {f : VForm} {s : State} (h : s.Canonical) : NextCanonical (execSshl f s) := h.runSlot fun _ h => h.scalElems

theorem State.Canonical.execSshr {f : VForm} {s : State} (h : s.Canonical) : NextCanonical (execSshr f s) := h.runSlot fun _ h => h.scalElems

theorem State.Canonical.execScmp {f : VForm} {s : State} (h : s.Canonical) : NextCanonical (execScmp f s) := h.runSlot fun _ h => h.scalElems

theorem State.Canonical.execSsel {f : VForm} {s : State} (h : s.Canonical) : NextCanonical (execSsel f s) := h.runSlot fun _ h => h.scalWhole

theorem State.Canonical.execSaddi {f : IForm} {s : State} (h : s.Canonical) : NextCanonical (execSaddi f s) :=
  h.runSlot fun _ h' => h'.entry fun _ _ _ h => h.result

theorem State.Canonical.execSmin {f : VForm} {s : State} (h : s.Canonical) : NextCanonical (execSmin f s) := h.runSlot fun _ h => h.scalElems

theorem State.Canonical.execSmax {f : VForm} {s : State} (h : s.Canonical) : NextCanonical (execSmax f s) := h.runSlot fun _ h => h.scalElems

theorem State.Canonical.execSclz {f : VForm} {s : State} (h : s.Canonical) : NextCanonical (execSclz f s) := h.runSlot fun _ h => h.scalElems

theorem State.Canonical.execSpopc {f : VForm} {s : State} (h : s.Canonical) : NextCanonical (execSpopc f s) := h.runSlot fun _ h => h.scalElems

theorem State.Canonical.execScvt {f : VForm} {s : State} (h : s.Canonical) : NextCanonical (execScvt f s) := h.runSlot fun _ h => h.pathSlot

theorem State.Canonical.execSrd {f : VForm} {s : State} (h : s.Canonical) : NextCanonical (execSrd f s) :=
  h.runSlot fun _ h' => h'.entry fun _ _ _ h => h.result

theorem State.Canonical.execSetf {f : VForm} {s : State} (h : s.Canonical) : NextCanonical (execSetf f s) :=
  h.runSlot fun _ h' => h'.enter fun _ _ _ h => h.result

/-! ## Operations of Machine/Vector.lean -/

theorem State.Canonical.execVmov {f : VForm} {s : State} (h : s.Canonical) : NextCanonical (execVmov f s) := h.runSlot fun _ h => h.vecWhole

theorem State.Canonical.execVmovi {f : IForm} {s : State} (h : s.Canonical) : NextCanonical (execVmovi f s) := h.runSlot fun _ h => h.immSlot

theorem State.Canonical.execVadd {f : VForm} {s : State} (h : s.Canonical) : NextCanonical (execVadd f s) := h.runSlot fun _ h => h.vecElems

theorem State.Canonical.execVsub {f : VForm} {s : State} (h : s.Canonical) : NextCanonical (execVsub f s) := h.runSlot fun _ h => h.vecElems

theorem State.Canonical.execVmul {f : VForm} {s : State} (h : s.Canonical) : NextCanonical (execVmul f s) := h.runSlot fun _ h => h.vecElems

theorem State.Canonical.execVfma {f : VForm} {s : State} (h : s.Canonical) : NextCanonical (execVfma f s) := h.runSlot fun _ h => h.vecElems

theorem State.Canonical.execVmin {f : VForm} {s : State} (h : s.Canonical) : NextCanonical (execVmin f s) := h.runSlot fun _ h => h.vecElems

theorem State.Canonical.execVmax {f : VForm} {s : State} (h : s.Canonical) : NextCanonical (execVmax f s) := h.runSlot fun _ h => h.vecElems

theorem State.Canonical.execVabs {f : VForm} {s : State} (h : s.Canonical) : NextCanonical (execVabs f s) := h.runSlot fun _ h => h.vecElems

theorem State.Canonical.execVneg {f : VForm} {s : State} (h : s.Canonical) : NextCanonical (execVneg f s) := h.runSlot fun _ h => h.vecElems

theorem State.Canonical.execVdiv {f : VForm} {s : State} (h : s.Canonical) : NextCanonical (execVdiv f s) := h.runSlot fun _ h => h.vecElems

theorem State.Canonical.execVrem {f : VForm} {s : State} (h : s.Canonical) : NextCanonical (execVrem f s) := h.runSlot fun _ h => h.vecElems

theorem State.Canonical.execVand {f : VForm} {s : State} (h : s.Canonical) : NextCanonical (execVand f s) := h.runSlot fun _ h => h.vecElems

theorem State.Canonical.execVor {f : VForm} {s : State} (h : s.Canonical) : NextCanonical (execVor f s) := h.runSlot fun _ h => h.vecElems

theorem State.Canonical.execVxor {f : VForm} {s : State} (h : s.Canonical) : NextCanonical (execVxor f s) := h.runSlot fun _ h => h.vecElems

theorem State.Canonical.execVnot {f : VForm} {s : State} (h : s.Canonical) : NextCanonical (execVnot f s) := h.runSlot fun _ h => h.vecElems

theorem State.Canonical.execVshl {f : VForm} {s : State} (h : s.Canonical) : NextCanonical (execVshl f s) := h.runSlot fun _ h => h.vecElems

theorem State.Canonical.execVshr {f : VForm} {s : State} (h : s.Canonical) : NextCanonical (execVshr f s) := h.runSlot fun _ h => h.vecElems

theorem State.Canonical.execVclz {f : VForm} {s : State} (h : s.Canonical) : NextCanonical (execVclz f s) := h.runSlot fun _ h => h.vecElems

theorem State.Canonical.execVpopc {f : VForm} {s : State} (h : s.Canonical) : NextCanonical (execVpopc f s) := h.runSlot fun _ h => h.vecElems

theorem State.Canonical.execVmulh {f : VForm} {s : State} (h : s.Canonical) : NextCanonical (execVmulh f s) := h.runSlot fun _ h => h.vecElems

theorem State.Canonical.execVcpys {f : VForm} {s : State} (h : s.Canonical) : NextCanonical (execVcpys f s) := h.runSlot fun _ h => h.vecElems

theorem State.Canonical.execVcmp {f : VForm} {s : State} (h : s.Canonical) : NextCanonical (execVcmp f s) := h.runSlot fun _ h => h.maskSlot

theorem State.Canonical.execVsel {f : VForm} {s : State} (h : s.Canonical) : NextCanonical (execVsel f s) :=
  h.runSlot fun _ h' => h'.entry fun _ _ _ h => h.result

theorem State.Canonical.execKand {f : VForm} {s : State} (h : s.Canonical) : NextCanonical (execKand f s) := h.runSlot fun _ h => h.maskSlot

theorem State.Canonical.execKor {f : VForm} {s : State} (h : s.Canonical) : NextCanonical (execKor f s) := h.runSlot fun _ h => h.maskSlot

theorem State.Canonical.execKxor {f : VForm} {s : State} (h : s.Canonical) : NextCanonical (execKxor f s) := h.runSlot fun _ h => h.maskSlot

theorem State.Canonical.execKnot {f : VForm} {s : State} (h : s.Canonical) : NextCanonical (execKnot f s) := h.runSlot fun _ h => h.maskSlot

theorem State.Canonical.execKmovKk {f : VForm} {s : State} (h : s.Canonical) : NextCanonical (execKmovKk f s) := h.runSlot fun _ h => h.maskSlot

theorem State.Canonical.execKmovSk {f : VForm} {s : State} (h : s.Canonical) : NextCanonical (execKmovSk f s) := h.runSlot fun _ h => h.maskSlot

theorem State.Canonical.execKmovKs {f : VForm} {s : State} (h : s.Canonical) : NextCanonical (execKmovKs f s) :=
  h.runSlot fun _ h' => h'.entry fun _ _ _ h => h.result

theorem State.Canonical.execVcvt {f : VForm} {s : State} (h : s.Canonical) : NextCanonical (execVcvt f s) := h.runSlot fun _ h => h.laneSlot

theorem State.Canonical.execVpack {f : VForm} {s : State} (h : s.Canonical) : NextCanonical (execVpack f s) := h.runSlot fun _ h => h.laneSlot

theorem State.Canonical.execVunpk {f : VForm} {s : State} (h : s.Canonical) : NextCanonical (execVunpk f s) := h.runSlot fun _ h => h.laneSlot

theorem State.Canonical.execVrcp {f : VForm} {s : State} (h : s.Canonical) : NextCanonical (execVrcp f s) := h.runSlot fun _ h => h.sfuSlot

theorem State.Canonical.execVrsq {f : VForm} {s : State} (h : s.Canonical) : NextCanonical (execVrsq f s) := h.runSlot fun _ h => h.sfuSlot

theorem State.Canonical.execVsqrt {f : VForm} {s : State} (h : s.Canonical) : NextCanonical (execVsqrt f s) := h.runSlot fun _ h => h.sfuSlot

theorem State.Canonical.execVexp2 {f : VForm} {s : State} (h : s.Canonical) : NextCanonical (execVexp2 f s) := h.runSlot fun _ h => h.sfuSlot

theorem State.Canonical.execVlog2 {f : VForm} {s : State} (h : s.Canonical) : NextCanonical (execVlog2 f s) := h.runSlot fun _ h => h.sfuSlot

theorem State.Canonical.execVsin {f : VForm} {s : State} (h : s.Canonical) : NextCanonical (execVsin f s) := h.runSlot fun _ h => h.sfuSlot

theorem State.Canonical.execVcos {f : VForm} {s : State} (h : s.Canonical) : NextCanonical (execVcos f s) := h.runSlot fun _ h => h.sfuSlot

theorem State.Canonical.execVfdiv {f : VForm} {s : State} (h : s.Canonical) : NextCanonical (execVfdiv f s) := h.runSlot fun _ h => h.sfuSlot

theorem State.Canonical.execVtanh {f : VForm} {s : State} (h : s.Canonical) : NextCanonical (execVtanh f s) := h.runSlot fun _ h => h.sfuSlot

theorem State.Canonical.execVerf {f : VForm} {s : State} (h : s.Canonical) : NextCanonical (execVerf f s) := h.runSlot fun _ h => h.sfuSlot

/-! ## Operations of Machine/CrossLane.lean -/

theorem State.Canonical.execVshfl {f : VForm} {s : State} (h : s.Canonical) : NextCanonical (execVshfl f s) := by
  unfold Machine.execVshfl
  dsimp only
  refine h.runSlot fun _ h' => h'.enter fun _ _ _ h => ?_
  split
  · exact h.result
  · exact h.skip

theorem State.Canonical.oneResult {c : Ctx} {g : Group} {z : W64} {f : VForm} {x : W64} (h : c.s.Canonical) :
    (c.oneResult g z f x).Canonical := h.result

theorem State.Canonical.execVbcast {f : VForm} {s : State} (h : s.Canonical) : NextCanonical (execVbcast f s) := by
  unfold Machine.execVbcast
  dsimp only
  refine h.runSlot fun _ h' => h'.enter fun _ _ _ h => ?_
  split
  · exact h.oneResult
  · exact h.skip

theorem State.Canonical.execVvote {f : VForm} {s : State} (h : s.Canonical) : NextCanonical (execVvote f s) := h.runSlot fun _ h => h.maskSlot

theorem State.Canonical.execVballot {f : VForm} {s : State} (h : s.Canonical) : NextCanonical (execVballot f s) :=
  h.runSlot fun _ h' => h'.entry fun _ _ _ h => h.oneResult

theorem State.Canonical.execVredx {f : VForm} {s : State} (h : s.Canonical) : NextCanonical (execVredx f s) := by
  unfold Machine.execVredx
  dsimp only
  refine h.runSlot fun _ h' => h'.entry fun _ _ _ h => ?_
  split
  · exact h.trap
  · exact h.oneResult

theorem State.Canonical.execVscan {f : VForm} {s : State} (h : s.Canonical) : NextCanonical (execVscan f s) := by
  unfold Machine.execVscan
  dsimp only
  refine h.runSlot fun _ h' => h'.entry fun _ _ _ h => ?_
  split
  · exact h.trap
  · exact h.result

/-! ## Operations of Machine/Engines.lean -/

theorem State.Canonical.execEngineTakeCommand {z : EngineRef} {s : State} (h : s.Canonical) : NextCanonical (execEngineTakeCommand z s) := by
  unfold Machine.execEngineTakeCommand
  dsimp only
  refine .next (.ite h ?_)
  split
  · exact h
  · split
    · exact h
    · split <;> exact h.setGroup.setEngine

theorem State.Canonical.engineDone {s : State} {z : EngineRef} {b : Taken} {es : List QEntry} {n0 n1 n2 : Nat} (h : s.Canonical) :
    (s.engineDone z b es n0 n1 n2).Canonical := h.setEngine

theorem State.Canonical.engineFails {s : State} {z : EngineRef} {b : Taken} {f : FaultInfo} {status : List QEntry} {boundary : Bool}
    (h : s.Canonical) : (s.engineFails z b f status boundary).Canonical := .ite h.unitFails.setEngine h.unitFails.engineDone

theorem State.Canonical.releaseHeld {s : State} {i : Nat} {x : Engine} (h : s.Canonical) : (s.releaseHeld i x).Canonical := by
  unfold State.releaseHeld
  dsimp only
  split
  · split
    · exact .ite h h.withEngines
    · exact h
  · exact h

theorem State.Canonical.releaseEngines {s : State} (h : s.Canonical) : s.releaseEngines.Canonical := h.foldl fun _ _ h => h.releaseHeld

theorem State.Canonical.engineStops {s : State} {z : EngineRef} {b : Taken} {why : UnitStop} {status : FaultInfo → List QEntry} {boundary : Bool}
    (h : s.Canonical) : (s.engineStops z b why status boundary).Canonical := by
  unfold State.engineStops
  dsimp only
  split
  · exact h
  · exact h.engineFails
  · split
    · rename_i e
      have h' := State.Canonical.of_fst e h.unitParks
      exact h'.setEngine
    · rename_i e
      exact .engineFails (.of_fst e h.unitParks)

theorem State.Canonical.execEngineResultDeliver {z : EngineRef} {s : State} (h : s.Canonical) : NextCanonical (execEngineResultDeliver z s) := by
  unfold Machine.execEngineResultDeliver
  dsimp only
  refine .next ?_
  split
  · exact h
  · exact .ite h h.deliver.setEngine

end Sys2Proof.Machine
end

section
/-!
SUPPORT. Operations keep memory canonical (R86, log entry 2): cards, array resets, Traverse, the distributor, retirement and the reservoir.
-/
namespace Sys2Proof.Machine
open Sys2Proof

/-! ## Operations of Machine/Cards.lean -/

theorem State.Canonical.regionRead {s : State} {c : Card} {r : Region} (h : s.Canonical) : (s.regionRead c r).1.Canonical := by
  unfold State.regionRead
  dsimp only
  refine .ite_fst ?_ ?_
  · split
    all_goals
      rename_i e
      exact .of_fst e h.unitReads
  · split <;> exact h

theorem State.Canonical.regionReads {s : State} {c : Card} {rs : List Region} (h : s.Canonical) : (regionReads c s rs).1.Canonical := by
  induction rs generalizing s with
  | nil => exact h
  | cons r rs ih =>
      unfold Machine.regionReads
      split
      · rename_i e
        exact .of_fst e h.regionRead
      · rename_i e
        have h' := State.Canonical.of_fst e h.regionRead
        split
        all_goals
          rename_i e'
          exact .of_fst e' (ih h')

theorem State.Canonical.setCard {s : State} {c : Card} (h : s.Canonical) : (s.setCard c).Canonical := h.setPair

theorem State.Canonical.cardFails {s : State} {c : Card} {f : FaultInfo} (h : s.Canonical) : (s.cardFails c f).Canonical := h.setCard.unitFails

theorem State.Canonical.cardStops {s : State} {c : Card} {x2 : UnitStop} (h : s.Canonical) : (s.cardStops c x2).Canonical := by
  unfold State.cardStops
  split
  · exact h
  · exact h.cardFails
  · split
    · rename_i e
      exact .setCard (.of_fst e h.unitParks)
    · rename_i e
      exact .cardFails (.of_fst e h.unitParks)

theorem State.Canonical.logCard {s : State} {c : Card} {recs : List LogRec} (h : s.Canonical) : BothCanonical (s.logCard c recs) := by
  unfold State.logCard
  split
  · exact .ok h.setParcel
  · exact .error h.abortParcel

theorem State.Canonical.cardTiles {s : State} {c : Card} {ws : List CardWrite} (h : s.Canonical) : (s.cardTiles c ws).Canonical :=
  h.foldl fun _ _ h' => h'.foldl fun _ _ h => h.setTile

theorem State.Canonical.cardWrites {s : State} {c : Card} {ws : List CardWrite} (h : s.Canonical) : (s.cardWrites c ws).Canonical := by
  unfold State.cardWrites
  dsimp only
  split
  · rename_i e
    exact .cardStops (.of_fst e h.unitPieces)
  · rename_i e
    have h' := State.Canonical.of_fst e h.unitPieces
    refine .ite ?_ (.ite h'.cardStops h'.sendPieces.cardTiles.setCard)
    split
    · rename_i e₁
      exact .setCard (.cardTiles (.of_both_ok e₁ h'.logCard))
    · rename_i e₁
      exact .of_both_error e₁ h'.logCard

theorem State.Canonical.cardSums {s : State} {c : Card} {r : Region} {t : ElemType} {rows : List (List W64)} (h : s.Canonical) :
    (s.cardSums c r t rows).Canonical := by
  unfold State.cardSums
  dsimp only
  split
  · rename_i e
    exact .cardStops (.of_fst e h.regionRead)
  · rename_i e
    have h' := State.Canonical.of_fst e h.regionRead
    split
    · exact h'.cardFails
    · refine .ite h'.cardTiles.setCard ?_
      split
      · rename_i e₂
        exact .cardStops (.of_fst e₂ h'.unitPieces)
      · rename_i e₂
        have h'' := State.Canonical.of_fst e₂ h'.unitPieces
        refine .ite ?_ ?_
        · split
          · rename_i e₃
            exact .setCard (.of_both_ok e₃ h''.logCard)
          · rename_i e₃
            exact .of_both_error e₃ h''.logCard
        · split
          · exact h''.cardStops
          · rename_i e₃ _
            exact .setCard (.applyPieces (.of_some e₃ h''.crossPieces))
          · rename_i e₃ _
            exact .setCard (.sendAck (.applyPieces (.of_some e₃ h''.crossPieces)))

theorem State.Canonical.writeResult {s : State} {c : Card} {bs : List Byte} (h : s.Canonical) : (s.writeResult c bs).Canonical :=
  h.setCard.cardWrites

theorem State.Canonical.collectiveResult {s : State} {r : Except FaultInfo (List Byte)} {p : Participant} (h : s.Canonical) :
    (s.collectiveResult r p).Canonical := by
  unfold State.collectiveResult
  split
  · exact h.writeResult
  · exact h.cardFails
  · exact .ite h h.withReplies
  · exact .ite h h.withReplies

theorem State.Canonical.join {s : State} {p : Participant} (h : s.Canonical) : (s.join p).Canonical := by
  unfold State.join
  dsimp only
  split
  · exact h.withJoined
  · exact h.withJoined.nextFree.withJoined.foldl fun _ _ h => h.collectiveResult

theorem State.Canonical.takeCard {s : State} {c : Card} (h : s.Canonical) : (s.takeCard c).1.Canonical :=
  .ite_fst h (.setCard (.ite h.fresh h.fresh.setEngine))

theorem State.Canonical.runCard {s : State} {c : Card} (h : s.Canonical) : (s.runCard c).Canonical := by
  unfold State.runCard
  split
  · exact h.writeResult
  · split
    · rename_i e₁
      exact .cardStops (.of_fst e₁ h.regionReads)
    · rename_i e₁
      have h' := State.Canonical.of_fst e₁ h.regionReads
      refine .ite h'.setCard.join ?_
      split
      · exact h'.cardStops
      · exact h'.cardWrites
      · exact h'.cardSums

theorem State.Canonical.execJobCardDispatch {pair : Nat} {s : State} (h : s.Canonical) : NextCanonical (execJobCardDispatch pair s) := by
  unfold Machine.execJobCardDispatch
  dsimp only
  refine .next ?_
  split
  · exact h
  · split
    · exact h.takeCard.setCard
    · exact h.takeCard.runCard

theorem State.Canonical.countCard {s : State} {c : Card} (h : s.Canonical) : (s.countCard c).Canonical := .ite h h.setEngine

theorem State.Canonical.execJobCardComplete {card : Nat} {s : State} (h : s.Canonical) : NextCanonical (execJobCardComplete card s) := by
  unfold Machine.execJobCardComplete
  dsimp only
  refine .next ?_
  split
  · exact h
  · refine .ite h ?_
    split
    · exact h.setCard.deliver
    · exact .ite h h.setPair.countCard.deliver.completion
    · exact h

/-! ## Operations of Machine/ArrayReset.lean -/

theorem State.Canonical.resetParcel {s : State} {cause pair u : Nat} (h : s.Canonical) : (s.resetParcel cause pair u).Canonical := by
  unfold State.resetParcel
  split
  · exact h
  · exact .ite h.abortParcel h.post.endParcel

theorem State.Canonical.poisonTargets {s : State} {ops : List MtxOp} (h : s.Canonical) : (s.poisonTargets ops).Canonical := by
  unfold State.poisonTargets
  refine h.foldl fun _ _ h' => h'.foldl fun _ _ h => ?_
  split
  · exact h.setTile
  · exact h

theorem State.Canonical.resetCard {s : State} {cause pair : Nat} {c : Card} (h : s.Canonical) : (s.resetCard cause pair c).Canonical := by
  unfold State.resetCard
  dsimp only
  split
  · exact h.closeRecords.setCard
  · exact h.closeRecords.setCard.post.addLate

theorem State.Canonical.resetPair {s : State} {pair cause : Nat} (h : s.Canonical) : (s.resetPair pair cause).Canonical :=
  (h.poisonTargets.withGroups.setPair.foldl fun _ _ h => h.resetCard).foldl fun _ _ h => h.resetParcel

theorem State.Canonical.execMatrixWatchdog {pair : Nat} {s : State} (h : s.Canonical) : NextCanonical (execMatrixWatchdog pair s) :=
  .next (.ite h.resetPair h)

theorem State.Canonical.setMxrst {s : State} {x : W64} (h : s.Canonical) : (s.setMxrst x).Canonical := h.withControl

theorem State.Canonical.execMatrixResetCommand {src : ResetSource} {s : State} (h : s.Canonical) :
    NextCanonical (execMatrixResetCommand src s) := by
  unfold Machine.execMatrixResetCommand
  refine .next ?_
  split
  · exact .ite h.resetPair h
  · exact .ite h (.ite h.setMxrst.resetPair h.setMxrst)

theorem State.Canonical.execMatrixResetComplete {pair : Nat} {s : State} (h : s.Canonical) : NextCanonical (execMatrixResetComplete pair s) :=
  .next (.ite h (.ite h.setPair.setMxrst h.setPair))

/-! ## Operations of Machine/Traverse.lean -/

theorem State.Canonical.submit {c : Ctx} {s : State} {g : Group} {d : Decl} (h : s.Canonical) : (c.submit s g d).1.Canonical :=
  h.fresh.setDie.withDecls

theorem State.Canonical.execTvdecl {f : MForm} {s : State} (h : s.Canonical) : NextCanonical (execTvdecl f s) := by
  unfold Machine.execTvdecl
  dsimp only
  refine h.runSlot fun _ h' => h'.enter fun _ _ _ h => ?_
  split
  · rename_i e
    exact .stop (.of_fst e h.capLanes)
  · rename_i e
    have h'' := State.Canonical.of_fst e h.capLanes
    split
    · exact .stop h''
    · refine .ite (.stop h'') ?_
      split
      · exact .stop h''.transLanes
      · exact .ite (.done h''.transLanes) (.ite (.stop h''.transLanes) (h''.transLanes.releaseWait.slot fun _ _ h => .done h.submit))

theorem State.Canonical.execTvwait {f : VForm} {s : State} (h : s.Canonical) : NextCanonical (execTvwait f s) := by
  unfold Machine.execTvwait
  dsimp only
  refine h.runSlot fun _ h => .ite h.skip ?_
  split
  · exact h.trap
  · split
    · exact h.trap
    · exact .stop h
    · exact .ite (.done h.acquire) h.block

theorem State.Canonical.execTvend {f : VForm} {s : State} (h : s.Canonical) : NextCanonical (execTvend f s) := by
  unfold Machine.execTvend
  dsimp only
  refine h.runSlot fun _ h => .ite h.skip ?_
  split
  · exact h.trap
  · split
    · exact h.trap
    · exact .stop h
    · exact h.release.slot fun _ _ h => .done h.closeTransaction

/-! ## Operations of Machine/Beats.lean -/

theorem State.Canonical.closeBatch {s : State} {die : Nat} (h : s.Canonical) : (s.closeBatch die).Canonical := h.setDie.withDecls

theorem State.Canonical.exchangeBatches {s : State} (h : s.Canonical) : OptCanonical s.exchangeBatches := h.crossWays

theorem State.Canonical.failDecl {s : State} {d : TvDecl} {f : FaultInfo} (h : s.Canonical) : (s.failDecl d f).Canonical := by
  unfold State.failDecl
  dsimp only
  split
  · split
    · exact .ite h.endEntries.setGroup h.endEntries
    · exact h.endEntries
  · exact h.endEntries

theorem State.Canonical.execBeatEnd {s : State} (h : s.Canonical) : NextCanonical (execBeatEnd s) := by
  unfold Machine.execBeatEnd
  dsimp only
  refine .next (.ite h ?_)
  split
  · exact h
  · rename_i e
    have h' := State.Canonical.of_some e h.exchangeBatches
    refine .withControl (.foldl ((h'.foldl fun _ _ h => h.endEntries).foldl fun _ _ h => ?_) fun _ _ h => .ite h h.closeBatch)
    split
    · exact h.failDecl
    · exact h

theorem State.Canonical.placeAt {s : State} {d : TvDecl} {homes : List (Nat × Nat × Nat)} {y : Nat × Nat} (h : s.Canonical) :
    (s.placeAt d homes y).Canonical := .ite h h.setDie

theorem State.Canonical.placeDecl {s : State} {d : TvDecl} {homes : List (Nat × Nat × Nat)} (h : s.Canonical) :
    (s.placeDecl d homes).Canonical := by
  unfold State.placeDecl
  dsimp only
  split
  · exact h.failDecl
  · exact .ite (h.foldl fun _ _ h => h.placeAt).withDecls h.withDecls

theorem State.Canonical.holdDecl {s : State} {d : TvDecl} {va : Nat} (h : s.Canonical) : (s.holdDecl d va).Canonical := by
  unfold State.holdDecl
  dsimp only
  split
  · exact h.endEntries
  · exact h.post.withDecls

theorem State.Canonical.execGrantPlacement {s : State} (h : s.Canonical) : NextCanonical (execGrantPlacement s) := by
  unfold Machine.execGrantPlacement
  refine .next ?_
  split
  · exact h
  · refine .ite h ?_
    split
    · rename_i e₁
      exact .placeDecl (.of_fst e₁ h.unitCells)
    · rename_i e₁
      exact .of_fst e₁ h.unitCells
    · rename_i e₁
      exact .holdDecl (.of_fst e₁ h.unitCells)
    · rename_i e₁
      exact .failDecl (.of_fst e₁ h.unitCells)

/-! ## Operations of Machine/Control.lean -/

theorem State.Canonical.leave {c : Ctx} {dest : Goto} (h : c.s.Canonical) : (c.leave dest).Canonical := .done h

theorem State.Canonical.execBr {f : BForm} {s : State} (h : s.Canonical) : NextCanonical (execBr f s) :=
  h.runSlot fun _ h => .ite (.ite h.leave (.ite h.leave (.ite h.trap h.leave))) (.ite h.leave h.leave)

theorem State.Canonical.execJmp {f : BForm} {s : State} (h : s.Canonical) : NextCanonical (execJmp f s) := h.runSlot fun _ h => h.leave

theorem State.Canonical.execLoop {f : BForm} {s : State} (h : s.Canonical) : NextCanonical (execLoop f s) :=
  h.runSlot fun _ h => .ite h.leave (.ite h.block (.ite h.leave (.ite (.done h) (.done h.fillLoop))))

theorem State.Canonical.closeAtEnd {s : State} {g : Group} (h : s.Canonical) : (s.closeAtEnd g).Canonical := by
  unfold State.closeAtEnd
  dsimp only
  split
  · exact .ok h
  · split
    · exact .ok h
    · exact .stop h
    · exact (h.commit.andThen fun _ _ h => h.releaseWait).andThen fun _ _ h => .ok h.closeTransaction

theorem State.Canonical.execExit {f : VForm} {s : State} (h : s.Canonical) : NextCanonical (execExit f s) := by
  unfold Machine.execExit
  dsimp only
  refine h.runSlot fun _ h => .ite h.leave ?_
  split
  · exact .stop h
  · exact .ite (.ite h.block (.ite h.block (h.closeAtEnd.slot fun _ _ h => .done h.endGroup))) (.done h)

theorem State.Canonical.give {s : State} {g : Group} {n : Nat} (h : s.Canonical) : (s.give g n).1.Canonical := h.setGroup.returnBlocks

theorem State.Canonical.claim {s : State} {g : Group} {n : Nat} (h : s.Canonical) : (s.claim g n).Canonical := by
  unfold State.claim
  dsimp only
  exact .ite (.ite (.stop h.setParcel.setGroup.returnBlocks) (.ok h.setParcel.setGroup.returnBlocks.deadlockCheck))
      (.ok h.setParcel.setGroup.returnBlocks)

theorem State.Canonical.allotTrap {c : Ctx} {cause request : Nat} (h : c.s.Canonical) : (c.allotTrap cause request).Canonical := h.trap

theorem State.Canonical.execReggive {f : VForm} {s : State} (h : s.Canonical) : NextCanonical (execReggive f s) :=
  h.runSlot fun _ h => .ite h.skip (.ite h.allotTrap (.ite h.allotTrap (.done h.give)))

theorem State.Canonical.execRegclaim {f : VForm} {s : State} (h : s.Canonical) : NextCanonical (execRegclaim f s) :=
  h.runSlot fun _ h' => .ite h'.skip (.ite h'.allotTrap (.ite h'.allotTrap (h'.claim.slot fun _ _ h => .done h)))

theorem State.Canonical.exchange {c : Ctx} {s : State} {g : Group} {x : LaneAcc} {w : W128} (h : s.Canonical) :
    (c.exchange s g x w).Canonical := .ite h.logFor (.ok h.updateL1.applyWrite)

theorem State.Canonical.execRolesw {f : VForm} {s : State} (h : s.Canonical) : NextCanonical (execRolesw f s) := by
  unfold Machine.execRolesw
  dsimp only
  refine h.runSlot fun _ h' => h'.entry fun _ _ _ h => .ite h.allotTrap ?_
  split
  · rename_i e
    exact .stop (.of_fst e h.resolve)
  · rename_i e
    have h'' := State.Canonical.of_fst e h.resolve
    split
    · exact .stop h''
    · rename_i e₁
      have h''' := State.Canonical.of_ok e₁ h''.readNow
      split
      · exact .stop h'''
      · exact .ite (.stop h''') (.ite (.stop h''') (h'''.exchange.slot fun _ _ h'''' => .ite (.done h''''.give)
          (.ite (h''''.claim.slot fun _ _ h => .done h) (.done h''''))))

/-! ## Operations of Machine/Distributor.lean -/

theorem State.Canonical.execResourceReport {core : Nat} {s : State} (h : s.Canonical) : NextCanonical (execResourceReport core s) := by
  unfold Machine.execResourceReport
  dsimp only
  refine .next (.ite ?_ h)
  split
  · rename_i e
    have h' := State.Canonical.of_some e h.crossNow
    exact h'.setDie.setCore
  · exact h

theorem State.Canonical.takeParcel {s : State} {vf n : Nat} {x : NextParcel} (h : s.Canonical) : (s.takeParcel vf n x).Canonical := by
  unfold State.takeParcel
  dsimp only
  split
  · exact h.setVf.noteBacklog
  · exact h.setLaunch.noteBacklog

theorem State.Canonical.execDispatch {s : State} (h : s.Canonical) : NextCanonical (execDispatch s) := by
  unfold Machine.execDispatch
  dsimp only
  refine .next (.ite h ?_)
  split
  · exact h
  · split
    · exact h
    · exact h.takeParcel.fresh.withPlacements

theorem State.Canonical.setAside {s : State} {k : Kernel} {u core : Nat} {lead : Bool} (h : s.Canonical) :
    OptCanonical (s.setAside k u core lead) := .ite .none (.ite (.map_of fun _ => h.setCore.setDie) (.some h.setCore))

theorem State.Canonical.releaseStakes {s : State} {p : Placement} {k : Kernel} (h : s.Canonical) : (s.releaseStakes p k).Canonical :=
  h.foldl fun _ _ h => .ite h.giveBack.setDie h.giveBack

theorem State.Canonical.dropPlacement {s : State} {p : Placement} (h : s.Canonical) : (s.dropPlacement p).Canonical :=
  h.releaseStakes.withPlacements

theorem State.Canonical.cancelPlacement {s : State} {p : Placement} (h : s.Canonical) : (s.cancelPlacement p).Canonical := h.dropPlacement.atHead

theorem State.Canonical.cancelPlacements {s : State} {sel : Placement → Bool} (h : s.Canonical) : (s.cancelPlacements sel).Canonical :=
  h.foldl fun _ _ h => h.cancelPlacement

theorem State.Canonical.refuseStake {s : State} {p : Placement} {k : Kernel} (h : s.Canonical) : (s.refuseStake p k).Canonical :=
  h.releaseStakes.setPlacement.withControl

theorem State.Canonical.execStake {placement core : Nat} {s : State} (h : s.Canonical) : NextCanonical (execStake placement core s) := by
  unfold Machine.execStake
  dsimp only
  refine .next ?_
  split
  · exact h
  · refine .ite h.dropPlacement (.ite h ?_)
    split
    · exact h
    · rename_i e₁
      have h' := State.Canonical.of_some e₁ h.crossNow
      split
      · rename_i e₂
        exact .setPlacement (.of_some e₂ (.ite h'.setAside .none))
      · exact h'.refuseStake

theorem State.Canonical.nextAttempt {s : State} {p : Placement} {cores : List Nat} (h : s.Canonical) : (s.nextAttempt p cores).Canonical :=
  h.withPlacements

theorem State.Canonical.execStakeRetry {placement : Nat} {s : State} (h : s.Canonical) : NextCanonical (execStakeRetry placement s) := by
  unfold Machine.execStakeRetry
  dsimp only
  refine .next ?_
  split
  · exact h
  · exact .ite h.dropPlacement (.ite h (.ite (.ite h.nextAttempt h) (.ite h h.nextAttempt)))

theorem State.Canonical.placeGroups {s : State} {l : Launch} {parcel core n i : Nat} (h : s.Canonical) :
    (placeGroups l parcel core n i s).Canonical := by
  induction n generalizing s i with
  | zero => exact h
  | succ n ih =>
      unfold Machine.placeGroups
      exact ih h.fresh.withGroups

theorem State.Canonical.placeParcel {s : State} {l : Launch} {b : Box} {u core : Nat} (h : s.Canonical) :
    (s.placeParcel l b u core).Canonical := (h.withParcels.foldl fun _ _ h => h.invalidateL1).placeGroups

theorem State.Canonical.countDispatch {s : State} {vf n : Nat} (h : s.Canonical) : (s.countDispatch vf n).Canonical := h.setVf.withControl

theorem State.Canonical.execPlacementCommit {placement : Nat} {s : State} (h : s.Canonical) :
    NextCanonical (execPlacementCommit placement s) := by
  unfold Machine.execPlacementCommit
  dsimp only
  refine .next ?_
  split
  · exact h
  · refine .ite h.dropPlacement (.ite h ?_)
    split
    · exact h
    · rename_i e₁
      have h' := State.Canonical.of_some e₁ h.crossNow
      split
      · split
        · exact h'.withPlacements.countDispatch.setParcel
        · exact h'.withPlacements.countDispatch
      · exact h'.withPlacements.countDispatch.placeParcel
      · exact h'.withPlacements.countDispatch

/-! ## Operations of Machine/Retire.lean -/

theorem State.Canonical.translateGroups {s : State} {l : Launch} {gs : List Group} (h : s.Canonical) : (translateGroups l s gs).1.Canonical := by
  induction gs generalizing s with
  | nil => exact h
  | cons g gs ih =>
      unfold Machine.translateGroups
      exact ih h.translateEntries

theorem State.Canonical.commitGroups {s : State} {gs : List Group} (h : s.Canonical) : BothCanonical (commitGroups gs s) := by
  induction gs generalizing s with
  | nil => exact .ok h
  | cons g gs ih =>
      unfold Machine.commitGroups
      split
      · rename_i e
        exact ih (.setGroup (.of_act_ok e h.commit))
      · rename_i e
        exact .error (.abortParcel (.setGroup (.of_act_stop e h.commit)))
      · rename_i e
        exact .error (.setGroup (.of_act_stop e h.commit))

theorem State.Canonical.holdParcel {s : State} {p : Parcel} {r : FaultRecord} (h : s.Canonical) : (s.holdParcel p r).Canonical := h.post.setParcel

theorem State.Canonical.retireCommit {s : State} {p : Parcel} (h : s.Canonical) : (s.retireCommit p).Canonical := by
  unfold State.retireCommit
  dsimp only
  split
  · rename_i e
    exact .endParcel (.post (.of_fst e h.setParcel.translateGroups))
  · rename_i e
    exact .holdParcel (.of_fst e h.setParcel.translateGroups)
  · rename_i e
    exact .of_fst e h.setParcel.translateGroups
  · rename_i e
    have h' := State.Canonical.of_fst e h.setParcel.translateGroups
    split
    · rename_i e₁
      exact .of_both_error e₁ h'.commitGroups
    · rename_i e₁
      have h'' := State.Canonical.of_both_ok e₁ h'.commitGroups
      split
      · exact h''.setParcel
      · exact h''

theorem State.Canonical.translateLog {s : State} {l : Launch} {before rs : List LogRec} (h : s.Canonical) :
    (translateLog l s before rs).1.Canonical := by
  induction rs generalizing s before with
  | nil => exact h
  | cons r rs ih =>
      unfold Machine.translateLog
      dsimp only
      split <;> exact ih h.unitCells

theorem State.Canonical.crossEach {s : State} {xs : List (Nat × List Nat)} (h : s.Canonical) : OptCanonical (crossEach xs s) := by
  induction xs generalizing s with
  | nil => exact .some h
  | cons x xs ih => exact h.crossNow.bind fun _ h => ih h

theorem State.Canonical.updateCores {s : State} {cores : List Nat} {ps : List WritePiece} (h : s.Canonical) :
    (s.updateCores cores ps).Canonical := h.foldl fun _ _ h' => h'.foldl fun _ _ h => h.updateL1

theorem State.Canonical.applyBytes {s : State} {vf die : Nat} {cores : List Nat} {ws : List (Nat × List Byte)} (h : s.Canonical) :
    (s.applyBytes vf die cores ws).1.Canonical := by
  unfold State.applyBytes
  split
  · rename_i e
    exact .of_fst e h.unitPieces
  · rename_i e
    exact .updateCores (.applyPieces (.of_fst e h.unitPieces))

theorem State.Canonical.poisonBytes {s : State} {vf va n : Nat} (h : s.Canonical) : (s.poisonBytes vf va n).Canonical := by
  unfold State.poisonBytes
  split
  · rename_i e
    exact .foldl (.of_fst e h.unitCells) fun _ _ h => h.withPoison
  · rename_i e
    exact .of_fst e h.unitCells

theorem State.Canonical.applyRecord {s : State} {p : Parcel} {k : Kernel} {vf : Nat} {r : LogRec} (h : s.Canonical) :
    (s.applyRecord p k vf r).1.Canonical := by
  unfold State.applyRecord
  dsimp only
  split
  · exact .ite_fst h.post h.applyBytes
  · split
    · rename_i e₁
      have h' := State.Canonical.of_fst e₁ h.translate
      split
      · rename_i e₂
        exact .setList (.of_fst e₂ h'.appendRecord)
      · rename_i e₂
        exact .of_fst e₂ h'.appendRecord
    · rename_i e₂
      exact .of_fst e₂ h.translate
  · exact h
  · exact h
  · exact h
  · exact .ite (h.applyBytes.foldl fun _ _ h => h.poisonBytes) h.applyBytes
  · exact .ite (h.applyBytes.foldl fun _ _ h => h.poisonBytes) h.applyBytes
  · exact .ite (h.applyBytes.foldl fun _ _ h => h.poisonBytes) h.applyBytes
  · exact .ite (h.applyBytes.foldl fun _ _ h => h.poisonBytes) h.applyBytes

theorem State.Canonical.applyRecords {s : State} {p : Parcel} {k : Kernel} {vf : Nat} {rs : List LogRec} (h : s.Canonical) :
    (applyRecords p k vf s rs).1.Canonical := by
  induction rs generalizing s with
  | nil => exact h
  | cons r rs ih =>
      unfold Machine.applyRecords
      exact ih h.applyRecord

theorem State.Canonical.endClosed {s : State} {u : Nat} (h : s.Canonical) : (s.endClosed u).Canonical :=
  h.foldl fun _ _ h' => h'.foldl fun _ _ h => h.endEntries

theorem State.Canonical.applyLog {s : State} {p : Parcel} {l : Launch} (h : s.Canonical) : (s.applyLog p l).Canonical :=
  (h.applyRecords.foldl fun _ _ h => h.sendAck).endClosed.setParcel

theorem State.Canonical.sendLog {s : State} {p : Parcel} {l : Launch} {cells : List (Nat × Nat)} (h : s.Canonical) :
    OptCanonical (s.sendLog p l cells) := h.crossEach.map fun _ h => h.applyLog

theorem State.Canonical.execCommitLogApply {parcel : Nat} {s : State} (h : s.Canonical) : NextCanonical (execCommitLogApply parcel s) := by
  unfold Machine.execCommitLogApply
  dsimp only
  refine .next ?_
  split
  · exact h
  · refine .ite h ?_
    split
    · rename_i e₁
      have h' := State.Canonical.of_fst e₁ h.translateLog
      exact h'.getD h'.sendLog
    · rename_i e₁
      exact .endParcel (.post (.setParcel (.of_fst e₁ h.translateLog)))
    · rename_i e₁
      exact .holdParcel (.of_fst e₁ h.translateLog)
    · rename_i e₃
      exact .of_fst e₃ h.translateLog

theorem State.Canonical.issueLaunch {s : State} {p : Parcel} {l : Launch} (h : s.Canonical) : (s.issueLaunch p l).Canonical := by
  unfold State.issueLaunch
  dsimp only
  split
  · exact .ite h.appendLaunch.setParcel h
  · exact h.setParcel

theorem State.Canonical.removeParcel {s : State} {p : Parcel} {placed : Bool} (h : s.Canonical) : (s.removeParcel p placed).Canonical :=
  (h.settleLists.foldl fun _ _ h => h.endEntries).dropCards.releaseParcel.withGroupsParcels

theorem State.Canonical.returnEnded {s : State} {p : Parcel} {placed : Bool} (h : s.Canonical) : (s.returnEnded p placed).Canonical :=
  .ite h h.dropCards.releaseParcel.withGroupsParcels

theorem State.Canonical.execParcelRetire {parcel : Nat} {s : State} (h : s.Canonical) : NextCanonical (execParcelRetire parcel s) := by
  unfold Machine.execParcelRetire
  dsimp only
  refine .next ?_
  split
  · exact h
  · split
    · exact .ite h.retireCommit h
    · exact .ite h.retireCommit h
    · exact .ite h.retireCommit h
    · exact .ite h h.retireCommit
    · exact h.issueLaunch
    · exact .ite h.removeParcel h
    · exact h.returnEnded
    · exact h

theorem State.Canonical.execLaunchComplete {launch : Nat} {s : State} (h : s.Canonical) : NextCanonical (execLaunchComplete launch s) := by
  unfold Machine.execLaunchComplete
  dsimp only
  refine .next ?_
  split
  · exact h
  · exact .ite h h.setVf.setLaunch.noteBacklog

/-! ## Operations of Machine/FaultQueue.lean -/

theorem State.Canonical.execFaultRecordDeliver {vf : Nat} {s : State} (h : s.Canonical) : NextCanonical (execFaultRecordDeliver vf s) := by
  unfold Machine.execFaultRecordDeliver
  dsimp only
  refine .next ?_
  split
  · refine .ite h ?_
    split
    · exact h.setVf.toRing
    · exact h.setVf
  · split
    · split
      · rename_i e₂
        exact .setVf (.of_some e₂ h.recordCrosses)
      · exact h
    · exact h

theorem State.Canonical.unpark {s : State} {vf : Nat} {r : FaultRecord} (h : s.Canonical) : (s.unpark vf r).Canonical := by
  unfold State.unpark
  dsimp only
  split
  · split
    · exact .ite h.setRecord.wake h.setRecord
    · exact h.setRecord
  · exact h.setRecord

theorem State.Canonical.execFqresume {vf : Nat} {value : W64} {s : State} (h : s.Canonical) : NextCanonical (execFqresume vf value s) :=
  .next (h.foldl fun _ _ h => h.unpark)

theorem State.Canonical.giveUpLaunch {s : State} {u : Nat} (h : s.Canonical) : (s.giveUpLaunch u).Canonical := by
  unfold State.giveUpLaunch
  dsimp only
  split
  · exact h
  · exact h.setVf.failLaunch

theorem State.Canonical.execFqactEnd {vf : Nat} {seq : W32} {s : State} (h : s.Canonical) : NextCanonical (execFqactEnd vf seq s) := by
  unfold Machine.execFqactEnd
  dsimp only
  refine .next ?_
  split
  · exact h
  · refine .ite h ?_
    split
    · exact h.setRecord.giveUpLaunch
    · split
      · exact h.setRecord.endParcel
      · exact h.setRecord

theorem State.Canonical.execFqactResume {vf : Nat} {seq : W32} {s : State} (h : s.Canonical) : NextCanonical (execFqactResume vf seq s) := by
  unfold Machine.execFqactResume
  refine .next ?_
  split
  · exact h
  · refine .ite h (.ite h.unpark ?_)
    split
    · split
      · exact h
      · exact .ite h (.ite h.setRecord.resumeGroup (.ite h.setRecord.resumeBreak h))
    · exact h

/-! ## Operations of Machine/Reservoir.lean -/

theorem State.Canonical.raySlot {c : Ctx} {z : W64} {dsts srcs : List Use} {captures : Bool} {body : Ctx → Group → List Src → Slot} {o : Start}
    (h : c.s.Canonical) (hbody : ∀ c g1 x2, c.s.Canonical → (body c g1 x2).Canonical) : (c.raySlot z dsts srcs captures body o).Canonical :=
  h.enter fun _ _ _ h => hbody _ _ _ h

theorem State.Canonical.quadResult {c : Ctx} {g : Group} {z : W64} {o : Operand} {f : Nat → Nat} (h : c.s.Canonical) :
    (c.quadResult g z o f).Canonical := .done h

theorem State.Canonical.execRng {f : VForm} {s : State} (h : s.Canonical) : NextCanonical (execRng f s) :=
  h.runSlot fun _ h' => h'.raySlot fun _ _ _ h => h.result

theorem State.Canonical.execRngu {f : VForm} {s : State} (h : s.Canonical) : NextCanonical (execRngu f s) :=
  h.runSlot fun _ h' => h'.raySlot fun _ _ _ h => h.result

theorem State.Canonical.resample {c : Ctx} {f : VForm} {srcs : List Use} {step : Ctx → List Src → Nat → Reservoir → Reservoir} (h : c.s.Canonical) :
    (c.resample f srcs step).Canonical := h.raySlot fun _ _ _ h => h.quadResult

theorem State.Canonical.execRsvinit {f : VForm} {s : State} (h : s.Canonical) : NextCanonical (execRsvinit f s) := h.runSlot fun _ h => h.resample

theorem State.Canonical.execRsvupd {f : VForm} {s : State} (h : s.Canonical) : NextCanonical (execRsvupd f s) := h.runSlot fun _ h => h.resample

theorem State.Canonical.execRsvmrg {f : VForm} {s : State} (h : s.Canonical) : NextCanonical (execRsvmrg f s) := h.runSlot fun _ h => h.resample

theorem State.Canonical.execRsvnrm {f : VForm} {s : State} (h : s.Canonical) : NextCanonical (execRsvnrm f s) := h.runSlot fun _ h => h.resample

theorem State.Canonical.rsvWrite {s : State} {die vf byte x : Nat} (h : s.Canonical) : (s.rsvWrite die vf byte x).Canonical := h.setDie

theorem State.Canonical.crossHalo {s : State} {die : Nat} {ps : List RsvPlace} (h : s.Canonical) : OptCanonical (crossHalo die ps s) := by
  induction ps generalizing s with
  | nil => exact .some h
  | cons p ps ih =>
      unfold Machine.crossHalo
      split
      · exact .some h
      · rename_i e
        cases e
        exact h.crossNow.bind fun _ h => ih h
      · rename_i e
        cases e
        exact ih h

theorem State.Canonical.rsvWriter {c : Ctx} {f : VForm} {op : Nat} {srcs : List Use} {check : Ctx → List Src → Option FaultInfo}
    {body : Ctx → Group → List Src → State} {reads : Ctx → List Src → List RsvPlace} (h : c.s.Canonical)
    (hbody : ∀ c g1 x2, c.s.Canonical → (body c g1 x2).Canonical) : (c.rsvWriter f op srcs check body reads).Canonical := by
  unfold Ctx.rsvWriter
  dsimp only
  refine h.raySlot fun _ _ _ h => ?_
  split
  · exact .stop h
  · refine .ite h.block ?_
    split
    · rename_i e₁
      exact .done (hbody _ _ _ (.put (.of_some e₁ h.crossHalo)))
    · exact h.block

theorem State.Canonical.putRecords {c : Ctx} {z : W64} {p : Src} {k : Nat} {x : Nat → Nat} (h : c.s.Canonical) :
    (c.putRecords z p k x).Canonical := h.foldl fun _ _ h => h.rsvWrite

theorem State.Canonical.execRsvld {f : VForm} {s : State} (h : s.Canonical) : NextCanonical (execRsvld f s) := by
  unfold Machine.execRsvld
  dsimp only
  refine h.runSlot fun _ h' => h'.raySlot fun _ _ _ h => ?_
  split
  · exact .stop h
  · exact h.issueLoad

theorem State.Canonical.execRsvst {f : VForm} {s : State} (h : s.Canonical) : NextCanonical (execRsvst f s) :=
  h.runSlot fun _ h' => h'.rsvWriter fun _ _ _ h => h.putRecords

theorem State.Canonical.execRsvclr {f : VForm} {s : State} (h : s.Canonical) : NextCanonical (execRsvclr f s) :=
  h.runSlot fun _ h' => h'.rsvWriter fun _ _ _ h => h.putRecords

theorem State.Canonical.execRsvcpy {f : VForm} {s : State} (h : s.Canonical) : NextCanonical (execRsvcpy f s) :=
  h.runSlot fun _ h' => h'.rsvWriter fun _ _ _ h => h.putRecords

theorem State.Canonical.execMotv {f : VForm} {s : State} (h : s.Canonical) : NextCanonical (execMotv f s) :=
  h.runSlot fun _ h' => h'.raySlot fun _ _ _ h => h.result

end Sys2Proof.Machine
end

section
/-!
SUPPORT. Operations keep memory canonical (R86, log entry 2): rays, work lists, geometry, links, migration, homes and moves.
-/
namespace Sys2Proof.Machine
open Sys2Proof

/-! ## Operations of Machine/Ray.lean -/

theorem State.Canonical.regionOk {c : Ctx} {s : State} {reg : Nat} {k : Cap} {need a n lane align : Nat} (h : s.Canonical) :
    (c.regionOk s reg k need a n lane align).1.Canonical := by
  unfold Ctx.regionOk
  split
  all_goals
    rename_i e
    exact .of_fst e h.capCheck

theorem State.Canonical.attachScene {c : Ctx} {reg off lane : Nat} {bad : FaultInfo} (h : c.s.Canonical) :
    (c.attachScene reg off lane bad).1.Canonical := by
  unfold Ctx.attachScene
  dsimp only
  split
  · rename_i e
    exact .of_fst e h.readDescriptor
  · rename_i e
    have h' := State.Canonical.of_fst e h.readDescriptor
    refine .ite_fst h' ?_
    split
    · rename_i e₁
      exact .of_fst e₁ h'.regionOk
    · rename_i e₁
      have h'' := State.Canonical.of_fst e₁ h'.regionOk
      refine .ite_fst h'' ?_
      split
      all_goals
        rename_i e₂
        exact .of_fst e₂ h''.regionOk

theorem State.Canonical.attachSlot {c : Ctx} {f : QForm} {port : Nat}
    {read : Ctx → Nat → Nat → Nat → FaultInfo → State × Except Stop Attached} (h : c.s.Canonical)
        (hr : ∀ c reg off l bad, c.s.Canonical → (read c reg off l bad).1.Canonical) : (c.attachSlot f port read).Canonical := by
  unfold Ctx.attachSlot
  dsimp only
  refine h.raySlot fun _ _ _ h => ?_
  split
  · rename_i e
    exact .stop (.of_fst e (hr _ _ _ _ _ h))
  · rename_i e
    exact .done (.of_fst e (hr _ _ _ _ _ h))

theorem State.Canonical.execScnbind {f : QForm} {s : State} (h : s.Canonical) : NextCanonical (execScnbind f s) :=
  h.runSlot fun _ h' => h'.attachSlot fun _ _ _ _ _ h => h.attachScene

theorem State.Canonical.requestSlot {c : Ctx} {f : QForm} {port : Nat} {flags trap : W64 → Option FaultInfo} {cmd : W64 → Attached → Cmd}
    (h : c.s.Canonical) : (c.requestSlot f port flags trap cmd).Canonical := by
  unfold Ctx.requestSlot
  dsimp only
  refine h.raySlot fun _ _ _ h => h.notBehind (.ite (.stop h) ?_)
  split
  · exact h.skip
  · exact .done h

theorem State.Canonical.raySubmit {c : Ctx} {f : QForm} {any : Bool} (h : c.s.Canonical) : (c.raySubmit f any).Canonical := by
  unfold Ctx.raySubmit
  dsimp only
  exact h.requestSlot

theorem State.Canonical.execRayq {f : QForm} {s : State} (h : s.Canonical) : NextCanonical (execRayq f s) := h.runSlot fun _ h => h.raySubmit

theorem State.Canonical.execRays {f : QForm} {s : State} (h : s.Canonical) : NextCanonical (execRays f s) := h.runSlot fun _ h => h.raySubmit

theorem State.Canonical.execRayResult {core : Nat} {s : State} (h : s.Canonical) : NextCanonical (execRayResult core s) := by
  unfold Machine.execRayResult
  dsimp only
  refine .next ?_
  split
  · split
    · split
      · exact h.engineStops
      · exact h.engineDone
    · exact h
  · exact h

theorem State.Canonical.execHitunp {f : VForm} {s : State} (h : s.Canonical) : NextCanonical (execHitunp f s) :=
  h.runSlot fun _ h' => h'.raySlot fun _ _ _ h => h.result

theorem State.Canonical.execRayorg {f : VForm} {s : State} (h : s.Canonical) : NextCanonical (execRayorg f s) :=
  h.runSlot fun _ h' => h'.raySlot fun _ _ _ h => .done h

/-! ## Operations of Machine/WorkList.lean -/

theorem State.Canonical.listRef {c : Ctx} {f : MForm} {z : W64} {i : Src} (h : c.s.Canonical) : (c.listRef f z i).1.Canonical := by
  unfold Ctx.listRef
  dsimp only
  split
  · rename_i e
    exact .of_fst e h.resolve
  · rename_i e
    have h' := State.Canonical.of_fst e h.resolve
    split
    · exact h'
    · rename_i e₁
      split <;> exact .of_ok e₁ h'.readNow

theorem State.Canonical.recordCells {c : Ctx} {s : State} {f : MForm} {d : ListDesc} {n m : Nat} {kind : Access} (h : s.Canonical) :
    (c.recordCells s f d n m kind).1.Canonical := by
  unfold Ctx.recordCells
  dsimp only
  split
  · rename_i e
    exact .of_fst e h.object
  · rename_i e
    have h' := State.Canonical.of_fst e h.object
    refine .ite_fst h' (.ite_fst h' ?_)
    split <;> exact h'.transLanes

theorem State.Canonical.coreWrite {s : State} {core cell : Nat} {bs : List Byte} (h : s.Canonical) : (s.coreWrite core cell bs).Canonical :=
  h.updateL1.applyWrite

theorem State.Canonical.putList {c : Ctx} {s : State} {r : ListRef} {d : ListDesc} (h : s.Canonical) : (c.putList s r d).Canonical :=
  h.setList.updateL1

theorem State.Canonical.appendAll {s : State} {core : Nat} {d : ListDesc} {rs : List (Nat × W128)} (h : s.Canonical) :
    (appendAll core d rs s).1.Canonical := by
  induction rs generalizing s d with
  | nil => exact h
  | cons r rs ih =>
      unfold Machine.appendAll
      exact ih h.coreWrite

theorem State.Canonical.logAppends {s : State} {g : Group} {list : Nat} {k : Append} {rs : List W128} (h : s.Canonical) :
    (s.logAppends g list k rs).Canonical := h.setParcel

theorem State.Canonical.useReserved {s : State} {g : Group} {list n : Nat} (h : s.Canonical) : (s.useReserved g list n).Canonical := h.setParcel

theorem State.Canonical.appendSlot {c : Ctx} {s : State} {g : Group} {f : MForm} {r : ListRef} {k : Append} {z won : W64} {rs : List W128}
    (h : s.Canonical) : (c.appendSlot s g f r k z won rs).Canonical := by
  unfold Ctx.appendSlot
  dsimp only
  refine .ite (.done (.ite h.putList.logAppends.useReserved h.putList.logAppends)) ?_
  split
  · rename_i e
    exact .stop (.of_fst e h.recordCells)
  · rename_i e
    have h' := State.Canonical.of_fst e h.recordCells
    exact .done (.ite h'.appendAll.putList.useReserved h'.appendAll.putList)

theorem State.Canonical.appender {c : Ctx} {f : MForm} {body : Ctx → Group → W64 → ListRef → (Nat → W128) → Slot} (h : c.s.Canonical)
    (hbody : ∀ c g1 x2 x3 x4, c.s.Canonical → (body c g1 x2 x3 x4).Canonical) : (c.appender f body).Canonical := by
  unfold Ctx.appender
  dsimp only
  refine h.enter fun _ _ _ h => ?_
  split
  · rename_i e
    exact .stop (.of_fst e h.listRef)
  · rename_i e
    have h' := State.Canonical.of_fst e h.listRef
    split
    · exact .stop h'
    · exact hbody _ _ _ _ _ h'.nextFree

theorem State.Canonical.execWlpush {f : MForm} {s : State} (h : s.Canonical) : NextCanonical (execWlpush f s) :=
  h.runSlot fun _ h' => h'.appender fun _ _ _ _ _ h => .ite h.appendSlot (.done h)

theorem State.Canonical.present {c : Ctx} {s : State} {f : MForm} {d : ListDesc} (h : s.Canonical) : (c.present s f d).1.Canonical := by
  unfold Ctx.present
  split
  all_goals
    rename_i e
    exact .of_fst e h.recordCells

theorem State.Canonical.execWlins {f : MForm} {s : State} (h : s.Canonical) : NextCanonical (execWlins f s) := by
  unfold Machine.execWlins
  dsimp only
  refine h.runSlot fun _ h' => h'.appender fun _ _ _ _ _ h => ?_
  split
  · rename_i e
    exact .stop (.of_fst e h.present)
  · rename_i e
    have h'' := State.Canonical.of_fst e h.present
    exact .ite h''.appendSlot (.done h'')

theorem State.Canonical.execWlcom {f : MForm} {s : State} (h : s.Canonical) : NextCanonical (execWlcom f s) :=
  h.runSlot fun _ h' => h'.appender fun _ _ _ _ _ h => .ite (.stop h) h.appendSlot

theorem State.Canonical.execWlres {f : MForm} {s : State} (h : s.Canonical) : NextCanonical (execWlres f s) := by
  unfold Machine.execWlres
  dsimp only
  refine h.runSlot fun _ h' => h'.enter fun _ _ _ h => .ite h.trap ?_
  split
  · rename_i e
    exact .stop (.of_fst e h.listRef)
  · rename_i e
    have h'' := State.Canonical.of_fst e h.listRef
    exact .ite (.stop h'') (.ite (.done h'') (.done h''.setParcel.putList))

theorem State.Canonical.logPops {s : State} {g : Group} {r : ListRef} {rs : List W128} (h : s.Canonical) : (s.logPops g r rs).Canonical :=
  h.logFor.andThen fun _ _ h => .ok h.setParcel

theorem State.Canonical.execWlpopb {f : MForm} {s : State} (h : s.Canonical) : NextCanonical (execWlpopb f s) := by
  unfold Machine.execWlpopb
  dsimp only
  refine h.runSlot fun _ h' => h'.enter fun _ _ _ h => ?_
  split
  · rename_i e
    exact .stop (.of_fst e h.listRef)
  · rename_i e
    have h'' := State.Canonical.of_fst e h.listRef
    split
    · exact .stop h''
    · split
      · rename_i e₂
        exact .stop (.of_fst e₂ h''.recordCells)
      · rename_i e₂
        have h''' := State.Canonical.of_fst e₂ h''.recordCells
        refine .ite (.stop h''') ?_
        split
        · exact .stop h'''
        · exact Act.Canonical.slot (.ite h'''.logPops (.ok h''')) fun _ _ h => .done h.putList.pend

theorem State.Canonical.execWlsize {f : MForm} {s : State} (h : s.Canonical) : NextCanonical (execWlsize f s) := by
  unfold Machine.execWlsize
  dsimp only
  refine h.runSlot fun _ h' => h'.enter fun _ _ _ h => ?_
  split
  · rename_i e
    exact .stop (.of_fst e h.listRef)
  · rename_i e
    exact State.Canonical.issueLoad (.of_fst e h.listRef)

/-! ## Operations of Machine/Geometry.lean -/

theorem State.Canonical.gfRegionsOk {c : Ctx} {s : State} {reg lane : Nat} {k : Cap} {rs : List GfRegion} (h : s.Canonical) :
    (gfRegionsOk c reg lane k s rs).1.Canonical := by
  induction rs generalizing s with
  | nil => exact h
  | cons r rs ih =>
      unfold Machine.gfRegionsOk
      split
      · rename_i e
        exact .of_fst e h.regionOk
      · rename_i e
        exact ih (.of_fst e h.regionOk)

theorem State.Canonical.gfDescriptor {c : Ctx} {reg d lane : Nat} {ok : BitVec 1024 → Bool} {regions : BitVec 1024 → List GfRegion}
    {bad : FaultInfo} (h : c.s.Canonical) : (c.gfDescriptor reg d lane ok regions bad).1.Canonical := by
  unfold Ctx.gfDescriptor
  dsimp only
  split
  · rename_i e
    exact .of_fst e h.readDescriptor
  · rename_i e
    have h' := State.Canonical.of_fst e h.readDescriptor
    refine .ite_fst h' ?_
    split
    all_goals
      rename_i e₁
      exact .of_fst e₁ h'.gfRegionsOk

theorem State.Canonical.pushCommand {c : Ctx} {s : State} {g : Group} {q d : Nat} {cmd : Cmd} {semv : Bool} {sem inc : Nat} (h : s.Canonical) :
    (c.pushCommand s g q d cmd semv sem inc).Canonical := .ite (.stop h) (.done h)

theorem State.Canonical.execGfemb {f : QForm} {s : State} (h : s.Canonical) : NextCanonical (execGfemb f s) := by
  unfold Machine.execGfemb
  dsimp only
  refine h.runSlot fun _ h' => h'.raySlot fun _ _ _ h => h.notBehind ?_
  split
  · rename_i e
    exact .stop (.of_fst e h.gfDescriptor)
  · rename_i e
    exact State.Canonical.pushCommand (.of_fst e h.gfDescriptor)

theorem State.Canonical.execGfedepth {f : VForm} {s : State} (h : s.Canonical) : NextCanonical (execGfedepth f s) := by
  unfold Machine.execGfedepth
  dsimp only
  refine h.runSlot fun _ h' => h'.raySlot fun _ _ _ h => h.notBehind ?_
  split
  · rename_i e
    exact .stop (.of_fst e h.gfDescriptor)
  · rename_i e
    exact State.Canonical.pushCommand (.of_fst e h.gfDescriptor)

/-! ## Runs of the geometry engine: the state of a run stays canonical -/

section
variable {c : GfeCtx} {r : GfeRun}

theorem State.Canonical.fails {x : UnitStop} (h : r.s.Canonical) : (r.fails x).s.Canonical := h

theorem State.Canonical.also {f : GfeRun → GfeRun} (h : r.s.Canonical) (hf : ∀ r, r.s.Canonical → (f r).s.Canonical) :
    (r.also f).s.Canonical := by
  unfold GfeRun.also
  split
  · exact h
  · exact hf r h

theorem State.Canonical.foldlRun {α : Type} {f : GfeRun → α → GfeRun} {l : List α} (h : r.s.Canonical)
    (hf : ∀ r x, r.s.Canonical → (f r x).s.Canonical) : (l.foldl f r).s.Canonical := by
  induction l generalizing r with
  | nil => exact h
  | cons x l ih => exact ih (hf r x h)

theorem State.Canonical.reading {a n : Nat} {f : GfeRun → List Byte → GfeRun} (h : r.s.Canonical)
    (hf : ∀ r bs, r.s.Canonical → (f r bs).s.Canonical) : (c.reading r a n f).s.Canonical := by
  unfold GfeCtx.reading
  split
  · exact h.fails
  · exact hf r _ h

theorem State.Canonical.writing {kind : Access} {a n align : Nat} {f : GfeRun → Nat → Nat → GfeRun} (h : r.s.Canonical)
    (hf : ∀ r va cell, r.s.Canonical → (f r va cell).s.Canonical) : (c.writing r kind a n f align).s.Canonical := by
  unfold GfeCtx.writing
  split
  · rename_i e
    exact .fails (.of_fst e h.capCheck)
  · rename_i e
    have h' := State.Canonical.of_fst e h.capCheck
    split
    · rename_i e'
      exact .fails (.of_fst e' h'.unitCells)
    · rename_i e'
      exact hf _ _ _ (.of_fst e' h'.unitCells)

theorem State.Canonical.pushRecord {off : Nat} {record : Bool → Option W128} (h : r.s.Canonical) : (c.push r off record).s.Canonical := by
  unfold GfeCtx.push
  refine h.writing fun r va cell h => ?_
  dsimp only
  split
  · exact h.fails
  · split
    · exact h.fails
    · split
      · exact h.fails
      · split
        · rename_i e
          have h' := State.Canonical.of_fst e h.recordCell
          split
          · rename_i e'
            exact .setList (.of_fst e' h'.appendRecord)
          · rename_i e'
            exact .of_fst e' h'.appendRecord
        all_goals
          rename_i e
          exact .fails (.of_fst e h.recordCell)

theorem State.Canonical.popRecord {f : GfeRun → Nat → GfeRun} (h : r.s.Canonical) (hf : ∀ r n, r.s.Canonical → (f r n).s.Canonical) :
    (c.pop r f).s.Canonical := by
  unfold GfeCtx.pop
  refine h.writing fun r va cell h => ?_
  dsimp only
  split
  · exact h.fails
  · split
    · exact h
    · split
      · rename_i e
        have h' := State.Canonical.of_fst e h.recordCell
        split
        · exact h'.fails
        · exact hf _ _ h'.setList
      all_goals
        rename_i e
        exact .fails (.of_fst e h.recordCell)

theorem State.Canonical.toSwl {meshlet id : Nat} {clip : Bool} (h : r.s.Canonical) : (c.toSwl r meshlet id clip).s.Canonical :=
  h.pushRecord.also fun _ h => h

theorem State.Canonical.largest {l : Nat} {f : GfeRun → Nat → GfeRun} {xs : List (Nat × Nat)} {best : Option Nat} (h : r.s.Canonical)
    (hf : ∀ r t, r.s.Canonical → (f r t).s.Canonical) : (c.largest l f xs best r).s.Canonical := by
  induction xs generalizing r best with
  | nil => exact hf r _ h
  | cons x xs ih =>
      unfold GfeCtx.largest
      exact h.reading fun _ _ h => ih h

theorem State.Canonical.pixel {id : Nat} {p : Nat × Nat × Nat} (h : r.s.Canonical) : (c.pixel id r p).s.Canonical :=
  h.also fun _ h => h.writing fun _ _ _ h => h.sendOp

theorem State.Canonical.triangle {n t : Nat} {m : Meshlet} {vs : List ScreenVertex} (h : r.s.Canonical) :
    (c.triangle n m vs t r).s.Canonical := by
  unfold GfeCtx.triangle
  refine h.reading fun r bs h => ?_
  dsimp only
  split
  · exact h.fails
  · split
    · split
      · exact h
      · split
        · exact h.toSwl
        · exact State.Canonical.foldlRun h fun _ _ h => h.pixel
    · exact h.toSwl

theorem State.Canonical.vertices {voff n i : Nat} {f : GfeRun → List ClipVertex → GfeRun} {vs : List ClipVertex} (h : r.s.Canonical)
    (hf : ∀ r vs, r.s.Canonical → (f r vs).s.Canonical) : (c.vertices voff f n i vs r).s.Canonical := by
  induction n generalizing r i vs with
  | zero => exact hf r vs h
  | succ n ih =>
      unfold GfeCtx.vertices
      exact h.reading fun _ _ h => ih h

theorem State.Canonical.meshlet {n : Nat} (h : r.s.Canonical) : (c.meshlet r n).s.Canonical := by
  unfold GfeCtx.meshlet
  refine h.also fun r h => h.reading fun r bs h => h.vertices fun r vs h => ?_
  have accepted (r : GfeRun) (m : Meshlet) (vs : List ScreenVertex) (h : r.s.Canonical) :
      ((span 0 m.tris).foldl (fun r t => r.also (c.triangle n m vs t)) r).s.Canonical :=
    h.foldlRun fun _ _ h => h.also fun _ h => h.triangle
  dsimp only
  split
  · exact h
  · split
    · exact accepted r _ _ h
    · split
      · exact accepted r _ _ h
      · exact h
      · refine h.largest fun r t h => ?_
        split
        · split
          · exact h.pushRecord
          · exact h
        · exact accepted r _ _ h

theorem State.Canonical.drainRejects {n : Nat} (h : r.s.Canonical) : (c.drainRejects n r).s.Canonical := by
  induction n generalizing r with
  | zero => exact h
  | succ n ih =>
      unfold GfeCtx.drainRejects
      exact h.also fun _ h => h.popRecord fun _ _ h => ih h.meshlet

theorem State.Canonical.gfeRun {s : State} (h : s.Canonical) : (c.run s).s.Canonical := by
  unfold GfeCtx.run
  dsimp only
  split
  · exact State.Canonical.drainRejects h
  · exact State.Canonical.foldlRun h fun _ _ h => h.meshlet

theorem State.Canonical.pyramid {s : State} (h : s.Canonical) : (c.pyramid s).s.Canonical := by
  unfold GfeCtx.pyramid
  dsimp only
  split
  · exact h
  · split
    · rename_i e
      exact .fails (.of_fst e h.capCheck)
    · rename_i e
      have h' := State.Canonical.of_fst e h.capCheck
      split
      · rename_i e'
        exact .fails (.of_fst e' h'.unitPieces)
      · rename_i e'
        exact .sendPieces (.of_fst e' h'.unitPieces)

end

theorem State.Canonical.gfeEnds {s : State} {e : EngineRef} {b : Taken} {r : GfeRun} (h : s.Canonical) (hr : r.s.Canonical) :
    (s.gfeEnds e b r).Canonical := by
  unfold State.gfeEnds
  split
  · exact hr.engineFails
  · exact h.engineStops
  · exact hr.setEngine

theorem State.Canonical.gfeCompletes {s : State} {z : EngineRef} {b : Taken} (h : s.Canonical) : (s.gfeCompletes z b).Canonical :=
  .ite h h.engineDone.completion

theorem State.Canonical.execGfeMeshletPass {die : Nat} {s : State} (h : s.Canonical) : NextCanonical (execGfeMeshletPass die s) := by
  unfold Machine.execGfeMeshletPass
  dsimp only
  refine .next ?_
  split
  · split
    · exact .ite (h.gfeEnds h.gfeRun) h.gfeCompletes
    · exact h
  · exact h

theorem State.Canonical.execGfePyramidBuild {die : Nat} {s : State} (h : s.Canonical) : NextCanonical (execGfePyramidBuild die s) := by
  unfold Machine.execGfePyramidBuild
  dsimp only
  refine .next ?_
  split
  · split
    · exact .ite (h.gfeEnds h.pyramid) h.gfeCompletes
    · exact h
  · exact h

theorem State.Canonical.execViscls {f : VForm} {s : State} (h : s.Canonical) : NextCanonical (execViscls f s) :=
  h.runSlot fun _ h' => h'.raySlot fun _ _ _ h => h.result

theorem State.Canonical.execVisw {f : VForm} {s : State} (h : s.Canonical) : NextCanonical (execVisw f s) :=
  h.runSlot fun _ h' => h'.raySlot fun _ _ _ h => .done h.setDie

/-! ## Operations of Machine/Links.lean -/

theorem State.Canonical.execLinkFlitSend {dir : Nat} {s : State} (h : s.Canonical) : NextCanonical (execLinkFlitSend dir s) := by
  unfold Machine.execLinkFlitSend
  dsimp only
  refine .next (.ite h ?_)
  split
  · exact h
  · exact h.crossOne.setLinkDir

theorem State.Canonical.execFlitReplay {port : Nat} {s : State} (h : s.Canonical) : NextCanonical (execFlitReplay port s) :=
  .next (.ite h.setLinkDir h)

theorem State.Canonical.trainDir {s : State} {n : Nat} (h : s.Canonical) : (s.trainDir n).Canonical := h.setLinkDir

theorem State.Canonical.execLinkRetrain {port : Nat} {s : State} (h : s.Canonical) : NextCanonical (execLinkRetrain port s) :=
  .next (.ite h h.setPort.trainDir.book)

theorem State.Canonical.execLinkRateStep {link : Nat} {rate : BitVec 2} {s : State} (h : s.Canonical) :
    NextCanonical (execLinkRateStep link rate s) := .next (.ite h h.setLink.trainDir.trainDir)

theorem State.Canonical.execRetrainingWindowEnd {link : LinkName} {s : State} (h : s.Canonical) :
    NextCanonical (execRetrainingWindowEnd link s) := by
  unfold Machine.execRetrainingWindowEnd
  dsimp only
  refine .next ?_
  split
  · exact .ite h.setLink h
  · exact .ite h.setPort h

/-! ## Operations of Machine/Migration.lean -/

theorem State.Canonical.flushTlbs {s : State} {vf : Nat} {r : Range} (h : s.Canonical) : (s.flushTlbs vf r).Canonical := h.withCoresPairTlbsDies

theorem State.Canonical.shootdown {s : State} {vf : Nat} {r : Range} (h : s.Canonical) : (s.shootdown vf r).Canonical := h.flushTlbs.withNet

theorem State.Canonical.execShootdown {vf : Nat} {value : W64} {s : State} (h : s.Canonical) : NextCanonical (execShootdown vf value s) := by
  unfold Machine.execShootdown
  dsimp only
  refine .next (.ite h ?_)
  split
  · exact h.setVf.shootdown
  · exact h.setVf

theorem State.Canonical.execShootdownDone {vf : Nat} {s : State} (h : s.Canonical) : NextCanonical (execShootdownDone vf s) :=
  .next (.ite h h.setVf)

theorem State.Canonical.mapCounts {s : State} {y : Nat × Nat} {f : List (Nat × Nat × Nat) → List (Nat × Nat × Nat)} (h : s.Canonical) :
    (s.mapCounts y f).Canonical := h.setDie

theorem State.Canonical.dropLines {s : State} {vf : Nat} {x : Migration} (h : s.Canonical) : (s.dropLines vf x).Canonical :=
  (h.foldl fun _ _ h => h.writeBackLines).withCores

theorem State.Canonical.startMigration {s : State} {vf : Nat} {x : Migration} (h : s.Canonical) : (s.startMigration vf x).Canonical := by
  unfold State.startMigration
  dsimp only
  refine .ite h ?_
  split
  · exact (h.writeRun.foldl fun _ _ h => h.mapCounts).shootdown.dropLines.setVf
  · exact h

theorem State.Canonical.execMigratePage {vf : Nat} {value : W128} {s : State} (h : s.Canonical) : NextCanonical (execMigratePage vf value s) := by
  unfold Machine.execMigratePage
  dsimp only
  refine .next (.ite h.setVf ?_)
  split
  · exact .ite h.setVf.setVf h.setVf.setVf.startMigration
  · exact h.setVf.setVf

theorem State.Canonical.refreshCounts {s : State} (h : s.Canonical) : s.refreshCounts.Canonical := h.foldl fun _ _ h => h.mapCounts

theorem State.Canonical.moveWatch {s : State} {a b : Nat} {w : Watch} (h : s.Canonical) : (s.moveWatch a b w).Canonical := by
  unfold State.moveWatch
  dsimp only
  refine .ite h.wakeFrom ?_
  split
  · exact h.addWatch.setGroup
  · exact h.addWatch

theorem State.Canonical.liftWatches {s : State} {vf a n : Nat} (h : s.Canonical) : (s.liftWatches vf a n).1.Canonical := by
  unfold State.liftWatches
  dsimp only
  exact h.foldl fun _ _ h => .ite h.setDie h

theorem State.Canonical.crossCopy {s : State} {a b n : Nat} (h : s.Canonical) : OptCanonical (s.crossCopy a b n) := h.crossWays

theorem State.Canonical.execMigrationCopy {vf : Nat} {s : State} (h : s.Canonical) : NextCanonical (execMigrationCopy vf s) := by
  unfold Machine.execMigrationCopy
  dsimp only
  refine .next ?_
  split
  · exact h
  · refine .ite h.startMigration (.ite h ?_)
    split
    · exact h
    · rename_i e₁
      have h' := State.Canonical.of_some e₁ h.crossCopy
      refine .foldl (.setVf (.foldl (.shootdown ?_) fun _ _ h => h.mapCounts)) fun _ _ h => h.moveWatch
      split
      · exact h'.liftWatches.copyPage.writeRun
      · exact h'.liftWatches

/-! ## Operations of Machine/Homes.lean -/

theorem State.Canonical.answer {s : State} {o : HomeOp} {src : LaneSource} {linked : Bool} (h : s.Canonical) :
    (s.answer o src linked).Canonical := by
  unfold State.answer
  dsimp only
  split
  · split
    · exact .ite h.setGroup.sendFlit h.setGroup
    · exact h
  · exact h

theorem State.Canonical.l1Follows {s : State} {o : HomeOp} (h : s.Canonical) : (s.l1Follows o).Canonical := by
  unfold State.l1Follows
  dsimp only
  split
  · exact h
  · refine h.updateL1.foldl fun _ _ h => ?_
    split
    · exact h.updateL1
    · exact h

theorem State.Canonical.sentFails {s : State} {z : EngineRef} {f : FaultInfo} (h : s.Canonical) : (s.sentFails z f).Canonical := by
  unfold State.sentFails
  split
  · exact .ite h h.engineFails
  · exact h

theorem State.Canonical.poisonedAtomic {s : State} {o : HomeOp} {f : FaultInfo} (h : s.Canonical) : (s.poisonedAtomic o f).Canonical := by
  unfold State.poisonedAtomic
  split
  · exact h.answer
  · split
    · exact h.dataFault
    · exact h
  · exact h.sentFails
  · exact h

theorem State.Canonical.applyHome {s : State} {o : HomeOp} (h : s.Canonical) : (s.applyHome o).Canonical := by
  unfold State.applyHome
  dsimp only
  split
  · exact h.applyWrite.l1Follows
  · split
    · exact h.poisonedAtomic
    · exact h.applyAtomic.l1Follows.answer

theorem State.Canonical.refuseHome {s : State} {o : HomeOp} (h : s.Canonical) : (s.refuseHome o).Canonical :=
  .ite h.withFlits.answer h.withFlits.answer.fresh.withAcks

theorem State.Canonical.execHomeSliceWrite {n : Nat} {s : State} (h : s.Canonical) : NextCanonical (execHomeSliceWrite n s) := by
  unfold Machine.execHomeSliceWrite
  dsimp only
  refine .next ?_
  split
  · exact h
  · exact .ite h (.ite h.withNet.refuseHome (.ite h.withNet.applyHome.sendAck h.withNet.applyHome))

theorem State.Canonical.lowerAcks {s : State} {u : Nat} {a : Ack} (h : s.Canonical) : (s.lowerAcks u a).Canonical := by
  unfold State.lowerAcks
  split
  · exact h
  · exact h.setGroup

theorem State.Canonical.takeAck {s : State} {a : Ack} (h : s.Canonical) : (s.takeAck a).Canonical := by
  unfold State.takeAck
  dsimp only
  split
  · exact h.lowerAcks
  · split
    · split
      · exact h.setParcel
      · exact h.setParcel.sendAck
    · exact h
  · split
    · refine .ite ?_ h.setCard
      split
      · exact h.cardFails
      · exact h.setCard
    · exact h
  · exact .ite h.sentFails h
  · split
    · exact h.lowerAcks.setPair
    · exact h.lowerAcks

theorem State.Canonical.execAckReturn {n : Nat} {s : State} (h : s.Canonical) : NextCanonical (execAckReturn n s) := by
  unfold Machine.execAckReturn
  refine .next ?_
  split
  · exact h
  · exact .ite h.withAcks.takeAck h

theorem State.Canonical.execWatchTableRetry {die slice : Nat} {s : State} (h : s.Canonical) :
    NextCanonical (execWatchTableRetry die slice s) := by
  unfold Machine.execWatchTableRetry
  dsimp only
  refine .next ?_
  split
  · exact h
  · refine .ite h (.ite h.setDie.wakeFrom ?_)
    split
    · exact h.setDie.setGroup
    · exact h.setDie

/-! ## Operations of Machine/Moves.lean -/

end Sys2Proof.Machine
end

section
/-!
SUPPORT. Operations keep memory canonical (R86, log entry 2): issue, pre-emption, resets, the host's registers, lights and power.
-/
namespace Sys2Proof.Machine
open Sys2Proof

/-! ## Operations of Machine/Issue.lean -/

theorem State.Canonical.fetchClause {s : State} {g : Group} {pc : W32} (h : s.Canonical) : (s.fetchClause g pc).1.Canonical := by
  unfold State.fetchClause
  dsimp only
  split
  · exact h
  · split
    · rename_i e₁
      exact .of_fst e₁ h.fetchWords
    · rename_i e₁
      split
      all_goals
        rename_i e₂
        exact .of_fst e₂ (.fetchWords (.of_fst e₁ h.fetchWords))

theorem State.Canonical.noteReady {s : State} (h : s.Canonical) : s.noteReady.Canonical := h.withGroups

theorem State.Canonical.stopPath {s : State} {g : Group} {k : PathSlot} {p : Path} {n : Nat} (h : s.Canonical) :
    (s.stopPath g k p n).Canonical := .ite h.setGroup.forgetGroups h.setGroup

theorem State.Canonical.stopBetween {s : State} {g : Group} {pc : W32} {st : Stop} (h : s.Canonical) : (s.stopBetween g pc st).Canonical := by
  unfold State.stopBetween
  split
  · exact h.setGroup
  · exact h.parkGroup
  · exact h.takeFault
  · exact h.takeLate
  · exact h.setGroup.abortParcel

theorem State.Canonical.beginClause {s : State} {g : Group} {k : PathSlot} {p : Path} {y : W64} {ws : List W64} (h : s.Canonical) :
    (s.beginClause g k p y ws).Canonical := h.fresh.setGroup.withActive

theorem State.Canonical.headerSem {s : State} {g : Group} {k : PathSlot} {y : Header} (h : s.Canonical) : (s.headerSem g k y).Canonical := by
  unfold State.headerSem
  dsimp only
  refine .ite (.ok h) (.ite (.stop h) ?_)
  split
  · rename_i e
    exact .stop (.of_act_stop e h.quantumEnd)
  · rename_i e
    have h' := State.Canonical.of_act_ok e h.quantumEnd
    split
    · exact .stop h'
    · exact .ok h'.acquire

theorem State.Canonical.issueClause {s : State} {g : Group} {k : PathSlot} {p : Path} {w : W64} {ws : List W64} (h : s.Canonical) :
    (s.issueClause g k p w ws).Canonical := by
  unfold State.issueClause
  dsimp only
  split
  · exact h.takeFault
  · refine .ite h.setGroup ?_
    split
    · exact h.stopBetween
    · split
      · rename_i e₂
        exact .stopBetween (.of_act_stop e₂ h.headerSem)
      · rename_i e₂
        exact .beginClause (.of_act_ok e₂ h.headerSem)

theorem State.Canonical.execClauseIssue {g : Nat} {p : PathSlot} {s : State} (h : s.Canonical) : NextCanonical (execClauseIssue g p s) := by
  unfold Machine.execClauseIssue
  refine .next ?_
  split
  · exact h
  · split
    · exact h
    · split
      · exact h.stopPath
      · refine .ite h ?_
        split
        · rename_i e₃
          exact .stopBetween (.of_fst e₃ h.fetchClause)
        · rename_i e₃
          exact .issueClause (.of_fst e₃ h.fetchClause)

theorem State.Canonical.execQuantumClauseLimit {g : Nat} {p : PathSlot} {s : State} (h : s.Canonical) :
    NextCanonical (execQuantumClauseLimit g p s) := by
  unfold Machine.execQuantumClauseLimit
  refine .next ?_
  split
  · exact h
  · split
    · exact h
    · refine .ite ?_ h
      split
      · rename_i e₂
        exact .setGroup (.of_act_ok e₂ h.quantumEnd)
      · rename_i e₂
        exact .stopBetween (.of_act_stop e₂ h.quantumEnd)

theorem State.Canonical.execAllowanceExpiry {parcel : Nat} {s : State} (h : s.Canonical) : NextCanonical (execAllowanceExpiry parcel s) := by
  unfold Machine.execAllowanceExpiry
  dsimp only
  refine .next ?_
  split
  · exact h
  · exact .ite h.abortParcel h

theorem State.Canonical.execCandidateAged {g : Nat} {p : PathSlot} {s : State} (h : s.Canonical) : NextCanonical (execCandidateAged g p s) := by
  unfold Machine.execCandidateAged
  refine .next ?_
  split
  · exact h
  · split
    · exact h
    · split
      · exact .ite h.setGroup h
      · exact h

theorem State.Canonical.execBlockedSlotResume {g : Nat} {s : State} (h : s.Canonical) : NextCanonical (execBlockedSlotResume g s) := by
  unfold Machine.execBlockedSlotResume
  refine .next ?_
  split
  · exact h
  · split
    · exact .ite h.wake h
    · exact h

theorem State.Canonical.execSleeptWake {g : Nat} {s : State} (h : s.Canonical) : NextCanonical (execSleeptWake g s) := by
  unfold Machine.execSleeptWake
  refine .next ?_
  split
  · exact h
  · split
    · exact .ite h.wake h
    · exact h

theorem State.Canonical.noteSeen {s : State} {g : Group} {lane c n : Nat} (h : s.Canonical) : (s.noteSeen g lane c n).Canonical := .ite h.withNet h

theorem State.Canonical.laneData {s : State} {g : Group} {p : Pending} {x : Nat × LaneSource} (h : s.Canonical) :
    (s.laneData g p x).1.Canonical := by
  unfold State.laneData
  dsimp only
  split
  · exact h
  · exact h
  · exact h
  · exact .ite_fst h (.ite_fst h h)
  · split
    · exact h
    · exact h.noteSeen.readCached

theorem State.Canonical.lanesData {s : State} {g : Group} {p : Pending} {xs : List (Nat × LaneSource)} (h : s.Canonical) :
    (lanesData g p s xs).1.Canonical := by
  induction xs generalizing s with
  | nil => exact h
  | cons x xs ih =>
      unfold Machine.lanesData
      exact ih h.laneData

theorem State.Canonical.settleStop {s : State} {u : Nat} (h : s.Canonical) : (s.settleStop u).Canonical := by
  unfold State.settleStop
  split
  · exact h
  · split
    · exact .ite h.stopNow h
    · exact h

theorem State.Canonical.completeWrite {s : State} {g : Group} {p : Pending} (h : s.Canonical) : (s.completeWrite g p).Canonical := by
  unfold State.completeWrite
  dsimp only
  refine .settleStop ?_
  split
  · exact h.withFlits.lanesData.dataFault
  · exact h.withFlits.lanesData.setGroup

theorem State.Canonical.execLoadResult {g idx : Nat} {s : State} (h : s.Canonical) : NextCanonical (execLoadResult g idx s) := by
  unfold Machine.execLoadResult
  refine .next ?_
  split
  · exact h
  · split
    · exact h
    · exact .ite h.completeWrite h

theorem State.Canonical.execSfuResult {g : Nat} {s : State} (h : s.Canonical) : NextCanonical (execSfuResult g s) := by
  unfold Machine.execSfuResult
  refine .next ?_
  split
  · exact h
  · split
    · exact h
    · exact .ite h.completeWrite h

/-! ## Operations of Machine/Preempt.lean -/

theorem State.Canonical.precmd {s : State} {vf : Nat} {value : W64} {mode : Nat} {run : State → State} (h : s.Canonical)
    (hrun : ∀ s, s.Canonical → (run s).Canonical) : (s.precmd vf value mode run).Canonical :=
  .ite h (.ite (.ite h h.setVf) (.ite h.setVf (hrun _ h.setVf)))

theorem State.Canonical.holdQueue {s : State} {vf n : Nat} {held : Bool} (h : s.Canonical) : (s.holdQueue vf n held).Canonical := h.setVf

theorem State.Canonical.holdQueues {s : State} {vf : Nat} {x : W64} (h : s.Canonical) : (s.holdQueues vf x).Canonical :=
  (h.foldl fun _ _ h => h.holdQueue).cancelPlacements

theorem State.Canonical.beginSave {s : State} {allow : Nat} {p : Parcel} (h : s.Canonical) : (s.beginSave allow p).Canonical := by
  unfold State.beginSave
  dsimp only
  split
  · exact h.setParcel
  · exact (h.foldl fun _ _ h => h.giveBack).setParcel.atHead
  · exact h

theorem State.Canonical.execPreemptSave {vf : Nat} {value : W64} {s : State} (h : s.Canonical) : NextCanonical (execPreemptSave vf value s) :=
  .next (h.precmd fun _ h' => h'.holdQueues.foldl fun _ _ h => h.beginSave)

theorem State.Canonical.execPreemptSaveOrRequeue {vf : Nat} {value : W64} {s : State} (h : s.Canonical) :
    NextCanonical (execPreemptSaveOrRequeue vf value s) :=
  .next (h.precmd fun _ h' => (h'.holdQueues.foldl fun _ _ h => h.abortParcel).foldl fun _ _ h => h.beginSave)

theorem State.Canonical.execPreemptEnd {vf : Nat} {value : W64} {s : State} (h : s.Canonical) : NextCanonical (execPreemptEnd vf value s) :=
  .next (h.precmd fun _ h' => h'.foldl fun _ _ h => .ite h h.endParcel)

theorem State.Canonical.execPreemptRelease {vf : Nat} {value : W64} {s : State} (h : s.Canonical) :
    NextCanonical (execPreemptRelease vf value s) := .next (h.precmd fun _ h' => h'.setVf.foldl fun _ _ h => h.holdQueue)

theorem State.Canonical.settlePrecmd {s : State} (h : s.Canonical) : s.settlePrecmd.Canonical := h.foldl fun _ _ h => .ite h.setVf h

theorem State.Canonical.endQuanta {s : State} {g : Group} {ps : List (PathSlot × Path)} (h : s.Canonical) : (endQuanta ps s g).Canonical := by
  induction ps generalizing s g with
  | nil => exact .ok h
  | cons p ps ih =>
      unfold Machine.endQuanta
      exact h.quantumEnd.andThen fun _ _ h => ih h

theorem State.Canonical.stopOutside {s : State} {g : Group} {x : Stop} (h : s.Canonical) : (s.stopOutside g x).Canonical := by
  unfold State.stopOutside
  dsimp only
  split
  · exact h.setGroup
  · exact h.parkGroup
  · exact h.takeFault
  · exact h.takeLate
  · exact h.setGroup.abortParcel

theorem State.Canonical.endAllQuanta {s : State} {us : List Nat} (h : s.Canonical) : BothCanonical (endAllQuanta us s) := by
  induction us generalizing s with
  | nil => exact .ok h
  | cons u us ih =>
      unfold Machine.endAllQuanta
      split
      · exact ih h
      · split
        · rename_i e
          exact ih (.setGroup (.of_act_ok e h.endQuanta))
        · rename_i e
          exact .error (.stopOutside (.of_act_stop e h.endQuanta))

theorem State.Canonical.execSaveRoutineEnter {parcel : Nat} {s : State} (h : s.Canonical) : NextCanonical (execSaveRoutineEnter parcel s) := by
  unfold Machine.execSaveRoutineEnter
  dsimp only
  refine .next ?_
  split
  · exact h
  · split
    · refine .ite h ?_
      split
      · rename_i e₂
        exact .of_both_error e₂ h.endAllQuanta
      · rename_i e₂
        exact .setParcel (.foldl (.of_both_ok e₂ h.endAllQuanta) fun _ _ h => h.touchPrivate.setGroup)
    · exact h

theorem State.Canonical.cleanPrivate {s : State} {core g : Nat} (h : s.Canonical) : (s.cleanPrivate core g).Canonical := h.writeBackLines.setCore

theorem State.Canonical.execSaveComplete {parcel : Nat} {s : State} (h : s.Canonical) : NextCanonical (execSaveComplete parcel s) := by
  unfold Machine.execSaveComplete
  dsimp only
  refine .next ?_
  split
  · exact h
  · split
    · exact .ite h ((h.foldl fun _ _ h => h.cleanPrivate.setGroup).releaseTiles.foldl fun _ _ h => h.giveBack).setParcel.atHead
    · exact h

theorem State.Canonical.restoreGroups {s : State} {k : Kernel} {gs : List Group} (h : s.Canonical) : (restoreGroups k gs s).Canonical := by
  induction gs generalizing s with
  | nil => exact h
  | cons g gs ih =>
      unfold Machine.restoreGroups
      exact ih h.withFree.setGroup

theorem State.Canonical.execRestore {parcel : Nat} {s : State} (h : s.Canonical) : NextCanonical (execRestore parcel s) := by
  unfold Machine.execRestore
  refine .next ?_
  split
  · exact h
  · exact .ite h h.restoreGroups.setParcel

theorem State.Canonical.execPreemptLate {parcel : Nat} {s : State} (h : s.Canonical) : NextCanonical (execPreemptLate parcel s) := by
  unfold Machine.execPreemptLate
  dsimp only
  refine .next ?_
  split
  · exact h
  · exact .ite h h.post.setParcel

/-! ## Operations of Machine/Reset.lean -/

theorem State.Canonical.drainOp {d : Nat} {s : State} {o : HomeOp} (h : s.Canonical) : (s.drainOp d o).Canonical := .ite h.refuseHome h.applyHome

theorem State.Canonical.drainNet {s : State} {d : Nat} (h : s.Canonical) : (s.drainNet d).Canonical :=
  (h.withNet.foldl fun _ _ h => h.drainOp).withFlits

theorem State.Canonical.failLoads {s : State} {d : Nat} (h : s.Canonical) : (s.failLoads d).Canonical := h.withGroups

theorem State.Canonical.failWatch {d : Nat} {s : State} {w : Watch} (h : s.Canonical) : (s.failWatch d w).Canonical := by
  unfold State.failWatch
  split
  · split
    · exact h.takeFault
    · exact h
  · exact h

theorem State.Canonical.failWatches {s : State} {d : Nat} (h : s.Canonical) : (s.failWatches d).Canonical := h.setDie.foldl fun _ _ h => h.failWatch

theorem State.Canonical.poisonLine {d : Nat} {s : State} {x : L2Line} (h : s.Canonical) : (s.poisonLine d x).Canonical :=
  h.foldl fun _ _ h => h.withPoison.book

theorem State.Canonical.dropParcelRoles {s : State} {u : Nat} (h : s.Canonical) : (s.dropParcelRoles u).Canonical :=
  h.foldl fun _ _ h => h.dropAllRoles.setGroup

theorem State.Canonical.loseParcel {d : Nat} {s : State} {p : Parcel} (h : s.Canonical) : (s.loseParcel d p).Canonical := by
  unfold State.loseParcel
  dsimp only
  exact .ite (.ite h.dropParcelRoles.discardParcel.dropHead h.dropParcelRoles.discardParcel.dropHead.requeue)
      (.withGroupsParcels (.dropPrivates (.dropHead (.dropDecls
      (.forgetGroups (.ite h.dropParcelRoles.closeRecords h.dropParcelRoles.closeRecords.post.failLaunch.settleLists))))))

theorem State.Canonical.loseGrants {s : State} {d : Nat} (h : s.Canonical) : (s.loseGrants d).Canonical := h.withDecls

theorem State.Canonical.clearDie {s : State} {d : Nat} (h : s.Canonical) : (s.clearDie d).Canonical :=
  h.withCoresPairsPairTlbsEnginesJoinedControl.setLink.setDie

theorem State.Canonical.resetDie {s : State} {d : Nat} {writesBack : Bool} (h : s.Canonical) : (s.resetDie d writesBack).Canonical := by
  unfold State.resetDie
  dsimp only
  exact .clearDie (.loseGrants (.foldl (.cancelPlacements (.ite h.drainNet.failLoads.failWatches
      (h.drainNet.failLoads.failWatches.foldl fun _ _ h => h.poisonLine))) fun _ _ h => h.loseParcel))

theorem State.Canonical.execComputeDieReset {die : Nat} {writesBack : Bool} {s : State} (h : s.Canonical) :
    NextCanonical (execComputeDieReset die writesBack s) := .next (.ite h h.resetDie.book)

theorem State.Canonical.relink {s : State} {n : Nat} (h : s.Canonical) : (s.relink n).Canonical := h.setLink.trainDir.trainDir

theorem State.Canonical.execDieRelink {die : Nat} {s : State} (h : s.Canonical) : NextCanonical (execDieRelink die s) :=
  .next (.ite h (h.setDie.foldl fun _ _ h => h.relink).book)

theorem State.Canonical.beginVfReset {s : State} {vf : Nat} (h : s.Canonical) : (s.beginVfReset vf).Canonical :=
  ((h.setVf.foldl fun _ _ h => h.dropPlacement).foldl fun _ _ h => h.endParcel).foldl fun _ _ h => h.failLaunch

theorem State.Canonical.finishVfReset {s : State} {vf : Nat} (h : s.Canonical) : (s.finishVfReset vf).Canonical :=
  h.withLaunchesDiesPhasersControlReturns.setVf.foldl fun _ _ h => h.setVf

theorem State.Canonical.execVfReset {vf : Nat} {s : State} (h : s.Canonical) : NextCanonical (execVfReset vf s) :=
  .next (.ite h (.ite (.finishVfReset (.ite h h.beginVfReset)) (.ite h h.beginVfReset)))

theorem State.Canonical.setDebug {s : State} {d : DebugState} (h : s.Canonical) : (s.setDebug d).Canonical := .ite h h.withControl.book

theorem State.Canonical.bootUp {s : State} (h : s.Canonical) : s.bootUp.Canonical := by
  unfold State.bootUp
  dsimp only
  split
  · exact h.withFreeControl.setDebug
  · exact h.withControl.book

/-- A cold reset keeps a part of the list of memory (R446). -/
theorem State.Canonical.powerOn {s : State} (h : s.Canonical) : s.powerOn.Canonical := ⟨Tbl.filter_wf 0 _ _ h.memoryOk⟩

theorem State.Canonical.execColdReset {s : State} (h : s.Canonical) : NextCanonical (execColdReset s) := .next h.powerOn.bootUp

theorem State.Canonical.execBootSourceRetry {s : State} (h : s.Canonical) : NextCanonical (execBootSourceRetry s) := by
  unfold Machine.execBootSourceRetry
  refine .next ?_
  split
  · exact .ite h.bootUp h
  · exact h

theorem State.Canonical.emptyL2 {s : State} {d : Nat} (h : s.Canonical) : (s.emptyL2 d).Canonical := ⟨dropAllDirty_wf _ _ h.memoryOk⟩

theorem State.Canonical.warmDie {s : State} {d : Nat} (h : s.Canonical) : (s.warmDie d).Canonical := h.clearDie.setDie

theorem State.Canonical.execWarmReset {s : State} (h : s.Canonical) : NextCanonical (execWarmReset s) := by
  unfold Machine.execWarmReset
  dsimp only
  exact .next (.ite (((h.cancelPlacements.withNetAcksFlitsDecls.foldl fun _ _ h => h.emptyL2).foldl fun _ _ h' => h'.foldl fun _ _ h =>
      h.loseParcel).foldl fun _ _ h => h.warmDie).setDebug (((h.cancelPlacements.withNetAcksFlitsDecls.foldl fun _ _ h => h.emptyL2).foldl fun _
      _ h' => h'.foldl fun _ _ h => h.loseParcel).foldl fun _ _ h => h.warmDie))

/-! ## Operations of Machine/HostRegs.lean -/

theorem State.Canonical.execLqcfgWrite {vf queue : Nat} {value : W64} {s : State} (h : s.Canonical) :
    NextCanonical (execLqcfgWrite vf queue value s) := .next (.ite h h.setVf.noteBacklog)

theorem State.Canonical.execFqcfgWrite {vf : Nat} {value : W64} {s : State} (h : s.Canonical) : NextCanonical (execFqcfgWrite vf value s) :=
  .next (.ite h h.setVf)

theorem State.Canonical.execLqidxWrite {vf queue : Nat} {value : W64} {s : State} (h : s.Canonical) :
    NextCanonical (execLqidxWrite vf queue value s) := .next (.ite h h.setVf.noteBacklog)

theorem State.Canonical.execFqidxWrite {vf : Nat} {value : W64} {s : State} (h : s.Canonical) : NextCanonical (execFqidxWrite vf value s) :=
  .next (.ite h h.setVf)

theorem State.Canonical.execLqtktWrite {vf queue : Nat} {value : W64} {s : State} (h : s.Canonical) :
    NextCanonical (execLqtktWrite vf queue value s) := .next (.ite h h.setVf)

theorem State.Canonical.execKrangeWrite {vf : Nat} {value : W32} {s : State} (h : s.Canonical) : NextCanonical (execKrangeWrite vf value s) :=
  .next (.ite h h.setVf)

theorem State.Canonical.execPrangeWrite {vf : Nat} {value : W32} {s : State} (h : s.Canonical) : NextCanonical (execPrangeWrite vf value s) :=
  .next (.ite h h.withPhasers.setVf)

theorem State.Canonical.setRsvstat {s : State} {vf die code : Nat} (h : s.Canonical) : (s.setRsvstat vf die code).Canonical := h.setVf

theorem State.Canonical.execRsvrectWrite {vf die : Nat} {value : W64} {s : State} (h : s.Canonical) :
    NextCanonical (execRsvrectWrite vf die value s) := by
  unfold Machine.execRsvrectWrite
  dsimp only
  refine .next (.ite h (.ite h.setRsvstat ?_))
  split
  · exact h.setRsvstat
  · exact h.setDie.setRsvstat

theorem State.Canonical.execSigpolWrite {vf : Nat} {value : BitVec 576} {s : State} (h : s.Canonical) :
    NextCanonical (execSigpolWrite vf value s) := .next (.ite h h.setVf)

theorem State.Canonical.execRegisterWrite {r : ConfigReg} {value : W128} {s : State} (h : s.Canonical) :
    NextCanonical (execRegisterWrite r value s) := by
  unfold Machine.execRegisterWrite
  dsimp only
  refine .next ?_
  split
  · exact .ite h h.setVf
  · exact .ite h h.setVf
  · exact h.withControl
  · exact .ite h h.setMxrst

theorem State.Canonical.outsideCross {s : State} {c out back : Nat} (h : s.Canonical) : OptCanonical (s.outsideCross c out back) :=
  h.crossNow.bind fun _ h => h.crossNow

theorem State.Canonical.outsideRead {s : State} {c n : Nat} (h : s.Canonical) : (s.outsideRead c n).Canonical := by
  unfold State.outsideRead
  dsimp only
  refine .ite h.withReplies ?_
  split
  · exact h
  · rename_i e
    have h' := State.Canonical.of_some e h.outsideCross
    exact h'.touchL2.withReplies

theorem State.Canonical.outsideWrite {s : State} {c : Nat} {bs : List Byte} (h : s.Canonical) : (s.outsideWrite c bs).Canonical := by
  unfold State.outsideWrite
  refine .ite h.withReplies ?_
  split
  · exact h
  · rename_i e
    have h' := State.Canonical.of_some e h.outsideCross
    exact h'.applyWrite

theorem State.Canonical.execHostCxlMemAccess {pa : Nat} {a : HostAccess} {s : State} (h : s.Canonical) :
    NextCanonical (execHostCxlMemAccess pa a s) := by
  unfold Machine.execHostCxlMemAccess
  dsimp only
  split
  · exact .ite .fault (.next h.outsideRead)
  · exact .ite .fault (.next h.outsideWrite)

theorem State.Canonical.dropHostLine {s : State} {c : Nat} (h : s.Canonical) : (s.dropHostLine c).Canonical := h.setDie

theorem State.Canonical.execHostCxlCacheSnoop {line : Nat} {kind : SnoopKind} {s : State} (h : s.Canonical) :
    NextCanonical (execHostCxlCacheSnoop line kind s) := by
  unfold Machine.execHostCxlCacheSnoop
  dsimp only
  refine .next ?_
  split
  · exact h
  · rename_i e
    have h' := State.Canonical.of_some e h.outsideCross
    split
    · exact .ite h' h'.setDie.withReplies
    · exact .ite h' h'.dropHostLine.withReplies
    · exact h'.dropHostLine.writeN.wakeWatches

theorem State.Canonical.outsideAtomic {s : State} {c : Nat} {ty : ElemType} {op : Nat} {value : W64} (h : s.Canonical) :
    (s.outsideAtomic c ty op value).Canonical := by
  unfold State.outsideAtomic
  dsimp only
  refine .ite h.withReplies ?_
  split
  · exact h
  · rename_i e
    have h' := State.Canonical.of_some e h.outsideCross
    exact h'.applyAtomic.withReplies

theorem State.Canonical.execFabricRequestArrival {r : FabricRequest} {s : State} (h : s.Canonical) :
    NextCanonical (execFabricRequestArrival r s) := by
  unfold Machine.execFabricRequestArrival
  dsimp only
  split
  · exact .ite .fault (.next h.outsideRead)
  · exact .ite .fault (.next h.outsideWrite)
  · exact .ite .fault (.next h.outsideAtomic)
  · exact .ite (.next h) (.next h.join)

/-! ## Operations of Machine/Light.lean -/

theorem State.Canonical.attachTree {c : Ctx} {reg off lane : Nat} {bad : FaultInfo} (h : c.s.Canonical) :
    (c.attachTree reg off lane bad).1.Canonical := by
  unfold Ctx.attachTree
  dsimp only
  split
  · rename_i e
    exact .of_fst e h.readDescriptor
  · rename_i e
    have h' := State.Canonical.of_fst e h.readDescriptor
    refine .ite_fst h' ?_
    split
    all_goals
      rename_i e₁
      exact .of_fst e₁ h'.regionOk

theorem State.Canonical.execLtset {f : QForm} {s : State} (h : s.Canonical) : NextCanonical (execLtset f s) :=
  h.runSlot fun _ h' => h'.attachSlot fun _ _ _ _ _ h => h.attachTree

theorem State.Canonical.execLtsmp {f : QForm} {s : State} (h : s.Canonical) : NextCanonical (execLtsmp f s) := h.runSlot fun _ h => h.requestSlot

theorem State.Canonical.execLightWalk {pair : Nat} {s : State} (h : s.Canonical) : NextCanonical (execLightWalk pair s) := by
  unfold Machine.execLightWalk
  dsimp only
  refine .next ?_
  split
  · split
    · split
      · exact h.engineStops
      · exact h.engineDone
    · exact h
  · exact h

/-! ## Operations of Machine/Power.lean -/

theorem State.Canonical.cleanL2 {s : State} {d : Nat} (h : s.Canonical) : (s.cleanL2 d).Canonical := h.setDie

theorem State.Canonical.loseIsland {s : State} {n : Nat} (h : s.Canonical) : (s.loseIsland n).Canonical := by
  unfold State.loseIsland
  dsimp only
  exact .ite h.withControl (.ite h.withCoresPairsPairTlbsControl
      (.ite h.withControl.setDie (.ite h.withControl.setDie (.ite h.withEnginesControl h.withControl))))

theorem State.Canonical.noteStandby {s : State} (h : s.Canonical) : s.noteStandby.Canonical := h.withControl

theorem State.Canonical.execIslandPowerChange {island : Nat} {state : IslandState} {s : State} (h : s.Canonical) :
    NextCanonical (execIslandPowerChange island state s) :=
  .next (.ite h (.noteStandby (.withControl (.ite (.loseIsland (.ite h.cleanL2 h)) (.ite h.cleanL2 h)))))

theorem State.Canonical.execDatumInEdge {s : State} (h : s.Canonical) : NextCanonical (execDatumInEdge s) := .next h.fireDatum

theorem State.Canonical.execDebugPortDatumTrigger {s : State} (h : s.Canonical) : NextCanonical (execDebugPortDatumTrigger s) :=
  .next (.ite h.fireDatum h)

theorem State.Canonical.execSnapstatClear {die block : Nat} {value : W64} {s : State} (h : s.Canonical) :
    NextCanonical (execSnapstatClear die block value s) := .next (.ite h.withControl h)

theorem State.Canonical.execSnapshotRead {reader : SnapReader} {die block index : Nat} {s : State} (h : s.Canonical) :
    NextCanonical (execSnapshotRead reader die block index s) := .next (.ite h (.ite h.withReplies.book h.withReplies))

theorem State.Canonical.execDebuggerLatchWrite {g latch lane : Nat} {value : W64} {s : State} (h : s.Canonical) :
    NextCanonical (execDebuggerLatchWrite g latch lane value s) := by
  unfold Machine.execDebuggerLatchWrite
  dsimp only
  refine .next ?_
  split
  · exact h
  · split
    · exact .ite h h.setGroup
    · exact h

theorem State.Canonical.execDebugPortResume {g : Nat} {s : State} (h : s.Canonical) : NextCanonical (execDebugPortResume g s) := by
  unfold Machine.execDebugPortResume
  refine .next ?_
  split
  · exact h
  · exact .ite h.resumeBreak h

theorem State.Canonical.execBreakpointWrite {w : DebugWriter} {core n : Nat} {value : W128} {s : State} (h : s.Canonical) :
    NextCanonical (execBreakpointWrite w core n value s) := .next (.ite h h.setCore)

theorem State.Canonical.bookError {s : State} {die block memory loc outcome : Nat} (h : s.Canonical) :
    (s.bookError die block memory loc outcome).Canonical := h.book

theorem State.Canonical.poisonSector {s : State} {n : Nat} (h : s.Canonical) : (s.poisonSector n).Canonical := h.withPoison

theorem State.Canonical.countSlice {s : State} {c : Nat} {poisoned : Bool} (h : s.Canonical) : (s.countSlice c poisoned).Canonical := h.setDie

theorem State.Canonical.l1Error {s : State} {core n : Nat} {one : Bool} (h : s.Canonical) : (s.l1Error core n one).Canonical := by
  unfold State.l1Error
  dsimp only
  split
  · exact h
  · split
    · exact h.setCore.bookError
    · refine .ite h.bookError ?_
      split
      · exact h.bookError.setGroup
      · exact h.bookError

theorem State.Canonical.l2Error {s : State} {n : Nat} {one : Bool} (h : s.Canonical) : (s.l2Error n one).Canonical := by
  unfold State.l2Error
  dsimp only
  split
  · exact h
  · exact .ite h.setDie.bookError (.ite h.countSlice.bookError h.poisonSector.countSlice.bookError)

theorem State.Canonical.tileError {s : State} {parcel handle sector : Nat} {one : Bool} (h : s.Canonical) :
    (s.tileError parcel handle sector one).Canonical := by
  unfold State.tileError
  dsimp only
  split
  · exact .ite h (.ite (.ite h.bookError h.bookError) (.setTile (.ite h.bookError h.bookError)))
  · exact h

theorem State.Canonical.registerError {s : State} {u r lane : Nat} {one : Bool} (h : s.Canonical) : (s.registerError u r lane one).Canonical := by
  unfold State.registerError
  dsimp only
  split
  · exact h
  · exact .ite h.bookError h.bookError.setGroup

theorem State.Canonical.logError {s : State} {parcel record : Nat} {one : Bool} (h : s.Canonical) : (s.logError parcel record one).Canonical := by
  unfold State.logError
  dsimp only
  split
  · exact h
  · split
    · exact h
    · exact .ite h.bookError h.bookError.setParcel

theorem State.Canonical.reservoirError {s : State} {vf die record : Nat} {one : Bool} (h : s.Canonical) :
    (s.reservoirError vf die record one).Canonical := .ite h (.ite h.bookError h.bookError.setDie)

end Sys2Proof.Machine
end

section
/-!
SUPPORT. Operations keep memory canonical (R86, log entry 2): the resurvey, reuse, samplers, security, tiles, and the step itself.
-/
namespace Sys2Proof.Machine
open Sys2Proof

/-! ## Operations of Machine/Power.lean -/

theorem State.Canonical.hbmError {s : State} {n : Nat} {one : Bool} (h : s.Canonical) : (s.hbmError n one).Canonical :=
  .ite h (.ite h.setDie.bookError h.poisonSector.bookError)

theorem State.Canonical.execStorageError {z : StorageError} {s : State} (h : s.Canonical) : NextCanonical (execStorageError z s) := by
  unfold Machine.execStorageError
  dsimp only
  refine .next ?_
  split
  · exact h.l1Error
  · exact h.l2Error
  · split
    · exact h.setCore.bookError
    · exact h
  · exact h.tileError
  · exact h.registerError
  · exact h.logError
  · exact h.reservoirError
  · exact h.hbmError

/-! ## Operations of Machine/Resurvey.lean -/

theorem State.Canonical.kvCtxReadPage {c : KvCtx} {s : State} {o : Nat} (h : s.Canonical) : (c.readPage s o).1.Canonical := by
  unfold KvCtx.readPage
  split
  · rename_i e
    exact .of_fst e h.capCheck
  · rename_i e
    have h' := State.Canonical.of_fst e h.capCheck
    split
    · rename_i e₁
      exact .of_fst e₁ h'.unitRead
    · rename_i e₁
      have h'' := State.Canonical.of_fst e₁ h'.unitRead
      exact .ite_fst h'' h''

theorem State.Canonical.chain {c : KvCtx} {s : State} {n o : Nat} (h : s.Canonical) : (c.chain n s o).1.Canonical := by
  induction n generalizing s o with
  | zero => exact h
  | succ n ih =>
      unfold KvCtx.chain
      split
      · rename_i e
        exact .of_fst e h.kvCtxReadPage
      · rename_i e
        have h' := State.Canonical.of_fst e h.kvCtxReadPage
        refine .ite_fst h' (.ite_fst h' ?_)
        split
        all_goals
          rename_i e'
          exact .of_fst e' (ih h')

theorem State.Canonical.compactPage {c : KvCtx} {s : State} {x : Nat × List Nat × Nat} (h : s.Canonical) : (c.compactPage s x).1.Canonical := by
  unfold KvCtx.compactPage
  dsimp only
  split
  · rename_i e
    exact .of_fst e h.unitRead
  · rename_i e
    have h' := State.Canonical.of_fst e h.unitRead
    split
    · rename_i e₁
      exact .of_fst e₁ h'.unitPieces
    · rename_i e₁
      have h'' := State.Canonical.of_fst e₁ h'.unitPieces
      split
      · rename_i e₂
        exact .applyPieces (.of_some e₂ h''.crossPieces)
      · exact h''

theorem State.Canonical.kvStep {s : State} {z : EngineRef} {b : Taken} {c : KvCtx} {page : Nat} (h : s.Canonical) :
    (s.kvStep z b c page).Canonical := by
  unfold State.kvStep
  dsimp only
  refine .ite ?_ ?_
  · split
    · rename_i e
      exact .engineStops (.of_fst e h.chain)
    · rename_i e
      have h' := State.Canonical.of_fst e h.chain
      exact h'.setEngine
  · split
    · split
      · rename_i e₁
        exact .engineStops (.of_fst e₁ h.compactPage)
      · rename_i e₁
        exact .setEngine (.of_fst e₁ h.compactPage)
    · exact h.engineDone.completion

theorem State.Canonical.execKvrsSurvey {die : Nat} {s : State} (h : s.Canonical) : NextCanonical (execKvrsSurvey die s) := by
  unfold Machine.execKvrsSurvey
  dsimp only
  refine .next ?_
  split
  · split
    · exact h.kvStep
    · exact h
  · exact h

/-! ## Operations of Machine/Reuse.lean -/

theorem State.Canonical.readBody {core vf text n o k : Nat} {l : Launch} {s : State} (h : s.Canonical) :
    (readBody core vf text l n o k s).1.Canonical := by
  induction n generalizing s o k with
  | zero => exact h
  | succ n ih =>
      unfold Machine.readBody
      refine .ite_fst h ?_
      split
      · rename_i e
        exact .of_fst e h.fetchWords
      · rename_i e
        have h' := State.Canonical.of_fst e h.fetchWords
        refine .ite_fst h' ?_
        split
        · rename_i e'
          exact .of_fst e' h'.fetchWords
        · rename_i e'
          have h'' := State.Canonical.of_fst e' h'.fetchWords
          refine .ite_fst ?_ h''
          split
          · rename_i e''
            exact .of_fst e'' (ih h'')
          · exact ih h''

theorem State.Canonical.execReuse {f : QForm} {s : State} (h : s.Canonical) : NextCanonical (execReuse f s) := by
  unfold Machine.execReuse
  dsimp only
  refine h.runSlot fun _ h' => h'.raySlot fun _ _ _ h => h.notBehind ?_
  split
  · rename_i e
    exact .stop (.of_fst e h.readDescriptor)
  · rename_i e
    have h'' := State.Canonical.of_fst e h.readDescriptor
    split
    · rename_i e₁
      exact .stop (.of_fst e₁ h''.attachScene)
    · rename_i e₁
      have h''' := State.Canonical.of_fst e₁ h''.attachScene
      refine .ite (.stop h''') ?_
      split
      · exact .stop h'''
      · split
        · rename_i e₃
          exact .stop (.of_fst e₃ h'''.readBody)
        · rename_i e₃
          exact .stop (.of_fst e₃ h'''.readBody)
        · rename_i e₃
          have h'''' := State.Canonical.of_fst e₃ h'''.readBody
          split
          · exact .stop h''''
          · exact .ite (.stop h'''') (.done h'''')

theorem State.Canonical.execReuseCardRun {pair : Nat} {s : State} (h : s.Canonical) : NextCanonical (execReuseCardRun pair s) := by
  unfold Machine.execReuseCardRun
  dsimp only
  refine .next ?_
  split
  · split
    · split
      · exact h.engineStops
      · exact h.putElements.engineDone.completion
    · exact h
  · exact h

/-! ## Operations of Machine/Sampler.lean -/

theorem State.Canonical.execSmpbind {f : QForm} {s : State} (h : s.Canonical) : NextCanonical (execSmpbind f s) := by
  unfold Machine.execSmpbind
  dsimp only
  refine h.runSlot fun _ h' => h'.raySlot fun _ _ _ h => ?_
  split
  · rename_i e
    exact .stop (.of_fst e h.readDescriptor)
  · rename_i e
    have h'' := State.Canonical.of_fst e h.readDescriptor
    split
    · exact .stop h''
    · split
      · rename_i e₂
        exact .stop (.of_fst e₂ h''.regionOk)
      · rename_i e₂
        exact .done (.of_fst e₂ h''.regionOk)

theorem State.Canonical.sampleLane {c : Ctx} {s : State} {combine : List (Nat × W64) → W64} {lane : Nat} {taps : List Tap} {as : List LaneAcc}
    (h : s.Canonical) : (c.sampleLane s combine lane taps as).1.Canonical := by
  unfold Ctx.sampleLane
  dsimp only
  split
  · exact h
  · refine .foldl_fst h fun _ _ h => ?_
    split
    · exact h.readCached
    · exact h

theorem State.Canonical.sampleLanes {c : Ctx} {combine : List (Nat × W64) → W64} {as : List LaneAcc} {s : State}
    {xs : List (Nat × List Tap)} (h : s.Canonical) : (c.sampleLanes combine as s xs).1.Canonical := by
  induction xs generalizing s with
  | nil => exact h
  | cons x xs ih =>
      unfold Ctx.sampleLanes
      exact ih h.sampleLane

theorem State.Canonical.sample {c : Ctx} {f : VForm} {taps : Texture → W64 → List Tap} {combine : ElemType → List (Nat × W64) → W64}
    (h : c.s.Canonical) : (c.sample f taps combine).Canonical := by
  unfold Ctx.sample
  dsimp only
  refine h.raySlot fun _ _ _ h => ?_
  split
  · exact h.skip
  · split
    · rename_i e
      exact .stop (.of_fst e h.resolve)
    · rename_i e
      have h' := State.Canonical.of_fst e h.resolve
      refine .ite (.stop h') ?_
      split
      · exact .stop h'
      · rename_i e'
        exact (State.Canonical.of_ok e' h'.readNow).sampleLanes.issueLoad

theorem State.Canonical.execSmpt {f : VForm} {s : State} (h : s.Canonical) : NextCanonical (execSmpt f s) := h.runSlot fun _ h => h.sample

theorem State.Canonical.execSmpb {f : VForm} {s : State} (h : s.Canonical) : NextCanonical (execSmpb f s) := h.runSlot fun _ h => h.sample

/-! ## Operations of Machine/Security.lean -/

theorem State.Canonical.execAttestationRequest {vf : Option Nat} {nonce : BitVec 256} {s : State} (h : s.Canonical) :
    NextCanonical (execAttestationRequest vf nonce s) := .next (.ite h h.withReplies)

theorem State.Canonical.execCodeAdmission {vf pa size obj : Nat} {s : State} (h : s.Canonical) :
    NextCanonical (execCodeAdmission vf pa size obj s) := .ite (.next h) (.ite .fault (.ite (.next h) (.next h.withControl)))

theorem State.Canonical.execMlKemEncapsulation {vf : Nat} {ciphertext : List Byte} {s : State} (h : s.Canonical) :
    NextCanonical (execMlKemEncapsulation vf ciphertext s) := by
  unfold Machine.execMlKemEncapsulation
  dsimp only
  refine .next (.ite h ?_)
  split
  · exact h.setVf
  · exact h

theorem State.Canonical.execKeyLoad {vf slot : Nat} {wrapped : List Byte} {s : State} (h : s.Canonical) :
    NextCanonical (execKeyLoad vf slot wrapped s) := by
  unfold Machine.execKeyLoad
  dsimp only
  refine .next (.ite h ?_)
  split
  · exact .ite h.withControl h
  · exact h

theorem State.Canonical.destroyKeys {s : State} (h : s.Canonical) : s.destroyKeys.Canonical := h.withControl

theorem State.Canonical.execDebugToken {token : DebugToken} {s : State} (h : s.Canonical) : NextCanonical (execDebugToken token s) :=
  .next (.ite h h.destroyKeys.nextFree.withControl.setDebug)

theorem State.Canonical.execLifecycleAdvance {record : ConfigRecord} {s : State} (h : s.Canonical) :
    NextCanonical (execLifecycleAdvance record s) := by
  unfold Machine.execLifecycleAdvance
  dsimp only
  refine .next ?_
  split
  · exact h
  · exact .ite h (.book (.ite h.withControl.destroyKeys h.withControl))

/-! ## Operations of Machine/System.lean -/

theorem State.Canonical.execTrap {f : SForm} {s : State} (h : s.Canonical) : NextCanonical (execTrap f s) :=
  h.runSlot fun _ h' => h'.enter fun _ _ _ h => h.trap

theorem State.Canonical.execBkpt {f : SForm} {s : State} (h : s.Canonical) : NextCanonical (execBkpt f s) := h.runSlot fun _ h => .ite h.skip h.trap

theorem State.Canonical.execTretSave {f : SForm} {s : State} (h : s.Canonical) : NextCanonical (execTretSave f s) :=
  h.runSlot fun _ h => .ite h.skip (.ite (.done h) h.trap)

theorem State.Canonical.execTretRest {f : SForm} {s : State} (h : s.Canonical) : NextCanonical (execTretRest f s) :=
  h.runSlot fun _ h => .ite h.skip (.ite (.done h) h.trap)

theorem State.Canonical.execDatum {f : SForm} {s : State} (h : s.Canonical) : NextCanonical (execDatum f s) :=
  h.runSlot fun _ h' => h'.enter fun _ _ _ h => .ite (State.Canonical.result (.ite_fst h.fireDatum h)) (.done (.ite_fst h.fireDatum h))

theorem State.Canonical.execSleept {f : SForm} {s : State} (h : s.Canonical) : NextCanonical (execSleept f s) :=
  h.runSlot fun _ h' => h'.enter fun _ _ _ h => .ite (.done h) h.block

/-! ## Operations of Machine/Tile.lean -/

theorem State.Canonical.execTld {f : VForm} {s : State} (h : s.Canonical) : NextCanonical (execTld f s) := by
  unfold Machine.execTld
  dsimp only
  refine h.runSlot fun _ h' => h'.enter fun _ _ _ h => ?_
  split
  · exact h.skip
  · refine .ite h.block ?_
    split
    · split
      · exact h.trap
      · exact h.result
    · exact .done h.pend

theorem State.Canonical.execTst {f : VForm} {s : State} (h : s.Canonical) : NextCanonical (execTst f s) := by
  unfold Machine.execTst
  dsimp only
  refine h.runSlot fun _ h' => h'.enter fun _ _ _ h => ?_
  split
  · exact .done h.setTile
  · exact h.skip

theorem State.Canonical.freeTile {s : State} {p : Parcel} {y : Nat} {t : Tile} (h : s.Canonical) : (s.freeTile p y t).Canonical :=
  h.setParcel.returnUnits

theorem State.Canonical.of_placeUnits {s t : State} {p : Parcel} {y level core n r : Nat} {us : List Nat}
    (e : s.placeUnits p y level core n = some (t, r, us)) (h : s.Canonical) : t.Canonical := by
  unfold State.placeUnits at e
  dsimp only at e
  split at e
  · obtain ⟨d, -, e⟩ := Option.map_eq_some_iff.mp e
    cases e
    exact h.setDie
  · split at e
    · cases e
    · cases e
      exact h.setCore.setParcel

theorem State.Canonical.reclaim {c : Ctx} {y : Nat} (h : c.s.Canonical) : (c.reclaim y).s.Canonical := by
  unfold Ctx.reclaim
  split
  · exact h
  · split
    · exact h
    · split
      · exact h
      · exact h.freeTile.setGroup

theorem State.Canonical.execTalloc {f : VForm} {s : State} (h : s.Canonical) : NextCanonical (execTalloc f s) := by
  unfold Machine.execTalloc
  dsimp only
  refine h.runSlot fun c h => State.Canonical.enter ?_ fun _ _ _ h => ?_
  · split
    · exact h
    · exact h.reclaim
  · split
    · exact .ite (.stop h) h.trap
    · rename_i e
      exact .done (State.Canonical.of_placeUnits e h).setTile

theorem State.Canonical.execTfree {f : VForm} {s : State} (h : s.Canonical) : NextCanonical (execTfree f s) := by
  unfold Machine.execTfree
  dsimp only
  refine h.runSlot fun _ h => .ite h.skip ?_
  split
  · exact h.trap
  · exact .ite h.block (.done h.freeTile)

/-! ## Operations of Machine/Dispatch.lean -/

theorem State.Canonical.exec {i : Instr} {s : State} (h : s.Canonical) : NextCanonical (exec i s) := by
  unfold Machine.exec
  split
  · exact h.execNop
  · exact h.execSmov
  · exact h.execSmovi
  · exact h.execSadd
  · exact h.execSsub
  · exact h.execSmul
  · exact h.execSmulh
  · exact h.execSdiv
  · exact h.execSrem
  · exact h.execSand
  · exact h.execSor
  · exact h.execSxor
  · exact h.execSshl
  · exact h.execSshr
  · exact h.execScmp
  · exact h.execSsel
  · exact h.execSaddi
  · exact h.execSmin
  · exact h.execSmax
  · exact h.execSrd
  · exact h.execScvt
  · exact h.execSclz
  · exact h.execSpopc
  · exact h.execVmov
  · exact h.execVmovi
  · exact h.execVadd
  · exact h.execVsub
  · exact h.execVmul
  · exact h.execVfma
  · exact h.execVmin
  · exact h.execVmax
  · exact h.execVabs
  · exact h.execVneg
  · exact h.execVdiv
  · exact h.execVrem
  · exact h.execVand
  · exact h.execVor
  · exact h.execVxor
  · exact h.execVnot
  · exact h.execVshl
  · exact h.execVshr
  · exact h.execVcmp
  · exact h.execVsel
  · exact h.execVcvt
  · exact h.execVpack
  · exact h.execVunpk
  · exact h.execVclz
  · exact h.execVpopc
  · exact h.execVmulh
  · exact h.execVcpys
  · exact h.execKand
  · exact h.execKor
  · exact h.execKxor
  · exact h.execKnot
  · exact h.execKmovKk
  · exact h.execKmovSk
  · exact h.execKmovKs
  · exact h.execVshfl
  · exact h.execVbcast
  · exact h.execVvote
  · exact h.execVballot
  · exact h.execVredx
  · exact h.execVscan
  · exact h.execSetf
  · exact h.execVspc
  · exact h.execVrcp
  · exact h.execVrsq
  · exact h.execVsqrt
  · exact h.execVexp2
  · exact h.execVlog2
  · exact h.execVsin
  · exact h.execVcos
  · exact h.execVfdiv
  · exact h.execVtanh
  · exact h.execVerf
  · exact h.execBr
  · exact h.execJmp
  · exact h.execLoop
  · exact h.execExit
  · exact h.execReggive
  · exact h.execRegclaim
  · exact h.execRolesw
  · exact h.execLd
  · exact h.execSt
  · exact h.execLdp
  · exact h.execStp
  · exact h.execTld
  · exact h.execTst
  · exact h.execTalloc
  · exact h.execTfree
  · exact h.execCnarrow
  · exact h.execCsave
  · exact h.execCload
  · exact h.execAtom
  · exact h.execAtomr
  · exact h.execCas
  · exact h.execLds
  · exact h.execSts
  · exact h.execWlpush
  · exact h.execWlpopb
  · exact h.execWlins
  · exact h.execWlres
  · exact h.execWlcom
  · exact h.execWlsize
  · exact h.execFence
  · exact h.execWaitc
  · exact h.execPhreg
  · exact h.execPhdrop
  · exact h.execPharr
  · exact h.execPhwait
  · exact h.execSemset
  · exact h.execSemwait
  · exact h.execSemrd
  · exact h.execTvdecl
  · exact h.execTvwait
  · exact h.execTvend
  · exact h.execQbind
  · exact h.execLaunch
  · exact h.execJccopy
  · exact h.execJcgath
  · exact h.execJcscat
  · exact h.execJccoll
  · exact h.execJcmtx
  · exact h.execJcfill
  · exact h.execTrap
  · exact h.execTretSave
  · exact h.execTretRest
  · exact h.execDatum
  · exact h.execBkpt
  · exact h.execSleept
  · exact h.execMma
  · exact h.execMmap
  · exact h.execMmas
  · exact h.execMmasp
  · exact h.execMmag
  · exact h.execMmagp
  · exact h.execMlda
  · exact h.execMldb
  · exact h.execUnfold
  · exact h.execAccdr
  · exact h.execAccdra
  · exact h.execAccld
  · exact h.execAccz
  · exact h.execAccmovGet
  · exact h.execAccmovPut
  · exact h.execAcccvt
  · exact h.execAttqk
  · exact h.execAttsm
  · exact h.execAttpv
  · exact h.execAttmd
  · exact h.execKvrs
  · exact h.execMsync
  · exact h.execMelect
  · exact h.execRng
  · exact h.execRngu
  · exact h.execRsvinit
  · exact h.execRsvupd
  · exact h.execRsvmrg
  · exact h.execRsvnrm
  · exact h.execRsvld
  · exact h.execRsvst
  · exact h.execRsvclr
  · exact h.execRsvcpy
  · exact h.execMotv
  · exact h.execScnbind
  · exact h.execRayq
  · exact h.execRays
  · exact h.execHitunp
  · exact h.execRayorg
  · exact h.execLtset
  · exact h.execLtsmp
  · exact h.execReuse
  · exact h.execGfemb
  · exact h.execGfedepth
  · exact h.execViscls
  · exact h.execVisw
  · exact h.execSmpbind
  · exact h.execSmpt
  · exact h.execSmpb
  · exact h.execClauseIssue
  · exact h.execQuantumClauseLimit
  · exact h.execAllowanceExpiry
  · exact h.execCandidateAged
  · exact h.execBlockedSlotResume
  · exact h.execLoadResult
  · exact h.execSfuResult
  · exact h.execSleeptWake
  · exact h.execHomeSliceWrite
  · exact h.execWatchTableRetry
  · exact h.execAckReturn
  · exact h.execLaunchAccept
  · exact h.execDispatch
  · exact h.execResourceReport
  · exact h.execStake
  · exact h.execPlacementCommit
  · exact h.execStakeRetry
  · exact h.execParcelRetire
  · exact h.execCommitLogApply
  · exact h.execLaunchComplete
  · exact h.execBeatEnd
  · exact h.execGrantPlacement
  · exact h.execEngineTakeCommand
  · exact h.execEngineResultDeliver
  · exact h.execJobCardDispatch
  · exact h.execJobCardComplete
  · exact h.execMtxOpStart
  · exact h.execMtxOpRetire
  · exact h.execKvrsSurvey
  · exact h.execRayResult
  · exact h.execLightWalk
  · exact h.execReuseCardRun
  · exact h.execGfeMeshletPass
  · exact h.execGfePyramidBuild
  · exact h.execFaultRecordDeliver
  · exact h.execFqresume
  · exact h.execFqactEnd
  · exact h.execFqactResume
  · exact h.execShootdown
  · exact h.execShootdownDone
  · exact h.execMigratePage
  · exact h.execMigrationCopy
  · exact h.execPreemptSave
  · exact h.execPreemptSaveOrRequeue
  · exact h.execPreemptEnd
  · exact h.execPreemptRelease
  · exact h.execSaveRoutineEnter
  · exact h.execSaveComplete
  · exact h.execRestore
  · exact h.execPreemptLate
  · exact h.execMatrixWatchdog
  · exact h.execMatrixResetCommand
  · exact h.execComputeDieReset
  · exact h.execDieRelink
  · exact h.execVfReset
  · exact h.execColdReset
  · exact h.execBootSourceRetry
  · exact h.execWarmReset
  · exact h.execAttestationRequest
  · exact h.execCodeAdmission
  · exact h.execKeyLoad
  · exact h.execDebugToken
  · exact h.execLifecycleAdvance
  · exact h.execIslandPowerChange
  · exact h.execDatumInEdge
  · exact h.execSnapstatClear
  · exact h.execSnapshotRead
  · exact h.execStorageError
  · exact h.execLinkFlitSend
  · exact h.execFlitReplay
  · exact h.execLinkRetrain
  · exact h.execLinkRateStep
  · exact h.execHostCxlMemAccess
  · exact h.execLqidxWrite
  · exact h.execFqidxWrite
  · exact h.execLqcfgWrite
  · exact h.execFqcfgWrite
  · exact h.execKrangeWrite
  · exact h.execPrangeWrite
  · exact h.execRsvrectWrite
  · exact h.execLqtktWrite
  · exact h.execSigpolWrite
  · exact h.execBreakpointWrite
  · exact h.execDebugPortResume
  · exact h.execRegisterWrite
  · exact h.execMatrixResetComplete
  · exact h.execDebugPortDatumTrigger
  · exact h.execDebuggerLatchWrite
  · exact h.execHostCxlCacheSnoop
  · exact h.execFabricRequestArrival
  · exact h.execRetrainingWindowEnd
  · exact h.execMlKemEncapsulation

/-! ## Operations of Machine/Next.lean -/

theorem State.Canonical.expire {s : State} {cycles : Nat} (h : s.Canonical) : (s.expire cycles).Canonical :=
  h.foldl fun _ _ h => .ite h.abortParcel h

theorem State.Canonical.passTime {s : State} {cycles ns : Nat} (h : s.Canonical) : (s.passTime cycles ns).Canonical :=
  h.expire.withTickCyclesTimeParcels

theorem State.Canonical.settleClaims {s : State} (h : s.Canonical) : s.settleClaims.Canonical := h.foldl fun _ _ h => .ite h h.dueClaims

theorem State.Canonical.settle {s : State} (h : s.Canonical) : s.settle.Canonical :=
  h.retryReturns.settleClaims.releaseEngines.refreshCounts.tidyLoops.noteReady.settlePrecmd

theorem State.Canonical.frontRunning {s : State} (h : s.Canonical) : s.frontRunning.Canonical := by
  unfold State.frontRunning
  dsimp only
  split
  · exact h.withActive
  · exact h

theorem State.Canonical.takeTurn {s : State} (h : s.Canonical) : s.takeTurn.Canonical := by
  unfold State.takeTurn
  split
  · exact h.withTurnsActive
  · exact h.frontRunning

theorem State.Canonical.go {c : Ctx} {s : State} (h : s.Canonical) : NextCanonical (c.go s) := by
  unfold Ctx.go
  split
  · exact .next h
  · split
    · exact h.exec
    · exact .next h.takeFault

/-! ## The next event of the package -/

/-- Each event of the list keeps the canonical form. -/
def EventsCanonical (l : List Event) : Prop := ∀ e ∈ l, ∀ s : State, s.Canonical → NextCanonical (e s)

section
variable {k l : List Event} {α : Type}

theorem EventsCanonical.nil : EventsCanonical [] := fun _ he => nomatch he

theorem EventsCanonical.cons {e : Event} (he : ∀ s : State, s.Canonical → NextCanonical (e s)) (hl : EventsCanonical l) :
    EventsCanonical (e :: l) := List.forall_mem_cons.mpr ⟨he, hl⟩

theorem EventsCanonical.single {e : Event} (he : ∀ s : State, s.Canonical → NextCanonical (e s)) : EventsCanonical [e] := .cons he .nil

theorem EventsCanonical.append (hk : EventsCanonical k) (hl : EventsCanonical l) : EventsCanonical (k ++ l) :=
  List.forall_mem_append.mpr ⟨hk, hl⟩

theorem EventsCanonical.map {f : α → Event} {xs : List α} (hf : ∀ x, ∀ s : State, s.Canonical → NextCanonical (f x s)) :
    EventsCanonical (xs.map f) := List.forall_mem_map.mpr fun x _ => hf x

theorem EventsCanonical.flatMap {f : α → List Event} {xs : List α} (hf : ∀ x, EventsCanonical (f x)) : EventsCanonical (xs.flatMap f) := by
  intro e he
  obtain ⟨x, -, hx⟩ := List.mem_flatMap.mp he
  exact hf x e hx

theorem EventsCanonical.ite {c : Prop} [Decidable c] (hk : EventsCanonical k) (hl : EventsCanonical l) : EventsCanonical (if c then k else l) := by
  split
  · exact hk
  · exact hl

end

section
variable (s : State)

theorem State.resultEvents_canonical : EventsCanonical s.resultEvents :=
  .flatMap fun _ => .ite .nil (.append (.map fun _ _ h => h.execLoadResult) (.single fun _ h => h.execSfuResult))

theorem State.netEvents_canonical : EventsCanonical s.netEvents := by
  refine .append (.append (.append (.ite .nil (.map ?_)) (.map ?_)) (.map ?_)) (.map ?_)
  · exact fun _ _ h => h.execLinkFlitSend
  · exact fun _ _ h => h.execHomeSliceWrite
  · exact fun _ _ h => h.execAckReturn
  · exact fun _ _ h => h.execWatchTableRetry

theorem engineWork_canonical (e : EngineRef) : EventsCanonical (engineWork e) := by
  unfold engineWork
  split
  · exact .single fun _ h => h.execRayResult
  · exact .single fun _ h => h.execLightWalk
  · exact .single fun _ h => h.execReuseCardRun
  · exact .single fun _ h => h.execKvrsSurvey
  · exact .cons (fun _ h => h.execGfeMeshletPass) (.single fun _ h => h.execGfePyramidBuild)
  · exact .nil

theorem State.engineEvents_canonical : EventsCanonical s.engineEvents := by
  refine .append (.append (.flatMap fun _ => .append (engineWork_canonical _) (.single fun _ h => h.execEngineResultDeliver)) ?_) ?_
  · exact .flatMap fun _ => .map fun _ _ h => h.execEngineTakeCommand
  · refine .flatMap fun _ => .append (.append ?_ ?_) ?_
    · exact .flatMap fun _ => .cons (fun _ h => h.execMtxOpRetire) (.single fun _ h => h.execMtxOpStart)
    · exact .map fun _ _ h => h.execJobCardComplete
    · exact .cons (fun _ h => h.execJobCardDispatch) (.cons (fun _ h => h.execMatrixResetComplete) (.single fun _ h => h.execMatrixWatchdog))

theorem State.parcelEvents_canonical : EventsCanonical s.parcelEvents := by
  refine .append (.flatMap fun _ => ?_) (.map fun _ _ h => h.execLaunchComplete)
  refine .cons (fun _ h => h.execAllowanceExpiry) (.cons (fun _ h => h.execSaveRoutineEnter) (.cons (fun _ h => h.execSaveComplete) ?_))
  refine .cons (fun _ h => h.execRestore) (.cons (fun _ h => h.execCommitLogApply) (.cons (fun _ h => h.execParcelRetire) ?_))
  exact .single fun _ h => h.execPreemptLate

theorem State.Canonical.retry {u : Nat} {s : State} (h : s.Canonical) : NextCanonical (retry u s) := .ite h.execBlockedSlotResume (.next h)

theorem State.wakeEvents_canonical : EventsCanonical s.wakeEvents := by
  refine .append (.flatMap fun _ => .cons (fun _ h => h.execBlockedSlotResume) (.single fun _ h => h.execSleeptWake)) (.map ?_)
  exact fun _ _ h => h.retry

theorem State.traverseEvents_canonical : EventsCanonical s.traverseEvents :=
  .ite .nil (.cons (fun _ h => h.execGrantPlacement) (.single fun _ h => h.execBeatEnd))

theorem State.issueEvents_canonical : EventsCanonical s.issueEvents := by
  refine .flatMap fun _ => .cons ?_ (.cons ?_ (.single ?_))
  · exact fun _ h => h.execCandidateAged
  · exact fun _ h => h.execClauseIssue
  · exact fun _ h => h.execQuantumClauseLimit

theorem State.controlEvents_canonical : EventsCanonical s.controlEvents := by
  refine .append (.append (.append (.append (.append (.append (.flatMap fun _ => .append (.append ?_ ?_) ?_) ?_) ?_) ?_) ?_) ?_) ?_
  · exact .cons (fun _ h => h.execFaultRecordDeliver) (.cons (fun _ h => h.execShootdownDone) (.single fun _ h => h.execMigrationCopy))
  · exact .ite (.single fun _ h => h.execVfReset) .nil
  · exact .map fun _ _ h => h.execLaunchAccept
  · refine .flatMap fun _ => .append (.map fun _ _ h => h.execStake) ?_
    exact .cons (fun _ h => h.execPlacementCommit) (.single fun _ h => h.execStakeRetry)
  · exact .map fun _ _ h => h.execResourceReport
  · exact .ite .nil (.single fun _ h => h.execDispatch)
  · exact .map fun _ _ h => h.execRetrainingWindowEnd
  · exact .map fun _ _ h => h.execRetrainingWindowEnd
  · split
    · exact .single fun _ h => h.execColdReset
    · exact .single fun _ h => h.execBootSourceRetry
    · exact .nil

theorem State.events_canonical : EventsCanonical s.events := by
  refine .append (.append (.append (.append (.append (.append (.append ?_ ?_) ?_) ?_) ?_) ?_) ?_) ?_
  · exact s.resultEvents_canonical
  · exact s.netEvents_canonical
  · exact s.engineEvents_canonical
  · exact s.parcelEvents_canonical
  · exact s.wakeEvents_canonical
  · exact s.traverseEvents_canonical
  · exact s.issueEvents_canonical
  · exact s.controlEvents_canonical

end

theorem State.Canonical.idle {s : State} (h : s.Canonical) : NextCanonical s.idle := by
  unfold State.idle
  split
  · rename_i he
    exact s.events_canonical _ (List.mem_of_find?_eq_some he) s h
  · exact .next h

theorem State.Canonical.ready {s : State} (h : s.Canonical) : s.ready.Canonical := h.passTime.settle.takeTurn

theorem State.Canonical.stateGo {s : State} (h : s.Canonical) : NextCanonical s.go := by
  unfold State.go
  split
  · exact h.go
  · split
    · exact .next h.endClause
    · exact h.idle

theorem State.Canonical.planned {s : State} {p : Planned} {rest : List Planned} (h : s.Canonical) : NextCanonical (s.planned p rest) :=
  .ite (.next h.withAgenda.passTime.settle) h.withAgenda.passTime.settle.exec

theorem State.Canonical.step {s : State} (h : s.Canonical) : NextCanonical (step s) := by
  unfold Machine.step
  split
  · exact h.planned
  · exact h.ready.stateGo

/-- Settles O58: the memory of the state that `step` answers is canonical because every event of the agenda and of the package, and every
instruction, keeps the form (log entry 2). -/
theorem stepKeepsMemoryCanonical : Obligations.StepKeepsMemoryCanonical := by
  unfold Obligations.StepKeepsMemoryCanonical
  intro s t hs hst
  exact (State.Canonical.of_next hst (State.Canonical.step ⟨hs⟩)).memoryOk

end Sys2Proof.Machine
end

section
/-!
SUPPORT. Fences and queue bindings (R94, R109, R279, R296, R307): what a release waits for, what an acquire leaves in the L1, and what QBIND
accepts and refuses.
-/
namespace Sys2Proof.Machine
open Sys2Proof

/-! ## FENCE (R94, R279, R296) -/

/-- A group without sources to pop begins its effect as it stands. -/
theorem Ctx.Begins.group_eq {c : Ctx} {o : Start} {e : W64} {nw : Bool} {dsts : List Use} {s : State} {g h : Group} {xs : List Src}
    {captures : Bool} (b : c.Begins o e nw dsts [] s g h xs captures) : h = g := by
  have hs := b.sources
  unfold takeSources at hs
  cases hs
  rfl

/-- A release whose conditions hold is over at once; at die scope it marks what is on its way (R279, R397). -/
theorem State.releaseWait_done {s : State} {g : Group} {sc : Nat} (hl : g.loadsDone = true) (hd : s.drainsPending g = false)
    (hn : s.nearPending g = false) (ha : 6 ≤ sc → g.acks = 0 ∧ g.lateWrite = none) :
    s.releaseWait g sc = .ok (if sc = 5 then s.markReleased g.uid else s) g := by
  simp only [State.releaseWait, hl, hd, hn, Bool.not_true, Bool.false_eq_true, if_false]
  by_cases hsc : sc < 6
  · rw [if_pos hsc]
  · obtain ⟨hacks, hlate⟩ := ha (Nat.le_of_not_lt hsc)
    rw [if_neg hsc, hacks, hlate, if_neg (show ¬sc = 5 by omega)]
    rfl

/-- An acquire at pair scope or wider leaves in the core's L1 no line but those of groups (R94). -/
theorem State.acquire_l1_owned {s : State} {g : Group} {sc : Nat} (h : 4 ≤ sc) :
    ∀ x ∈ ((s.acquire g sc).core g.core).l1, x.owner ≠ none := by
  intro x hx
  rw [State.acquire, if_pos h, State.invalidateL1, State.core, State.setCore, Tbl.get_put_same] at hx
  exact of_decide_eq_true (List.mem_filter.mp hx).2

theorem State.acquire_mem (s : State) (g : Group) (sc : Nat) : (s.acquire g sc).mem = s.mem := by
  unfold State.acquire
  split <;> rfl

section
variable {s : State} {c : Ctx} {f : VForm} {t u : State} {g h : Group} (hc : s.runs c)
  (b : c.Begins { always := false, fence := true } (c.enabled f.pg f.pn) true [] [] t g h [] false)
  (hr : (if isRelease (f.x.extractLsb' 4 2) then t.releaseWait g (f.x.extractLsb' 0 4).toNat else .ok t g) = .ok u g)
include hc b hr

theorem fence_releases (ha : isAcquire (f.x.extractLsb' 4 2) = false) : exec (.fence f) s = doneWith u g none none := by
  obtain rfl := b.group_eq
  refine (runSlot_runs hc _).trans (Ctx.enter_completes b ?_)
  simp only [show (c.put t h).s = t from rfl, hr, Act.slot, ha, Bool.false_eq_true, if_false]

theorem fence_acquires (ha : isAcquire (f.x.extractLsb' 4 2) = true) (hl : g.loadsDone = true) :
    exec (.fence f) s = doneWith (u.acquire g (f.x.extractLsb' 0 4).toNat) g none none := by
  obtain rfl := b.group_eq
  refine (runSlot_runs hc _).trans (Ctx.enter_completes b ?_)
  simp only [show (c.put t h).s = t from rfl, hr, Act.slot, ha, hl, if_true]

/-- An acquire waits for the loads of its group (R279). -/
theorem fence_waits (ha : isAcquire (f.x.extractLsb' 4 2) = true) (hl : g.loadsDone = false) :
    exec (.fence f) s = .next (slotEnd (.stop u g (.block .loads))) := by
  obtain rfl := b.group_eq
  refine (runSlot_runs hc _).trans (Ctx.enter_blocks b ?_)
  simp only [show (c.put t h).s = t from rfl, hr, Act.slot, ha, hl, if_true, Bool.false_eq_true, if_false]

end

/-! ## QBIND (R109, R307) -/

/-- A slot whose operands' values its own check refuses raises the fault of the check, before anything is done (R426). -/
theorem Ctx.enter_refuses {c : Ctx} {o : Start} {e : W64} {nw : Bool} {dsts srcs : List Use} {x : FaultInfo} (he : e ≠ 0)
    (hfields : (dsts ++ srcs).findSome? (Use.fault c.g) = none) (hpre : o.pre = none) (hlatch : latchFault c.r srcs = none)
    (hquiet : (c.g.pending.any fun p => (dsts ++ srcs).any fun u => p.meets c.r.id u) = false)
    (hcheck : o.check (foreseen c.g c.r srcs) = some x) (body : Ctx → Group → List Src → Slot) :
    c.enter o e nw dsts srcs false body = c.trap x := by
  unfold Ctx.enter
  simp only [he, hfields, hpre, hlatch, hquiet, hcheck, decide_false, Bool.false_and, Bool.false_eq_true, if_false, Option.or_none,
    Option.some_or]

/-- The element of its source that QBIND reads: a port and its number among those of its code. -/
def qbindValue (c : Ctx) (f : QForm) (xs : List Src) : Nat := ((xs.headD fun _ => 0) ((lowest (c.enabled f.pg f.pn)).getD 0)).toNat

/-- What QBIND refuses at entry. -/
def qbindCheck (c : Ctx) (f : QForm) (xs : List Src) : Option FaultInfo :=
  if 2 ^ 14 ≤ qbindValue c f xs then some (illegalOperand 6 28 (qbindValue c f xs))
  else faultIf (c.g.bindRefused f.qd.toNat (qbindValue c f xs / 256) (qbindValue c f xs % 256))
    (queueBinding f.qd.toNat (c.g.queue f.qd.toNat).binding)

theorem portInstances_eq (p : Nat) :
    portInstances p = if p = 3 ∨ p = 4 then 4 else if 1 ≤ p ∧ p ≤ 15 then 1 else 0 := by
  simp only [portInstances, Bool.or_eq_true, Bool.and_eq_true, decide_eq_true_eq]

section
variable {s : State} {c : Ctx} {f : QForm} (hc : s.runs c)
include hc

section
variable {t : State} {g h : Group} {xs : List Src}
  (b : c.Begins { always := false, access := true, check := qbindCheck c f } (c.enabled f.pg f.pn) true [] [⟨28, f.desc, .sl, 1⟩] t g h xs false)
include b

theorem qbind_unbinds (hx : qbindValue c f xs / 256 = 0) :
    exec (.qbind f) s = doneWith t.fresh.1 (h.setQueue f.qd.toNat Queue.empty) none none :=
  (runSlot_runs hc _).trans (Ctx.enter_completes b (if_pos hx))

theorem qbind_binds (hx : qbindValue c f xs / 256 ≠ 0) :
    exec (.qbind f) s = doneWith t.fresh.1 (h.setQueue f.qd.toNat { Queue.empty with
      binding := BitVec.ofNat 16 (2 ^ 15 + (if portOut (qbindValue c f xs / 256) then 2 ^ 14 else 0) + qbindValue c f xs),
      gen := t.uid + 1 }) none none :=
  (runSlot_runs hc _).trans (Ctx.enter_completes b (if_neg hx))

end

/-- A value that QBIND refuses raises the queue-binding fault at the slot. -/
theorem qbind_refuses {n : BitVec 6} (hn : f.desc = .s n) (he : c.enabled f.pg f.pn ≠ 0) (hu : Use.fault c.g ⟨28, f.desc, .sl, 1⟩ = none)
    (hq : (c.g.pending.any fun p => p.meets c.r.id ⟨28, f.desc, .sl, 1⟩) = false) (hx : (c.g.sreg n.toNat).toNat < 2 ^ 14)
    (hr : c.g.bindRefused f.qd.toNat ((c.g.sreg n.toNat).toNat / 256) ((c.g.sreg n.toNat).toNat % 256) = true) :
    exec (.qbind f) s = .next (slotEnd (c.trap (queueBinding f.qd.toNat (c.g.queue f.qd.toNat).binding))) := by
  have hlatch : latchFault c.r [⟨28, f.desc, .sl, 1⟩] = none := by rw [hn]; rfl
  have hsrc : foreseen c.g c.r [⟨28, f.desc, .sl, 1⟩] = [fun _ => c.g.sreg n.toNat] := by rw [hn]; rfl
  have hcheck : qbindCheck c f (foreseen c.g c.r [⟨28, f.desc, .sl, 1⟩]) =
      some (queueBinding f.qd.toNat (c.g.queue f.qd.toNat).binding) := by
    rw [hsrc]
    exact (if_neg (Nat.not_le.mpr hx)).trans (if_pos hr)
  have hfields : ([] ++ [(⟨28, f.desc, .sl, 1⟩ : Use)]).findSome? (Use.fault c.g) = none := by
    rw [List.nil_append, List.findSome?_cons, hu, List.findSome?_nil]
  have hquiet : (c.g.pending.any fun p => ([] ++ [(⟨28, f.desc, .sl, 1⟩ : Use)]).any fun u => p.meets c.r.id u) = false := by
    simpa only [List.nil_append, List.any_cons, List.any_nil, Bool.or_false] using hq
  exact (runSlot_runs hc _).trans (congrArg (fun x => Host.Outcome.next (slotEnd x))
    (Ctx.enter_refuses (o := { always := false, access := true, check := qbindCheck c f }) he hfields rfl hlatch hquiet hcheck _))

end

/-! ## The obligation -/

/-- Settles O31: FENCE by what its release waits for and its acquire removes, QBIND by its check and the binding that it writes. -/
theorem fencesAndBindings : Obligations.FencesAndBindings := by
  unfold Obligations.FencesAndBindings
  refine ⟨?_, ?_⟩
  · intro s c f t u g h hc e sc ord b hrel hu
    have hr : (if isRelease ord then t.releaseWait g sc else .ok t g) = .ok u g := by
      rw [hu]
      by_cases ho : ord.getLsbD 1 = true
      · obtain ⟨hl, hd, hn, ha⟩ := hrel ho
        simp only [isRelease, ho, if_true, true_and, State.releaseWait_done hl hd hn ha]
      · simp only [isRelease, ho, Bool.false_eq_true, if_false, false_and]
    exact ⟨fun ha => fence_releases hc b hr ha,
      fun ha hl => ⟨fence_acquires hc b hr ha hl, fun h4 => State.acquire_l1_owned h4, State.acquire_mem _ _ _⟩,
      fun ha hl => fence_waits hc b hr ha hl⟩
  · intro s c f hc e l q out count refused value check
    have hrefused : refused = fun x => c.g.bindRefused q (x / 256) (x % 256) := by
      funext x
      simp only [Group.bindRefused, portInstances_eq]
      rfl
    have hcheck : check = qbindCheck c f := by
      funext xs
      simp only [check, hrefused]
      rfl
    rw [hcheck]
    refine ⟨fun t g h xs b => ⟨qbind_unbinds hc b, qbind_binds hc b⟩, fun n hn he hu hq hx hr => ?_⟩
    exact qbind_refuses hc hn he hu hq hx ((congrFun hrefused _).symm.trans hr)

end Sys2Proof.Machine
end

section
/-!
SUPPORT. Shootdowns and migrations (R95, R106, R142, R145, R146, R152): what a shootdown removes, what MIGCMD starts and refuses, and where
the bytes of a page stand after its copy.
-/
namespace Sys2Proof

/-! ## Tables whose entries are all written again -/

theorem Tbl.get_of_not_mem {α : Type} (d : α) {t : Tbl α} {n : Nat} (h : n ∉ t.map Prod.fst) : Tbl.get d t n = d := by
  induction t with
  | nil => rfl
  | cons e t ih =>
      obtain ⟨hn, ht⟩ := List.ne_and_not_mem_of_not_mem_cons h
      rw [Tbl.get, if_neg fun x => hn x.symm, ih ht]

/-- What holds of the default and of every value of `f` holds of all that a table reads once `f` has changed each of its entries. -/
theorem Tbl.get_foldl_put {α : Type} [DecidableEq α] {d : α} {f : α → α} {p : α → Prop} (hd : p d) (hf : ∀ v, p (f v)) (t : Tbl α) (n : Nat) :
    p (Tbl.get d (t.foldl (fun u e => Tbl.put d u e.1 (f e.2)) t) n) := by
  have general : ∀ l u : Tbl α, (n ∉ l.map Prod.fst → p (Tbl.get d u n)) → p (Tbl.get d (l.foldl (fun u e => Tbl.put d u e.1 (f e.2)) u) n) := by
    intro l
    induction l with
    | nil => exact fun u hu => hu List.not_mem_nil
    | cons e l ih =>
        refine fun u hu => ih _ fun hn => ?_
        rw [Tbl.get_put]
        split
        · exact hf e.2
        · rename_i hne
          exact hu (List.not_mem_cons_of_ne_of_not_mem hne hn)
  exact general t t fun h => by rw [Tbl.get_of_not_mem d h]; exact hd

namespace Machine

/-! ## What a shootdown removes (R142) -/

theorem Range.meets_iff (r : Range) (a n : Nat) : r.meets a n = true ↔ a < r.hi ∧ r.lo < a + n := by
  simp only [Range.meets, Bool.and_eq_true, decide_eq_true_eq]

theorem tlbKeeps_apart {vf : Nat} {r : Range} {l : List TlbEntry} :
    ∀ e ∈ tlbKeeps vf r l, e.vf = vf → ¬ (e.va < r.hi ∧ r.lo < e.va + e.size) := by
  intro e he hv hm
  have hk := (List.mem_filter.mp he).2
  rw [(Range.meets_iff r _ _).mpr hm, decide_eq_true hv] at hk
  exact Bool.false_ne_true hk

theorem objectKeeps_apart {s : State} {vf : Nat} {r : Range} {l : List ObjEntry} : ∀ o ∈ objectKeeps s vf r l, o.vf = vf →
    ¬ (objBase o.bits < r.hi ∧ r.lo < objBase o.bits + max 1 (objPages o.bits * 4096)) ∧ r.meetsObject (s.objectInMemory vf o.obj) = false := by
  intro o ho hv
  have hk := (List.mem_filter.mp ho).2
  simp only [hv, decide_true, Bool.true_and, Bool.not_eq_true', Bool.or_eq_false_iff] at hk
  obtain ⟨hbits, hmem⟩ := hk
  exact ⟨fun hm => Bool.false_ne_true (hbits.symm.trans ((Range.meets_iff r _ _).mpr hm)), hmem⟩

section
variable {s : State} {vf : Nat} {r : Range}

theorem shootdown_coreTlb (n : Nat) : ∀ e ∈ ((s.shootdown vf r).core n).tlb, e.vf = vf → ¬ (e.va < r.hi ∧ r.lo < e.va + e.size) :=
  Tbl.get_foldl_put (d := Core.reset) (p := fun c : Core => ∀ e ∈ c.tlb, e.vf = vf → ¬ (e.va < r.hi ∧ r.lo < e.va + e.size))
    (f := fun c => { c with tlb := tlbKeeps vf r c.tlb, objects := objectKeeps s vf r c.objects }) (fun _ he => absurd he List.not_mem_nil)
    (fun _ => tlbKeeps_apart) s.cores n

theorem shootdown_dieTlb (n : Nat) : ∀ e ∈ ((s.shootdown vf r).die n).tlb, e.vf = vf → ¬ (e.va < r.hi ∧ r.lo < e.va + e.size) :=
  Tbl.get_foldl_put (d := Die.reset) (p := fun x : Die => ∀ e ∈ x.tlb, e.vf = vf → ¬ (e.va < r.hi ∧ r.lo < e.va + e.size))
    (f := fun x => { x with tlb := tlbKeeps vf r x.tlb }) (fun _ he => absurd he List.not_mem_nil) (fun _ => tlbKeeps_apart) s.dies n

theorem shootdown_objects (n : Nat) : ∀ o ∈ ((s.shootdown vf r).core n).objects, o.vf = vf →
    ¬ (objBase o.bits < r.hi ∧ r.lo < objBase o.bits + max 1 (objPages o.bits * 4096)) ∧ r.meetsObject (s.objectInMemory vf o.obj) = false :=
  Tbl.get_foldl_put (d := Core.reset) (p := fun c : Core => ∀ o ∈ c.objects, o.vf = vf →
      ¬ (objBase o.bits < r.hi ∧ r.lo < objBase o.bits + max 1 (objPages o.bits * 4096)) ∧ r.meetsObject (s.objectInMemory vf o.obj) = false)
    (f := fun c => { c with tlb := tlbKeeps vf r c.tlb, objects := objectKeeps s vf r c.objects }) (fun _ he => absurd he List.not_mem_nil)
    (fun _ => objectKeeps_apart) s.cores n

theorem shootdown_net : ∀ o ∈ (s.shootdown vf r).net, o.vf = vf → o.va < r.hi → r.lo < o.va + 64 → o.stale = true := by
  intro o ho hv hlo hhi
  obtain ⟨x, -, rfl⟩ := List.mem_map.mp ho
  by_cases hx : (x.vf = vf && r.meets x.va 64) = true
  · rw [if_pos hx]
  · rw [if_neg hx] at hv hlo hhi
    exact absurd (Bool.and_eq_true_iff.mpr ⟨decide_eq_true hv, (Range.meets_iff r _ _).mpr ⟨hlo, hhi⟩⟩) hx

end

/-- The state in which a shootdown is noted as under way. -/
def State.xinvBusy (s : State) (vf : Nat) (x : W64) : State :=
  s.setVf vf { s.vf vf with xinv := (x &&& 0xFFFFFFFFFF000000) ||| 1, oldLoads := s.unreadLoads vf }

theorem xinvBusy_objectInMemory (s : State) (vf : Nat) (x : W64) (obj : Nat) :
    (s.xinvBusy vf x).objectInMemory vf obj = s.objectInMemory vf obj := by
  rw [State.objectInMemory, State.xinvBusy, State.vf_setVf]
  rfl

theorem execShootdown_starts {s : State} {vf : Nat} {x : W64} {r : Range} (hb : (s.vf vf).xinv.getLsbD 0 = false) (hr : xinvRange x = some r) :
    execShootdown vf x s = .next ((s.xinvBusy vf x).shootdown vf r) := by
  simp only [execShootdown, hb, hr, Bool.false_eq_true, if_false]
  rfl

theorem xinvBusy_busy (s : State) (vf : Nat) (x : W64) (r : Range) :
    ((((s.xinvBusy vf x).shootdown vf r).vf vf).xinv).getLsbD 0 = true := by
  have h : (((s.xinvBusy vf x).shootdown vf r).vf vf) = (s.xinvBusy vf x).vf vf := rfl
  rw [h, State.xinvBusy, State.vf_setVf, BitVec.getLsbD_or]
  exact Bool.or_true _

/-- The range of an XINV value is the page of its size that holds its address. -/
theorem xinvRange_page {x : W64} {p : Nat} (hp : p ≤ 5) (hx : (x.extractLsb' 24 4).toNat = p) :
    ∃ r, xinvRange x = some r ∧ r.lo % pageBytes p = 0 ∧ r.hi = r.lo + pageBytes p ∧ r.lo ≤ (x.extractLsb' 28 36).toNat * 4096 ∧
      (x.extractLsb' 28 36).toNat * 4096 < r.hi := by
  have hpos : 0 < pageBytes p := by
    interval_cases p <;> decide
  generalize hva : (x.extractLsb' 28 36).toNat * 4096 = va
  refine ⟨{ lo := va - va % pageBytes p, hi := va - va % pageBytes p + pageBytes p }, ?_, ?_, rfl, Nat.sub_le _ _, ?_⟩
  · simp only [xinvRange, hx, hva, if_neg (show ¬p = 15 by omega), if_neg (show ¬5 < p by omega)]
  · exact Nat.mod_eq_zero_of_dvd (Nat.dvd_sub_mod va)
  · have := Nat.mod_lt va hpos
    have := Nat.mod_le va (pageBytes p)
    show va < va - va % pageBytes p + pageBytes p
    omega

/-- XINV is no longer busy once every access through a removed entry is over (R142). -/
theorem execShootdownDone_ends {s : State} {vf : Nat} (hb : (s.vf vf).xinv.getLsbD 0 = true)
    (hl : ∀ x ∈ (s.vf vf).oldLoads, x ∉ s.unreadLoads vf) (hn : ∀ o ∈ s.net, o.vf = vf → o.stale = false) :
    execShootdownDone vf s = .next (s.setVf vf { s.vf vf with xinv := (s.vf vf).xinv &&& ~~~1, oldLoads := [] }) := by
  have hloads : ((s.vf vf).oldLoads.filter fun x => (s.unreadLoads vf).contains x) = [] := by
    simpa only [List.filter_eq_nil_iff, List.contains_iff_mem] using hl
  have hnet : (s.net.any fun o => o.vf = vf && o.stale) = false := by
    simpa only [List.any_eq_false, Bool.and_eq_true, decide_eq_true_eq, not_and, Bool.not_eq_true] using hn
  simp only [execShootdownDone, hb, hloads, hnet, List.isEmpty_nil, Bool.not_true, Bool.or_false, Bool.false_eq_true, if_false]

/-! ## MIGCMD (R145) -/

section
variable {s : State} {vf : Nat} {x : W128} {l n first run : Nat} {e : W64}

/-- The state with the fields of a MIGCMD value written. -/
def State.migWritten (s : State) (vf : Nat) (x : W128) : State :=
  s.setVf vf { s.vf vf with migcmd := withStatus (migFields x) (migStatus (s.vf vf).migcmd) }

variable (hm : (s.vf vf).migrate = none) (hgo : x.getLsbD 0 = true) (hroot : (s.vf vf).xroot.getLsbD 0 = true) (hn : n = pageBytes (pteSize e))
  (hw : walk (s.migWritten vf x) ((x.extractLsb' 92 36).toNat * 4096) 4 (s.tableOf vf) = .leaf l first run e)
include hm hgo hroot hn hw

/-- What a MIGCMD value asks for, for the page that its address lies in. -/
theorem execMigratePage_leaf :
    let t := s.migWritten vf x
    let m := migrationOf x ((x.extractLsb' 92 36).toNat * 4096 - (x.extractLsb' 92 36).toNat * 4096 % n) n (pteBase e) (e.extractLsb' 7 2)
    execMigratePage vf x s = .next (if pteState e ≠ 1 || !t.migrationOk vf m then t.setVf vf { t.vf vf with migcmd := withStatus (migFields x) 3 }
      else (t.setVf vf { t.vf vf with migcmd := withStatus (migFields x) 1, migrate := some m }).startMigration vf m) := by
  subst hn
  have htable : (s.migWritten vf x).tableOf vf = s.tableOf vf := by
    rw [State.tableOf, State.migWritten, State.vf_setVf, State.tableOf]
  have hbusy : (s.vf vf).migrate.isSome = false := by rw [hm]; rfl
  rw [← htable] at hw
  simp only [State.migWritten] at hw ⊢
  simp only [execMigratePage, hbusy, hgo, hroot, Bool.not_true, Bool.or_false, Bool.false_eq_true, if_false, if_true, hw]
  rfl

theorem execMigratePage_starts :
    let t := s.migWritten vf x
    let m := migrationOf x ((x.extractLsb' 92 36).toNat * 4096 - (x.extractLsb' 92 36).toNat * 4096 % n) n (pteBase e) (e.extractLsb' 7 2)
    pteState e = 1 → t.migrationOk vf m = true → execMigratePage vf x s =
      .next ((t.setVf vf { t.vf vf with migcmd := withStatus (migFields x) 1, migrate := some m }).startMigration vf m) := by
  intro t m hp hok
  refine (execMigratePage_leaf hm hgo hroot hn hw).trans (congrArg _ (if_neg ?_))
  simp only [hp, ne_eq, not_true, decide_false, Bool.false_or, Bool.not_eq_true, Bool.not_eq_false']
  exact hok

theorem execMigratePage_refuses :
    let t := s.migWritten vf x
    let m := migrationOf x ((x.extractLsb' 92 36).toNat * 4096 - (x.extractLsb' 92 36).toNat * 4096 % n) n (pteBase e) (e.extractLsb' 7 2)
    pteState e ≠ 1 ∨ t.migrationOk vf m = false →
      execMigratePage vf x s = .next (t.setVf vf { t.vf vf with migcmd := withStatus (migFields x) 3 }) := by
  intro t m h
  refine (execMigratePage_leaf hm hgo hroot hn hw).trans (congrArg _ (if_pos ?_))
  simpa only [Bool.or_eq_true, decide_eq_true_eq, Bool.not_eq_true'] using h

end

/-! ## The end of a migration (R145, R146) -/

/-- What waking a watch and moving one leave alone: memory and the functions' registers. -/
def State.memVfs (s : State) : Tbl Byte × Tbl Vf := (s.mem, s.vfs)

theorem wake_memVfs (s : State) (u : Nat) (b : Bool) : (s.wake u b).memVfs = s.memVfs := by
  obtain ⟨gs, as, h⟩ := wake_frame s u b
  rw [h]
  rfl

theorem wakeFrom_memVfs (s : State) (n : Nat) (w : Watch) : (s.wakeFrom n w).memVfs = s.memVfs := by
  unfold State.wakeFrom
  split
  · rfl
  · dsimp only
    split
    · exact wake_memVfs _ _ _
    · obtain ⟨ls, fs, h⟩ := sendFlit_frame _ _ _
      rw [h]
      rfl

theorem addWatch_memVfs (s : State) (w : Watch) : (s.addWatch w).1.memVfs = s.memVfs := by
  unfold State.addWatch
  dsimp only
  split <;> rfl

theorem moveWatch_memVfs (a b : Nat) (s : State) (w : Watch) : (s.moveWatch a b w).memVfs = s.memVfs := by
  unfold State.moveWatch
  dsimp only
  split
  · exact wakeFrom_memVfs _ _ _
  · split
    · exact addWatch_memVfs _ _
    · exact addWatch_memVfs _ _

/-- The state in which the page is at its new place and its entry names it, before the shootdown; `u` is the one before. -/
def Migration.placed (x : Migration) (vf a b : Nat) (u : State) : State :=
  match walk u x.va 4 (u.tableOf vf) with
  | .leaf _ first run e => (u.copyPage a b x.size (u.sealOf (pteEnc e) (pteKey e)) (u.sealOf x.enc x.key)).writeRun first (x.entry e) run
  | _ => u

/-- The end of a migration once the page is placed: the shootdown, the counts, and the registers. -/
def Migration.ended (x : Migration) (vf a : Nat) (w : State) : State :=
  let t := (homesOf a x.size).foldl (fun s y => s.mapCounts y fun l => l.filter fun e => !(e.1 = vf && e.2.1 = x.va))
    (w.shootdown vf { lo := x.va, hi := x.va + x.size })
  t.setVf vf { t.vf vf with migrate := none, migcmd := withStatus (t.vf vf).migcmd 2 }

theorem Migration.ended_mem (x : Migration) (vf a : Nat) (w : State) : (x.ended vf a w).mem = w.mem :=
  foldl_keeps State.mem (fun s y => s.mapCounts y fun l => l.filter fun e => !(e.1 = vf && e.2.1 = x.va)) (fun _ _ => rfl) _ _

/-- Crossing the links leaves the places of a page where they are. -/
theorem crossCopy_cells {s v : State} {a b n : Nat} (h : s.crossCopy a b n = some v) (x : Migration) :
    x.oldCell v = x.oldCell s ∧ x.newCell v = x.newCell s := by
  obtain ⟨l, rfl⟩ := crossWays_frame h
  exact ⟨rfl, rfl⟩

theorem execMigrationCopy_copies {s v : State} {vf : Nat} {x : Migration} (hm : (s.vf vf).migrate = some x) (hs : x.started = true)
    (hq : s.pageQuiet vf x = true) (hv : s.crossCopy (x.oldCell s) (x.newCell s) x.size = some v) :
    let u := v.liftWatches vf (x.oldCell s) x.size
    execMigrationCopy vf s = .next (u.2.foldl (fun t w => t.moveWatch (x.oldCell s) (x.newCell s) w)
      (x.ended vf (x.oldCell s) (x.placed vf (x.oldCell s) (x.newCell s) u.1))) := by
  obtain ⟨hold, hnew⟩ := crossCopy_cells hv x
  simp only [execMigrationCopy, hm, hs, hq, hv, Bool.not_true, Bool.false_eq_true, if_false, hold, hnew]
  rfl

theorem migStatus_withStatus_two (m : W128) : migStatus (withStatus m 2) = 2 := by
  unfold migStatus withStatus
  have : ((m &&& ~~~7) ||| BitVec.ofNat 128 (2 % 4 * 2)).extractLsb' 1 2 = 2 := by
    ext i hi
    interval_cases i <;> simp
  rw [this]
  rfl

/-! ## The copy of a page (R106, R145, R152) -/

theorem foldl_stays {α β : Type} {f : α → β → α} {s : α} {l : List β} (h : ∀ x ∈ l, f s x = s) : l.foldl f s = s := by
  induction l with
  | nil => rfl
  | cons x l ih => rw [List.foldl_cons, h x List.mem_cons_self, ih fun y hy => h y (List.mem_cons_of_mem _ hy)]

/-- Frames that stand under the old key are read as they are (R152). -/
theorem copyPage_sealed {s : State} {a b n : Nat} {old new : Seal} (h : ∀ i, i < n / 4096 → Tbl.get none s.seals (a / 4096 + i) = old) :
    (s.copyPage a b n old new).mem = copyBytes s.mem a b n ∧ (s.copyPage a b n old new).poison = copyPoison s.poison a b n := by
  have hrekey : (span 0 (n / 4096)).foldl (fun s i => s.rekey (a + 4096 * i) old) s = s := by
    refine foldl_stays fun i hi => if_pos ?_
    have hlt := ((mem_span 0 _ i).mp hi).2
    rw [show (a + 4096 * i) / 4096 = a / 4096 + i by omega]
    exact h i (by omega)
  unfold State.copyPage
  rw [hrekey]
  exact ⟨rfl, rfl⟩

end Machine

/-! ## Copied bytes -/

theorem Tbl.not_mem_of_above {α : Type} {n : Nat} {t : Tbl α} (h : Tbl.above n t = true) : n ∉ t.map Prod.fst := by
  intro hn
  obtain ⟨e, he, rfl⟩ := List.mem_map.mp hn
  exact Nat.lt_irrefl _ (of_decide_eq_true (List.all_eq_true.mp h e he))

theorem Tbl.get_filter {α : Type} (d : α) (p : Nat → Bool) (t : Tbl α) (n : Nat) :
    Tbl.get d (t.filter fun e => p e.1) n = if p n then Tbl.get d t n else d := by
  induction t with
  | nil => exact (ite_self _).symm
  | cons e t ih =>
      obtain ⟨k, w⟩ := e
      rw [List.filter_cons]
      by_cases hk : k = n
      · subst hk
        by_cases hp : p k = true
        · simp only [hp, if_true, Tbl.get]
        · rw [if_neg hp, ih, if_neg hp, if_neg hp]
      · by_cases hp : p k = true
        · rw [if_pos hp, Tbl.get, if_neg hk, ih, Tbl.get, if_neg hk]
        · rw [if_neg hp, ih, Tbl.get, if_neg hk]

/-- A table read where the entries of another, from key `a` up, have been put from `b` up. -/
theorem Tbl.get_foldl_shift {α : Type} [DecidableEq α] {d : α} {a : Nat} (b i : Nat) {l : Tbl α} (hl : Tbl.wf d l = true)
    (ha : ∀ e ∈ l, a ≤ e.1) {m : Tbl α} (hm : Tbl.get d m (b + i) = d) :
    Tbl.get d (l.foldl (fun m e => Tbl.put d m (e.1 - a + b) e.2) m) (b + i) = Tbl.get d l (a + i) := by
  have general : ∀ (l m : Tbl α), Tbl.wf d l = true → (∀ e ∈ l, a ≤ e.1) →
      Tbl.get d (l.foldl (fun m e => Tbl.put d m (e.1 - a + b) e.2) m) (b + i) =
        if a + i ∈ l.map Prod.fst then Tbl.get d l (a + i) else Tbl.get d m (b + i) := by
    intro l
    induction l with
    | nil => exact fun m _ _ => (if_neg List.not_mem_nil).symm
    | cons e l ih =>
        intro m hl ha
        obtain ⟨k, w⟩ := e
        simp only [Tbl.wf, Bool.and_eq_true] at hl
        obtain ⟨⟨-, habove⟩, hl⟩ := hl
        have hk : a ≤ k := ha _ List.mem_cons_self
        rw [List.foldl_cons, ih _ hl fun e he => ha e (List.mem_cons_of_mem _ he), Tbl.get_put]
        simp only [Tbl.get, List.map_cons, List.mem_cons]
        by_cases hki : k = a + i
        · have hnot := Tbl.not_mem_of_above habove
          rw [hki] at hnot
          rw [if_neg hnot, if_pos (show b + i = k - a + b by omega), if_pos hki, if_pos (Or.inl hki.symm)]
        · simp only [if_neg (show ¬b + i = k - a + b by omega), if_neg hki, Ne.symm hki, false_or]
  rw [general l m hl ha]
  split
  · rfl
  · rename_i hn
    rw [hm, Tbl.get_of_not_mem d hn]

/-- A key that no entry is put at reads as before. -/
theorem Tbl.get_foldl_put_apart {α β : Type} [DecidableEq α] {d : α} {k : β → Nat} {v : β → α} {n : Nat} {l : List β}
    (h : ∀ e ∈ l, n ≠ k e) (m : Tbl α) : Tbl.get d (l.foldl (fun m e => Tbl.put d m (k e) (v e)) m) n = Tbl.get d m n := by
  induction l generalizing m with
  | nil => rfl
  | cons e l ih =>
      rw [List.foldl_cons, ih fun x hx => h x (List.mem_cons_of_mem _ hx)]
      exact Tbl.get_put_other _ _ _ _ _ (h e List.mem_cons_self)

namespace Machine

section
variable {m : Tbl Byte} {a b n : Nat}

/-- The entries of [a, a + n). -/
def pageEntries (m : Tbl Byte) (a n : Nat) : Tbl Byte := m.filter fun e => a ≤ e.1 && e.1 < a + n

theorem mem_pageEntries {e : Nat × Byte} (h : e ∈ pageEntries m a n) : a ≤ e.1 ∧ e.1 < a + n := by
  simpa only [Bool.and_eq_true, decide_eq_true_eq] using (List.mem_filter.mp h).2

/-- Every byte of the page stands at the same place of the new page. -/
theorem read_copyBytes_inside (hm : Memory.wf m = true) {i : Nat} (hi : i < n) :
    Memory.read (copyBytes m a b n) (b + i) = Memory.read m (a + i) := by
  have hdrop : Tbl.get 0 (m.dropRange b (b + n)) (b + i) = 0 := by
    rw [Tbl.dropRange, Tbl.get_filter 0 (fun k => k < b || b + n ≤ k), if_neg]
    simp only [Bool.or_eq_true, decide_eq_true_eq]
    omega
  have hpage : Tbl.get 0 (pageEntries m a n) (a + i) = Tbl.get 0 m (a + i) := by
    rw [pageEntries, Tbl.get_filter 0 (fun k => a ≤ k && k < a + n), if_pos]
    simp only [Bool.and_eq_true, decide_eq_true_eq]
    omega
  exact (Tbl.get_foldl_shift b i (Tbl.filter_wf 0 _ m hm) (fun e he => (mem_pageEntries he).1) hdrop).trans hpage

/-- A byte outside the new page stays as it was. -/
theorem read_copyBytes_outside {c : Nat} (hc : c < b ∨ b + n ≤ c) : Memory.read (copyBytes m a b n) c = Memory.read m c := by
  have hapart : ∀ e ∈ pageEntries m a n, c ≠ e.1 - a + b := by
    intro e he
    have := mem_pageEntries he
    omega
  refine (Tbl.get_foldl_put_apart hapart _).trans ?_
  rw [Tbl.dropRange, Tbl.get_filter 0 (fun k => k < b || b + n ≤ k), if_pos]
  · rfl
  · simpa only [Bool.or_eq_true, decide_eq_true_eq] using hc

end

/-! ## The obligation -/

/-- Settles O51: a shootdown by the filters that it runs over the TLBs and object caches, MIGCMD by its checks, the copy by where each byte of
the page reads afterwards. -/
theorem shootdownsAndMigrations : Obligations.ShootdownsAndMigrations := by
  unfold Obligations.ShootdownsAndMigrations
  refine ⟨fun s vf => ⟨?_, fun p hp x hx => xinvRange_page hp hx, ?_, ?_, ?_⟩, fun s a b n old new h _ => copyPage_sealed h,
    fun m a b n hm _ => ⟨fun i hi => read_copyBytes_inside hm hi, fun c hc => read_copyBytes_outside hc, copyBytes_wf m a b n hm⟩⟩
  · intro x r hb hr
    refine ⟨_, execShootdown_starts hb hr, rfl, rfl, xinvBusy_busy s vf x r, shootdown_coreTlb, shootdown_dieTlb, fun n o ho hv => ?_, shootdown_net⟩
    have hgone := shootdown_objects n o ho hv
    rwa [xinvBusy_objectInMemory] at hgone
  · intro hb hl hn
    refine ⟨_, execShootdownDone_ends hb hl hn, ?_, rfl⟩
    rw [State.vf_setVf]
    simp
  · intro x l n first run e hm hgo hroot t hn hw
    exact ⟨execMigratePage_starts hm hgo hroot hn hw, execMigratePage_refuses hm hgo hroot hn hw⟩
  · intro x hm hs hq v hv u
    have hkeeps := foldl_keeps State.memVfs (fun t w => t.moveWatch (x.oldCell s) (x.newCell s) w) (moveWatch_memVfs _ _)
      (v.liftWatches vf (x.oldCell s) x.size).2 (x.ended vf (x.oldCell s) (x.placed vf (x.oldCell s) (x.newCell s) u))
    obtain ⟨hmem, hvfs⟩ := Prod.mk.inj hkeeps
    refine ⟨_, execMigrationCopy_copies hm hs hq hv, ?_, ?_, fun l first run e hw => ?_⟩
    · rw [State.vf, hvfs]
      exact congrArg Vf.migrate (State.vf_setVf _ _ _)
    · rw [State.vf, hvfs]
      exact (congrArg (fun y : Vf => migStatus y.migcmd) (State.vf_setVf _ _ _)).trans (migStatus_withStatus_two _)
    · refine hmem.trans ((Migration.ended_mem _ _ _ _).trans ?_)
      rw [Migration.placed, hw]

end Machine
end Sys2Proof
end

section
/-!
SUPPORT. Fault records on their way: the post of a record, its delivery to the ring of its function, and what FQACT and FQRESUME do about it
(R125, R126, R128, R144, R422).
-/
namespace Sys2Proof.Machine
open Sys2Proof

/-! ## Whether a way carries a record (R128) -/

@[simp] theorem length_bytesOfNat (n x : Nat) : (bytesOfNat n x).length = n := by
  induction n generalizing x with
  | zero => rfl
  | succ n ih => rw [bytesOfNat, List.length_cons, ih]

/-- A way is crossed within the step where each of its directions carries flits. -/
theorem crossNow_isSome (s : State) (c : Nat) (w : List Nat) : (s.crossNow c w).isSome = w.all s.dirOpen := by
  induction w generalizing s with
  | nil => rfl
  | cons n w ih =>
      rw [State.crossNow, List.all_cons]
      cases h : s.dirOpen n with
      | false => rfl
      | true =>
          rw [Bool.not_true, if_neg Bool.false_ne_true]
          exact ih _

/-- Room in a ring rests on its function's registers, the links, the ports and the dies. -/
theorem ringReady_congr {s t : State} {vf : Nat} (hcfg : (t.vf vf).fqcfg = (s.vf vf).fqcfg) (hprod : (t.vf vf).fqprod = (s.vf vf).fqprod)
    (hcons : (t.vf vf).fqcons = (s.vf vf).fqcons) (hl : t.links = s.links) (hp : t.ports = s.ports) (hd : t.dies = s.dies) :
    t.ringReady vf = s.ringReady vf := by
  have hopen : t.dirOpen = s.dirOpen := funext (dirOpen_congr hl hp fun n => by rw [State.die, hd, State.die])
  simp only [State.ringReady, Vf.ringReady, State.ringWay, crossNow_isSome, hcfg, hprod, hcons, hopen]

/-- A record that crosses changes the link directions only. -/
theorem recordCrosses_frame {s u : State} {r : FaultRecord} (h : s.recordCrosses r = some u) : ∃ l, u = { s with linkDirs := l } := by
  unfold State.recordCrosses at h
  split at h
  · cases h
    exact ⟨s.linkDirs, rfl⟩
  · split at h
    · cases h
      exact ⟨s.linkDirs, rfl⟩
    · exact crossNow_frame h

/-! ## A record in its ring (R125, R126) -/

theorem applyWrite_vf (s : State) (c : Nat) (h : BitVec 2) (bs : List Byte) (n : Nat) : (s.applyWrite c h bs).vf n = s.vf n := by
  have hwake (s : State) (c n : Nat) : (s.wakeWatches c n).vfs = s.vfs := by
    refine foldl_keeps State.vfs _ (fun s b => ?_) _ _
    unfold State.wakeSlice
    dsimp only
    split
    · rfl
    · exact foldl_keeps State.vfs _ (fun s w => congrArg Prod.snd (wakeFrom_memVfs s _ w)) _ _
  have htouch := foldl_keeps State.vfs (fun s b => s.touchL2 b h true) (fun s b => by
    obtain ⟨ds, hd⟩ := touchL2_dies s b h true
    rw [hd]) (blocksOf c bs.length) s
  rw [State.vf, State.applyWrite, hwake, htouch, State.vf]

/-- A record that goes to the ring: its bytes stand at the producer index, which goes up by one. -/
theorem toRing_effect (s : State) (vf : Nat) (r : FaultRecord) :
    (s.toRing vf r).mem = Memory.writeN s.mem (ringCell (s.vf vf).fqcfg (s.vf vf).fqprod.toNat 64) (bytesOfNat 64 r.word) ∧
      ((s.toRing vf r).vf vf).fqprod = (s.vf vf).fqprod + 1 ∧ ((s.toRing vf r).vf vf).fqseq = (s.vf vf).fqseq := by
  obtain ⟨l, hl⟩ : ∃ l, (s.crossNow clsRequest (s.ringWay vf)).getD s = { s with linkDirs := l } := by
    cases h : s.crossNow clsRequest (s.ringWay vf) with
    | none => exact ⟨s.linkDirs, rfl⟩
    | some u => exact crossNow_frame h
  rw [State.toRing, hl]
  refine ⟨applyWrite_mem _ _ _ _, ?_, ?_⟩ <;> rw [applyWrite_vf, State.vf_setVf] <;> rfl

/-! ## The post of a record (R125, R126, R128) -/

/-- The record as it is posted: with the next SEQ of its function and the time of its fault. -/
def State.numbered (s : State) (r : FaultRecord) : FaultRecord := { r with seq := (s.vf r.vf).fqseq, time := r.info.time.getD s.time }

/-- The state once a posted record has its number, with the control die as `c`. -/
def State.counted (s : State) (r : FaultRecord) (c : Control) : State :=
  { s.setVf r.vf { s.vf r.vf with fqseq := (s.vf r.vf).fqseq + 1 } with control := c }

/-- The state from which a posted record is sent, if it is: its agent does not stall, the control die has a place, and the way carries it. -/
def State.recordSent (s : State) (r : FaultRecord) : Option State :=
  if (s.vf r.vf).stalled.isEmpty && (s.vf r.vf).heldRec.length < 64 then s.recordCrosses r else none

/-- What a post reads of the state from which the record is sent is as it was. -/
theorem recordSent_keeps (s : State) (r : FaultRecord) :
    ((s.recordSent r).getD s).mem = s.mem ∧ ((s.recordSent r).getD s).vf r.vf = s.vf r.vf ∧
      ((s.recordSent r).getD s).numbered r = s.numbered r := by
  cases h : s.recordSent r with
  | none => exact ⟨rfl, rfl, rfl⟩
  | some u =>
      unfold State.recordSent at h
      split at h
      · obtain ⟨l, rfl⟩ := recordCrosses_frame h
        exact ⟨rfl, rfl, rfl⟩
      · cases h

theorem counted_vf (s : State) (r : FaultRecord) (c : Control) :
    (s.counted r c).vf r.vf = { s.vf r.vf with fqseq := (s.vf r.vf).fqseq + 1 } := State.vf_setVf _ _ _

theorem counted_ringReady (s : State) (r : FaultRecord) (c : Control) : (s.counted r c).ringReady r.vf = s.ringReady r.vf := by
  refine ringReady_congr ?_ ?_ ?_ rfl rfl rfl <;> rw [counted_vf]

/-- Where a numbered record goes: to the ring, to the control die, which holds it, or to its agent, which stalls with it. -/
def State.goesOn (w : State) (x : FaultRecord) (sent : Bool) : State × Nat :=
  let v := w.vf x.vf
  if sent && v.heldRec.isEmpty && w.ringReady x.vf then ((w.setVf x.vf { v with records := v.records ++ [x] }).toRing x.vf x, x.seq)
  else if sent then (w.setVf x.vf { v with records := v.records ++ [x], heldRec := v.heldRec ++ [x.seq] }, x.seq)
  else (w.setVf x.vf { v with stalled := v.stalled ++ [x] }, x.seq)

theorem goesOn_seq (w : State) (x : FaultRecord) (sent : Bool) :
    (w.goesOn x sent).2 = x.seq ∧ ((w.goesOn x sent).1.vf x.vf).fqseq = (w.vf x.vf).fqseq := by
  unfold State.goesOn
  dsimp only
  split
  · exact ⟨rfl, by rw [(toRing_effect _ _ _).2.2, State.vf_setVf]⟩
  · split <;> exact ⟨rfl, by rw [State.vf_setVf]⟩

/-- A record that is sent, with none held before it and room in the ring, goes to the ring. -/
theorem goesOn_ring {w : State} {x : FaultRecord} (hh : (w.vf x.vf).heldRec = []) (hr : w.ringReady x.vf = true) :
    ((w.goesOn x true).1.vf x.vf).fqprod = (w.vf x.vf).fqprod + 1 ∧
      (w.goesOn x true).1.mem = Memory.writeN w.mem (ringCell (w.vf x.vf).fqcfg (w.vf x.vf).fqprod.toNat 64) (bytesOfNat 64 x.word) := by
  have hif : w.goesOn x true = ((w.setVf x.vf { w.vf x.vf with records := (w.vf x.vf).records ++ [x] }).toRing x.vf x, x.seq) :=
    if_pos (by rw [hh, hr]; rfl)
  obtain ⟨hmem, hprod, -⟩ := toRing_effect (w.setVf x.vf { w.vf x.vf with records := (w.vf x.vf).records ++ [x] }) x.vf x
  rw [State.vf_setVf] at hmem hprod
  rw [hif]
  exact ⟨hprod, hmem⟩

/-- A record that is sent, but finds records before it or no room, is held. -/
theorem goesOn_held {w : State} {x : FaultRecord} (h : (w.vf x.vf).heldRec ≠ [] ∨ w.ringReady x.vf = false) :
    (w.goesOn x true).1.mem = w.mem ∧ (w.goesOn x true).1.vf x.vf =
      { w.vf x.vf with records := (w.vf x.vf).records ++ [x], heldRec := (w.vf x.vf).heldRec ++ [x.seq] } := by
  have hc : (true && (w.vf x.vf).heldRec.isEmpty && w.ringReady x.vf) = false := by
    rcases h with h | h
    · rw [List.isEmpty_eq_false_iff.mpr h]; rfl
    · rw [h, Bool.and_false]
  have hif : w.goesOn x true =
      (w.setVf x.vf { w.vf x.vf with records := (w.vf x.vf).records ++ [x], heldRec := (w.vf x.vf).heldRec ++ [x.seq] }, x.seq) :=
    (if_neg (Bool.eq_false_iff.mp hc)).trans (if_pos rfl)
  rw [hif]
  exact ⟨rfl, State.vf_setVf _ _ _⟩

/-- A record that is not sent stalls. -/
theorem goesOn_stalls (w : State) (x : FaultRecord) :
    (w.goesOn x false).1.mem = w.mem ∧ (w.goesOn x false).1.vf x.vf = { w.vf x.vf with stalled := (w.vf x.vf).stalled ++ [x] } :=
  ⟨rfl, State.vf_setVf _ _ _⟩

/-- A post gives the record its number and sends it on, from a state `w` that differs from the one before in the count of the function,
the link directions and the control die. -/
theorem post_eq (s : State) (r : FaultRecord) : ∃ w : State, s.post r = w.goesOn (s.numbered r) (s.recordSent r).isSome ∧ w.mem = s.mem ∧
    w.vf r.vf = { s.vf r.vf with fqseq := (s.vf r.vf).fqseq + 1 } ∧
    w.ringReady r.vf = ((s.recordSent r).getD s).ringReady r.vf := by
  obtain ⟨hmem, hvf, hnum⟩ := recordSent_keeps s r
  rw [← hnum, ← hmem, ← hvf]
  generalize hu : (s.recordSent r).getD s = u
  obtain ⟨c, hc⟩ := (u.setVf r.vf { u.vf r.vf with fqseq := (u.vf r.vf).fqseq + 1 }).book_frame 0x02 (BitVec.ofNat 8 r.die)
    (BitVec.ofNat 16 r.core) (BitVec.ofNat 128 (r.info.code + r.vf * 2 ^ 16))
  obtain ⟨d, hd, -⟩ := fireDatum_frame (u.counted r c) 1 r.info.code
  obtain ⟨fires, hpost⟩ : ∃ fires : Bool, s.post r =
      (if fires then ((u.counted r c).fireDatum 1 r.info.code).1 else u.counted r c).goesOn (u.numbered r) (s.recordSent r).isSome := by
    subst hu
    rw [State.counted, ← hc]
    exact ⟨_, rfl⟩
  obtain ⟨e, he⟩ : ∃ e, (if fires then ((u.counted r c).fireDatum 1 r.info.code).1 else u.counted r c) = u.counted r e := by
    cases fires with
    | true => exact ⟨d, hd⟩
    | false => exact ⟨c, rfl⟩
  exact ⟨u.counted r e, by rw [hpost, he], rfl, counted_vf u r e, counted_ringReady u r e⟩

/-- Settles O23: the record gets its number (`post_eq`), and each of the three ways on is one case of `goesOn`. -/
theorem postedRecordReachesItsRing : Obligations.PostedRecordReachesItsRing := by
  unfold Obligations.PostedRecordReachesItsRing
  intro s r v q r' t c
  obtain ⟨w, hpost, hmem, hvf, hready⟩ := post_eq s r
  have hvf : w.vf r'.vf = { v with fqseq := v.fqseq + 1 } := hvf
  have hsent (u : State) (hu : s.recordCrosses r = some u) (hs : v.stalled = []) (hl : v.heldRec.length < 64) : s.recordSent r = some u :=
    (if_pos (by rw [hs, decide_eq_true hl]; rfl)).trans hu
  obtain ⟨hseq, hnext⟩ := goesOn_seq w r' (s.recordSent r).isSome
  refine ⟨?_, ?_, fun u hu hh hs hroom => ?_, fun u hu h hs hlen => ?_, fun h => ?_⟩
  · rw [hpost]
    exact hseq
  · rw [show t = _ from congrArg Prod.fst hpost]
    exact hnext.trans (congrArg Vf.fqseq hvf)
  · rw [hsent u hu hs (by rw [hh]; decide)] at hpost hready
    obtain ⟨hprod, hbytes⟩ := goesOn_ring (w := w) (x := r') ((congrArg Vf.heldRec hvf).trans hh) (hready.trans hroom)
    rw [hvf, hmem] at hbytes
    rw [show t = _ from congrArg Prod.fst hpost]
    refine ⟨hprod.trans (congrArg (fun x : Vf => x.fqprod + 1) hvf :), ?_, fun a ha => ?_⟩
    · have hread := Memory.readN_writeN s.mem c (bytesOfNat 64 r'.word)
      rw [length_bytesOfNat] at hread
      exact (congrArg (Memory.readN · c 64) hbytes).trans hread
    · exact (congrArg (Memory.read · a) hbytes).trans (Memory.read_writeN_outside _ _ _ _ (by rwa [length_bytesOfNat]))
  · rw [hsent u hu hs hlen] at hpost hready
    obtain ⟨hm, hv⟩ := goesOn_held (w := w) (x := r') (h.imp (fun h => (congrArg Vf.heldRec hvf).trans_ne h) hready.trans)
    rw [hvf] at hv
    rw [show t = _ from congrArg Prod.fst hpost]
    exact ⟨hm.trans hmem, (congrArg Vf.fqprod hv :), (congrArg Vf.heldRec hv :)⟩
  · have hnone : s.recordSent r = none := by
      unfold State.recordSent
      rcases h with h | h | h
      · exact if_neg (by rw [List.isEmpty_eq_false_iff.mpr h, Bool.false_and]; exact Bool.false_ne_true)
      · exact if_neg (by rw [decide_eq_false (Nat.not_lt.mpr h), Bool.and_false]; exact Bool.false_ne_true)
      · rw [h, ite_self]
    rw [hnone] at hpost
    obtain ⟨hm, hv⟩ := goesOn_stalls w r'
    rw [hvf] at hv
    rw [show t = _ from congrArg Prod.fst hpost]
    exact ⟨hm.trans hmem, (congrArg Vf.fqprod hv :), (congrArg Vf.stalled hv :)⟩

/-! ## The events about fault records (R126, R128, R144, R422) -/

section
variable (s : State) (vf : Nat) (seq : W32) (value : W64)

@[simp] theorem exec_faultRecordDeliver : exec (.faultRecordDeliver vf) s = execFaultRecordDeliver vf s := rfl
@[simp] theorem exec_fqresume : exec (.fqresume vf value) s = execFqresume vf value s := rfl
@[simp] theorem exec_fqactEnd : exec (.fqactEnd vf seq) s = execFqactEnd vf seq s := rfl
@[simp] theorem exec_fqactResume : exec (.fqactResume vf seq) s = execFqactResume vf seq s := rfl

end

section
variable {s : State} {vf : Nat}

theorem faultRecordDeliver_held {q : Nat} {qs : List Nat} {r : FaultRecord} (hh : (s.vf vf).heldRec = q :: qs) (hroom : s.ringReady vf = true)
    (hr : s.record? vf q = some r) :
    exec (.faultRecordDeliver vf) s = .next ((s.setVf vf { s.vf vf with heldRec := qs }).toRing vf r) := by
  have hfind : (s.setVf vf { s.vf vf with heldRec := qs }).record? vf q = some r := by
    rw [State.record?, State.vf_setVf]
    exact hr
  simp only [exec_faultRecordDeliver, execFaultRecordDeliver, hh, hroom, hfind, Bool.not_true, Bool.false_eq_true, if_false]

theorem faultRecordDeliver_stalled {r : FaultRecord} {rs : List FaultRecord} {u : State} (hh : (s.vf vf).heldRec = [])
    (hs : (s.vf vf).stalled = r :: rs) (hu : s.recordCrosses r = some u) :
    exec (.faultRecordDeliver vf) s = .next (u.setVf vf { s.vf vf with
      stalled := rs, records := (s.vf vf).records ++ [r], heldRec := [r.seq] }) := by
  simp only [exec_faultRecordDeliver, execFaultRecordDeliver, hh, hs, hu]

variable {seq : W32} {r : FaultRecord} (hr : s.record? vf seq.toNat = some r) (hp : r.state = 0)
include hr hp

theorem fqactEnd_group {u p : Nat} (ho : r.owner = .group u) (hb : (s.setRecord vf r.seq 1).parcelBehind (.group u) = some p) :
    exec (.fqactEnd vf seq) s = .next ((s.setRecord vf r.seq 1).endParcel p none) := by
  simp only [exec_fqactEnd, execFqactEnd, hr, hp, ho, hb, ne_eq, not_true, if_false]

variable {u : Nat} {g : Group} (ho : r.owner = .group u) (hg : s.group? u = some g) (hs : g.status = .stopped (some r.seq))
include ho hg hs

theorem fqactResume_trap (hc : r.info.code = 0x000E) :
    exec (.fqactResume vf seq) s = .next ((s.setRecord vf r.seq 1).resumeGroup g (g.dbg.slot + 1) false) := by
  simp [execFqactResume, hr, hp, ho, hg, hs, hc]

theorem fqactResume_breakpoint (hc : r.info.code = 0x000F) (h0 : r.info.cause = 0) (hb : g.dbg.bkpt = false) :
    exec (.fqactResume vf seq) s = .next ((s.setRecord vf r.seq 1).resumeGroup g g.dbg.slot true) := by
  simp [execFqactResume, State.resumeBreak, hr, hp, ho, hg, hs, hc, h0, hb]

end

/-- Settles O24: delivery from the control die and to it, the two actions of FQACT, and FQRESUME, each by its own rule above. -/
theorem faultQueueEventsComplete : Obligations.FaultQueueEventsComplete := by
  unfold Obligations.FaultQueueEventsComplete
  refine ⟨fun s vf q qs r => faultRecordDeliver_held, fun s vf r rs hh hs u => faultRecordDeliver_stalled hh hs,
    fun s vf seq r u p hr hp => fqactEnd_group hr hp, fun s vf seq r u g hr hp ho hg hs =>
      ⟨fqactResume_trap hr hp ho hg hs, fqactResume_breakpoint hr hp ho hg hs⟩, fun s vf value => rfl⟩

end Sys2Proof.Machine
end

section
/-!
SUPPORT. The traverse opcodes: a declaration, its submission, the wait for its grants and its end (R122, R303 to R306).
-/
namespace Sys2Proof.Machine
open Sys2Proof

/-! ## TVDECL (R122, R303) -/

section
variable {s : State} {c : Ctx} {f : MForm} {t u u2 : State} {g h : Group} {xs : List Src} {va : Nat} {d : Decl} {r : List (Nat × Nat × Trans)}

/-- The declaration that TVDECL adds to. -/
def Ctx.heldDecl (c : Ctx) : Decl := c.g.decl.getD Decl.open

/-- The lane whose values TVDECL takes. -/
def tvLane (c : Ctx) (f : MForm) : Nat := (lowest (c.enabled f.pg f.pn)).getD 0

/-- The length of the range that TVDECL adds. -/
def tvLength (c : Ctx) (f : MForm) (xs : List Src) : Nat := ((xs.headD fun _ => 0) (tvLane c f)).toNat

/-- How TVDECL begins: as a fence with a release, with the checks of the open declaration and of the range (R303, R304). -/
def tvdeclStart (c : Ctx) (f : MForm) : Start :=
  { always := false, fence := isRelease f.ord, check := fun xs =>
      if c.heldDecl.submitted.isSome then some noDeclaration
      else if tvLength c f xs = 0 || 2 ^ 32 < tvLength c f xs then some (illegalOperand 6 36 (tvLength c f xs))
      else if 16 ≤ c.heldDecl.ranges || 4096 < (tvLength c f xs + 255) / 256 then some (illegalOperand 6 36 (tvLength c f xs))
      else none }

variable (hc : s.runs c)
  (b : c.Begins (tvdeclStart c f) (c.enabled f.pg f.pn) true [] (dataUse f .sl :: idxUse f .sl) t g h xs false)
  (hcap : capLanes g.core (c.put t g).vf f.cap.toNat (g.cap f.cap.toNat) rTraverse (tvLength c f xs) 1 t
    [(tvLane c f, elemAddr (g.cap f.cap.toNat) (idxSrc f xs.tail (tvLane c f)) f.ofs.toInt 1)] = (u, .ok [(tvLane c f, va)]))
  (hadd : c.heldDecl.add (tvBlocks va (tvLength c f xs)) = some d) (hsub : u.subdivisible h = false)
  (htr : transLanes g.core (c.put t g).vf .read u ((tvBlocks va (tvLength c f xs)).map fun b => (tvLane c f, b * 256)) = (u2, r))
  (hok : laneStop { g with decl := none } (c.put t g).launch 256 r = none)
include hc b hcap hadd hsub htr hok

/-- Without a release the range joins the open declaration. -/
theorem tvdecl_adds (ho : f.ord = 0) : exec (.tvdecl f) s = doneWith u2 { h with decl := some d } none none := by
  refine (runSlot_runs hc _).trans (Ctx.enter_completes b ?_)
  have hrel : isRelease f.ord = false := by rw [ho]; rfl
  simp only [tvLength, tvLane, Ctx.heldDecl] at hcap hadd htr
  simp only [show (c.put t g).g = g from rfl, show (c.put t g).s = t from rfl, hcap, List.headD_cons, hadd, hsub, htr, hok, hrel,
    Bool.false_and, Bool.not_false, Bool.false_eq_true, if_false, if_true]

/-- With a release it is submitted: it joins the batch of its die. -/
theorem tvdecl_submits (ho : isRelease f.ord = true) (hsub2 : u2.subdivisible h = false) (hrel : u2.releaseWait h 6 = .ok u2 h) :
    exec (.tvdecl f) s = doneWith ((c.put t g).submit u2 h d).1 ((c.put t g).submit u2 h d).2 none none := by
  refine (runSlot_runs hc _).trans (Ctx.enter_completes b ?_)
  simp only [tvLength, tvLane, Ctx.heldDecl] at hcap hadd htr
  simp only [show (c.put t g).g = g from rfl, show (c.put t g).s = t from rfl, hcap, List.headD_cons, hadd, hsub, hsub2, htr, hok, ho, hrel,
    Act.slot, Bool.and_false, Bool.false_and, Bool.not_true, Bool.false_eq_true, if_false]

end

/-- What a submission changes: the declaration has a number, stands among the declarations and in the batch of its die (R122). -/
theorem Ctx.submit_batches (c : Ctx) (s : State) (g : Group) (d : Decl) :
    (c.submit s g d).2 = { g with decl := some { d with submitted := some s.uid } } ∧
      (∃ x : TvDecl, (c.submit s g d).1.decls = s.decls ++ [x] ∧ x.uid = s.uid ∧ x.blocks = d.blocks ∧ x.group = g.uid) ∧
      ((c.submit s g d).1.die c.die).batch = (s.die c.die).batch ++ [s.uid] ∧ (c.submit s g d).1.mem = s.mem := by
  refine ⟨rfl, ⟨_, rfl, rfl, rfl, rfl⟩, ?_, rfl⟩
  exact congrArg Die.batch (State.die_setDie s.fresh.1 c.die { s.die c.die with batch := (s.die c.die).batch ++ [s.uid] })

/-! ## TVWAIT and TVEND (R305, R306) -/

section
variable {s : State} {c : Ctx} {f : VForm} {d : Decl} {n : Nat} (hc : s.runs c) (he : c.enabled f.pg f.pn ≠ 0) (hd : c.g.decl = some d)
  (hs : d.submitted = some n) (hf : d.fault = none)
include hc he hd hs hf

/-- A granted transaction: the wait is over, and it acquires at package scope. -/
theorem tvwait_granted (hg : s.granted n = true) :
    exec (.tvwait f) s = doneWith (s.acquire c.g 6) { c.g with decl := some { d with waited := true } } none none := by
  refine (runSlot_runs hc _).trans ?_
  obtain rfl := State.running_state hc.1
  simp only [he, hd, hs, hf, hg, if_false, if_true]
  rfl

theorem tvwait_waits (hg : s.granted n = false) : exec (.tvwait f) s = .next (slotEnd (c.block .grants)) := by
  refine (runSlot_runs hc _).trans ?_
  obtain rfl := State.running_state hc.1
  simp only [he, hd, hs, hf, hg, if_false, Bool.false_eq_true]

/-- Outside a subdivisible parcel the end of a transaction ends its entries once its release is over. -/
theorem tvend_ends {t : State} {g : Group} (hr : s.release c.g c.k 6 = .ok t g) (ht : t.subdivisible g = false) :
    exec (.tvend f) s = doneWith (t.endEntries n) { g with decl := none } none none := by
  refine (runSlot_runs hc _).trans ?_
  obtain rfl := State.running_state hc.1
  simp only [he, hd, hs, hf, hr, State.closeTransaction, ht, Act.slot, if_false, Bool.false_eq_true]
  rfl

end

theorem uid_ne_of_endEntries (s : State) (n : Nat) : ∀ x ∈ (s.endEntries n).decls, x.uid ≠ n :=
  fun _ hx => of_decide_eq_true (List.mem_filter.mp hx).2

/-- Settles O33: TVDECL adds its range, and with a release submits the declaration; TVWAIT and TVEND look at the submitted one. -/
theorem traverseOpcodesComplete : Obligations.TraverseOpcodesComplete := by
  unfold Obligations.TraverseOpcodesComplete
  intro s c hc
  refine ⟨?_, fun f d n he hd hs hf => ⟨tvwait_granted hc he hd hs hf, tvwait_waits hc he hd hs hf, fun t g hr ht =>
    ⟨_, tvend_ends hc he hd hs hf hr ht, rfl, uid_ne_of_endEntries t n⟩⟩⟩
  intro f t u u2 g h xs va d r e l held len reg b k hcap hadd hsub htr hok
  refine ⟨tvdecl_adds hc b hcap hadd hsub htr hok, fun ho hsub2 hl hdr hn ha hlate => ?_⟩
  have hrel : u2.releaseWait h 6 = .ok u2 h := State.releaseWait_done hl hdr hn fun _ => ⟨ha, hlate⟩
  obtain ⟨hg, ⟨x, hx, huid, hblocks, hgroup⟩, hbatch, hmem⟩ := k.submit_batches u2 h d
  exact ⟨_, x, hg ▸ tvdecl_submits hc b hcap hadd hsub htr hok ho hsub2 hrel, hx, huid, hblocks, hgroup, hbatch, hmem⟩

end Sys2Proof.Machine
end

section
/-!
SUPPORT. The work-list opcodes outside a subdivisible parcel: appends, reservations, pops and the size (R114, R115, R294, R295).
-/
namespace Sys2Proof.Machine
open Sys2Proof

@[simp] theorem exec_wlpopb (f : MForm) (s : State) : exec (.wlpopb f) s = execWlpopb f s := rfl

/-! ## Appends (R114, R294) -/

/-- Appending records moves TAIL only. -/
theorem appendAll_resv (core : Nat) (d : ListDesc) (rs : List (Nat × W128)) (s : State) : (appendAll core d rs s).2.resv = d.resv := by
  induction rs generalizing d s with
  | nil => rfl
  | cons r rs ih => exact ih _ _

/-- The state after a slot outside a subdivisible parcel has appended the records `rs` at `cells`. -/
def Ctx.appended (c : Ctx) (h : Group) (r : ListRef) (k : Append) (rs : List W128) (w : State) (cells : List Nat) : State :=
  let a := appendAll c.g.core r.d (cells.zip rs) w
  let x := c.putList a.1 r { a.2 with resv := if k = .commit then r.d.resv - rs.length else r.d.resv }
  if k = .commit then x.useReserved h r.va rs.length else x

theorem Ctx.appendSlot_appends {c : Ctx} {w w' : State} {h : Group} {f : MForm} {r : ListRef} {k : Append} {e won : W64} {rs : List W128}
    {cells : List Nat} (hs : w.subdivisible h = false) (hc : c.recordCells w f r.d r.d.tail rs.length .write = (w', .ok cells)) :
    c.appendSlot w h f r k e won rs = .done (c.appended h r k rs w' cells) (h.setStatus f e won) none none := by
  have hresv : (if k = .commit then { (appendAll c.g.core r.d (cells.zip rs) w').2 with
        resv := (appendAll c.g.core r.d (cells.zip rs) w').2.resv - rs.length } else (appendAll c.g.core r.d (cells.zip rs) w').2) =
      { (appendAll c.g.core r.d (cells.zip rs) w').2 with resv := if k = .commit then r.d.resv - rs.length else r.d.resv } := by
    rw [← appendAll_resv c.g.core r.d (cells.zip rs) w']
    split <;> rfl
  simp only [Ctx.appendSlot, hs, hc, hresv, Bool.false_eq_true, if_false]
  rfl

/-- What an append opcode `i` does that appends the records `rs` from the state `w`, once the cells of the records are found. -/
def Ctx.Appends (c : Ctx) (s : State) (i : Instr) (f : MForm) (h : Group) (r : ListRef) (e : W64) (w : State) (k : Append) (won : W64)
    (rs : List W128) : Prop :=
  w.subdivisible h = false → ∀ w' cells, c.recordCells w f r.d r.d.tail rs.length .write = (w', .ok cells) →
    exec i s = doneWith (c.appended h r k rs w' cells) (h.setStatus f e won) none none

section
variable {s : State} {c : Ctx} {f : MForm} {t u : State} {g h : Group} {xs : List Src} {r : ListRef}

/-- The context of an append once its list is read, which answers `u`. -/
def Ctx.atList (c : Ctx) (u : State) : Ctx := { c with s := u.nextFree.1 }

/-- The record of a lane of an append. -/
def Ctx.recordOf (c : Ctx) (f : MForm) (r : ListRef) (xs : List Src) (u : State) : Nat → W128 :=
  c.records f r.d (xs.headD fun _ => 0) (Config.freeWord u.free)

/-- The records of all executing lanes, in ascending lane order. -/
def laneRecords (c : Ctx) (f : MForm) (t : State) (g : Group) (r : ListRef) (xs : List Src) (u : State) : List W128 :=
  (lanes (c.enabled f.pg f.pn)).map ((c.put t g).recordOf f r xs u)

variable (hc : s.runs c)
  (b : c.Begins { always := false } (c.enabled f.pg f.pn) true [] (dataUse f .vslq :: idxUse f .vsl) t g h xs false)
  (hl : (c.put t g).listRef f (c.enabled f.pg f.pn) (idxSrc f xs.tail) = (u, .ok r)) (hw : (c.put t g).wideStop f r.d = none)
include hc b hl hw

/-- An append whose operands are in order and whose list is read goes on with the lanes' records. -/
theorem Ctx.appender_begins (body : Ctx → Group → W64 → ListRef → (Nat → W128) → Slot) :
    runSlot s (fun c => c.appender f body) = .next (slotEnd (
      if usesQueue (dataUse f .vslq :: idxUse f .vsl) then
        (body ((c.put t g).atList u) h (c.enabled f.pg f.pn) r ((c.put t g).recordOf f r xs u)).precise c true
      else body ((c.put t g).atList u) h (c.enabled f.pg f.pn) r ((c.put t g).recordOf f r xs u))) := by
  rw [runSlot_runs hc]
  unfold Ctx.appender
  rw [Ctx.enter_begins b]
  simp only [hl, hw]
  rfl

theorem Ctx.appender_completes {body : Ctx → Group → W64 → ListRef → (Nat → W128) → Slot} {t' : State} {g' : Group} {l : Option (Tbl W64)}
    {d : Option Goto}
    (hb : body ((c.put t g).atList u) h (c.enabled f.pg f.pn) r ((c.put t g).recordOf f r xs u) = .done t' g' l d) :
    runSlot s (fun c => c.appender f body) = doneWith t' g' l d := by
  rw [Ctx.appender_begins hc b hl hw, hb, Slot.precise_done, ite_self]
  rfl

theorem Ctx.appender_appends {i : Instr} {body : Ctx → Group → W64 → ListRef → (Nat → W128) → Slot} {w : State} {k : Append} {won : W64}
    {rs : List W128} (hi : exec i s = runSlot s fun c => c.appender f body)
    (hb : body ((c.put t g).atList u) h (c.enabled f.pg f.pn) r ((c.put t g).recordOf f r xs u) =
      ((c.put t g).atList u).appendSlot w h f r k (c.enabled f.pg f.pn) won rs) :
    ((c.put t g).atList u).Appends s i f h r (c.enabled f.pg f.pn) w k won rs := by
  intro hs w' cells hr
  rw [hi]
  exact Ctx.appender_completes hc b hl hw (hb.trans (Ctx.appendSlot_appends hs hr))

theorem wlpush_appends (ha : r.d.admits (laneRecords c f t g r xs u).length = true) :
    ((c.put t g).atList u).Appends s (.wlpush f) f h r (c.enabled f.pg f.pn) u.nextFree.1 .push (c.enabled f.pg f.pn)
      (laneRecords c f t g r xs u) :=
  Ctx.appender_appends hc b hl hw rfl (if_pos ha)

theorem wlpush_full (ha : r.d.admits (laneRecords c f t g r xs u).length = false) :
    exec (.wlpush f) s = doneWith u.nextFree.1 (h.setStatus f (c.enabled f.pg f.pn) 0) none none :=
  Ctx.appender_completes hc b hl hw (if_neg (Bool.eq_false_iff.mp ha))

section
variable {w : State} {found : List W128} (hp : ((c.put t g).atList u).present u.nextFree.1 f r.d = (w, .ok found)) {ls : List Nat}
  (hls : ls = inserters ((c.put t g).recordOf f r xs u) found (lanes (c.enabled f.pg f.pn)))
include hp hls

theorem wlins_appends (ha : r.d.admits ls.length = true) :
    ((c.put t g).atList u).Appends s (.wlins f) f h r (c.enabled f.pg f.pn) w .insert (ls.foldl (fun m l => m ||| bit64 l) 0)
      (ls.map ((c.put t g).recordOf f r xs u)) := by
  refine Ctx.appender_appends hc b hl hw rfl ?_
  simp only [show ((c.put t g).atList u).s = u.nextFree.1 from rfl, hp, ← hls, ha, if_true]

theorem wlins_full (ha : r.d.admits ls.length = false) :
    exec (.wlins f) s = doneWith w (h.setStatus f (c.enabled f.pg f.pn) 0) none none := by
  refine Ctx.appender_completes hc b hl hw ?_
  simp only [show ((c.put t g).atList u).s = u.nextFree.1 from rfl, hp, ← hls, ha, Bool.false_eq_true, if_false]

end

/-- A commit of more records than the parcel has reserved faults; precise at the slot where a queue operand ended the quantum (R295, R421). -/
theorem wlcom_unreserved (ho : Tbl.get 0 (u.parcelOf h).resv r.va < (laneRecords c f t g r xs u).length) :
    exec (.wlcom f) s = .next (slotEnd (
      if usesQueue (dataUse f .vslq :: idxUse f .vsl) then c.trap (listFault 1) else .stop u.nextFree.1 g (.trap (listFault 1)))) := by
  refine (Ctx.appender_begins hc b hl hw _).trans ?_
  have ho : Tbl.get 0 (((c.put t g).atList u).s.parcelOf h).resv r.va <
    ((lanes (c.enabled f.pg f.pn)).map ((c.put t g).recordOf f r xs u)).length := ho
  simp only [ho, if_true]
  rfl

theorem wlcom_appends (ho : (laneRecords c f t g r xs u).length ≤ Tbl.get 0 (u.parcelOf h).resv r.va) :
    ((c.put t g).atList u).Appends s (.wlcom f) f h r (c.enabled f.pg f.pn) u.nextFree.1 .commit (c.enabled f.pg f.pn)
      (laneRecords c f t g r xs u) :=
  Ctx.appender_appends hc b hl hw rfl (if_neg (Nat.not_lt.mpr ho))

end

/-! ## Reservations (R115, R294) -/

/-- A parcel with a reservation on the list, or on fewer than eight lists, may reserve. -/
theorem mayReserve {n own lists : Nat} (h : n = 0 ∨ own ≠ 0 ∨ lists < 8) : (n ≠ 0 && own = 0 && 8 ≤ lists) = false := by
  simp only [Bool.and_eq_false_iff, decide_eq_false_iff_not]
  omega

section
variable {s : State} {c : Ctx} {f : MForm} {t u : State} {g h : Group} {xs : List Src} {r : ListRef} {n : Nat} (hc : s.runs c)
  (hn : ((xs.headD fun _ => 0) ((lowest (c.enabled f.pg f.pn)).getD 0)).toNat = n) (hle : n ≤ 2 ^ 31)
  (b : c.Begins { always := false } (c.enabled f.pg f.pn) true [] (dataUse f .slq :: idxUse f .vsl) t g h xs false)
  (hl : (c.put t g).listRef f (c.enabled f.pg f.pn) (idxSrc f xs.tail) = (u, .ok r))
  (hown : n = 0 ∨ Tbl.get 0 (u.parcelOf h).resv r.va ≠ 0 ∨ (u.parcelOf h).resv.length < 8)
include hc hn hle b hl hown

theorem wlres_full (ha : r.d.admits n = false) : exec (.wlres f) s = doneWith u (h.setStatus f (c.enabled f.pg f.pn) 0) none none := by
  refine (runSlot_runs hc _).trans (Ctx.enter_completes b ?_)
  simp only [hn, Nat.not_lt.mpr hle, hl, mayReserve hown, ha, Bool.not_false, Bool.false_eq_true, if_false, if_true]

theorem wlres_reserves (ha : r.d.admits n = true) :
    exec (.wlres f) s = doneWith ((c.put t g).putList (u.setParcel { u.parcelOf h with
        resv := Tbl.put 0 (u.parcelOf h).resv r.va (Tbl.get 0 (u.parcelOf h).resv r.va + n) }) r { r.d with resv := r.d.resv + n })
      (h.setStatus f (c.enabled f.pg f.pn) (c.enabled f.pg f.pn)) none none := by
  refine (runSlot_runs hc _).trans (Ctx.enter_completes b ?_)
  simp only [hn, Nat.not_lt.mpr hle, hl, mayReserve hown, ha, Bool.not_true, Bool.false_eq_true, if_false]

end

/-! ## Pops and the size (R115, R294) -/

/-- A load of a value that is known sends nothing over a link. -/
theorem Ctx.issueLoad_value (c : Ctx) (s : State) {g : Group} (ty : ElemType) (dst : PendDst) (l : Nat) (ws : List W64) (hint : BitVec 2)
    (one : Bool) (hl : g.loads < Config.loadLimit) : ∃ p : Pending,
      c.issueLoad s g ty dst [(l, .value ws)] hint one = .done s.fresh.1 { g with pending := g.pending ++ [p] } (some []) none ∧
      p.lanes = [(l, .value ws)] ∧ p.dst = dst :=
  ⟨_, (if_neg (Nat.not_le.mpr hl)).trans (if_neg Bool.false_ne_true), rfl, rfl⟩

section
variable {s : State} {c : Ctx} {f : MForm} {t u : State} {g h : Group} {xs : List Src} {r : ListRef} (hc : s.runs c)
include hc

/-- The lanes that a pop serves: the executing lanes in ascending order, as far as the records go. -/
def poppedLanes (c : Ctx) (f : MForm) (r : ListRef) : List Nat := (lanes (c.enabled f.pg f.pn)).take (min r.d.count r.d.cap)

/-- The value of a popped record: one word, or two of a wide record. -/
def recordWords (d : ListDesc) (x : W128) : List W64 := if d.wide then [x.extractLsb' 0 64, x.extractLsb' 64 64] else [x.extractLsb' 0 64]

theorem wlpopb_pops {w : State} {cells : List Nat}
    (b : c.Begins { always := false } (c.enabled f.pg f.pn) f.nw [dataUse f .onlyV] (idxUse f .vsl) t g h xs)
    (hl : (c.put t g).listRef f (c.enabled f.pg f.pn) (idxSrc f xs) = (u, .ok r)) (hw : (c.put t g).wideStop f r.d = none)
    (hr : (c.put t g).recordCells u f r.d r.d.head (poppedLanes c f r).length .read = (w, .ok cells)) (hload : h.loads < Config.loadLimit)
    (hgood : (cells.findSome? fun x => w.badData x r.d.bytes 0 r.va) = none) (hs : w.subdivisible h = false) :
    ∃ t' latch, ∃ p : Pending,
      exec (.wlpopb f) s = doneWith t' { h.setStatus f (c.enabled f.pg f.pn) ((poppedLanes c f r).foldl (fun m l => m ||| bit64 l) 0) with
        pending := h.pending ++ [p] } (some latch) none ∧
      t'.mem = ((c.put t g).putList w r { r.d with head := (r.d.head + (poppedLanes c f r).length) % 2 ^ 64 }).mem ∧
      p.lanes = (poppedLanes c f r).zip ((cells.map fun x => w.readRecord r.d x).map fun x => LaneSource.value (recordWords r.d x)) := by
  unfold poppedLanes at hr
  rw [exec_wlpopb, execWlpopb, runSlot_runs hc, Ctx.enter_begins b]
  simp only [hl, hw, hr, Nat.not_le.mpr hload, hgood, hs, Act.slot, Bool.false_eq_true, if_false, Slot.precise_done, ite_self]
  exact ⟨_, _, _, rfl, rfl, rfl⟩

theorem wlsize_reads (b : c.Begins { always := false } (c.enabled f.pg f.pn) f.nw [dataUse f .onlyS] (idxUse f .vsl) t g h xs)
    (hl : (c.put t g).listRef f (c.enabled f.pg f.pn) (idxSrc f xs) = (u, .ok r)) (hload : h.loads < Config.loadLimit) :
    ∃ p : Pending, exec (.wlsize f) s = doneWith u.fresh.1 { h with pending := h.pending ++ [p] } (some []) none ∧
      p.lanes = [((lowest (c.enabled f.pg f.pn)).getD 0, .value [BitVec.ofNat 64 r.d.count])] ∧ p.dst = pendDst f.data f.nw := by
  obtain ⟨p, hp, hlanes, hdst⟩ := (c.put t g).issueLoad_value u .n64 (pendDst f.data f.nw) ((lowest (c.enabled f.pg f.pn)).getD 0)
    [BitVec.ofNat 64 r.d.count] 0 true hload
  refine ⟨p, (runSlot_runs hc _).trans (Ctx.enter_completes b ?_), hlanes, hdst⟩
  simp only [hl, hp]

end

/-- Settles O30: each opcode by its rule above; `Ctx.Appends` is what the three appends share. -/
theorem workListsComplete : Obligations.WorkListsComplete := by
  unfold Obligations.WorkListsComplete
  intro s c f t u g h xs r hc e d v rec' rs appends
  refine ⟨fun b hl hw => ⟨wlpush_appends hc b hl hw, wlpush_full hc b hl hw, fun w found hp => ⟨wlins_appends hc b hl hw hp rfl,
    wlins_full hc b hl hw hp rfl⟩, wlcom_unreserved hc b hl hw, wlcom_appends hc b hl hw⟩, fun n hn hle b hl hown =>
      ⟨wlres_full hc hn.symm hle b hl hown, wlres_reserves hc hn.symm hle b hl hown⟩, fun b hl hw w cells hr hload hgood hs =>
        wlpopb_pops hc b hl hw hr hload hgood hs, fun b hl hload => wlsize_reads hc b hl hload⟩

end Sys2Proof.Machine
end

section
/-!
SUPPORT. The acceptance of a launch: the entry that the distributor takes, the refusal, and the filling of the leases (R120, R128, R143).
-/
namespace Sys2Proof.Machine
open Sys2Proof

@[simp] theorem exec_launchAccept (vf n : Nat) (s : State) : exec (.launchAccept vf n) s = execLaunchAccept vf n s := rfl

/-! ## The entry (R120, R128) -/

/-- The launch of the entry at a cell, as the distributor takes it. -/
def State.entryLaunch (s : State) (vf n cell : Nat) : Launch :=
  { Launch.blank with uid := s.uid, vf := vf, queue := n, num := (s.vf vf).number, entry := Memory.readN s.mem cell 512,
                      state := .accepting none }

/-- The state once the entry is taken: the function's number and the consumer index go up, and the launch stands among the launches. -/
def State.entryTaken (x s : State) (vf n cell : Nat) : State :=
  let q := (s.vf vf).queue n
  let t := x.fresh.1.setVf vf ({ s.vf vf with number := (s.vf vf).number + 1 }.setQueue n { q with cons := q.cons + 1 })
  { t with launches := t.launches ++ [s.entryLaunch vf n cell] }

/-- The read of the entry over the links changes nothing that the distributor reads. -/
theorem takeEntry_crossed {s x : State} {vf n cell c : Nat} (hx : s.entryCrosses c = some x) :
    x.takeEntry vf n ((s.vf vf).queue n) cell = (x.entryTaken s vf n cell).acceptLaunch (s.entryLaunch vf n cell) := by
  obtain ⟨l, rfl⟩ := crossWays_frame hx
  rfl

section
variable {s : State} {vf n : Nat} (he : s.enabled = true) (hv : vf < 64) (hn : n < 8) (hr : (s.vf vf).resetting = false)
  (ha : s.acceptingLaunch vf n = none) (hon : ringOn ((s.vf vf).queue n).cfg = true) (hp : ((s.vf vf).queue n).prod ≠ ((s.vf vf).queue n).cons)
  {cell : Nat} (hcell : ringCell ((s.vf vf).queue n).cfg ((s.vf vf).queue n).cons.toNat 512 = cell) (hex : cellExists cell 512 = true)
  (hnet : (s.net.any fun o => o.cell < cell + 512 && cell ≤ o.cell) = false)
include he hv hn hr ha hon hp hcell hex hnet

/-- An entry that is there is taken once its read crosses the links; else the distributor waits. -/
theorem launchAccept_takes : exec (.launchAccept vf n) s =
    .next (((s.entryCrosses cell).map fun x => (x.entryTaken s vf n cell).acceptLaunch (s.entryLaunch vf n cell)).getD s) := by
  have hgo : (!s.enabled || 64 ≤ vf || 8 ≤ n || (s.vf vf).resetting || !ringOn ((s.vf vf).queue n).cfg ||
      ((s.vf vf).queue n).prod = ((s.vf vf).queue n).cons) = false := by
    simp only [he, hr, hon, decide_eq_false (Nat.not_le.mpr hv), decide_eq_false (Nat.not_le.mpr hn), decide_eq_false hp, Bool.not_true,
      Bool.or_false]
  simp only [exec_launchAccept, execLaunchAccept, ha, hgo, hcell, hex, hnet, Bool.not_true, Bool.false_eq_true, if_false]
  cases hx : s.entryCrosses cell with
  | none => rfl
  | some x => exact congrArg Host.Outcome.next (takeEntry_crossed hx)

end

theorem acceptLaunch_accepts {u : State} {l m : Launch} (h : u.judge l = .ok m) : u.acceptLaunch l = u.setLaunch m := by
  rw [State.acceptLaunch, h]

/-- A refusal drops the launch and posts its record. -/
theorem acceptLaunch_refuses {u : State} {l : Launch} {cause arg : Nat} (h : u.judge l = .error (.refuse cause arg)) :
    let v := { u with launches := u.launches.filter fun x => x.uid ≠ l.uid }
    u.acceptLaunch l = ((v.post (v.launchRecord l (launchRefused (entryField l.entry 8 2) cause arg) 1)).1).noteBacklog l.vf l.queue := by
  rw [State.acceptLaunch, h]

/-! ## The leases (R120, R143) -/

/-- The state in which the ranges of a launch stand in its function's lease table. -/
def State.leased (s : State) (l : Launch) : State :=
  s.setVf l.vf { s.vf l.vf with leases := (s.vf l.vf).leases ++ l.leases.map fun r => (l.uid, r) }

/-- A launch whose lease pages are all there is placed next. -/
theorem fillLeases_places {s : State} {l : Launch} (hnew : ((s.vf l.vf).leases.any fun e => e.1 = l.uid) = false)
    (hroom : (s.vf l.vf).leases.length + l.leases.length ≤ 256) (habs : ∀ r ∈ l.leases, r.absent (s.leased l) l.vf = none) :
    s.fillLeases l = ((s.leased l).setLaunch { l with state := .placing }).noteBacklog l.vf l.queue := by
  have hfind : l.leases.findSome? (fun r => r.absent (s.leased l) l.vf) = none := List.findSome?_eq_none_iff.mpr habs
  unfold State.leased at hfind ⊢
  simp only [State.fillLeases, hnew, Nat.not_lt.mpr hroom, hfind, Bool.not_false, Bool.true_and, decide_false, Bool.false_eq_true, if_false]

theorem launchAccept_fills {s : State} {vf n : Nat} {l : Launch} (ha : s.acceptingLaunch vf n = some l) (hf : l.state = .filling none) :
    exec (.launchAccept vf n) s = .next (s.fillLeases l) := by
  have hheld : s.heldBy vf none = false := rfl
  simp only [exec_launchAccept, execLaunchAccept, ha, hf, hheld, Bool.false_eq_true, if_false]

/-- Settles O44: the entry is taken (`launchAccept_takes`), and then `judge` decides; a filled launch goes on to its placement. -/
theorem launchIsAcceptedOrRefused : Obligations.LaunchIsAcceptedOrRefused := by
  unfold Obligations.LaunchIsAcceptedOrRefused
  refine ⟨fun s vf n he hv hn hr ha hon hp hex hnet => ?_, fun s vf n l ha hf hvf hq hnew hroom habs => ?_⟩
  · have htakes := launchAccept_takes he hv hn hr ha hon hp rfl hex hnet
    refine ⟨fun h => by rw [htakes, h, Option.map_none, Option.getD_none], fun x hx => ⟨fun m hm => ?_, fun cause arg hr => ?_⟩⟩
    · rw [htakes, hx]
      exact congrArg Host.Outcome.next (acceptLaunch_accepts hm)
    · rw [htakes, hx]
      exact congrArg Host.Outcome.next (acceptLaunch_refuses hr)
  · subst hvf hq
    rw [launchAccept_fills ha hf, fillLeases_places hnew hroom habs]
    rfl

end Sys2Proof.Machine
end

section
/-!
SUPPORT. Engines: the command that an engine takes, the delivery of its results, and the end of the commands of the resurvey, ray, light,
reuse and geometry engines (R109, R111, R112, R156, R348, R353, R366, R370, R374, R377, R384, R385).  A survey goes through a whole chain in
one step and compacts one page a step (log entry 27), and a geometry command runs in one step (log entry 24).
-/
namespace Sys2Proof.Machine
open Sys2Proof

/-! ## Commands and results (R109, R111, R112) -/

section
variable (e : EngineRef) (n : Nat) (s : State)

@[simp] theorem exec_engineTakeCommand : exec (.engineTakeCommand e) s = execEngineTakeCommand e s := rfl
@[simp] theorem exec_engineResultDeliver : exec (.engineResultDeliver e) s = execEngineResultDeliver e s := rfl
@[simp] theorem exec_kvrsSurvey : exec (.kvrsSurvey n) s = execKvrsSurvey n s := rfl
@[simp] theorem exec_rayResult : exec (.rayResult n) s = execRayResult n s := rfl
@[simp] theorem exec_lightWalk : exec (.lightWalk n) s = execLightWalk n s := rfl
@[simp] theorem exec_reuseCardRun : exec (.reuseCardRun n) s = execReuseCardRun n s := rfl
@[simp] theorem exec_gfeMeshletPass : exec (.gfeMeshletPass n) s = execGfeMeshletPass n s := rfl
@[simp] theorem exec_gfePyramidBuild : exec (.gfePyramidBuild n) s = execGfePyramidBuild n s := rfl

end

section
variable {s : State} {e : EngineRef}

/-- The command that an engine runs once it has taken the first entries of queue `q` of a group. -/
def State.taken (s : State) (e : EngineRef) (g : Group) (q : Nat) (cmd : Cmd) : Taken :=
  { group := g.uid, parcel := g.parcel, vf := (s.launchOf g).vf, core := g.core,
    out := if e.kind = .reuse then none else (g.outputAt (e.kind.port + 1) e.inst).map fun n => (n, (g.queue n).gen),
    entries := (g.queue q).entries.take e.kind.entries, cmd := cmd, parked := none, stage := 0, survey := [] }

theorem engineTakeCommand_takes {f : Feed} {g : Group} {cmd : Cmd} (hb : (s.engine e).busy = none) (hr : (s.engine e).results = [])
    (hd : (s.die e.die).held = false) (ho : s.engineOn e.die e = true) (hf : s.nextFeed e = some f) (hg : s.group? f.group = some g)
    (hc : (((g.queue f.queue).entries.take e.kind.entries).head?.bind fun y => y.cmd) = some cmd) :
    let s' := s.setGroup (g.setQueue f.queue { g.queue f.queue with entries := (g.queue f.queue).entries.drop e.kind.entries })
    exec (.engineTakeCommand e) s =
      .next (s'.setEngine e { s.engine e with last := f.after, busy := some (s'.taken e g f.queue cmd) }) := by
  simp only [exec_engineTakeCommand, execEngineTakeCommand, hb, hr, hd, ho, hf, hg, hc, Option.isSome_none, List.isEmpty_nil, Bool.not_true,
    Bool.or_false, Bool.false_eq_true, if_false]
  rfl

theorem engineResultDeliver_delivers {r : EngineResult} {rs : List EngineResult} (hr : (s.engine e).results = r :: rs)
    (hroom : s.queueRoom r.group r.queue r.gen 1 = true) :
    exec (.engineResultDeliver e) s = .next ((s.deliver r.group r.queue r.gen (r.entries.take 1)).setEngine e
      { s.engine e with results := if (r.entries.drop 1).isEmpty then rs else { r with entries := r.entries.drop 1 } :: rs }) := by
  simp only [exec_engineResultDeliver, execEngineResultDeliver, hr, hroom, Bool.not_true, Bool.false_eq_true, if_false]

/-- A binding that is still the one a command had gets the entry. -/
theorem deliver_pushes {g q gen : Nat} {x : Group} {y : QEntry} (hg : s.group? g = some x) (hgen : (x.queue q).gen = gen)
    (hb : bindValid (x.queue q).binding = true) : s.deliver g q gen [y] = s.setGroup (x.pushEntry q y) := by
  simp only [State.deliver, hg, hgen, hb, decide_true, Bool.and_true, if_true, List.foldl_cons, List.foldl_nil]

end

/-! ## The resurvey (R156, R348, R353) -/

section
variable {s : State} {b : Taken} {d : Nat} {ty : ElemType} {cap : Cap} {reg : Nat} {w page : W64}

/-- The resurvey engine of a die. -/
def kvEngine (d : Nat) : EngineRef := { kind := .resurvey, unit := d }

/-- What a resurvey command of a die works with. -/
def kvContext (d : Nat) (b : Taken) (ty : ElemType) (cap : Cap) (reg : Nat) (w : W64) : KvCtx :=
  { die := d, vf := b.vf, cap := cap, reg := reg, ty := ty, w := w }

variable (hcmd : b.cmd = .kvrs ty cap reg w page) (hrun : s.command? (kvEngine d) = some b)
include hcmd hrun

theorem kvrsSurvey_steps : exec (.kvrsSurvey d) s = .next (s.kvStep (kvEngine d) b (kvContext d b ty cap reg w) page.toNat) := by
  unfold kvEngine at hrun
  simp only [exec_kvrsSurvey, execKvrsSurvey, hrun, hcmd]
  rfl

theorem kvrsSurvey_surveys {t : State} {ps : List Surveyed} (h0 : b.stage = 0)
    (hch : (kvContext d b ty cap reg w).chain 4096 s page.toNat = (t, .ok ps)) :
    exec (.kvrsSurvey d) s = .next (t.setEngine (kvEngine d) { t.engine (kvEngine d) with
      busy := some { b with parked := none, stage := 1, survey := (kvContext d b ty cap reg w).survivors ps } }) := by
  rw [kvrsSurvey_steps hcmd hrun, State.kvStep, if_pos h0, hch]

theorem kvrsSurvey_compacts {t : State} {x : Nat × List Nat × Nat} (h0 : b.stage ≠ 0) (hx : b.survey[b.stage - 1]? = some x)
    (hp : (kvContext d b ty cap reg w).compactPage s x = (t, .ok ())) :
    exec (.kvrsSurvey d) s = .next (t.setEngine (kvEngine d) { t.engine (kvEngine d) with
      busy := some { b with parked := none, stage := b.stage + 1 } }) := by
  rw [kvrsSurvey_steps hcmd hrun, State.kvStep, if_neg h0, hx]
  simp only [hp]

theorem kvrsSurvey_completes (h0 : b.stage ≠ 0) (hx : b.survey[b.stage - 1]? = none) :
    exec (.kvrsSurvey d) s = .next
      ((s.engineDone (kvEngine d) b [kvDone b.survey] 1 0 0).completion b.parcel b.first.semv b.first.sem b.first.inc) := by
  rw [kvrsSurvey_steps hcmd hrun, State.kvStep, if_neg h0, hx]

end

/-! ## Rays, lights and reuse (R366, R370, R374, R377) -/

section
variable {s : State} {b : Taken} {n : Nat}

/-- A ray query delivers one vector entry of results, or two, and counts its rays. -/
theorem rayResult_delivers {any : Bool} {fl : W64} {a : Attached} {rs : List (Nat × Traced × Nat × Nat × Nat)}
    (hrun : s.command? { kind := .ray, unit := n } = some b) (hcmd : b.cmd = .ray any fl a)
    (htr : traceLanes s b a (fl.getLsbD 1) (lanes b.first.mask) = .ok rs) :
    ∃ es n0 n1 n2, exec (.rayResult n) s = .next (s.engineDone { kind := .ray, unit := n } b es n0 n1 n2) ∧
      (if any then es.length = 1 else es.length = 2) ∧ (∀ y ∈ es, y.mask = b.first.mask ∧ y.scalar = false) ∧
      n0 = (rs.map fun r => r.2.2.1).foldl (· + ·) 0 := by
  simp only [exec_rayResult, execRayResult, hrun, hcmd, htr]
  refine ⟨_, _, _, _, rfl, ?_, ?_, rfl⟩
  · cases any <;> rfl
  · cases any with
    | true => exact List.forall_mem_singleton.mpr ⟨rfl, rfl⟩
    | false => exact List.forall_mem_cons.mpr ⟨⟨rfl, rfl⟩, List.forall_mem_singleton.mpr ⟨rfl, rfl⟩⟩

theorem lightWalk_delivers {d0 : W32} {a : Attached} {rs : List (Nat × W64)} (hrun : s.command? { kind := .light, unit := n } = some b)
    (hcmd : b.cmd = .light d0 a) (hw : lightLanes s b (s.launchOfParcel b.parcel) d0.toNat a (lanes b.first.mask) = .ok rs) :
    exec (.lightWalk n) s = .next (s.engineDone { kind := .light, unit := n } b
      [QEntry.ofLanes b.first.mask fun l => ((rs.find? fun r => r.1 = l).map fun r => r.2).getD 0] 1 0 0) := by
  simp only [exec_lightWalk, execLightWalk, hrun, hcmd, hw]

/-- What the run of a reuse card reads. -/
def reuseContext (s : State) (b : Taken) (n : Nat) (card : BitVec 512) (fmt : W32) (scene : Attached) (body : List (List W64)) : RuCtx :=
  { s := s, b := b, l := s.launchOfParcel b.parcel, die := n / 24, card := card, fmt := fmt, scene := scene, body := body,
    params := s.unitTile b.parcel (ruParam card) }

theorem reuseCardRun_writes {y : Cap} {card : BitVec 512} {fmt : W32} {scene : Attached} {body : List (List W64)}
    {xs : List (W64 × Reservoir × Nat)} (hrun : s.command? { kind := .reuse, unit := n } = some b)
    (hcmd : b.cmd = .reuse y card fmt scene body) (hp : (reuseContext s b n card fmt scene body).pixels (ruPixels card) = .ok xs) :
    exec (.reuseCardRun n) s = .next (((s.putElements b.parcel (xs.flatMap (ruElements (ruResult card)))).engineDone
      { kind := .reuse, unit := n } b [] 1 ((xs.map fun x => x.2.2).foldl (· + ·) 0) 0).completion b.parcel b.first.semv b.first.sem
      b.first.inc) := by
  unfold reuseContext at hp
  simp only [exec_reuseCardRun, execReuseCardRun, hrun, hcmd, hp]

end

/-! ## Geometry (R384, R385) -/

section
variable {s : State} {b : Taken} {d : Nat}

/-- A run that nothing stops leaves its counts with the command. -/
theorem gfeEnds_counts {e : EngineRef} {r : GfeRun} (hr : r.stop = none) :
    s.gfeEnds e b r = r.s.setEngine e { r.s.engine e with busy := some { b with parked := none, stage := 1, survey := [(r.swl, [], r.rast)] } } := by
  rw [State.gfeEnds, hr]

/-- A command whose run is over delivers its counts once everything that it sent is in. -/
theorem gfeCompletes_delivers {e : EngineRef} {x : Nat × List Nat × Nat} {xs : List (Nat × List Nat × Nat)} (hx : b.survey = x :: xs)
    (hq : s.engineQuiet e = true) :
    s.gfeCompletes e b = (s.engineDone e b [QEntry.ofScalar (BitVec.ofNat 64 (x.1 % 2 ^ 31 * 2 ^ 32 + x.2.2 % 2 ^ 32))] 1 0 0).completion
      b.parcel b.first.semv b.first.sem b.first.inc := by
  simp only [State.gfeCompletes, hx, hq, Bool.not_true, Bool.false_eq_true, if_false]

variable (hrun : s.command? { kind := .geometry, unit := d } = some b)
include hrun

theorem gfeMeshletPass_steps {cap : Cap} {w : BitVec 1024} {area : W32} (hcmd : b.cmd = .gfemb cap w area) :
    exec (.gfeMeshletPass d) s = .next (if b.stage = 0 then s.gfeEnds { kind := .geometry, unit := d } b
        (GfeCtx.run { e := { kind := .geometry, unit := d }, b := b, cap := cap, w := w, area := area } s)
      else s.gfeCompletes { kind := .geometry, unit := d } b) := by
  simp only [exec_gfeMeshletPass, execGfeMeshletPass, hrun, hcmd]

theorem gfePyramidBuild_steps {cap : Cap} {w : BitVec 1024} (hcmd : b.cmd = .gfedepth cap w) :
    exec (.gfePyramidBuild d) s = .next (if b.stage = 0 then s.gfeEnds { kind := .geometry, unit := d } b
        (GfeCtx.pyramid { e := { kind := .geometry, unit := d }, b := b, cap := cap, w := w, area := 0 } s)
      else s.gfeCompletes { kind := .geometry, unit := d } b) := by
  simp only [exec_gfePyramidBuild, execGfePyramidBuild, hrun, hcmd]

end

/-- What a geometry command does from its stage: its run first, then its counts. -/
theorem geometryStage_effect {s : State} {b : Taken} {e : EngineRef} {i : Instr} {r : GfeRun}
    (hi : exec i s = .next (if b.stage = 0 then s.gfeEnds e b r else s.gfeCompletes e b)) :
    (b.stage = 0 → r.stop = none → exec i s = .next (r.s.setEngine e { r.s.engine e with
        busy := some { b with parked := none, stage := 1, survey := [(r.swl, [], r.rast)] } })) ∧
    (∀ x xs, b.stage ≠ 0 → b.survey = x :: xs → s.engineQuiet e = true →
      exec i s = .next ((s.engineDone e b [QEntry.ofScalar (BitVec.ofNat 64 (x.1 % 2 ^ 31 * 2 ^ 32 + x.2.2 % 2 ^ 32))] 1 0 0).completion
        b.parcel b.first.semv b.first.sem b.first.inc)) := by
  refine ⟨fun h0 hr => ?_, fun x xs h0 hx hq => ?_⟩
  · rw [hi, if_pos h0, gfeEnds_counts hr]
  · rw [hi, if_neg h0, gfeCompletes_delivers hx hq]

/-- Settles O49: the taking and the delivery, and then each engine's command by its own rule above. -/
theorem enginesRunTheirCommands : Obligations.EnginesRunTheirCommands := by
  unfold Obligations.EnginesRunTheirCommands
  refine ⟨fun s e => ⟨fun f g cmd hb hr hd ho hf hg hc => ?_, fun r rs => engineResultDeliver_delivers, fun g q gen x y => deliver_pushes⟩,
    fun s b => ⟨fun d ty cap reg w page hcmd hrun => ?_, ?_, fun n d0 a rs hrun hcmd => lightWalk_delivers hrun hcmd, ?_, ?_⟩⟩
  · exact ⟨_, engineTakeCommand_takes hb hr hd ho hf hg hc, rfl, rfl, rfl, rfl, rfl, rfl, rfl, fun hk => if_neg hk⟩
  · exact ⟨fun t ps => kvrsSurvey_surveys hcmd hrun, fun t x => kvrsSurvey_compacts hcmd hrun, kvrsSurvey_completes hcmd hrun⟩
  · rintro n any a rs e hrun ⟨fl, hcmd, htr⟩
    exact rayResult_delivers hrun hcmd htr
  · rintro n card fmt scene body xs e hrun ⟨y, hcmd⟩ r hp
    exact reuseCardRun_writes hrun hcmd hp
  · intro d cap w area e run hrun
    exact ⟨fun hcmd => geometryStage_effect (gfeMeshletPass_steps hrun hcmd), fun hcmd => geometryStage_effect (gfePyramidBuild_steps hrun hcmd)⟩

end Sys2Proof.Machine
end

section
/-!
SUPPORT. Job cards: their dispatch, their writes and their completion (R112, R127, R311, R312, R313, R344).
-/
namespace Sys2Proof.Machine
open Sys2Proof

section
variable (n : Nat) (s : State)

@[simp] theorem exec_jobCardDispatch : exec (.jobCardDispatch n) s = execJobCardDispatch n s := rfl
@[simp] theorem exec_jobCardComplete : exec (.jobCardComplete n) s = execJobCardComplete n s := rfl

end

/-! ## Dispatch (R112, R127) -/

/-- A card that its engine has taken is numbered, and as it was else. -/
theorem takeCard_numbers (s : State) (c : Card) :
    (s.takeCard c).2 = { c with taken := (s.takeCard c).2.taken } ∧ (s.takeCard c).2.taken ≠ 0 := by
  unfold State.takeCard
  split
  · rename_i h
    exact ⟨rfl, h⟩
  · exact ⟨rfl, Nat.succ_ne_zero _⟩

/-- The card that a pair dispatches: its oldest ready one that its engine's rotation has come to, or that a stopped card breaks. -/
def State.dispatches (s : State) (pair : Nat) (c : Card) : Prop :=
  ((s.pair pair).cards.find? fun x => s.cardReady (s.pair pair) x && (s.cardTurn x || ((s.pair pair).brokenBy x).isSome)) = some c

section
variable {s : State} {pair : Nat} {c : Card} (h : s.dispatches pair c)
include h

/-- A card that depends on one that has stopped stops too. -/
theorem jobCardDispatch_breaks {code : Nat} (hb : (s.pair pair).brokenBy (s.takeCard c).2 = some code) :
    exec (.jobCardDispatch pair) s = .next ((s.takeCard c).1.setCard { (s.takeCard c).2 with state := .failed code }) := by
  unfold State.dispatches at h
  simp only [exec_jobCardDispatch, execJobCardDispatch, h, hb]

theorem jobCardDispatch_runs (hb : (s.pair pair).brokenBy (s.takeCard c).2 = none) :
    exec (.jobCardDispatch pair) s = .next ((s.takeCard c).1.runCard (s.takeCard c).2) := by
  unfold State.dispatches at h
  simp only [exec_jobCardDispatch, execJobCardDispatch, h, hb]

end

/-- How a card goes on from the bytes of its regions: it joins its collective, or what its kind makes of them is written. -/
def State.goOn (t : State) (d : Card) (bss : List (List Byte)) : State :=
  if d.kind = .collective then (t.setCard { d with state := .running }).join (t.participant d bss.flatten)
  else match cardWork d bss with
    | .error x => t.cardStops d x
    | .ok (.writes ws) => t.cardWrites d ws
    | .ok (.sums r ty rows) => t.cardSums d r ty rows

section
variable {u t : State} {d : Card} {bss : List (List Byte)}

/-- A card with a result to write writes it. -/
theorem runCard_result {bs : List Byte} {q : Option Nat} (h : d.state = .result bs q) :
    u.runCard d = u.writeResult { d with state := .result bs none } bs := by
  rw [State.runCard, h]

variable (hs : ∀ bs q, d.state ≠ .result bs q) (hr : regionReads d u d.reads = (t, .ok bss))
include hs hr

theorem runCard_reads : u.runCard d = t.goOn d bss := by
  unfold State.runCard
  split
  · rename_i bs q h
    exact absurd h (hs bs q)
  · rw [hr]
    rfl

theorem runCard_joins (hk : d.kind = .collective) :
    u.runCard d = (t.setCard { d with state := .running }).join (t.participant d bss.flatten) := by
  rw [runCard_reads hs hr, State.goOn, if_pos hk]

theorem runCard_writes {ws : List CardWrite} (hk : d.kind ≠ .collective) (hw : cardWork d bss = .ok (.writes ws)) :
    u.runCard d = t.cardWrites d ws := by
  rw [runCard_reads hs hr, State.goOn, if_neg hk, hw]

theorem runCard_sums {r : Region} {ty : ElemType} {rows : List (List W64)} (hk : d.kind ≠ .collective)
    (hw : cardWork d bss = .ok (.sums r ty rows)) : u.runCard d = t.cardSums d r ty rows := by
  rw [runCard_reads hs hr, State.goOn, if_neg hk, hw]

end

/-! ## Writes (R311) -/

/-- Without tile writes the tiles stay. -/
theorem cardTiles_global {s : State} {c : Card} {ws : List CardWrite} (hg : ∀ w ∈ ws, w.region.global = true) : s.cardTiles c ws = s := by
  have hnone : (ws.filter fun w => !w.region.global) = [] := List.filter_eq_nil_iff.mpr fun w hw => by rw [hg w hw]; decide
  rw [State.cardTiles, hnone, List.foldl_nil]

/-- Outside a subdivisible parcel the writes of a card to memory go on their way, and the card waits for their acknowledgements. -/
theorem cardWrites_sends {s t : State} {c : Card} {ps : List WritePiece} {ws : List CardWrite} (hg : ∀ w ∈ ws, w.region.global = true)
    (hp : s.unitPieces c.vf .write ((ws.map fun w => w.region.cut w.at' w.data).flatten) = (t, .ok ps))
    (hsub : (t.launchOfParcel c.parcel).hdr.sub = false) (hroom : t.roomOver c.via ps = true) :
    s.cardWrites c ws = ((t.sendPieces (.card c.uid) c.via c.vf 0 c.clause c.slot ps).1).setCard
      { c with state := .acks, acks := (t.sendPieces (.card c.uid) c.via c.vf 0 c.clause c.slot ps).2 } := by
  have hall : (ws.filter fun w => w.region.global) = ws := List.filter_eq_self.mpr hg
  simp only [State.cardWrites, hall, hp, hsub, hroom, cardTiles_global hg, Bool.not_true, Bool.false_eq_true, if_false]

/-! ## Completion (R313) -/

/-- The status entry of a card (R313). -/
def Card.statusEntry (c : Card) (code : Nat) : QEntry := { QEntry.ofScalar (BitVec.ofNat 64 code) with clause := c.clause, slot := c.slot }

section
variable {s : State} {c : Card} (hc : s.card? c.uid = some c) (hroom : s.queueRoom c.group c.out.1 c.out.2 1 = true)
  (hb : s.behindTaken c = false) (hst : s.cardStalls c = false)
include hc hroom hb hst

/-- A card whose writes are all acknowledged leaves the pair's list with status 0 and its increment. -/
theorem jobCardComplete_completes (h : c.state = .acks) (ha : c.acks = 0) (hn : (s.net.any fun o => o.sender = .card c.uid) = false) :
    exec (.jobCardComplete c.uid) s = .next ((((s.setPair (c.core / 2) { s.pair (c.core / 2) with
      cards := (s.pair (c.core / 2)).cards.filter fun x => x.uid ≠ c.uid }).countCard c).deliver c.group c.out.1 c.out.2
        [c.statusEntry 0]).completion c.parcel c.semv c.sem c.inc) := by
  simp only [exec_jobCardComplete, execJobCardComplete, hc, hroom, hb, hst, h, ha, hn, ne_eq, not_true, decide_false, Bool.not_true, Bool.or_self,
    Bool.false_eq_true, if_false]
  rfl

/-- A card that has stopped delivers its code. -/
theorem jobCardComplete_fails {code : Nat} (h : c.state = .failed code) :
    exec (.jobCardComplete c.uid) s =
      .next ((s.setCard { c with state := .stopped code }).deliver c.group c.out.1 c.out.2 [c.statusEntry code]) := by
  simp only [exec_jobCardComplete, execJobCardComplete, hc, hroom, hb, hst, h, Bool.not_true, Bool.or_self, Bool.false_eq_true, if_false]
  rfl

end

/-- Settles O50: the dispatch by what the taken card does, then the writes, the completion and its increment. -/
theorem cardsRunAndComplete : Obligations.CardsRunAndComplete := by
  unfold Obligations.CardsRunAndComplete
  refine fun s c => ⟨fun pair t bss hd => ?_, fun t ps ws => cardWrites_sends, fun hc hroom hb hst =>
    ⟨jobCardComplete_completes hc hroom hb hst, fun code => jobCardComplete_fails hc hroom hb hst⟩, fun _ _ _ => ⟨rfl, rfl⟩⟩
  have hd : s.dispatches pair c := hd
  obtain ⟨htaken, hne⟩ := takeCard_numbers s c
  have hstate : (s.takeCard c).2.state = c.state := (congrArg Card.state htaken :)
  have hkind : (s.takeCard c).2.kind = c.kind := (congrArg Card.kind htaken :)
  refine ⟨htaken, hne, fun code => jobCardDispatch_breaks hd, fun bs q hb hr => ?_, fun hb hs hreads => ?_⟩
  · rw [jobCardDispatch_runs hd hb, runCard_result (hstate.trans hr)]
  · rw [jobCardDispatch_runs hd hb]
    have hs : ∀ bs q, (s.takeCard c).2.state ≠ .result bs q := fun bs q => hstate ▸ hs bs q
    exact ⟨fun hk => congrArg Host.Outcome.next (runCard_joins hs hreads (hkind.trans hk)),
      fun ws hk hw => congrArg Host.Outcome.next (runCard_writes hs hreads (hkind ▸ hk) hw),
      fun r ty rows hk hw => congrArg Host.Outcome.next (runCard_sums hs hreads (hkind ▸ hk) hw)⟩

end Sys2Proof.Machine
end

section
/-!
SUPPORT. LAUNCH and the opcodes of job cards (R120, R127, R157, R308 to R311, R314, R315): the entry that LAUNCH appends and the write that
carries it, and the card that a job-card opcode submits.
-/
namespace Sys2Proof.Machine
open Sys2Proof

/-! ## The launch entry (R120, R315) -/

@[simp] theorem length_span (a n : Nat) : (span a n).length = n := by
  induction n generalizing a with
  | zero => rfl
  | succ n ih => rw [span, List.length_cons, ih]

/-- Fields of `k` bytes each, one after another. -/
def fieldsOf (f : Nat → List Byte) (ns : List Nat) : List Byte := (ns.map f).flatten

section
variable {f : Nat → List Byte} {k : Nat} (hf : ∀ n, (f n).length = k)
include hf

theorem length_fieldsOf (ns : List Nat) : (fieldsOf f ns).length = k * ns.length := by
  induction ns with
  | nil => rfl
  | cons n ns ih =>
      rw [fieldsOf] at ih ⊢
      rw [List.map_cons, List.flatten_cons, List.length_append, hf, ih, List.length_cons, Nat.mul_succ, Nat.add_comm]

/-- Field `i` of a run of fields stands at byte `k * i`. -/
theorem take_drop_fieldsOf (a : Nat) {n i : Nat} (hi : i < n) (rest : List Byte) :
    ((fieldsOf f (span a n) ++ rest).drop (k * i)).take k = f (a + i) := by
  induction n generalizing a i with
  | zero => exact absurd hi (Nat.not_lt_zero i)
  | succ n ih =>
      have hcons : fieldsOf f (span a (n + 1)) ++ rest = f a ++ (fieldsOf f (span (a + 1) n) ++ rest) := List.append_assoc _ _ _
      rw [hcons]
      cases i with
      | zero => exact List.take_left' (hf a)
      | succ i =>
          rw [Nat.mul_succ, Nat.add_comm, ← List.drop_drop, List.drop_left' (hf a), ih (a + 1) (Nat.lt_of_succ_lt_succ hi),
            Nat.add_assoc, Nat.add_comm 1 i]

end

theorem length_capBytes (x : Cap) : (capBytes x).length = 16 := by
  unfold capBytes
  split <;> exact length_bytesOfNat 16 _

/-- The bytes of a launch entry before its argument area. -/
def entryHead (l : Launch) (g : Group) (desc : Nat) : List Byte :=
  bytesOfNat 4 l.text ++ bytesOfNat 4 l.metaObj ++ bytesOfNat 2 (field desc 96 16) ++ bytesOfNat 2 (capValid g)
    ++ bytesOfNat 4 0 ++ bytesOfNat 12 (field desc 0 96) ++ bytesOfNat 4 l.frame.toNat ++ bytesOfNat 8 l.seed.toNat ++ bytesOfNat 24 0

/-- The bytes of a launch entry after its arguments: the capabilities and the reserved bytes. -/
def entryCaps (g : Group) : List Byte := fieldsOf (fun n => capBytes (g.cap n)) (span 0 15) ++ bytesOfNat 80 0

theorem launchEntry_eq (l : Launch) (g : Group) (desc a : Nat) :
    launchEntry l g desc a = entryHead l g desc ++ (fieldsOf (fun n => bytesOfNat 8 (g.sreg n).toNat) (span a 16) ++ entryCaps g) := by
  rw [entryCaps, ← List.append_assoc, ← List.append_assoc]
  rfl

theorem length_entryHead (l : Launch) (g : Group) (desc : Nat) : (entryHead l g desc).length = 64 := by
  simp only [entryHead, List.length_append, length_bytesOfNat]

theorem length_launchEntry (l : Launch) (g : Group) (desc a : Nat) : (launchEntry l g desc a).length = 512 := by
  simp only [launchEntry_eq, entryCaps, List.length_append, length_entryHead, length_bytesOfNat, length_span,
    length_fieldsOf fun n => length_bytesOfNat 8 (g.sreg n).toNat, length_fieldsOf fun n => length_capBytes (g.cap n)]

theorem launchEntry_image (l : Launch) (g : Group) (desc a : Nat) :
    (launchEntry l g desc a).take 8 = bytesOfNat 4 l.text ++ bytesOfNat 4 l.metaObj := by
  simp only [launchEntry, List.append_assoc]
  rw [← List.append_assoc (bytesOfNat 4 l.text)]
  exact List.take_left' (by rw [List.length_append, length_bytesOfNat, length_bytesOfNat])

theorem launchEntry_argument (l : Launch) (g : Group) (desc a : Nat) {i : Nat} (hi : i < 16) :
    ((launchEntry l g desc a).drop (64 + 8 * i)).take 8 = bytesOfNat 8 (g.sreg (a + i)).toNat := by
  rw [launchEntry_eq, ← List.drop_drop, List.drop_left' (length_entryHead l g desc)]
  exact take_drop_fieldsOf (fun n => length_bytesOfNat 8 (g.sreg n).toNat) a hi _

/-! ## The write of the entry (R157, R315) -/

theorem sendOp_frame (s : State) (o : HomeOp) (c : Nat) :
    ∃ ls fs, s.sendOp o c = { s with uid := s.uid + 1, net := s.net ++ [{ o with uid := s.uid }], linkDirs := ls, flits := fs } :=
  sendFlit_frame _ _ _

theorem Vf.queue_setQueue_same (v : Vf) (n : Nat) (q : LaunchQueue) : (v.setQueue n q).queue n = q := Tbl.get_put_same _ _ _ _

/-- Noting a backlog moves no index of a ring. -/
theorem noteBacklog_prod (s : State) (vf n : Nat) : (((s.noteBacklog vf n).vf vf).queue n).prod = ((s.vf vf).queue n).prod := by
  rw [State.noteBacklog, State.vf_setVf, Vf.queue_setQueue_same]

/-- The write that carries a launch entry to memory. -/
def State.entryWrite (s : State) (sender : Sender) (die vf n : Nat) (bs : List Byte) (clause : W32) (slot : Nat) : HomeOp :=
  { sender := sender, fromDie := die, home := homeDie ((s.farBlock die ((s.vf vf).queue n).nextCell 512).getD ((s.vf vf).queue n).nextCell),
    lane := 0, vf := 64, va := 0, cell := ((s.vf vf).queue n).nextCell, hint := 0, kind := .write bs, counted := s.launchFar die vf n,
    released := false, clause := clause, slot := slot }

/-- The state in which a ring's next entry is claimed. -/
def State.claimEntry (s : State) (vf n : Nat) : State :=
  s.setVf vf ((s.vf vf).setQueue n { (s.vf vf).queue n with prod := ((s.vf vf).queue n).prod + 1 })

theorem claimEntry_prod (s : State) (vf n : Nat) : (((s.claimEntry vf n).vf vf).queue n).prod = ((s.vf vf).queue n).prod + 1 := by
  rw [State.claimEntry, State.vf_setVf, Vf.queue_setQueue_same]

/-- An append claims the ring's next entry and sends it to memory as one write. -/
theorem appendLaunch_sends (s : State) (sender : Sender) (die vf n : Nat) (bs : List Byte) (clause : W32) (slot : Nat) :
    let t := s.appendLaunch sender die vf n bs clause slot
    t.mem = s.mem ∧ ((t.vf vf).queue n).prod = ((s.vf vf).queue n).prod + 1 ∧
      t.net = s.net ++ [{ s.entryWrite sender die vf n bs clause slot with uid := s.uid }] := by
  obtain ⟨ls, fs, hs⟩ := sendOp_frame (s.claimEntry vf n) (s.entryWrite sender die vf n bs clause slot)
    (s.entryWrite sender die vf n bs clause slot).cls
  have ha : s.appendLaunch sender die vf n bs clause slot = State.noteBacklog { s.claimEntry vf n with
      uid := s.uid + 1, net := s.net ++ [{ s.entryWrite sender die vf n bs clause slot with uid := s.uid }], linkDirs := ls, flits := fs } vf n :=
    congrArg (State.noteBacklog · vf n) hs
  dsimp only
  rw [ha]
  exact ⟨rfl, (noteBacklog_prod _ vf n).trans (claimEntry_prod s vf n), rfl⟩

/-! ## LAUNCH (R314, R315) -/

@[simp] theorem Ctx.put_s (c : Ctx) (s : State) (g : Group) : (c.put s g).s = s := rfl
@[simp] theorem Ctx.put_g (c : Ctx) (s : State) (g : Group) : (c.put s g).g = g := rfl
@[simp] theorem Ctx.put_r (c : Ctx) (s : State) (g : Group) : (c.put s g).r = c.r := rfl

/-- The lane whose operand a slot of the path reads. -/
def Ctx.slotLane (c : Ctx) (f : QForm) : Nat := (lowest (c.enabled f.pg f.pn)).getD 0

/-- The address of its descriptor that a slot reads. -/
def Ctx.descriptorAt (c : Ctx) (f : QForm) (xs : List Src) : Nat := ((xs.headD fun _ => 0) (c.slotLane f)).toNat

/-- The first of the sixteen s registers that LAUNCH passes on. -/
def launchArg (f : QForm) : Nat := match f.arg with | .s r => r.toNat | _ => 0

/-- How LAUNCH begins. -/
def launchStart (f : QForm) (c : Ctx) : Start :=
  { always := false, access := true, check := fun xs =>
      if c.descriptorAt f xs % 64 ≠ 0 then some (illegalOperand 6 28 (c.descriptorAt f xs))
      else if 48 < launchArg f then some (illegalOperand 6 5 f.arg.code.toNat) else none }

section
variable {s : State} {c : Ctx} {f : QForm} {t u u2 : State} {g h : Group} {xs : List Src} {bs : List Byte} (hc : s.runs c)
include hc

/-- Outside a subdivisible parcel LAUNCH appends its entry to the ring that it names. -/
theorem launch_appends
    (b : c.Begins (launchStart f c) (c.enabled f.pg f.pn) true [] [⟨28, f.desc, .sl, 1⟩, ⟨5, f.arg, .onlyS, 1⟩] t g h xs false)
    (hquiet : (g.pending.any fun p => p.meets c.r.id ⟨5, f.arg, .onlyS, 16⟩) = false) (hrel : t.releaseWait h 6 = .ok u h)
    (hread : ({ c.put t g with s := u } : Ctx).readDescriptor true f.cap.toNat (g.cap f.cap.toNat) rRead (c.descriptorAt f xs) 64 64 (c.slotLane f) =
      (u2, .ok bs))
    (hres : natOfBytes bs < 2 ^ 112) (hkernel : field (natOfBytes bs) 96 16 < (c.put t g).launch.kernels)
    (hsub : (c.put t g).launch.hdr.sub = false) (hroom : ((u2.vf (c.put t g).vf).queue (f.qd.toNat % 8)).hasRoom = true)
    (hacks : u2.launchFar (c.put t g).die (c.put t g).vf (f.qd.toNat % 8) = true → h.acks ≠ Config.ackLimit) :
    exec (.launch f) s = doneWith
      (u2.appendLaunch (.group h.uid) (c.put t g).die (c.put t g).vf (f.qd.toNat % 8)
        (launchEntry (c.put t g).launch h (natOfBytes bs) (launchArg f)) c.r.clause c.r.idx)
      { h with acks := h.acks + (if u2.launchFar (c.put t g).die (c.put t g).vf (f.qd.toNat % 8) then 1 else 0) } none none := by
  have hw : ¬ natOfBytes bs >>> 112 ≠ 0 := by rw [Nat.shiftRight_eq_div_pow, Nat.div_eq_of_lt hres]; exact not_not_intro rfl
  have ha : ¬ (u2.launchFar (c.put t g).die (c.put t g).vf (f.qd.toNat % 8) && decide (h.acks = Config.ackLimit)) = true := by
    simpa using hacks
  refine (runSlot_runs hc _).trans (Ctx.enter_completes b ?_)
  refine (if_neg (Bool.eq_false_iff.mp hquiet)).trans ?_
  simp only [Ctx.descriptorAt, Ctx.slotLane, Ctx.put_s, Ctx.put_g, Ctx.put_r] at hread ⊢
  simp only [hrel, Act.slot, hread, hw, Nat.not_le.mpr hkernel, hsub, hroom, ha, Bool.not_true, Bool.false_eq_true, if_false]
  rfl

end

/-! ## Job cards (R308 to R311) -/

/-- The sources of a job-card opcode: its descriptor, and for a fill its value. -/
def cardUses (f : QForm) (kind : CardKind) : List Use := ⟨28, f.desc, .sl, 1⟩ :: if kind = .fill then [⟨5, f.arg, .sl, 1⟩] else []

/-- How a job-card opcode begins. -/
def cardStart (c : Ctx) (f : QForm) (kind : CardKind) (refusal : Option FaultInfo) : Start :=
  { always := false, access := true, pre := refusal, check := fun xs =>
      (if c.descriptorAt f xs % 64 ≠ 0 then some (illegalOperand 6 28 (c.descriptorAt f xs)) else none).or
        ((c.incFault f).or (c.g.pushFault f.qd.toNat kind.port)) }

/-- The output queue at which a card of the group reports, 0 when none is bound. -/
def Group.cardOutput (h : Group) (kind : CardKind) (q : Nat) : Nat := (h.outputAt (kind.port + 1) (bindInst (h.queue q).binding)).getD 0

/-- The card that a job-card opcode submits. -/
def Ctx.cardOf (d : Ctx) (f : QForm) (kind : CardKind) (h : Group) (uid w : Nat) (arg : W64) (reads writes : List Region) : Card :=
  { uid := uid, kind := kind, group := h.uid, parcel := h.parcel, vf := d.vf, core := h.core,
    out := (h.cardOutput kind f.qd.toNat, (h.queue (h.cardOutput kind f.qd.toNat)).gen),
    engine := cardEngine kind h.core (bindInst (h.queue f.qd.toNat).binding), clause := d.r.clause, slot := d.r.idx, fmt := d.p.fmt, arg := arg,
    semv := f.semv, sem := f.sem.toNat, inc := f.inc.toNat, key := BitVec.ofNat 64 (cardKey w), parts := cardParts w, cop := cardCop w,
    ety := (cardType w).getD .n8, kspec := BitVec.ofNat 168 (cardKspec w), reads := reads, writes := writes, acks := 0, state := .waiting }

section
variable {c : Ctx} {f : QForm} {kind : CardKind} {refusal : Option FaultInfo} {t u u2 : State} {g h : Group} {xs : List Src} {bs : List Byte}
  {reads writes : List Region}
  (b : c.Begins (cardStart c f kind refusal) (c.enabled f.pg f.pn) true [] (cardUses f kind) t g h xs false)
  (hbehind : t.behind g.uid = false)
  (hread : (c.put t g).readDescriptor false f.cap.toNat (g.cap f.cap.toNat) (rRead + rEngine) (c.descriptorAt f xs) 192 64 (c.slotLane f) =
    (u, .ok bs))
  (hcheck : (c.put t g).checkCard u kind (natOfBytes bs) (c.descriptorAt f xs) = (u2, .ok (reads, writes)))
  (hbreach : h.cardBreach (reads ++ writes) = none)
include b hbehind hread hcheck hbreach

/-- A card in order joins the cards of its pair. -/
theorem submitCard_submits (hroom : ((u2.pair (h.core / 2)).cards.filter Card.live).length < 64) :
    .next (slotEnd (c.submitCard f kind refusal)) = doneWith (u2.fresh.1.setPair (h.core / 2) { u2.pair (h.core / 2) with
      cards := (u2.pair (h.core / 2)).cards ++
        [(c.put t g).cardOf f kind h u2.uid (natOfBytes bs) ((xs.getD 1 fun _ => 0) (c.slotLane f)) reads writes] }) h none none := by
  unfold Ctx.submitCard
  refine Ctx.enter_completes b ?_
  simp only [Ctx.descriptorAt, Ctx.slotLane] at hread hcheck
  simp only [Ctx.notBehind, Ctx.put_s, Ctx.put_g, hbehind, hread, hcheck, hbreach, Nat.not_le.mpr hroom, Bool.false_eq_true, if_false]
  rfl

/-- With 64 live cards in the pair the slot waits. -/
theorem submitCard_waits (hfull : 64 ≤ ((u2.pair (h.core / 2)).cards.filter Card.live).length) :
    (.next (slotEnd (c.submitCard f kind refusal)) : Host.Outcome State Fault Refusal) =
      .next (slotEnd (.stop u2 g (.block .scheduler))) := by
  unfold Ctx.submitCard
  refine Ctx.enter_blocks b ?_
  simp only [Ctx.descriptorAt, Ctx.slotLane] at hread hcheck
  simp only [Ctx.notBehind, Ctx.put_s, Ctx.put_g, hbehind, hread, hcheck, hbreach, hfull, Bool.false_eq_true, if_false, if_true]

end

/-- The job-card opcodes with their kinds, and what refuses each of them in a slot of `c`. -/
def cardOpcodes (c : Ctx) (f : QForm) : List (CardKind × Instr × Option FaultInfo) :=
  [(.copy, .jccopy f, none), (.gather, .jcgath f, none), (.scatter, .jcscat f, none),
    (.collective, .jccoll f, if c.launch.hdr.sub then some (illegalOperand 6 56 0x93) else none), (.matrix, .jcmtx f, none),
    (.fill, .jcfill f, none)]

/-- Each job-card opcode submits a card of its kind. -/
theorem exec_cardOpcodes {s : State} {c : Ctx} {f : QForm} (hc : s.runs c) {kind : CardKind} {i : Instr} {refusal : Option FaultInfo}
    (hi : (kind, i, refusal) ∈ cardOpcodes c f) : exec i s = .next (slotEnd (c.submitCard f kind refusal)) := by
  simp only [cardOpcodes, List.mem_cons, Prod.mk.injEq, List.not_mem_nil, or_false] at hi
  rcases hi with ⟨rfl, rfl, rfl⟩ | ⟨rfl, rfl, rfl⟩ | ⟨rfl, rfl, rfl⟩ | ⟨rfl, rfl, rfl⟩ | ⟨rfl, rfl, rfl⟩ | ⟨rfl, rfl, rfl⟩ <;>
    exact runSlot_runs hc _

/-- Settles O34: LAUNCH appends its entry (`launch_appends`), whose bytes and whose write have lemmas of their own; a job-card opcode submits its
card, or waits for a place. -/
theorem launchesAndJobCards : Obligations.LaunchesAndJobCards := by
  unfold Obligations.LaunchesAndJobCards
  refine ⟨?_, ?_⟩
  · intro s c f t u u2 g h xs bs hc e l a d reg n k w b hquiet hrel hread hres hkernel hsub far hroom hacks q entry
    obtain ⟨hmem, hprod, hnet⟩ := appendLaunch_sends u2 (.group h.uid) (c.put t g).die (c.put t g).vf n entry c.r.clause c.r.idx
    exact ⟨⟨_, _, launch_appends hc b hquiet hrel hread hres hkernel hsub hroom hacks, hmem, hprod, hnet, rfl, rfl, rfl, rfl⟩,
      length_launchEntry _ _ _ _, launchEntry_image _ _ _ _, fun i hi => launchEntry_argument _ _ _ _ hi⟩
  · intro s c f kind i refusal t u u2 g h xs bs reads writes hc hi e l d reg k w b hbehind hread hcheck hbreach p
    have hexec := exec_cardOpcodes hc hi
    refine ⟨fun hroom => ⟨_, hexec.trans (submitCard_submits b hbehind hread hcheck hbreach hroom), ?_⟩,
      fun hfull => hexec.trans (submitCard_waits b hbehind hread hcheck hbreach hfull)⟩
    exact ⟨rfl, rfl, rfl, rfl, rfl, rfl, rfl, rfl, rfl, rfl, rfl⟩

end Sys2Proof.Machine
end

section
/-!
SUPPORT. The generator, resampling and pixel opcodes (R164, R356 to R361, R363, R364, R371, R387): results for each lane, the quads and pairs of
registers that a slot replaces, and VISAREA.
-/
namespace Sys2Proof.Machine
open Sys2Proof

/-! ## RAY-class slots with a result for each lane (R356, R357) -/

theorem headD_eq_getD (xs : List Src) : (xs.headD fun _ => 0) = xs.getD 0 fun _ => 0 := by cases xs <;> rfl

/-- A RAY-class slot with a value for each executing lane completes. -/
theorem Ctx.raySlot_lanes {c : Ctx} {o : Start} {e : W64} {dsts srcs : List Use} {t : State} {g h h' : Group} {xs : List Src}
    (b : c.Begins o e false dsts srcs t g h xs) {body : Ctx → Group → List Src → Slot} {dst : Operand} {nw : Bool} {p : Pfx} {x : Nat → W64}
    (hb : body (c.put t g) h xs = (c.put t g).result h' e dst nw p true (.lanes (laneTbl e x))) :
    .next (slotEnd (c.raySlot e dsts srcs true body o)) = (c.put t g).lanesDone e dst nw p true h' x :=
  (Ctx.enter_completes b hb).trans (Ctx.result_lanes _ _ _ _ _ _ _ _ _ fun l => get_laneTbl_eq _ _ l)

/-- A slot that begins without an operand check of its own begins with that of a mask destination that is no k0 (R66). -/
theorem Ctx.Begins.withMask {c : Ctx} {e : W64} {dsts srcs : List Use} {t : State} {g h : Group} {xs : List Src} {kd : Nat} (hk : kd ≠ 0)
    (b : c.Begins { always := false } e false dsts srcs t g h xs) :
    c.Begins { always := false, pre := kdFault kd } e false dsts srcs t g h xs := by
  rwa [show kdFault kd = none from if_neg hk]

/-- The area of the triangle whose vertices are three sources of a lane (R387). -/
def laneArea (xs : List Src) (l : Nat) : Nat :=
  let vertex (k : Nat) : SnapVertex :=
    { x := (((xs.getD k fun _ => 0) l).extractLsb' 0 32).toInt, y := (((xs.getD k fun _ => 0) l).extractLsb' 32 32).toInt, d := 0 }
  triangleArea (area2 (vertex 0) (vertex 1) (vertex 2))

theorem field_toNat (x : W64) (lo n : Nat) : field x.toNat lo n = (x.extractLsb' lo n).toNat := by
  rw [field, BitVec.extractLsb'_toNat]

section
variable {s : State} {c : Ctx} {f : VForm} {t : State} {g h : Group} {xs : List Src} (hc : s.runs c)
include hc

theorem rng_draws (b : c.Begins { always := false } (c.enabled f.pg f.pn) false [dstOf f .vq] (usesOf f 2 .vsl) t g h xs) :
    exec (.rng f) s = (c.put t g).lanesDone (c.enabled f.pg f.pn) f.dst f.nw f.pfx true h fun l =>
      (c.put t g).launch.draw ((xs.getD 0 fun _ => 0) l) (low32 ((xs.getD 1 fun _ => 0) l)) := by
  rw [← headD_eq_getD]
  exact (runSlot_runs hc _).trans (Ctx.raySlot_lanes b rfl)

/-- RNGU draws dimension d for the lower half and d + 1 for the upper. -/
theorem rngu_draws (b : c.Begins { always := false } (c.enabled f.pg f.pn) false [dstOf f .vq] (usesOf f 2 .vsl) t g h xs) :
    exec (.rngu f) s = (c.put t g).lanesDone (c.enabled f.pg f.pn) f.dst f.nw f.pfx true h fun l =>
      join32 (uniform ((c.put t g).launch.draw ((xs.getD 0 fun _ => 0) l) ((low32 ((xs.getD 1 fun _ => 0) l) + 1) % 2 ^ 32)))
        (uniform ((c.put t g).launch.draw ((xs.getD 0 fun _ => 0) l) (low32 ((xs.getD 1 fun _ => 0) l)))) := by
  rw [← headD_eq_getD]
  exact (runSlot_runs hc _).trans (Ctx.raySlot_lanes b rfl)

theorem motv_reprojects (hk : xKD f.x ≠ 0)
    (b : c.Begins { always := false } (c.enabled f.pg f.pn) false [dstOf f .onlyV] (usesOf f 3 .vsl) t g h xs) :
    let sent (l : Nat) : Option W64 := reproject ((xs.getD 0 fun _ => 0) l) ((xs.getD 1 fun _ => 0) l) ((xs.getD 2 fun _ => 0) l)
    exec (.motv f) s = (c.put t g).lanesDone (c.enabled f.pg f.pn) f.dst f.nw f.pfx true
      (h.setKreg (xKD f.x) (c.enabled f.pg f.pn) (maskOf (c.enabled f.pg f.pn) fun l => (sent l).isSome)) fun l => (sent l).getD 0 := by
  rw [← headD_eq_getD]
  exact (runSlot_runs hc _).trans (Ctx.raySlot_lanes (b.withMask hk) rfl)

theorem viscls_classifies (hk : xKD f.x ≠ 0)
    (b : c.Begins { always := false } (c.enabled f.pg f.pn) false [dstOf f .onlyV] (usesOf f 3 .vsl) t g h xs) :
    exec (.viscls f) s = (c.put t g).lanesDone (c.enabled f.pg f.pn) f.dst f.nw f.pfx true
      (h.setKreg (xKD f.x) (c.enabled f.pg f.pn) (maskOf (c.enabled f.pg f.pn) fun l =>
        fLt 0 (laneArea xs l) && fLt (laneArea xs l) (t.visarea (c.put t g).die (c.put t g).vf).toNat))
      fun l => BitVec.ofNat 64 (laneArea xs l) :=
  (runSlot_runs hc _).trans (Ctx.raySlot_lanes (b.withMask hk) rfl)

theorem hitunp_unpacks (b : c.Begins { always := false } (c.enabled f.pg f.pn) false [dstOf f .onlyV] (usesOf f 1 .vslq) t g h xs) :
    exec (.hitunp f) s = (c.put t g).lanesDone (c.enabled f.pg f.pn) f.dst f.nw f.pfx true h fun l =>
      join32 (fRound (.fin false (((xs.getD 0 fun _ => 0) l).extractLsb' 48 16).toNat (-16)))
        (fRound (.fin false (((xs.getD 0 fun _ => 0) l).extractLsb' 32 16).toNat (-16))) := by
  simp only [← headD_eq_getD, ← field_toNat]
  exact (runSlot_runs hc _).trans (Ctx.raySlot_lanes b rfl)

end

/-! ## Registers replaced lane by lane -/

/-- A fold over lanes of an operation that changes v registers only changes v registers only. -/
theorem Group.foldLanes_frame {put : Group → Nat → Group} (hput : ∀ (g : Group) (l : Nat), g.sameButV (put g l)) (ls : List Nat) (g : Group) :
    g.sameButV (ls.foldl put g) := by
  induction ls generalizing g with
  | nil => exact .refl g
  | cons l ls ih => exact (hput g l).trans (ih _)

/-- What a fold over the lanes of a mask leaves, when its operation writes `val n l` to the registers `n` that `rows` picks of lane `l`. -/
theorem Group.vreg_foldLanes {put : Group → Nat → Group} {rows : Nat → Prop} [DecidablePred rows] {val : Nat → Nat → W64}
    (hput : ∀ (g : Group) (l n l' : Nat), l < 64 → l' < 64 → (put g l).vreg n l' = if l' = l ∧ rows n then val n l' else g.vreg n l')
    (m : W64) (g : Group) (n l : Nat) (hl : l < 64) :
    ((lanes m).foldl put g).vreg n l = if m.getLsbD l = true ∧ rows n then val n l else g.vreg n l := by
  have hfold : ∀ (ls : List Nat) (g : Group), (∀ x ∈ ls, x < 64) →
      (ls.foldl put g).vreg n l = if l ∈ ls ∧ rows n then val n l else g.vreg n l := by
    intro ls
    induction ls with
    | nil => intro g _; simp
    | cons x ls ih =>
        intro g hb
        rw [List.foldl_cons, ih _ fun y hy => hb y (List.mem_cons_of_mem _ hy), hput g x n l (hb x List.mem_cons_self) hl]
        by_cases hmem : l ∈ ls <;> by_cases hx : l = x <;> by_cases hn : rows n <;> simp [hmem, hx, hn]
  rw [hfold _ _ fun x hx => BitVec.lt_of_getLsbD ((mem_lanes m x).mp hx)]
  simp only [mem_lanes]

/-! ## Quads (R360, R361) -/

theorem Group.setQuad_eq (g : Group) (o : Operand) (l x : Nat) :
    g.setQuad o l x = (((g.setVreg (vregOf o + 0) l (BitVec.ofNat 64 (x >>> (64 * 0)))).setVreg (vregOf o + 1) l
      (BitVec.ofNat 64 (x >>> (64 * 1)))).setVreg (vregOf o + 2) l (BitVec.ofNat 64 (x >>> (64 * 2)))).setVreg (vregOf o + 3) l
      (BitVec.ofNat 64 (x >>> (64 * 3))) := rfl

theorem Group.setQuad_frame (g : Group) (o : Operand) (l x : Nat) : g.sameButV (g.setQuad o l x) := ⟨_, rfl⟩

theorem Group.vreg_setQuad (g : Group) (o : Operand) (x l n l' : Nat) (hl : l < 64) (hl' : l' < 64) :
    (g.setQuad o l x).vreg n l' =
      if l' = l ∧ (vregOf o ≤ n ∧ n < vregOf o + 4) then BitVec.ofNat 64 (x >>> (64 * (n - vregOf o))) else g.vreg n l' := by
  rw [Group.setQuad_eq]
  generalize vregOf o = r
  simp only [Group.vreg_setVreg _ _ _ _ _ _ hl hl']
  by_cases hin : r ≤ n ∧ n < r + 4
  · obtain ⟨i, rfl⟩ := Nat.exists_eq_add_of_le hin.1
    have hi : i < 4 := by omega
    interval_cases i <;> simp [hin]
  · have h0 : n ≠ r + 0 := by omega
    have h1 : n ≠ r + 1 := by omega
    have h2 : n ≠ r + 2 := by omega
    have h3 : n ≠ r + 3 := by omega
    simp only [h0, h1, h2, h3, hin, false_and, and_false, if_false]

/-- A quad is the number whose words stand in its registers. -/
theorem Group.quad_of_words {g : Group} {o : Operand} {l x : Nat} (hx : x < 2 ^ 256)
    (hw : ∀ i, i < 4 → g.vreg (vregOf o + i) l = BitVec.ofNat 64 (x >>> (64 * i))) : g.quad o l = x := by
  have h0 : g.vreg (vregOf o) l = _ := hw 0 (by decide)
  simp only [Group.quad, h0, hw 1 (by decide), hw 2 (by decide), hw 3 (by decide), BitVec.toNat_ofNat, Nat.shiftRight_eq_div_pow]
  omega

theorem Reservoir.toNat_lt (r : Reservoir) : r.toNat < 2 ^ 256 := by
  have hsamp : (if r.samp then 2 ^ 220 else 0) ≤ 2 ^ 220 := by split <;> decide
  unfold Reservoir.toNat
  omega

/-- The group `h` with the quad `x l` of the operand in each lane of `e`. -/
def Group.putQuads (h : Group) (e : W64) (o : Operand) (x : Nat → Nat) : Group := (lanes e).foldl (fun h l => h.setQuad o l (x l)) h

theorem Group.putQuads_frame (h : Group) (e : W64) (o : Operand) (x : Nat → Nat) : { h.putQuads e o x with v := h.v } = h :=
  (Group.foldLanes_frame (fun g l => g.setQuad_frame o l (x l)) (lanes e) h).restore

theorem Group.vreg_putQuads (h : Group) (e : W64) (o : Operand) (x : Nat → Nat) (n l : Nat) (hl : l < 64) :
    (h.putQuads e o x).vreg n l = if e.getLsbD l = true ∧ (vregOf o ≤ n ∧ n < vregOf o + 4) then
      BitVec.ofNat 64 (x l >>> (64 * (n - vregOf o))) else h.vreg n l := by
  refine Group.vreg_foldLanes (rows := fun n => vregOf o ≤ n ∧ n < vregOf o + 4) (val := fun n l => BitVec.ofNat 64 (x l >>> (64 * (n - vregOf o))))
    (fun g l n l' hl hl' => ?_) e h n l hl
  rw [Group.vreg_setQuad g o (x l) l n l' hl hl']
  by_cases hll : l' = l
  · rw [hll]
  · simp only [hll, false_and, if_false]

/-- The quad of an executing lane is the new one. -/
theorem Group.quad_putQuads (h : Group) {e : W64} (o : Operand) {x : Nat → Nat} {l : Nat} (hx : x l < 2 ^ 256) (hl : e.getLsbD l = true) :
    (h.putQuads e o x).quad o l = x l := by
  refine Group.quad_of_words hx fun i hi => ?_
  rw [h.vreg_putQuads e o x _ l (BitVec.lt_of_getLsbD hl), if_pos ⟨hl, by omega, by omega⟩, Nat.add_sub_cancel_left]

/-- The registers around the quads, and those of the other lanes, stay. -/
theorem Group.vreg_putQuads_other (h : Group) {e : W64} (o : Operand) (x : Nat → Nat) {n l : Nat} (hl : l < 64)
    (hn : e.getLsbD l = false ∨ n < vregOf o ∨ vregOf o + 4 ≤ n) : (h.putQuads e o x).vreg n l = h.vreg n l := by
  rw [h.vreg_putQuads e o x n l hl, if_neg]
  rintro ⟨he, hlo, hhi⟩
  rcases hn with hn | hn | hn
  · exact absurd he (Bool.eq_false_iff.mp hn)
  · omega
  · omega

/-- A resampling slot replaces the record of each executing lane. -/
theorem Ctx.resample_completes {c : Ctx} {f : VForm} {srcs : List Use} {t : State} {g h : Group} {xs : List Src}
    (b : c.Begins { always := false } (c.enabled f.pg f.pn) false [quadUse 36 f.dst] (srcs ++ [quadUse 36 f.dst]) t g h xs)
    (step : Ctx → List Src → Nat → Reservoir → Reservoir) {new : Nat → Nat}
    (hnew : ∀ l, (step (c.put t g) xs l (.ofNat (g.quad f.dst l))).toNat = new l) :
    .next (slotEnd (c.resample f srcs step)) =
      doneWith t (h.putQuads (c.enabled f.pg f.pn) f.dst new) (some (laneTbl (c.enabled f.pg f.pn) fun l => BitVec.ofNat 64 (new l))) none := by
  obtain rfl := funext hnew
  unfold Ctx.resample Ctx.raySlot
  exact Ctx.enter_completes b rfl

/-- The resampling opcodes with their sources and the record that each makes of a lane's old one. -/
def resamplers (d : Ctx) (f : VForm) (xs : List Src) : List (Instr × List Use × (Nat → Reservoir → Reservoir)) :=
  [(.rsvinit f, usesOf f 1 .vsl, fun l _ => Reservoir.init (low32 ((xs.getD 0 fun _ => 0) l)) (f.x.extractLsb' 0 4).toNat),
    (.rsvupd f, [quadUse 27 f.sa, ⟨18, f.sb, .vsl, 1⟩],
      fun l a => a.update (.ofNat (d.g.quad f.sa l)) d.launch ((xs.getD 1 fun _ => 0) l)),
    (.rsvmrg f, [quadUse 27 f.sa, ⟨18, f.sb, .vsl, 1⟩, ⟨9, f.sc, .vsl, 1⟩],
      fun l a => a.merge (.ofNat (d.g.quad f.sa l)) d.launch ((xs.getD 1 fun _ => 0) l) (low32 ((xs.getD 2 fun _ => 0) l))),
    (.rsvnrm f, [], fun _ a => a.normal)]

/-- Each resampling opcode replaces its quads by the record that `resamplers` gives. -/
theorem resamplers_complete {s : State} {c : Ctx} {f : VForm} {t : State} {g h : Group} {xs : List Src} (hc : s.runs c) {i : Instr}
    {srcs : List Use} {step : Nat → Reservoir → Reservoir} (hi : (i, srcs, step) ∈ resamplers (c.put t g) f xs)
    (b : c.Begins { always := false } (c.enabled f.pg f.pn) false [quadUse 36 f.dst] (srcs ++ [quadUse 36 f.dst]) t g h xs) :
    let new (l : Nat) : Nat := (step l (.ofNat (g.quad f.dst l))).toNat
    exec i s =
      doneWith t (h.putQuads (c.enabled f.pg f.pn) f.dst new) (some (laneTbl (c.enabled f.pg f.pn) fun l => BitVec.ofNat 64 (new l))) none := by
  simp only [resamplers, List.mem_cons, Prod.mk.injEq, List.not_mem_nil, or_false] at hi
  rcases hi with ⟨rfl, rfl, rfl⟩ | ⟨rfl, rfl, rfl⟩ | ⟨rfl, rfl, rfl⟩ | ⟨rfl, rfl, rfl⟩
  · refine (runSlot_runs hc _).trans (Ctx.resample_completes b _ fun l => ?_)
    rw [headD_eq_getD]
  all_goals exact (runSlot_runs hc _).trans (Ctx.resample_completes b _ fun _ => rfl)

/-! ## RAYORG (R371) -/

/-- The two registers that RAYORG writes in lane `l`: the moved x and y, and the moved z beside the old upper half. -/
def rayFirst (g : Group) (f : VForm) (l : Nat) : W64 :=
  join32 (rayOffset (high32 (g.quadReg f.sa 0 l)) (high32 (g.quadReg f.sb 0 l)))
    (rayOffset (low32 (g.quadReg f.sa 0 l)) (low32 (g.quadReg f.sb 0 l)))
def raySecond (g : Group) (f : VForm) (l : Nat) : W64 :=
  join32 (high32 (g.quadReg f.dst 1 l)) (rayOffset (low32 (g.quadReg f.sa 1 l)) (low32 (g.quadReg f.sb 1 l)))

/-- The group `h` with the pair of registers `x l` and `y l` from `r` in each lane of `e`. -/
def Group.putPairs (h : Group) (e : W64) (r : Nat) (x y : Nat → W64) : Group :=
  (lanes e).foldl (fun h l => (h.setVreg r l (x l)).setVreg (r + 1) l (y l)) h

theorem Group.putPairs_frame (h : Group) (e : W64) (r : Nat) (x y : Nat → W64) : { h.putPairs e r x y with v := h.v } = h :=
  (Group.foldLanes_frame (fun _ _ => ⟨_, rfl⟩) (lanes e) h).restore

theorem Group.vreg_putPairs (h : Group) {e : W64} (r : Nat) (x y : Nat → W64) {l : Nat} (hl : e.getLsbD l = true) :
    (h.putPairs e r x y).vreg r l = x l ∧ (h.putPairs e r x y).vreg (r + 1) l = y l := by
  have hv (n : Nat) : (h.putPairs e r x y).vreg n l =
      if e.getLsbD l = true ∧ (n = r ∨ n = r + 1) then (if n = r then x l else y l) else h.vreg n l := by
    refine Group.vreg_foldLanes (rows := fun n => n = r ∨ n = r + 1) (val := fun n l => if n = r then x l else y l)
      (fun g l n l' hl hl' => ?_) e h n l (BitVec.lt_of_getLsbD hl)
    simp only [Group.vreg_setVreg _ _ _ _ _ _ hl hl']
    by_cases hll : l' = l
    · subst hll
      by_cases hr : n = r <;> simp [hr]
    · simp only [hll, and_false, false_and, if_false]
  exact ⟨by rw [hv, if_pos ⟨hl, .inl rfl⟩, if_pos rfl], by rw [hv, if_pos ⟨hl, .inr rfl⟩, if_neg (Nat.succ_ne_self r)]⟩

theorem rayorg_moves {s : State} {c : Ctx} {f : VForm} {t : State} {g h : Group} {xs : List Src} (hc : s.runs c)
    (b : c.Begins { always := false } (c.enabled f.pg f.pn) false [pairUse 36 f.dst] [pairUse 27 f.sa, pairUse 18 f.sb, pairUse 36 f.dst] t g h xs) :
    exec (.rayorg f) s = doneWith t (h.putPairs (c.enabled f.pg f.pn) (vregOf f.dst) (rayFirst g f) (raySecond g f))
      (some (laneTbl (c.enabled f.pg f.pn) (rayFirst g f))) none :=
  (runSlot_runs hc _).trans (Ctx.enter_completes b rfl)

/-! ## VISW (R387) -/

/-- The state with VISAREA of a die for a function written. -/
def State.setVisarea (s : State) (die vf : Nat) (x : W32) : State :=
  s.setDie die { s.die die with visarea := Tbl.put 0x42000000 (s.die die).visarea vf x }

theorem State.visarea_setVisarea (s : State) (die vf : Nat) (x : W32) : (s.setVisarea die vf x).visarea die vf = x := by
  rw [State.visarea, State.setVisarea, State.die_setDie, Tbl.get_put_same]

theorem State.visarea_setVisarea_other (s : State) {die vf : Nat} (x : W32) {n m : Nat} (h : n ≠ die ∨ m ≠ vf) :
    (s.setVisarea die vf x).visarea n m = s.visarea n m := by
  by_cases hn : n = die
  · subst hn
    have hm : m ≠ vf := h.resolve_left (absurd rfl)
    rw [State.visarea, State.setVisarea, State.die_setDie, Tbl.get_put_other _ _ _ _ _ hm, State.visarea]
  · rw [State.visarea, State.setVisarea, State.die, State.setDie, Tbl.get_put_other _ _ _ _ _ hn]
    rfl

/-- The value that VISW writes. -/
def viswValue (c : Ctx) (f : VForm) (xs : List Src) : W64 := (xs.headD fun _ => 0) ((lowest (c.enabled f.pg f.pn)).getD 0)

/-- How VISW begins. -/
def viswStart (c : Ctx) (f : VForm) : Start :=
  { always := false, pre := c.subRefusal 0xDF,
    check := fun xs => faultIf (high32 (viswValue c f xs) ≠ 0) (illegalOperand 6 27 (viswValue c f xs).toNat) }

theorem visw_writes {s : State} {c : Ctx} {f : VForm} {t : State} {g h : Group} {xs : List Src} (hc : s.runs c)
    (b : c.Begins (viswStart c f) (c.enabled f.pg f.pn) false [] (usesOf f 1 .sl) t g h xs false) :
    exec (.visw f) s = doneWith (t.setVisarea (c.put t g).die (c.put t g).vf ((viswValue c f xs).setWidth 32)) h none none :=
  (runSlot_runs hc _).trans (Ctx.enter_completes b rfl)

/-- Settles O38: the opcodes with a result for each lane, the resampling opcodes by the quads that they replace, RAYORG by its pairs, and VISW. -/
theorem generatorAndPixelOpcodes : Obligations.GeneratorAndPixelOpcodes := by
  unfold Obligations.GeneratorAndPixelOpcodes
  refine ⟨?_, ?_⟩
  · intro s c f t g h xs hc e d v
    refine ⟨fun b _ => ⟨rng_draws hc b, rngu_draws hc b⟩, fun r hr i srcs step hi b => ?_⟩
    have hv : vregOf f.dst = r.toNat := by rw [hr]; rfl
    refine ⟨_, resamplers_complete hc hi b, h.putQuads_frame _ _ _, fun l hl => h.quad_putQuads f.dst (Reservoir.toNat_lt _) hl,
      fun n l hl hn => h.vreg_putQuads_other f.dst _ hl ?_⟩
    rwa [hv]
  · intro s c f t g h xs hc _ e d v kd
    refine ⟨fun hk b => ⟨motv_reprojects hc hk b, viscls_classifies hc hk b⟩, hitunp_unpacks hc, fun r hr b => ?_, fun b => ?_⟩
    · have hv : vregOf f.dst = r.toNat := by rw [hr]; rfl
      refine ⟨_, rayorg_moves hc b, h.putPairs_frame _ _ _ _, fun l hl => ?_⟩
      obtain ⟨hfirst, hsecond⟩ := h.vreg_putPairs (vregOf f.dst) (rayFirst g f) (raySecond g f) hl
      rw [hv] at hfirst hsecond ⊢
      refine ⟨hfirst, hsecond.trans ?_⟩
      rw [raySecond, Group.quadReg, hv]
      rfl
    · exact ⟨_, visw_writes hc b, State.visarea_setVisarea _ _ _ _, fun n m => State.visarea_setVisarea_other _ _, rfl⟩

end Sys2Proof.Machine
end

section
/-!
SUPPORT. Integer elements: patterns and values, results wrapped or clamped, quotients and remainders (R58, R182, R183).
-/
namespace Sys2Proof

/-! ## Widths of the element types (R58) -/

theorem ElemType.two_pow_width (t : ElemType) : 2 ^ t.width = 2 * 2 ^ (t.width - 1) := by
  rw [← pow_succ', Nat.sub_add_cancel (by cases t <;> decide)]

theorem ElemType.isFloat_of_isInt {t : ElemType} (h : t.isInt = true) : t.isFloat = false := by
  revert h
  cases t <;> decide

namespace Machine

/-! ## Patterns and values of integers (R182) -/

theorem intOf_modEq (t : ElemType) (a : Nat) : intOf t a ≡ a [ZMOD 2 ^ t.width] := by
  unfold intOf
  split
  · simp [Int.ModEq]
  · rfl

theorem wrapInt_congr {w : Nat} {x y : Int} (h : x ≡ y [ZMOD 2 ^ w]) : wrapInt w x = wrapInt w y := by
  rw [wrapInt, wrapInt, h]

theorem wrapInt_natCast (w n : Nat) : wrapInt w n = n % 2 ^ w := by
  unfold wrapInt
  norm_cast

theorem natCast_wrapInt (w : Nat) (x : Int) : (wrapInt w x : Int) = x % 2 ^ w :=
  Int.toNat_of_nonneg (Int.emod_nonneg _ (by positivity))

theorem wrapInt_lt (w : Nat) (x : Int) : wrapInt w x < 2 ^ w := by
  zify
  rw [natCast_wrapInt]
  exact Int.emod_lt_of_pos _ (by positivity)

/-- The sign bit splits the patterns of a signed type at half of their range. -/
theorem intOf_eq {t : ElemType} {a : Nat} (ha : a < 2 ^ t.width) :
    intOf t a = if t.isSigned = true ∧ 2 ^ (t.width - 1) ≤ a then (a : Int) - 2 ^ t.width else a := by
  have hbit : a.testBit (t.width - 1) = decide (2 ^ (t.width - 1) ≤ a) := by
    by_cases h : 2 ^ (t.width - 1) ≤ a
    · rw [Nat.testBit_of_two_pow_le_and_two_pow_add_one_gt h (by rw [pow_succ', ← t.two_pow_width]; exact ha), decide_eq_true h]
    · rw [Nat.testBit_lt_two_pow (Nat.lt_of_not_le h), decide_eq_false h]
  simp [intOf, hbit]

/-- The range of a type, by half the number of its patterns. -/
theorem minInt_maxInt (t : ElemType) :
    (t.isSigned = true ∧ minInt t = -2 ^ (t.width - 1) ∧ maxInt t = 2 ^ (t.width - 1) - 1) ∨
    (t.isSigned = false ∧ minInt t = 0 ∧ maxInt t = 2 * 2 ^ (t.width - 1) - 1) := by
  have hw := t.two_pow_width
  zify at hw
  cases h : t.isSigned <;> simp [minInt, maxInt, h, hw]

theorem intOf_mem_range {t : ElemType} {a : Nat} (ha : a < 2 ^ t.width) : minInt t ≤ intOf t a ∧ intOf t a ≤ maxInt t := by
  have hw := t.two_pow_width
  zify at ha hw
  rw [intOf_eq (by exact_mod_cast ha)]
  obtain ⟨hs, hlo, hhi⟩ | ⟨hs, hlo, hhi⟩ := minInt_maxInt t
  · simp only [hs, true_and]
    split
    next h => zify at h; omega
    next h => zify at h; omega
  · simp only [hs, Bool.false_eq_true, false_and, if_false]
    omega

theorem intOf_wrapInt {t : ElemType} {x : Int} (hlo : minInt t ≤ x) (hhi : x ≤ maxInt t) : intOf t (wrapInt t.width x) = x := by
  have hdvd : (2 ^ t.width : Int) ∣ intOf t (wrapInt t.width x) - x :=
    ((intOf_modEq t _).trans (by rw [natCast_wrapInt]; exact Int.mod_modEq _ _)).symm.dvd
  obtain ⟨hlo', hhi'⟩ := intOf_mem_range (t := t) (wrapInt_lt t.width x)
  have hwide : maxInt t - minInt t < 2 ^ t.width := by
    have hw := t.two_pow_width
    zify at hw
    obtain ⟨-, h1, h2⟩ | ⟨-, h1, h2⟩ := minInt_maxInt t <;> omega
  have hzero := Int.eq_zero_of_abs_lt_dvd hdvd (abs_lt.mpr ⟨by omega, by omega⟩)
  omega

/-! ## Exact results, wrapped or clamped (R182) -/

theorem zero_mem_range (t : ElemType) : minInt t ≤ 0 ∧ 0 ≤ maxInt t := by
  have h := intOf_mem_range (t := t) (a := 0) (by positivity)
  simpa [intOf] using h

theorem minInt_le_maxInt (t : ElemType) : minInt t ≤ maxInt t := (zero_mem_range t).elim le_trans

theorem clampInt_eq (t : ElemType) (x : Int) : clampInt t x = max (minInt t) (min (maxInt t) x) := by
  have h := minInt_le_maxInt t
  unfold clampInt
  split
  · omega
  · split <;> omega

theorem intOf_intResult_true (t : ElemType) (x : Int) : intOf t (intResult t true x) = max (minInt t) (min (maxInt t) x) := by
  rw [← clampInt_eq]
  refine intOf_wrapInt ?_ ?_ <;> rw [if_pos rfl, clampInt_eq]
  · exact le_max_left _ _
  · exact max_le (minInt_le_maxInt t) (min_le_left _ _)

/-- A result within the range of its type is left as it is. -/
theorem intOf_intResult {t : ElemType} {x : Int} (sat : Bool) (hlo : minInt t ≤ x) (hhi : x ≤ maxInt t) :
    intOf t (intResult t sat x) = x := by
  cases sat with
  | false => exact intOf_wrapInt hlo hhi
  | true => rw [intOf_intResult_true, min_eq_right hhi, max_eq_right hlo]

theorem intResult_false {t : ElemType} {x : Int} {n : Nat} (h : x ≡ n [ZMOD 2 ^ t.width]) : intResult t false x = n % 2 ^ t.width :=
  (wrapInt_congr h).trans (wrapInt_natCast _ _)

section
variable {t : ElemType} (ht : t.isInt = true) (sat : Bool) (fe : FEnv) (a b : Nat)
include ht

theorem elAdd_bits : (elAdd t sat fe a b).bits = intResult t sat (intOf t a + intOf t b) := by
  rw [elAdd, if_neg (by simp [ElemType.isFloat_of_isInt ht]), El.of]

theorem elSub_bits : (elSub t sat fe a b).bits = intResult t sat (intOf t a - intOf t b) := by
  rw [elSub, if_neg (by simp [ElemType.isFloat_of_isInt ht]), El.of]

theorem elMul_bits : (elMul t sat fe a b).bits = intResult t sat (intOf t a * intOf t b) := by
  rw [elMul, if_neg (by simp [ElemType.isFloat_of_isInt ht]), El.of]

end

theorem intOf_sub_modEq (t : ElemType) (a : Nat) {b : Nat} (hb : b < 2 ^ t.width) :
    intOf t a - intOf t b ≡ (a + (2 ^ t.width - b) : Nat) [ZMOD 2 ^ t.width] := by
  have h : ((a + (2 ^ t.width - b) : Nat) : Int) = a - b + 2 ^ t.width := by
    push_cast [hb.le]
    ring
  rw [h]
  exact ((intOf_modEq t a).sub (intOf_modEq t b)).trans (by simp [Int.ModEq])

/-! ## Division (R183) -/

theorem elDiv_bits (t : ElemType) (sat : Bool) (a : Nat) {b : Nat} (hb : b ≠ 0) :
    (elDiv t sat a b).bits = intResult t sat ((intOf t a).tdiv (intOf t b)) := by
  rw [elDiv, if_neg hb, El.of]

theorem elRem_bits (t : ElemType) (a : Nat) {b : Nat} (hb : b ≠ 0) :
    (elRem t a b).bits = wrapInt t.width ((intOf t a).tmod (intOf t b)) := by
  rw [elRem, if_neg hb, El.of]

/-- A remainder lies between zero and the dividend. -/
theorem tmod_mem_range {t : ElemType} {x : Int} (hlo : minInt t ≤ x) (hhi : x ≤ maxInt t) (y : Int) :
    minInt t ≤ x.tmod y ∧ x.tmod y ≤ maxInt t := by
  obtain ⟨hmin, hmax⟩ := zero_mem_range t
  have habs : (x.tmod y).natAbs ≤ x.natAbs := by
    rw [Int.natAbs_tmod]
    exact Nat.mod_le _ _
  obtain hx | hx := le_total 0 x
  · have hsign := Int.tmod_nonneg y hx
    omega
  · have hsign := Int.tmod_nonneg y (Int.neg_nonneg_of_nonpos hx)
    rw [Int.neg_tmod] at hsign
    omega

/-- Beside −1 and 1 a divisor halves the dividend at least. -/
theorem natAbs_tdiv_le_half (x : Int) {y : Int} (hy : 2 ≤ y.natAbs) : (x.tdiv y).natAbs ≤ x.natAbs / 2 := by
  rw [Int.natAbs_tdiv]
  exact Nat.div_le_div_left hy (by decide)

/-- The one quotient outside the range is that of the least value and −1. -/
theorem tdiv_mem_range {t : ElemType} {x y : Int} (hlo : minInt t ≤ x) (hhi : x ≤ maxInt t) (hy : minInt t ≤ y)
    (hover : ¬(t.isSigned = true ∧ x = minInt t ∧ y = -1)) : minInt t ≤ x.tdiv y ∧ x.tdiv y ≤ maxInt t := by
  obtain ⟨hs, hmin, hmax⟩ | ⟨hs, hmin, hmax⟩ := minInt_maxInt t
  · have hhalf : (0 : Int) < 2 ^ (t.width - 1) := by positivity
    by_cases hbig : 2 ≤ y.natAbs
    · have h := natAbs_tdiv_le_half x hbig
      omega
    · obtain rfl | rfl | rfl : y = -1 ∨ y = 0 ∨ y = 1 := by omega
      · have hx : x ≠ minInt t := fun h => hover ⟨hs, h, rfl⟩
        rw [Int.tdiv_neg, Int.tdiv_one]
        omega
      · rw [Int.tdiv_zero]
        exact zero_mem_range t
      · rw [Int.tdiv_one]
        exact ⟨hlo, hhi⟩
  · rw [hmin] at hlo hy ⊢
    exact ⟨Int.tdiv_nonneg hlo hy, (Int.tdiv_le_self y hlo).trans hhi⟩

/-- The quotient of the least value and −1 is one above the range: it wraps to the least value again. -/
theorem intOf_wrapInt_neg_minInt {t : ElemType} (ht : t.isSigned = true) : intOf t (wrapInt t.width (-minInt t)) = minInt t := by
  have hmod : -minInt t ≡ minInt t [ZMOD 2 ^ t.width] := by
    refine Int.modEq_iff_dvd.mpr ⟨-1, ?_⟩
    have hw := t.two_pow_width
    zify at hw
    rw [hw, minInt, if_pos ht]
    ring
  rw [wrapInt_congr hmod]
  exact intOf_wrapInt le_rfl (minInt_le_maxInt t)

/-- Settles O14: exact results modulo 2^w or clamped; only the quotient of the least value and −1 leaves the range. -/
theorem integerElementArithmetic : Obligations.IntegerElementArithmetic := by
  unfold Obligations.IntegerElementArithmetic
  intro t fe a b ht ha hb lo hi clamp
  obtain ⟨haLo, haHi⟩ := intOf_mem_range ha
  obtain ⟨hbLo, hbHi⟩ := intOf_mem_range hb
  rw [elAdd_bits ht, elSub_bits ht, elMul_bits ht, elAdd_bits ht, elSub_bits ht, elMul_bits ht]
  refine ⟨intResult_false ?_, intResult_false (intOf_sub_modEq t a hb), intResult_false ?_, intOf_intResult_true t _,
    intOf_intResult_true t _, intOf_intResult_true t _, ?_, fun hb0 => ⟨?_, fun hover sat => ?_, fun hs halo hbneg => ?_⟩⟩
  · exact_mod_cast (intOf_modEq t a).add (intOf_modEq t b)
  · exact_mod_cast (intOf_modEq t a).mul (intOf_modEq t b)
  · rintro rfl sat
    exact ⟨rfl, rfl⟩
  · obtain ⟨hlo, hhi⟩ := tmod_mem_range haLo haHi (intOf t b)
    rw [elRem_bits t a hb0, intOf_wrapInt hlo hhi]
  · obtain ⟨hlo, hhi⟩ := tdiv_mem_range haLo haHi hbLo hover
    rw [elDiv_bits t sat a hb0, intOf_intResult sat hlo hhi]
  · have hquot : (intOf t a).tdiv (intOf t b) = -minInt t := by
      rw [halo, hbneg, Int.tdiv_neg, Int.tdiv_one]
      rfl
    rw [elDiv_bits t _ a hb0, elDiv_bits t _ a hb0, hquot]
    refine ⟨intOf_wrapInt_neg_minInt hs, (intOf_intResult_true t _).trans ?_⟩
    have hle : maxInt t ≤ -minInt t := by
      obtain ⟨-, hmin, hmax⟩ | ⟨hu, -⟩ := minInt_maxInt t
      · omega
      · exact absurd hs (by simp [hu])
    rw [min_eq_left hle, max_eq_right (minInt_le_maxInt t)]
    rfl

end Machine
end Sys2Proof
end

section
/-!
SUPPORT. Rounding: a magnitude rounded to an integer, the magnitudes of the patterns of a format, and the pattern that each mode names
(R168, R172).
-/
namespace Sys2Proof.Machine
open Sys2Proof

/-! ## Rounding to an integer magnitude (R172) -/

section
variable (m : Nat) (neg : Bool)

/-- A magnitude without fraction digits is an integer, which every mode leaves as it is. -/
theorem roundInt_of_nonneg (rm : Rnd) {e : Int} (he : 0 ≤ e) : (roundInt rm neg m e : ℚ) = m * (2 : ℚ) ^ e := by
  obtain ⟨n, rfl⟩ := Int.eq_ofNat_of_zero_le he
  simp [roundInt, Nat.shiftLeft_eq]

/-- A magnitude with fraction digits is the integer of the others and a remainder below 1. -/
theorem roundInt_of_neg {e : Int} (he : e < 0) :
    ∃ k r u : Nat, 0 < u ∧ r < u ∧ (m : ℚ) * (2 : ℚ) ^ e = k + r / u ∧
      ∀ rm neg, roundInt rm neg m e = if goesUp rm neg k r u then k + 1 else k := by
  obtain ⟨n, rfl⟩ : ∃ n : Nat, e = -n := ⟨e.natAbs, by omega⟩
  refine ⟨m / 2 ^ n, m % 2 ^ n, 2 ^ n, by positivity, Nat.mod_lt _ (by positivity), ?_, fun rm neg => ?_⟩
  · have h : (m : ℚ) = 2 ^ n * (m / 2 ^ n : Nat) + (m % 2 ^ n : Nat) := by exact_mod_cast (Nat.div_add_mod m _).symm
    rw [zpow_neg, zpow_natCast, ← div_eq_mul_inv]
    conv_lhs => rw [h]
    push_cast
    field_simp
  · rw [roundInt, if_neg (by omega), neg_neg, Int.toNat_natCast, roundShift, Nat.shiftRight_eq_div_pow]

theorem roundInt_rtz (e : Int) :
    (roundInt .rtz neg m e : ℚ) ≤ m * (2 : ℚ) ^ e ∧ (m : ℚ) * (2 : ℚ) ^ e < roundInt .rtz neg m e + 1 := by
  obtain he | he := le_or_gt 0 e
  · rw [roundInt_of_nonneg m neg .rtz he]
    exact ⟨le_rfl, by linarith⟩
  · obtain ⟨k, r, u, hu, hr, hx, hround⟩ := roundInt_of_neg m he
    have hfrac : (r : ℚ) / u < 1 := (div_lt_one (by exact_mod_cast hu)).mpr (by exact_mod_cast hr)
    have hnonneg : 0 ≤ (r : ℚ) / u := by positivity
    rw [hround, hx]
    simp only [goesUp, Bool.false_eq_true, if_false]
    exact ⟨by linarith, by linarith⟩

/-- Upward an integer stays and any other magnitude takes the integer above it. -/
theorem roundInt_rup (e : Int) :
    roundInt .rup false m e = roundInt .rtz false m e ∧ (m : ℚ) * (2 : ℚ) ^ e = roundInt .rtz false m e ∨
    roundInt .rup false m e = roundInt .rtz false m e + 1 ∧ (roundInt .rtz false m e : ℚ) < m * (2 : ℚ) ^ e := by
  obtain he | he := le_or_gt 0 e
  · simp [← roundInt_of_nonneg m false .rtz he, roundInt, he]
  · obtain ⟨k, r, u, hu, hr, hx, hround⟩ := roundInt_of_neg m he
    rw [hround, hround, hx]
    obtain rfl | hpos := Nat.eq_zero_or_pos r
    · exact .inl (by simp [goesUp])
    · have hfrac : 0 < (r : ℚ) / u := by positivity
      exact .inr (by simp [goesUp, hpos.ne', hfrac])

/-- RNE goes up from the middle on or above it, and down from the middle or below it. -/
theorem roundInt_rne (e : Int) :
    roundInt .rne neg m e = roundInt .rtz neg m e ∧ (m : ℚ) * (2 : ℚ) ^ e ≤ roundInt .rtz neg m e + 1 / 2 ∨
    roundInt .rne neg m e = roundInt .rtz neg m e + 1 ∧ roundInt .rtz neg m e + 1 / 2 ≤ (m : ℚ) * (2 : ℚ) ^ e := by
  obtain he | he := le_or_gt 0 e
  · simp [← roundInt_of_nonneg m neg .rtz he, roundInt, he]
  · obtain ⟨k, r, u, hu, hr, hx, hround⟩ := roundInt_of_neg m he
    have hu' : (0 : ℚ) < u := by exact_mod_cast hu
    rw [hround, hround, hx, show goesUp .rtz neg k r u = false from rfl]
    cases hup : goesUp .rne neg k r u with
    | false =>
      have h : r * 2 ≤ 1 * u := by
        simp only [goesUp, Bool.or_eq_false_iff, decide_eq_false_iff_not, not_lt] at hup
        omega
      refine .inl ⟨rfl, add_le_add_right ?_ _⟩
      rw [div_le_div_iff₀ hu' two_pos]
      exact_mod_cast h
    | true =>
      have h : 1 * u ≤ r * 2 := by
        simp only [goesUp, Bool.or_eq_true, decide_eq_true_eq, Bool.and_eq_true] at hup
        omega
      refine .inr ⟨rfl, add_le_add_right ?_ _⟩
      rw [div_le_div_iff₀ two_pos hu']
      exact_mod_cast h

end

/-! ## The magnitudes of the patterns of a format (R168) -/

/-- The exponent of the least magnitude of a format above 0. -/
def Fmt.qmin (F : Fmt) : Int := 1 - (F.bias : Int) - F.f

/-- A pattern as a number `k` of units of 2^(qmin + t): `k` has a leading one at or above the fraction, or `t` is 0. -/
theorem formatMagnitude_pattern (F : Fmt) {t k : Nat} (hk : k ≤ 2 ^ (F.f + 1)) (ht : t = 0 ∨ 2 ^ F.f ≤ k) :
    formatMagnitude F (t * 2 ^ F.f + k) = k * (2 : ℚ) ^ (F.qmin + t) := by
  have hpos : 0 < 2 ^ F.f := by positivity
  obtain hsmall | hbig := lt_or_ge k (2 ^ F.f)
  · obtain rfl : t = 0 := ht.resolve_right (by omega)
    simp [formatMagnitude, hsmall, Fmt.qmin]
  · rw [formatMagnitude, if_neg (hbig.trans (Nat.le_add_left _ _)).not_gt]
    obtain ⟨j, rfl⟩ := Nat.exists_eq_add_of_le hbig
    obtain hj | rfl : j < 2 ^ F.f ∨ j = 2 ^ F.f := by rw [pow_succ] at hk; omega
    · have hsplit : t * 2 ^ F.f + (2 ^ F.f + j) = j + 2 ^ F.f * (t + 1) := by ring
      rw [hsplit, Nat.add_mul_mod_self_left, Nat.mod_eq_of_lt hj, Nat.add_mul_div_left _ _ hpos, Nat.div_eq_of_lt hj]
      congr 2
      simp only [Fmt.qmin]
      push_cast
      ring
    · have hsplit : t * 2 ^ F.f + (2 ^ F.f + 2 ^ F.f) = 2 ^ F.f * (t + 2) := by ring
      have hexp : (((t + 2 : Nat) : Int) - (F.bias : Int) - F.f) = F.qmin + t + 1 := by
        simp only [Fmt.qmin]
        push_cast
        ring
      rw [hsplit, Nat.mul_mod_right, Nat.mul_div_cancel_left _ hpos, hexp, zpow_add_one₀ two_ne_zero]
      push_cast
      ring

theorem exists_pattern (F : Fmt) (n : Nat) : ∃ t k, n = t * 2 ^ F.f + k ∧ k < 2 ^ (F.f + 1) ∧ (t = 0 ∨ 2 ^ F.f ≤ k) := by
  have hpos : 0 < 2 ^ F.f := by positivity
  obtain hn | hn := lt_or_ge n (2 ^ F.f)
  · exact ⟨0, n, by omega, by rw [pow_succ]; omega, .inl rfl⟩
  · refine ⟨(n - 2 ^ F.f) / 2 ^ F.f, 2 ^ F.f + (n - 2 ^ F.f) % 2 ^ F.f, ?_, ?_, .inr (by omega)⟩
    · have h := Nat.div_add_mod' (n - 2 ^ F.f) (2 ^ F.f)
      omega
    · have h := Nat.mod_lt (n - 2 ^ F.f) hpos
      rw [pow_succ]
      omega

theorem formatMagnitude_strictMono (F : Fmt) : StrictMono (formatMagnitude F) := by
  refine strictMono_nat_of_lt_succ fun n => ?_
  obtain ⟨t, k, rfl, hk, ht⟩ := exists_pattern F n
  rw [add_assoc, formatMagnitude_pattern F hk.le ht, formatMagnitude_pattern F hk (ht.imp_right Nat.le_succ_of_le)]
  gcongr
  exact Nat.lt_succ_self k

/-! ## The rounding of a magnitude to a pattern (R168, R172) -/

/-- m × 2^e is rounded to a multiple of 2^(qmin + n), for this n. -/
def roundUnit (F : Fmt) (m : Nat) (e : Int) : Nat := (max ((Nat.log2 m : Int) + e - F.f) F.qmin - F.qmin).toNat

/-- The exponent of a magnitude in units of its rounding. -/
def roundScale (F : Fmt) (m : Nat) (e : Int) : Int := e - (F.qmin + roundUnit F m e)

theorem roundMag_eq (F : Fmt) (rm : Rnd) (neg : Bool) (m : Nat) (e : Int) :
    roundMag F rm neg m e = roundUnit F m e * 2 ^ F.f + roundInt rm neg m (roundScale F m e) := by
  have h : F.qmin + roundUnit F m e = max ((Nat.log2 m : Int) + e - F.f) F.qmin := by
    rw [roundUnit]
    omega
  rw [roundScale, h]
  rfl

theorem scaled_mul (F : Fmt) (m : Nat) (e : Int) :
    (m : ℚ) * (2 : ℚ) ^ (roundScale F m e) * (2 : ℚ) ^ (F.qmin + roundUnit F m e) = m * (2 : ℚ) ^ e := by
  rw [mul_assoc, ← zpow_add₀ two_ne_zero, roundScale, sub_add_cancel]

/-- In units of its rounding a magnitude has f + 1 binary digits at most before its point, and as many when the unit is not the least. -/
theorem scaled_lt (F : Fmt) (m : Nat) (e : Int) : (m : ℚ) * (2 : ℚ) ^ (roundScale F m e) < 2 ^ (F.f + 1) := by
  have hle : roundScale F m e ≤ F.f - Nat.log2 m := by
    rw [roundScale, roundUnit]
    omega
  calc (m : ℚ) * (2 : ℚ) ^ (roundScale F m e)
      < 2 ^ (Nat.log2 m + 1) * (2 : ℚ) ^ (roundScale F m e) := by
        gcongr
        exact_mod_cast Nat.lt_log2_self
    _ ≤ 2 ^ (Nat.log2 m + 1) * (2 : ℚ) ^ ((F.f : Int) - Nat.log2 m) := by
        gcongr
        norm_num
    _ = 2 ^ (F.f + 1) := by
        rw [← zpow_natCast, ← zpow_natCast, ← zpow_add₀ two_ne_zero]
        congr 1
        push_cast
        ring

section
variable (F : Fmt) {m : Nat} (hm : m ≠ 0) (e : Int)
include hm

theorem le_scaled (ht : roundUnit F m e ≠ 0) : (2 : ℚ) ^ F.f ≤ m * (2 : ℚ) ^ (roundScale F m e) := by
  have heq : roundScale F m e = F.f - Nat.log2 m := by
    rw [roundScale]
    rw [roundUnit] at ht ⊢
    omega
  calc (2 : ℚ) ^ F.f = 2 ^ Nat.log2 m * (2 : ℚ) ^ ((F.f : Int) - Nat.log2 m) := by
        rw [← zpow_natCast, ← zpow_natCast, ← zpow_add₀ two_ne_zero]
        congr 1
        ring
    _ ≤ m * (2 : ℚ) ^ (roundScale F m e) := by
        rw [heq]
        gcongr
        exact_mod_cast Nat.log2_self_le hm

/-- The two integers around the magnitude in units of its rounding give neighbouring patterns. -/
theorem formatMagnitude_near (neg : Bool) {n : Nat} (hlo : roundInt .rtz neg m (roundScale F m e) ≤ n)
    (hhi : n ≤ roundInt .rtz neg m (roundScale F m e) + 1) :
    formatMagnitude F (roundUnit F m e * 2 ^ F.f + n) = n * (2 : ℚ) ^ (F.qmin + roundUnit F m e) := by
  obtain ⟨hbelow, habove⟩ := roundInt_rtz m neg (roundScale F m e)
  refine formatMagnitude_pattern F (hhi.trans ?_) (or_iff_not_imp_left.mpr fun ht => le_trans ?_ hlo)
  · exact_mod_cast hbelow.trans_lt (scaled_lt F m e)
  · exact Nat.lt_succ_iff.mp (by exact_mod_cast (le_scaled F hm e ht).trans_lt habove)

theorem roundMag_rtz (neg : Bool) :
    formatMagnitude F (roundMag F .rtz neg m e) ≤ m * (2 : ℚ) ^ e ∧ m * (2 : ℚ) ^ e < formatMagnitude F (roundMag F .rtz neg m e + 1) := by
  obtain ⟨hbelow, habove⟩ := roundInt_rtz m neg (roundScale F m e)
  rw [roundMag_eq, add_assoc, formatMagnitude_near F hm e neg le_rfl (Nat.le_succ _),
    formatMagnitude_near F hm e neg (Nat.le_succ _) le_rfl, ← scaled_mul F m e]
  push_cast
  exact ⟨by gcongr, by gcongr⟩

theorem roundMag_rup :
    m * (2 : ℚ) ^ e ≤ formatMagnitude F (roundMag F .rup false m e) ∧
    (roundMag F .rup false m e = 0 ∨ formatMagnitude F (roundMag F .rup false m e - 1) < m * (2 : ℚ) ^ e) := by
  obtain ⟨-, habove⟩ := roundMag_rtz F hm e false
  have hnear := formatMagnitude_near F hm e false le_rfl (Nat.le_succ _)
  rw [roundMag_eq] at habove ⊢
  obtain ⟨hsame, hexact⟩ | ⟨hnext, hmore⟩ := roundInt_rup m (roundScale F m e)
  · rw [hsame, hnear, ← hexact, scaled_mul]
    refine ⟨le_rfl, or_iff_not_imp_left.mpr fun hpos => ?_⟩
    rw [← scaled_mul, hexact, ← hnear]
    exact formatMagnitude_strictMono F (by omega)
  · rw [hnext, ← add_assoc, Nat.add_sub_cancel, hnear, ← scaled_mul F m e]
    rw [← scaled_mul F m e] at habove
    exact ⟨habove.le, .inr (by gcongr)⟩

theorem roundMag_rne (neg : Bool) :
    roundMag F .rne neg m e = roundMag F .rtz neg m e ∧
      2 * (m * (2 : ℚ) ^ e) ≤ formatMagnitude F (roundMag F .rtz neg m e) + formatMagnitude F (roundMag F .rtz neg m e + 1) ∨
    roundMag F .rne neg m e = roundMag F .rtz neg m e + 1 ∧
      formatMagnitude F (roundMag F .rtz neg m e) + formatMagnitude F (roundMag F .rtz neg m e + 1) ≤ 2 * (m * (2 : ℚ) ^ e) := by
  have hunit : (0 : ℚ) ≤ 2 ^ (F.qmin + roundUnit F m e) := by positivity
  rw [roundMag_eq, roundMag_eq, add_assoc, formatMagnitude_near F hm e neg le_rfl (Nat.le_succ _),
    formatMagnitude_near F hm e neg (Nat.le_succ _) le_rfl, ← scaled_mul F m e]
  push_cast
  obtain ⟨hround, hhalf⟩ | ⟨hround, hhalf⟩ := roundInt_rne m neg (roundScale F m e)
  all_goals
    rw [hround]
    have hscaled := mul_le_mul_of_nonneg_right hhalf hunit
  · exact .inl ⟨rfl, by linarith⟩
  · exact .inr ⟨rfl, by linarith⟩

end

/-- No value of a monotone sequence is nearer than both of the neighbours around a point. -/
theorem neighbour_nearest {f : Nat → ℚ} (hf : Monotone f) {n : Nat} {x : ℚ} (hlo : f n ≤ x) (hhi : x ≤ f (n + 1)) (j : Nat) :
    |f n - x| ≤ |f j - x| ∨ |f (n + 1) - x| ≤ |f j - x| := by
  obtain hj | hj := Nat.lt_or_ge n j
  · have h := hf (Nat.succ_le_of_lt hj)
    refine .inr ?_
    rw [abs_of_nonneg (by linarith), abs_of_nonneg (by linarith)]
    linarith
  · have h := hf hj
    refine .inl ?_
    rw [abs_of_nonpos (by linarith), abs_of_nonpos (by linarith)]
    linarith

theorem roundMag_rne_nearest (F : Fmt) {m : Nat} (hm : m ≠ 0) (e : Int) (neg : Bool) (j : Nat) :
    |formatMagnitude F (roundMag F .rne neg m e) - m * (2 : ℚ) ^ e| ≤ |formatMagnitude F j - m * (2 : ℚ) ^ e| := by
  obtain ⟨hbelow, habove⟩ := roundMag_rtz F hm e neg
  have hnear := neighbour_nearest (formatMagnitude_strictMono F).monotone hbelow habove.le j
  rw [abs_of_nonpos (sub_nonpos.mpr hbelow), abs_of_pos (sub_pos.mpr habove)] at hnear
  obtain ⟨hround, hhalf⟩ | ⟨hround, hhalf⟩ := roundMag_rne F hm e neg <;> rw [hround]
  · rw [abs_of_nonpos (sub_nonpos.mpr hbelow)]
    obtain h | h := hnear <;> linarith
  · rw [abs_of_pos (sub_pos.mpr habove)]
    obtain h | h := hnear <;> linarith

/-- The directed modes round toward zero or away from it, by the sign. -/
theorem roundMag_directed (F : Fmt) (m : Nat) (e : Int) :
    roundMag F .rup true m e = roundMag F .rtz true m e ∧ roundMag F .rdn false m e = roundMag F .rtz false m e ∧
    roundMag F .rdn true m e = roundMag F .rup false m e :=
  ⟨rfl, rfl, rfl⟩

/-- Settles O16: the two integers around a magnitude in units of its rounding give neighbouring patterns, and magnitudes rise with the
patterns. -/
theorem roundingIsDirectedOrNearest : Obligations.RoundingIsDirectedOrNearest := by
  unfold Obligations.RoundingIsDirectedOrNearest
  intro F neg m e _ hm x down up
  obtain ⟨hrup, hrdn, hrdn'⟩ := roundMag_directed F m e
  have hdown := roundMag_rtz F hm e
  have hup := roundMag_rup F hm e
  refine ⟨hdown neg, ?_, ?_, roundMag_rne_nearest F hm e neg⟩
  · cases neg with
    | false => exact hup
    | true => exact hrup ▸ hdown true
  · cases neg with
    | false => exact hrdn ▸ hdown false
    | true => exact hrdn' ▸ hup

end Sys2Proof.Machine
end

section
/-!
SUPPORT. Dot products: the k-groups of a sum, the integer step, and exact sums of finite values (R170, R186 to R189).
-/
namespace Sys2Proof.Machine
open Sys2Proof

/-! ## The steps of a sum (R186 to R189) -/

theorem span_eq_range' (a n : Nat) : span a n = List.range' a n := by
  induction n generalizing a with
  | zero => rfl
  | succ n ih => rw [span, ih, List.range'_succ]

theorem kStep_eq (ty : ElemType) (k : Nat) (a b : Nat → Opnd) (g : Nat) :
    kStep ty k a b g = (List.range (min (stepWidth ty) (k - stepWidth ty * g))).map
      fun i => (a (stepWidth ty * g + i), b (stepWidth ty * g + i)) := by
  rw [kStep, span_eq_range', List.range'_eq_map_range, List.map_map, mul_comm g]
  rfl

/-- The exact sum of a k-group of integer products, over the indices of the group (R187, R188). -/
theorem exactInt_kStep (ta tb ty : ElemType) (k : Nat) (a b : Nat → Nat) (g : Nat) :
    exactInt ta tb (kStep ty k (fun i => some (a i)) (fun i => some (b i)) g) =
      ((List.range (min (stepWidth ty) (k - stepWidth ty * g))).map fun i =>
        intOf ta (a (stepWidth ty * g + i)) * intOf tb (b (stepWidth ty * g + i))).sum := by
  rw [exactInt, kStep_eq, List.map_map, List.sum_eq_foldl]
  rfl

theorem intOf_accStep_s32 (ta tb : ElemType) (fe : FEnv) (acc : Nat) (ps : KStep) :
    intOf .s32 (accStep .s32 ta tb fe acc ps) = max (minInt .s32) (min (maxInt .s32) (intOf .s32 acc + exactInt ta tb ps)) :=
  intOf_intResult_true .s32 _

/-! ## Exact sums (R170, R187) -/

/-- The number that a finite value is. -/
def finValue (neg : Bool) (m : Nat) (e : Int) : ℚ := (if neg then (-1 : ℚ) else 1) * m * (2 : ℚ) ^ e

theorem signedAt_value (neg : Bool) (m : Nat) {e e0 : Int} (h : e0 ≤ e) : (signedAt neg m e e0 : ℚ) * (2 : ℚ) ^ e0 = finValue neg m e := by
  obtain ⟨n, rfl⟩ := Int.le.dest h
  rw [finValue, zpow_add₀ two_ne_zero, signedAt, add_sub_cancel_left]
  cases neg <;> simp [Nat.shiftLeft_eq] <;> ring

theorem finValue_zero (neg : Bool) (e : Int) : finValue neg 0 e = 0 := by simp [finValue]

theorem finValue_int (x e : Int) : finValue (x < 0) x.natAbs e = x * (2 : ℚ) ^ e := by
  obtain hx | hx := lt_or_ge x 0
  · have habs : ((x.natAbs : Int) : ℚ) = -x := by exact_mod_cast Int.ofNat_natAbs_of_nonpos hx.le
    rw [finValue, ← Int.cast_natCast, habs]
    simp [hx]
  · have habs : ((x.natAbs : Int) : ℚ) = x := by exact_mod_cast Int.natAbs_of_nonneg hx
    rw [finValue, ← Int.cast_natCast, habs]
    simp [hx.not_gt]

/-- The sum of two finite values is finite and exact. -/
theorem Val.add_fin (rm : Rnd) (a b : Bool) (m n : Nat) (e f : Int) :
    ∃ neg k g, Val.add rm (.fin a m e) (.fin b n f) = .fin neg k g ∧ finValue neg k g = finValue a m e + finValue b n f := by
  have hsum : ((signedAt a m e (min e f) + signedAt b n f (min e f) : Int) : ℚ) * (2 : ℚ) ^ min e f = finValue a m e + finValue b n f := by
    rw [← signedAt_value a m (min_le_left e f), ← signedAt_value b n (min_le_right e f)]
    push_cast
    ring
  by_cases hzero : (m = 0 && n = 0) = true
  · refine ⟨_, 0, 0, if_pos hzero, ?_⟩
    obtain ⟨rfl, rfl⟩ : m = 0 ∧ n = 0 := by simpa using hzero
    simp only [finValue_zero, add_zero]
  · by_cases hx : signedAt a m e (min e f) + signedAt b n f (min e f) = 0
    · refine ⟨_, 0, 0, (if_neg hzero).trans (if_pos hx), ?_⟩
      rw [← hsum, hx, finValue_zero, Int.cast_zero, zero_mul]
    · refine ⟨_, _, _, (if_neg hzero).trans (if_neg hx), ?_⟩
      rw [finValue_int, hsum]

theorem foldl_add_fin (vs : List (Bool × Nat × Int)) (a : Bool) (m : Nat) (e : Int) :
    ∃ neg k g, (vs.map fun v => Val.fin v.1 v.2.1 v.2.2).foldl (Val.add .rne) (.fin a m e) = .fin neg k g ∧
      finValue neg k g = finValue a m e + (vs.map fun v => finValue v.1 v.2.1 v.2.2).sum := by
  induction vs generalizing a m e with
  | nil => exact ⟨a, m, e, rfl, by simp⟩
  | cons v vs ih =>
    obtain ⟨a', m', e', hadd, hval⟩ := Val.add_fin .rne a v.1 m v.2.1 e v.2.2
    obtain ⟨neg, k, g, hfold, hsum⟩ := ih a' m' e'
    refine ⟨neg, k, g, by rw [List.map_cons, List.foldl_cons, hadd, hfold], ?_⟩
    rw [hsum, hval, List.map_cons, List.sum_cons, add_assoc]

/-- Settles O17: a k-group as a range of indices, and by induction over the values of an exact sum. -/
theorem dotProductsSumExactly : Obligations.DotProductsSumExactly := by
  unfold Obligations.DotProductsSumExactly
  refine ⟨fun fe a b acc k g => ?_, fun vs => ?_, fun ty hty k => ⟨?_, ?_⟩⟩
  · exact (intOf_accStep_s32 .s8 .s8 fe _ _).trans (by rw [exactInt_kStep]; rfl)
  · obtain ⟨neg, k, g, hfold, hsum⟩ := foldl_add_fin vs false 0 0
    exact ⟨neg, k, g, hfold, by rwa [finValue_zero, zero_add] at hsum⟩
  · obtain rfl | rfl := hty <;> rfl
  · exact Nat.div_one k

end Sys2Proof.Machine
end

section
/-!
SUPPORT. The words of a slot and the step that runs it: the word before a slot is read back (R211), the laws of the constructors together
(R202 to R216), and what a step does with the slot that is fetched (R213, R218, R422).
-/
namespace Sys2Proof

/-! ## The word before a slot, as fields of a 64-bit word (R211) -/

theorem zeroExtend_shiftLeft {m : Nat} (x : BitVec m) (l : Nat) (h : m + l ≤ 32) : (x.zeroExtend 32 <<< l).zeroExtend 64 = place x l := by
  ext i hi
  by_cases hx : i < l + m
  · have h32 : i < 32 := by omega
    simp [place, h32]
  · have hm : m ≤ i - l := by omega
    simp [place, hm]

theorem extractLsb'_eq_bits (p : W32) (lo n : Nat) (h : lo + n ≤ 32) : p.extractLsb' lo n = bits (p.zeroExtend 64) lo n := by
  ext i hi
  have hlt : lo + i < 64 := by omega
  simp [bits, hlt]

theorem getLsbD_eq_bitAt (p : W32) (i : Nat) (h : i < 32) : p.getLsbD i = bitAt (p.zeroExtend 64) i := by
  have hlt : i < 64 := by omega
  simp [bitAt, hlt]

/-- The code of the fourth operand, 0 where there is none (R211). -/
def Pfx.fourthCode (p : Pfx) : BitVec 9 := p.d4.elim 0 Operand.code

/-- The fields below the fourth operand, under whatever stands above them. -/
theorem zeroExtend_lowFields (y : W32) (rnd wm : BitVec 3) (zpol : Bool) :
    (y ||| rnd.zeroExtend 32 <<< 4 ||| (if zpol then (8 : W32) else 0) ||| wm.zeroExtend 32).zeroExtend 64 =
      y.zeroExtend 64 ||| place rnd 4 ||| placeBool zpol 3 ||| place wm 0 := by
  have hzpol : (if zpol then (8 : W32) else 0).zeroExtend 64 = placeBool zpol 3 := by cases zpol <;> rfl
  have hwm : (wm.zeroExtend 32).zeroExtend 64 = place wm 0 := by simpa using zeroExtend_shiftLeft wm 0 (by omega)
  rw [← hwm, ← hzpol, ← zeroExtend_shiftLeft rnd 4 (by omega)]
  simp only [BitVec.zeroExtend, BitVec.setWidth_or]

theorem encodePfx_fields (p : Pfx) : (encodePfx p).zeroExtend 64 =
    placeBool p.d4.isSome 16 ||| place p.fourthCode 7 ||| place p.rnd 4 ||| placeBool p.zpol 3 ||| place p.wm 0 := by
  obtain ⟨d4, rnd, zpol, wm⟩ := p
  cases d4 with
  | none =>
    have hd4 : (0 : W32).zeroExtend 64 = placeBool false 16 ||| place (0 : BitVec 9) 7 := rfl
    exact (zeroExtend_lowFields 0 rnd wm zpol).trans (by rw [hd4]; rfl)
  | some o =>
    have hd4 : ((1 : W32) <<< 16 ||| o.code.zeroExtend 32 <<< 7).zeroExtend 64 = placeBool true 16 ||| place o.code 7 := by
      rw [← zeroExtend_shiftLeft o.code 7 (by omega)]
      exact BitVec.setWidth_or
    exact (zeroExtend_lowFields _ rnd wm zpol).trans (by rw [hd4]; rfl)

theorem bits_encodePfx (p : Pfx) : (encodePfx p).extractLsb' 17 15 = 0 ∧ (encodePfx p).extractLsb' 7 9 = p.fourthCode ∧
    (encodePfx p).extractLsb' 4 3 = p.rnd ∧ (encodePfx p).extractLsb' 0 3 = p.wm := by
  simp (disch := omega) only [extractLsb'_eq_bits, encodePfx_fields, bits_or, bits_place_same, bits_place_below, bits_place_above,
    bits_placeBool_below, bits_placeBool_above, BitVec.or_zero, BitVec.zero_or, BitVec.ofNat_eq_ofNat, and_self]

theorem bitAt_encodePfx (p : Pfx) : (encodePfx p).getLsbD 16 = p.d4.isSome ∧ (encodePfx p).getLsbD 3 = p.zpol := by
  simp (disch := omega) only [getLsbD_eq_bitAt, encodePfx_fields, bitAt_or, bitAt_placeBool_same, bitAt_placeBool_ne, bitAt_place_below,
    bitAt_place_above, Bool.or_false, Bool.false_or, and_self]

theorem decodePfx_encodePfx (p : Pfx) (h : Wf.pfx p = true) : decodePfx (encodePfx p) = some p := by
  obtain ⟨hres, hd4, hrnd, hwm⟩ := bits_encodePfx p
  obtain ⟨hd4v, hzpol⟩ := bitAt_encodePfx p
  simp only [decodePfx, hres, hd4, hrnd, hwm, hd4v, hzpol]
  obtain ⟨_ | o, rnd, zpol, wm⟩ := p
  · have hr : ¬ 4 < rnd.toNat := by simpa [Wf.pfx] using h
    simp [Pfx.fourthCode, hr]
  · obtain ⟨hr, ho⟩ : rnd.toNat ≤ 4 ∧ o.wf = true := by simpa [Wf.pfx] using h
    simp [Pfx.fourthCode, hr, Operand.ofCode_code o ho]

/-! ## Every constructor -/

theorem andR_of_ite {c : Prop} [Decidable c] {a b p : Bool} (h : (if c then a && p else b && p) = true) : p = true := by
  split at h
  · exact andR h
  · exact andR h

/-- Every form ends with the check of the word before the slot (R211); an entry may add checks of its own after those of its form. -/
theorem pfx_of_fieldsOk {i : Instr} (h : i.fieldsOk = true) : Wf.pfx i.pfx = true := by
  cases i with
  | nop | smov | smovi | sadd | ssub | smul | smulh | sdiv | srem | sand | sor | sxor | sshl | sshr | scmp | ssel | saddi | smin | smax | srd | scvt
  | sclz | spopc | vmov | vmovi | vadd | vsub | vmul | vfma | vmin | vmax | vabs | vneg | vdiv | vrem | vand | vor | vxor | vnot | vshl | vshr | vcmp
  | vsel | vcvt | vunpk | vclz | vpopc | vmulh | vcpys | kand | kor | kxor | knot | kmovKk | vshfl | vbcast | vvote | vballot | vredx | vscan | setf
  | vrcp | vrsq | vsqrt | vexp2 | vlog2 | vsin | vcos | vfdiv | vtanh | verf | exit | reggive | regclaim | rolesw | tld | tst | talloc | tfree | fence
  | phreg | phdrop | pharr | phwait | semset | semwait | semrd | tvwait | tvend | qbind | jccopy | jcgath | jcscat | jccoll | jcmtx | jcfill | trap
  | tretSave | tretRest | datum | bkpt | sleept | mma | mmap | mmas | mmasp | mmag | mmagp | mlda | mldb | unfold | accdr | accdra | accld | accz
  | accmovGet | acccvt | attqk | attsm | attpv | attmd | kvrs | msync | melect | rng | rngu | rsvinit | rsvupd | rsvmrg | rsvnrm | rsvld | rsvst
  | rsvclr | rsvcpy | motv | scnbind | rayq | rays | hitunp | rayorg | ltset | ltsmp | reuse | gfemb | gfedepth | viscls | visw | smpbind
  | smpt | smpb => exact andR h
  | vpack | kmovSk | kmovKs | ld | st | ldp | stp | lds | sts | tvdecl | launch | accmovPut => exact andR (andL h)
  | csave | cload | atom | atomr | cas | wlpush | wlpopb | wlins | wlres | wlcom | wlsize | waitc => exact andR (andL (andL h))
  | cnarrow => exact andR (andL (andL (andL h)))
  | vspc => exact andR_of_ite h
  | _ => rfl

/-- The laws of the constructors together, in the order of `Instr`. -/
theorem Laws.RoundTrip.statement (i : Instr) : Laws.RoundTrip.Statement i :=
  @Instr.casesOn Laws.RoundTrip.Statement i
    nop smov smovi sadd ssub smul smulh sdiv srem sand sor sxor sshl sshr scmp ssel saddi smin smax srd scvt sclz spopc vmov vmovi vadd vsub vmul vfma
    vmin vmax vabs vneg vdiv vrem vand vor vxor vnot vshl vshr vcmp vsel vcvt vpack vunpk vclz vpopc vmulh vcpys kand kor kxor knot kmovKk kmovSk
    kmovKs vshfl vbcast vvote vballot vredx vscan setf vspc vrcp vrsq vsqrt vexp2 vlog2 vsin vcos vfdiv vtanh verf br jmp loop exit reggive regclaim
    rolesw ld st ldp stp tld tst talloc tfree cnarrow csave cload atom atomr cas lds sts wlpush wlpopb wlins wlres wlcom wlsize fence waitc phreg
    phdrop pharr phwait semset semwait semrd tvdecl tvwait tvend qbind launch jccopy jcgath jcscat jccoll jcmtx jcfill trap tretSave tretRest datum
    bkpt sleept mma mmap mmas mmasp mmag mmagp mlda mldb unfold accdr accdra accld accz accmovGet accmovPut acccvt attqk attsm attpv attmd kvrs msync
    melect rng rngu rsvinit rsvupd rsvmrg rsvnrm rsvld rsvst rsvclr rsvcpy motv scnbind rayq rays hitunp rayorg ltset ltsmp reuse gfemb gfedepth
    viscls visw smpbind smpt smpb clauseIssue quantumClauseLimit allowanceExpiry candidateAged blockedSlotResume loadResult sfuResult sleeptWake
    homeSliceWrite watchTableRetry ackReturn launchAccept dispatch resourceReport stake placementCommit stakeRetry parcelRetire commitLogApply
    launchComplete beatEnd grantPlacement engineTakeCommand engineResultDeliver jobCardDispatch jobCardComplete mtxOpStart mtxOpRetire kvrsSurvey
    rayResult lightWalk reuseCardRun gfeMeshletPass gfePyramidBuild faultRecordDeliver fqresume fqactEnd fqactResume shootdown shootdownDone
    migratePage migrationCopy preemptSave preemptSaveOrRequeue preemptEnd preemptRelease saveRoutineEnter saveComplete restore preemptLate
    matrixWatchdog matrixResetCommand computeDieReset dieRelink vfReset coldReset bootSourceRetry warmReset attestationRequest codeAdmission keyLoad
    debugToken lifecycleAdvance islandPowerChange datumInEdge snapstatClear snapshotRead storageError linkFlitSend flitReplay linkRetrain linkRateStep
    hostCxlMemAccess lqidxWrite fqidxWrite lqcfgWrite fqcfgWrite krangeWrite prangeWrite rsvrectWrite lqtktWrite sigpolWrite breakpointWrite
    debugPortResume registerWrite matrixResetComplete debugPortDatumTrigger debuggerLatchWrite hostCxlCacheSnoop fabricRequestArrival
    retrainingWindowEnd mlKemEncapsulation

/-- Settles O59: the word before the slot is read back (`decodePfx_encodePfx`), and with it the slot, by the law of its constructor. -/
theorem encodingIsReadBack : Obligations.EncodingIsReadBack := by
  unfold Obligations.EncodingIsReadBack
  intro i hi
  obtain ⟨w, hw, hslot⟩ := Laws.RoundTrip.statement i hi
  refine ⟨encodePfx i.pfx, w, by simp [encode, hw], ?_⟩
  simp [decode, decodePfx_encodePfx i.pfx (pfx_of_fieldsOk (fieldsOk_of hi)), hslot]

/-- Settles O60: the decoder runs on each of the words. -/
theorem wordsOfTheManualDecode : Obligations.WordsOfTheManualDecode := by
  unfold Obligations.WordsOfTheManualDecode
  decide

namespace Machine

/-! ## What a step does (R213, R218, R422) -/

theorem step_of_no_agenda {s : State} {c : Ctx} (ha : s.agenda = []) (hc : s.ready.running = some c) : step s = c.go s.ready := by
  simp only [step, ha, State.go, hc]

theorem step_of_agenda {s : State} {p : Planned} {rest : List Planned} (ha : s.agenda = p :: rest) : step s = s.planned p rest := by
  simp only [step, ha]

theorem Ctx.go_of_ok {c : Ctx} {s : State} {x : Nat × W32 × W64} {i : Instr} (hx : c.fetched = some x) (hi : fetchedInstr x = .ok i) :
    c.go s = exec i s := by
  simp only [Ctx.go, hx, hi]

theorem Ctx.go_of_error {c : Ctx} {s : State} {x : Nat × W32 × W64} {k : Nat} (hx : c.fetched = some x) (hk : fetchedInstr x = .error k) :
    c.go s = .next (s.takeFault c.g (illegalSlot k x.2.2) c.r.clause c.r.idx) := by
  simp only [Ctx.go, hx, hk]

/-- Settles O1: without an agenda `step` is the `Ctx.go` of the running group, with one it is `State.planned`. -/
theorem stepRunsFetchedSlot : Obligations.StepRunsFetchedSlot := by
  unfold Obligations.StepRunsFetchedSlot
  refine ⟨fun s c x i ha hc hx hi => ?_, fun s c x k ha hc hx hk => ?_, fun s p rest ha hp => ?_⟩
  · exact (step_of_no_agenda ha hc).trans (Ctx.go_of_ok hx hi)
  · exact (step_of_no_agenda ha hc).trans (Ctx.go_of_error hx hk)
  · exact (step_of_agenda ha).trans (if_neg (by simp [hp]))

end Machine
end Sys2Proof
end

section
/-!
SUPPORT. Vector slots with a result for each lane: the element-wise opcodes, moves, selections, conversions, shifts and rotates (R245, R246,
R249, R251 to R253, R257, R258).
-/
namespace Sys2Proof.Machine
open Sys2Proof

/-! ## Element-wise slots (R245, R246) -/

/-- The elements of a lane are the operation on the sub-elements of the sources in that lane. -/
theorem mapElems_lane (ty : ElemType) (op : List Nat → El) (xs : List Src) (l : Nat) :
    mapElems ty op (xs.map fun x => x l) = elements ty fun j => op (xs.map fun x => elem ty (x l) j) := by
  simp only [mapElems, elements, List.map_map, Function.comp_def]

/-- An element-wise vector slot of `n` sources completes with the operation on each sub-element of each lane. -/
theorem Ctx.vecElems_begins {c : Ctx} {f : VForm} {t : State} {g h : Group} {xs : List Src} {n : Nat} (op : FEnv → List Nat → El)
    (b : c.Begins {} (c.enabled f.pg f.pn) f.nw [dstOf f .vq] (usesOf f n .vslq) t g h xs) :
    let fe := (c.put t g).fenv f.pfx
    let row (l : Nat) := elements f.ty fun j => op fe (xs.map fun x => elem f.ty (x l) j)
    (∀ l, (c.enabled f.pg f.pn).getLsbD l = true → noTrap fe (row l)) →
    Host.Outcome.next (slotEnd (c.vecElems f n op)) =
      (c.put t g).lanesDone (c.enabled f.pg f.pn) f.dst f.nw f.pfx true h fun l => elReg f.ty (row l) := by
  intro fe row hn
  simp only [row, ← mapElems_lane] at hn ⊢
  exact Ctx.laneSlot_begins 1 f.ty (fun fe xs => mapElems f.ty (op fe) xs) b hn

/-- The element-wise vector opcodes: the number of sources and the operation on a sub-element. -/
def vectorOps (f : VForm) : List (Nat × Instr × (FEnv → List Nat → El)) :=
  [(2, .vadd f, fun fe => op2 (elAdd f.ty (xSat f.x) fe)), (2, .vsub f, fun fe => op2 (elSub f.ty (xSat f.x) fe)),
    (2, .vmul f, fun fe => op2 (elMul f.ty (xSat f.x) fe)), (3, .vfma f, fun fe => op3 (elFma f.ty (xSat f.x) fe)),
    (2, .vmin f, fun fe => op2 (elPick f.ty false fe)), (2, .vmax f, fun fe => op2 (elPick f.ty true fe)),
    (1, .vabs f, fun _ => op1 (elAbs f.ty (xSat f.x))), (1, .vneg f, fun _ => op1 (elNeg f.ty (xSat f.x))),
    (2, .vdiv f, fun _ => op2 (elDiv f.ty (xSat f.x))), (2, .vrem f, fun _ => op2 (elRem f.ty)), (2, .vand f, fun _ => op2 elAnd),
    (2, .vor f, fun _ => op2 elOr), (2, .vxor f, fun _ => op2 elXor), (1, .vnot f, fun _ => op1 (elNot f.ty)),
    (2, .vshl f, fun _ => op2 (elShl f.ty (f.var = 1))), (2, .vshr f, fun _ => op2 (elShr f.ty (f.var = 1))),
    (1, .vclz f, fun _ => op1 (elClz f.ty)), (1, .vpopc f, fun _ => op1 (elPopc f.ty)), (2, .vmulh f, fun _ => op2 (elMulh f.ty)),
    (2, .vcpys f, fun _ => op2 (elCpys f.ty))]

/-- Every one of them runs the element-wise vector slot with its operation. -/
theorem exec_vectorOps (f : VForm) (s : State) : ∀ o ∈ vectorOps f, exec o.2.1 s = runSlot s fun c => c.vecElems f o.1 o.2.2 := by
  simp only [vectorOps, List.forall_mem_cons, List.not_mem_nil, false_imp_iff, implies_true, and_true]
  exact ⟨rfl, rfl, rfl, rfl, rfl, rfl, rfl, rfl, rfl, rfl, rfl, rfl, rfl, rfl, rfl, rfl, rfl, rfl, rfl, rfl⟩

/-- An opcode of such a list, with its operation in one environment. -/
theorem mem_ops {ops : List (Nat × Instr × (FEnv → List Nat → El))} {fe : FEnv} {n : Nat} {i : Instr} {op : List Nat → El}
    (h : (n, i, op) ∈ ops.map fun o => (o.1, o.2.1, o.2.2 fe)) : ∃ op', (n, i, op') ∈ ops ∧ op' fe = op := by
  obtain ⟨⟨m, j, op'⟩, hin, heq⟩ := List.mem_map.mp h
  obtain ⟨rfl, rfl, rfl⟩ : m = n ∧ j = i ∧ op' fe = op := by simpa using heq
  exact ⟨op', hin, rfl⟩

/-- Settles O9: each opcode of `vectorOps` runs the element-wise slot (`Ctx.vecElems_begins`). -/
theorem vectorElementwiseResults : Obligations.VectorElementwiseResults := by
  unfold Obligations.VectorElementwiseResults
  intro s c f t g h xs n i op hc e fe hmem b row hn
  obtain ⟨op', hin, rfl⟩ := mem_ops (ops := vectorOps f) (fe := fe) hmem
  rw [exec_vectorOps f s _ hin, runSlot_runs hc]
  exact Ctx.vecElems_begins op' b hn

/-! ## Moves, selections and conversions (R246, R249, R257, R258) -/

/-- The first source of a lane, as an opcode of one source reads it. -/
theorem headD_lane (xs : List Src) (l : Nat) : (xs.map fun x => x l).headD 0 = (xs.headD fun _ => 0) l := by cases xs <;> rfl

section
variable {s : State} {c : Ctx} {t : State} {g h : Group} {xs : List Src} (hc : s.runs c)
include hc

theorem vmov_copies {f : VForm} (b : c.Begins {} (c.enabled f.pg f.pn) f.nw [dstOf f .vq] (usesOf f 1 .vslq) t g h xs) :
    exec (.vmov f) s =
      (c.put t g).lanesDone (c.enabled f.pg f.pn) f.dst f.nw f.pfx true h fun l => (xs.headD fun _ => 0) l := by
  have hrun : exec (.vmov f) s = .next (slotEnd (c.vecWhole f 1 fun xs => xs.headD 0)) := runSlot_runs hc _
  rw [hrun, Ctx.vecWhole_begins 1 _ b]
  simp only [headD_lane]

theorem vmovi_writes {f : IForm} (b : c.Begins {} (c.enabled f.pg f.pn) f.nw [⟨36, f.dst, .vq, 1⟩] [] t g h xs) :
    exec (.vmovi f) s = (c.put t g).lanesDone (c.enabled f.pg f.pn) f.dst f.nw f.pfx true h fun _ => immReg f.ty f.imm := by
  refine (runSlot_runs hc _).trans ?_
  unfold Ctx.immSlot Ctx.entry
  exact (Ctx.enter_completes b rfl).trans (Ctx.result_lanes _ _ _ _ _ _ _ _ _ fun l => get_laneTbl_eq _ _ l)

/-- The complement of a mask register selects the other operand in a lane of the 64. -/
theorem vsel_selects {f : VForm} {x y : Src} (b : c.Begins {} (c.enabled f.pg f.pn) f.nw [dstOf f .vq] (usesOf f 2 .vslq) t g h [x, y]) :
    exec (.vsel f) s = (c.put t g).lanesDone (c.enabled f.pg f.pn) f.dst f.nw f.pfx true h fun l =>
      if ((h.kreg (c.put t g).p.mask (xKB f.x)).getLsbD l != f.x.getLsbD 3) = true then x l else y l := by
  refine (runSlot_runs hc _).trans ((Ctx.enter_completes b rfl).trans (Ctx.result_lanes _ _ _ _ _ _ _ _ _ fun l => ?_))
  rw [get_laneTbl_eq]
  by_cases hl : (c.enabled f.pg f.pn).getLsbD l = true
  · have hbit : (if f.x.getLsbD 3 then ~~~(h.kreg (c.put t g).p.mask (xKB f.x)) else h.kreg (c.put t g).p.mask (xKB f.x)).getLsbD l =
        ((h.kreg (c.put t g).p.mask (xKB f.x)).getLsbD l != f.x.getLsbD 3) := by
      cases f.x.getLsbD 3
      · simp
      · simp [BitVec.lt_of_getLsbD hl]
    rw [if_pos hl, if_pos hl, ← hbit]
  · rw [if_neg hl, if_neg hl]

theorem vcvt_converts {f : VForm} (b : c.Begins {} (c.enabled f.pg f.pn) f.nw [dstOf f .vq] (usesOf f 1 .vslq) t g h xs) :
    let fe := (c.put t g).fenv f.pfx
    let row (l : Nat) := (elems (Wf.srcType f.x) ((xs.headD fun _ => 0) l)).map (elConvert (Wf.srcType f.x) f.ty (xSat f.x) fe)
    (∀ l, (c.enabled f.pg f.pn).getLsbD l = true → noTrap fe (row l)) →
    exec (.vcvt f) s = (c.put t g).lanesDone (c.enabled f.pg f.pn) f.dst f.nw f.pfx true h fun l => elReg f.ty (row l) := by
  intro fe row hn
  simp only [row, ← headD_lane] at hn ⊢
  exact (runSlot_runs hc _).trans (Ctx.laneSlot_begins 1 f.ty _ b hn)

theorem vpack_packs {f : VForm} (b : c.Begins {} (c.enabled f.pg f.pn) f.nw [dstOf f .vq] (packUses f) t g h xs) :
    let fe := (c.put t g).fenv f.pfx
    let row (l : Nat) := ((xs.flatMap fun x => elems (Wf.srcType f.x) (x l)).take f.ty.count).map
      (elConvert (Wf.srcType f.x) f.ty (xSat f.x) fe)
    (∀ l, (c.enabled f.pg f.pn).getLsbD l = true → noTrap fe (row l)) →
    exec (.vpack f) s = (c.put t g).lanesDone (c.enabled f.pg f.pn) f.dst f.nw f.pfx true h fun l => elReg f.ty (row l) := by
  intro fe row hn
  have hflat (l : Nat) : (xs.flatMap fun x => elems (Wf.srcType f.x) (x l)) = ((xs.map fun x => x l).map (elems (Wf.srcType f.x))).flatten := by
    rw [List.map_map, List.flatMap_def]
    rfl
  simp only [row, hflat] at hn ⊢
  exact (runSlot_runs hc _).trans (Ctx.laneSlot_begins 1 f.ty _ b hn)

theorem vunpk_unpacks {f : VForm} (b : c.Begins {} (c.enabled f.pg f.pn) f.nw [dstOf f .vq] (usesOf f 1 .vslq) t g h xs) :
    let fe := (c.put t g).fenv f.pfx
    let row (l : Nat) := (span (xPart f.x * f.ty.count) f.ty.count).map fun j =>
      if j < (Wf.srcType f.x).count then
        elConvert (Wf.srcType f.x) f.ty (xSat f.x) fe (elem (Wf.srcType f.x) ((xs.headD fun _ => 0) l) j)
      else .of 0
    (∀ l, (c.enabled f.pg f.pn).getLsbD l = true → noTrap fe (row l)) →
    exec (.vunpk f) s = (c.put t g).lanesDone (c.enabled f.pg f.pn) f.dst f.nw f.pfx true h fun l => elReg f.ty (row l) := by
  intro fe row hn
  simp only [row, ← headD_lane] at hn ⊢
  exact (runSlot_runs hc _).trans (Ctx.laneSlot_begins 1 f.ty _ b hn)

end

/-- Settles O10: the moves, the selection and the conversions each by its own rule above. -/
theorem vectorMovesAndConversions : Obligations.VectorMovesAndConversions := by
  unfold Obligations.VectorMovesAndConversions
  intro s c t g h xs hc
  refine ⟨fun f => vmov_copies hc, fun f => vmovi_writes hc, ?_, fun f b => vcvt_converts hc b, fun f b => vpack_packs hc b,
    fun f b => vunpk_unpacks hc b⟩
  rintro f x y rfl b
  exact vsel_selects hc b

/-! ## Shifts and rotates (R251) -/

/-- A pattern of `k + m` bits rotated: its low `m` bits go up by `k` and its high `k` bits come down. -/
theorem rotate_eq_add {a k m : Nat} (ha : a < 2 ^ (k + m)) : (a <<< k) % 2 ^ (k + m) ||| a >>> m = a % 2 ^ m * 2 ^ k + a / 2 ^ m := by
  have hlow : (a <<< k) % 2 ^ (k + m) = (a % 2 ^ m) <<< k := by
    rw [Nat.shiftLeft_eq, Nat.shiftLeft_eq, pow_add, mul_comm (2 ^ k), Nat.mul_mod_mul_right]
  have hhigh : a >>> m < 2 ^ k := by
    rw [Nat.shiftRight_eq_div_pow]
    exact Nat.div_lt_of_lt_mul (by rwa [← pow_add, add_comm])
  rw [hlow, ← Nat.shiftLeft_add_eq_or_of_lt hhigh, Nat.shiftLeft_eq, Nat.shiftRight_eq_div_pow]

theorem width_pos (t : ElemType) : 0 < t.width := by cases t <;> decide

theorem elShl_false_bits (t : ElemType) (a n : Nat) :
    (elShl t false a n).bits = if n < t.width then a * 2 ^ n % 2 ^ t.width else 0 := by
  simp only [elShl, Bool.false_eq_true, if_false, El.of, Nat.shiftLeft_eq]

theorem elShl_true_bits {t : ElemType} {a : Nat} (n : Nat) (ha : a < 2 ^ t.width) :
    (elShl t true a n).bits = a * 2 ^ (n % t.width) % 2 ^ t.width + a / 2 ^ (t.width - n % t.width) := by
  have hk : n % t.width + (t.width - n % t.width) = t.width := Nat.add_sub_of_le (Nat.mod_lt n (width_pos t)).le
  have hrot := rotate_eq_add (k := n % t.width) (m := t.width - n % t.width) (by rwa [hk])
  have hlow : a * 2 ^ (n % t.width) % 2 ^ t.width = a % 2 ^ (t.width - n % t.width) * 2 ^ (n % t.width) := by
    rw [← Nat.mul_mod_mul_right, ← pow_add, Nat.sub_add_cancel (Nat.mod_lt n (width_pos t)).le]
  rw [hk] at hrot
  rw [hlow, ← hrot]
  rfl

theorem elShr_true_bits {t : ElemType} {a : Nat} (n : Nat) (ha : a < 2 ^ t.width) :
    (elShr t true a n).bits = a / 2 ^ (n % t.width) + a % 2 ^ (n % t.width) * 2 ^ (t.width - n % t.width) := by
  have hk : t.width - n % t.width + n % t.width = t.width := Nat.sub_add_cancel (Nat.mod_lt n (width_pos t)).le
  have hrot := rotate_eq_add (k := t.width - n % t.width) (m := n % t.width) (by rwa [hk])
  rw [hk, Nat.or_comm] at hrot
  rw [add_comm, ← hrot]
  rfl

/-- A right shift is the quotient of the value, rounded down; counts above the width shift by the width. -/
theorem elShr_false_bits (t : ElemType) (a n : Nat) :
    (elShr t false a n).bits = wrapInt t.width (intOf t a / 2 ^ min n t.width) := by
  simp only [elShr, Bool.false_eq_true, if_false, El.of]

theorem elShr_false_unsigned {t : ElemType} {a n : Nat} (hs : t.isSigned = false) (ha : a < 2 ^ t.width) :
    (elShr t false a n).bits = if n < t.width then a / 2 ^ n else 0 := by
  have hint : intOf t a / 2 ^ min n t.width = ((a / 2 ^ min n t.width : Nat) : Int) := by
    rw [intOf_eq ha, if_neg (by simp [hs])]
    norm_cast
  rw [elShr_false_bits, hint, wrapInt_natCast, Nat.mod_eq_of_lt ((Nat.div_le_self _ _).trans_lt ha)]
  split
  next h => rw [min_eq_left h.le]
  next h => rw [min_eq_right (Nat.le_of_not_lt h), Nat.div_eq_of_lt ha]

/-- A quotient by a power of two lies between zero or −1 and the dividend. -/
theorem ediv_two_pow_mem_range {t : ElemType} {x : Int} (hs : t.isSigned = true) (hlo : minInt t ≤ x) (hhi : x ≤ maxInt t) (n : Nat) :
    minInt t ≤ x / 2 ^ n ∧ x / 2 ^ n ≤ maxInt t := by
  have hpow : (0 : Int) < 2 ^ n := by positivity
  have hneg : minInt t ≤ -1 := by
    obtain ⟨-, hmin, -⟩ | ⟨hu, -⟩ := minInt_maxInt t
    · have h : (0 : Int) < 2 ^ (t.width - 1) := by positivity
      omega
    · simp [hs] at hu
  obtain ⟨-, hmax⟩ := zero_mem_range t
  obtain hx | hx := le_or_gt 0 x
  · have h0 := Int.ediv_nonneg hx hpow.le
    have h1 := Int.ediv_le_self (2 ^ n) hx
    omega
  · have h0 := Int.ediv_neg_of_neg_of_pos hx hpow
    have h1 : x ≤ x / 2 ^ n := by
      rw [Int.le_ediv_iff_mul_le hpow]
      nlinarith only [hx, hpow]
    omega

theorem elShr_false_signed {t : ElemType} {a n : Nat} (hs : t.isSigned = true) (ha : a < 2 ^ t.width) :
    intOf t (elShr t false a n).bits = if n < t.width then intOf t a / 2 ^ n else if intOf t a < 0 then -1 else 0 := by
  obtain ⟨hlo, hhi⟩ := intOf_mem_range ha
  obtain ⟨hlo', hhi'⟩ := ediv_two_pow_mem_range hs hlo hhi (min n t.width)
  rw [elShr_false_bits, intOf_wrapInt hlo' hhi']
  split
  next h => rw [min_eq_left h.le]
  next h =>
    rw [min_eq_right (Nat.le_of_not_lt h)]
    have hw := t.two_pow_width
    zify at hw
    have habs : -intOf t a ≤ 2 ^ t.width ∧ intOf t a < 2 ^ t.width := by
      have hpow : (0 : Int) < 2 ^ (t.width - 1) := by positivity
      obtain ⟨-, hmin, hmax⟩ | ⟨-, hmin, hmax⟩ := minInt_maxInt t <;> omega
    split
    next hneg => exact Int.ediv_eq_neg_one_of_neg_of_le hneg habs.1
    next hpos => exact Int.ediv_eq_zero_of_lt (Int.not_lt.mp hpos) habs.2

/-- Elements of which none is a NaN raise no trap. -/
theorem noTrap_of_nan_none {fe : FEnv} {ty : ElemType} {op : Nat → El} (h : ∀ j, (op j).nan = none) : noTrap fe (elements ty op) := by
  intro _ x hx
  obtain ⟨j, -, rfl⟩ := List.mem_map.mp hx
  exact h j

section
variable {c : Ctx} {f : VForm} {t : State} {g h : Group} {a b : Src} {op : Nat → Nat → El} (hop : ∀ x y, (op x y).nan = none)
include hop

/-- An element-wise vector slot of two sources whose operation makes no NaN completes. -/
theorem Ctx.vecElems_pair (hb : c.Begins {} (c.enabled f.pg f.pn) f.nw [dstOf f .vq] (usesOf f 2 .vslq) t g h [a, b]) :
    Host.Outcome.next (slotEnd (c.vecElems f 2 fun _ => op2 op)) =
      (c.put t g).lanesDone (c.enabled f.pg f.pn) f.dst f.nw f.pfx true h fun l =>
        elReg f.ty (elements f.ty fun j => op (elem f.ty (a l) j) (elem f.ty (b l) j)) := by
  refine (Ctx.vecElems_begins (fun _ => op2 op) hb fun l _ => noTrap_of_nan_none fun j => ?_).trans rfl
  exact hop _ _

theorem Ctx.scalElems_pair (hb : c.Begins {} (c.enabled f.pg f.pn) f.nw [dstOf f .sq] (usesOf f 2 .slq) t g h [a, b]) :
    let l := (lowest (c.enabled f.pg f.pn)).getD 0
    Host.Outcome.next (slotEnd (c.scalElems f 2 fun _ => op2 op)) =
      (c.put t g).pathDone (c.enabled f.pg f.pn) f.dst f.nw f.pfx false h
        (elReg f.ty (elements f.ty fun j => op (elem f.ty (a l) j) (elem f.ty (b l) j))) := by
  refine (Ctx.scalElems_begins (fun _ => op2 op) hb (noTrap_of_nan_none fun j => ?_)).trans rfl
  exact hop _ _

end

theorem elShl_nan (t : ElemType) (rot : Bool) (a n : Nat) : (elShl t rot a n).nan = none := by cases rot <;> rfl
theorem elShr_nan (t : ElemType) (rot : Bool) (a n : Nat) : (elShr t rot a n).nan = none := by cases rot <;> rfl

/-- Settles O15: the patterns as numbers, then VSHL, VSHR, SSHL and SSHR as element-wise slots, which no shift traps. -/
theorem shiftsAndRotates : Obligations.ShiftsAndRotates := by
  unfold Obligations.ShiftsAndRotates
  refine ⟨fun t a n _ ha _ => ⟨elShl_false_bits t a n, fun hs => elShr_false_unsigned hs ha, fun hs => elShr_false_signed hs ha,
    elShl_true_bits n ha, elShr_true_bits n ha⟩, ?_⟩
  intro s c f t g h a b hc e row
  exact ⟨fun hb => ⟨(runSlot_runs hc _).trans (Ctx.vecElems_pair (elShl_nan f.ty (f.var = 1)) hb),
      (runSlot_runs hc _).trans (Ctx.vecElems_pair (elShr_nan f.ty (f.var = 1)) hb)⟩,
    fun hb => ⟨(runSlot_runs hc _).trans (Ctx.scalElems_pair (elShl_nan f.ty (f.var = 1)) hb),
      (runSlot_runs hc _).trans (Ctx.scalElems_pair (elShr_nan f.ty (f.var = 1)) hb)⟩⟩

end Sys2Proof.Machine
end

section
/-!
SUPPORT. Cross-lane slots and special-function slots (R263 to R268): what a lane supplies, the fault of a selector, results that are one value
for the path, folds over the lanes, and the pending write that a special function leaves.
-/
namespace Sys2Proof.Machine
open Sys2Proof

/-- Results none of which traps leave no NaN trap to take (R192). -/
theorem laneNan_of_noTrap {fe : FEnv} {rows : List (Nat × List El)} (engine : Nat) (h : ∀ r ∈ rows, noTrap fe r.2) :
    (if fe.nant then laneNan engine rows else none) = none := by
  split
  next hna => exact (laneNan_none engine rows).mpr fun r hr => h r hr hna
  next => rfl

theorem laneNan_rows {fe : FEnv} {e : W64} {row : Nat → List El} (engine : Nat) (h : ∀ l, e.getLsbD l = true → noTrap fe (row l)) :
    (if fe.nant then laneNan engine ((lanes e).map fun l => (l, row l)) else none) = none :=
  laneNan_of_noTrap engine (List.forall_mem_map.mpr fun l hl => h l ((mem_lanes e l).mp hl))

/-! ## Selectors (R264, R265) -/

theorem supply_eq (e : W64) (a : Src) (n : Nat) : supply e a n = if n < 64 ∧ e.getLsbD n = true then a n else 0 := by
  simp only [supply, Bool.and_eq_true, decide_eq_true_eq]

theorem supply_eq_of_bit (e : W64) (a : Src) (n : Nat) : supply e a n = if e.getLsbD n = true then a n else 0 := by
  rw [supply_eq]
  exact ite_congr (propext (and_iff_right_of_imp BitVec.lt_of_getLsbD)) (fun _ => rfl) fun _ => rfl

theorem getLsbD_of_lowest {e : W64} {l : Nat} (h : lowest e = some l) : e.getLsbD l = true :=
  (mem_lanes e l).mp (List.mem_of_head? h)

/-- A selector with one value for the path is refused in the lowest executing lane. -/
theorem subFault_of_lowest {ty : ElemType} {e : W64} {l : Nat} {x : W64} (hl : lowest e = some l) (hx : ty.count ≤ selSub x) :
    subFault ty (lanes e) (fun _ => x) = some { illegalOperand 6 18 x.toNat with lane := l } := by
  obtain ⟨ls, hls⟩ := List.head?_eq_some_iff.mp hl
  rw [subFault, hls, List.find?_cons_of_pos (by simpa using hx)]
  rfl

/-- A slot that captures a latch and whose operands' values its own check refuses raises the fault of the check (R426). -/
theorem Ctx.enter_captures_refuses {c : Ctx} {o : Start} {e : W64} {nw : Bool} {dsts srcs : List Use} {x : FaultInfo} (he : e ≠ 0)
    (hfields : (dsts ++ srcs).findSome? (Use.fault c.g) = none) (hpre : o.pre = none) (hlatch : latchFault c.r srcs = none)
    (hquiet : (c.g.pending.any fun p => p.latches c.r || (dsts ++ srcs).any fun u => p.meets c.r.id u) = false)
    (hcheck : o.check (foreseen c.g c.r srcs) = some x) (body : Ctx → Group → List Src → Slot) :
    c.enter o e nw dsts srcs true body = c.trap x := by
  have hfree : (c.g.pending.any fun p => p.latches c.r) = false := by
    simp only [List.any_eq_false, Bool.or_eq_true, not_or] at hquiet ⊢
    exact fun p hp => (hquiet p hp).1
  have hmeets : (c.g.pending.any fun p => (dsts ++ srcs).any fun u => p.meets c.r.id u) = false := by
    simp only [List.any_eq_false, Bool.or_eq_true, not_or] at hquiet ⊢
    exact fun p hp => (hquiet p hp).2
  unfold Ctx.enter
  simp only [he, hfields, hpre, hlatch, hfree, hmeets, hcheck, decide_false, Bool.false_and, Bool.and_false, Bool.false_eq_true, if_false,
    Option.or_none, Option.some_or]

/-! ## One value for the path (R245, R266) -/

/-- A cross-lane slot with one value for the path completes: each executing lane of a v register gets it, or another destination does. -/
def Ctx.oneDone (c : Ctx) (e : W64) (dst : Operand) (nw : Bool) (p : Pfx) (h : Group) (x : W64) : Host.Outcome State Fault Refusal :=
  match dst with
  | .v _ => c.lanesDone e dst nw p true h fun _ => x
  | _ => c.pathDone e dst nw p true h x

theorem Ctx.oneResult_done (c : Ctx) (g : Group) (e : W64) (f : VForm) (x : W64) :
    .next (slotEnd (c.oneResult g e f x)) = c.oneDone e f.dst f.nw f.pfx g x := by
  unfold Ctx.oneResult Ctx.oneDone
  cases f.dst with
  | v n => exact Ctx.result_lanes _ _ _ _ _ _ _ _ _ fun l => get_laneTbl_eq _ _ l
  | _ => rfl

section
variable {s : State} {c : Ctx} {f : VForm} {t : State} {g h : Group} (hc : s.runs c)
include hc

theorem vshfl_refuses {r : BitVec 6} {n : BitVec 8} {l : Nat} (hb : f.sb = .s r) (ha : f.sa = .v n)
    (hl : lowest (c.enabled f.pg f.pn) = some l)
    (hfields : ([dstOf f .vq] ++ [⟨27, f.sa, .vl, 1⟩, ⟨18, f.sb, .vsl, 1⟩] : List Use).findSome? (Use.fault c.g) = none)
    (hquiet : (c.g.pending.any fun p => p.latches c.r ||
      ([dstOf f .vq] ++ [⟨27, f.sa, .vl, 1⟩, ⟨18, f.sb, .vsl, 1⟩] : List Use).any fun u => p.meets c.r.id u) = false)
    (hx : f.ty.count ≤ selSub (c.g.sreg r.toNat)) :
    exec (.vshfl f) s = .next (slotEnd (c.trap { illegalOperand 6 18 (c.g.sreg r.toNat).toNat with lane := l })) := by
  have he : c.enabled f.pg f.pn ≠ 0 := by
    intro h0
    simpa [h0] using getLsbD_of_lowest hl
  have hlatch : latchFault c.r [⟨27, f.sa, .vl, 1⟩, ⟨18, f.sb, .vsl, 1⟩] = none := by rw [ha, hb]; rfl
  have hsel : (foreseen c.g c.r [⟨27, f.sa, .vl, 1⟩, ⟨18, f.sb, .vsl, 1⟩]).tail.headD (fun _ => 0) = fun _ => c.g.sreg r.toNat := by
    rw [ha, hb]
    rfl
  refine (runSlot_runs hc _).trans (congrArg (fun x => Host.Outcome.next (slotEnd x)) ?_)
  refine Ctx.enter_captures_refuses he hfields rfl hlatch hquiet ?_ _
  dsimp only
  rw [hsel]
  exact subFault_of_lowest hl hx

theorem vshfl_shuffles {a b : Src}
    (hb : c.Begins { check := fun xs => subFault f.ty (lanes (c.enabled f.pg f.pn)) (xs.tail.headD fun _ => 0) } (c.enabled f.pg f.pn) f.nw
      [dstOf f .vq] [⟨27, f.sa, .vl, 1⟩, ⟨18, f.sb, .vsl, 1⟩] t g h [a, b]) :
    exec (.vshfl f) s = (c.put t g).lanesDone (c.enabled f.pg f.pn) f.dst f.nw f.pfx true h fun l =>
      let n := shuffleLane f.var (c.put t g).g.width l (selLane (b l))
      rotateElems f.ty (if n < 64 ∧ (c.enabled f.pg f.pn).getLsbD n = true then a n else 0) (selSub (b l)) := by
  simp only [← supply_eq]
  exact (runSlot_runs hc _).trans ((Ctx.enter_completes hb rfl).trans (Ctx.result_lanes _ _ _ _ _ _ _ _ _ fun l => get_laneTbl_eq _ _ l))

theorem vbcast_broadcasts {a b : Src}
    (hb : c.Begins { check := fun xs => subFault f.ty [(lowest (c.enabled f.pg f.pn)).getD 0] (xs.tail.headD fun _ => 0) }
      (c.enabled f.pg f.pn) f.nw [dstOf f .vsq] [⟨27, f.sa, .vl, 1⟩, ⟨18, f.sb, .slq, 1⟩] t g h [a, b]) :
    let sel := b ((lowest (c.enabled f.pg f.pn)).getD 0)
    exec (.vbcast f) s = (c.put t g).oneDone (c.enabled f.pg f.pn) f.dst f.nw f.pfx h (BitVec.ofNat 64 (packElems f.ty
      (List.replicate f.ty.count
        (elem f.ty (if (c.enabled f.pg f.pn).getLsbD (selLane sel) = true then a (selLane sel) else 0) (selSub sel))))) := by
  simp only [← supply_eq_of_bit]
  exact (runSlot_runs hc _).trans ((Ctx.enter_completes hb rfl).trans (Ctx.oneResult_done _ _ _ _ _))

theorem vballot_votes {a : Src} (b : c.Begins {} (c.enabled f.pg f.pn) f.nw [dstOf f .vsq] [⟨27, f.sa, .vl, 1⟩] t g h [a]) :
    exec (.vballot f) s = (c.put t g).oneDone (c.enabled f.pg f.pn) f.dst f.nw f.pfx h (maskOf (c.enabled f.pg f.pn) fun l =>
      if f.var = 0 then decide (elem f.ty (a l) 0 ≠ 0) else (elems f.ty (a l)).any fun x => decide (x ≠ 0)) :=
  (runSlot_runs hc _).trans ((Ctx.enter_completes b rfl).trans (Ctx.oneResult_done _ _ _ _ _))

end

/-! ## Folds (R268) -/

/-- The running folds of VREDX and VSCAN. -/
def foldRows (c : Ctx) (f : VForm) (fe : FEnv) (a : Src) : List (Nat × List El) :=
  foldRun f.ty fe (foldOp f.ty (xRop f.x) (xSat f.x) fe) a none (lanes (c.enabled f.pg f.pn))

/-- What VSCAN delivers to the executing lanes in their order. -/
def scanned (f : VForm) (rows : List (Nat × List El)) : List (List El) :=
  if f.var = 0 then rows.map fun r => r.2
  else List.replicate f.ty.count (El.of (foldIdentity f.ty (xRop f.x))) :: rows.dropLast.map fun r => r.2

section
variable {s : State} {c : Ctx} {f : VForm} {t : State} {g h : Group} (hc : s.runs c)
include hc

theorem vredx_folds {a : Src} (b : c.Begins {} (c.enabled f.pg f.pn) f.nw [dstOf f .vsq] [⟨27, f.sa, .vl, 1⟩] t g h [a])
    (hn : ∀ r ∈ foldRows c f ((c.put t g).fenv f.pfx) a, noTrap ((c.put t g).fenv f.pfx) r.2) :
    exec (.vredx f) s = (c.put t g).oneDone (c.enabled f.pg f.pn) f.dst f.nw f.pfx h
      (elReg f.ty ((((foldRows c f ((c.put t g).fenv f.pfx) a).map fun r => r.2).getLast?).getD [])) := by
  refine (runSlot_runs hc _).trans ((Ctx.enter_completes b ?_).trans (Ctx.oneResult_done _ _ _ _ _))
  have hno := laneNan_of_noTrap 1 hn
  unfold foldRows at hno ⊢
  simp only [List.headD_cons, hno]
  rfl

theorem vscan_scans {a : Src} (b : c.Begins {} (c.enabled f.pg f.pn) f.nw [dstOf f .onlyV] [⟨27, f.sa, .vl, 1⟩] t g h [a])
    (hn : ∀ r ∈ if f.var = 0 then foldRows c f ((c.put t g).fenv f.pfx) a else (foldRows c f ((c.put t g).fenv f.pfx) a).dropLast,
      noTrap ((c.put t g).fenv f.pfx) r.2) :
    exec (.vscan f) s = .next (slotEnd ((c.put t g).result h (c.enabled f.pg f.pn) f.dst f.nw f.pfx true (.lanes
      ((lanes (c.enabled f.pg f.pn)).zip ((scanned f (foldRows c f ((c.put t g).fenv f.pfx) a)).map (elReg f.ty)))))) := by
  refine (runSlot_runs hc _).trans (Ctx.enter_completes b ?_)
  have hno := laneNan_of_noTrap 1 hn
  unfold scanned
  unfold foldRows at hno ⊢
  simp only [List.headD_cons, hno]
  by_cases hv : f.var = 0
  · simp only [hv, if_true]
    rfl
  · simp only [hv, if_false]
    rfl

end

/-- Settles O12: the shuffles, the broadcast, the ballot and the folds each by its own rule above. -/
theorem crossLaneResults : Obligations.CrossLaneResults := by
  unfold Obligations.CrossLaneResults
  intro s c f t g h hc e d fe l0 one
  refine ⟨fun r n l hb ha hl hf hq hx => vshfl_refuses hc hb ha hl hf hq hx, fun a b hb => vshfl_shuffles hc hb,
    fun a b hb => vbcast_broadcasts hc hb, fun a b => vballot_votes hc b, ?_⟩
  intro a i _ rows hn
  refine ⟨?_, ?_⟩
  · rintro rfl b
    rw [if_neg fun h => nomatch h.1] at hn
    exact vredx_folds hc b hn
  · rintro rfl b
    have hwritten : (if Instr.vscan f = Instr.vscan f ∧ f.var ≠ 0 then rows.dropLast else rows) =
        if f.var = 0 then rows else rows.dropLast := by
      by_cases hv : f.var = 0 <;> simp [hv]
    rw [hwritten] at hn
    exact vscan_scans hc b hn

/-! ## Special functions (R263) -/

/-- The pending write of a special-function slot: a value for each executing lane, those that the write mask leaves out kept or cleared. -/
def Ctx.sfuPending (c : Ctx) (e : W64) (f : VForm) (h : Group) (uid : Nat) (r : BitVec 8) (x : Nat → W64) : Pending :=
  { uid := uid, kind := .sfu, path := c.k, clause := c.r.clause, slot := c.r.idx, run := c.r.id, latch := some (c.r.idx % 4), ty := f.ty,
    dst := if f.nw then .nothing else .vregs r.toNat 1, lanes := (lanes e).map fun l => (l, .value [x l]), hold := (c.fenv f.pfx).nant,
    zeros := (c.writes h f.pfx e).2, keeps := e &&& ~~~((c.writes h f.pfx e).1 ||| (c.writes h f.pfx e).2) }

section
variable {c : Ctx} {f : VForm} {t : State} {g h : Group} {xs : List Src} {n : Nat} {op : FEnv → List Nat → El}
  (b : c.Begins {} (c.enabled f.pg f.pn) f.nw [dstOf f .vq] (usesOf f n .vslq) t g h xs) {row : Nat → List El}
  (hrow : ∀ l, row l = elements f.ty fun j => op ((c.put t g).fenv f.pfx) (xs.map fun x => elem f.ty (x l) j))
  (hn : ∀ l, (c.enabled f.pg f.pn).getLsbD l = true → noTrap ((c.put t g).fenv f.pfx) (row l))
include b hrow hn

/-- A special-function slot with a v destination leaves its pending write. -/
theorem Ctx.sfuSlot_pends {r : BitVec 8} (hr : f.dst = .v r) :
    .next (slotEnd (c.sfuSlot f n op)) =
      doneWith t.fresh.1
        { h with pending := h.pending ++ [(c.put t g).sfuPending (c.enabled f.pg f.pn) f h t.uid r fun l => elReg f.ty (row l)] }
        (some (laneTbl (c.enabled f.pg f.pn) fun l => elReg f.ty (row l))) none := by
  have hno := laneNan_rows 2 hn
  have hval (l : Nat) (hl : l ∈ lanes (c.enabled f.pg f.pn)) :
      Tbl.get 0 ((lanes (c.enabled f.pg f.pn)).map fun l => (l, elReg f.ty (row l))) l = elReg f.ty (row l) :=
    (get_rows _ _ l).trans (if_pos ((mem_lanes _ _).mp hl))
  have hlanes : ((lanes (c.enabled f.pg f.pn)).map fun l =>
      (l, LaneSource.value [Tbl.get 0 ((lanes (c.enabled f.pg f.pn)).map fun l => (l, elReg f.ty (row l))) l])) =
      (lanes (c.enabled f.pg f.pn)).map fun l => (l, LaneSource.value [elReg f.ty (row l)]) :=
    List.map_congr_left fun l hl => by rw [hval l hl]
  have hlatch : (laneTbl (c.enabled f.pg f.pn) fun l => Tbl.get 0 ((lanes (c.enabled f.pg f.pn)).map fun l => (l, elReg f.ty (row l))) l) =
      laneTbl (c.enabled f.pg f.pn) fun l => elReg f.ty (row l) :=
    laneTbl_congr _ _ _ fun l hl => hval l ((mem_lanes _ _).mpr hl)
  unfold Ctx.sfuSlot Ctx.entry
  refine Ctx.enter_completes b ?_
  simp only [mapElems_lane, ← hrow, hno, hr, List.map_map, Function.comp_def, Ctx.latchOf, hlanes, hlatch]
  rfl

/-- A special-function slot with another destination gives it its results at once. -/
theorem Ctx.sfuSlot_done (hr : ∀ r, f.dst ≠ .v r) :
    .next (slotEnd (c.sfuSlot f n op)) =
      (c.put t g).lanesDone (c.enabled f.pg f.pn) f.dst f.nw f.pfx true h fun l => elReg f.ty (row l) := by
  have hno := laneNan_rows 2 hn
  unfold Ctx.sfuSlot Ctx.entry
  refine (Ctx.enter_completes b ?_).trans (Ctx.result_lanes _ _ _ _ _ _ _ _ _ fun l => get_rows _ _ l)
  simp only [mapElems_lane, ← hrow, hno, List.map_map, Function.comp_def]
  cases hd : f.dst with
  | v r => exact absurd hd (hr r)
  | _ => rfl

end

/-- The special-function opcodes: the number of sources and the operation on a sub-element. -/
def specialOps (f : VForm) : List (Nat × Instr × (FEnv → List Nat → El)) :=
  [(1, .vrcp f, fun fe => op1 (elRcp f.ty fe)), (1, .vrsq f, fun fe => op1 (elRsq f.ty fe)), (1, .vsqrt f, fun fe => op1 (elSqrt f.ty fe)),
    (1, .vexp2 f, fun fe => op1 (elExp2 f.ty fe)), (1, .vlog2 f, fun fe => op1 (elLog2 f.ty fe)), (1, .vsin f, fun fe => op1 (elSin f.ty fe)),
    (1, .vcos f, fun fe => op1 (elCos f.ty fe)), (2, .vfdiv f, fun fe => op2 (elFdiv f.ty fe)), (1, .vtanh f, fun fe => op1 (elTanh f.ty fe)),
    (1, .verf f, fun fe => op1 (elErf f.ty fe))]

/-- Every one of them runs the special-function slot with its operation. -/
theorem exec_specialOps (f : VForm) (s : State) : ∀ o ∈ specialOps f, exec o.2.1 s = runSlot s fun c => c.sfuSlot f o.1 o.2.2 := by
  simp only [specialOps, List.forall_mem_cons, List.not_mem_nil, false_imp_iff, implies_true, and_true]
  exact ⟨rfl, rfl, rfl, rfl, rfl, rfl, rfl, rfl, rfl, rfl⟩

/-- Settles O13: each opcode of `specialOps` runs the special-function slot, whose pending write is `Ctx.sfuPending`. -/
theorem specialFunctionsPend : Obligations.SpecialFunctionsPend := by
  unfold Obligations.SpecialFunctionsPend
  intro s c f t g h xs n i op hc e d fe hmem b row hn
  obtain ⟨op', hin, rfl⟩ := mem_ops (ops := specialOps f) (fe := fe) hmem
  rw [exec_specialOps f s _ hin, runSlot_runs hc]
  refine ⟨fun r hr => ⟨_, Ctx.sfuSlot_pends b (fun _ => rfl) hn hr, rfl, rfl, rfl, rfl, rfl, rfl, rfl, rfl, rfl, rfl, fun _ _ => rfl,
    fun l hl => ?_⟩, fun hr => Ctx.sfuSlot_done b (fun _ => rfl) hn hr⟩
  simp only [Ctx.sfuPending, BitVec.getLsbD_and, BitVec.getLsbD_not, BitVec.getLsbD_or, hl, decide_true, Bool.true_and, Bool.not_or,
    Bool.and_assoc]
  rfl

end Sys2Proof.Machine
end

section
/-!
SUPPORT. Results that are still to come (R67, R246, R263, R281, R427): which lanes have their data, the words that a pending write puts into
its registers, and the end of a load and of a special function.
-/
namespace Sys2Proof.Machine
open Sys2Proof

/-! ## The lanes that have their data -/

/-- Every lane of a pending write gets its data or a fault, in the order of its lanes. -/
theorem lanesData_keys (g : Group) (p : Pending) (s : State) (xs : List (Nat × LaneSource)) :
    (lanesData g p s xs).2.map (fun x => x.1) = xs.map fun x => x.1 := by
  induction xs generalizing s with
  | nil => rfl
  | cons x xs ih => exact congrArg (x.1 :: ·) (ih _)

theorem mem_goodLanes {r : List (Nat × Except FaultInfo (List W64))} {l : Nat} {ws : List W64} :
    (l, ws) ∈ goodLanes r ↔ (l, .ok ws) ∈ r := by
  simp only [goodLanes, List.mem_filterMap]
  constructor
  · rintro ⟨⟨k, y⟩, hmem, hy⟩
    cases y with
    | error f => cases hy
    | ok vs =>
        obtain ⟨rfl, rfl⟩ : k = l ∧ vs = ws := by simpa using hy
        exact hmem
  · exact fun hmem => ⟨_, hmem, rfl⟩

/-- The lanes with data are among the lanes, in their order. -/
theorem goodLanes_keys_sublist (r : List (Nat × Except FaultInfo (List W64))) :
    ((goodLanes r).map fun x => x.1).Sublist (r.map fun x => x.1) := by
  induction r with
  | nil => exact List.Sublist.refl _
  | cons x r ih =>
      obtain ⟨l, y⟩ := x
      cases y with
      | error f => exact ih.cons l
      | ok ws => exact ih.cons_cons l

/-! ## The words of a lane in its registers (R281) -/

/-- The words of a lane put into the `n` registers from `r`. -/
def Group.putWords (g : Group) (r n : Nat) (x : Nat × List W64) : Group :=
  (span 0 n).foldl (fun g i => g.setVreg (r + i) x.1 (x.2.getD i 0)) g

theorem Group.vreg_putWords (g : Group) (r n : Nat) (x : Nat × List W64) {j l : Nat} (hj : j < n) (hx : x.1 < 64) (hl : l < 64) :
    (g.putWords r n x).vreg (r + j) l = if l = x.1 then x.2.getD j 0 else g.vreg (r + j) l := by
  have hfold : ∀ (is : List Nat) (g : Group), (is.foldl (fun g i => g.setVreg (r + i) x.1 (x.2.getD i 0)) g).vreg (r + j) l =
      if j ∈ is ∧ l = x.1 then x.2.getD j 0 else g.vreg (r + j) l := by
    intro is
    induction is with
    | nil => intro g; simp
    | cons i is ih =>
        intro g
        rw [List.foldl_cons, ih, g.vreg_setVreg _ _ _ _ _ hx hl]
        by_cases hin : j ∈ is <;> by_cases hi : j = i <;> by_cases hlane : l = x.1 <;> simp [hin, hi, hlane]
  rw [Group.putWords, hfold]
  simp only [(mem_span 0 n j).mpr ⟨Nat.zero_le j, by omega⟩, true_and]

section
variable {r n j l : Nat} (hj : j < n) (hl : l < 64)
include hj hl

/-- The registers of a lane that gets no words stay. -/
theorem Group.vreg_foldWords_other (xs : List (Nat × List W64)) (g : Group) (hb : ∀ x ∈ xs, x.1 < 64) (hne : ∀ x ∈ xs, x.1 ≠ l) :
    (xs.foldl (fun g x => g.putWords r n x) g).vreg (r + j) l = g.vreg (r + j) l := by
  induction xs generalizing g with
  | nil => rfl
  | cons x xs ih =>
      rw [List.foldl_cons, ih _ (fun y hy => hb y (List.mem_cons_of_mem _ hy)) fun y hy => hne y (List.mem_cons_of_mem _ hy),
        g.vreg_putWords r n x hj (hb x List.mem_cons_self) hl, if_neg (hne x List.mem_cons_self).symm]

/-- A lane that occurs once gets its words. -/
theorem Group.vreg_foldWords_mem (xs : List (Nat × List W64)) (g : Group) (hb : ∀ x ∈ xs, x.1 < 64) (hd : (xs.map fun x => x.1).Nodup)
    {ws : List W64} (hmem : (l, ws) ∈ xs) : (xs.foldl (fun g x => g.putWords r n x) g).vreg (r + j) l = ws.getD j 0 := by
  induction xs generalizing g with
  | nil => cases hmem
  | cons x xs ih =>
      obtain ⟨hfresh, hd⟩ := List.nodup_cons.mp hd
      have hb' : ∀ y ∈ xs, y.1 < 64 := fun y hy => hb y (List.mem_cons_of_mem _ hy)
      obtain hx | hmem := List.mem_cons.mp hmem
      · subst hx
        rw [List.foldl_cons, Group.vreg_foldWords_other hj hl xs _ hb' fun y hy he => hfresh (List.mem_map.mpr ⟨y, hy, he⟩),
          g.vreg_putWords r n _ hj (hb _ List.mem_cons_self) hl, if_pos rfl]
      · exact ih _ hb' hd hmem

end

/-! ## The write mask of a pending write (R246) -/

/-- The lanes stay as they are; those of the zero policy get no words, which reads as zeros. -/
theorem Pending.writes_eq (p : Pending) (ls : List (Nat × List W64)) :
    p.writes ls = (ls.filter fun x => !p.keeps.getLsbD x.1).map fun x => (x.1, if p.zeros.getLsbD x.1 then [] else x.2) :=
  List.map_congr_left fun x _ => by split <;> rfl

/-- What a pending write puts into the registers of a lane with data: nothing where the lane is kept, zeros under the zero policy. -/
theorem Pending.mem_writes (p : Pending) (ls : List (Nat × List W64)) (l : Nat) (ws : List W64) :
    (l, ws) ∈ p.writes ls ↔ p.keeps.getLsbD l = false ∧ ∃ vs, (l, vs) ∈ ls ∧ ws = if p.zeros.getLsbD l then [] else vs := by
  simp only [Pending.writes_eq, List.mem_map, List.mem_filter, Bool.not_eq_true', Prod.mk.injEq, Prod.exists]
  constructor
  · rintro ⟨k, vs, ⟨hmem, hkeep⟩, rfl, rfl⟩
    exact ⟨hkeep, vs, hmem, rfl⟩
  · rintro ⟨hkeep, vs, hmem, rfl⟩
    exact ⟨l, vs, ⟨hmem, hkeep⟩, rfl, rfl⟩

theorem Pending.writes_keys_sublist (p : Pending) (ls : List (Nat × List W64)) :
    ((p.writes ls).map fun x => x.1).Sublist (ls.map fun x => x.1) := by
  rw [Pending.writes_eq, List.map_map]
  exact List.filter_sublist.map _

theorem Pending.writes_lanes (p : Pending) {ls : List (Nat × List W64)} (hb : ∀ x ∈ ls, x.1 < 64) : ∀ x ∈ p.writes ls, x.1 < 64 := by
  rintro ⟨l, ws⟩ hx
  obtain ⟨-, vs, hmem, -⟩ := (p.mem_writes ls l ws).mp hx
  exact hb (l, vs) hmem

/-! ## The destination and the latch (R67, R263) -/

theorem Group.receiveLatch_frame (g : Group) (p : Pending) (ls : List (Nat × List W64)) :
    { g.receiveLatch p ls with run := g.run } = g := by
  unfold Group.receiveLatch
  split
  · dsimp only
    split <;> rfl
  · rfl

/-- A group in which a pending write is done: its destination and its latch have the data, and it is pending no longer. -/
def Group.received (g : Group) (p : Pending) (ls : List (Nat × List W64)) : Group :=
  let h := (g.receive p ls).receiveLatch p ls
  { h with pending := h.pending.filter fun x => x.uid ≠ p.uid }

theorem Group.received_vreg (g : Group) (p : Pending) (ls : List (Nat × List W64)) (r l : Nat) :
    (g.received p ls).vreg r l = (g.receive p ls).vreg r l := by
  conv_rhs => rw [← (g.receive p ls).receiveLatch_frame p ls]
  rfl

theorem Group.received_sreg (g : Group) (p : Pending) (ls : List (Nat × List W64)) (r : Nat) :
    (g.received p ls).sreg r = (g.receive p ls).sreg r := by
  conv_rhs => rw [← (g.receive p ls).receiveLatch_frame p ls]
  rfl

theorem Group.receive_vregs (g : Group) {p : Pending} (ls : List (Nat × List W64)) {r n : Nat} (hp : p.dst = .vregs r n) :
    g.receive p ls = (p.writes ls).foldl (fun g x => g.putWords r n x) g := by
  rw [Group.receive, hp]
  rfl

section
variable (g : Group) {p : Pending} {ls : List (Nat × List W64)} {r n j l : Nat} (hp : p.dst = .vregs r n)
  (hd : (ls.map fun x => x.1).Nodup) (hb : ∀ x ∈ ls, x.1 < 64) (hl : l < 64) (hj : j < n)
include hp hb hl hj

theorem Group.received_vreg_other (hno : ∀ ws, (l, ws) ∉ ls) : (g.received p ls).vreg (r + j) l = g.vreg (r + j) l := by
  rw [Group.received_vreg, g.receive_vregs ls hp, Group.vreg_foldWords_other hj hl _ _ (p.writes_lanes hb)]
  rintro ⟨k, ws⟩ hmem rfl
  obtain ⟨-, vs, hmem, -⟩ := (p.mem_writes ls _ ws).mp hmem
  exact hno vs hmem

include hd

theorem Group.received_vreg_mem {ws : List W64} (hmem : (l, ws) ∈ ls) : (g.received p ls).vreg (r + j) l =
    if p.keeps.getLsbD l then g.vreg (r + j) l else if p.zeros.getLsbD l then 0 else ws.getD j 0 := by
  rw [Group.received_vreg, g.receive_vregs ls hp]
  split
  next hk =>
    refine Group.vreg_foldWords_other hj hl _ _ (p.writes_lanes hb) ?_
    rintro ⟨k, vs⟩ hvs rfl
    simp [((p.mem_writes ls _ vs).mp hvs).1] at hk
  next hk =>
    have hw := (p.mem_writes ls l _).mpr ⟨Bool.eq_false_iff.mpr hk, ws, hmem, rfl⟩
    rw [Group.vreg_foldWords_mem hj hl _ _ (p.writes_lanes hb) (hd.sublist (p.writes_keys_sublist ls)) hw]
    split <;> simp

end

theorem Group.received_sreg_first (g : Group) {p : Pending} {ls : List (Nat × List W64)} {n : Nat} {y : Nat × List W64}
    {ys : List (Nat × List W64)} (hp : p.dst = .sreg n) (hls : ls = y :: ys) : (g.received p ls).sreg n = y.2.headD 0 := by
  subst hls
  rw [Group.received_sreg, Group.receive, hp]
  exact (g.sreg_setSreg _ _ _).trans (if_pos rfl)

/-! ## The events (R263, R281, R427) -/

/-- The end of a pending write whose lanes have come to `x`: the group has received the good ones, and takes the first fault (R427). -/
def finishWrite (g : Group) (p : Pending) (x : State × List (Nat × Except FaultInfo (List W64))) : State :=
  let h := g.received p (goodLanes x.2)
  let fault := x.2.findSome? fun y => match y.2 with | .error f => some f | .ok _ => none
  (match fault with
    | some f => x.1.dataFault h f p.clause p.slot
    | none => x.1.setGroup h).settleStop h.uid

theorem State.completeWrite_eq (s : State) (g : Group) (p : Pending) :
    s.completeWrite g p = finishWrite g p (lanesData g p { s with flits := s.flits.filter fun f => f.uid ≠ p.uid } p.lanes) := rfl

theorem loadResult_completes {s : State} {g : Group} {p : Pending} {u i : Nat} (hg : s.group? u = some g) (hon : s.coreOn g.core = true)
    (hp : g.pending[i]? = some p) (hk : p.kind ≠ .sfu) (ha : p.lanes.all (s.laneArrives g p (g.pending.take i)) = true) :
    exec (.loadResult u i) s = .next (s.completeWrite g p) := by
  have hready : (s.coreOn g.core && p.kind ≠ .sfu && p.lanes.all (s.laneArrives g p (g.pending.take i))) = true := by simp [hon, hk, ha]
  show execLoadResult u i s = _
  unfold execLoadResult
  simp only [hg, hp, hready, if_true]

theorem sfuResult_completes {s : State} {g : Group} {p : Pending} {u : Nat} (hg : s.group? u = some g) (hon : s.coreOn g.core = true)
    (hp : g.pending.find? (fun q => q.kind = .sfu) = some p) : exec (.sfuResult u) s = .next (s.completeWrite g p) := by
  show execSfuResult u s = _
  unfold execSfuResult
  simp only [hg, hp, hon, if_true]

/-- Settles O42: both events complete the write, whose registers are those of `Group.received`. -/
theorem resultsReachTheirRegisters : Obligations.ResultsReachTheirRegisters := by
  unfold Obligations.ResultsReachTheirRegisters
  intro s t g p r hg hon hdata h' h fault after
  have hdone : s.completeWrite g p = after := (s.completeWrite_eq g p).trans (congrArg (finishWrite g p) hdata)
  have hkeys : r.map (fun x => x.1) = p.lanes.map fun x => x.1 := by
    rw [← lanesData_keys g p { s with flits := s.flits.filter fun f => f.uid ≠ p.uid } p.lanes, hdata]
  refine ⟨fun i hi hk ha => ?_, fun hi => ?_, fun n m hp l j hl hj hd hb => ?_, fun n hp y ys hy => g.received_sreg_first hp hy⟩
  · rw [← hdone]
    exact loadResult_completes hg hon hi hk ha
  · rw [← hdone]
    exact sfuResult_completes hg hon hi
  · have hd : ((goodLanes r).map fun x => x.1).Nodup := (hkeys ▸ hd).sublist (goodLanes_keys_sublist r)
    have hb : ∀ x ∈ goodLanes r, x.1 < 64 := by
      intro x hx
      have hx := (goodLanes_keys_sublist r).subset (List.mem_map_of_mem hx)
      rw [hkeys] at hx
      obtain ⟨y, hy, hyx⟩ := List.mem_map.mp hx
      exact hyx ▸ hb y hy
    exact ⟨fun ws hws => g.received_vreg_mem hp hd hb hl hj (mem_goodLanes.mpr hws),
      fun hno => g.received_vreg_other hp hb hl hj fun ws hws => hno ws (mem_goodLanes.mp hws)⟩

end Sys2Proof.Machine
end

section
/-!
SUPPORT. The system opcodes (R316 to R320, R449): where each one ends its slot, stops its group or lets it wait.
-/
namespace Sys2Proof.Machine
open Sys2Proof

/-! ## Slots that read no queue -/

theorem Use.queue?_of_fault {g : Group} {u : Use} (hk : u.k.q = false) (h : u.fault g = none) : u.queue? = none := by
  unfold Use.fault at h
  unfold Use.queue?
  cases hop : u.op with
  | q r => simp [hop, hk] at h
  | _ => rfl

/-- Legal operands of kinds without queues end no quantum. -/
theorem usesQueue_of_fields {g : Group} {us : List Use} (hk : ∀ u ∈ us, u.k.q = false) (h : us.findSome? (Use.fault g) = none) :
    usesQueue us = false :=
  List.any_eq_false.mpr fun u hu => by
    rw [Use.queue?_of_fault (hk u hu) (List.findSome?_eq_none_iff.mp h u hu)]
    exact Bool.false_ne_true

/-- A slot that ends no quantum ends as its own effect does, which may stop. -/
theorem Ctx.enter_runs {c : Ctx} {e : W64} {nw : Bool} {dsts srcs : List Use} {s : State} {g h : Group} {xs : List Src}
    {captures : Bool} (b : c.Begins { always := false } e nw dsts srcs s g h xs captures) (hk : ∀ u ∈ dsts ++ srcs, u.k.q = false)
    {body : Ctx → Group → List Src → Slot} :
    (.next (slotEnd (c.enter { always := false } e nw dsts srcs captures body)) : Host.Outcome State Fault Refusal) =
      .next (slotEnd (body (c.put s g) h xs)) := by
  have hq : endsQuantum { always := false } (dsts ++ srcs) = false := usesQueue_of_fields hk b.fields
  rw [Ctx.enter_begins b, if_neg (Bool.eq_false_iff.mp hq)]

/-! ## The slots of the family (R317, R318, R449) -/

theorem sysUse_kinds (f : SForm) : ∀ u ∈ sysUse f, u.k.q = false := by
  unfold sysUse
  split <;> simp [Kinds.sl]

/-- The slot of a TRET of the routine `r`, which leaves it by `d`. -/
def tretSlot (f : SForm) (r : Routine) (d : Goto) (c : Ctx) : Slot :=
  if c.enabled f.pg f.pn = 0 then c.skip else if c.p.routine = r then .done c.s c.g none (some d) else c.trap (tretFault f)

theorem exec_tretSave (f : SForm) (s : State) : exec (.tretSave f) s = runSlot s (tretSlot f .save .saved) := rfl
theorem exec_tretRest (f : SForm) (s : State) : exec (.tretRest f) s = runSlot s (tretSlot f .rest .restored) := rfl

/-- The destination of DATUM, where it has one. -/
def datumUse (f : SForm) : List Use := if f.dst.unused then [] else [⟨36, f.dst, .sq, 1⟩]

/-- The state after DATUM: the trigger has fired where debug permits it. -/
def State.datum (s : State) (vf : Nat) : State := if s.debugOn vf then (s.fireDatum 0 0).1 else s
/-- The number that DATUM answers. -/
def State.datumNumber (s : State) (vf : Nat) : W64 := if s.debugOn vf then (s.fireDatum 0 0).2.zeroExtend 64 else 0

/-- The time that SLEEPT waits for. -/
def sleeptDue (f : SForm) (t : State) (a : W64) : W64 := if f.sel = 1 then t.time + a else a

section
variable {s : State} {c : Ctx} (hc : s.runs c) {f : SForm}
include hc

theorem runSlot_skips {body : Ctx → Slot} (hb : body c = c.skip) : runSlot s body = doneWith s c.g none none := by
  rw [runSlot_runs hc, hb, Ctx.skip, State.running_state hc.1]
  rfl

theorem bkpt_stops (he : c.enabled f.pg f.pn ≠ 0) :
    exec (.bkpt f) s = .next (slotEnd (c.trap (.mk' 0x000F (if s.debugOn c.vf then 0 else 1) f.imm.toNat))) := by
  refine (runSlot_runs hc _).trans ?_
  rw [if_neg he, State.running_state hc.1]

theorem tretSlot_returns (he : c.enabled f.pg f.pn ≠ 0) (r : Routine) (d : Goto) :
    runSlot s (tretSlot f r d) = if c.p.routine = r then doneWith s c.g none (some d)
      else .next (slotEnd (c.trap (illegalOperand 6 15 f.sel.toNat))) := by
  rw [runSlot_runs hc, tretSlot, if_neg he]
  split
  · rw [State.running_state hc.1]
    rfl
  · rfl

section
variable {t : State} {g h : Group} {xs : List Src}

theorem trap_stops (b : c.Begins { always := false } (c.enabled f.pg f.pn) true [] (sysUse f) t g h xs false) :
    exec (.trap f) s = .next (slotEnd ((c.put t g).trap (.mk' 0x000E 0 f.imm.toNat (sysValue (c.enabled f.pg f.pn) xs).toNat))) :=
  (runSlot_runs hc _).trans (Ctx.enter_runs b (sysUse_kinds f))

/-- DATUM fires its trigger, and its number goes to the destination, where there is one. -/
theorem datum_completes
    (b : c.Begins { always := false } (c.enabled f.pg f.pn) f.nw (datumUse f) [] t g h xs (!f.dst.unused)) :
    exec (.datum f) s =
      if f.dst.unused = true then doneWith (t.datum (c.put t g).vf) h none none
      else ({ c.put t g with s := t.datum (c.put t g).vf } : Ctx).pathDone (c.enabled f.pg f.pn) f.dst f.nw f.pfx false h
        (t.datumNumber (c.put t g).vf) := by
  refine (runSlot_runs hc _).trans ?_
  unfold State.datum State.datumNumber
  unfold datumUse at b
  cases hd : f.dst.unused with
  | true =>
      simp only [hd, Bool.not_true, if_true, Bool.false_eq_true, if_false] at b ⊢
      refine Ctx.enter_completes b ?_
      cases hon : t.debugOn (c.put t g).vf <;> simp only [Ctx.put_s, hon] <;> rfl
  | false =>
      simp only [hd, Bool.not_false, if_true, Bool.false_eq_true, if_false] at b ⊢
      refine Ctx.enter_completes b ?_
      cases hon : t.debugOn (c.put t g).vf <;> simp only [Ctx.put_s, hon] <;> rfl

section
variable (b : c.Begins { always := false } (c.enabled f.pg f.pn) true [] [⟨27, f.sa, .sl, 1⟩] t g h xs false)
include b

theorem sleept_completes (h' : c.r.woken = true ∨ (sleeptDue f t (sysValue (c.enabled f.pg f.pn) xs)).toNat ≤ t.time.toNat) :
    exec (.sleept f) s = doneWith t h none none :=
  (runSlot_runs hc _).trans (Ctx.enter_completes b (if_pos (Bool.or_eq_true_iff.mpr (h'.imp_right decide_eq_true))))

theorem sleept_waits (hw : c.r.woken = false) (hlt : t.time.toNat < (sleeptDue f t (sysValue (c.enabled f.pg f.pn) xs)).toNat) :
    exec (.sleept f) s = .next (slotEnd ((c.put t g).block (.time (sleeptDue f t (sysValue (c.enabled f.pg f.pn) xs))))) :=
  (runSlot_runs hc _).trans (Ctx.enter_blocks b (if_neg (Bool.eq_false_iff.mp
    (Bool.or_eq_false_iff.mpr ⟨hw, decide_eq_false (Nat.not_le.mpr hlt)⟩))))

end

end

end

/-- Settles O21: with no executing lane these slots skip; with one, each has the effect of its own lemma. -/
theorem systemOpcodesComplete : Obligations.SystemOpcodesComplete := by
  unfold Obligations.SystemOpcodesComplete
  intro s c hc
  refine ⟨fun f => runSlot_skips hc rfl, fun f he => ?_, fun f he => ?_, fun f t g h xs => ?_⟩
  · exact ⟨runSlot_skips hc (if_pos he), runSlot_skips hc (if_pos he), runSlot_skips hc (if_pos he)⟩
  · exact ⟨bkpt_stops hc he, (exec_tretSave f s).trans (tretSlot_returns hc he .save .saved),
      (exec_tretRest f s).trans (tretSlot_returns hc he .rest .restored)⟩
  · exact ⟨fun b => trap_stops hc b,
      fun b => ⟨fun hd => (datum_completes hc b).trans (if_pos hd), fun hd => (datum_completes hc b).trans (if_neg (Bool.eq_false_iff.mp hd))⟩,
      fun b => ⟨sleept_completes hc b, sleept_waits hc b⟩⟩

end Sys2Proof.Machine
end

section
/-!
SUPPORT. Lane atomics (R277, R291 to R293): the new value of an element at its home, and the operations that a slot sends.
-/
namespace Sys2Proof.Machine
open Sys2Proof

/-! ## Numbers and their bytes (R9, R220) -/

theorem natOfBytes_bytesOfNat (n x : Nat) : natOfBytes (bytesOfNat n x) = x % 256 ^ n := by
  induction n generalizing x with
  | zero => exact (Nat.mod_one x).symm
  | succ n ih => rw [bytesOfNat, natOfBytes, ih, BitVec.toNat_ofNat, pow_succ' 256, Nat.mod_mul]

theorem natOfBytes_lt (bs : List Byte) : natOfBytes bs < 256 ^ bs.length := by
  induction bs with
  | nil => exact Nat.one_pos
  | cons b bs ih =>
      rw [natOfBytes, List.length_cons, pow_succ']
      have := b.isLt
      omega

theorem Memory.length_readN (m : Tbl Byte) (a n : Nat) : (Memory.readN m a n).length = n := by
  induction n generalizing a with
  | zero => rfl
  | succ n ih => rw [Memory.readN, List.length_cons, ih]

/-! ## The element at its home (R292) -/

/-- The whole bytes of an element hold its patterns. -/
theorem pow_elementBytes {ty : ElemType} (ht : ty ∈ [ElemType.n32, .s32, .n64, .s64]) : 256 ^ (ty.width / 8) = 2 ^ ty.width := by
  simp only [List.mem_cons, List.not_mem_nil, or_false] at ht
  obtain rfl | rfl | rfl | rfl := ht <;> rfl

theorem atomicNew_lt {ty : ElemType} {op old v : Nat} {cmp : Option Nat} (ho : old < 2 ^ ty.width) (hv : v < 2 ^ ty.width) :
    atomicNew ty op old v cmp < 2 ^ ty.width := by
  have hite (p : Prop) [Decidable p] : (if p then v else old) < 2 ^ ty.width := by split <;> assumption
  unfold atomicNew
  cases cmp with
  | some y => exact hite _
  | none =>
      dsimp only
      split
      · exact Nat.mod_lt _ (by positivity)
      · exact hite _
      · exact hite _
      · exact Nat.and_lt_two_pow _ hv
      · exact Nat.or_lt_two_pow ho hv
      · exact Nat.xor_lt_two_pow ho hv
      · exact hv

/-- The lower of two integers replaces the element, and the higher one. -/
theorem intOf_atomicNew_min (ty : ElemType) (old v : Nat) : intOf ty (atomicNew ty 1 old v none) = min (intOf ty old) (intOf ty v) := by
  rw [atomicNew, apply_ite (intOf ty), min_def]
  split <;> split <;> omega

theorem intOf_atomicNew_max (ty : ElemType) (old v : Nat) : intOf ty (atomicNew ty 2 old v none) = max (intOf ty old) (intOf ty v) := by
  rw [atomicNew, apply_ite (intOf ty), max_def]
  split <;> split <;> omega

theorem applyAtomic_mem (s : State) (cell : Nat) (ty : ElemType) (op : Nat) (v : W64) (cmp : Option W64) :
    (s.applyAtomic cell ty op v cmp).1.mem = Memory.writeN s.mem cell (bytesOfNat (ty.width / 8)
      (atomicNew ty op (natOfBytes (Memory.readN s.mem cell (ty.width / 8))) (v.toNat % 2 ^ ty.width) (cmp.map fun x => x.toNat % 2 ^ ty.width))) :=
  applyWrite_mem _ _ _ _

theorem applyAtomic_outside (s : State) {cell : Nat} {ty : ElemType} (op : Nat) (v : W64) (cmp : Option W64) {a : Nat}
    (h : a < cell ∨ cell + ty.width / 8 ≤ a) : Memory.read (s.applyAtomic cell ty op v cmp).1.mem a = Memory.read s.mem a := by
  rw [applyAtomic_mem]
  exact Memory.read_writeN_outside _ _ _ _ (by rwa [length_bytesOfNat])

/-- The element then reads as its new value. -/
theorem applyAtomic_element (s : State) (cell : Nat) {ty : ElemType} (op : Nat) (v : W64) (cmp : Option W64)
    (ht : ty ∈ [ElemType.n32, .s32, .n64, .s64]) :
    natOfBytes (Memory.readN (s.applyAtomic cell ty op v cmp).1.mem cell (ty.width / 8)) =
      atomicNew ty op (natOfBytes (Memory.readN s.mem cell (ty.width / 8))) (v.toNat % 2 ^ ty.width) (cmp.map fun x => x.toNat % 2 ^ ty.width) := by
  have hread (x : Nat) : Memory.readN (Memory.writeN s.mem cell (bytesOfNat (ty.width / 8) x)) cell (ty.width / 8) = bytesOfNat (ty.width / 8) x := by
    have h := Memory.readN_writeN s.mem cell (bytesOfNat (ty.width / 8) x)
    rwa [length_bytesOfNat] at h
  have hold := natOfBytes_lt (Memory.readN s.mem cell (ty.width / 8))
  rw [Memory.length_readN, pow_elementBytes ht] at hold
  rw [applyAtomic_mem, hread, natOfBytes_bytesOfNat, pow_elementBytes ht]
  exact Nat.mod_eq_of_lt (atomicNew_lt hold (Nat.mod_lt _ (by positivity)))

/-! ## What a slot sends (R292, R293) -/

/-- The first source is read from registers, or popped off its queue. -/
theorem takeSources_cons {r : ClauseRun} {u : Use} {us : List Use} {g h : Group} {xs : List Src}
    (hs : takeSources r g (u :: us) = .ok (h, xs)) : ∃ q ys, takeSources r { g with queues := q } us = .ok (h, ys) := by
  have hrest {g' : Group} {x : Src} (ht : (match takeSources r g' us with
      | .ok (g, xs) => .ok (g, x :: xs)
      | .error q => .error q : Except Nat (Group × List Src)) = .ok (h, xs)) : ∃ ys, takeSources r g' us = .ok (h, ys) := by
    split at ht
    · cases ht
      exact ⟨_, ‹_›⟩
    · cases ht
  unfold takeSources at hs
  dsimp only at hs
  split at hs
  case h_4 =>
    unfold Group.popEntry at hs
    dsimp only at hs
    split at hs
    · cases hs
    · rename_i hpop
      split at hpop
      · cases hpop
      · cases hpop
        exact ⟨_, hrest hs⟩
  all_goals exact ⟨g.queues, hrest hs⟩

/-- Reading the sources changes the queues of a group only. -/
theorem takeSources_frame {r : ClauseRun} {us : List Use} {g h : Group} {xs : List Src} (hs : takeSources r g us = .ok (h, xs)) :
    ∃ q, h = { g with queues := q } := by
  induction us generalizing g xs with
  | nil =>
      cases hs
      exact ⟨h.queues, rfl⟩
  | cons u us ih =>
      obtain ⟨q, ys, hys⟩ := takeSources_cons hs
      obtain ⟨q', hq'⟩ := ih hys
      exact ⟨q', hq'⟩

/-- The operations `os` have left for the accesses `as`, one for each in their order, between the states `s` and `s'` and the groups `g`
and `g'`; `v` and `cmp` are the lanes' operands. -/
structure AtomicsSent (t : ElemType) (op : Nat) (v : Src) (cmp : Nat → Option W64) (as : List LaneAcc) (s s' : State) (g g' : Group)
    (os : List HomeOp) : Prop where
  net : s'.net = s.net ++ os
  mem : s'.mem = s.mem
  group : g' = { g with acks := g.acks + (os.filter fun o => o.counted).length }
  places : os.map (fun o => (o.sender, o.lane, o.cell)) = as.map fun x => (Sender.group g.uid, x.lane, x.cell)
  kinds : ∀ o ∈ os, ∃ r, o.kind = .atomic t op (v o.lane) (cmp o.lane) r

section
variable {t : ElemType} {op : Nat} {v : Src} {cmp : Nat → Option W64}

theorem AtomicsSent.nil (s : State) (g : Group) : AtomicsSent t op v cmp [] s s g g [] :=
  ⟨(List.append_nil _).symm, rfl, rfl, rfl, fun _ ho => absurd ho List.not_mem_nil⟩

theorem AtomicsSent.append {as bs : List LaneAcc} {s s' s'' : State} {g g' g'' : Group} {os ps : List HomeOp}
    (h : AtomicsSent t op v cmp as s s' g g' os) (k : AtomicsSent t op v cmp bs s' s'' g' g'' ps) :
    AtomicsSent t op v cmp (as ++ bs) s s'' g g'' (os ++ ps) where
  net := by rw [k.net, h.net, List.append_assoc]
  mem := k.mem.trans h.mem
  group := by rw [k.group, h.group, List.filter_append, List.length_append, Nat.add_assoc]
  places := by rw [List.map_append, List.map_append, h.places, k.places, h.group]
  kinds := fun o ho => (List.mem_append.mp ho).elim (h.kinds o) (k.kinds o)

theorem sendAtomic_sends (s : State) (g : Group) (x : LaneAcc) (ret : Option (Nat × Nat)) (vf : Nat) (clause : W32) (slot : Nat) :
    ∃ o, AtomicsSent t op v cmp [x] s (s.sendAtomic g x t op (v x.lane) (cmp x.lane) ret vf clause slot).1 g
      (s.sendAtomic g x t op (v x.lane) (cmp x.lane) ret vf clause slot).2 [o] := by
  unfold State.sendAtomic
  dsimp only
  generalize ho : HomeOp.mk .. = o
  obtain ⟨ls, fs, hs⟩ := sendOp_frame s o o.cls
  rw [hs]
  subst ho
  refine ⟨_, rfl, rfl, ?_, rfl, fun o ho => List.mem_singleton.mp ho ▸ ⟨ret, rfl⟩⟩
  cases hf : s.isFar (g.core / 48) x.cell <;> rfl

theorem foldl_sendAtomic_sends (as : List LaneAcc) (s : State) (g : Group) (ret : Option (Nat × Nat)) (vf : Nat) (clause : W32) (slot : Nat) :
    ∃ s' g' os, as.foldl (fun (a : State × Group) x => a.1.sendAtomic a.2 x t op (v x.lane) (cmp x.lane) ret vf clause slot) (s, g) = (s', g') ∧
      AtomicsSent t op v cmp as s s' g g' os := by
  induction as generalizing s g with
  | nil => exact ⟨s, g, [], rfl, .nil s g⟩
  | cons x as ih =>
      obtain ⟨o, ho⟩ := sendAtomic_sends s g x ret vf clause slot
      obtain ⟨s', g', os, hfold, hos⟩ := ih _ _
      exact ⟨s', g', o :: os, hfold, ho.append hos⟩

end

/-! ## Atomic slots (R277, R291 to R293) -/

/-- The accesses `as` of an atomic slot with the executing lanes `e` pass their checks, which answers `u`, and nothing keeps the slot from
sending its operations. -/
def Ctx.atomicsPass (c : Ctx) (f : MForm) (e : W64) (u : State) (h : Group) (as : List LaneAcc) (i : Src) (ofs : Int) : Prop :=
  c.resolve .atomic f.cap.toNat (c.g.cap f.cap.toNat) rAtomic (f.ty.width / 8) (f.ty.width / 8)
    ((lanes e).map fun l => (l, elemAddr (c.g.cap f.cap.toNat) (i l) ofs (f.ty.width / 8))) = (u, .ok as) ∧
  c.g.loadsOf e = false ∧ c.g.acks + u.farCount c.g as ≤ Config.ackLimit ∧ u.roomFor c.g clsRequest as = true ∧
  h.loads < Config.loadLimit ∧ c.launch.hdr.sub = false

/-- The outcome `r` of an atomic slot that sends its operations from the state `u`, with the group `h` after the pops. -/
def sendsAtomics (r : Host.Outcome State Fault Refusal) (f : MForm) (u : State) (h : Group) (as : List LaneAcc) (sender : Nat) (op : Nat)
    (v : Src) (cmp : Nat → Option W64) (ret : Bool) : Prop :=
  ∃ (t' : State) (g' : Group) (os : List HomeOp),
    r = doneWith t' g' (if ret then some [] else none) none ∧ t'.net = u.net ++ os ∧ t'.mem = u.mem ∧
    { g' with acks := h.acks, pending := h.pending } = h ∧
    g'.acks = h.acks + (os.filter fun o => o.counted).length ∧
    os.map (fun o => (o.sender, o.lane, o.cell)) = as.map (fun x => (Sender.group sender, x.lane, x.cell)) ∧
    (∀ o ∈ os, ∃ r, o.kind = .atomic f.ty op (v o.lane) (cmp o.lane) r) ∧
    (ret = false → g'.pending = h.pending) ∧
    (ret = true → ∃ p, g'.pending = h.pending ++ [p] ∧ p.kind = .load ∧ p.dst = pendDst f.data f.nw ∧
      p.lanes = as.map fun x => (x.lane, .home))

/-- The pending write of the old values, and the state after its number is taken. -/
def Ctx.atomicPend (c : Ctx) (f : MForm) (u : State) (as : List LaneAcc) (ret : Bool) : State × Pending :=
  c.pend u .load f.ty (pendDst f.data f.nw) (as.map fun x => (x.lane, .home)) ret false

section
variable {c : Ctx} {f : MForm} {t u : State} {g h : Group} {xs : List Src} {as : List LaneAcc} {ofs : Int} (hord : f.ord = 0)
include hord

section
variable {srcs : List Use} {ret : Bool} {args : List Src → Src × Option Src × List Src} {nw : Bool} (op : Nat)
  (b : c.Begins { always := false, fence := fenceOf f } (c.enabled f.pg f.pn) nw [] (srcs ++ idxUse f .vsl) t g h xs ret)
  (hnw : (f.nw || !ret) = nw) (hp : (c.put t g).atomicsPass f (c.enabled f.pg f.pn) u h as (idxSrc f (args xs).2.2) ofs)
include b hnw hp

theorem Ctx.atomicSlot_completes {t' : State} {g' : Group}
    (hfold : as.foldl (fun (a : State × Group) x => a.1.sendAtomic a.2 x f.ty op ((args xs).1 x.lane)
      ((args xs).2.1.map fun y => y x.lane) (if ret then some (g.uid, ((c.put t g).atomicPend f u as ret).2.uid) else none)
      (c.put t g).vf c.r.clause c.r.idx)
      (((c.put t g).atomicPend f u as ret).1, h) = (t', g')) :
    .next (slotEnd (c.atomicSlot f op ofs [] srcs ret args)) =
      doneWith t' (if ret then { g' with pending := g'.pending ++ [((c.put t g).atomicPend f u as ret).2] } else g')
        (if ret then some [] else none) none := by
  subst hnw
  obtain ⟨hres, hloads, hacks, hroom, hlimit, hsub⟩ := hp
  simp only [Ctx.put_g] at hres hloads hacks hroom
  have hwait : u.sendWaits g clsRequest as = none := by
    rw [State.sendWaits, if_neg (Nat.not_lt.mpr hacks), hroom]
    rfl
  have hrelease : isRelease f.ord = false := by rw [hord]; rfl
  have hacquire : isAcquire f.ord = false := by rw [hord]; rfl
  have hreturns : (ret && decide (Config.loadLimit ≤ h.loads)) = false := by simp [hlimit]
  unfold Ctx.atomicPend at hfold ⊢
  unfold Ctx.atomicSlot
  refine Ctx.enter_completes b ?_
  simp only [hres, hrelease, hacquire, hloads, hreturns, hsub, hwait, hfold, Ctx.put_g, Ctx.put_r, Bool.false_eq_true, if_false]
  split <;> rfl

/-- A slot without an order whose accesses pass sends one operation for each of them. -/
theorem Ctx.atomicSlot_sends : sendsAtomics (.next (slotEnd (c.atomicSlot f op ofs [] srcs ret args))) f u h as g.uid op
    (args xs).1 (fun l => (args xs).2.1.map fun x => x l) ret := by
  obtain ⟨t', g', os, hfold, hos⟩ := foldl_sendAtomic_sends (t := f.ty) (op := op) (v := (args xs).1)
    (cmp := fun l => (args xs).2.1.map fun x => x l) as
    ((c.put t g).atomicPend f u as ret).1 h (if ret then some (g.uid, ((c.put t g).atomicPend f u as ret).2.uid) else none) (c.put t g).vf
    c.r.clause c.r.idx
  have huid : h.uid = g.uid := by
    obtain ⟨q, rfl⟩ := takeSources_frame b.sources
    rfl
  obtain ⟨hnet, hmem, rfl, hplaces, hkinds⟩ := hos
  rw [huid] at hplaces
  refine ⟨t', _, os, Ctx.atomicSlot_completes hord op b hnw hp hfold, hnet, hmem, ?_, ?_, hplaces, hkinds, ?_, ?_⟩
  · cases ret <;> rfl
  · cases ret <;> rfl
  · rintro rfl
    rfl
  · rintro rfl
    exact ⟨_, rfl, rfl, rfl, rfl⟩

end

section
variable {s : State} (hc : s.runs c)
include hc

theorem atom_sends (b : c.Begins { always := false, fence := fenceOf f } (c.enabled f.pg f.pn) true [] (dataUse f .vslq :: idxUse f .vsl) t g h
      xs false)
    (hp : (c.put t g).atomicsPass f (c.enabled f.pg f.pn) u h as (idxSrc f xs.tail) (ofs12 f)) :
    sendsAtomics (exec (.atom f) s) f u h as g.uid (ofsTop f) (xs.headD fun _ => 0) (fun _ => none) false := by
  have hrun : exec (.atom f) s = .next (slotEnd (c.atomicSlot f (ofsTop f) (ofs12 f) [] [dataUse f .vslq] false
    fun xs => (xs.headD fun _ => 0, none, xs.tail))) := runSlot_runs hc _
  rw [hrun]
  exact Ctx.atomicSlot_sends hord (srcs := [dataUse f .vslq]) (ofsTop f) b (Bool.or_true _) hp

theorem atomr_sends (b : c.Begins { always := false, fence := fenceOf f } (c.enabled f.pg f.pn) f.nw [] (dataUse f .onlyV :: idxUse f .vsl) t g h
      xs)
    (hp : (c.put t g).atomicsPass f (c.enabled f.pg f.pn) u h as (idxSrc f xs.tail) (ofs12 f)) :
    sendsAtomics (exec (.atomr f) s) f u h as g.uid (ofsTop f) (xs.headD fun _ => 0) (fun _ => none) true := by
  have hrun : exec (.atomr f) s = .next (slotEnd (c.atomicSlot f (ofsTop f) (ofs12 f) [] [dataUse f .onlyV] true
    fun xs => (xs.headD fun _ => 0, none, xs.tail))) := runSlot_runs hc _
  rw [hrun]
  exact Ctx.atomicSlot_sends hord (srcs := [dataUse f .onlyV]) (ofsTop f) b (Bool.or_false _) hp

theorem cas_sends {o : Operand} (ho : f.pfx.d4 = some o)
    (b : c.Begins { always := false, fence := fenceOf f } (c.enabled f.pg f.pn) f.nw []
      (dataUse f .onlyV :: ⟨7, o, .vsl, 1⟩ :: idxUse f .vsl) t g h xs)
    (hp : (c.put t g).atomicsPass f (c.enabled f.pg f.pn) u h as (idxSrc f xs.tail.tail) f.ofs.toInt) :
    sendsAtomics (exec (.cas f) s) f u h as g.uid 6 (xs.headD fun _ => 0) (fun l => some ((xs.tail.headD fun _ => 0) l)) true := by
  have hrun : exec (.cas f) s = .next (slotEnd (c.atomicSlot f 6 f.ofs.toInt [] [dataUse f .onlyV, ⟨7, o, .vsl, 1⟩] true
      fun xs => (xs.headD fun _ => 0, some (xs.tail.headD fun _ => 0), xs.drop 2))) := by
    refine (runSlot_runs hc _).trans ?_
    rw [ho]
    rfl
  have hrest : xs.drop 2 = xs.tail.tail := by rw [← List.drop_one, ← List.drop_one, List.drop_drop]
  rw [hrun]
  exact Ctx.atomicSlot_sends hord (srcs := [dataUse f .onlyV, ⟨7, o, .vsl, 1⟩]) 6 b (Bool.or_false _) (hrest ▸ hp)

end

end

/-- Settles O28: the element at its home is that of `applyAtomic_element`, and each opcode runs the slot of `Ctx.atomicSlot_sends`. -/
theorem atomicsReplaceAndLeave : Obligations.AtomicsReplaceAndLeave := by
  unfold Obligations.AtomicsReplaceAndLeave
  refine ⟨fun s cell ty op v cmp ht _ => ?_, fun s c f t u g h xs as hc hord => ?_⟩
  · intro n r old new x
    have hnew : new = atomicNew ty op old x (cmp.map fun y => y.toNat % 2 ^ ty.width) := applyAtomic_element s cell op v cmp ht
    refine ⟨rfl, fun a ha => applyAtomic_outside s op v cmp ha, ?_, ?_⟩
    · rintro rfl
      rw [hnew]
      refine ⟨?_, ?_, ?_, ?_, ?_, ?_, ?_⟩ <;> rintro rfl
      exacts [rfl, intOf_atomicNew_min _ _ _, intOf_atomicNew_max _ _ _, rfl, rfl, rfl, rfl]
    · rintro y rfl
      exact hnew
  · exact ⟨atom_sends hord hc, atomr_sends hord hc, fun o => cas_sends hord hc⟩

end Sys2Proof.Machine
end

section
/-!
SUPPORT. Slots of the matrix class (R76, R321, R322, R324): the tiles they acquire, the operation they issue, and when they wait.
-/
namespace Sys2Proof.Machine
open Sys2Proof

@[simp] theorem State.pair_setPair (s : State) (n : Nat) (p : Pair) : (s.setPair n p).pair n = p := Tbl.get_put_same _ _ _ _

/-! ## Faults of operand checks -/

@[simp] theorem firstFault_nil : firstFault [] = none := rfl
@[simp] theorem firstFault_none_cons (xs : List (Option FaultInfo)) : firstFault (none :: xs) = firstFault xs := rfl

theorem faultIf_false {b : Bool} (x : FaultInfo) (h : b = false) : faultIf b x = none := by
  rw [h]
  rfl

/-! ## Sources for the path -/

/-- The value of source `n` of a slot for its path, by the form of the slot. -/
abbrev Ctx.vword (c : Ctx) (f : VForm) (xs : List Src) (n : Nat) : W64 := pathValue (c.enabled f.pg f.pn) xs n
abbrev Ctx.qword (c : Ctx) (f : QForm) (xs : List Src) (n : Nat) : W64 := pathValue (c.enabled f.pg f.pn) xs n

/-- The fourth operand of a matrix slot, where it has one. -/
def fourthUse (f : VForm) : List Use := match f.pfx.d4 with | some o => [⟨7, o, .sl, 1⟩] | none => []

/-! ## The tiles that a slot acquires (R76, R322) -/

@[simp] theorem Ctx.withTiles_s (c : Ctx) (t u : State) (g : Group) : (c.withTiles t g u).s = u := rfl
@[simp] theorem Ctx.withTiles_g (c : Ctx) (t u : State) (g : Group) : (c.withTiles t g u).g = g := rfl
@[simp] theorem Ctx.withTiles_r (c : Ctx) (t u : State) (g : Group) : (c.withTiles t g u).r = c.r := rfl

section
variable {c : Ctx} {o : Start} {e : W64} {nw : Bool} {dsts srcs : List Use} {t u : State} {g h : Group} {xs : List Src} {captures : Bool}
  (b : c.BeginsMtx o e nw dsts srcs t g h xs u captures) {body : Ctx → Group → List Src → Slot}
include b

/-- A matrix slot whose operands are in order and whose own effect completes is done with it. -/
theorem Ctx.mtxSlot_completes {t' : State} {g' : Group} {l : Option (Tbl W64)} {d : Option Goto}
    (hb : body (c.withTiles t g u) h xs = .done t' g' l d) :
    .next (slotEnd (c.mtxSlot e nw dsts srcs captures body o)) = doneWith t' g' l d := by
  obtain ⟨b, hu⟩ := b
  refine Ctx.enter_completes b ?_
  simp only [Ctx.put_s, Ctx.put_g, hu]
  exact hb

/-- A matrix slot whose operands are in order and whose own effect waits blocks its path. -/
theorem Ctx.mtxSlot_blocks {t' : State} {g' : Group} {w : Wait} (hb : body (c.withTiles t g u) h xs = .stop t' g' (.block w)) :
    (.next (slotEnd (c.mtxSlot e nw dsts srcs captures body o)) : Host.Outcome State Fault Refusal) =
      .next (slotEnd (.stop t' g' (.block w))) := by
  obtain ⟨b, hu⟩ := b
  refine Ctx.enter_blocks b ?_
  simp only [Ctx.put_s, Ctx.put_g, hu]
  exact hb

end

/-! ## The operation that a slot issues (R321, R324) -/

/-- The operation that a slot of a context issues. -/
def Ctx.mtxOp (c : Ctx) (s : State) (g : Group) (rnd : BitVec 3) (kind : MtxKind) (va : Nat) (inc : Option (Nat × Nat)) : MtxOp :=
  { uid := s.uid, group := g.uid, parcel := g.parcel, vf := c.vf, core := g.core, clause := c.r.clause, slot := c.r.idx, fmt := c.fmtWith rnd,
    status := (g.outputAt 2 0).map fun q => (q, (g.queue q).gen), semv := inc.isSome, sem := (inc.getD (0, 0)).1, inc := (inc.getD (0, 0)).2,
    kind := kind, va := va, started := none, res := none, applied := false, acks := 0, parked := none }

/-- The operation becomes the newest of its pair. -/
def State.queueOp (s : State) (core : Nat) (o : MtxOp) : State :=
  s.fresh.1.setPair (core / 2) { s.pair (core / 2) with ops := (s.pair (core / 2)).ops ++ [o] }

theorem State.queueOp_ops (s : State) (core : Nat) (o : MtxOp) :
    ((s.queueOp core o).pair (core / 2)).ops = (s.pair (core / 2)).ops ++ [o] := congrArg Pair.ops (State.pair_setPair _ _ _)

/-- Whether an array that an operation of the kind needs, from a core of the pair, holds eight operations. -/
def Pair.fullFor (p : Pair) (core : Nat) (kind : MtxKind) : Bool := p.arrayFull core || (kind.isPair && p.arrayFull (core ^^^ 1))

theorem Pair.fullFor_single {p : Pair} {core : Nat} {kind : MtxKind} (hk : kind.isPair = false) (h : p.arrayFull core = false) :
    p.fullFor core kind = false := by
  rw [Pair.fullFor, hk, h]
  rfl

section
variable {c : Ctx} {s : State} {g : Group} {rnd : BitVec 3} {kind : MtxKind} {va : Nat} {inc : Option (Nat × Nat)}

theorem Ctx.issueOp_issues (h : (s.pair (g.core / 2)).fullFor g.core kind = false) :
    c.issueOp s g rnd kind va inc = .done (s.queueOp g.core (c.mtxOp s g rnd kind va inc)) g none none :=
  if_neg (Bool.eq_false_iff.mp h)

theorem Ctx.issueOp_waits (h : (s.pair (g.core / 2)).fullFor g.core kind = true) :
    c.issueOp s g rnd kind va inc = .stop s c.g (.block .operations) := if_pos h

end

/-- A matrix slot whose own effect is to issue an operation for which there is room issues it. -/
theorem Ctx.mtxSlot_issues {c : Ctx} {o : Start} {e : W64} {nw : Bool} {dsts srcs : List Use} {t u u' : State} {g h : Group} {xs : List Src}
    {captures : Bool} {body : Ctx → Group → List Src → Slot} {r : Host.Outcome State Fault Refusal} {rnd : BitVec 3} {kind : MtxKind} {va : Nat}
    {inc : Option (Nat × Nat)} (hr : r = .next (slotEnd (c.mtxSlot e nw dsts srcs captures body o)))
    (b : c.BeginsMtx o e nw dsts srcs t g h xs u captures) (hroom : (u'.pair (h.core / 2)).fullFor h.core kind = false)
    (hb : body (c.withTiles t g u) h xs = (c.withTiles t g u).issueOp u' h rnd kind va inc) :
    (c.withTiles t g u).issues r u' h rnd kind va inc :=
  ⟨(c.withTiles t g u).mtxOp u' h rnd kind va inc, hr.trans (Ctx.mtxSlot_completes b (hb.trans (Ctx.issueOp_issues hroom))),
    rfl, rfl, rfl, rfl, rfl, rfl, rfl, rfl, rfl, rfl, rfl, rfl, rfl⟩

end Sys2Proof.Machine
end

section
/-!
SUPPORT. Operations of the arrays on their way: their start, what they leave when they are applied and retire, and the reset of a pair's engine
(R331, R335, R342, R350, R355, R431, R436).
-/
namespace Sys2Proof.Machine
open Sys2Proof

/-! ## Reads and checks take no time -/

theorem foldl_cycles {α : Type} {f : State → α → State} (hf : ∀ t x, (f t x).cycles = t.cycles) (l : List α) (s : State) :
    (l.foldl f s).cycles = s.cycles := by
  induction l generalizing s with
  | nil => rfl
  | cons x l ih => exact (ih _).trans (hf s x)

theorem State.openAs_cycles (s : State) (old new : Seal) (c : Nat) : (s.openAs old new c).cycles = s.cycles := by
  unfold State.openAs
  split <;> rfl

theorem State.rekey_cycles (s : State) (c : Nat) (k : Seal) : (s.rekey c k).cycles = s.cycles := by
  unfold State.rekey
  dsimp only
  split
  · rfl
  · generalize span 0 64 = l
    exact foldl_cycles (fun t _ => t.openAs_cycles _ _ _) l s

/-- A walk for a read sets no DIRTY, and one without a core fills no TLB. -/
theorem State.walkFor_read_cycles (s : State) (vf va : Nat) : (s.walkFor none vf va .read).1.cycles = s.cycles := by
  unfold State.walkFor
  split
  · rfl
  · rfl
  · split
    · rfl
    · split
      · rfl
      · exact State.rekey_cycles _ _ _

theorem State.translate_read_cycles (s : State) (vf va : Nat) : (s.translate none vf va .read).1.cycles = s.cycles := by
  unfold State.translate
  split
  · rfl
  · exact s.walkFor_read_cycles vf va

theorem unitCells_read_cycles (vf : Nat) (vas : List Nat) (s : State) : (unitCells vf .read s vas).1.cycles = s.cycles := by
  induction vas generalizing s with
  | nil => rfl
  | cons va vas ih =>
      have ht := s.translate_read_cycles vf va
      unfold unitCells
      split <;> (rename_i e; rw [e] at ht)
      · split <;> (rename_i e'; exact (congrArg (fun x => x.1.cycles) e').symm.trans ((ih _).trans ht))
      all_goals exact ht

theorem State.touchL2_cycles (s : State) (c : Nat) (y : BitVec 2) (w : Bool) : (s.touchL2 c y w).cycles = s.cycles := by
  unfold State.touchL2
  split
  · rfl
  · dsimp only
    split <;> rfl

theorem State.unitRead_cycles (s : State) (v : Via) (vf : Nat) (log : List LogRec) (va n : Nat) :
    (s.unitRead v vf log va n).1.cycles = s.cycles := by
  have hcells := unitCells_read_cycles vf (pieces va n) s
  unfold State.unitRead
  split
  · rfl
  · dsimp only
    split <;> (rename_i e; rw [e] at hcells)
    · exact hcells
    · split
      · exact hcells
      · split
        · exact hcells
        · rename_i hcross
          obtain ⟨l, rfl⟩ := crossWays_frame hcross
          exact (foldl_cycles (fun t _ => t.touchL2_cycles _ _ _) _ _).trans hcells

theorem State.object_cycles (s : State) (core : Option Nat) (vf obj : Nat) : (s.object core vf obj).1.cycles = s.cycles := by
  unfold State.object
  split
  · rfl
  · split
    · rfl
    · dsimp only
      split <;> rfl

theorem State.capCheck_cycles (s : State) (core : Option Nat) (vf : Nat) (c : Cap) (need a n align : Nat) :
    (s.capCheck core vf c need a n align).1.cycles = s.cycles := by
  have hobj := s.object_cycles core vf c.obj
  unfold State.capCheck
  iterate 5
    split
    · rfl
  split <;> (rename_i e; rw [e] at hobj)
  · exact hobj
  · split
    · exact hobj
    · split <;> exact hobj

/-- What an operation works out when it starts takes no time of its own: a read of a page or a check may fill tables only. -/
theorem State.mtxResult_cycles (s : State) (o : MtxOp) : (s.mtxResult o).1.cycles = s.cycles := by
  unfold State.mtxResult
  split
  case h_9 ty n cap rope q page pw scale _ =>
    have hr := s.unitRead_cycles o.via o.vf (s.logOf o.parcel) o.va (pageSize (pagePitch ty (hdrK q)))
    unfold State.readPage
    split <;> (rename_i e; rw [e] at hr; exact hr)
  case h_11 ty p cap word page _ =>
    have hr := s.unitRead_cycles o.via o.vf (s.logOf o.parcel) o.va (pageSize (pagePitch ty (awD word)))
    unfold State.readPage
    split <;> (rename_i e; rw [e] at hr; exact hr)
  case h_12 reg cap src st page _ =>
    split
    · rename_i tag _
      have hcheck := s.capCheck_cycles (some o.core) o.vf cap (rRead + rWrite + rAtomic) tag.block 576 64
      split
      · rfl
      · split <;> (rename_i e; rw [e] at hcheck; exact hcheck)
    · rfl
  all_goals rfl

/-! ## Start and retirement (R331, R335, R342, R350) -/

section
variable {s t : State} {pair : Nat} {o : MtxOp} {r : MtxResult} (ho : (s.pair pair).op? o.uid = some o)
include ho

theorem mtxOpStart_starts (hs : o.started = none) (hh : s.heldBy o.vf o.parked = false) (hr : (s.pair pair).reset = false)
    (hc : s.coreOn (2 * pair) = true) (hready : (s.pair pair).ready o = true) (hl : ((s.group? o.group).bind Group.lateMatrix) = none)
    (hres : s.mtxResult o = (t, .ok r)) :
    exec (.mtxOpStart pair o.uid) s = .next (t.setPair pair ((t.pair pair).setOp { o with started := some s.cycles, res := some r })) := by
  have ht : t.cycles = s.cycles := (congrArg (fun x => x.1.cycles) hres).symm.trans (s.mtxResult_cycles o)
  show execMtxOpStart pair o.uid s = _
  rw [← ht]
  simp only [execMtxOpStart, ho, hs, hh, hr, hc, hready, hl, hres, Option.isSome_none, Bool.not_true, Bool.or_false, Bool.false_eq_true, if_false]

section
variable (hres : o.res = some r) (hh : s.heldBy o.vf o.parked = false)
include hres hh

/-- An operation that has no fault and no write on its way to another die is applied. -/
theorem mtxOpRetire_applies (ha : o.applied = false) (happly : s.applyOp o r = .done t none none) :
    exec (.mtxOpRetire pair o.uid) s = .next (t.setPair pair ((t.pair pair).setOp { o with applied := true, acks := 0 })) := by
  show execMtxOpRetire pair o.uid s = _
  simp only [execMtxOpRetire, ho, hres, hh, ha, happly, Option.isSome_none, Bool.false_eq_true, if_false]

/-- An operation that is applied and acknowledged retires. -/
theorem mtxOpRetire_retires (ha : o.applied = true) (hacks : o.acks = 0) :
    exec (.mtxOpRetire pair o.uid) s = .next (s.retireOp pair o) := by
  show execMtxOpRetire pair o.uid s = _
  simp only [execMtxOpRetire, ho, hres, hh, ha, hacks, Bool.false_eq_true, if_false, if_true]

end

end

theorem State.retireOp_silent {s : State} {o : MtxOp} (pair : Nat) (h : o.status = none) :
    s.retireOp pair o = (s.setPair pair ((s.pair pair).dropOp o.uid)).completion o.parcel o.semv o.sem o.inc := by
  simp only [State.retireOp, h]

theorem State.retireOp_reports {s : State} {o : MtxOp} {q gen : Nat} (pair : Nat) (h : o.status = some (q, gen))
    (hroom : s.queueRoom o.group q gen 1 = true) :
    s.retireOp pair o = ((s.setPair pair ((s.pair pair).dropOp o.uid)).deliver o.group q gen
      [{ QEntry.ofScalar 0 with clause := o.clause, slot := o.slot }]).completion o.parcel o.semv o.sem o.inc := by
  simp only [State.retireOp, h, hroom, if_true]

/-! ## The causes of a reset (R355, R431, R436) -/

/-- An operation that has run for 2^26 cycles trips the watchdog of its pair. -/
theorem matrixWatchdog_resets {s : State} {pair : Nat} {o : MtxOp} {t : Nat} (ho : o ∈ (s.pair pair).ops) (hs : o.started = some t)
    (hlate : t + 2 ^ 26 ≤ s.cycles) : exec (.matrixWatchdog pair) s = .next (s.resetPair pair 1) := by
  have hhung : s.hung pair = true := List.any_eq_true.mpr ⟨o, ho, by rw [hs]; exact decide_eq_true hlate⟩
  show execMatrixWatchdog pair s = _
  rw [execMatrixWatchdog, if_pos hhung]

theorem matrixReset_debugPort {s : State} {pair : Nat} (hd : s.control.debug = .invasive) (hp : pair < 96) :
    exec (.matrixResetCommand (.debugPort pair)) s = .next (s.resetPair pair 2) := by
  have hport : (s.debugPort && decide (pair < 96)) = true := by rw [State.debugPort, hd, decide_eq_true hp]; rfl
  show execMatrixResetCommand (.debugPort pair) s = _
  rw [execMatrixResetCommand, if_pos hport]

/-- MXRST with its command bit takes the pair and is busy (R436). -/
theorem matrixReset_mxrst {s : State} {pair : Nat} {v : W64} (hb : s.control.mxrst.getLsbD 7 = false) (hv : mxPair v = pair) (hp : pair < 96)
    (hcmd : v.getLsbD 63 = true) :
    exec (.matrixResetCommand (.mxrst v)) s = .next ((s.setMxrst (BitVec.ofNat 64 (pair + 128))).resetPair pair 2) := by
  have hword : mxWord pair true = BitVec.ofNat 64 (pair + 128) := by rw [mxWord, Nat.mod_eq_of_lt (by omega), if_pos rfl]
  show execMatrixResetCommand (.mxrst v) s = _
  simp only [execMatrixResetCommand, mxBusy, hb, hcmd, hv, hp, hword, decide_true, Bool.and_true, Bool.false_eq_true, if_false, if_true]

/-! ## The reset and its end (R355, R436) -/

theorem mxBusy_mxWord_false (pair : Nat) : mxBusy (mxWord pair false) = false := by
  have hlt : pair % 128 < 2 ^ 7 := Nat.mod_lt _ (by decide)
  rw [mxBusy, mxWord, BitVec.getLsbD_ofNat]
  exact (congrArg _ (Nat.testBit_lt_two_pow hlt)).trans (Bool.and_false _)

/-- The state after the end of a reset: the pair goes on, and the BUSY of an MXRST that named it falls. -/
def State.releasePair (s : State) (pair : Nat) : State :=
  let t := s.setPair pair { s.pair pair with reset := false }
  if mxBusy s.control.mxrst && mxPair s.control.mxrst = pair then t.setMxrst (mxWord pair false) else t

theorem matrixResetComplete_releases {s : State} {pair : Nat} (hr : (s.pair pair).reset = true) :
    exec (.matrixResetComplete pair) s = .next (s.releasePair pair) := by
  show execMatrixResetComplete pair s = _
  simp only [execMatrixResetComplete, hr, Bool.not_true, Bool.false_eq_true, if_false, State.setPair_control]
  rfl

theorem State.releasePair_reset (s : State) (pair : Nat) : ((s.releasePair pair).pair pair).reset = false := by
  unfold State.releasePair
  dsimp only
  split <;> exact congrArg Pair.reset (State.pair_setPair s pair _)

theorem State.releasePair_mem (s : State) (pair : Nat) : (s.releasePair pair).mem = s.mem := by
  unfold State.releasePair
  dsimp only
  split <;> rfl

theorem State.releasePair_busy {s : State} {pair : Nat} (hp : mxPair s.control.mxrst = pair) :
    mxBusy (s.releasePair pair).control.mxrst = false := by
  unfold State.releasePair
  dsimp only
  split
  · exact mxBusy_mxWord_false pair
  · rename_i hbusy
    rw [decide_eq_true hp, Bool.and_true] at hbusy
    exact Bool.eq_false_iff.mpr hbusy

/-- A pair without operations and cards is held in reset with its accumulator tiles cleared and free. -/
theorem resetPair_clears {s : State} {pair : Nat} (hops : (s.pair pair).ops = []) (hcards : (s.pair pair).cards = []) (cause : Nat) :
    (s.resetPair pair cause).pair pair =
      { s.pair pair with acc := [], owner := none, tags := [], ops := [], reset := true } := by
  simp only [State.resetPair, State.poisonTargets, hops, hcards, List.filter_nil, List.foldl_nil]
  exact (State.pair_setPair _ _ _).trans rfl

/-- Settles O37: an operation by its start, its application and its retirement; a reset by its causes, what it clears and its end. -/
theorem arrayOperationsRunAndReset : Obligations.ArrayOperationsRunAndReset := by
  unfold Obligations.ArrayOperationsRunAndReset
  intro s pair
  refine ⟨?_, ?_, ?_, matrixReset_debugPort, ?_, fun hr => ?_, ?_⟩
  · exact fun o t r ho hs hh hr hc hready hl hres => mtxOpStart_starts ho hs hh hr hc hready hl hres
  · intro o r t ho hres hh
    refine ⟨mtxOpRetire_applies ho hres hh, fun ha hacks hs => ?_, fun q gen ha hacks hs hroom => ?_⟩
    · rw [mtxOpRetire_retires ho hres hh ha hacks, State.retireOp_silent pair hs]
    · rw [mtxOpRetire_retires ho hres hh ha hacks, State.retireOp_reports pair hs hroom]
  · rintro ⟨o, ho, t, hs, hlate⟩
    exact matrixWatchdog_resets ho hs hlate
  · exact fun v hb hv hp hcmd => matrixReset_mxrst hb hv hp hcmd
  · exact ⟨_, matrixResetComplete_releases hr, s.releasePair_reset pair, s.releasePair_mem pair, State.releasePair_busy⟩
  · intro hops hcards cause t
    have ht : t.pair pair = _ := resetPair_clears hops hcards cause
    rw [ht]
    exact ⟨rfl, rfl, rfl, rfl, rfl⟩

end Sys2Proof.Machine
end

section
/-!
SUPPORT. MLDA and MLDB (R325, R328): the fields of a header, the check that it passes, and the header that each of them writes.
-/
namespace Sys2Proof.Machine
open Sys2Proof

/-! ## The fields of a header (R325) -/

section
variable (handle row col k role : Nat) (trans : Bool) (seed : Nat)

/-- The number of a header: its fields stand beside one another. -/
theorem header_toNat : (header handle row col k role trans seed).toNat = handle % 64 * 2 ^ 58 + row % 4096 * 2 ^ 46 + col % 4096 * 2 ^ 34 +
    (k - 1) % 4096 * 2 ^ 22 + role % 4 * 2 ^ 20 + trans.toNat * 2 ^ 19 + seed % 65536 := by
  have ht : (if trans then 2 ^ 19 else 0) = trans.toNat * 2 ^ 19 := by cases trans <;> rfl
  have hb : trans.toNat ≤ 1 := trans.toNat_le
  rw [header, ht, BitVec.toNat_ofNat]
  omega

theorem extractLsb'_header (lo n : Nat) : ((header handle row col k role trans seed).extractLsb' lo n).toNat =
    (handle % 64 * 2 ^ 58 + row % 4096 * 2 ^ 46 + col % 4096 * 2 ^ 34 + (k - 1) % 4096 * 2 ^ 22 + role % 4 * 2 ^ 20 + trans.toNat * 2 ^ 19 +
      seed % 65536) / 2 ^ lo % 2 ^ n := by
  rw [BitVec.extractLsb'_toNat, Nat.shiftRight_eq_div_pow, header_toNat]

@[simp] theorem hdrHandle_header : hdrHandle (header handle row col k role trans seed) = handle % 64 := by
  have hb : trans.toNat ≤ 1 := trans.toNat_le
  rw [hdrHandle, extractLsb'_header]
  omega

@[simp] theorem hdrRow_header : hdrRow (header handle row col k role trans seed) = row % 4096 := by
  have hb : trans.toNat ≤ 1 := trans.toNat_le
  rw [hdrRow, extractLsb'_header]
  omega

@[simp] theorem hdrCol_header : hdrCol (header handle row col k role trans seed) = col % 4096 := by
  have hb : trans.toNat ≤ 1 := trans.toNat_le
  rw [hdrCol, extractLsb'_header]
  omega

@[simp] theorem hdrK_header : hdrK (header handle row col k role trans seed) = (k - 1) % 4096 + 1 := by
  have hb : trans.toNat ≤ 1 := trans.toNat_le
  rw [hdrK, extractLsb'_header]
  omega

@[simp] theorem hdrRole_header : hdrRole (header handle row col k role trans seed) = role % 4 := by
  have hb : trans.toNat ≤ 1 := trans.toNat_le
  rw [hdrRole, extractLsb'_header]
  omega

@[simp] theorem hdrSeed_header : hdrSeed (header handle row col k role trans seed) = seed % 65536 := by
  have hb : trans.toNat ≤ 1 := trans.toNat_le
  rw [hdrSeed, extractLsb'_header]
  omega

@[simp] theorem hdrTrans_header : hdrTrans (header handle row col k role trans seed) = trans := by
  rw [hdrTrans, BitVec.getLsbD, header_toNat, Nat.testBit_eq_decide_div_mod_eq]
  cases trans <;> simp only [Bool.toNat_true, Bool.toNat_false, decide_eq_true_eq, decide_eq_false_iff_not] <;> omega

/-- The bits of a header that are no field are zero. -/
@[simp] theorem header_reserved : (header handle row col k role trans seed).extractLsb' 16 3 = 0 := by
  have hb : trans.toNat ≤ 1 := trans.toNat_le
  refine BitVec.eq_of_toNat_eq ?_
  rw [extractLsb'_header]
  show _ = 0
  omega

end

theorem orgRow_lt (x : W64) : orgRow x < 4096 := BitVec.isLt _
theorem orgCol_lt (x : W64) : orgCol x < 4096 := BitVec.isLt _

/-- The fields of a header whose values fit stand where R325 puts them. -/
theorem header_fields {x : BitVec 6} {org : W64} {k role seed : Nat} {trans : Bool} (hk : k ≤ 4096) (hr : role < 4) (hs : seed < 65536) :
    let w := header x.toNat (orgRow org) (orgCol org) k role trans seed
    w.extractLsb' 58 6 = x ∧ w.extractLsb' 46 12 = org.extractLsb' 0 12 ∧ w.extractLsb' 34 12 = org.extractLsb' 16 12 ∧
      (w.extractLsb' 22 12).toNat = k - 1 ∧ (w.extractLsb' 20 2).toNat = role ∧ w.getLsbD 19 = trans ∧ w.extractLsb' 16 3 = 0 ∧
      (w.extractLsb' 0 16).toNat = seed := by
  intro w
  refine ⟨BitVec.eq_of_toNat_eq ?_, BitVec.eq_of_toNat_eq ?_, BitVec.eq_of_toNat_eq ?_, ?_, ?_, hdrTrans_header .., header_reserved .., ?_⟩
  · exact (hdrHandle_header ..).trans (Nat.mod_eq_of_lt x.isLt)
  · exact (hdrRow_header ..).trans (Nat.mod_eq_of_lt (orgRow_lt org))
  · exact (hdrCol_header ..).trans (Nat.mod_eq_of_lt (orgCol_lt org))
  · exact (Nat.succ.inj (hdrK_header ..)).trans (Nat.mod_eq_of_lt (by omega))
  · exact (hdrRole_header ..).trans (Nat.mod_eq_of_lt hr)
  · exact (hdrSeed_header ..).trans (Nat.mod_eq_of_lt hs)

/-! ## The check of a header (R325, R328) -/

/-- A header of the fields that its role permits, whose origin lies in its tile, passes the check for its own role. -/
theorem headerFault_none {p : Parcel} {w : W64} {z : Tile} (pos : Nat) {seeded : Bool} (hzero : w.extractLsb' 16 3 = 0)
    (hk : hdrRole w = 2 → hdrK w = 1) (ht : hdrTrans w = true → hdrRole w ≠ 3) (hs : seeded = false → hdrSeed w = 0)
    (hz : p.tile? (hdrHandle w) = some z) (hin : z.has (hdrRow w) (hdrCol w) = true) :
    headerFault p pos w [hdrRole w] seeded false = none := by
  have h1 : (decide (w.extractLsb' 16 3 ≠ 0) || !([hdrRole w].contains (hdrRole w))) = false := by simp [hzero]
  have h2 : (decide (hdrRole w = 2) && decide (hdrK w ≠ 1) || hdrTrans w && (false || decide (hdrRole w = 3)) ||
      !seeded && decide (hdrSeed w ≠ 0)) = false := by
    simp only [Bool.or_eq_false_iff, Bool.and_eq_false_imp, decide_eq_true_eq, decide_eq_false_iff_not, not_not, Bool.not_eq_true', true_and]
    exact ⟨⟨hk, ht⟩, hs⟩
  unfold headerFault
  rw [if_neg (Bool.eq_false_iff.mp h1), if_neg (Bool.eq_false_iff.mp h2), hz]
  exact if_pos hin

/-! ## The slots (R328) -/

section
variable (c : Ctx) (f : VForm) (a : Bool) (xs : List Src)

/-- K, the role and the seed of the header that MLDA (`a`) or MLDB builds. -/
def mldK : Nat := if a then (c.vword f xs 1).toNat else 1
def mldRole : Nat := if a then (if a && f.x.getLsbD 7 then 3 else 1) else 2
def mldSeed : Nat := if a then (c.vword f xs 2).toNat else 0

theorem mldRole_lt : mldRole f a < 4 := by
  unfold mldRole
  split_ifs <;> decide

/-- The header that MLDA or MLDB builds from its sources. -/
def mldHeader : W64 :=
  header (f.x.extractLsb' 0 6).toNat (orgRow (c.vword f xs 0)) (orgCol (c.vword f xs 0)) (mldK c f a xs) (mldRole f a) (f.x.getLsbD 6)
    (mldSeed c f a xs)

/-- The seed of MLDA, where it has one. -/
def seedUse : List Use := if a && !f.sc.unused then [⟨9, f.sc, .sl, 1⟩] else []

/-- Whether the header may carry a seed: that of an A which is neither virtual nor transposed. -/
def mldSeeded : Bool := a && !(a && f.x.getLsbD 7) && !f.x.getLsbD 6

end

section
variable {s : State} {c : Ctx} {f : VForm} {a : Bool} {t u : State} {g h : Group} {xs : List Src} (horg : orgOk (c.vword f xs 0) = true)
  {z : Tile} (hz : (c.withTiles t g u).parcel.tile? (f.x.extractLsb' 0 6).toNat = some z)
  (hin : z.has (orgRow (c.vword f xs 0)) (orgCol (c.vword f xs 0)) = true)
include horg hz hin

/-- A header whose values fit and suit its role is built. -/
theorem buildHeader_completes
    (b : c.BeginsMtx { always := false } (c.enabled f.pg f.pn) f.nw [dstOf f .sq] (usesOf f (if a then 2 else 1) .sl ++ seedUse f a) t g h xs u)
    (hk : 1 ≤ mldK c f a xs ∧ mldK c f a xs ≤ 4096) (hs : mldSeed c f a xs < 65536) (h2 : mldRole f a = 2 → mldK c f a xs = 1)
    (h3 : mldRole f a = 3 → f.x.getLsbD 6 = false) (hn : mldSeeded f a = false → mldSeed c f a xs = 0) :
    .next (slotEnd (c.buildHeader f a)) =
      (c.withTiles t g u).pathDone (c.enabled f.pg f.pn) f.dst f.nw f.pfx false h (mldHeader c f a xs) := by
  have hrole : mldRole f a % 4 = mldRole f a := Nat.mod_eq_of_lt (mldRole_lt f a)
  have hhdr : headerFault (c.withTiles t g u).parcel 27 (mldHeader c f a xs) [hdrRole (mldHeader c f a xs)] (mldSeeded f a) false = none := by
    refine headerFault_none 27 (header_reserved ..) ?_ ?_ ?_ (z := z) ?_ ?_
    · rw [mldHeader, hdrRole_header, hrole, hdrK_header]
      exact fun hr => by rw [h2 hr]
    · rw [mldHeader, hdrRole_header, hrole, hdrTrans_header]
      exact fun ht hr => Bool.false_ne_true ((h3 hr).symm.trans ht)
    · rw [mldHeader, hdrSeed_header]
      exact fun hr => by rw [hn hr]
    · rw [mldHeader, hdrHandle_header, Nat.mod_eq_of_lt (BitVec.isLt _), hz]
    · rw [mldHeader, hdrRow_header, hdrCol_header, Nat.mod_eq_of_lt (orgRow_lt _), Nat.mod_eq_of_lt (orgCol_lt _), hin]
  have horg' : (!orgOk (c.vword f xs 0)) = false := by rw [horg]; rfl
  have hk' : (decide (mldK c f a xs = 0) || decide (4096 < mldK c f a xs)) = false := by
    rw [decide_eq_false (Nat.ne_of_gt hk.1), decide_eq_false (Nat.not_lt.mpr hk.2)]
    rfl
  have hs' : decide (65535 < mldSeed c f a xs) = false := decide_eq_false (Nat.not_lt.mpr (Nat.le_of_lt_succ hs))
  unfold Ctx.buildHeader
  refine Ctx.mtxSlot_completes b ?_
  show (match firstFault [faultIf (!orgOk (c.vword f xs 0)) _, faultIf (decide (mldK c f a xs = 0) || decide (4096 < mldK c f a xs)) _,
      faultIf (decide (65535 < mldSeed c f a xs)) _,
      headerFault (c.withTiles t g u).parcel 27 (mldHeader c f a xs) [hdrRole (mldHeader c f a xs)] (mldSeeded f a) false] with
    | some x => Slot.stop u g (.trap x)
    | none => (c.withTiles t g u).result h (c.enabled f.pg f.pn) f.dst f.nw f.pfx false (.one (mldHeader c f a xs))) = _
  rw [faultIf_false _ horg', faultIf_false _ hk', faultIf_false _ hs', hhdr]
  rfl

variable (hc : s.runs c)
include hc

theorem mlda_builds
    (b : c.BeginsMtx { always := false } (c.enabled f.pg f.pn) f.nw [dstOf f .sq] (usesOf f 2 .sl ++ seedUse f true) t g h xs u)
    (hk1 : 1 ≤ (c.vword f xs 1).toNat) (hk2 : (c.vword f xs 1).toNat ≤ 4096) (hs : (c.vword f xs 2).toNat < 65536)
    (hv : mldRole f true = 3 → f.x.getLsbD 6 = false) (hn : mldRole f true = 3 ∨ f.x.getLsbD 6 = true → (c.vword f xs 2).toNat = 0) :
    exec (.mlda f) s = (c.withTiles t g u).pathDone (c.enabled f.pg f.pn) f.dst f.nw f.pfx false h (mldHeader c f true xs) := by
  refine (runSlot_runs hc _).trans (buildHeader_completes horg hz hin b ⟨hk1, hk2⟩ hs (fun h2 => ?_) hv fun hns => hn ?_)
  · revert h2
    unfold mldRole
    cases f.x.getLsbD 7 <;> exact fun h2 => nomatch h2
  · revert hns
    unfold mldSeeded mldRole
    cases f.x.getLsbD 7 <;> cases f.x.getLsbD 6 <;> simp

theorem mldb_builds
    (b : c.BeginsMtx { always := false } (c.enabled f.pg f.pn) f.nw [dstOf f .sq] (usesOf f 1 .sl ++ seedUse f false) t g h xs u) :
    exec (.mldb f) s = (c.withTiles t g u).pathDone (c.enabled f.pg f.pn) f.dst f.nw f.pfx false h (mldHeader c f false xs) :=
  (runSlot_runs hc _).trans (buildHeader_completes horg hz hin b ⟨Nat.le_refl 1, Nat.le_add_left 1 4095⟩ (Nat.zero_lt_succ 65535)
    (fun _ => rfl) (fun h3 => nomatch h3) fun _ => rfl)

end

end Sys2Proof.Machine
end

section
/-!
SUPPORT. Sets of small numbers as bits, and the positions that VSPC keeps (R338, R339).
-/
namespace Sys2Proof.Machine
open Sys2Proof

/-! ## Positions as bits -/

theorem testBit_add_two_pow {a p : Nat} (h : a.testBit p = false) (q : Nat) : (a + 2 ^ p).testBit q = (a.testBit q || decide (q = p)) := by
  induction p generalizing a q with
  | zero =>
      have ha : a % 2 = 0 := by simpa [Nat.testBit_zero] using h
      cases q with
      | zero => simp only [Nat.testBit_zero, pow_zero, decide_true, Bool.or_true, decide_eq_true_eq]; omega
      | succ q =>
          rw [Nat.testBit_succ, Nat.testBit_succ, show (a + 2 ^ 0) / 2 = a / 2 by omega, decide_eq_false (Nat.succ_ne_zero q), Bool.or_false]
  | succ p ih =>
      cases q with
      | zero =>
          rw [Nat.testBit_zero, Nat.testBit_zero, pow_succ, Nat.add_mul_mod_self_right, decide_eq_false (Nat.succ_ne_zero p).symm, Bool.or_false]
      | succ q =>
          rw [Nat.testBit_succ, Nat.testBit_succ, pow_succ, Nat.add_mul_div_right _ _ (by decide), ih (Nat.testBit_succ a p ▸ h)]
          simp only [Nat.succ_inj]

/-- The number whose bits are the positions of a list. -/
def bitsOf (ps : List Nat) : Nat := ps.foldl (fun a p => a + 2 ^ p) 0

theorem testBit_foldl_two_pow {ps : List Nat} (hd : ps.Nodup) {a : Nat} (ha : ∀ p ∈ ps, a.testBit p = false) (q : Nat) :
    (ps.foldl (fun a p => a + 2 ^ p) a).testBit q = (a.testBit q || decide (q ∈ ps)) := by
  induction ps generalizing a with
  | nil => rw [List.foldl_nil, decide_eq_false List.not_mem_nil, Bool.or_false]
  | cons p ps ih =>
      obtain ⟨hp, hd⟩ := List.nodup_cons.mp hd
      have hap := testBit_add_two_pow (ha p List.mem_cons_self)
      have hfree : ∀ r ∈ ps, (a + 2 ^ p).testBit r = false := by
        intro r hr
        rw [hap, ha r (List.mem_cons_of_mem _ hr), decide_eq_false (fun he : r = p => hp (he ▸ hr)), Bool.or_false]
      rw [List.foldl_cons, ih hd hfree, hap, Bool.or_assoc, ← Bool.decide_or]
      simp only [List.mem_cons]

theorem testBit_bitsOf {ps : List Nat} (hd : ps.Nodup) (q : Nat) : (bitsOf ps).testBit q = decide (q ∈ ps) := by
  rw [bitsOf, testBit_foldl_two_pow hd (fun p _ => Nat.zero_testBit p), Nat.zero_testBit, Bool.false_or]

theorem bitsOf_lt {ps : List Nat} {n : Nat} (hd : ps.Nodup) (h : ∀ p ∈ ps, p < n) : bitsOf ps < 2 ^ n :=
  Nat.lt_pow_two_of_testBit _ fun q hq => by
    rw [testBit_bitsOf hd, decide_eq_false fun hm => Nat.not_lt.mpr hq (h q hm)]

/-- As many bits are set below `n` as there are positions. -/
theorem bitsBelow_bitsOf {ps : List Nat} {n : Nat} (hd : ps.Nodup) (h : ∀ p ∈ ps, p < n) : bitsBelow (bitsOf ps) n = ps.length := by
  refine ((List.perm_ext_iff_of_nodup ((span_nodup 0 n).filter _) hd).mpr fun p => ?_).length_eq
  rw [List.mem_filter, mem_span, testBit_bitsOf hd, decide_eq_true_eq, Nat.zero_add]
  exact ⟨fun hp => hp.2, fun hp => ⟨⟨Nat.zero_le p, h p hp⟩, hp⟩⟩

/-! ## A field of a word replaced -/

/-- A number with a field replaced: what lies above the field, its new value, and what lies below it. -/
theorem setField_eq (x lo n v : Nat) : setField x lo n v = 2 ^ lo * (2 ^ n * (x / 2 ^ lo / 2 ^ n) + v % 2 ^ n) + x % 2 ^ lo := by
  have hlow := Nat.div_add_mod x (2 ^ lo)
  have hhigh := Nat.div_add_mod (x / 2 ^ lo) (2 ^ n)
  have hrest : x - x / 2 ^ lo % 2 ^ n * 2 ^ lo = 2 ^ lo * (2 ^ n * (x / 2 ^ lo / 2 ^ n)) + x % 2 ^ lo := by
    refine Nat.sub_eq_of_eq_add ?_
    conv_lhs => rw [← hlow, ← hhigh]
    ring
  rw [setField, field, Nat.shiftRight_eq_div_pow, hrest]
  ring

theorem testBit_setField (x lo n v i : Nat) :
    (setField x lo n v).testBit i = if lo ≤ i ∧ i < lo + n then v.testBit (i - lo) else x.testBit i := by
  rw [setField_eq, Nat.testBit_two_pow_mul_add _ (Nat.mod_lt _ (Nat.two_pow_pos lo)),
    Nat.testBit_two_pow_mul_add _ (Nat.mod_lt _ (Nat.two_pow_pos n)), Nat.testBit_mod_two_pow, Nat.testBit_mod_two_pow, Nat.testBit_div_two_pow, Nat.testBit_div_two_pow]
  by_cases hlo : i < lo
  · rw [if_pos hlo, if_neg (fun h => by omega), decide_eq_true hlo, Bool.true_and]
  · by_cases hn : i < lo + n
    · rw [if_neg hlo, if_pos (by omega), if_pos ⟨by omega, hn⟩, decide_eq_true (by omega), Bool.true_and]
    · rw [if_neg hlo, if_neg (by omega), if_neg (fun h => hn h.2)]
      congr 1
      omega

/-- The bits of a 64-bit word with a field replaced. -/
theorem getLsbD_setField_inside (x : W64) {lo n v p : Nat} (hp : p < n) (hlo : lo + n ≤ 64) :
    (BitVec.ofNat 64 (setField x.toNat lo n v)).getLsbD (lo + p) = v.testBit p := by
  rw [BitVec.getLsbD_ofNat, testBit_setField, if_pos ⟨by omega, by omega⟩, Nat.add_sub_cancel_left, decide_eq_true (by omega), Bool.true_and]

theorem getLsbD_setField_outside (x : W64) {lo n v i : Nat} (hi : i < lo ∨ lo + n ≤ i) :
    (BitVec.ofNat 64 (setField x.toNat lo n v)).getLsbD i = x.getLsbD i := by
  rw [BitVec.getLsbD_ofNat, testBit_setField, if_neg (by omega)]
  by_cases h : i < 64
  · rw [decide_eq_true h, Bool.true_and]
    rfl
  · rw [decide_eq_false h, Bool.false_and, BitVec.getLsbD_of_ge x i (Nat.not_lt.mp h)]

/-! ## The shuffle (R338) -/

theorem swapAt_perm {l : List Nat} {i j : Nat} (hi : i < l.length) (hj : j < l.length) : (swapAt l i j).Perm l := by
  rw [swapAt, List.getD_eq_getElem _ _ hi, List.getD_eq_getElem _ _ hj]
  exact List.set_set_perm hi hj

theorem shuffle_perm {p : Nat} (h : Nat) {l : List Nat} (hp : p < l.length) : (shuffle p h l).Perm l := by
  induction p generalizing h l with
  | zero => exact .refl l
  | succ p ih =>
      have hswap : (swapAt l (p + 1) (h % (p + 2))).Perm l := swapAt_perm hp (Nat.lt_of_lt_of_le (Nat.mod_lt h (Nat.succ_pos _)) hp)
      exact (ih _ (hswap.length_eq ▸ Nat.lt_of_succ_lt hp)).trans hswap

/-- A seeded pattern keeps four of the eight positions. -/
theorem seededPattern_bitsOf (s r g : Nat) : ∃ ps : List Nat, seededPattern s r g = bitsOf ps ∧ ps.Nodup ∧ ps.length = 4 ∧ ∀ p ∈ ps, p < 8 := by
  unfold seededPattern
  dsimp only
  generalize mix32 _ ^^^ _ = h
  have hperm : (shuffle 7 h (span 0 8)).Perm (span 0 8) := shuffle_perm h (by decide)
  refine ⟨(shuffle 7 h (span 0 8)).take 4, rfl, ((span_nodup 0 8).perm hperm.symm).sublist (List.take_sublist _ _), ?_, fun p hp => ?_⟩
  · rw [List.length_take, hperm.length_eq]
    rfl
  · have := (mem_span 0 8 p).mp (hperm.mem_iff.mp (List.mem_of_mem_take hp))
    omega

/-! ## The kept positions (R339) -/

section
variable (t : ElemType) (xs : List Nat)

/-- Position `q` comes before position `p` in the order of falling magnitude, the lower position first among equals. -/
def spcBefore (q p : Nat) : Bool :=
  decide (spcMagnitude t (xs.getD p 0) < spcMagnitude t (xs.getD q 0)) ||
    (decide (spcMagnitude t (xs.getD p 0) = spcMagnitude t (xs.getD q 0)) && decide (q < p))

/-- The number of the eight positions that come before position `p`. -/
def spcRank (p : Nat) : Nat := ((span 0 8).filter fun q => spcBefore t xs q p).length

theorem keptPositions_eq : keptPositions t xs = (span 0 8).filter fun p => spcRank t xs p < 4 := rfl

theorem mem_keptPositions (p : Nat) : p ∈ keptPositions t xs ↔ p < 8 ∧ spcRank t xs p < 4 := by
  rw [keptPositions_eq, List.mem_filter, mem_span, decide_eq_true_eq]
  omega

variable {t xs}

theorem spcBefore_iff {q p : Nat} : spcBefore t xs q p = true ↔
    spcMagnitude t (xs.getD p 0) < spcMagnitude t (xs.getD q 0) ∨
      (spcMagnitude t (xs.getD p 0) = spcMagnitude t (xs.getD q 0) ∧ q < p) := by
  simp only [spcBefore, Bool.or_eq_true, Bool.and_eq_true, decide_eq_true_eq]

/-- Positions that come before `q` come before every position that `q` comes before. -/
theorem spcBefore_trans {r q p : Nat} (hr : spcBefore t xs r q = true) (hq : spcBefore t xs q p = true) : spcBefore t xs r p = true := by
  rw [spcBefore_iff] at *
  omega

theorem spcBefore_total {q p : Nat} (h : q ≠ p) : spcBefore t xs q p = true ∨ spcBefore t xs p q = true := by
  rw [spcBefore_iff, spcBefore_iff]
  omega

/-- What comes before another position has a lower rank. -/
theorem spcRank_lt {q p : Nat} (hq : q < 8) (h : spcBefore t xs q p = true) : spcRank t xs q < spcRank t xs p := by
  have hself : ¬ spcBefore t xs q q = true := by
    rw [spcBefore_iff]
    omega
  have hnodup : (q :: (span 0 8).filter fun r => spcBefore t xs r q).Nodup :=
    List.nodup_cons.mpr ⟨fun hm => hself (List.mem_filter.mp hm).2, (span_nodup 0 8).filter _⟩
  refine (hnodup.subperm fun r hr => ?_).length_le
  rw [List.mem_filter]
  rcases List.mem_cons.mp hr with rfl | hr
  · exact ⟨(mem_span 0 8 r).mpr ⟨Nat.zero_le r, by omega⟩, h⟩
  · obtain ⟨hr8, hrq⟩ := List.mem_filter.mp hr
    exact ⟨hr8, spcBefore_trans hrq h⟩

theorem spcRank_inj {q p : Nat} (hq : q < 8) (hp : p < 8) (h : spcRank t xs q = spcRank t xs p) : q = p := by
  by_contra hne
  rcases spcBefore_total (t := t) (xs := xs) hne with hb | hb
  · exact absurd (spcRank_lt hq hb) (by omega)
  · exact absurd (spcRank_lt hp hb) (by omega)

variable (t xs)

theorem spcRank_lt_eight {p : Nat} (hp : p < 8) : spcRank t xs p < 8 := by
  have hself : ¬ spcBefore t xs p p = true := by
    rw [spcBefore_iff]
    omega
  exact List.length_filter_lt_length_iff_exists.mpr ⟨p, (mem_span 0 8 p).mpr ⟨Nat.zero_le p, by omega⟩, hself⟩

/-- The ranks of the eight positions are the numbers below eight, each once. -/
theorem map_spcRank_perm : ((span 0 8).map (spcRank t xs)).Perm (span 0 8) := by
  have hlt : ∀ p ∈ span 0 8, p < 8 := fun p hp => by
    have := (mem_span 0 8 p).mp hp
    omega
  have hnodup : ((span 0 8).map (spcRank t xs)).Nodup :=
    (span_nodup 0 8).map_on fun q hq p hp h => spcRank_inj (hlt q hq) (hlt p hp) h
  refine (hnodup.subperm fun k hk => ?_).perm_of_length_le (by simp)
  obtain ⟨p, hp, rfl⟩ := List.mem_map.mp hk
  have := spcRank_lt_eight t xs (hlt p hp)
  exact (mem_span 0 8 _).mpr ⟨Nat.zero_le _, by omega⟩

theorem keptPositions_length : (keptPositions t xs).length = 4 := by
  have hcount : (span 0 8).countP (fun p => spcRank t xs p < 4) = (span 0 8).countP fun k => k < 4 :=
    List.countP_map.symm.trans ((map_spcRank_perm t xs).countP_eq fun k => decide (k < 4))
  rw [keptPositions_eq, ← List.countP_eq_length_filter, hcount]
  rfl

theorem keptPositions_ascending : (keptPositions t xs).Pairwise (· < ·) := by
  have hspan : (span 0 8).Pairwise (· < ·) := by decide
  rw [keptPositions_eq]
  exact hspan.filter _

theorem keptPositions_lt {p : Nat} (hp : p ∈ keptPositions t xs) : p < 8 := ((mem_keptPositions t xs p).mp hp).1

theorem keptPositions_nodup : (keptPositions t xs).Nodup := (keptPositions_ascending t xs).imp Nat.ne_of_lt

/-- No position that is left out has a greater magnitude than one that is kept. -/
theorem keptPositions_greatest {p q : Nat} (hp : p ∈ keptPositions t xs) (hq : q < 8) (hn : q ∉ keptPositions t xs) :
    spcMagnitude t (xs.getD q 0) ≤ spcMagnitude t (xs.getD p 0) := by
  by_contra hlt
  have hrank := spcRank_lt hq (spcBefore_iff.mpr (.inl (Nat.not_le.mp hlt)))
  exact hn ((mem_keptPositions t xs q).mpr ⟨hq, hrank.trans ((mem_keptPositions t xs p).mp hp).2⟩)

end

end Sys2Proof.Machine
end

section
/-!
SUPPORT. The matrix opcodes that issue nothing: MSYNC, MELECT and VSPC (R322, R331, R338, R339, R343).
-/
namespace Sys2Proof.Machine
open Sys2Proof

/-- A slot with a value for each executing lane completes. -/
theorem Ctx.entry_lanes {c : Ctx} {e : W64} {nw : Bool} {dsts srcs : List Use} {t : State} {g h : Group} {xs : List Src}
    (b : c.Begins {} e nw dsts srcs t g h xs) {body : Ctx → Group → List Src → Slot} {dst : Operand} {nw' : Bool} {p : Pfx} {x : Nat → W64}
    (hb : body (c.put t g) h xs = (c.put t g).result h e dst nw' p true (.lanes (laneTbl e x))) :
    .next (slotEnd (c.entry e nw dsts srcs true body)) = (c.put t g).lanesDone e dst nw' p true h x :=
  (Ctx.enter_completes b hb).trans (Ctx.result_lanes _ _ _ _ _ _ _ _ _ fun l => get_laneTbl_eq _ _ l)

section
variable {s : State} {c : Ctx} {f : VForm} {t u : State} {g h : Group} {xs : List Src} (hc : s.runs c)
include hc

/-! ## MSYNC (R322, R331) -/

section
variable (b : c.BeginsMtx { always := false } (c.enabled f.pg f.pn) true [] [] t g h xs u false)
include b

theorem msync_waits (hb : ((u.pair (h.core / 2)).ops.any fun o => o.group = h.uid) = true) :
    exec (.msync f) s = .next (slotEnd (.stop u g (.block .operations))) :=
  (runSlot_runs hc _).trans (Ctx.mtxSlot_blocks b (if_pos hb))

theorem msync_completes (hb : ((u.pair (h.core / 2)).ops.any fun o => o.group = h.uid) = false) (hl : g.lateMatrix = none) :
    exec (.msync f) s = doneWith u h none none := by
  refine (runSlot_runs hc _).trans (Ctx.mtxSlot_completes b ((if_neg (Bool.eq_false_iff.mp hb)).trans ?_))
  simp only [Ctx.withTiles_g, hl, Ctx.withTiles_s]

end

/-! ## MELECT (R331, R343) -/

theorem melect_elects (hk : xKD f.x ≠ 0) (b : c.BeginsMtx { always := false } (c.enabled f.pg f.pn) f.nw [] [] t g h xs u) {l : Nat}
    (hl : lowest (c.enabled f.pg f.pn) = some l) :
    exec (.melect f) s = (c.withTiles t g u).maskDone (c.enabled f.pg f.pn) (xKD f.x) f.nw h
      (if f.var = 0 ∨ u.isLeader h = true then BitVec.ofNat 64 (2 ^ l) else 0) := by
  have hstart : c.BeginsMtx { always := false, pre := kdFault (xKD f.x) } (c.enabled f.pg f.pn) f.nw [] [] t g h xs u := by
    rwa [show kdFault (xKD f.x) = none from if_neg hk]
  have hcond : (decide (f.var = 0) || u.isLeader h) = true ↔ f.var = 0 ∨ u.isLeader h = true := by
    rw [Bool.or_eq_true, decide_eq_true_eq]
  refine (runSlot_runs hc _).trans (Ctx.mtxSlot_completes hstart ?_)
  simp only [hl, Ctx.withTiles_s, hcond]
  rfl

/-! ## VSPC (R338, R339) -/

/-- The elements of a lane, of one source or of two. -/
def spcElems (f : VForm) (xs : List Src) (l : Nat) : List Nat := (xs.map fun x => elems f.ty (x l)).flatten

/-- The sources of VSPC in the forms that keep elements: eight elements of each lane. -/
def spcUses (f : VForm) : List Use := usesOf f (if f.ty.width = 16 then 2 else 1) .vsl

theorem vspc_pattern (hv : f.var = 2)
    (b : c.Begins {} (c.enabled f.pg f.pn) f.nw [dstOf f .vq] [⟨27, f.sa, .vsl, 1⟩, ⟨18, f.sb, .onlyS, 1⟩] t g h xs) :
    exec (.vspc f) s = (c.put t g).lanesDone (c.enabled f.pg f.pn) f.dst f.nw f.pfx true h fun l =>
      BitVec.ofNat 64 (seededPattern ((c.vword f xs 1).toNat % 65536) (field ((xs.headD fun _ => 0) l).toNat 0 12)
        (field ((xs.headD fun _ => 0) l).toNat 16 10)) := by
  refine (runSlot_runs hc _).trans ?_
  simp only [if_pos hv]
  exact Ctx.entry_lanes b rfl

theorem vspc_keeps (hv : f.var = 0) (b : c.Begins {} (c.enabled f.pg f.pn) f.nw [dstOf f .vq] (spcUses f) t g h xs) :
    exec (.vspc f) s = (c.put t g).lanesDone (c.enabled f.pg f.pn) f.dst f.nw f.pfx true h fun l =>
      BitVec.ofNat 64 (packElems f.ty ((keptPositions f.ty (spcElems f xs l)).map fun p => (spcElems f xs l).getD p 0)) := by
  refine (runSlot_runs hc _).trans ?_
  simp only [hv, BitVec.ofNat_eq_ofNat, BitVec.reduceEq, if_true, if_false]
  exact Ctx.entry_lanes b rfl

/-- The register of a lane with its metadata byte replaced by the positions that the lane keeps. -/
def spcMetadata (f : VForm) (h : Group) (n : Nat) (xs : List Src) (l : Nat) : W64 :=
  BitVec.ofNat 64 (setField (h.vreg n l).toNat (8 * (f.x.extractLsb' 0 3).toNat) 8 (bitsOf (keptPositions f.ty (spcElems f xs l))))

theorem vspc_packs (hv : f.var = 1) {n : BitVec 8} (hd : f.dst = .v n)
    (b : c.Begins {} (c.enabled f.pg f.pn) f.nw [dstOf f .onlyV] (spcUses f) t g h xs) :
    exec (.vspc f) s = (c.put t g).lanesDone (c.enabled f.pg f.pn) f.dst f.nw f.pfx true h (spcMetadata f h n.toNat xs) := by
  refine (runSlot_runs hc _).trans ?_
  simp only [hv, hd, BitVec.ofNat_eq_ofNat, BitVec.reduceEq, if_true, if_false]
  exact Ctx.entry_lanes b rfl

end

section
variable (f : VForm) (h : Group) (n : Nat) (xs : List Src) (l : Nat)

theorem getLsbD_spcMetadata {p : Nat} (hp : p < 8) : (spcMetadata f h n xs l).getLsbD (8 * (f.x.extractLsb' 0 3).toNat + p) =
    decide (p ∈ keptPositions f.ty (spcElems f xs l)) := by
  have hbyte : (f.x.extractLsb' 0 3).toNat < 8 := BitVec.isLt _
  rw [spcMetadata, getLsbD_setField_inside _ hp (by omega), testBit_bitsOf (keptPositions_nodup _ _)]

theorem getLsbD_spcMetadata_outside {i : Nat}
    (hi : i < 8 * (f.x.extractLsb' 0 3).toNat ∨ 8 * (f.x.extractLsb' 0 3).toNat + 8 ≤ i) :
    (spcMetadata f h n xs l).getLsbD i = (h.vreg n l).getLsbD i := by
  rw [spcMetadata, getLsbD_setField_outside _ hi]

end

end Sys2Proof.Machine
end

section
/-!
SUPPORT. The multiplies and UNFOLD (R321, R322, R329, R335, R336): the operation that each of them issues, or the array that it waits for.
-/
namespace Sys2Proof.Machine
open Sys2Proof

/-! ## The arrays that a multiply needs (R321) -/

theorem Pair.fullFor_multiply {p : Pair} {core n : Nat} {pair sparse seeded : Bool} {ty : ElemType} {a b : W64} {r : Option W64} {m : Tbl W64} :
    p.fullFor core (.multiply pair sparse seeded ty a b n r m) = true ↔
      p.arrayFull core = true ∨ (pair = true ∧ p.arrayFull (core ^^^ 1) = true) := by
  rw [Pair.fullFor, MtxKind.isPair, Bool.or_eq_true, Bool.and_eq_true]

/-! ## Metadata of a sparse A (R336) -/

/-- A row of a table of rows. -/
theorem get_map_rows (ls : List Nat) (x : Nat → W64) (n : Nat) : Tbl.get 0 (ls.map fun i => (i, x i)) n = if n ∈ ls then x n else 0 := by
  induction ls with
  | nil => rfl
  | cons i ls ih =>
      by_cases hi : i = n
      · subst hi
        simp only [List.map_cons, Tbl.get, if_true, List.mem_cons, true_or]
      · have hn : ¬ n = i := fun h => hi h.symm
        simp only [List.map_cons, Tbl.get, hi, hn, if_false, List.mem_cons, false_or, ih]

/-- The metadata that a multiply captures from the registers from `m` on: a lane for each row of A. -/
def metadataOf (h : Group) (m rows : Nat) : Tbl W64 :=
  ((span 0 rows).map fun i => (i, h.vreg (m + i / h.width) (i % h.width))).filter fun x => x.2 ≠ 0

theorem get_metadataOf (h : Group) (m : Nat) {rows row : Nat} (hr : row < rows) :
    Tbl.get 0 (metadataOf h m rows) row = h.vreg (m + row / h.width) (row % h.width) := by
  have hkeys : (((span 0 rows).map fun i => (i, h.vreg (m + i / h.width) (i % h.width))).map Prod.fst).Nodup := by
    simpa [List.map_map, Function.comp_def] using span_nodup 0 rows
  rw [metadataOf, get_filter_zero _ hkeys, get_map_rows, if_pos ((mem_span 0 rows row).mpr ⟨Nat.zero_le _, by omega⟩)]

/-- The metadata registers of a multiply whose A has so many rows. -/
def metadataUse (f : VForm) (h : Group) (rows : Nat) : Use := ⟨9, f.sc, .onlyV, max 1 ((rows + h.width - 1) / h.width)⟩

/-! ## The slots (R329, R335, R336) -/

section
variable {s : State} {c : Ctx} {f : VForm} {t u : State} {g h : Group} {xs : List Src} {r : Host.Outcome State Fault Refusal} {pair : Bool}

/-- The unfold record of a multiply, its fourth operand (R333). -/
def unfoldWord (c : Ctx) (f : VForm) (xs : List Src) : Option W64 := f.pfx.d4.map fun _ => c.vword f xs 2

/-- The operation of a dense or a seeded multiply. -/
def multiplyKind (c : Ctx) (f : VForm) (xs : List Src) (pair seeded : Bool) : MtxKind :=
  .multiply pair seeded seeded f.ty (c.vword f xs 0) (c.vword f xs 1) (f.x.extractLsb' 6 3).toNat (unfoldWord c f xs) []

section
variable {seeded : Bool}
  (hf : (c.withTiles t g u).multiplyFault f pair (if seeded then .seeded else .dense) (c.vword f xs 0) (c.vword f xs 1) (unfoldWord c f xs) = none)
include hf

/-- A dense or seeded multiply whose headers pass their checks goes on to issue its operation. -/
theorem multiplySlot_reaches : ∃ body : Ctx → Group → List Src → Slot,
    c.multiplySlot f pair (if seeded then .seeded else .dense) =
      c.mtxSlot (c.enabled f.pg f.pn) true [] (usesOf f 2 .sl ++ [] ++ fourthUse f) false body ∧
    body (c.withTiles t g u) h xs = (c.withTiles t g u).issueOp u h f.pfx.rnd (multiplyKind c f xs pair seeded) 0 none := by
  unfold Ctx.multiplySlot
  rw [unfoldWord] at hf
  cases seeded <;>
  · simp only [Bool.false_eq_true, if_true, if_false, reduceCtorEq] at hf ⊢
    refine ⟨_, rfl, ?_⟩
    simp only [List.length_nil, decide_false, Bool.false_and, Bool.false_eq_true, if_false, hf]
    rfl

variable (hr : r = .next (slotEnd (c.multiplySlot f pair (if seeded then .seeded else .dense))))
  (b : c.BeginsMtx { always := false } (c.enabled f.pg f.pn) true [] (usesOf f 2 .sl ++ [] ++ fourthUse f) t g h xs u false)
include hr b

theorem multiplySlot_issues (hroom : (u.pair (h.core / 2)).fullFor h.core (multiplyKind c f xs pair seeded) = false) :
    (c.withTiles t g u).issues r u h f.pfx.rnd (multiplyKind c f xs pair seeded) 0 none := by
  obtain ⟨body, hslot, hbody⟩ := multiplySlot_reaches hf
  exact Ctx.mtxSlot_issues (hslot ▸ hr) b hroom hbody

theorem multiplySlot_waits (hfull : (u.pair (h.core / 2)).fullFor h.core (multiplyKind c f xs pair seeded) = true) :
    r = .next (slotEnd (.stop u g (.block .operations))) := by
  obtain ⟨body, hslot, hbody⟩ := multiplySlot_reaches hf
  exact (hslot ▸ hr).trans (Ctx.mtxSlot_blocks b (hbody.trans (Ctx.issueOp_waits hfull)))

end

/-- A multiply with metadata captures it from its registers. -/
theorem metadataSlot_issues (hr : r = .next (slotEnd (c.multiplySlot f pair .metadata))) {m : BitVec 8} (hm : f.sc = .v m) (hd : f.pfx.d4 = none)
    (b : c.BeginsMtx { always := false } (c.enabled f.pg f.pn) true [] (usesOf f 2 .sl ++ [⟨9, f.sc, .onlyV, 1⟩] ++ []) t g h xs u false)
    (hf : (c.withTiles t g u).multiplyFault f pair .metadata (c.vword f xs 0) (c.vword f xs 1) none = none) {rows : Nat}
    (hrows : rows = sparseRows (c.withTiles t g u).parcel (c.vword f xs 0)) (huse : (metadataUse f h rows).fault h = none)
    (hquiet : (h.pending.any fun p => p.meets c.r.id (metadataUse f h rows)) = false) {kind : MtxKind}
    (hkind : kind = .multiply pair true false f.ty (c.vword f xs 0) (c.vword f xs 1) (f.x.extractLsb' 6 3).toNat none (metadataOf h m.toNat rows))
    (hroom : (u.pair (h.core / 2)).fullFor h.core kind = false) :
    (c.withTiles t g u).issues r u h f.pfx.rnd kind 0 none := by
  subst hrows hkind
  unfold Ctx.multiplySlot at hr
  rw [hd] at hr
  refine Ctx.mtxSlot_issues hr b hroom ?_
  rw [metadataUse] at huse hquiet
  simp only [if_true, Option.map_none, hf, huse, Ctx.withTiles_r, hquiet, decide_true, Bool.and_false, Bool.false_eq_true, if_false]
  rw [hm]
  rfl

end

/-- The multiplies of a dense or a seeded A: whether each needs both arrays of its pair, and whether its A is seeded. -/
def plainMultiplies (f : VForm) : List (Instr × Bool × Bool) :=
  [(.mma f, false, false), (.mmap f, true, false), (.mmag f, false, true), (.mmagp f, true, true)]

/-- The multiplies of an A with metadata. -/
def metadataMultiplies (f : VForm) : List (Instr × Bool) := [(.mmas f, false), (.mmasp f, true)]

section
variable {s : State} {c : Ctx} {f : VForm} {t u : State} {g h : Group} {xs : List Src} (hc : s.runs c)
include hc

theorem exec_plainMultiplies {i : Instr} {pair seeded : Bool} (hi : (i, pair, seeded) ∈ plainMultiplies f) :
    exec i s = .next (slotEnd (c.multiplySlot f pair (if seeded then .seeded else .dense))) := by
  simp only [plainMultiplies, List.mem_cons, Prod.mk.injEq, List.not_mem_nil, or_false] at hi
  rcases hi with ⟨rfl, rfl, rfl⟩ | ⟨rfl, rfl, rfl⟩ | ⟨rfl, rfl, rfl⟩ | ⟨rfl, rfl, rfl⟩ <;> exact runSlot_runs hc _

theorem exec_metadataMultiplies {i : Instr} {pair : Bool} (hi : (i, pair) ∈ metadataMultiplies f) :
    exec i s = .next (slotEnd (c.multiplySlot f pair .metadata)) := by
  simp only [metadataMultiplies, List.mem_cons, Prod.mk.injEq, List.not_mem_nil, or_false] at hi
  rcases hi with ⟨rfl, rfl⟩ | ⟨rfl, rfl⟩ <;> exact runSlot_runs hc _

theorem unfold_issues (b : c.BeginsMtx { always := false } (c.enabled f.pg f.pn) true [] (usesOf f 2 .sl) t g h xs u false)
    (hh : headerFault (c.withTiles t g u).parcel 27 (c.vword f xs 0) [3] false false = none) (hw : c.vword f xs 1 >>> 57 = 0) {z y : Tile}
    (hz : (c.withTiles t g u).parcel.tile? (f.x.extractLsb' 0 6).toNat = some z)
    (hy : (c.withTiles t g u).parcel.tile? (hdrHandle (c.vword f xs 0)) = some y) (hty : z.ty = y.ty)
    (hroom : (u.pair (h.core / 2)).arrayFull h.core = false) :
    (c.withTiles t g u).issues (exec (.unfold f) s) u h 0 (.unfold (c.vword f xs 0) (c.vword f xs 1) (f.x.extractLsb' 0 6).toNat) 0 none := by
  refine Ctx.mtxSlot_issues (runSlot_runs hc _) b (Pair.fullFor_single rfl hroom) ?_
  simp only [hh, hw, hz, hy, hty, Option.map_some, Option.isNone_some, ne_eq, not_true_eq_false, decide_false]
  rfl

end

end Sys2Proof.Machine
end

section
/-!
SUPPORT. The accumulator opcodes and the drains (R322, R340 to R342): the operation that each of them issues.
-/
namespace Sys2Proof.Machine
open Sys2Proof

/-! ## Accumulators (R340) -/

/-- Rows below 64 are no fault of ACCMOV. -/
theorem rowFault_none {e : W64} {x : Src} (h : ∀ l, e.getLsbD l = true → (x l).toNat < 64) : rowFault e x = none := by
  refine List.findSome?_eq_none_iff.mpr fun l hl => if_neg ?_
  have := h l ((mem_lanes e l).mp hl)
  omega

section
variable {s : State} {c : Ctx} {f : VForm} {t u : State} {g h : Group} {xs : List Src} (hc : s.runs c)
  (hroom : (u.pair (h.core / 2)).arrayFull h.core = false)
include hc hroom

theorem accz_issues (b : c.BeginsMtx { always := false } (c.enabled f.pg f.pn) true [] [] t g h xs u false) :
    (c.withTiles t g u).issues (exec (.accz f) s) u h 0 (.zero (f.x.extractLsb' 0 8)) 0 none :=
  Ctx.mtxSlot_issues (runSlot_runs hc _) b (Pair.fullFor_single rfl hroom) rfl

theorem acccvt_issues (b : c.BeginsMtx { always := false } (c.enabled f.pg f.pn) true [] [] t g h xs u false) :
    (c.withTiles t g u).issues (exec (.acccvt f) s) u h f.pfx.rnd
      (.convert f.ty (f.x.extractLsb' 6 3).toNat (f.x.extractLsb' 3 3).toNat) 0 none :=
  Ctx.mtxSlot_issues (runSlot_runs hc _) b (Pair.fullFor_single rfl hroom) rfl

theorem accld_issues (b : c.BeginsMtx { always := false } (c.enabled f.pg f.pn) true [] (usesOf f 1 .sl) t g h xs u false) {z : Tile}
    (hz : (c.withTiles t g u).parcel.tile? (f.x.extractLsb' 0 6).toNat = some z) (horg : orgOk (c.vword f xs 0) = true) (hty : z.ty = f.ty)
    (hin : z.has (orgRow (c.vword f xs 0)) (orgCol (c.vword f xs 0)) = true) :
    (c.withTiles t g u).issues (exec (.accld f) s) u h 0
      (.load f.ty (f.x.extractLsb' 6 3).toNat (f.x.extractLsb' 0 6).toNat (c.vword f xs 0)) 0 none := by
  refine Ctx.mtxSlot_issues (runSlot_runs hc _) b (Pair.fullFor_single rfl hroom) ?_
  simp only [hz, horg, hty, hin, Bool.not_true, Bool.false_eq_true, ne_eq, not_true_eq_false, if_false, if_true, Ctx.withTiles_s]

theorem accmovPut_issues (b : c.BeginsMtx { always := false } (c.enabled f.pg f.pn) true [] (usesOf f 2 .vsl) t g h xs u false)
    (hrow : ∀ l, (c.enabled f.pg f.pn).getLsbD l = true → ((xs.headD fun _ => 0) l).toNat < 64) :
    (c.withTiles t g u).issues (exec (.accmovPut f) s) u h 0 (.put (f.x.extractLsb' 6 3).toNat
      (rowsOf (c.enabled f.pg f.pn) (xs.headD fun _ => 0)) (rowsOf (c.enabled f.pg f.pn) (xs.getD 1 fun _ => 0)) (c.enabled f.pg f.pn)) 0 none := by
  refine Ctx.mtxSlot_issues (runSlot_runs hc _) b (Pair.fullFor_single rfl hroom) ?_
  dsimp only
  rw [rowFault_none hrow]
  rfl

/-- A slot that captures no value of its own: its latch waits for a result that is still to come. -/
def Slot.latchless : Slot → Slot
  | .done s g _ dest => .done s g (some []) dest
  | x => x

/-- The pending write of ACCMOV from an accumulator tile, with the state after its number is taken. -/
def Ctx.movPend (c : Ctx) (u : State) (e : W64) (r : BitVec 8) : State × Pending :=
  c.pend u .array .n64 (.vregs r.toNat 1) ((lanes e).map fun l => (l, .home)) true false

/-- ACCMOV from an accumulator tile leaves a pending write for its register and an operation that will fill it. -/
theorem accmovGet_pends (b : c.BeginsMtx { always := false } (c.enabled f.pg f.pn) f.nw [dstOf f .onlyV] (usesOf f 1 .vsl) t g h xs u)
    (hrow : ∀ l, (c.enabled f.pg f.pn).getLsbD l = true → ((xs.headD fun _ => 0) l).toNat < 64) {r : BitVec 8} (hd : f.dst = .v r) :
    let p := (c.withTiles t g u).movPend u (c.enabled f.pg f.pn) r
    let h' : Group := { h with pending := h.pending ++ [p.2] }
    exec (.accmovGet f) s = doneWith (p.1.queueOp h.core ((c.withTiles t g u).mtxOp p.1 h' 0 (.get (f.x.extractLsb' 6 3).toNat
      (rowsOf (c.enabled f.pg f.pn) (xs.headD fun _ => 0)) (c.enabled f.pg f.pn) p.2.uid) 0 none)) h' (some []) none := by
  intro p h'
  have hroom' : (p.1.pair (h'.core / 2)).fullFor h'.core (.get (f.x.extractLsb' 6 3).toNat
      (rowsOf (c.enabled f.pg f.pn) (xs.headD fun _ => 0)) (c.enabled f.pg f.pn) p.2.uid) = false := Pair.fullFor_single rfl hroom
  refine (runSlot_runs hc _).trans (Ctx.mtxSlot_completes b ?_)
  dsimp only
  rw [rowFault_none hrow, hd]
  exact congrArg Slot.latchless (Ctx.issueOp_issues hroom')

end

/-! ## Drains (R341, R342) -/

/-- The semaphore increment of an operation that a slot issues. -/
def opIncrement (f : QForm) : Option (Nat × Nat) := if f.semv then some (f.sem.toNat, f.inc.toNat) else none

/-- The places in an object of the rows of a drain to memory. -/
def drainPoints (l : Nat) (cap : Cap) (w a : W64) : List (Nat × Nat) :=
  (span 0 (drRows w)).map fun i => (l, cap.offset + drOffset a + i * drPitch a)

/-- The bytes of an element of a drain's destination. -/
def drainBytes (w : W64) : Nat := elemBytes ((drCvt w).getD .n8)

/-- The drains, and whether each adds to what its destination holds. -/
def drains (f : QForm) : List (Instr × Bool) := [(.accdr f, false), (.accdra f, true)]

theorem exec_drains {s : State} {c : Ctx} {f : QForm} (hc : s.runs c) {i : Instr} {add : Bool} (hi : (i, add) ∈ drains f) :
    exec i s = .next (slotEnd (c.drainSlot f add)) := by
  simp only [drains, List.mem_cons, Prod.mk.injEq, List.not_mem_nil, or_false] at hi
  rcases hi with ⟨rfl, rfl⟩ | ⟨rfl, rfl⟩ <;> exact runSlot_runs hc _

section
variable {s : State} {c : Ctx} {f : QForm} {add : Bool} {t u : State} {g h : Group} {xs : List Src} {r : Host.Outcome State Fault Refusal}
  (hr : r = .next (slotEnd (c.drainSlot f add))) (hinc : (c.withTiles t g u).incFault f = none)
  (hword : drainFault (c.withTiles t g u).parcel add (c.qword f xs 0) = none)
include hr hinc hword

theorem drainSlot_tile (hg : drainGlobal (c.qword f xs 0) = false) (harg : f.arg.unused = true) (hcap : f.cap = 0)
    (b : c.BeginsMtx { always := false } (c.enabled f.pg f.pn) true [] [⟨28, f.desc, .sl, 1⟩] t g h xs u false)
    (hroom : (u.pair (h.core / 2)).arrayFull h.core = false) :
    (c.withTiles t g u).issues r u h f.pfx.rnd (.drain add (c.qword f xs 0) (c.qword f xs 1)) 0 (opIncrement f) := by
  unfold Ctx.drainSlot at hr
  simp only [harg, if_true] at hr
  refine Ctx.mtxSlot_issues hr b (Pair.fullFor_single rfl hroom) ?_
  simp only [hinc, hword, hg, hcap, Bool.not_true, Bool.not_false, Bool.false_eq_true, ne_eq, not_true_eq_false, decide_false, Bool.or_false,
    if_true, if_false]
  rfl

variable {u2 u3 : State} {vs : List (Nat × Nat)} {q : List (Nat × Nat × Trans)}

/-- A drain to memory has its rights, its bounds and the pages of its rows checked first. -/
theorem drainSlot_memory (hg : drainGlobal (c.qword f xs 0) = true) (harg : f.arg.unused = false)
    (b : c.BeginsMtx { always := false } (c.enabled f.pg f.pn) true [] [⟨28, f.desc, .sl, 1⟩, ⟨5, f.arg, .sl, 1⟩] t g h xs u false)
    (hbehind : u.behind g.uid = false)
    (hlanes : capLanes g.core (c.withTiles t g u).vf f.cap.toNat (g.cap f.cap.toNat) (rWrite + rEngine)
      (drCols (c.qword f xs 0) * drainBytes (c.qword f xs 0)) (drainBytes (c.qword f xs 0)) u
      (drainPoints ((lowest (c.enabled f.pg f.pn)).getD 0) (g.cap f.cap.toNat) (c.qword f xs 0) (c.qword f xs 1)) = (u2, .ok vs))
    (hpages : transLanes g.core (c.withTiles t g u).vf .write u2 ((vs.map fun x =>
      (pieces x.2 (drCols (c.qword f xs 0) * drainBytes (c.qword f xs 0))).map fun y => ((lowest (c.enabled f.pg f.pn)).getD 0, y)).flatten) =
        (u3, q)) (hstop : laneStop g (c.withTiles t g u).launch 1 q = none) (hroom : (u3.pair (h.core / 2)).arrayFull h.core = false) :
    (c.withTiles t g u).issues r u3 h f.pfx.rnd (.drain add (c.qword f xs 0) (c.qword f xs 1)) (vs.headD (0, 0)).2 (opIncrement f) := by
  unfold Ctx.drainSlot at hr
  simp only [harg, Bool.false_eq_true, if_false] at hr
  refine Ctx.mtxSlot_issues hr b (Pair.fullFor_single rfl hroom) ?_
  simp only [drainBytes, drainPoints] at hlanes hpages
  simp only [hinc, hword, hg, Bool.not_true, Bool.not_false, Bool.false_eq_true, if_true, if_false, Ctx.notBehind, Ctx.withTiles_s,
    Ctx.withTiles_g, hbehind, hlanes, hpages, hstop]
  rfl

end

/-! ## The obligation -/

/-- Settles O35: headers by the fields that `header_fields` reads back, the slots that issue nothing by what they answer, and the others by the
operation that each issues once an array has room. -/
theorem matrixOpcodesIssue : Obligations.MatrixOpcodesIssue := by
  unfold Obligations.MatrixOpcodesIssue
  refine ⟨?headers, ⟨?slots, ?kept, ?pattern⟩, ?multiplies, ?accumulators⟩
  case headers =>
    rintro s c f t g h xs u hc e d v hd built horg ⟨z, hz, hin⟩
    refine ⟨fun b hk1 hk2 hs hv hn => ?_, fun b => ?_⟩
    · have hseed : (if f.sc.unused then [] else [⟨9, f.sc, .sl, 1⟩]) = seedUse f true := by
        unfold seedUse
        cases f.sc.unused <;> rfl
      rw [hseed] at b
      exact ⟨_, mlda_builds horg hz hin hc b hk1 hk2 hs hv hn, header_fields hk2 (mldRole_lt f true) hs⟩
    · exact ⟨_, mldb_builds horg hz hin hc b, header_fields (Nat.le_add_left 1 4095) (mldRole_lt f false) (Nat.zero_lt_succ 65535)⟩
  case slots =>
    intro s c f t g h xs hc e
    refine ⟨fun u b => ⟨msync_waits hc b, msync_completes hc b⟩, fun u hk b l hl => melect_elects hc hk b hl, fun hv b => ?_,
      fun hv b => vspc_keeps hc hv b, fun hv n hd b => ⟨_, vspc_packs hc hv hd b, fun l => ?_⟩⟩
    · simpa only [field, Nat.shiftRight_eq_div_pow, Nat.reducePow, Nat.div_one] using vspc_pattern hc hv b
    · exact ⟨fun p hp => getLsbD_spcMetadata f h n.toNat xs l hp, fun i hi => getLsbD_spcMetadata_outside f h n.toNat xs l hi⟩
  case kept =>
    exact fun t xs => ⟨keptPositions_length t xs, keptPositions_ascending t xs, fun p hp => keptPositions_lt t xs hp,
      fun p q hp hq hn => keptPositions_greatest t xs hp hq hn⟩
  case pattern =>
    intro s r g
    obtain ⟨ps, hps, hd, hlen, hlt⟩ := seededPattern_bitsOf s r g
    exact ⟨by rw [hps, bitsBelow_bitsOf hd hlt, hlen], hps ▸ bitsOf_lt hd hlt⟩
  case multiplies =>
    intro s c f t g h xs u hc e d v p n full
    refine ⟨fun i pair seeded hi b hf => ?_, fun i pair m hi hm hd b hf huse hquiet hfull => ?_,
      fun b hh hw ⟨z, y, hz, hy, hty⟩ hfull => ?_⟩
    · have hexec := exec_plainMultiplies hc hi
      exact ⟨fun hfull => multiplySlot_issues hf hexec b (Bool.eq_false_iff.mpr (mt Pair.fullFor_multiply.mp hfull)),
        fun hfull => multiplySlot_waits hf hexec b (Pair.fullFor_multiply.mpr hfull)⟩
    · exact ⟨metadataOf h m.toNat _, metadataSlot_issues (exec_metadataMultiplies hc hi) hm hd b hf rfl huse hquiet rfl
        (Bool.eq_false_iff.mpr (mt Pair.fullFor_multiply.mp hfull)), fun row hrow => get_metadataOf h m.toNat hrow⟩
    · exact unfold_issues hc b hh hw hz hy hty (Bool.eq_false_iff.mpr fun hroom => hfull (.inl hroom))
  case accumulators =>
    intro s c t g h xs u hc hroom
    refine ⟨fun f => ⟨fun b => ⟨accz_issues hc hroom b, acccvt_issues hc hroom b⟩,
        fun b z hz horg hty hin => accld_issues hc hroom b hz horg hty hin,
        fun b hrow r hd => ⟨_, _, _, accmovGet_pends hc hroom b hrow hd, State.queueOp_ops _ _ _, rfl, rfl, rfl, rfl⟩,
        fun b hrow => accmovPut_issues hc hroom b hrow⟩, fun f add i hi hinc hword => ?_⟩
    have hexec := exec_drains hc hi
    exact ⟨fun hg harg hcap b => drainSlot_tile hexec hinc hword hg harg hcap b hroom,
      fun hg harg b hbehind u2 vs u3 q hlanes hpages hstop hroom3 =>
        drainSlot_memory hexec hinc hword hg harg b hbehind hlanes hpages hstop hroom3⟩

end Sys2Proof.Machine
end

section
/-!
SUPPORT. The attention opcodes and KVRS (R345 to R352): the operation or the command that each of them leaves.
-/
namespace Sys2Proof.Machine
open Sys2Proof

section
variable {s : State} {c : Ctx} {f : VForm} {t u u' : State} {g h : Group} {xs : List Src} {va : Nat} (hc : s.runs c)
include hc

/-- The scale of ATTQK: its fourth operand, or 1.0 without one (R346). -/
def attqkScale (c : Ctx) (f : VForm) (xs : List Src) : W64 := if f.pfx.d4.isSome then c.vword f xs 3 else 0x3F800000

/-- The capability register of an attention operation. -/
def attReg (f : VForm) : Nat := (f.x.extractLsb' 2 4).toNat

theorem attqk_issues
    (b : c.BeginsMtx { always := false } (c.enabled f.pg f.pn) true [] (usesOf f 3 .sl ++ fourthUse f) t g h xs u false)
    (hfault : (c.withTiles t g u).attqkFault (f.x.getLsbD 1) (c.vword f xs 0) (c.vword f xs 2)
      (attqkScale c f xs) = none)
    (hpage : (c.withTiles t g u).namedMemory (attReg f) rRead (c.vword f xs 1).toNat
      (pageSize (pagePitch f.ty (hdrK (c.vword f xs 0)))) .read ((lowest (c.enabled f.pg f.pn)).getD 0) = (u', .ok va))
    (hroom : (u'.pair (h.core / 2)).arrayFull h.core = false) :
    (c.withTiles t g u).issues (exec (.attqk f) s) u' h f.pfx.rnd (.qk f.ty (f.x.extractLsb' 6 3).toNat (g.cap (attReg f)) (f.x.getLsbD 1)
      (c.vword f xs 0) (c.vword f xs 1) (c.vword f xs 2)
      ((attqkScale c f xs).setWidth 32)) va none := by
  refine Ctx.mtxSlot_issues (runSlot_runs hc _) b (Pair.fullFor_single rfl hroom) ?_
  dsimp only
  rw [attqkScale] at hfault
  rw [attReg] at hpage
  simp only [hfault, hpage]
  rfl

theorem attsm_issues
    (b : c.BeginsMtx { always := false } (c.enabled f.pg f.pn) true [] (usesOf f 1 .sl) t g h xs u false)
    (hword : (c.vword f xs 0).toNat < 64)
    (hstat : statFault (c.withTiles t g u).parcel 27 ((c.vword f xs 0).toNat % 64) (c.vword f xs 0) = none)
    (hroom : (u.pair (h.core / 2)).arrayFull h.core = false) :
    (c.withTiles t g u).issues (exec (.attsm f) s) u h f.pfx.rnd (.softmax (f.x.extractLsb' 3 3).toNat (f.x.extractLsb' 6 3).toNat
      (f.x.extractLsb' 0 3).toNat (c.vword f xs 0).toNat) 0 none := by
  refine Ctx.mtxSlot_issues (runSlot_runs hc _) b (Pair.fullFor_single rfl hroom) ?_
  dsimp only
  rw [faultIf_false _ (decide_eq_false (Nat.not_le.mpr hword)), hstat, Nat.mod_eq_of_lt hword]
  rfl

theorem attpv_issues
    (b : c.BeginsMtx { always := false } (c.enabled f.pg f.pn) true [] (usesOf f 2 .sl) t g h xs u false)
    (hhigh : c.vword f xs 0 >>> 32 = 0) (hzero : (c.vword f xs 0).extractLsb' 3 5 = 0)
    (hcol : awColumn (c.vword f xs 0) % 64 = 0)
    (hlt : awColumn (c.vword f xs 0) < awD (c.vword f xs 0))
    (hpage : (c.withTiles t g u).namedMemory (attReg f) rRead (c.vword f xs 1).toNat
      (pageSize (pagePitch f.ty (awD (c.vword f xs 0)))) .read ((lowest (c.enabled f.pg f.pn)).getD 0) = (u', .ok va))
    (hroom : (u'.pair (h.core / 2)).arrayFull h.core = false) :
    (c.withTiles t g u).issues (exec (.attpv f) s) u' h f.pfx.rnd (.pv f.ty (f.x.extractLsb' 6 3).toNat (g.cap (attReg f))
      (c.vword f xs 0) (c.vword f xs 1)) va none := by
  refine Ctx.mtxSlot_issues (runSlot_runs hc _) b (Pair.fullFor_single rfl hroom) ?_
  rw [attReg] at hpage
  simp only [hhigh, hzero, hcol, Nat.not_le.mpr hlt, hpage, ne_eq, not_true_eq_false, decide_false, Bool.or_false, Bool.false_eq_true, if_false]
  rfl

end

section
variable {s : State} {c : Ctx} {f : QForm} {t u : State} {g h : Group} {xs : List Src} (hc : s.runs c)
include hc

/-- The sources of ATTMD and of KVRS: a word and the page that it is about. -/
def pageUses (f : QForm) : List Use := [⟨28, f.desc, .sl, 1⟩, ⟨5, f.arg, .sl, 1⟩]

/-- The statistics tile of ATTMD. -/
def mdTile (w : W64) : Nat := (w.extractLsb' 8 6).toNat

theorem attmd_issues (b : c.BeginsMtx { always := false } (c.enabled f.pg f.pn) true [] (pageUses f) t g h xs u false)
    (hbehind : u.behind g.uid = false) (hinc : (c.withTiles t g u).incFault f = none)
    (hword : c.qword f xs 0 &&& 0xFFFFFFFFFFFFC0F8 = 0)
    (hstat : statFault (c.withTiles t g u).parcel 28 (mdTile (c.qword f xs 0)) (c.qword f xs 0) = none)
    (hroom : (u.pair (h.core / 2)).arrayFull h.core = false) :
    (c.withTiles t g u).issues (exec (.attmd f) s) u h f.pfx.rnd (.massDrain f.cap.toNat (g.cap f.cap.toNat)
      ((c.qword f xs 0).extractLsb' 0 3).toNat (mdTile (c.qword f xs 0))
      (c.qword f xs 1)) 0 (if f.semv then some (f.sem.toNat, f.inc.toNat) else none) := by
  refine Ctx.mtxSlot_issues (runSlot_runs hc _) b (Pair.fullFor_single rfl hroom) ?_
  have hbits : faultIf (decide (c.qword f xs 0 &&& ~~~0x3F07 ≠ 0))
      (illegalOperand 6 28 (c.qword f xs 0).toNat) = none :=
    faultIf_false _ (decide_eq_false (not_not.mpr hword))
  rw [mdTile] at hstat
  dsimp only
  rw [hinc, hbits, hstat]
  simp only [firstFault_none_cons, firstFault_nil, Ctx.notBehind, Ctx.withTiles_s, Ctx.withTiles_g, hbehind, Bool.false_eq_true, if_false]
  rfl

/-- What KVRS refuses in its operands, its queue and its capability. -/
def kvrsCheck (c : Ctx) (f : QForm) (xs : List Src) : Option FaultInfo :=
  let w := c.qword f xs 0
  firstFault [c.incFault f, faultIf (w.extractLsb' 0 19 ≠ 0 || 1 < kvMode w || kvMassOp w = 3) (illegalOperand 6 28 w.toNat),
    c.g.pushFault f.qd.toNat 0x0A,
    (privateCause (c.g.cap f.cap.toNat) (rRead + rWrite) none).map fun x =>
      capabilityFault x f.cap.toNat (c.qword f xs 1).toNat ((lowest (c.enabled f.pg f.pn)).getD 0)]

/-- How KVRS begins: as a fence, and never in a subdivisible parcel. -/
def kvrsStart (c : Ctx) (f : QForm) : Start :=
  { always := false, fence := true, check := kvrsCheck c f, pre := faultIf c.launch.hdr.sub (illegalOperand 6 56 0xC2) }

section
variable (b : c.BeginsMtx (kvrsStart c f) (c.enabled f.pg f.pn) true [] (pageUses f) t g h xs u false) (hbehind : u.behind g.uid = false)
include b hbehind

theorem kvrs_pushes (hq : h.queueFull f.qd.toNat = false) :
    exec (.kvrs f) s = doneWith u (h.pushEntry f.qd.toNat ((c.withTiles t g u).command f (QEntry.ofScalar (c.qword f xs 0))
      (.kvrs f.ty (g.cap f.cap.toNat) f.cap.toNat (c.qword f xs 0) (c.qword f xs 1)))) none none := by
  refine (runSlot_runs hc _).trans (Ctx.mtxSlot_completes b ?_)
  simp only [Ctx.notBehind, Ctx.withTiles_s, Ctx.withTiles_g, hbehind, hq, Bool.false_eq_true, if_false]

theorem kvrs_waits (hq : h.queueFull f.qd.toNat = true) :
    exec (.kvrs f) s = .next (slotEnd (.stop u g (.block (.queue f.qd.toNat)))) := by
  refine (runSlot_runs hc _).trans (Ctx.mtxSlot_blocks b ?_)
  simp only [Ctx.notBehind, Ctx.withTiles_s, Ctx.withTiles_g, hbehind, hq, Bool.false_eq_true, if_false, if_true]

end

end

/-- Settles O36: the attention opcodes by the operation that each issues, KVRS by its queue, which has room or is full. -/
theorem attentionOpcodesComplete : Obligations.AttentionOpcodesComplete := by
  unfold Obligations.AttentionOpcodesComplete
  intro s c t g h xs u hc
  refine ⟨fun f => ⟨?_, ?_, ?_⟩, fun f => ⟨?_, ?_⟩⟩
  · exact fun b hfault u' va hpage hroom => attqk_issues hc b hfault hpage hroom
  · exact fun b hword hstat hroom => attsm_issues hc b hword hstat hroom
  · exact fun b hhigh hzero hcol hlt u' va hpage hroom => attpv_issues hc b hhigh hzero hcol hlt hpage hroom
  · exact fun b hbehind hinc hword hstat hroom => attmd_issues hc b hbehind hinc hword hstat hroom
  · exact fun b hbehind => ⟨fun hq => kvrs_waits hc b hbehind hq, fun hq => ⟨_, kvrs_pushes hc b hbehind hq, rfl, rfl, rfl, rfl⟩⟩

end Sys2Proof.Machine
end

section
/-!
SUPPORT. The security engine (R442 to R448): reports, admissions, keys, debug tokens and the lifecycle.
-/
namespace Sys2Proof

/-- A table with one value for each key of a list. -/
theorem Tbl.get_map_const {α : Type} (d v : α) {ls : List Nat} {n : Nat} (h : n ∈ ls) : Tbl.get d (ls.map fun i => (i, v)) n = v := by
  induction ls with
  | nil => exact absurd h List.not_mem_nil
  | cons x ls ih =>
      rw [List.map_cons, Tbl.get]
      split
      · rfl
      · rename_i hx
        exact ih ((List.mem_cons.mp h).resolve_left fun y => hx y.symm)

namespace Machine

@[simp] theorem exec_attestationRequest (vf : Option Nat) (nonce : BitVec 256) (s : State) :
    exec (.attestationRequest vf nonce) s = execAttestationRequest vf nonce s := rfl
@[simp] theorem exec_codeAdmission (vf pa size obj : Nat) (s : State) :
    exec (.codeAdmission vf pa size obj) s = execCodeAdmission vf pa size obj s := rfl
@[simp] theorem exec_keyLoad (vf slot : Nat) (wrapped : List Byte) (s : State) :
    exec (.keyLoad vf slot wrapped) s = execKeyLoad vf slot wrapped s := rfl
@[simp] theorem exec_mlKemEncapsulation (vf : Nat) (c : List Byte) (s : State) :
    exec (.mlKemEncapsulation vf c) s = execMlKemEncapsulation vf c s := rfl
@[simp] theorem exec_debugToken (t : DebugToken) (s : State) : exec (.debugToken t) s = execDebugToken t s := rfl
@[simp] theorem exec_lifecycleAdvance (r : ConfigRecord) (s : State) : exec (.lifecycleAdvance r) s = execLifecycleAdvance r s := rfl

/-! ## The debug state and the keys (R446, R448) -/

/-- A field-book record changes the field book of the control die only (R453). -/
theorem State.book_fields (s : State) (k d : BitVec 8) (b : BitVec 16) (x : W128) :
    ∃ l n, s.book k d b x = { s with control := { s.control with fieldBook := l, fieldSeq := n } } := ⟨_, _, rfl⟩

@[simp] theorem State.book_lifecycle (s : State) (k d : BitVec 8) (b : BitVec 16) (x : W128) :
    (s.book k d b x).control.lifecycle = s.control.lifecycle := by
  obtain ⟨l, n, h⟩ := s.book_fields k d b x
  rw [h]

@[simp] theorem State.book_keys (s : State) (k d : BitVec 8) (b : BitVec 16) (x : W128) :
    (s.book k d b x).control.keys = s.control.keys := by
  obtain ⟨l, n, h⟩ := s.book_fields k d b x
  rw [h]

/-- A change of the debug state is one of the control die: the state itself and a field-book record. -/
theorem State.setDebug_frame (s : State) (d : DebugState) : ∃ l n, s.setDebug d =
    { s with control := { s.control with debug := d, fieldBook := l, fieldSeq := n } } := by
  unfold State.setDebug
  split
  · rename_i h
    subst h
    exact ⟨s.control.fieldBook, s.control.fieldSeq, rfl⟩
  · exact ⟨_, _, rfl⟩

/-- No key is left in a slot once every key has been destroyed. -/
theorem State.destroyKeys_state (s : State) {n : Nat} (h : n < 4096) : (Tbl.get KeySlot.reset s.destroyKeys.control.keys n).state = 2 := by
  rw [State.destroyKeys, Tbl.get_map_const _ _ ((mem_span 0 4096 n).mpr ⟨Nat.zero_le n, by omega⟩)]
  rfl

section
variable {s : State}

/-! ## Reports (R444) -/

theorem attestationRequest_reports {vf : Option Nat} (nonce : BitVec 256) (he : s.enabled = true) (hb : s.control.boot = .running)
    (hv : ∀ n, vf = some n → n < 64) :
    exec (.attestationRequest vf nonce) s =
      .next { s with replies := s.replies ++ [.report (s.reportBody vf nonce ++ Config.identitySign (s.reportBody vf nonce))] } := by
  cases vf with
  | none => simp [execAttestationRequest, hb]
  | some n => simp [execAttestationRequest, he, hv n rfl]

/-- A report begins with the nonce. -/
theorem reportBody_nonce (vf : Option Nat) (nonce : BitVec 256) : (s.reportBody vf nonce).take 32 = bytesOfNat 32 nonce.toNat := by
  simp only [State.reportBody, List.append_assoc]
  exact List.take_left' (length_bytesOfNat 32 _)

/-! ## Admissions (R445) -/

theorem codeAdmission_admits {vf pa size obj : Nat} (he : s.enabled = true) (hv : vf < 64) (hc : cellExists (cellOf 0 pa) size = true)
    (hp : s.poisoned (cellOf 0 pa) size = false) (hn : (vf, obj) ∉ s.control.admitted) :
    exec (.codeAdmission vf pa size obj) s = .next (if s.admits vf (Memory.readN s.mem (cellOf 0 pa) size) = true then
      { s with control := { s.control with admitted := s.control.admitted ++ [(vf, obj)] } } else s) := by
  rw [exec_codeAdmission]
  cases ha : s.admits vf (Memory.readN s.mem (cellOf 0 pa) size) <;>
    simp [execCodeAdmission, he, hc, hp, hn, ha, Nat.not_le.mpr hv]

/-! ## Keys (R446) -/

theorem keyLoad_loads {vf slot : Nat} (wrapped : List Byte) {k : List Byte} (he : s.enabled = true) (hv : vf < 64)
    (hk : (s.vf vf).wrapKey = some k) (hl : s.keyLoadable vf slot = true) :
    exec (.keyLoad vf slot wrapped) s = .next (match Config.aesUnwrap k wrapped with
      | some bs => if bs.length = 64 then
          { s with control := { s.control with keys := Tbl.put KeySlot.reset s.control.keys slot (keySlotOf bs) } } else s
      | none => s) := by
  have hgo : (!s.enabled || decide (64 ≤ vf) || !s.keyLoadable vf slot) = false := by simp [he, hl, hv]
  rw [exec_keyLoad, execKeyLoad, hgo, hk]
  rfl

theorem mlKemEncapsulation_sets {vf : Nat} (c : List Byte) (he : s.enabled = true) (hv : vf < 64) :
    exec (.mlKemEncapsulation vf c) s = .next (match Config.mlKemDecapsulate c with
      | some k => s.setVf vf { s.vf vf with wrapKey := some k }
      | none => s) := by
  have hgo : (!s.enabled || decide (64 ≤ vf)) = false := by simp [he, hv]
  rw [exec_mlKemEncapsulation, execMlKemEncapsulation, hgo]
  rfl

/-! ## Debug tokens (R448) -/

theorem debugToken_refused {t : DebugToken} (h : s.tokenOk t = false) : exec (.debugToken t) s = .next s := by
  rw [exec_debugToken, execDebugToken, h]
  rfl

theorem debugToken_opens {t : DebugToken} (h : s.tokenOk t = true) : ∃ u, exec (.debugToken t) s = .next u ∧ u.mem = s.mem ∧
    u.control.debug = t.state ∧ ∀ n, n < 4096 → (Tbl.get KeySlot.reset u.control.keys n).state = 2 := by
  rw [exec_debugToken, execDebugToken, h]
  obtain ⟨l, n, hu⟩ := State.setDebug_frame { s.destroyKeys.nextFree.1 with
    control := { s.destroyKeys.nextFree.1.control with nonce := Config.issuedNonce s.destroyKeys.nextFree.2 } } t.state
  exact ⟨_, congrArg Host.Outcome.next hu, rfl, rfl, fun _ => s.destroyKeys_state⟩

/-! ## The lifecycle (R447) -/

/-- A record that Dereo has signed and that is not too old. -/
def State.signedAdvance (s : State) (r : ConfigRecord) : Bool :=
  r.kind = .lifecycle && !r.owner && s.recordFresh r && Config.recordVerifies none r

/-- The state whose lifecycle state is `l`, entered by the record `r`; entry to Return-analysis destroys every key. -/
def State.advanced (s : State) (r : ConfigRecord) (l : Lifecycle) : State :=
  let s := { s with control := { s.control with lifecycle := l, minSeq := Tbl.put 0 s.control.minSeq (recordIndex .lifecycle) r.seq } }
  if l = .returnAnalysis then s.destroyKeys else s

theorem State.advanced_lifecycle (s : State) (r : ConfigRecord) (l : Lifecycle) : (s.advanced r l).control.lifecycle = l := by
  unfold State.advanced
  dsimp only
  split <;> rfl

theorem State.advanced_mem (s : State) (r : ConfigRecord) (l : Lifecycle) : (s.advanced r l).mem = s.mem := by
  unfold State.advanced
  dsimp only
  split <;> rfl

theorem State.advanced_destroys (s : State) (r : ConfigRecord) {l : Lifecycle} (h : l = .returnAnalysis) {n : Nat} (hn : n < 4096) :
    (Tbl.get KeySlot.reset (s.advanced r l).control.keys n).state = 2 := by
  unfold State.advanced
  rw [if_pos h]
  exact State.destroyKeys_state _ hn

theorem lifecycleAdvance_eq {l : Lifecycle} (r : ConfigRecord) (hb : s.control.boot = .running) (hn : nextLifecycle s.control.lifecycle = some l) :
    exec (.lifecycleAdvance r) s = .next (if s.signedAdvance r = true ∧ Config.recordLifecycle r.payload = lifecycleCode l then
      (s.advanced r l).book 0x08 255 1 (BitVec.ofNat 128 (lifecycleCode l + 4 * debugCode (s.advanced r l).control.debug)) else s) := by
  rw [exec_lifecycleAdvance, execLifecycleAdvance, hn]
  have hstop : (decide (s.control.boot ≠ .running) || !s.signedAdvance r || decide (Config.recordLifecycle r.payload ≠ lifecycleCode l)) =
      !decide (s.signedAdvance r = true ∧ Config.recordLifecycle r.payload = lifecycleCode l) := by
    simp [hb, Bool.decide_and]
  by_cases hgo : s.signedAdvance r = true ∧ Config.recordLifecycle r.payload = lifecycleCode l
  · rw [if_pos hgo]
    exact congrArg Host.Outcome.next (if_neg (Bool.eq_false_iff.mp (hstop.trans (by simp [hgo]))))
  · rw [if_neg hgo]
    exact congrArg Host.Outcome.next (if_pos (hstop.trans (by simp [hgo])))

end

/-- Settles O54: a request of each kind by its answer, a token and a lifecycle record by whether they are accepted
(log entries 54 and 55). -/
theorem securityEngineCompletes : Obligations.SecurityEngineCompletes := by
  unfold Obligations.SecurityEngineCompletes
  intro s
  refine ⟨fun vf nonce he hb hv => ⟨attestationRequest_reports nonce he hb hv, reportBody_nonce vf nonce⟩,
    fun vf pa size obj => codeAdmission_admits, fun vf slot wrapped k he hv hk hlo hhi hl hs => ?_, fun vf c => mlKemEncapsulation_sets c,
    fun t hb hl ht => ?_, fun r l hb hn hk ho hf => ?_, rfl, rfl, rfl, rfl⟩
  · refine keyLoad_loads wrapped he hv hk ?_
    simp only [State.keyLoadable, rangeOf, hlo, hhi, hl, hs, ne_eq, not_false_eq_true, decide_true, Bool.and_self]
  · have hok : s.tokenOk t = true ↔ t.keyid = Config.identityKeyid ∧ t.nonce = s.control.nonce ∧ Config.tokenVerifies s.provisioned t = true := by
      simp [State.tokenOk, hb, hl, ht, and_assoc]
    by_cases h : s.tokenOk t = true
    · obtain ⟨u, hu, hmem, hdebug, hkeys⟩ := debugToken_opens h
      exact ⟨u, hu, hmem, fun hbad => absurd (hok.mp h) hbad, fun _ => ⟨hdebug.trans ht, hkeys⟩⟩
    · exact ⟨s, debugToken_refused (Bool.eq_false_iff.mpr h), rfl, fun _ => rfl, fun hgood => absurd (hok.mpr hgood) h⟩
  · have hsigned : s.signedAdvance r = Config.recordVerifies none r := by simp [State.signedAdvance, hk, ho, hf]
    rw [lifecycleAdvance_eq r hb hn, hsigned]
    split
    · rename_i hgood
      refine ⟨_, rfl, ?_, fun hbad => absurd hgood hbad, fun _ => ⟨?_, fun hret n hlt => ?_⟩⟩
      · rw [State.book_mem, State.advanced_mem]
      · rw [State.book_lifecycle, State.advanced_lifecycle]
      · rw [State.book_keys, s.advanced_destroys r hret hlt]
    · rename_i hbad
      exact ⟨s, rfl, rfl, fun _ => rfl, fun hgood => absurd hgood hbad⟩

end Machine
end Sys2Proof
end

section
/-!
SUPPORT. Resets and the power states of the islands (R432, R433, R437, R441, R442, R448, R450, R455): what each leaves at its reset value, and
what stays.
-/
namespace Sys2Proof

/-- A table without the keys of a range. -/
theorem Tbl.get_dropRange {α : Type} (d : α) (t : Tbl α) (lo hi n : Nat) :
    Tbl.get d (t.dropRange lo hi) n = if n < lo ∨ hi ≤ n then Tbl.get d t n else d := by
  rw [Tbl.dropRange, Tbl.get_filter d (fun k => k < lo || hi ≤ k)]
  simp only [Bool.or_eq_true, decide_eq_true_eq]

namespace Machine

@[simp] theorem exec_computeDieReset (d : Nat) (b : Bool) (s : State) : exec (.computeDieReset d b) s = execComputeDieReset d b s := rfl
@[simp] theorem exec_dieRelink (d : Nat) (s : State) : exec (.dieRelink d) s = execDieRelink d s := rfl
@[simp] theorem exec_vfReset (vf : Nat) (s : State) : exec (.vfReset vf) s = execVfReset vf s := rfl
@[simp] theorem exec_coldReset (s : State) : exec .coldReset s = execColdReset s := rfl
@[simp] theorem exec_bootSourceRetry (s : State) : exec .bootSourceRetry s = execBootSourceRetry s := rfl
@[simp] theorem exec_warmReset (s : State) : exec .warmReset s = execWarmReset s := rfl
@[simp] theorem exec_islandPowerChange (n : Nat) (st : IslandState) (s : State) :
    exec (.islandPowerChange n st) s = execIslandPowerChange n st s := rfl

/-- What a fold's step establishes for its own element and keeps for the others holds of every element in the end. -/
theorem foldl_establishes {α : Type} {f : State → α → State} {p : α → State → Prop} (hset : ∀ s x, p x (f s x))
    (hkeep : ∀ s x y, p x s → p x (f s y)) {l : List α} {x : α} (hx : x ∈ l) (s : State) : p x (l.foldl f s) := by
  induction l generalizing s with
  | nil => exact absurd hx List.not_mem_nil
  | cons y l ih =>
      rcases List.mem_cons.mp hx with rfl | hx
      · exact List.foldlRecOn l f (hset s x) fun s h y _ => hkeep s x y h
      · exact ih hx _

/-! ## A record in the field book (R453) -/

@[simp] theorem State.book_core (s : State) (k d : BitVec 8) (b : BitVec 16) (x : W128) (n : Nat) : (s.book k d b x).core n = s.core n := by
  obtain ⟨c, h⟩ := s.book_frame k d b x
  rw [h]
  rfl

theorem drop_length_sub_ne_nil {α : Type} {l : List α} {n : Nat} (hl : l ≠ []) (hn : 0 < n) : l.drop (l.length - n) ≠ [] := by
  have hpos := List.length_pos_iff.mpr hl
  rw [ne_eq, List.drop_eq_nil_iff]
  omega

/-- The field book that has just got a record is not empty. -/
theorem State.book_fieldBook (s : State) (k d : BitVec 8) (b : BitVec 16) (x : W128) : (s.book k d b x).control.fieldBook ≠ [] := by
  unfold State.book
  dsimp only
  exact drop_length_sub_ne_nil (List.append_ne_nil_of_right_ne_nil _ (List.cons_ne_nil _ _)) (by decide)

/-! ## The reset of a die (R432, R433) -/

theorem State.clearDie_core (s : State) (d n : Nat) : (s.clearDie d).core n = if n / 48 = d then Core.reset else s.core n := by
  have h : (s.clearDie d).core n = Tbl.get Core.reset (s.cores.dropRange (48 * d) (48 * d + 48)) n := rfl
  rw [h, Tbl.get_dropRange]
  by_cases hd : n / 48 = d
  · rw [if_pos hd, if_neg (by omega)]
  · rw [if_neg hd, if_pos (by omega), State.core]

theorem State.clearDie_die (s : State) (d : Nat) : (s.clearDie d).die d = { Die.reset with beat := (s.die d).beat, held := true } :=
  Tbl.get_put_same _ _ _ _

theorem State.clearDie_die_other (s : State) {d n : Nat} (h : n ≠ d) : (s.clearDie d).die n = s.die n := Tbl.get_put_other _ _ _ _ _ h

theorem computeDieReset_clears {s : State} {d : Nat} (b : Bool) (hd : d < 4) (hh : (s.die d).held = false) :
    ∃ u : State, exec (.computeDieReset d b) s = .next ((u.clearDie d).book 0x04 (BitVec.ofNat 8 d) 0 0) := by
  have hgo : (decide (Config.dies ≤ d) || (s.die d).held) = false := by simp [Config.dies, hh, Nat.not_le.mpr hd]
  rw [exec_computeDieReset, execComputeDieReset, hgo]
  exact ⟨_, rfl⟩

/-! ## The links of a die train anew (R122, R432) -/

theorem dieRelink_serves {s : State} {d : Nat} (hh : (s.die d).held = true) : ∃ t, exec (.dieRelink d) s = .next t ∧
    t.die d = { s.die d with held := false, beat := s.openBeat } ∧ t.mem = s.mem ∧ t.groups = s.groups := by
  have hkeeps := foldl_keeps (fun s => (s.dies, s.mem, s.groups)) State.relink (fun _ _ => rfl) (linksOf d)
    (s.setDie d { s.die d with held := false, beat := s.openBeat })
  simp only [Prod.mk.injEq] at hkeeps
  obtain ⟨hdies, hmem, hgroups⟩ := hkeeps
  simp only [exec_dieRelink, execDieRelink, hh, Bool.not_true, Bool.false_eq_true, if_false]
  refine ⟨_, rfl, ?_, ?_, ?_⟩
  · rw [State.book_die, State.die, hdies]
    exact State.die_setDie _ _ _
  · rw [State.book_mem, hmem]
    rfl
  · rw [State.book_groups, hgroups]
    rfl

/-! ## The reset of a function (R437) -/

theorem vfReset_finishes {s : State} {vf : Nat} (hv : vf < 64) (hr : (s.vf vf).resetting = true) (hq : s.vfQuiet vf = true) :
    exec (.vfReset vf) s = .next (s.finishVfReset vf) := by
  rw [exec_vfReset, execVfReset, if_neg (Nat.not_le.mpr hv), if_pos hr, if_pos hq]

/-- The registers of a function but those of its launch queues. -/
def Vf.bare (v : Vf) : Vf := { v with queues := [] }

theorem Vf.eq_of_bare {v w : Vf} (h : v.bare = w.bare) : v = { w with queues := v.queues } :=
  congrArg (fun x : Vf => { x with queues := v.queues }) h

/-- A launch queue takes its turn behind the queues that wait. -/
def State.passAtFloor (vf : Nat) (s : State) (n : Nat) : State :=
  s.setVf vf ((s.vf vf).setQueue n { (s.vf vf).queue n with pass := s.passFloor vf n })

theorem State.passAtFloor_bare (vf : Nat) (s : State) (n : Nat) : ((s.passAtFloor vf n).vf vf).bare = (s.vf vf).bare := by
  rw [State.passAtFloor, State.vf_setVf]
  rfl

theorem finishVfReset_eq (s : State) (vf : Nat) : ∃ u : State, s.finishVfReset vf = (span 0 8).foldl (State.passAtFloor vf) u ∧
    u.vf vf = (s.vf vf).cleared ∧ u.launches = s.launches.filter (fun l => l.vf ≠ vf) ∧ u.mem = s.mem :=
  ⟨_, rfl, State.vf_setVf _ _ _, rfl, rfl⟩

/-- The registers of a function after its reset, its launches and memory. -/
theorem finishVfReset_effect (s : State) (vf : Nat) :
    (∃ q, (s.finishVfReset vf).vf vf = { (s.vf vf).cleared with queues := q }) ∧
    (s.finishVfReset vf).launches = s.launches.filter (fun l => l.vf ≠ vf) ∧ (s.finishVfReset vf).mem = s.mem := by
  obtain ⟨u, hu, hvf, hlaunches, hmem⟩ := finishVfReset_eq s vf
  have hbare := foldl_keeps (fun s => (s.vf vf).bare) (State.passAtFloor vf) (State.passAtFloor_bare vf) (span 0 8) u
  rw [hu]
  refine ⟨⟨_, Vf.eq_of_bare (hbare.trans (congrArg Vf.bare hvf))⟩, ?_, ?_⟩
  · rw [foldl_keeps State.launches (State.passAtFloor vf) fun _ _ => rfl, hlaunches]
  · rw [foldl_keeps State.mem (State.passAtFloor vf) fun _ _ => rfl, hmem]

/-! ## Boot (R441, R442) -/

/-- The sequence numbers that a boot with the records of the flash stores. -/
def State.bootSeqs (s : State) : Tbl Nat :=
  s.usedRecords.foldl (fun t r => Tbl.put 0 t (recordIndex r.kind) (max (Tbl.get 0 t (recordIndex r.kind)) r.seq)) s.control.minSeq

/-- The domain index that a boot with the records of the flash assigns. -/
def State.bootPackage (s : State) : Nat :=
  match s.usedRecords.find? fun r => r.kind = .domain with
  | some r => Config.recordPackage r.payload % 256
  | none => 0

/-- Device memory reads 0 after power-on (log entries 2 and 53). -/
theorem State.powerOn_read (s : State) {c : Nat} (h : cellTgt c = 0) : Memory.read s.powerOn.mem c = 0 :=
  (Tbl.get_filter 0 (fun k => cellTgt k ≠ 0) s.mem c).trans (if_neg (by simp [h]))

theorem State.bootUp_frame (s : State) : ∃ f c, s.bootUp = { s with free := f, control := c } ∧ c.lifecycle = s.control.lifecycle ∧
    c.flash = s.control.flash ∧ (Config.bootFailure s.tick = 0 → c.boot = .running) ∧
    ∀ k, Config.bootFailure s.tick = k → k ≠ 0 → c.boot = .failed k := by
  unfold State.bootUp
  split
  · rename_i h
    obtain ⟨l, n, hd⟩ := State.setDebug_frame { s with free := s.free + 1, control := { s.control with
      inUse := s.usedRecords, minSeq := s.bootSeqs, package := s.bootPackage, boot := .running, nonce := Config.issuedNonce s.free } }
      (s.recordedDebug s.usedRecords)
    exact ⟨_, _, hd, rfl, rfl, fun _ => rfl, fun k hk hne => absurd (hk.symm.trans h) hne⟩
  · rename_i h
    obtain ⟨l, n, hb⟩ := State.book_fields { s with control := { s.control with
      boot := .failed (Config.bootFailure s.tick), bootAt := s.time } } 0x06 255 0 (BitVec.ofNat 128 (Config.bootFailure s.tick))
    exact ⟨_, _, hb, rfl, rfl, fun hk => absurd hk h, fun k hk _ => by rw [hk]⟩

theorem coldReset_clears (s : State) : ∃ t, exec .coldReset s = .next t ∧ t.groups = [] ∧ t.parcels = [] ∧ t.launches = [] ∧ t.vfs = [] ∧
    t.net = [] ∧ t.control.lifecycle = s.control.lifecycle ∧ t.control.flash = s.control.flash ∧
    (Config.bootFailure s.tick = 0 → t.control.boot = .running) ∧
    (∀ k, Config.bootFailure s.tick = k → k ≠ 0 → t.control.boot = .failed k) ∧ ∀ c, cellTgt c = 0 → Memory.read t.mem c = 0 := by
  obtain ⟨f, c, hboot, hlife, hflash, hrun, hfail⟩ := s.powerOn.bootUp_frame
  refine ⟨s.powerOn.bootUp, rfl, ?_⟩
  rw [hboot]
  have hread : ∀ c, cellTgt c = 0 → Memory.read s.powerOn.mem c = 0 := fun _ => s.powerOn_read
  exact ⟨rfl, rfl, rfl, rfl, rfl, hlife, hflash, hrun, hfail, hread⟩

/-! ## The warm reset (R107, R448) -/

/-- A die whose cores are at their reset values, whose L2 is empty and that serves. -/
def State.DieEmpty (s : State) (d : Nat) : Prop := (∀ n, n / 48 = d → s.core n = Core.reset) ∧ (s.die d).l2 = [] ∧ (s.die d).held = false

theorem State.warmDie_empty (s : State) (d : Nat) : (s.warmDie d).DieEmpty d := by
  have hd : (s.warmDie d).die d = { (s.clearDie d).die d with held := false } := State.die_setDie _ _ _
  refine ⟨fun n hn => ?_, ?_, ?_⟩
  · exact (s.clearDie_core d n).trans (if_pos hn)
  · rw [hd, State.clearDie_die]
    rfl
  · rw [hd]

theorem State.DieEmpty.warmDie {s : State} {d : Nat} (h : s.DieEmpty d) (n : Nat) : (s.warmDie n).DieEmpty d := by
  by_cases hn : d = n
  · subst hn
    exact s.warmDie_empty d
  · obtain ⟨hcores, hl2, hheld⟩ := h
    have hd : (s.warmDie n).die d = s.die d := (Tbl.get_put_other _ _ _ _ _ hn).trans (s.clearDie_die_other hn)
    refine ⟨fun m hm => ?_, by rw [hd, hl2], by rw [hd, hheld]⟩
    exact (s.clearDie_core n m).trans (by rw [hcores m hm, ite_self])

/-- In Production a warm reset leaves the debug state that the records set (R448). -/
def State.debugClosed (s : State) : State :=
  if s.control.lifecycle = .production && s.control.debug = .invasive then s.setDebug (s.recordedDebug s.control.inUse) else s

theorem State.DieEmpty.debugClosed {s : State} {d : Nat} (h : s.DieEmpty d) : s.debugClosed.DieEmpty d := by
  unfold State.debugClosed
  split
  · obtain ⟨l, n, hd⟩ := s.setDebug_frame (s.recordedDebug s.control.inUse)
    rw [hd]
    exact h
  · exact h

theorem execWarmReset_eq (s : State) : ∃ u : State, execWarmReset s = .next ((span 0 Config.dies).foldl State.warmDie u).debugClosed := ⟨_, rfl⟩

theorem warmReset_empties (s : State) : ∃ t, exec .warmReset s = .next t ∧ ∀ d, d < 4 → t.DieEmpty d := by
  obtain ⟨u, hu⟩ := execWarmReset_eq s
  have hempty : ∀ d, d < 4 → ((span 0 Config.dies).foldl State.warmDie u).DieEmpty d := fun d hd =>
    foldl_establishes (p := fun d s => s.DieEmpty d) State.warmDie_empty (fun _ n _ h => h.warmDie _)
      ((mem_span 0 4 d).mpr ⟨Nat.zero_le d, by omega⟩) u
  exact ⟨_, hu, fun d hd => (hempty d hd).debugClosed⟩

/-! ## Islands (R450, R455) -/

theorem State.loseIsland_keeps (s : State) (n : Nat) :
    (s.loseIsland n).control.islands = s.control.islands ∧ (s.loseIsland n).mem = s.mem := by
  unfold State.loseIsland
  dsimp only
  split_ifs <;> exact ⟨rfl, rfl⟩

/-- The cores of a pair whose island is turned off are at their reset values. -/
theorem State.loseIsland_core (s : State) {n : Nat} (hn : n < 120) (hk : n % 30 < 24) :
    (s.loseIsland n).core (48 * (n / 30) + 2 * (n % 30)) = Core.reset := by
  unfold State.loseIsland islandDie islandPlace
  dsimp only
  rw [if_neg (Nat.not_le.mpr hn), if_pos hk]
  refine (Tbl.get_dropRange _ _ _ _ _).trans (if_neg ?_)
  omega

/-- The state before an island changes: dirty lines are written back as shared logic stops, and what is turned off is lost. -/
def State.leaveIsland (s : State) (n : Nat) (st : IslandState) : State :=
  let shared := 24 ≤ islandPlace n && islandPlace n ≠ 29 && n < 120
  let s := if shared && st ≠ .active then s.cleanL2 (islandDie n) else s
  if st = .off then s.loseIsland n else s

theorem State.leaveIsland_keeps (s : State) (n : Nat) (st : IslandState) :
    (s.leaveIsland n st).control.islands = s.control.islands ∧ (s.leaveIsland n st).mem = s.mem := by
  unfold State.leaveIsland
  dsimp only
  split_ifs
  · exact State.loseIsland_keeps _ n
  · exact s.loseIsland_keeps n
  · exact ⟨rfl, rfl⟩
  · exact ⟨rfl, rfl⟩

theorem State.leaveIsland_island (s : State) (n m : Nat) (st : IslandState) : (s.leaveIsland n st).island m = s.island m := by
  rw [State.island, (s.leaveIsland_keeps n st).1, State.island]

theorem State.leaveIsland_core (s : State) {n : Nat} (hn : n < 120) (hk : n % 30 < 24) :
    (s.leaveIsland n .off).core (48 * (n / 30) + 2 * (n % 30)) = Core.reset := by
  unfold State.leaveIsland
  rw [if_pos rfl]
  exact State.loseIsland_core _ hn hk

/-- An island is in the state `st`. -/
def State.setIsland (s : State) (n : Nat) (st : IslandState) : State :=
  { s with control := { s.control with islands := Tbl.put .active s.control.islands n st } }

theorem State.island_setIsland (s : State) (n m : Nat) (st : IslandState) : (s.setIsland n st).island m = if m = n then st else s.island m :=
  Tbl.get_put _ _ _ _ _
@[simp] theorem State.setIsland_core (s : State) (n m : Nat) (st : IslandState) : (s.setIsland n st).core m = s.core m := rfl
@[simp] theorem State.setIsland_mem (s : State) (n : Nat) (st : IslandState) : (s.setIsland n st).mem = s.mem := rfl
@[simp] theorem State.noteStandby_island (s : State) (m : Nat) : s.noteStandby.island m = s.island m := rfl
@[simp] theorem State.noteStandby_core (s : State) (m : Nat) : s.noteStandby.core m = s.core m := rfl
@[simp] theorem State.noteStandby_mem (s : State) : s.noteStandby.mem = s.mem := rfl

theorem islandPowerChange_sets {s : State} {n : Nat} {st : IslandState} (hb : s.control.boot = .running) (hm : s.mayChange n st = true) :
    exec (.islandPowerChange n st) s = .next ((s.leaveIsland n st).setIsland n st).noteStandby := by
  have hgo : (decide (s.control.boot ≠ .running) || !s.mayChange n st) = false := by simp [hb, hm]
  rw [exec_islandPowerChange, execIslandPowerChange, hgo]
  rfl

theorem mayChange_of {s : State} {n : Nat} {st : IslandState} (hn : n < 128) (hne : s.island n ≠ st)
    (hshared : 24 ≤ n % 30 → n % 30 ≠ 29 → n < 120 → st ≠ .active → s.pairsOff (n / 30) = true)
    (hoff : st = .off → s.islandEmpty n = true) : s.mayChange n st = true := by
  simp only [State.mayChange, Bool.and_eq_true, Bool.or_eq_true, Bool.not_eq_true', decide_eq_true_eq, ne_eq]
  refine ⟨⟨⟨hn, hne⟩, ?_⟩, ?_⟩
  · by_cases hst : st = .active
    · exact .inl (.inl hst)
    · by_cases hs : 24 ≤ islandPlace n ∧ islandPlace n ≠ 29 ∧ n < 120
      · obtain ⟨h24, h29, h120⟩ := hs
        exact .inr (hshared h24 h29 h120 hst)
      · exact .inl (.inr (Bool.eq_false_iff.mpr fun h => hs (by simpa [and_assoc] using h)))
  · exact or_iff_not_imp_left.mpr fun h => hoff (not_not.mp h)

/-- Settles O53: the resets by what each clears and keeps, the boot by its answer, and an island by its new state
(log entries 2, 13, 53 and 56). -/
theorem resetsComplete : Obligations.ResetsComplete := by
  unfold Obligations.ResetsComplete
  intro s
  refine ⟨fun d b hd hh => ?_, fun d hh => ?_, fun vf hv hr hq => ?_, ?_, fun k hk hdue => ?_, ?_, fun n st hb hn hne hshared hoff => ?_⟩
  · obtain ⟨u, hu⟩ := computeDieReset_clears b hd hh
    have hdie : ((u.clearDie d).book 0x04 (BitVec.ofNat 8 d) 0 0).die d = { Die.reset with beat := (u.die d).beat, held := true } := by
      rw [State.book_die, State.clearDie_die]
    refine ⟨_, hu, ?_⟩
    rw [hdie]
    refine ⟨rfl, rfl, rfl, rfl, rfl, fun n hn => ?_, State.book_fieldBook _ _ _ _ _⟩
    rw [State.book_core, State.clearDie_core, if_pos hn]
  · obtain ⟨t, ht, hdie, hmem, hgroups⟩ := dieRelink_serves hh
    exact ⟨t, ht, by rw [hdie], by rw [hdie], hmem, hgroups⟩
  · obtain ⟨⟨q, hregs⟩, hlaunches, hmem⟩ := finishVfReset_effect s vf
    refine ⟨_, vfReset_finishes hv hr hq, ?_⟩
    rw [hregs, hlaunches]
    exact ⟨rfl, rfl, rfl, rfl, rfl, rfl, fun l hl => of_decide_eq_true (List.mem_filter.mp hl).2, hmem⟩
  · exact coldReset_clears s
  · rw [exec_bootSourceRetry, execBootSourceRetry, hk]
    exact congrArg Host.Outcome.next (if_pos hdue)
  · obtain ⟨t, ht, hempty⟩ := warmReset_empties s
    refine ⟨t, ht, fun n hn => (hempty (n / 48) (by omega)).1 n rfl, fun d hd => (hempty d hd).2⟩
  · refine ⟨_, islandPowerChange_sets hb (mayChange_of hn hne hshared hoff), ?_, fun m hm => ?_, ?_, fun h120 h24 hst => ?_⟩
    · rw [State.noteStandby_island, State.island_setIsland, if_pos rfl]
    · rw [State.noteStandby_island, State.island_setIsland, if_neg hm, State.leaveIsland_island]
    · rw [State.noteStandby_mem, State.setIsland_mem, (s.leaveIsland_keeps n st).2]
    · subst hst
      rw [State.noteStandby_core, State.setIsland_core, s.leaveIsland_core h120 h24]

end Machine
end Sys2Proof
end

section
/-!
SUPPORT. Pre-emption (R415 to R420): a command that runs, the save and restore routines, and what a save leaves of memory.
-/
namespace Sys2Proof.Machine
open Sys2Proof

@[simp] theorem exec_preemptSave (vf : Nat) (x : W64) (s : State) : exec (.preemptSave vf x) s = execPreemptSave vf x s := rfl
@[simp] theorem exec_preemptSaveOrRequeue (vf : Nat) (x : W64) (s : State) :
    exec (.preemptSaveOrRequeue vf x) s = execPreemptSaveOrRequeue vf x s := rfl
@[simp] theorem exec_preemptEnd (vf : Nat) (x : W64) (s : State) : exec (.preemptEnd vf x) s = execPreemptEnd vf x s := rfl
@[simp] theorem exec_preemptRelease (vf : Nat) (x : W64) (s : State) : exec (.preemptRelease vf x) s = execPreemptRelease vf x s := rfl
@[simp] theorem exec_saveRoutineEnter (u : Nat) (s : State) : exec (.saveRoutineEnter u) s = execSaveRoutineEnter u s := rfl
@[simp] theorem exec_saveComplete (u : Nat) (s : State) : exec (.saveComplete u) s = execSaveComplete u s := rfl
@[simp] theorem exec_restore (u : Nat) (s : State) : exec (.restore u) s = execRestore u s := rfl
@[simp] theorem exec_preemptLate (u : Nat) (s : State) : exec (.preemptLate u) s = execPreemptLate u s := rfl

/-! ## PRECMD (R415) -/

section
variable {s : State} {vf : Nat} {x : W64}

/-- The state in which a command of a function runs. -/
def State.commandRuns (s : State) (vf : Nat) (x : W64) : State := s.setVf vf { s.vf vf with precmd := preWith x 1 }

/-- A launch queue of the function is held or not whatever its command is. -/
theorem State.commandRuns_queue (s : State) (vf : Nat) (x : W64) (n : Nat) :
    ((s.commandRuns vf x).vf vf).queue n = (s.vf vf).queue n := by
  rw [State.commandRuns, State.vf_setVf]
  rfl

section
variable (hs : preStatus (s.vf vf).precmd ≠ 1) (hgo : x.getLsbD 0 = true)
include hs hgo

/-- A write with GO runs its command when no command runs. -/
theorem State.precmd_runs {mode : Nat} (hm : preMode x = mode) (run : State → State) :
    s.precmd vf x mode run = run (s.commandRuns vf x) := by
  simp only [State.precmd, hm, hs, hgo, ne_eq, not_true_eq_false, Bool.not_true, Bool.false_eq_true, if_false]
  rfl

theorem preemptSave_saves (hm : preMode x = 0) : exec (.preemptSave vf x) s =
    .next ((((s.commandRuns vf x).holdQueues vf x).namedParcels vf x).foldl (fun s p => s.beginSave (preAllow x) p)
      ((s.commandRuns vf x).holdQueues vf x)) :=
  congrArg Host.Outcome.next (State.precmd_runs hs hgo hm _)

/-- Whether a parcel is requeued whole and not saved: a subdivisible one whose log has not been committed. -/
def State.requeues (s : State) (p : Parcel) : Bool := (s.launchFor p).hdr.sub && !p.committed && p.state ≠ .saved && !p.isEnded

theorem preemptSaveOrRequeue_saves (hm : preMode x = 1) : exec (.preemptSaveOrRequeue vf x) s =
    .next (let u := (s.commandRuns vf x).holdQueues vf x
      ((u.namedParcels vf x).filter fun p => !u.requeues p).foldl (fun s p => s.beginSave (preAllow x) p)
        (((u.namedParcels vf x).filter u.requeues).foldl (fun s p => s.abortParcel p.uid 5) u)) := by
  refine congrArg Host.Outcome.next ((State.precmd_runs hs hgo hm _).trans ?_)
  dsimp only
  rw [List.partition_eq_filter_filter]
  rfl

theorem preemptEnd_ends (hm : preMode x = 2) : exec (.preemptEnd vf x) s =
    .next (((s.commandRuns vf x).namedParcels vf x).foldl (fun s p => if p.isEnded then s else s.endParcel p.uid none)
      (s.commandRuns vf x)) :=
  congrArg Host.Outcome.next (State.precmd_runs hs hgo hm _)

theorem preemptRelease_releases (hm : preMode x = 3) (hheld : ((preQueues x).filter fun n => ((s.vf vf).queue n).held) ≠ []) :
    exec (.preemptRelease vf x) s = .next (((preQueues x).filter fun n => ((s.vf vf).queue n).held).foldl (fun s n => s.holdQueue vf n false)
      ((s.commandRuns vf x).setVf vf { (s.commandRuns vf x).vf vf with precmd := preWith x 2 })) := by
  refine congrArg Host.Outcome.next ((State.precmd_runs hs hgo hm _).trans ?_)
  simp only [State.commandRuns_queue, List.isEmpty_eq_false_iff.mpr hheld, Bool.false_eq_true, if_false]

end

end

/-! ## What a save leaves of memory (R95, R418) -/

theorem writeBackLines_mem (s : State) (ls : List L1Line) : (s.writeBackLines ls).mem = s.mem := by
  refine foldl_keeps State.mem _ (fun s x => ?_) ls s
  split
  · split <;> rfl
  · rfl

theorem cleanPrivate_mem (s : State) (core g : Nat) : (s.cleanPrivate core g).mem = s.mem := by
  rw [State.cleanPrivate, State.setCore_mem, writeBackLines_mem]

theorem releaseTiles_mem (s : State) (p core : Nat) : (s.releaseTiles p core).mem = s.mem := by
  unfold State.releaseTiles
  dsimp only
  split <;> rfl

/-- The private lines of a group are written back and the group is stored. -/
def State.storeGroup (s : State) (g : Group) : State :=
  let s := s.cleanPrivate g.core g.uid
  s.setGroup ((s.group? g.uid).getD g).store

/-- The groups of a saved parcel are stored, and its tiles and its reservation are given back. -/
def State.storeParcel (s : State) (p : Parcel) : State :=
  let k := (s.launchFor p).hdr.bare
  (k.cores p.core).foldl (fun s c => s.giveBack k c (c = p.core) true) (((s.liveGroups p.uid).foldl State.storeGroup s).releaseTiles p.uid p.core)

theorem State.storeParcel_mem (s : State) (p : Parcel) : (s.storeParcel p).mem = s.mem := by
  have hgroups := foldl_keeps State.mem State.storeGroup (fun s g => cleanPrivate_mem s g.core g.uid) (s.liveGroups p.uid) s
  have hback := foldl_keeps State.mem (fun t c => t.giveBack (s.launchFor p).hdr.bare c (c = p.core) true) (fun _ _ => rfl)
  exact (hback _ _).trans ((releaseTiles_mem _ _ _).trans hgroups)

/-! ## The save routines (R417) -/

section
variable {s : State} {p : Parcel} (hp : s.parcel? p.uid = some p)
include hp

theorem saveRoutineEnter_enters {limit : Nat} {t : State} (hstate : p.state = .saving limit) (hgs : s.liveGroups p.uid ≠ [])
    (hsafe : ∀ g ∈ s.liveGroups p.uid, g.standsSafe = true) (hend : endAllQuanta ((s.liveGroups p.uid).map fun g => g.uid) s = .ok t) :
    let k := (s.launchFor p).hdr
    let u := (t.liveGroups p.uid).foldl (fun s g => (s.touchPrivate g.core g.uid (k.saveBase + 14 * 32) true).setGroup
      ((g.saveCap (k.saveBase + 14 * 32) (g.cap 14)).enterRoutines k true)) t
    exec (.saveRoutineEnter p.uid) s = .next (u.setParcel { (u.parcel? p.uid).getD p with state := .saveRoutines limit }) := by
  have hstop : ((s.liveGroups p.uid).isEmpty || !(s.liveGroups p.uid).all Group.standsSafe) = false := by
    rw [List.isEmpty_eq_false_iff.mpr hgs, List.all_eq_true.mpr hsafe]
    rfl
  simp only [exec_saveRoutineEnter, execSaveRoutineEnter, hp, hstate, hstop, hend, Bool.false_eq_true, if_false]
  rfl

/-! ## The end of a save (R418) -/

theorem saveComplete_saves {limit : Nat} (hstate : p.state = .saveRoutines limit) (hsaved : ∀ g ∈ s.liveGroups p.uid, g.savedAll = true)
    (hcards : ∀ c ∈ (s.pair (p.core / 2)).cards, c.parcel ≠ p.uid ∨ ∃ k, c.state = .stopped k)
    (hops : ∀ o ∈ (s.pair (p.core / 2)).ops, o.parcel ≠ p.uid) :
    exec (.saveComplete p.uid) s = .next (((s.storeParcel p).setParcel { p with state := .saved }).atHead (s.launchFor p).vf (s.launchFor p).queue
      [.saved p.uid]) := by
  have hworks : (((s.pair (p.core / 2)).cards.any fun c => c.parcel = p.uid && !(match c.state with | .stopped _ => true | _ => false)) ||
      (s.pair (p.core / 2)).ops.any fun o => o.parcel = p.uid) = false := by
    rw [Bool.or_eq_false_iff, List.any_eq_false, List.any_eq_false]
    refine ⟨fun c hc => ?_, fun o ho => by simp [hops o ho]⟩
    rcases hcards c hc with hother | ⟨k, hk⟩
    · simp [hother]
    · simp [hk]
  simp only [exec_saveComplete, execSaveComplete, hp, hstate, List.all_eq_true.mpr hsaved, Bool.not_true, Bool.false_or]
  exact congrArg Host.Outcome.next (if_neg (Bool.eq_false_iff.mp hworks))

/-! ## RESTORE (R85, R419) -/

theorem restore_restores (hstate : p.state = .restoring) : exec (.restore p.uid) s =
    .next ((restoreGroups (s.launchFor p).hdr (s.liveGroups p.uid) s).setParcel { p with state := .running }) := by
  simp only [exec_restore, execRestore, hp, hstate, ne_eq, not_true_eq_false, if_false]

/-! ## PREEMPT_LATE (R420) -/

theorem preemptLate_reports {limit : Nat} (hstate : p.state = .saving limit ∨ p.state = .saveRoutines limit) (hdue : limit ≤ s.cycles)
    (hlate : p.late = false) : exec (.preemptLate p.uid) s = .next (((s.post (s.parcelRecord p (preemptLateFault
      ((s.liveGroups p.uid).filter fun g => g.livePaths.any fun x => x.2.safe.isNone).length) 1)).1).setParcel { p with late := true }) := by
  rcases hstate with hstate | hstate <;>
    simp only [exec_preemptLate, execPreemptLate, hp, hstate, hdue, hlate, decide_true, Bool.not_true, Bool.or_self, Bool.false_eq_true, if_false]

end

/-- Settles O52: a command of each mode by what it does with its parcels, and the steps of a save by the parcel that each leaves
(log entry 50). -/
theorem preemptionCompletes : Obligations.PreemptionCompletes := by
  unfold Obligations.PreemptionCompletes
  refine ⟨fun s vf x hstatus hgo => ?_, fun s n p hstate => ?_, fun s p hp => ⟨?_, ?_, ?_, ?_⟩⟩
  · have hs : preStatus (s.vf vf).precmd ≠ 1 := fun h => hstatus (BitVec.eq_of_toNat_eq h)
    exact ⟨preemptSave_saves hs hgo, preemptSaveOrRequeue_saves hs hgo, preemptEnd_ends hs hgo, preemptRelease_releases hs hgo, fun _ => rfl⟩
  · simp only [State.beginSave, hstate]
  · exact fun limit t hstate hgs hsafe hend => saveRoutineEnter_enters hp hstate hgs hsafe hend
  · exact fun limit hstate hsaved hcards hops => ⟨_, saveComplete_saves hp hstate hsaved hcards hops, s.storeParcel_mem p⟩
  · exact restore_restores hp
  · exact fun limit hstate hdue hlate => ⟨_, preemptLate_reports hp hstate hdue hlate, rfl⟩

end Sys2Proof.Machine
end

section
/-!
SUPPORT. Scenes, trees and requests (R110, R111, R365 to R368, R373): the slots that attach a descriptor to a queue, and those that push four
entries at once.
-/
namespace Sys2Proof.Machine
open Sys2Proof

/-! ## Several entries in a queue (R110, R111) -/

/-- A group with entries pushed in turn into a queue. -/
def Group.pushEntries (g : Group) (q : Nat) (xs : List QEntry) : Group := xs.foldl (fun g x => g.pushEntry q x) g

theorem Group.entries_pushEntries (g : Group) (q : Nat) (xs : List QEntry) :
    ((g.pushEntries q xs).queue q).entries = (g.queue q).entries ++ xs := by
  induction xs generalizing g with
  | nil => exact (List.append_nil _).symm
  | cons x xs ih =>
      have hstep : g.pushEntries q (x :: xs) = (g.pushEntry q x).pushEntries q xs := rfl
      rw [hstep, ih, Group.queue_pushEntry, if_pos rfl, List.append_assoc, List.singleton_append]

theorem Group.pushEntries_frame (g : Group) (q : Nat) (xs : List QEntry) : { g.pushEntries q xs with queues := g.queues } = g := by
  have general : ∀ (xs : List QEntry) (g : Group) (t : Tbl Queue), { g.pushEntries q xs with queues := t } = { g with queues := t } := by
    intro xs
    induction xs with
    | nil => exact fun _ _ => rfl
    | cons x xs ih => exact fun g t => ih (g.pushEntry q x) t
  exact general xs g g.queues

/-- The entries of a request: each holds a register of the quad for the lanes of `e`. -/
theorem Ctx.quadEntries_at {c : Ctx} {e : W64} {o : Operand} {cmd : Cmd} {n : Nat} {x : QEntry} (h : (c.quadEntries e o cmd)[n]? = some x) :
    x.mask = e ∧ ∀ l, e.getLsbD l = true → x.at l = c.g.vreg (vregOf o + n) l := by
  rw [Ctx.quadEntries, span_eq_range', List.getElem?_map, Option.map_eq_some_iff] at h
  obtain ⟨i, hi, rfl⟩ := h
  obtain ⟨_, rfl⟩ := List.getElem?_eq_some_iff.mp hi
  rw [List.getElem_range', Nat.one_mul, Nat.zero_add]
  exact ⟨rfl, fun l hl => (get_laneTbl_eq e _ l).trans (if_pos hl)⟩

/-! ## Scenes and trees (R366, R367, R373) -/

section
variable {s : State} {c : Ctx} {f : QForm} {t : State} {g h : Group} {xs : List Src}

/-- The value of a source of a Q-form for the path. -/
def Ctx.pathWord (c : Ctx) (f : QForm) (x : Src) : W64 := x ((lowest (c.enabled f.pg f.pn)).getD 0)

/-- The offset at which a slot names its descriptor, and the fault of one that is malformed. -/
def Ctx.descOffset (c : Ctx) (f : QForm) (xs : List Src) : Nat := (c.pathWord f (xs.headD fun _ => 0)).toNat
def Ctx.descFault (c : Ctx) (f : QForm) (xs : List Src) : FaultInfo := illegalOperand 6 28 (c.descOffset f xs)

/-- How a slot that attaches a scene or a tree begins. -/
def attachStart (c : Ctx) (f : QForm) (port : Nat) : Start :=
  { always := false, access := true, check := fun xs =>
      (faultIf (c.descOffset f xs % 32 ≠ 0) (c.descFault f xs)).or (c.g.inputFault f.qd.toNat port) }

theorem Ctx.attachSlot_attaches {port : Nat} {read : Ctx → Nat → Nat → Nat → FaultInfo → State × Except Stop Attached} {u : State} {a : Attached}
    (b : c.Begins (attachStart c f port) (c.enabled f.pg f.pn) false [] [⟨28, f.desc, .sl, 1⟩] t g h xs false)
    (hr : read (c.put t g) f.cap.toNat (c.descOffset f xs) ((lowest (c.enabled f.pg f.pn)).getD 0) (c.descFault f xs) = (u, .ok a)) :
    .next (slotEnd (c.attachSlot f port read)) =
      doneWith u (h.setQueue f.qd.toNat { h.queue f.qd.toNat with scene := some a }) none none := by
  unfold Ctx.attachSlot
  refine Ctx.enter_completes b ?_
  unfold Ctx.descFault Ctx.descOffset Ctx.pathWord at hr
  simp only [hr]

/-! ## Requests (R365, R367, R368, R373) -/

/-- The sources of a request: the quad, and the word of its flags where it has one. -/
def requestUses (f : QForm) : List Use := quadUse 28 f.desc :: if f.arg.unused then [] else [⟨5, f.arg, .sl, 1⟩]

/-- The word of a request's flags. -/
def Ctx.requestWord (c : Ctx) (f : QForm) (xs : List Src) : W64 := if f.arg.unused then 0 else c.pathWord f (xs.getD 1 fun _ => 0)

/-- How a request begins. -/
def requestStart (c : Ctx) (f : QForm) (port : Nat) (flags trap : W64 → Option FaultInfo) : Start :=
  { always := false, access := true, check := fun xs => (flags (c.requestWord f xs)).or ((c.g.inputFault f.qd.toNat port).or
      ((if (c.g.queue f.qd.toNat).scene.isNone then some (illegalOperand 6 posQd f.qd.toNat) else none).or
        ((c.g.pushFault f.qd.toNat port).or (trap (c.requestWord f xs))))) }

section
variable {port : Nat} {flags trap : W64 → Option FaultInfo}
  (b : c.Begins (requestStart c f port flags trap) (c.enabled f.pg f.pn) false [] (requestUses f) t g h xs false)
  (hbehind : t.behind g.uid = false)
include b hbehind

theorem Ctx.requestSlot_waits (cmd : W64 → Attached → Cmd) (hfull : Config.queueDepth < (h.queue f.qd.toNat).entries.length + 4) :
    (.next (slotEnd (c.requestSlot f port flags trap cmd)) : Host.Outcome State Fault Refusal) =
      .next (slotEnd (.stop t g (.block (.queue f.qd.toNat)))) := by
  unfold Ctx.requestSlot
  refine Ctx.enter_blocks b ?_
  simp only [Ctx.notBehind, Ctx.put_s, Ctx.put_g, hbehind, Bool.false_eq_true, if_false, if_pos hfull]

theorem Ctx.requestSlot_pushes (cmd : W64 → Attached → Cmd) (hroom : (h.queue f.qd.toNat).entries.length + 4 ≤ Config.queueDepth) {a : Attached}
    (ha : (h.queue f.qd.toNat).scene = some a) :
    .next (slotEnd (c.requestSlot f port flags trap cmd)) =
      doneWith t (h.pushEntries f.qd.toNat ((c.put t g).quadEntries (c.enabled f.pg f.pn) f.desc (cmd (c.requestWord f xs) a))) none none := by
  unfold Ctx.requestSlot
  refine Ctx.enter_completes b ?_
  simp only [Ctx.notBehind, Ctx.put_s, Ctx.put_g, hbehind, Nat.not_lt.mpr hroom, ha, Bool.false_eq_true, if_false]
  rfl

end

end

/-! ## The opcodes (R365 to R368, R373) -/

/-- The opcodes that attach a scene or a tree, each with its port and the reading of its descriptor. -/
def attachOpcodes (f : QForm) : List (Instr × Nat × (Ctx → Nat → Nat → Nat → FaultInfo → State × Except Stop Attached)) :=
  [(.scnbind f, 5, fun c r o l x => c.attachScene r o l x), (.ltset f, 8, fun c r o l x => c.attachTree r o l x)]

theorem exec_attachOpcodes {s : State} {c : Ctx} {f : QForm} (hc : s.runs c) {i : Instr} {port : Nat}
    {read : Ctx → Nat → Nat → Nat → FaultInfo → State × Except Stop Attached} (hi : (i, port, read) ∈ attachOpcodes f) :
    exec i s = .next (slotEnd (c.attachSlot f port read)) := by
  simp only [attachOpcodes, List.mem_cons, Prod.mk.injEq, List.not_mem_nil, or_false] at hi
  rcases hi with ⟨rfl, rfl, rfl⟩ | ⟨rfl, rfl, rfl⟩ <;> exact runSlot_runs hc _

/-- The flags of a ray request that are reserved, for any hit the second too. -/
def rayFlags (any : Bool) (w : W64) : Option FaultInfo :=
  if w >>> 2 ≠ 0 || (any && w.getLsbD 1) then some (illegalOperand 6 5 w.toNat) else none

/-- The trap of a request that asks for it where a ray is invalid. -/
def Ctx.rayTrap (c : Ctx) (f : QForm) (w : W64) : Option FaultInfo :=
  if !w.getLsbD 0 then none
  else ((lanes (c.enabled f.pg f.pn)).find? fun l => (c.g.rayOf f.desc l).invalid).map fun l => .mk' 0x0013 0 0 0 0 l

/-- The opcodes that push a request, each with its port, its checks and its command. -/
def requestOpcodes (c : Ctx) (f : QForm) :
    List (Instr × Nat × (W64 → Option FaultInfo) × (W64 → Option FaultInfo) × (W64 → Attached → Cmd)) :=
  [(.rayq f, 5, rayFlags false, c.rayTrap f, fun w a => .ray false w a), (.rays f, 5, rayFlags true, c.rayTrap f, fun w a => .ray true w a),
    (.ltsmp f, 8, fun _ => faultIf f.arg.unused (illegalOperand 3 5 0), fun _ => none, fun w a => .light (w.setWidth 32) a)]

theorem exec_requestOpcodes {s : State} {c : Ctx} {f : QForm} (hc : s.runs c) {i : Instr} {port : Nat} {flags trap : W64 → Option FaultInfo}
    {cmd : W64 → Attached → Cmd} (hi : (i, port, flags, trap, cmd) ∈ requestOpcodes c f) :
    exec i s = .next (slotEnd (c.requestSlot f port flags trap cmd)) := by
  simp only [requestOpcodes, List.mem_cons, Prod.mk.injEq, List.not_mem_nil, or_false] at hi
  rcases hi with ⟨rfl, rfl, rfl, rfl, rfl⟩ | ⟨rfl, rfl, rfl, rfl, rfl⟩ | ⟨rfl, rfl, rfl, rfl, rfl⟩ <;> exact runSlot_runs hc _

end Sys2Proof.Machine
end

section
/-!
SUPPORT. The rendering commands of one entry (R376, R382, R383) and the binding of a texture (R388).
-/
namespace Sys2Proof.Machine
open Sys2Proof

/-- A group with no operation on its way behind it goes on (R127). -/
theorem Ctx.notBehind_of {c : Ctx} (h : c.s.behind c.g.uid = false) (k : Slot) : c.notBehind k = k := by
  rw [Ctx.notBehind, h]
  rfl

/-- A queue with room takes a command of one entry. -/
theorem Ctx.pushCommand_pushes (c : Ctx) (s : State) {h : Group} {q : Nat} (d : Nat) (cmd : Cmd) (semv : Bool) (sem inc : Nat)
    (hq : h.queueFull q = false) : ∃ x : QEntry, c.pushCommand s h q d cmd semv sem inc = .done s (h.pushEntry q x) none none ∧
      x.cmd = some cmd ∧ x.semv = semv ∧ x.sem = sem ∧ x.inc = inc :=
  ⟨_, if_neg (Bool.eq_false_iff.mp hq), rfl, rfl, rfl, rfl⟩

/-- The slot of an instruction pushes one entry with a command into a queue and completes. -/
def Pushes (s : State) (i : Instr) (u : State) (h : Group) (q : Nat) (cmd : Cmd) (semv : Bool) (sem inc : Nat) : Prop :=
  ∃ x : QEntry, exec i s = doneWith u (h.pushEntry q x) none none ∧ x.cmd = some cmd ∧ x.semv = semv ∧ x.sem = sem ∧ x.inc = inc

section
variable {s : State} {c : Ctx} {t : State} {g h : Group} {xs : List Src} (hc : s.runs c)
include hc

section
variable {f : QForm}

/-- How a slot that pushes one command begins: its descriptor stands at a multiple of 64 bytes. -/
def commandStart (c : Ctx) (f : QForm) (port : Nat) (refusal : Option FaultInfo) : Start :=
  { always := false, access := true, pre := refusal, check := fun xs =>
      firstFault [faultIf (c.descOffset f xs % 64 ≠ 0) (c.descFault f xs), c.incFault f, c.g.pushFault f.qd.toNat port] }

theorem reuse_pushes (b : c.Begins (commandStart c f 7 none) (c.enabled f.pg f.pn) false [] [⟨28, f.desc, .sl, 1⟩] t g h xs false)
    (hbehind : t.behind g.uid = false) (hq : h.queueFull f.qd.toNat = false) {u u2 u3 : State} {bs : List Byte} {scene : Attached}
    {count cid : Nat} {entry : W32} {body : List (List W64)}
    (hread : (c.put t g).readDescriptor false f.cap.toNat (g.cap f.cap.toNat) (rRead + rEngine) ((g.cap f.cap.toNat).offset + c.descOffset f xs)
      64 1 ((lowest (c.enabled f.pg f.pn)).getD 0) = (u, .ok bs))
    (hscene : ({ c.put t g with s := u } : Ctx).attachScene f.cap.toNat (ruScene (BitVec.ofNat 512 (natOfBytes bs)))
      ((lowest (c.enabled f.pg f.pn)).getD 0) (capabilityFault 1 f.cap.toNat
        ((g.cap f.cap.toNat).offset + ruScene (BitVec.ofNat 512 (natOfBytes bs))) ((lowest (c.enabled f.pg f.pn)).getD 0)) = (u2, .ok scene))
    (hrect : (u2.rect (c.put t g).die (c.put t g).vf).has (ruTx (BitVec.ofNat 512 (natOfBytes bs)))
      (ruTy (BitVec.ofNat 512 (natOfBytes bs))) = true)
    (hcall : ((c.put t g).launch.image.find? fun x => x.1 = ruCid (BitVec.ofNat 512 (natOfBytes bs))) = some (cid, count, entry))
    (hbody : readBody g.core (c.put t g).vf (c.put t g).launch.text (c.put t g).launch 65 entry.toNat count u2 = (u3, .ok (some body)))
    (hshape : ruShapeFault (c.put t g).parcel (BitVec.ofNat 512 (natOfBytes bs)) (c.descOffset f xs) = none) :
    Pushes s (.reuse f) u3 h f.qd.toNat (.reuse (g.cap f.cap.toNat) (BitVec.ofNat 512 (natOfBytes bs)) (c.put t g).p.fmt scene body)
      f.semv f.sem.toNat f.inc.toNat := by
  obtain ⟨x, hx, hfields⟩ := (c.put t g).pushCommand_pushes u3 (c.descOffset f xs)
    (.reuse (g.cap f.cap.toNat) (BitVec.ofNat 512 (natOfBytes bs)) (c.put t g).p.fmt scene body) f.semv f.sem.toNat f.inc.toNat hq
  refine ⟨x, (runSlot_runs hc _).trans (Ctx.enter_completes b ((Ctx.notBehind_of hbehind _).trans ?_)), hfields⟩
  unfold Ctx.descOffset Ctx.pathWord at hread hshape
  simp only [Ctx.put_g] at hscene ⊢
  simp only [hread, hscene, hrect, hcall, hbody, hshape, Bool.not_true, Bool.false_eq_true, if_false]
  exact hx

theorem gfemb_pushes (b : c.Begins (commandStart c f 0x0E (c.subRefusal 0xDE)) (c.enabled f.pg f.pn) false [] [⟨28, f.desc, .sl, 1⟩] t g h xs false)
    (hbehind : t.behind g.uid = false) (hq : h.queueFull f.qd.toNat = false) {u : State} {w : BitVec 1024}
    (hread : (c.put t g).gfDescriptor f.cap.toNat (c.descOffset f xs) ((lowest (c.enabled f.pg f.pn)).getD 0) gfWellFormed gfRegions
      (c.descFault f xs) = (u, .ok w)) :
    Pushes s (.gfemb f) u h f.qd.toNat (.gfemb (g.cap f.cap.toNat) w (u.visarea (c.put t g).die (c.put t g).vf)) f.semv f.sem.toNat f.inc.toNat := by
  obtain ⟨x, hx, hfields⟩ := (c.put t g).pushCommand_pushes u (c.descOffset f xs)
    (.gfemb (g.cap f.cap.toNat) w (u.visarea (c.put t g).die (c.put t g).vf)) f.semv f.sem.toNat f.inc.toNat hq
  refine ⟨x, (runSlot_runs hc _).trans (Ctx.enter_completes b ((Ctx.notBehind_of hbehind _).trans ?_)), hfields⟩
  unfold Ctx.descFault Ctx.descOffset Ctx.pathWord at hread
  simp only [hread]
  exact hx

/-- The value of a source of SMPBIND. -/
def bindValue (c : Ctx) (f : QForm) (n : Nat) (xs : List Src) : Nat := (c.pathWord f (xs.getD n fun _ => 0)).toNat

/-- How SMPBIND begins. -/
def smpbindStart (c : Ctx) (f : QForm) : Start :=
  { always := false, check := fun xs => firstFault [faultIf (bindValue c f 0 xs % 32 ≠ 0) (illegalOperand 6 28 (bindValue c f 0 xs)),
      faultIf (15 < bindValue c f 1 xs) (illegalOperand 6 5 (bindValue c f 1 xs))] }

theorem smpbind_binds (b : c.Begins (smpbindStart c f) (c.enabled f.pg f.pn) false [] [⟨28, f.desc, .sl, 1⟩, ⟨5, f.arg, .sl, 1⟩] t g h xs false)
    {u u2 : State} {bs : List Byte} {x : Texture} {va : Nat}
    (hread : (c.put t g).readDescriptor false f.cap.toNat (g.cap f.cap.toNat) rRead ((g.cap f.cap.toNat).offset + bindValue c f 0 xs) 32 1
      ((lowest (c.enabled f.pg f.pn)).getD 0) = (u, .ok bs)) (hx : textureOf (g.cap f.cap.toNat) (natOfBytes bs) = some x)
    (hregion : (c.put t g).regionOk u f.cap.toNat (g.cap f.cap.toNat) rRead ((g.cap f.cap.toNat).offset + x.offset)
      (x.hm1 * x.pitch + (x.wm1 + 1) * 8) ((lowest (c.enabled f.pg f.pn)).getD 0) = (u2, .ok va)) :
    exec (.smpbind f) s = doneWith u2 { h with samplers := Tbl.put none h.samplers (bindValue c f 1 xs) (some x) } none none := by
  refine (runSlot_runs hc _).trans (Ctx.enter_completes b ?_)
  unfold bindValue Ctx.pathWord at hread
  simp only [Ctx.put_g, hread, hx, hregion]
  rfl

end

section
variable {f : VForm}

/-- The offset at which GFEDEPTH names its descriptor. -/
def depthOffset (c : Ctx) (f : VForm) (xs : List Src) : Nat := ((xs.headD fun _ => 0) ((lowest (c.enabled f.pg f.pn)).getD 0)).toNat

/-- How GFEDEPTH begins. -/
def gfedepthStart (c : Ctx) (f : VForm) : Start :=
  { always := false, access := true, port := 0x0E, pre := c.subRefusal 0xE8,
    check := fun xs => faultIf (depthOffset c f xs % 64 ≠ 0) (illegalOperand 6 27 (depthOffset c f xs)) }

theorem gfedepth_pushes {n : BitVec 4} (hn : f.dst = .q n)
    (b : c.Begins (gfedepthStart c f) (c.enabled f.pg f.pn) false [dstOf f .onlyQ] (usesOf f 1 .sl) t g h xs false)
    (hbehind : t.behind g.uid = false) (hq : h.queueFull n.toNat = false) {u : State} {w : BitVec 1024}
    (hread : (c.put t g).gfDescriptor (f.x.extractLsb' 0 4).toNat (depthOffset c f xs) ((lowest (c.enabled f.pg f.pn)).getD 0) gfWellFormed
      (fun w => [gfBuffer w, gfPyramid w]) (illegalOperand 6 27 (depthOffset c f xs)) = (u, .ok w)) :
    Pushes s (.gfedepth f) u h n.toNat (.gfedepth (g.cap (f.x.extractLsb' 0 4).toNat) w) false 0 0 := by
  obtain ⟨x, hx, hfields⟩ := (c.put t g).pushCommand_pushes u (depthOffset c f xs) (.gfedepth (g.cap (f.x.extractLsb' 0 4).toNat) w) false 0 0 hq
  refine ⟨x, (runSlot_runs hc _).trans (Ctx.enter_completes b ((Ctx.notBehind_of hbehind _).trans ?_)), hfields⟩
  unfold depthOffset at hread
  simp only [hread, hn]
  exact hx

end

end

end Sys2Proof.Machine
end

section
/-!
SUPPORT. Samples (R281, R389): the texels that the lanes need, read as they stand, and the pending write that they leave.
-/
namespace Sys2Proof.Machine
open Sys2Proof

/-! ## Reads through the L1 (R93, R95, R128) -/

theorem placeL1_mem (s : State) (core : Nat) (rest : List L1Line) (x : L1Line) : (s.placeL1 core rest x).mem = s.mem := by
  unfold State.placeL1
  split
  · rfl
  · rw [writeBackLines_mem, State.setCore_mem]

theorem readCached_mem (s : State) (core cell n : Nat) (hint : BitVec 2) : (s.readCached core cell n hint).1.mem = s.mem := by
  unfold State.readCached
  split
  · rfl
  · unfold State.fillL1
    dsimp only
    split
    · exact touchL2_mem s cell hint false
    · rw [placeL1_mem, touchL2_mem]

theorem crossNow_mem {s t : State} {c : Nat} {w : List Nat} (h : s.crossNow c w = some t) : t.mem = s.mem := by
  obtain ⟨l, rfl⟩ := crossNow_frame h
  rfl

theorem crossReads_mem {g : Group} {cached : Bool} {out : Nat} {as : List LaneAcc} {s t : State} (h : crossReads g cached out as s = some t) :
    t.mem = s.mem := by
  induction as generalizing s with
  | nil => exact congrArg State.mem (Option.some.inj h).symm
  | cons x as ih =>
      rw [crossReads] at h
      split at h
      · exact ih h
      · obtain ⟨u, hu, h⟩ := Option.bind_eq_some_iff.mp h
        obtain ⟨v, hv, h⟩ := Option.bind_eq_some_iff.mp h
        exact (ih h).trans ((crossNow_mem hv).trans (crossNow_mem hu))

theorem readNow_mem {s t : State} {g : Group} {cached : Bool} {out n : Nat} {as : List LaneAcc} (h : s.readNow g cached out n as = .ok t) :
    t.mem = s.mem := by
  unfold State.readNow at h
  split at h
  · cases h
  · split at h
    · rename_i u hu
      cases h
      exact crossReads_mem hu
    · cases h

/-! ## The lanes of a sample (R389) -/

/-- The data of a lane are at hand: nothing of them crosses a link. -/
def LaneSource.atHand (x : LaneSource) : Prop := ∀ (s : State) (g : Group), s.laneWay g x = []

theorem LaneSource.atHand_value (ws : List W64) : (LaneSource.value ws).atHand := fun _ _ => rfl
theorem LaneSource.atHand_failed (f : FaultInfo) : (LaneSource.failed f).atHand := fun _ _ => rfl

section
variable (c : Ctx) (combine : List (Nat × W64) → W64) (as : List LaneAcc)

theorem Ctx.sampleLane_gives (s : State) (lane : Nat) (taps : List Tap) : (c.sampleLane s combine lane taps as).1.mem = s.mem ∧
    (c.sampleLane s combine lane taps as).2.1 = lane ∧ (c.sampleLane s combine lane taps as).2.2.atHand := by
  unfold Ctx.sampleLane
  dsimp only
  split
  · exact ⟨rfl, rfl, LaneSource.atHand_failed _⟩
  · refine ⟨?_, rfl, LaneSource.atHand_value _⟩
    refine List.foldlRecOn (motive := fun a : State × List (Nat × W64) × List LaneAcc => a.1.mem = s.mem) taps _ rfl fun a ha p _ => ?_
    split
    · exact (readCached_mem _ _ _ _ _).trans ha
    · exact ha

/-- Sampling the lanes in turn leaves memory as it is and gives each lane data that are at hand. -/
theorem Ctx.sampleLanes_gives (per : List (Nat × List Tap)) (s : State) : (c.sampleLanes combine as s per).1.mem = s.mem ∧
    (c.sampleLanes combine as s per).2.map Prod.fst = per.map Prod.fst ∧ ∀ y ∈ (c.sampleLanes combine as s per).2, y.2.atHand := by
  induction per generalizing s with
  | nil => exact ⟨rfl, rfl, fun _ hy => absurd hy List.not_mem_nil⟩
  | cons x per ih =>
      obtain ⟨hmem, hlane, hhand⟩ := c.sampleLane_gives combine as s x.1 x.2
      obtain ⟨hmems, hlanes, hhands⟩ := ih (c.sampleLane s combine x.1 x.2 as).1
      rw [Ctx.sampleLanes]
      refine ⟨hmems.trans hmem, ?_, fun y hy => ?_⟩
      · rw [List.map_cons, List.map_cons, hlanes, hlane]
      · rcases List.mem_cons.mp hy with rfl | hy
        · exact hhand
        · exact hhands y hy

end

/-- A load whose data are at hand sends nothing over a link and leaves its pending write. -/
theorem Ctx.issueLoad_atHand (c : Ctx) (s : State) {g : Group} (ty : ElemType) (dst : PendDst) {src : List (Nat × LaneSource)}
    (hl : g.loads < Config.loadLimit) (hh : ∀ y ∈ src, y.2.atHand) : ∃ p : Pending,
      c.issueLoad s g ty dst src = .done s.fresh.1 { g with pending := g.pending ++ [p] } (some []) none ∧ p.kind = .load ∧ p.lanes = src := by
  have hways : s.loadWays g src = [] := by
    have hnone : ((src.map fun x => s.laneWay g x.2).filter fun w => !w.isEmpty) = [] := by
      rw [List.filter_eq_nil_iff]
      intro w hw
      obtain ⟨y, hy, rfl⟩ := List.mem_map.mp hw
      rw [hh y hy s g]
      exact Bool.false_ne_true
    rw [State.loadWays, hnone]
    rfl
  unfold Ctx.issueLoad
  rw [hways]
  exact ⟨_, (if_neg (Nat.not_le.mpr hl)).trans (if_neg Bool.false_ne_true), rfl, rfl⟩

/-! ## SMPT and SMPB (R389) -/

/-- Sources of kinds without queues pop nothing. -/
theorem takeSources_group {r : ClauseRun} {us : List Use} {g h : Group} {xs : List Src} (hq : ∀ u ∈ us, u.queue? = none)
    (hs : takeSources r g us = .ok (h, xs)) : h = g := by
  induction us generalizing xs with
  | nil =>
      cases hs
      rfl
  | cons u us ih =>
      have hrest : ∀ ys, takeSources r g us = .ok (h, ys) → h = g := fun _ => ih fun v hv => hq v (List.mem_cons_of_mem _ hv)
      have hu := hq u List.mem_cons_self
      unfold takeSources at hs
      unfold Use.queue? at hu
      cases hop : u.op with
      | q n => simp [hop] at hu
      | _ =>
          simp only [hop] at hs
          split at hs
          · cases hs
            exact hrest _ ‹_›
          · cases hs

/-- How a sample of the texture `x` begins. -/
def sampleStart (f : VForm) (x : Texture) : Start :=
  { always := false, pre := faultIf (x.ty ≠ f.ty) (illegalOperand 6 0 (f.x.extractLsb' 0 4).toNat) }

/-- Where the samples of the lanes go. -/
def sampleDst (f : VForm) : PendDst := match f.dst with
  | .v r => .vregs r.toNat 1
  | .q r => .queue r.toNat
  | _ => .nothing

/-- The texels that each lane of a sample needs. -/
def sampleTaps (c : Ctx) (f : VForm) (taps : Texture → W64 → List Tap) (x : Texture) (xs : List Src) : List (Nat × List Tap) :=
  (lanes (c.enabled f.pg f.pn)).map fun l => (l, taps x ((xs.headD fun _ => 0) l))

/-- Their offsets in the object of the texture. -/
def tapPoints (x : Texture) (per : List (Nat × List Tap)) : List (Nat × Nat) :=
  (per.map fun y => y.2.filterMap fun p => p.place.map fun b => (y.1, x.cap.offset + b)).flatten

section
variable {c : Ctx} {f : VForm} {t u w : State} {g h : Group} {xs : List Src} {x : Texture} {as : List LaneAcc}
  {taps : Texture → W64 → List Tap}

theorem Ctx.sample_pends (combine : ElemType → List (Nat × W64) → W64) (hx : Tbl.get none c.g.samplers (f.x.extractLsb' 0 4).toNat = some x)
    (b : c.Begins (sampleStart f x) (c.enabled f.pg f.pn) false [dstOf f .vq] (usesOf f 1 .vsl) t g h xs)
    (hres : (c.put t g).resolve .read 0 x.cap rRead 8 8 (tapPoints x (sampleTaps c f taps x xs)) = (u, .ok as))
    (hload : h.loads < Config.loadLimit) (hnow : u.readNow h true clsControl 8 as = .ok w) :
    ∃ p : Pending, .next (slotEnd (c.sample f taps combine)) =
        doneWith ((c.put t g).sampleLanes (combine x.ty) as w (sampleTaps c f taps x xs)).1.fresh.1 { h with pending := h.pending ++ [p] } (some []) none ∧
      p.kind = .load ∧ p.lanes = ((c.put t g).sampleLanes (combine x.ty) as w (sampleTaps c f taps x xs)).2 := by
  have hfields : ∀ v ∈ usesOf f 1 .vsl, v.queue? = none := by
    intro v hv
    have hall := List.findSome?_eq_none_iff.mp b.fields v (List.mem_append_right _ hv)
    refine Use.queue?_of_fault ?_ hall
    rw [usesOf, List.take_succ_cons, List.take_zero, List.mem_singleton] at hv
    rw [hv]
    rfl
  obtain rfl := takeSources_group hfields b.sources
  obtain ⟨_, _, hhand⟩ := (c.put t h).sampleLanes_gives (combine x.ty) as (sampleTaps c f taps x xs) w
  obtain ⟨p, hp, hkind, hlanes⟩ := (c.put t h).issueLoad_atHand ((c.put t h).sampleLanes (combine x.ty) as w (sampleTaps c f taps x xs)).1 .n64
    (sampleDst f) hload hhand
  refine ⟨p, ?_, hkind, hlanes⟩
  unfold Ctx.sample
  simp only [hx]
  refine Ctx.enter_completes b ?_
  unfold tapPoints sampleTaps at hres
  simp only [hres, Ctx.put_g, Nat.not_le.mpr hload, if_false, hnow]
  exact hp

end

/-- The opcodes that sample a texture, each with its texels and its filter. -/
def sampleOpcodes (f : VForm) : List (Instr × (Texture → W64 → List Tap) × (ElemType → List (Nat × W64) → W64)) :=
  [(.smpt f, Texture.pointTaps, fun _ xs => ((xs.head?).map fun x => x.2).getD 0), (.smpb f, Texture.bilinearTaps, filterWord)]

theorem exec_sampleOpcodes {s : State} {c : Ctx} {f : VForm} (hc : s.runs c) {i : Instr} {taps : Texture → W64 → List Tap}
    {combine : ElemType → List (Nat × W64) → W64} (hi : (i, taps, combine) ∈ sampleOpcodes f) :
    exec i s = .next (slotEnd (c.sample f taps combine)) := by
  simp only [sampleOpcodes, List.mem_cons, Prod.mk.injEq, List.not_mem_nil, or_false] at hi
  rcases hi with ⟨rfl, rfl, rfl⟩ | ⟨rfl, rfl, rfl⟩ <;> exact runSlot_runs hc _

/-- The lanes of a sample are the executing ones. -/
theorem sampleTaps_lanes (c : Ctx) (f : VForm) (taps : Texture → W64 → List Tap) (x : Texture) (xs : List Src) :
    (sampleTaps c f taps x xs).map Prod.fst = lanes (c.enabled f.pg f.pn) := by
  rw [sampleTaps, List.map_map]
  exact List.map_id' _

/-- Settles O40: the slots that attach and those that push a request, by their lists of opcodes; each rendering command by its one entry, SMPBIND
by its sampler, and the samples by the pending write that they leave (log entries 17 and 25). -/
theorem sceneAndRenderingCommands : Obligations.SceneAndRenderingCommands := by
  unfold Obligations.SceneAndRenderingCommands
  refine ⟨?_, ?_⟩
  · intro s c f t g h xs hc e l q d
    refine ⟨?_, ?_⟩
    · intro i port read hi at' b u a hread
      exact (exec_attachOpcodes hc hi).trans (Ctx.attachSlot_attaches b hread)
    · intro i port flags trap cmd rayFlags rayTrap hi value b hbehind a ha
      have hexec := exec_requestOpcodes hc hi
      refine ⟨fun hfull => hexec.trans (Ctx.requestSlot_waits b hbehind cmd hfull), fun hroom =>
        ⟨_, _, hexec.trans (Ctx.requestSlot_pushes b hbehind cmd hroom ha), Group.entries_pushEntries _ _ _, rfl, rfl,
          Group.pushEntries_frame _ _ _, fun n x hx => Ctx.quadEntries_at hx⟩⟩
  · intro s c t g h xs hc d
    refine ⟨?_, ?_⟩
    · intro f e l q reg k off pushes
      refine ⟨?_, ?_, ?_⟩
      · intro b hbehind hq u u2 u3 bs scene count cid entry body w hread hscene hrect hcall hbody hshape
        exact reuse_pushes hc b hbehind hq hread hscene hrect hcall hbody hshape
      · exact fun b hbehind hq u w hread => gfemb_pushes hc b hbehind hq hread
      · intro val b u bs x u2 va hread hx hregion
        exact smpbind_binds hc b hread hx hregion
    · intro f e l
      refine ⟨?_, ?_⟩
      · intro n hn reg off b hbehind hq u w hread
        obtain ⟨x, hexec, hcmd, hsemv, _⟩ := gfedepth_pushes hc hn b hbehind hq hread
        exact ⟨x, hexec, hcmd, hsemv⟩
      · intro i taps combine x hi n hx _ b per u as hres hload w hnow
        obtain ⟨p, hexec, hkind, hlanes⟩ := Ctx.sample_pends combine hx b hres hload hnow
        obtain ⟨hmem, hfst, _⟩ := (c.put t g).sampleLanes_gives (combine x.ty) as per w
        exact ⟨_, _, p, rfl, (exec_sampleOpcodes hc hi).trans hexec, hkind, hlanes, hfst.trans (sampleTaps_lanes c f taps x xs),
          hmem.trans (readNow_mem hnow)⟩

end Sys2Proof.Machine
end
